-- ==== Sys2Proof/Word.lean ====
section
/-! DEFINITION. The machine's word types (00_scope.md R8, 03_number_formats.md R40). -/
namespace Sys2Proof

/-- A byte of scratch or of global memory. -/
abbrev Byte := BitVec 8
/-- A 16-bit half word. -/
abbrev Half := BitVec 16
/-- A general register, a Prerin word. -/
abbrev Word := BitVec 32
/-- A register pair, a native word, a global virtual address. -/
abbrev DWord := BitVec 64

end Sys2Proof
end

