-- ==== Sys2Proof/Fields.lean ====
section
/-! DEFINITION. The instruction forms of Table 4-7 and the fields an instruction word carries. -/
namespace Sys2Proof

/-- The 160 instruction forms (Table 4-7; xbar's four modes of M[1:0] are forms of their own, R231). -/
inductive Op where
  | ill | mov | movh | add | sub | addx | subx | mul | mulhi | mad | madhi | mulw | madw | min
  | max | abs | and | or | xor | andn | lop3 | shl | shr | sar | rot | fsh | bfx | bfi | popc
  | clz | ctz | brev | bperm | sel | cmp | lea | sad | dot4 | dot2 | vadd2 | vsub2 | vmax2
  | vmin2 | plop | pmov | fadd | fsub | fmul | ffma | fmin | fmax | fcmp | fclamp | frnd | hadd2
  | hmul2 | hfma2 | hmin2 | hmax2 | hcmp2 | fdot2 | cvt | cvtpk | unpk | q4enc | q4dec | frcp
  | frsq | fsqrt | fex2 | flg2 | fsin | fcos | ftanh | fact | atld | atsel | shfl | vote | matchk
  | redux | redix | scan | setpart | actv | lds | sts | ldsa | stsr | atms | ldw | fence | bar
  | xbarInit | xbarArrive | xbarWait | xbarInval | cpy | cpyg | cpys | cpyr | ldg | stg | atmg
  | cqjoin | smap | ssync | sinv | sclose | pref | hld | hst | hset | hget | hcpy | hadv | mclr
  | mtile | mcvt | mld | mexp | mstat | mfmt | tspawn | qrsv | qenq | qdeq | qtry | qsteal
  | qerr | qrest | qstat | succ | wvis | rsurr | rclaim | rstart | rchild | rdone | rret | rres
  | rinfo | rbase | rabort | bra | brx | call | callx | ret | exit | yield | nop | trap | tret
  | sysc | srd | swr | bkpt | ackn | wflg
  deriving DecidableEq, Repr

/-- The fields of an F word below its opcode (R67 Table 4-1). With `m` bit 11 set, imm16 is `b` then `c` (R69). -/
structure Fields where
  guard : BitVec 4
  d : Byte
  a : Byte
  b : Byte
  c : Byte
  m : BitVec 12
  sf : Bool
  fs : Bool
  deriving DecidableEq, Repr

/-- A Prerin instruction (R85, R86): which of the REG and MOD prefixes stand before the word, the fields they and the
word supply, and the flag number that MOD names. An IMM prefix stands exactly when `f.m` bit 11 is set. -/
structure PFields where
  reg : Bool
  mod : Bool
  f : Fields
  flag : BitVec 4
  deriving DecidableEq, Repr

/-- One half of a P word (R71 Table 4-2). -/
structure HalfFields where
  op : BitVec 7
  guard : BitVec 3
  d : Byte
  b : Byte
  mod : BitVec 5
  deriving DecidableEq, Repr

/-- The fields of an H word (R76 Table 4-4). -/
structure HFields where
  wait : BitVec 12
  fa : BitVec 4
  fb : BitVec 4
  len : BitVec 5
  yld : Bool
  deriving DecidableEq, Repr

end Sys2Proof
end

