-- ==== Sys2Proof/Machine/OpTable.lean ====
section
/-! DEFINITION. The encoding tables: opcode, immediate rule, modifier bits, types, operand kinds and the checks of each
entry that depend on the word alone (Tables 4-6, 4-7, 5-1, 6-1, 7-1, 9-1, 10-3, 13-4; R424). -/
namespace Sys2Proof

/-- The opcode of a form (Table 4-7). -/
def Op.code : Op → Nat
  | .ill => 0x000
  | .mov => 0x001
  | .movh => 0x002
  | .add => 0x003
  | .sub => 0x004
  | .addx => 0x005
  | .subx => 0x006
  | .mul => 0x007
  | .mulhi => 0x008
  | .mad => 0x009
  | .madhi => 0x00A
  | .mulw => 0x00B
  | .madw => 0x00C
  | .min => 0x00D
  | .max => 0x00E
  | .abs => 0x00F
  | .and => 0x010
  | .or => 0x011
  | .xor => 0x012
  | .andn => 0x013
  | .lop3 => 0x014
  | .shl => 0x015
  | .shr => 0x016
  | .sar => 0x017
  | .rot => 0x018
  | .fsh => 0x019
  | .bfx => 0x01A
  | .bfi => 0x01B
  | .popc => 0x01C
  | .clz => 0x01D
  | .ctz => 0x01E
  | .brev => 0x01F
  | .bperm => 0x020
  | .sel => 0x021
  | .cmp => 0x022
  | .lea => 0x023
  | .sad => 0x024
  | .dot4 => 0x025
  | .dot2 => 0x026
  | .vadd2 => 0x027
  | .vsub2 => 0x028
  | .vmax2 => 0x029
  | .vmin2 => 0x02A
  | .plop => 0x02B
  | .pmov => 0x02C
  | .fadd => 0x040
  | .fsub => 0x041
  | .fmul => 0x042
  | .ffma => 0x043
  | .fmin => 0x044
  | .fmax => 0x045
  | .fcmp => 0x046
  | .fclamp => 0x047
  | .frnd => 0x048
  | .hadd2 => 0x049
  | .hmul2 => 0x04A
  | .hfma2 => 0x04B
  | .hmin2 => 0x04C
  | .hmax2 => 0x04D
  | .hcmp2 => 0x04E
  | .fdot2 => 0x04F
  | .cvt => 0x080
  | .cvtpk => 0x081
  | .unpk => 0x082
  | .q4enc => 0x083
  | .q4dec => 0x084
  | .frcp => 0x085
  | .frsq => 0x086
  | .fsqrt => 0x087
  | .fex2 => 0x088
  | .flg2 => 0x089
  | .fsin => 0x08A
  | .fcos => 0x08B
  | .ftanh => 0x08C
  | .fact => 0x08D
  | .atld => 0x08E
  | .atsel => 0x08F
  | .shfl => 0x0C0
  | .vote => 0x0C1
  | .matchk => 0x0C2
  | .redux => 0x0C3
  | .redix => 0x0C4
  | .scan => 0x0C5
  | .setpart => 0x0C6
  | .actv => 0x0C7
  | .lds => 0x100
  | .sts => 0x101
  | .ldsa => 0x102
  | .stsr => 0x103
  | .atms => 0x104
  | .ldw => 0x105
  | .fence => 0x106
  | .bar => 0x107
  | .xbarInit => 0x108
  | .xbarArrive => 0x108
  | .xbarWait => 0x108
  | .xbarInval => 0x108
  | .cpy => 0x180
  | .cpyg => 0x181
  | .cpys => 0x182
  | .cpyr => 0x183
  | .ldg => 0x184
  | .stg => 0x185
  | .atmg => 0x186
  | .cqjoin => 0x187
  | .smap => 0x188
  | .ssync => 0x189
  | .sinv => 0x18A
  | .sclose => 0x18B
  | .pref => 0x18C
  | .hld => 0x200
  | .hst => 0x201
  | .hset => 0x202
  | .hget => 0x203
  | .hcpy => 0x204
  | .hadv => 0x205
  | .mclr => 0x240
  | .mtile => 0x241
  | .mcvt => 0x242
  | .mld => 0x243
  | .mexp => 0x244
  | .mstat => 0x245
  | .mfmt => 0x246
  | .tspawn => 0x280
  | .qrsv => 0x281
  | .qenq => 0x282
  | .qdeq => 0x283
  | .qtry => 0x284
  | .qsteal => 0x285
  | .qerr => 0x286
  | .qrest => 0x287
  | .qstat => 0x288
  | .succ => 0x289
  | .wvis => 0x28A
  | .rsurr => 0x28B
  | .rclaim => 0x28C
  | .rstart => 0x2C0
  | .rchild => 0x2C1
  | .rdone => 0x2C2
  | .rret => 0x2C3
  | .rres => 0x2C4
  | .rinfo => 0x2C5
  | .rbase => 0x2C6
  | .rabort => 0x2C7
  | .bra => 0x300
  | .brx => 0x301
  | .call => 0x302
  | .callx => 0x303
  | .ret => 0x304
  | .exit => 0x305
  | .yield => 0x306
  | .nop => 0x307
  | .trap => 0x340
  | .tret => 0x341
  | .sysc => 0x342
  | .srd => 0x343
  | .swr => 0x344
  | .bkpt => 0x345
  | .ackn => 0x346
  | .wflg => 0x347

/-- Table 4-7, part 1. -/
def opList1 : List (Nat × Op) :=
  [(0x000, .ill), (0x001, .mov), (0x002, .movh), (0x003, .add), (0x004, .sub), (0x005, .addx),
   (0x006, .subx), (0x007, .mul), (0x008, .mulhi), (0x009, .mad), (0x00A, .madhi), (0x00B, .mulw),
   (0x00C, .madw), (0x00D, .min), (0x00E, .max), (0x00F, .abs), (0x010, .and), (0x011, .or),
   (0x012, .xor), (0x013, .andn), (0x014, .lop3), (0x015, .shl), (0x016, .shr), (0x017, .sar),
   (0x018, .rot), (0x019, .fsh), (0x01A, .bfx), (0x01B, .bfi), (0x01C, .popc), (0x01D, .clz),
   (0x01E, .ctz), (0x01F, .brev), (0x020, .bperm), (0x021, .sel), (0x022, .cmp), (0x023, .lea),
   (0x024, .sad), (0x025, .dot4), (0x026, .dot2), (0x027, .vadd2)]

/-- Table 4-7, part 2. -/
def opList2 : List (Nat × Op) :=
  [(0x028, .vsub2), (0x029, .vmax2), (0x02A, .vmin2), (0x02B, .plop), (0x02C, .pmov), (0x040, .fadd),
   (0x041, .fsub), (0x042, .fmul), (0x043, .ffma), (0x044, .fmin), (0x045, .fmax), (0x046, .fcmp),
   (0x047, .fclamp), (0x048, .frnd), (0x049, .hadd2), (0x04A, .hmul2), (0x04B, .hfma2), (0x04C, .hmin2),
   (0x04D, .hmax2), (0x04E, .hcmp2), (0x04F, .fdot2), (0x080, .cvt), (0x081, .cvtpk), (0x082, .unpk),
   (0x083, .q4enc), (0x084, .q4dec), (0x085, .frcp), (0x086, .frsq), (0x087, .fsqrt), (0x088, .fex2),
   (0x089, .flg2), (0x08A, .fsin), (0x08B, .fcos), (0x08C, .ftanh), (0x08D, .fact), (0x08E, .atld),
   (0x08F, .atsel), (0x0C0, .shfl), (0x0C1, .vote), (0x0C2, .matchk)]

/-- Table 4-7, part 3. -/
def opList3 : List (Nat × Op) :=
  [(0x0C3, .redux), (0x0C4, .redix), (0x0C5, .scan), (0x0C6, .setpart), (0x0C7, .actv), (0x100, .lds),
   (0x101, .sts), (0x102, .ldsa), (0x103, .stsr), (0x104, .atms), (0x105, .ldw), (0x106, .fence),
   (0x107, .bar), (0x108, .xbarInit), (0x108, .xbarArrive), (0x108, .xbarWait), (0x108, .xbarInval),
   (0x180, .cpy), (0x181, .cpyg), (0x182, .cpys), (0x183, .cpyr), (0x184, .ldg), (0x185, .stg),
   (0x186, .atmg), (0x187, .cqjoin), (0x188, .smap), (0x189, .ssync), (0x18A, .sinv), (0x18B, .sclose),
   (0x18C, .pref), (0x200, .hld), (0x201, .hst), (0x202, .hset), (0x203, .hget), (0x204, .hcpy),
   (0x205, .hadv), (0x240, .mclr), (0x241, .mtile), (0x242, .mcvt), (0x243, .mld)]

/-- Table 4-7, part 4. -/
def opList4 : List (Nat × Op) :=
  [(0x244, .mexp), (0x245, .mstat), (0x246, .mfmt), (0x280, .tspawn), (0x281, .qrsv), (0x282, .qenq),
   (0x283, .qdeq), (0x284, .qtry), (0x285, .qsteal), (0x286, .qerr), (0x287, .qrest), (0x288, .qstat),
   (0x289, .succ), (0x28A, .wvis), (0x28B, .rsurr), (0x28C, .rclaim), (0x2C0, .rstart), (0x2C1, .rchild),
   (0x2C2, .rdone), (0x2C3, .rret), (0x2C4, .rres), (0x2C5, .rinfo), (0x2C6, .rbase), (0x2C7, .rabort),
   (0x300, .bra), (0x301, .brx), (0x302, .call), (0x303, .callx), (0x304, .ret), (0x305, .exit),
   (0x306, .yield), (0x307, .nop), (0x340, .trap), (0x341, .tret), (0x342, .sysc), (0x343, .srd),
   (0x344, .swr), (0x345, .bkpt), (0x346, .ackn), (0x347, .wflg)]

/-- Every form with its opcode, in table order; xbar's four forms share 0x108. -/
def opList : List (Nat × Op) := opList1 ++ opList2 ++ opList3 ++ opList4

/-- The first form listed under an opcode. -/
def lookupOp (code : Nat) : List (Nat × Op) → Option Op
  | [] => none
  | (c, o) :: l => if code = c then some o else lookupOp code l

/-- The form an opcode and the low modifier bits name; none for a reserved opcode (R92). M[1:0] selects the mode of
xbar (R231). -/
def opOf (code mode : Nat) : Option Op :=
  if code = 0x108 then
    (match mode with
     | 0 => some .xbarInit
     | 1 => some .xbarArrive
     | 2 => some .xbarWait
     | _ => some .xbarInval)
  else lookupOp code opList

/-- The mode bits that xbar's forms carry in M[1:0]. -/
def Op.mode : Op → Option Nat
  | .xbarInit => some 0
  | .xbarArrive => some 1
  | .xbarWait => some 2
  | .xbarInval => some 3
  | _ => none

/-- Whether an immediate is forbidden, optional or required (R69). -/
inductive ImmRule where | no | opt | req
  deriving DecidableEq, Repr

/-- The immediate column of the encoding tables. -/
def Op.imm : Op → ImmRule
  | .ill | .mov | .movh | .add | .sub | .addx | .subx | .mul | .mulhi | .mulw | .min | .max | .and | .or
  | .xor | .andn | .shl | .shr | .sar | .rot | .bfx | .bperm | .sel | .cmp | .lea | .vadd2 | .vsub2
  | .vmax2 | .vmin2 | .fadd | .fsub | .fmul | .fmin | .fmax | .fcmp | .hadd2 | .hmul2 | .hmin2 | .hmax2
  | .hcmp2 | .shfl | .lds | .sts | .ldsa | .stsr | .xbarInit | .xbarArrive | .ldg | .hadv | .mclr
  | .rres | .rabort | .nop | .trap | .bkpt => .opt
  | .mad | .madhi | .madw | .abs | .lop3 | .fsh | .bfi | .popc | .clz | .ctz | .brev | .sad | .dot4
  | .dot2 | .plop | .pmov | .ffma | .fclamp | .frnd | .hfma2 | .fdot2 | .cvt | .cvtpk | .unpk | .q4enc
  | .q4dec | .frcp | .frsq | .fsqrt | .fex2 | .flg2 | .fsin | .fcos | .ftanh | .fact | .atsel | .vote
  | .matchk | .redux | .redix | .scan | .actv | .atms | .fence | .bar | .xbarWait | .xbarInval | .cpy
  | .cpyg | .cpys | .cpyr | .stg | .atmg | .cqjoin | .smap | .ssync | .sinv | .sclose | .hset | .hget
  | .hcpy | .mtile | .mcvt | .mstat | .mfmt | .tspawn | .qrsv | .qenq | .qdeq | .qtry | .qsteal | .qrest
  | .qstat | .succ | .wvis | .rstart | .rchild | .rdone | .rret | .rinfo | .rbase | .bra | .brx | .call
  | .callx | .ret | .exit | .yield | .tret | .srd | .swr | .ackn => .no
  | .atld | .setpart | .ldw | .pref | .hld | .hst | .mld | .mexp | .qerr | .rsurr | .rclaim | .sysc
  | .wflg => .req

/-- The modifier bits that the encoding tables give a form, M[11] apart. -/
def Op.mmask : Op → BitVec 12
  | .ill => 0xFFF#12
  | .mov | .mul | .mulhi | .mad | .madhi | .mulw | .madw | .min | .max | .and | .or | .xor | .andn
  | .bfx | .bfi | .popc | .clz | .ctz | .brev | .sad | .vmax2 | .vmin2 | .frnd | .frcp | .fsqrt => 0x700#12
  | .movh | .fmin | .fmax | .fclamp | .frsq | .fex2 | .flg2 | .fsin | .fcos | .ftanh | .fact | .setpart
  | .smap | .ssync | .sinv | .sclose | .hst | .hcpy | .mclr | .mld | .mexp | .mstat | .qdeq | .qtry
  | .qsteal | .qerr | .qrest | .qstat | .succ | .wvis | .rsurr | .rstart | .rchild | .rdone | .rret
  | .rres | .rinfo | .rbase | .rabort | .bra | .brx | .call | .callx | .ret | .exit | .yield | .nop
  | .trap | .tret | .sysc | .bkpt | .ackn | .wflg => 0x000#12
  | .add | .sub | .abs | .shl | .shr | .sar | .vadd2 | .vsub2 | .fadd | .fsub | .fmul | .fdot2 | .matchk => 0x701#12
  | .addx | .subx => 0x77F#12
  | .lop3 | .cmp | .cvt | .atms | .atmg => 0x7FF#12
  | .rot => 0x702#12
  | .fsh | .hadd2 | .hmul2 | .hfma2 | .redix => 0x703#12
  | .bperm | .vote | .cqjoin | .hld | .hset | .hget | .mtile | .mcvt => 0x00F#12
  | .sel | .redux => 0x70F#12
  | .lea | .ffma | .q4dec | .ldw => 0x707#12
  | .dot4 | .dot2 | .q4enc | .ldsa | .stsr | .cpy | .cpyg | .cpys => 0x007#12
  | .plop | .pmov => 0x0FF#12
  | .fcmp => 0x1FF#12
  | .hmin2 | .hmax2 | .atld | .actv | .mfmt | .tspawn | .qrsv | .qenq | .rclaim => 0x001#12
  | .hcmp2 => 0x01F#12
  | .cvtpk | .lds | .sts | .ldg | .stg => 0x7FB#12
  | .unpk => 0x07F#12
  | .atsel | .shfl | .xbarInit | .xbarArrive | .xbarWait | .xbarInval | .pref | .hadv => 0x003#12
  | .scan => 0x71F#12
  | .fence => 0x0F8#12
  | .bar | .srd | .swr => 0x03F#12
  | .cpyr => 0x777#12

/-- The types a form accepts in M[10:8] (R102, R214); `none` where M[10:8] is no type field. -/
def Op.types : Op → Option (List Nat)
  | .ill | .movh | .bperm | .dot4 | .dot2 | .plop | .pmov | .fadd | .fsub | .fmul | .ffma | .fmin
  | .fmax | .fcmp | .fclamp | .frnd | .hadd2 | .hmul2 | .hfma2 | .hmin2 | .hmax2 | .hcmp2 | .fdot2
  | .cvt | .cvtpk | .unpk | .q4enc | .q4dec | .frcp | .frsq | .fsqrt | .fex2 | .flg2 | .fsin | .fcos
  | .ftanh | .fact | .atld | .atsel | .shfl | .vote | .redux | .redix | .scan | .setpart | .actv | .ldsa
  | .stsr | .fence | .bar | .xbarInit | .xbarArrive | .xbarWait | .xbarInval | .cpy | .cpyg | .cpys
  | .cpyr | .cqjoin | .smap | .ssync | .sinv | .sclose | .pref | .hld | .hst | .hset | .hget | .hcpy
  | .hadv | .mclr | .mtile | .mcvt | .mld | .mexp | .mstat | .mfmt | .tspawn | .qrsv | .qenq | .qdeq
  | .qtry | .qsteal | .qerr | .qrest | .qstat | .succ | .wvis | .rsurr | .rclaim | .rstart | .rchild
  | .rdone | .rret | .rres | .rinfo | .rbase | .rabort | .bra | .brx | .call | .callx | .ret | .exit
  | .yield | .nop | .trap | .tret | .sysc | .srd | .swr | .bkpt | .ackn | .wflg => none
  | .mov | .add | .sub | .mul | .mulhi | .mad | .madhi | .min | .max | .cmp | .lds | .sts | .ldw | .ldg
  | .stg => some [0, 1, 2, 3, 4, 5, 6, 7]
  | .addx | .subx | .mulw | .madw | .fsh => some [0, 1]
  | .abs => some [0, 2, 4, 6]
  | .and | .or | .xor | .andn | .lop3 | .shl | .shr | .sar | .rot | .bfx | .bfi | .popc | .clz | .ctz
  | .brev | .sel | .lea | .matchk | .atms | .atmg => some [0, 1, 6, 7]
  | .sad => some [0, 1, 2, 3, 4, 5]
  | .vadd2 | .vsub2 | .vmax2 | .vmin2 => some [2, 3]

/-- The forms whose M[10:8] is a rounding mode (Table 6-1). -/
def Op.rounds : Op → Bool
  | .ill | .mov | .movh | .add | .sub | .addx | .subx | .mul | .mulhi | .mad | .madhi | .mulw | .madw
  | .min | .max | .abs | .and | .or | .xor | .andn | .lop3 | .shl | .shr | .sar | .rot | .fsh | .bfx
  | .bfi | .popc | .clz | .ctz | .brev | .bperm | .sel | .cmp | .lea | .sad | .dot4 | .dot2 | .vadd2
  | .vsub2 | .vmax2 | .vmin2 | .plop | .pmov | .fmin | .fmax | .fcmp | .fclamp | .hmin2 | .hmax2
  | .hcmp2 | .unpk | .q4enc | .frsq | .fex2 | .flg2 | .fsin | .fcos | .ftanh | .fact | .atld | .atsel
  | .shfl | .vote | .matchk | .redux | .redix | .scan | .setpart | .actv | .lds | .sts | .ldsa | .stsr
  | .atms | .ldw | .fence | .bar | .xbarInit | .xbarArrive | .xbarWait | .xbarInval | .cpy | .cpyg
  | .cpys | .cpyr | .ldg | .stg | .atmg | .cqjoin | .smap | .ssync | .sinv | .sclose | .pref | .hld
  | .hst | .hset | .hget | .hcpy | .hadv | .mclr | .mtile | .mcvt | .mld | .mexp | .mstat | .mfmt
  | .tspawn | .qrsv | .qenq | .qdeq | .qtry | .qsteal | .qerr | .qrest | .qstat | .succ | .wvis | .rsurr
  | .rclaim | .rstart | .rchild | .rdone | .rret | .rres | .rinfo | .rbase | .rabort | .bra | .brx
  | .call | .callx | .ret | .exit | .yield | .nop | .trap | .tret | .sysc | .srd | .swr | .bkpt | .ackn
  | .wflg => false
  | .fadd | .fsub | .fmul | .ffma | .frnd | .hadd2 | .hmul2 | .hfma2 | .fdot2 | .cvt | .cvtpk | .q4dec
  | .frcp | .fsqrt => true

/-- The flag-capable forms (Table 4-6). -/
def Op.flagCapable : Op → Bool
  | .ill | .mov | .movh | .add | .sub | .addx | .subx | .mul | .mulhi | .mad | .madhi | .mulw | .madw
  | .min | .max | .abs | .and | .or | .xor | .andn | .lop3 | .shl | .shr | .sar | .rot | .fsh | .bfx
  | .bfi | .popc | .clz | .ctz | .brev | .bperm | .sel | .cmp | .lea | .sad | .dot4 | .dot2 | .vadd2
  | .vsub2 | .vmax2 | .vmin2 | .plop | .pmov | .fadd | .fsub | .fmul | .ffma | .fmin | .fmax | .fcmp
  | .fclamp | .frnd | .hadd2 | .hmul2 | .hfma2 | .hmin2 | .hmax2 | .hcmp2 | .fdot2 | .cvt | .cvtpk
  | .unpk | .q4enc | .q4dec | .frcp | .frsq | .fsqrt | .fex2 | .flg2 | .fsin | .fcos | .ftanh | .fact
  | .atsel | .shfl | .vote | .matchk | .redux | .redix | .scan | .setpart | .actv | .fence | .bar
  | .xbarInit | .xbarArrive | .xbarWait | .xbarInval | .hset | .hget | .hcpy | .hadv | .mclr | .mstat
  | .mfmt | .tspawn | .qrsv | .qenq | .qdeq | .qtry | .qsteal | .qerr | .qrest | .qstat | .succ | .wvis
  | .rsurr | .rclaim | .rstart | .rchild | .rdone | .rret | .rres | .rinfo | .rbase | .rabort | .bra
  | .brx | .call | .callx | .ret | .exit | .yield | .nop | .trap | .tret | .sysc | .srd | .swr | .bkpt
  | .ackn | .wflg => false
  | .atld | .lds | .sts | .ldsa | .stsr | .atms | .ldw | .cpy | .cpyg | .cpys | .cpyr | .ldg | .stg
  | .atmg | .cqjoin | .smap | .ssync | .sinv | .sclose | .pref | .hld | .hst | .mtile | .mcvt | .mld
  | .mexp => true

/-- The class of a pairable form and whether it has two sources (Table 4-3). -/
def Op.pair : Op → Option (Bool × Bool)
  | .ill | .movh | .addx | .subx | .mad | .madhi | .mulw | .madw | .lop3 | .fsh | .bfx | .bfi | .bperm
  | .sel | .cmp | .lea | .sad | .dot4 | .dot2 | .plop | .pmov | .ffma | .fcmp | .fclamp | .frnd | .hfma2
  | .hcmp2 | .fdot2 | .cvt | .cvtpk | .unpk | .q4enc | .q4dec | .frcp | .frsq | .fsqrt | .fex2 | .flg2
  | .fsin | .fcos | .ftanh | .fact | .atld | .atsel | .shfl | .vote | .matchk | .redux | .redix | .scan
  | .setpart | .actv | .lds | .sts | .ldsa | .stsr | .atms | .ldw | .fence | .bar | .xbarInit
  | .xbarArrive | .xbarWait | .xbarInval | .cpy | .cpyg | .cpys | .cpyr | .ldg | .stg | .atmg | .cqjoin
  | .smap | .ssync | .sinv | .sclose | .pref | .hld | .hst | .hset | .hget | .hcpy | .hadv | .mclr
  | .mtile | .mcvt | .mld | .mexp | .mstat | .mfmt | .tspawn | .qrsv | .qenq | .qdeq | .qtry | .qsteal
  | .qerr | .qrest | .qstat | .succ | .wvis | .rsurr | .rclaim | .rstart | .rchild | .rdone | .rret
  | .rres | .rinfo | .rbase | .rabort | .bra | .brx | .call | .callx | .ret | .exit | .yield | .nop
  | .trap | .tret | .sysc | .srd | .swr | .bkpt | .ackn | .wflg => none
  | .mov | .abs | .popc | .clz | .ctz | .brev => some (true, false)
  | .add | .sub | .min | .max | .and | .or | .xor | .andn | .shl | .shr | .sar | .rot | .vadd2 | .vsub2
  | .vmax2 | .vmin2 | .fadd | .fsub | .fmin | .fmax | .hadd2 | .hmin2 | .hmax2 => some (true, true)
  | .mul | .mulhi | .fmul | .hmul2 => some (false, true)

/-- Bits [lo + n − 1 : lo] of M. -/
def mbits (f : Fields) (lo n : Nat) : Nat := (f.m.toNat >>> lo) % 2 ^ n

/-- Whether M[10:8] names a 64-bit type (R40). -/
def is64 (f : Fields) : Bool := decide (mbits f 8 3 ≥ 6)

/-- The registers of a vector form (R224): 1, 2 or 4. -/
def vecN (f : Fields) : Nat := 2 ^ mbits f 0 2

/-- Whether a special register is 64 bits wide (Table 2-4). -/
def spr64 (n : Nat) : Bool := n == 0x0F || n == 0x11 || n == 0x14

/-- imm16 of an immediate form (R69). -/
def imm16 (f : Fields) : Half := f.b ++ f.c

/-- The kind of an operand field: it must be 0, holds part of a constant, must be gz, reads or writes a run of `n`
registers at a multiple of `al` (an odd pair is left to R16), or names a predicate, shape register, tile or span. -/
inductive FK where
  | zero | raw | gz
  | src (n al : Nat)
  | dst (n al : Nat)
  | predD | predS | shape | tile | span
  deriving DecidableEq, Repr

/-- The operand kinds of the fields D, A, B and C. -/
structure Layout where
  d : FK
  a : FK
  b : FK
  c : FK
  deriving DecidableEq, Repr

/-- A destination that the type makes a pair at 64 bits (R97). -/
def dstT (f : Fields) : FK := if is64 f then .dst 2 2 else .dst 1 1
/-- A source that the type makes a pair at 64 bits (R97). -/
def srcT (f : Fields) : FK := if is64 f then .src 2 2 else .src 1 1

/-- The operand kinds of a register form, by the tables' columns "Fields used". -/
def regLayout (o : Op) (f : Fields) : Layout :=
  match o with
  | .ill | .bra => ⟨.raw, .raw, .raw, .raw⟩
  | .mov | .abs | .brev => ⟨(dstT f), .zero, (srcT f), .zero⟩
  | .movh | .addx | .subx | .vadd2 | .vsub2 | .vmax2 | .vmin2 | .fadd | .fsub | .fmul | .fmin | .fmax
  | .hadd2 | .hmul2 | .hmin2 | .hmax2 | .hcmp2 | .q4dec => ⟨.dst 1 1, .src 1 1, .src 1 1, .zero⟩
  | .add | .sub | .mul | .mulhi | .min | .max | .and | .or | .xor | .andn | .sel =>
    ⟨(dstT f), (srcT f), (srcT f), .zero⟩
  | .mad | .madhi | .lop3 => ⟨(dstT f), (srcT f), (srcT f), (srcT f)⟩
  | .mulw => ⟨.dst 2 2, .src 1 1, .src 1 1, .zero⟩
  | .madw => ⟨.dst 2 2, .src 1 1, .src 1 1, .src 2 2⟩
  | .shl | .shr | .sar | .rot | .bfx | .lea => ⟨(dstT f), (srcT f), .src 1 1, .zero⟩
  | .fsh | .bperm | .sad | .dot4 | .dot2 | .ffma | .fclamp | .hfma2 | .fdot2 | .q4enc =>
    ⟨.dst 1 1, .src 1 1, .src 1 1, .src 1 1⟩
  | .bfi => ⟨(dstT f), (srcT f), (srcT f), .src 1 1⟩
  | .popc | .clz | .ctz => ⟨.dst 1 1, .zero, (srcT f), .zero⟩
  | .cmp => ⟨.predD, (srcT f), (srcT f), .zero⟩
  | .plop => ⟨.predD, .predS, .predS, .predS⟩
  | .pmov => if f.m.getLsbD 0 then ⟨.zero, .src 1 1, .zero, .zero⟩ else ⟨.dst 1 1, .zero, .zero, .zero⟩
  | .fcmp => ⟨.predD, .src 1 1, .src 1 1, .zero⟩
  | .frnd | .frcp | .frsq | .fsqrt | .fex2 | .flg2 | .fsin | .fcos | .ftanh | .fact =>
    ⟨.dst 1 1, .zero, .src 1 1, .zero⟩
  | .cvt =>
    ⟨if mbits f 4 4 ≥ 14 then .dst 2 2 else .dst 1 1, .zero, if mbits f 0 4 ≥ 14 then .src 2 2 else .src 1 1, .raw⟩
  | .cvtpk => ⟨.dst 1 1, .src 1 1, .src 1 1, if mbits f 4 4 ≤ 1 then .zero else .src 1 1⟩
  | .unpk => ⟨.dst 2 2, .zero, .src 1 1, .zero⟩
  | .atld | .xbarWait | .xbarInval => ⟨.zero, .src 1 1, .zero, .zero⟩
  | .atsel | .setpart | .fence | .bar | .cqjoin | .succ | .wvis | .rsurr | .rdone | .rret | .rbase
  | .rabort | .exit | .yield | .nop | .tret | .bkpt | .wflg => ⟨.zero, .zero, .zero, .zero⟩
  | .shfl => ⟨.dst 1 1, .src 1 1, .src 1 1, .predD⟩
  | .vote => ⟨if mbits f 0 2 = 3 then .dst 1 1 else .predD, .predS, .zero, .zero⟩
  | .matchk => ⟨.dst 1 1, (srcT f), .zero, .zero⟩
  | .redux | .scan | .mfmt => ⟨.dst 1 1, .src 1 1, .zero, .zero⟩
  | .redix => ⟨.dst 2 2, .src 1 1, .zero, .zero⟩
  | .actv | .ackn => ⟨.dst 1 1, .zero, .zero, .zero⟩
  | .lds => ⟨if is64 f then .dst 2 2 else .dst (vecN f) 1, .src 1 1, .src 1 1, .zero⟩
  | .sts => ⟨if is64 f then .src 2 2 else .src (vecN f) 1, .src 1 1, .src 1 1, .zero⟩
  | .ldsa => ⟨.dst (mbits f 0 3 + 1) 1, .src 1 1, .src 1 1, .zero⟩
  | .stsr => ⟨.src (mbits f 0 3 + 1) 1, .src 1 1, .src 1 1, .zero⟩
  | .atms => ⟨dstT f, .src 1 1, srcT f, if mbits f 0 3 = 7 then srcT f else .zero⟩
  | .ldw => ⟨(dstT f), .src 1 1, .zero, .zero⟩
  | .xbarInit | .xbarArrive => ⟨.zero, .src 1 1, .src 1 1, .zero⟩
  | .cpy | .cpyr => ⟨.shape, .shape, if f.m.getLsbD 2 then .src 1 1 else .gz, .zero⟩
  | .cpyg | .cpys => ⟨.shape, .shape, if f.m.getLsbD 2 then .src 1 1 else .gz, .src 1 1⟩
  | .ldg => ⟨(dstT f), .src 2 2, .zero, .zero⟩
  | .stg => ⟨.zero, .src 2 2, (srcT f), .zero⟩
  | .atmg => ⟨dstT f, .src 2 2, srcT f, if mbits f 5 3 = 7 then srcT f else .zero⟩
  | .smap => ⟨.span, .src 1 1, .src 2 2, .src 1 1⟩
  | .ssync | .sinv | .sclose => ⟨.span, .zero, .zero, .zero⟩
  | .pref | .qerr | .rstart | .brx | .ret => ⟨.zero, .src 2 2, .zero, .zero⟩
  | .hld | .hst | .hset => ⟨.shape, .src 1 1, .zero, .zero⟩
  | .hget => ⟨.dst 1 1, .shape, .zero, .zero⟩
  | .hcpy => ⟨.shape, .shape, .zero, .zero⟩
  | .hadv => ⟨.shape, if f.m.getLsbD 11 then .zero else .src 1 1, .zero, .zero⟩
  | .mclr => ⟨.tile, if f.m.getLsbD 11 then .zero else .src 1 1, .zero, .zero⟩
  | .mtile => ⟨.tile, if f.m.getLsbD 0 then .tile else .shape, .shape, .src 3 1⟩
  | .mcvt => ⟨.shape, .tile, .zero, .src 1 1⟩
  | .mld | .mexp => ⟨.tile, .src 1 1, .zero, .zero⟩
  | .mstat => ⟨.dst 1 1, .tile, .zero, .zero⟩
  | .tspawn => ⟨if f.m.getLsbD 0 then .predD else .zero, .src 2 2, .src 8 8, .zero⟩
  | .qrsv | .qstat => ⟨.dst 4 4, .src 2 2, .zero, .zero⟩
  | .qenq => ⟨if f.m.getLsbD 0 then .predD else .zero, .src 2 2, .src 16 16, .zero⟩
  | .qdeq => ⟨.dst 16 16, .src 2 2, .zero, .zero⟩
  | .qtry | .qsteal => ⟨.dst 16 16, .src 2 2, .zero, .predD⟩
  | .qrest => ⟨.zero, .src 2 2, .src 1 1, .zero⟩
  | .rclaim => ⟨if f.m.getLsbD 0 then .predD else .zero, .zero, .zero, .zero⟩
  | .rchild => ⟨.zero, .zero, .src 8 8, .zero⟩
  | .rres => ⟨.dst 4 4, .zero, .src 1 1, .zero⟩
  | .rinfo => ⟨.dst 2 2, .zero, .zero, .zero⟩
  | .call => ⟨.dst 2 2, .raw, .raw, .raw⟩
  | .callx => ⟨.dst 2 2, .src 2 2, .zero, .zero⟩
  | .trap => ⟨.zero, if f.m.getLsbD 11 then .zero else .src 1 1, .zero, .zero⟩
  | .sysc => ⟨.dst 2 2, .src 8 8, .zero, .zero⟩
  | .srd => ⟨if spr64 (mbits f 0 6) then .dst 2 2 else .dst 1 1, .zero, .zero, .zero⟩
  | .swr => ⟨.zero, if spr64 (mbits f 0 6) then .src 2 2 else .src 1 1, .zero, .zero⟩

/-- The operand kinds of a form; imm16 stands in B and C when M[11] is set (R69). -/
def layout (o : Op) (f : Fields) : Layout :=
  let l := regLayout o f
  if f.m.getLsbD 11 then ⟨l.d, l.a, .raw, .raw⟩ else l

/-- What a field's kind asks of its bits, R15 and R16 apart (R67, R214, R293). -/
def FK.ok (k : FK) (x : Byte) : Bool :=
  match k with
  | .zero => x == 0
  | .raw => true
  | .gz => x == 255
  | .src n al => al ≤ 2 || (x.toNat % al == 0 && (n ≤ 1 || x != 255))
  | .dst n al => al ≤ 2 || (x.toNat % al == 0 && (n ≤ 1 || x != 255))
  | .predD => decide (x.toNat < 8)
  | .predS => decide (x.toNat < 8)
  | .shape => decide (x.toNat < 16)
  | .tile => decide (x.toNat < 8)
  | .span => decide (x.toNat < 8)

/-- The legal order and scope pairs of loads, stores, atms and fence (R215). -/
def ordOk (o : Op) (ord scope : Nat) : Bool :=
  let some' := decide (1 ≤ scope) && decide (scope ≤ 5)
  match o with
  | .lds | .ldg => (ord == 0 && scope == 0) || (ord == 1 && some')
  | .sts | .stg => (ord == 0 && scope == 0) || (ord == 2 && some')
  | .atms => (ord == 0 && scope == 0) || (ord != 0 && some')
  | _ => ord != 0 && some'

/-- The operation codes of redux and scan with their M[10:8] (R219, R221). -/
def reduxOk (op ty : Nat) : Bool :=
  if op ≤ 5 then decide (ty ≤ 1)
  else if op = 8 then decide (ty ≤ 3)
  else if op = 9 ∨ op = 10 then ty == 0
  else false

/-- The width in bits of a conversion code (Table 6-3). -/
def cvtWidth (c : Nat) : Nat :=
  match c with
  | 0 | 1 | 10 | 11 => 16
  | 2 | 3 | 5 | 12 | 13 => 8
  | 4 | 6 => 4
  | 14 | 15 => 64
  | _ => 32

/-- The checks of an entry that depend on the word alone, beyond immediate, M bits, types, rounding and operand kinds
(R424). -/
def entryOk (o : Op) (f : Fields) : Bool :=
  match o with
  | .shl | .shr | .sar | .rot => !f.m.getLsbD 11 || f.b == 0
  | .cmp => decide (mbits f 0 3 ≤ 5) && (mbits f 3 2 != 0 || mbits f 5 3 == 0)
  | .pmov => f.m.getLsbD 0 || mbits f 1 7 == 0
  | .fcmp => decide (mbits f 0 4 < 14) && (mbits f 4 2 != 0 || mbits f 6 3 == 0)
  | .hcmp2 => decide (mbits f 1 4 < 14)
  | .cvt =>
    let k := (f.c.toNat >>> 1) % 8
    let sc := mbits f 0 4
    decide (f.c.toNat < 16) && (if sc ≤ 6 then decide (k < 32 / cvtWidth sc) else k == 0)
  | .cvtpk =>
    let dc := mbits f 4 4
    decide (dc ≤ 6) && decide (mbits f 0 2 < 16 / cvtWidth dc)
  | .unpk => decide (mbits f 0 4 ≤ 6) && decide (mbits f 4 3 < 16 / cvtWidth (mbits f 0 4))
  | .atsel => mbits f 0 2 != 3
  | .vote => mbits f 0 2 == 3 || !f.m.getLsbD 3
  | .redux => reduxOk (mbits f 0 4) (mbits f 8 3)
  | .scan => reduxOk (mbits f 0 4) (mbits f 8 3)
  | .redix => if f.m.getLsbD 0 then mbits f 8 3 == 0 else decide (mbits f 8 3 ≤ 1)
  | .setpart => [2, 4, 8, 16, 32].contains (imm16 f).toNat
  | .lds => ordOk .lds (mbits f 6 2) (mbits f 3 3) && mbits f 0 2 != 3 && (mbits f 0 2 == 0 || decide (mbits f 8 3 ≤ 1))
      && f.d.toNat % vecN f == 0
  | .sts => ordOk .sts (mbits f 6 2) (mbits f 3 3) && mbits f 0 2 != 3 && (mbits f 0 2 == 0 || decide (mbits f 8 3 ≤ 1))
      && f.d.toNat % vecN f == 0
  | .ldg => ordOk .ldg (mbits f 6 2) (mbits f 3 3)
  | .stg => ordOk .stg (mbits f 6 2) (mbits f 3 3)
  | .atms => ordOk .atms (mbits f 6 2) (mbits f 3 3)
  | .fence => ordOk .fence (mbits f 6 2) (mbits f 3 3)
  | .atmg => decide (mbits f 2 3 ≤ 5)
  | .bar => mbits f 4 2 != 0
  | .xbarInit => mbits f 0 2 == 0
  | .xbarArrive => mbits f 0 2 == 1
  | .xbarWait => mbits f 0 2 == 2
  | .xbarInval => mbits f 0 2 == 3
  | .cpyr => decide (mbits f 8 3 ≤ 4) && (decide (mbits f 4 3 ≤ 2) || (decide (mbits f 4 3 ≤ 5) && decide (mbits f 8 3 ≤ 1)))
  | .cqjoin => mbits f 0 4 != 0
  | .hld => f.m.getLsbD 3 || mbits f 0 3 == 0
  | .mtile => (f.m.getLsbD 0 || mbits f 2 2 == 0) && decide (f.c.toNat ≤ 252)
  | .call | .callx => f.d != 254
  | .srd => decide (mbits f 0 6 ≤ 0x14)
  | .swr => mbits f 0 6 == 0x10 || mbits f 0 6 == 0x11 || mbits f 0 6 == 0x12
  | .wflg => decide ((imm16 f).toNat < 0x1000)
  | _ => true

/-- The decode rules of one instruction word that depend on the word alone (R67–R70, R424), R15 and R16 apart. -/
def staticOk (o : Op) (f : Fields) : Bool :=
  f.guard != 15
  && (match o.imm with
      | .no => !f.m.getLsbD 11
      | .opt => true
      | .req => f.m.getLsbD 11)
  && (f.m &&& ~~~(o.mmask ||| 0x800#12)) == 0
  && (match o.types with
      | some l => l.contains (mbits f 8 3)
      | none => true)
  && (!o.rounds || decide (mbits f 8 3 ≤ 3))
  && (let l := layout o f
      l.d.ok f.d && l.a.ok f.a && l.b.ok f.b && l.c.ok f.c)
  && entryOk o f
  && (!f.sf || o.flagCapable) && (f.sf || !f.fs)

end Sys2Proof
end

