-- ==== Sys2Proof/Machine/Map.lean ====
section
/-! DEFINITION. Sparse maps in one canonical form: keys strictly rising, no entry equal to the default. -/
namespace Sys2Proof.Machine

/-- A sparse map from Nat keys: what an unlisted key reads as is the default that `get` and `set` are given. -/
abbrev FMap (α : Type) := List (Nat × α)

/-- The value at key `k`, `d` where the map lists none. -/
def FMap.get {α : Type} (d : α) : FMap α → Nat → α
  | [], _ => d
  | (k', v) :: m, k => if k = k' then v else if k < k' then d else FMap.get d m k

/-- The map with `v` at key `k`; writing the default removes the entry. -/
def FMap.set {α : Type} [DecidableEq α] (d : α) : FMap α → Nat → α → FMap α
  | [], k, v => if v = d then [] else [(k, v)]
  | (k', v') :: m, k, v =>
    if k = k' then (if v = d then m else (k, v) :: m)
    else if k < k' then (if v = d then (k', v') :: m else (k, v) :: (k', v') :: m)
    else (k', v') :: FMap.set d m k v

/-- The canonical form from key `lo` on: keys strictly rising from `lo`, no entry holding the default. -/
def FMap.wfFrom {α : Type} [DecidableEq α] (d : α) : Nat → FMap α → Bool
  | _, [] => true
  | lo, (k, v) :: m => decide (lo ≤ k) && decide (v ≠ d) && FMap.wfFrom d (k + 1) m

/-- The canonical form. -/
def FMap.wf {α : Type} [DecidableEq α] (d : α) (m : FMap α) : Bool := FMap.wfFrom d 0 m

/-- Several writes, in order. -/
def FMap.setAll {α : Type} [DecidableEq α] (d : α) (m : FMap α) : List (Nat × α) → FMap α
  | [] => m
  | (k, v) :: r => FMap.setAll d (FMap.set d m k v) r

/-- A set of Nat, rising without repeats. -/
abbrev NSet := List Nat

/-- Whether the set holds `k`. -/
def NSet.has (s : NSet) (k : Nat) : Bool := s.any (fun x => x == k)

/-- The set with `k`. -/
def NSet.add : NSet → Nat → NSet
  | [], k => [k]
  | x :: s, k => if k = x then x :: s else if k < x then k :: x :: s else x :: NSet.add s k

/-- The set without `k`. -/
def NSet.del (s : NSet) (k : Nat) : NSet := s.filter (fun x => x != k)

/-- The set of a list's members. -/
def NSet.ofList (l : List Nat) : NSet := l.foldl NSet.add []

/-- The set with `k` present exactly when `b`. -/
def NSet.put (s : NSet) (k : Nat) (b : Bool) : NSet := if b then NSet.add s k else NSet.del s k

/-- The list with position `n` changed by `f`; the list itself when it has no such position. -/
def modAt {α : Type} : List α → Nat → (α → α) → List α
  | [], _, _ => []
  | x :: l, 0, f => f x :: l
  | x :: l, n + 1, f => x :: modAt l n f

/-- The list with the first entry that meets `p` changed by `f`. -/
def modFirst {α : Type} (p : α → Bool) (f : α → α) : List α → List α
  | [] => []
  | x :: l => if p x then f x :: l else x :: modFirst p f l

/-- Insertion into a list kept in the order `le`, behind its equals. -/
def insertBy {α : Type} (le : α → α → Bool) (x : α) : List α → List α
  | [] => [x]
  | y :: l => if le y x then y :: insertBy le x l else x :: y :: l

/-- The list in the order `le`, equals in their given order. -/
def sortBy {α : Type} (le : α → α → Bool) (l : List α) : List α :=
  l.foldl (fun acc x => insertBy le x acc) []

/-- The first least entry under the key `f`. -/
def minBy {α : Type} (f : α → Nat) : List α → Option α
  | [] => none
  | x :: l =>
    match minBy f l with
    | none => some x
    | some y => if f x ≤ f y then some x else some y

end Sys2Proof.Machine
end

