-- ==== Sys2Proof/Machine/Types.lean ====
section
/-! DEFINITION. The records that the machine's state is made of, from the thread up to the fabric. -/
namespace Sys2Proof.Machine

/-! ## Thread (02_thread.md) -/

/-- A g-register's value with its poison bit (R14). -/
structure Val where
  v : Word
  p : Bool
  deriving DecidableEq, Repr
/-- The value of a register nothing has written: 0 with poison clear (R14). -/
def Val.zero : Val := ⟨0, false⟩

/-- A predicate's value with its poison bit (R14). -/
structure PVal where
  v : Bool
  p : Bool
  deriving DecidableEq, Repr
/-- A predicate at thread creation: false, poison clear (R14). -/
def PVal.zero : PVal := ⟨false, false⟩

/-- The execution mode of a thread (R90). -/
inductive Mode where | prerin | native
  deriving DecidableEq, Repr

/-- A thread by group, warp (%wid) and slot. -/
structure TRef where
  g : Nat
  w : Nat
  t : Nat
  deriving DecidableEq, Repr

/-- A copy queue by group, warp and queue number (R239). -/
structure QRef where
  g : Nat
  w : Nat
  q : Nat
  deriving DecidableEq, Repr

/-- What holds a Stalled thread's next instruction (Table 2-5). -/
inductive StallWhy where
  | interlock | scoreboard | queueFull | spanFill (m sec : Nat) | reach (blk : Nat) | spilled | flagFull | matrixFull
  | fence | writeBack (m : Option Nat) | sysc | bank | fetch (va opc : Nat)
  deriving DecidableEq, Repr

/-- What a Blocked thread waits for (Table 2-5). -/
inductive BlockWhy where
  | flags (mask : BitVec 12)
  | bar (id phase : Nat)
  | barAgain (id : Nat) (sync : Bool)
  | xbar (off : Nat) (phase : Nat)
  | queue (handle : DWord)
  | former | wvis | pool | spinner | lane
  deriving DecidableEq, Repr

/-- The scheduling state of a thread (R28). `absent` is a slot that holds no thread. Saved is the state of the
thread's workgroup (Table 8-7): the thread re-enters the state it left. -/
inductive Sched where
  | absent | ready | stalled (w : StallWhy) | blocked (w : BlockWhy) | exited
  deriving DecidableEq, Repr

/-- The mechanism that created a thread (R29), for a Spinner lane with the routine it runs (R288, R304). -/
inductive Routine where | divide | base | combine
  deriving DecidableEq, Repr
/-- How a thread came to be. -/
inductive TKind where
  | launch
  | wave
  | lane (inst : Nat) (n : Nat)
  deriving DecidableEq, Repr

/-- The architectural state of a thread (Table 2-1) with what the chapters on traps, the Touchstone, packing and the reach buffer
add; `latch` holds the spilled blocks whose values the operand latch has for its next instruction (R267). -/
structure Thread where
  g : FMap Val
  p : FMap PVal
  f : FMap Nat
  pc : DWord
  tix : Nat
  mode : Mode
  fa : Nat
  fb : Nat
  len : Nat
  status : Word
  tpc : DWord
  trix : Word
  tcause : Word
  tval : DWord
  sched : Sched
  npc : DWord
  ntix : Nat
  demoted : Bool
  demAt : Nat
  spinT : DWord
  spinN : Nat
  spinCh : Bool
  opps : Nat
  promo : Option Nat
  notice : Bool
  ackd : Word
  sAll : Bool
  sSet : NSet
  lSet : NSet
  lFull : Bool
  pend : NSet
  latch : NSet
  sysc : Bool
  kind : TKind
  deriving DecidableEq, Repr

/-! ## Engine commands (09_core_instructions.md) -/

/-- A shape register: sixteen words and one poison bit (Table 9-2, R245). -/
structure Shape where
  w : FMap Word
  p : Bool
  deriving DecidableEq, Repr
/-- A shape register at warp creation (Table 9-2). (DESIGN CHOICE, log 1). -/
def Shape.zero : Shape := ⟨[], false⟩

/-- The address space a byte lies in. -/
inductive Space where | scr | glob | scale
  deriving DecidableEq, Repr

/-- What a written byte does to the poison of its word or sector (R62): nothing, set it, or clear it because clean data
covers the whole of it. -/
inductive Psn where | keep | set | clear
  deriving DecidableEq, Repr

/-- One write that a command has still to perform: the bits `mask` of one byte, or one element combined with what
stands there (cpyr, R238). -/
inductive Wr where
  | byte (sp : Space) (a : Nat) (b mask : Byte) (p : Psn)
  | red (sp : Space) (a : Nat) (op ty : Nat) (width : Nat) (v : Word) (p : Bool)
  deriving DecidableEq, Repr

/-- One thread's access of an ldg, stg or atmg entry (R241). -/
structure Acc where
  t : Nat
  a : DWord
  x : DWord
  y : DWord
  p : Bool
  deriving DecidableEq, Repr

/-- What a copy-queue entry does. -/
inductive Cmd where
  | copy (op : Op) (dst src : Shape) (xb : Option Nat) (idx : Nat) (rop rty : Nat)
  | ldg (accs : List Acc) (d ty : Nat) (ord : Nat) (scope : Nat)
  | stg (accs : List Acc) (ty : Nat) (ord : Nat) (scope : Nat)
  | atmg (accs : List Acc) (d ty op scope : Nat)
  | join (mask : BitVec 4)
  | pref (accs : List Acc) (n : Nat)
  deriving DecidableEq, Repr

/-- How far a copy-queue entry has come (R239, R336). -/
inductive CmdState where
  | queued | begun | faulted (tag : Nat)
  deriving DecidableEq, Repr

/-- An entry of a copy queue: the command, the threads whose flag counts it raised, the threads whose fences wait for it
(R229), what it has still to write, the registers it will write at retirement, the bytes performed so far, and the pages it has
counted (R321). -/
structure Entry where
  id : Nat
  cmd : Cmd
  opc : Nat
  ts : List Nat
  act : List Nat
  flag : Option Nat
  st : CmdState
  todo : List Wr
  regs : List (Nat × Nat × Val)
  prog : Nat
  seen : NSet
  deriving DecidableEq, Repr

/-- A range-scoreboard entry (R191). -/
structure SbEntry where
  owner : Nat
  lo : Nat
  hi : Nat
  dst : Bool
  deriving DecidableEq, Repr

/-! ## Matrix unit (10_matrix.md) -/

/-- The class of an accumulator element (R54). -/
inductive ECls where | fin | pinf | ninf | nan
  deriving DecidableEq, Repr
/-- An accumulator element: class, mantissa, poison (R54). -/
structure Elem where
  c : ECls
  m : Int
  p : Bool
  deriving DecidableEq, Repr
/-- An element as mclr 0 leaves it (R247). -/
def Elem.zero : Elem := ⟨.fin, 0, false⟩
/-- An accumulator tile: elements by 64·i + j, exponent and status bits (R54). -/
structure Tile where
  e : FMap Elem
  x : Int
  i : Bool
  o : Bool
  deriving DecidableEq, Repr
/-- A tile when its warp first becomes resident (R247). -/
def Tile.zero : Tile := ⟨[], 0, false, false⟩

/-- A pending matrix operation with its captured operands (R250, R251). -/
inductive MCmd where
  | tile (d : Nat) (asrc : Bool) (src rows : Nat) (tb : Bool) (sa sb : Shape) (fmt : Word) (ta tb' : Val)
  | cvt (dst : Shape) (s rb cb : Nat) (fmt : Word)
  | ld (d off : Nat) (p : Bool)
  | ex (s off : Nat) (p : Bool)
  deriving DecidableEq, Repr
/-- An entry of a matrix unit's pending list. -/
structure MOp where
  id : Nat
  cmd : MCmd
  sup : Nat
  ts : List Nat
  flag : Option Nat
  step : Nat
  scl : Option (Nat × Nat)
  deriving DecidableEq, Repr

/-! ## Kernel descriptor, warp, workgroup (08_core.md, 21_assembly_reference.md) -/

/-- A kernel descriptor (Table 21-5). -/
structure KDesc where
  pentry : DWord
  nentry : DWord
  trap : DWord
  ntag : Nat
  accs : Nat
  blk : Nat
  leg : Bool
  nen : Bool
  tsm : Nat
  scale : Nat
  scr : Nat
  pin : Nat
  deriving DecidableEq, Repr

/-- What a fold takes from one warp, for the region that asked for it (R198, R265). -/
structure FoldPart where
  region : Nat
  ls : BitVec 4
  blocks : NSet
  deriving DecidableEq, Repr

/-- A warp: placement, register blocks, the reach buffer with the registers whose copy in the spill area is poisoned while it
holds a good one, partition, shapes, tiles, copy queues, matrix operations and issue record. -/
structure Warp where
  quad : Nat
  slot : Nat
  kd : KDesc
  threads : List Thread
  blocks : Nat
  spilled : NSet
  reach : Option Nat
  reachMod : Bool
  spillBad : List (Nat × Nat)
  slow : Bool
  ls : BitVec 4
  part : Nat
  legacy : Bool
  shapes : FMap Shape
  accs : Nat
  tiles : FMap Tile
  cqs : List (List Entry)
  mops : List MOp
  bank : Option Nat
  opps : Nat
  lastIssue : Nat
  fold : Option FoldPart
  refill : NSet
  resl : Word
  deriving DecidableEq, Repr

/-- A Touchstone tag (R193): last writer, last reader, more readers than one, the phase, and whether the last write was a
plain sub-word store (R197). -/
structure Tag where
  w : Option Nat
  rd : Option Nat
  mr : Bool
  ph : Nat
  sub : Bool
  deriving DecidableEq, Repr
/-- An empty tag. -/
def Tag.empty : Tag := ⟨none, none, false, 0, false⟩

/-- A workgroup barrier: current phase and the threads that have arrived in it (R230). -/
structure Bar where
  phase : Nat
  arrived : NSet
  deriving DecidableEq, Repr
/-- A barrier of a new workgroup. (DESIGN CHOICE, log 1). -/
def Bar.zero : Bar := ⟨0, []⟩

/-- A sector of a span: valid, stale, its dirty bytes by their position 0–1023 (R187), and the words of a fill in progress
that have been read, and the bytes that a write-back in progress has written (R388). -/
structure Sector where
  valid : Bool
  stale : Bool
  dirty : NSet
  filled : Nat
  wrote : NSet
  deriving DecidableEq, Repr
/-- A sector as smap leaves it (R187). -/
def Sector.invalid : Sector := ⟨false, false, [], 0, []⟩
/-- An open span (R187), with the pages that the write-back in progress has counted (R321). -/
structure Span where
  so : Nat
  va : Nat
  len : Nat
  secs : FMap Sector
  seen : NSet
  deriving DecidableEq, Repr

/-- The scale memory of one quadrant's allocation (R248): bytes, and the words that carry poison. -/
structure ScaleMem where
  b : FMap Byte
  p : NSet
  deriving DecidableEq, Repr
/-- A new allocation (R184). -/
def ScaleMem.zero : ScaleMem := ⟨[], []⟩

/-- A register-block pool: blocks in it, and how many of those a fold has taken (R273). -/
structure Pool where
  n : Nat
  taken : Nat
  deriving DecidableEq, Repr
/-- An empty pool. -/
def Pool.zero : Pool := ⟨0, 0⟩

/-- The full-save states of a workgroup (Table 8-7). -/
inductive SaveState where | running | pending | draining | writing | saved
  deriving DecidableEq, Repr

/-- An atld waiting in the core's table loader (R150). -/
structure AtldPend where
  id : Nat
  bank : Nat
  grp : Nat
  wrp : Nat
  img : FMap Val
  flag : Option Nat
  ts : List Nat
  deriving DecidableEq, Repr

/-- An activation bank: owner and image words with poison, by byte offset ÷ 4 (R146, R151). -/
structure ActBank where
  owner : Option Nat
  img : FMap Val
  deriving DecidableEq, Repr
/-- A bank with no owner (R151). -/
def ActBank.void : ActBank := ⟨none, []⟩

/-- What a scratch access that waits in a bank queue does when it is performed (R341): it loads values of `w` bytes into
registers from `d` on, stores the values given (with release order or without), or performs an atomic. -/
inductive BankDo where
  | load (d : Nat) (sg : Bool)
  | store (vals : List Nat) (rel : Bool)
  | atom (d : Nat) (sg : Bool) (op b c : Nat)
  deriving DecidableEq, Repr

/-- A scratch access issued and not yet performed (R341): the thread's index in the workgroup, `n` values of `w` bytes from
the offset on, the completion flag it holds raised, and the value of the clock when it issued. -/
structure BankOp where
  id : Nat
  u : Nat
  off : Nat
  w : Nat
  n : Nat
  act : BankDo
  flag : Option Nat
  at' : Nat
  deriving DecidableEq, Repr

/-- What a workgroup was created by: a launch with its gang index, a wave of the task former, the lanes of a
recursion run. -/
inductive GKind where
  | gang (launch : Nat) (index : Nat)
  | wave
  | lanes (inst : Nat)
  deriving DecidableEq, Repr

/-- A workgroup: identity and placement with the step of its placement, its warps, scratch, scratch accesses still to be performed, scale memory, windows,
spans, whether a fold's request forced its save (R199), the threads that have released beyond scratch in the phase (R349), barriers (and for each transfer barrier the threads that arrived in the phase in progress and in completed ones),
scoreboard and pools (08_core.md, 09_core_instructions.md, 13_cluster.md). -/
structure Group where
  kind : GKind
  vdev : Nat
  region : Nat
  wgx : Nat
  wgy : Nat
  wgz : Nat
  nwgx : Nat
  nwgy : Nat
  nwgz : Nat
  die : Nat
  core : Nat
  placed : Nat
  save : SaveState
  saveAt : Nat
  forced : Bool
  foldSave : Bool
  alive : Bool
  faulted : Bool
  warps : List Warp
  wins : FMap (Nat × Nat)
  scrSize : Nat
  scr : FMap Byte
  scrP : NSet
  tags : FMap Tag
  xbars : NSet
  xbFrom : FMap (NSet × NSet)
  bank : List BankOp
  units : List Nat
  spilledU : NSet
  refillU : NSet
  foldU : NSet
  pins : NSet
  scaleSize : Nat
  scales : FMap ScaleMem
  spans : FMap (Option Span)
  bars : FMap Bar
  phase : Nat
  rels : NSet
  board : List SbEntry
  pools : FMap Pool
  succMark : Bool
  bankImgs : FMap ActBank
  atlds : List AtldPend
  deriving DecidableEq, Repr

/-! ## Core and cluster (06_float_instructions.md, 08_core.md, 13_cluster.md) -/

/-- The ownership of one quadrant: hard-owned, or shared by quanta (R368): device, quantum, weight. -/
inductive QuadOwn where
  | none
  | hard (vdev : Nat)
  | shared (l : List (Nat × Nat × Nat)) (holder : Nat) (left : Nat)
  deriving DecidableEq, Repr

/-- One quadrant of a core: its ownership, the lane sets that folds have handed over with the regions that took each, the last
one first (R266), the slot picked last, and the warp to avoid at the next pick (R160). -/
structure Quad where
  own : QuadOwn
  taken : FMap (List Nat)
  lastSlot : Nat
  avoid : Option (Nat × Nat)
  deriving DecidableEq, Repr

/-- A line of the instruction caches: device, 64-byte line number, its eight native words (R315). -/
structure ICLine where
  vdev : Nat
  line : Nat
  words : List DWord
  deriving DecidableEq, Repr

/-- A logical core: the physical core behind it, its instruction L1, scratch bank-group owners, activation banks, quadrants, the cycles its
issues have taken beyond the clock, and whether it has failed. -/
structure Core where
  phys : Nat
  l1 : List ICLine
  groups : FMap Nat
  banks : FMap ActBank
  atlds : List AtldPend
  quads : List Quad
  skew : Nat
  failed : Bool
  deriving DecidableEq, Repr

/-- A pending task of a task former (R276). -/
structure Task where
  id : Nat
  die : Nat
  cl : Nat
  vdev : Nat
  region : Nat
  desc : DWord
  args : List Val
  at' : Nat
  held : Bool
  deriving DecidableEq, Repr

/-- The state of a hardware queue (R284). -/
inductive QState where | opened | error | draining | closed
  deriving DecidableEq, Repr
/-- What a thread blocked at a queue asks for (R282, R285). -/
inductive QAsk where | rsv (d : Nat) | enq (pd : Option Nat) (b : Nat) | deq (d : Nat)
  deriving DecidableEq, Repr
/-- A blocked thread in the controller's order. -/
structure QWait where
  t : TRef
  ask : QAsk
  home : Bool
  deriving DecidableEq, Repr
/-- A live queue descriptor (Table 13-2) with its device, region and blocked threads. -/
structure HwQueue where
  vdev : Nat
  region : Nat
  desc : Nat
  ring : Nat
  rdx : Word
  wrx : Word
  err : Half
  st : QState
  log2 : Nat
  hdie : Nat
  hcl : Nat
  check : Half
  waits : List QWait
  deriving DecidableEq, Repr

/-- The state of a frame (Table 13-7). -/
inductive FState where | pending | dividing | waiting | combining | done
  deriving DecidableEq, Repr
/-- A frame of a recursion run (R287). -/
structure Frame where
  ix : Nat
  parent : Option Nat
  ndone : Nat
  nch : Nat
  st : FState
  depth : Nat
  cix : Nat
  pos : Nat
  arg : List Val
  res : List Val
  deriving DecidableEq, Repr
/-- A lane of a recursion run: its assigned frames still to finish and the routine it runs (R290). -/
structure Lane where
  todo : List Nat
  cur : Option (Nat × Routine)
  deriving DecidableEq, Repr
/-- The status of a recursion run (Table 13-6 STATUS). -/
inductive SpinSt where | running | done | aborted
  deriving DecidableEq, Repr
/-- A recursion run of a Spinner with the object's fields (R286–R292). -/
structure Spinner where
  die : Nat
  cl : Nat
  vdev : Nat
  region : Nat
  obj : Nat
  divE : DWord
  baseE : DWord
  combE : DWord
  kdesc : KDesc
  pool : Nat
  psize : Nat
  lanesN : Nat
  maxDepth : Nat
  fan : Nat
  resA : Nat
  frames : List Frame
  pending : List Nat
  bfs : Bool
  level : Nat
  lanes : List Lane
  grp : Option Nat
  st : SpinSt
  deriving DecidableEq, Repr

/-! ## Die (16_die.md) -/

/-- An entry of the die translation cache (R321): device, 64 KiB page number, leaf, hits, written. -/
structure TlbEnt where
  vdev : Nat
  page : Nat
  leaf : DWord
  large : Bool
  hits : Nat
  written : Bool
  deriving DecidableEq, Repr
/-- A shadow record (Table 16-5). -/
structure Shadow where
  h0 : Nat
  h1 : Nat
  h2 : Nat
  h3 : Nat
  rmask : BitVec 4
  wmask : BitVec 4
  quiet : Nat
  deriving DecidableEq, Repr
/-- A record nothing has counted in. -/
def Shadow.zero : Shadow := ⟨0, 0, 0, 0, 0, 0, 0⟩
/-- The mark of a release on an entry of the open-span directory (R328, R340): the workgroup that released, the scope, the die
and the cluster where it stood, the workgroups that the mark covers, and the number above every workgroup of that moment. -/
structure RelMark where
  by' : Nat
  scope : Nat
  die : Nat
  cl : Nat
  cover : NSet
  upto : Nat
  deriving DecidableEq, Repr
/-- An entry of the open-span directory (R328), with the marks of the releases behind it and the workgroups that have acquired
from one of them (R344, R345). -/
structure SpanEnt where
  vdev : Nat
  sector : Nat
  grp : Nat
  bytes : NSet
  marks : List RelMark
  got : NSet
  deriving DecidableEq, Repr
/-- A byte of a write on its way over a die-pair path (R344, Table 17-18): the device that writes, the physical address, the
bits written, and what the write does to the poison of its sector. -/
structure PathWr where
  v : Nat
  pa : Nat
  b : Byte
  mask : Byte
  p : Psn
  deriving DecidableEq, Repr
/-- A key slot (R330, R331): its device, the pair of SM4 keys that the lines of its device are stored under, its
generation, and how often it has been loaded. -/
structure KeySlot where
  vdev : Option Nat
  key1 : Nat
  key2 : Nat
  gen : Nat
  loads : Nat
  deriving DecidableEq, Repr
/-- A slot nothing has been loaded into. -/
def KeySlot.zero : KeySlot := ⟨none, 0, 0, 0, 0⟩
/-- A token account of one class and device (R334). -/
structure Toks where
  vdev : Nat
  cls : Nat
  share : Nat
  borrow : Nat
  debt : Nat
  bal : Int
  waiting : Bool
  deriving DecidableEq, Repr
/-- What a fault record belongs to. -/
inductive FaultSrc where
  | queue (q : QRef) (id : Nat)
  | fetch (t : TRef)
  | span (t : TRef) (m sec : Nat)
  | task (id : Nat)
  deriving DecidableEq, Repr
/-- A fault record (Table 16-6); that of a task carries the 32 bytes of the task's record (R278, R306). -/
structure FaultRec where
  va : DWord
  tag : Nat
  opc : Nat
  queue : Nat
  vdev : Nat
  kind : Nat
  prog : Nat
  die : Nat
  core : Nat
  quad : Nat
  slot : Nat
  region : Nat
  src : FaultSrc
  task : List Byte
  told : Bool
  deriving DecidableEq, Repr
/-- A violation-log entry (Table 16-7). -/
structure Viol where
  cyc : Word
  phys : Bool
  kind : Nat
  vdev : Nat
  src : Nat
  addr : DWord
  deriving DecidableEq, Repr
/-- Reserve brought in (R338, Table 18-13): kind, resource number, date. -/
structure Reserve where
  kind : Nat
  num : Nat
  date : Nat
  deriving DecidableEq, Repr
/-- A write to a replicated page in progress is one step of its own (R326): the page's copies. -/
structure Replica where
  vdev : Nat
  page : Nat
  frame : Nat
  deriving DecidableEq, Repr

/-- An action of the placement assay still to perform (R324, R325): 0 add a replica, 1 migrate, 2 drop a replica, 3
collapse; or a move into a reserve channel of the die (R338): 4 of a page, 5 of its replica on the die, 6 of the table
whose frame number `page` gives. -/
structure AssayMove where
  vdev : Nat
  page : Nat
  act : Nat
  target : Nat
  deriving DecidableEq, Repr

/-- A compute die; `wear` counts the corrected errors of each resource in the 24 hours in progress (R377), `lost` holds the discarded
tasks that wait for room in the fault queue (R306, R336). -/
structure Die where
  skew : Nat
  cores : FMap Core
  icache : List ICLine
  tlb : List TlbEnt
  shadow : FMap Shadow
  replicas : List Replica
  spanDir : List SpanEnt
  spanDrops : Nat
  paths : FMap (List PathWr)
  keys : FMap KeySlot
  lineTags : FMap (Nat × Nat)
  toks : List Toks
  spare : FMap Nat
  owners : FMap Nat
  faults : List FaultRec
  lost : List Task
  viols : List Viol
  violOver : Nat
  replies : List (Word × Nat)
  corrected : Nat
  uncorrected : Nat
  reserves : List Reserve
  wear : FMap Nat
  moves : List AssayMove
  deriving DecidableEq, Repr

/-! ## Package (18_package.md) -/

/-- The placement-assay words of a device (R323). -/
structure Assay where
  wh : Nat
  wm : Nat
  wr : Nat
  wq : Nat
  theta : Nat
  nw : Nat
  epl : Nat
  fmin : Nat
  en : Bool
  deriving DecidableEq, Repr
/-- A virtual device (R367, Table 18-11). -/
structure VDev where
  num : Nat
  root : Nat
  dfr : Nat
  sfr : Nat
  sigreq : Bool
  mbox : Bool
  keySlot : FMap Nat
  assay : Assay
  rootReg : Nat
  actions : List Nat
  quiesced : Bool
  deriving DecidableEq, Repr
/-- A region: its control-block address, CHECK, parent and own fields (Table 18-8). -/
structure Region where
  vdev : Nat
  addr : Nat
  check : Half
  parent : Option Nat
  ovr : BitVec 11
  fd : Bool
  prio : Nat
  rb : Nat
  sbg : Nat
  ls : Nat
  dmask : BitVec 4
  lsq : Nat
  acc : Nat
  ts : Nat
  td : Nat
  tl : Nat
  alive : Bool
  deriving DecidableEq, Repr
/-- A role of a launch (Table 18-6). -/
structure Role where
  desc : Nat
  kd : KDesc
  warps : Nat
  blk : Nat
  acc : Nat
  scr : Nat
  deriving DecidableEq, Repr
/-- A launch (R363–R365): its block, state 0–3, ticket counters by active die and counts. -/
structure Launch where
  id : Nat
  vdev : Nat
  region : Nat
  nx : Nat
  ny : Nat
  nz : Nat
  dmode : Nat
  shint : Bool
  preds : List Nat
  wins : FMap (Nat × Nat)
  roles : List Role
  st : Nat
  tickets : List (Nat × Nat × Nat)
  placed : FMap Nat
  exited : FMap Nat
  deriving DecidableEq, Repr
/-- Who made a system call: a thread, a control program, a host program through the mailbox, a datagram at the management port
(R354, R383, R398). -/
inductive Caller where
  | thread (t : TRef) (d : Nat)
  | control (core : Nat)
  | host (vdev : Nat) (tag : Nat)
  | port (vdev : Nat) (tag : Nat) (seq : DWord)
  deriving DecidableEq, Repr
/-- An application core that runs a control program (R353, R354): the core's number, the device, the address that the loader
starts it at (R356), the registers x10 and x17 of the call convention, the call that it waits for, and the bytes that its
last load of device memory brought. -/
structure AppCore where
  n : Nat
  vdev : Nat
  pc : DWord
  x10 : DWord
  x17 : DWord
  call : Option Nat
  loaded : List Byte
  deriving DecidableEq, Repr
/-- A system call: sent, or answered with its result (R168); `away` says that the resident system of the part which its device
has left has still to complete it (R408). -/
structure Call where
  id : Nat
  caller : Caller
  vdev : Nat
  num : Nat
  args : List Word
  res : Option DWord
  away : Bool
  deriving DecidableEq, Repr
/-- A loaded image (R356): device, range in the device's memory, whether step 4 has completed, digest, functions with
their entry words, heap use, the functions swapped and those not to attempt again (R361), the old code that launches may
still run (R360), the addresses where pieces of Prerin code begin and end, the heap's free pieces, and the translator's
queue: the functions to translate, with the hits in the records of each at the last evaluation and those gathered before it in
the epoch (R358). -/
structure Image where
  vdev : Nat
  base : Nat
  size : Nat
  ready : Bool
  digest : List Byte
  heap : Nat
  heapEnd : Nat
  funcs : List (Nat × Nat)
  swapped : NSet
  failedF : NSet
  old : List (Nat × Nat × List Nat)
  cp : Nat
  marks : List Nat
  free : List (Nat × Nat)
  hot : List Nat
  hits : FMap Nat
  got : FMap Nat
  deriving DecidableEq, Repr
/-- An entry of the device log. -/
inductive LogEnt where
  | bytes (vdev : Nat) (b : List Byte)
  | event (vdev : Nat) (code : Nat) (addr : DWord)
  deriving DecidableEq, Repr
/-- A report at the management port (R211, R377, R380, R383, R386, R411). -/
inductive Report where
  | bootFail (code : Nat)
  | corrected (die unit : Nat)
  | uncorrected (die unit : Nat)
  | reserve (die : Nat) (r : Reserve)
  | link (link code : Nat)
  | region (region : Nat) (cause : Nat) (val : DWord)
  | stopped
  | ageing (die unit : Nat)
  | reply (tag : Nat) (seq : DWord) (res : DWord) (extra data sig : List Byte)
  deriving DecidableEq, Repr

/-! ## Fabric (20_fabric.md) -/

/-- A Lergil link (R391, R410): the replays of one flit in succession, whether a retraining holds its traffic, and when it
went down. -/
structure Link where
  up : Bool
  peer : Nat
  lanes : Nat
  spare : BitVec 2
  replays : Nat
  held : Bool
  downAt : Nat
  deriving DecidableEq, Repr
/-- A link before training. -/
def Link.zero : Link := ⟨false, 0, 8, 0, 0, false, 0⟩
/-- A grant (Table 20-2). -/
structure Grant where
  base : Nat
  npg : Nat
  ipart : Nat
  ivdev : Nat
  evdev : Nat
  atm : Bool
  w : Bool
  deriving DecidableEq, Repr
/-- The memory that a peer part or the host grants, as this part's commands see it (R393, R396): the bytes this part has
written, by position, its poisoned 32-byte sectors (R62), the pages whose requests it answers as unmapped and those that it
refuses; whether the
exporter's grant names this part and device (R409); the host's lies from `base` on in host memory. -/
structure Peer where
  part : Nat
  vdev : Nat
  npg : Nat
  atm : Bool
  w : Bool
  base : Nat
  mem : FMap (Option Byte)
  psn : NSet
  unmapped : NSet
  refused : NSet
  pointed : Bool
  deriving DecidableEq, Repr
/-- A write or atomic to a peer page that its owner has not acknowledged (R394): the workgroup and the entry that it belongs
to (0 for a write-back), the die that sent it, the address, the part, and the link that carried it. -/
structure Unack where
  g : Nat
  id : Nat
  die : Nat
  va : Nat
  part : Nat
  link : Nat
  deriving DecidableEq, Repr
/-- The states of a page at the source of a migration (Table 20-5). -/
inductive PageSt where | owned | leaving | transit | gone
  deriving DecidableEq, Repr
/-- A request for a page that is held or forwarded (R404, R407): its source (the link, and 16 times the part), its offset in
the page, what it does (0 read, 1 write, 2 atomic, 3 cpyr, 4 a switch marker; above the low four bits the operation and the
type), its length and its operands, those of its bytes that carry poison (R62), and whether the source of a migration forwarded it. -/
structure HeldReq where
  page : Nat
  src : Nat
  off : Nat
  kind : Nat
  n : Nat
  bytes : List Byte
  psn : NSet
  fwd : Bool
  deriving DecidableEq, Repr
/-- A request of a peer part that waits for tokens at the exporter (R393, R334), or a switch marker behind such a one (R407, kind 4,
with the device in `ivdev`); `psn` names those of its bytes that carry poison (R62). -/
structure PeerReq where
  link : Nat
  ipart : Nat
  ivdev : Nat
  ppg : Nat
  off : Nat
  kind : Nat
  n : Nat
  data : List Byte
  psn : NSet
  deriving DecidableEq, Repr
/-- An access from outside that has not been performed (R350): its source, device, address and bytes, the number of bytes
that it reads (0 for a write), and whether it carries Relaxed Ordering. -/
structure OutReq where
  src : Nat
  vdev : Nat
  va : Nat
  data : List Byte
  rd : Nat
  relaxed : Bool
  deriving DecidableEq, Repr
/-- Traffic for another part, passed on over a link (R391): its destination, the link and the hops it has made. -/
structure Passed where
  dst : Nat
  link : Nat
  hops : Nat
  deriving DecidableEq, Repr
/-- What this part has reserved for a device that is to arrive (R399): its part and number there, its number here, and
the bytes of the state that came and has passed the checks of phase 4 (R400). -/
structure Reserved where
  src : Nat
  sdev : Nat
  vdev : Nat
  state : Option (List Byte)
  deriving DecidableEq, Repr
/-- A page on its way (R402): its bytes, its poisoned sectors, its shadow record and its open-span directory entries. -/
structure PageImg where
  page : Nat
  bytes : List Byte
  poison : NSet
  shadow : Shadow
  spans : List SpanEnt
  deriving DecidableEq, Repr
/-- A mapping of the mapping list (R401): page, leaf attributes (W, ATM, PIN), large, tier, and the leaf of a peer page. -/
structure MapEnt where
  page : Nat
  w : Bool
  atm : Bool
  pin : Bool
  large : Bool
  shelf : Bool
  peer : Option Nat
  deriving DecidableEq, Repr
/-- The execution state of a device (R401): its workgroups, recursion runs and regions by the numbers that the others name
them with, its queues, tasks, launches, outstanding system calls, images, control programs, mappings, imported windows and the grants of
its memory to peers, and a number above every identifier in it. -/
structure ExecState where
  groups : FMap Group
  queues : List HwQueue
  spinners : FMap Spinner
  tasks : List Task
  launches : List Launch
  regions : FMap Region
  calls : List Call
  images : List Image
  apps : List AppCore
  maps : List MapEnt
  imports : List Peer
  grants : List Grant
  ids : Nat
  deriving DecidableEq, Repr
/-- Where a service request came from (R383, R398): the management port with its tag and sequence number and whether the
datagram is sound (its signature verifies under the operator's key, words 12 to 15 are 0, its entry keeps R398), or the
mailbox. -/
inductive ReqSrc where
  | mgmt (tag : Nat) (seq : DWord) (sound : Bool)
  | host (tag : Nat)
  deriving DecidableEq, Repr
/-- A migration that leaves this part (R400): its phase, the pages by their states, the requests held and forwarded, the
pages shipped, the peers that have switched, the state sent with its digest and signature (Table 20-4 phase 3), whether the
destination has failed (R409), and the request to answer. -/
structure MigOut where
  vdev : Nat
  dest : Nat
  phase : Nat
  pages : List (Nat × PageSt)
  held : List HeldReq
  fwd : List HeldReq
  shipped : List PageImg
  switched : NSet
  sent : Option ExecState
  cipher : List Byte
  digest : List Byte
  sig : List Byte
  lost : Bool
  req : ReqSrc
  deriving DecidableEq, Repr
/-- A migration that arrives at this part (R400, R402): the pages still absent, those demanded with the die of the first
demander (its number + 1), the switch markers still to come by peer and link, the requests held, and the numbers that its
workgroups had at the source with those they have here. -/
structure MigIn where
  vdev : Nat
  src : Nat
  absent : NSet
  demanded : FMap Nat
  markers : List (Nat × Nat)
  held : List HeldReq
  ren : List (Nat × Nat)
  deriving DecidableEq, Repr
/-- A checkpoint in the safe tier (R379): the execution state and the bytes of every mapped page, the Shelf lines as they are
encrypted again under the device's checkpoint keys, and the digest of the image with its signature. -/
structure Ckpt where
  id : Nat
  vdev : Nat
  st : ExecState
  cells : FMap Byte
  poison : NSet
  shelf : List (Nat × List Byte)
  digest : List Byte
  sig : List Byte
  deriving DecidableEq, Repr
/-- A BAR2 mapping: window page, device page, writable (R397). -/
structure Bar2 where
  win : Nat
  page : Nat
  w : Bool
  deriving DecidableEq, Repr

/-- The pack in issue: group, warp, slots in ascending order (R177). -/
structure Pack where
  g : Nat
  w : Nat
  ts : List Nat
  deriving DecidableEq, Repr

/-- A soft error in a core structure (Table 8-9) or in the state of a thread (Table 2-7). -/
inductive SoftErr where
  | reg (t : TRef) (r : Nat)
  | pred (t : TRef) (k : Nat)
  | threadState (t : TRef)
  | reach (t : TRef) (r : Nat)
  | scratch (g off : Nat)
  | scale (g q off : Nat)
  | elem (g w a ix : Nat)
  | tileExp (g w a : Nat)
  | spillReg (g w : Nat) (rs : List (Nat × Nat))
  | spillScr (g u sec : Nat)
  | spillScale (g q sec : Nat)
  | tag (g word : Nat)
  | xbarWord (g off : Nat)
  | control (g : Nat)
  | icache
  deriving DecidableEq, Repr
/-- An error or failure in a cluster unit (Table 13-10). -/
inductive ClusterErr where
  | queue (q : Nat)
  | task (id : Nat)
  | spinner (n : Nat)
  | frameVal (n frame k : Nat) (res : Bool)
  | unit (die cl : Nat)
  deriving DecidableEq, Repr
/-- A soft error in a die structure (Table 16-9). -/
inductive DieErr where
  | tlb (vdev page : Nat)
  | icache (vdev line : Nat)
  | replicaMap (vdev page : Nat)
  | shadow (frame : Nat)
  | control
  | lock (vdev page : Nat)
  | data (sector : Nat)
  deriving DecidableEq, Repr
/-- Where the resident system puts the pages of an MMAP, a new device's root table and the like: one frame per page. -/
abbrev Frames := List Nat
/-- Where the loader places an image: its first address, and the frames of its pages and of the tables over them (R356). -/
structure ImagePlace where
  base : Nat
  frames : Frames
  tables : Frames
  deriving DecidableEq, Repr
/-- The data of a request with the offsets of its poisoned bytes (R62). -/
structure ReqData where
  bytes : List Byte
  psn : List Nat
  deriving DecidableEq, Repr
/-- What an access through BAR2 is: a read, or a write with its Relaxed Ordering attribute (R350, R397). -/
inductive Bar2Op where
  | read
  | write (relaxed : Bool)
  deriving DecidableEq, Repr
/-- Whether it writes. -/
def Bar2Op.writes : Bar2Op → Bool
  | .read => false
  | .write _ => true
/-- Whether it may be performed later. -/
def Bar2Op.relaxed : Bar2Op → Bool
  | .read => false
  | .write r => r

/-- The BAR0 mailbox registers that hold state (Table 20-3); MVER, BFAIL and BSTAGE are read from elsewhere. -/
structure Mailbox where
  qbase : DWord
  qlog : Word
  qtail : Word
  qhead : Word
  pbase : DWord
  plog : Word
  ptail : Word
  phead : Word
  birq : Bool
  rirq : Bool
  deriving DecidableEq, Repr

/-- A request of the host mailbox that waits for its service (R398). -/
structure HostReq where
  tag : Nat
  code : Nat
  vdev : Nat
  words : List Word
  deriving DecidableEq, Repr

/-- The resident system and the application die: boot, power, mailbox with the MSI-X messages that it has raised (1 a boot
failure, 0 a reply; R397), management port with the requests accepted there and not yet answered, logs, the application
cores that run control programs (R353), the reserve that fused and recorded failures call for (R380) and that which errors
have made due (R377), identifiers. -/
structure Package where
  stage : Nat
  bootFail : Nat
  cap : Nat
  throttled : Bool
  stopped : Bool
  box : Mailbox
  msix : List Nat
  mgmtSeq : DWord
  mgmtOpen : List (Nat × DWord)
  log : List LogEnt
  reports : List Report
  answers : List (Nat × DWord)
  reqs : List HostReq
  apps : List AppCore
  fused : List (Nat × Reserve)
  due : List (Nat × Nat × Nat)
  nextId : Nat
  deriving DecidableEq, Repr

/-- The fabric side of the part: part number, links with the counts of their events (R411), routes, traffic passed on,
grants, the peers' and the host's granted memory, BAR2, migrations with what is reserved for those to come and the switch
markers sent (R407), the host's memory, the writes not yet acknowledged (R394), the requests that wait for tokens and the
outside writes that have not landed, the answers sent to outside requesters, the answers given to parts that asked for room for a
device (R399), and the calls of devices that have moved which this part's resident system has still to complete, with those that
it has completed (R408). -/
structure Fabric where
  part : Nat
  links : FMap Link
  linkEvents : FMap Nat
  routes : FMap Nat
  passed : List Passed
  grants : List Grant
  peers : List Peer
  bar2Dev : Nat
  bar2 : List Bar2
  migOut : List MigOut
  migIn : List MigIn
  reserved : List Reserved
  markersOut : List (Nat × Nat)
  host : FMap (Option Byte)
  hostPsn : NSet
  unack : List Unack
  waiting : List PeerReq
  outHeld : List OutReq
  outAnswers : List (Nat × Nat × List (Byte × Bool))
  roomAnswers : List (Nat × Nat × Bool)
  owed : List (Nat × Nat × Call)
  paid : List (Nat × Nat × Nat × DWord)
  deriving DecidableEq, Repr

/-- What comes from outside the machine, or from a control program, without being an instruction or an event of the opcode
table. `pass` is no input: the step goes on to what stands next. -/
inductive Input where
  /-- Nothing comes now. -/
  | pass
  /-- A control program makes an environment call (R354). -/
  | appCall (core : Nat) (x17 x10 : DWord)
  /-- A control program writes device memory (R353). -/
  | appWrite (core : Nat) (va : Nat) (data : List Byte)
  /-- A control program reads device memory (R353). -/
  | appRead (core : Nat) (va n : Nat)
  /-- The resident system sets the assay words of a device (R323). -/
  | assay (vdev : Nat) (w0 w1 w2 : Word)
  /-- The resident system clears a violation log (R337). -/
  | clearViols (die : Nat)
  /-- The operator takes a page out of the BAR2 window (R397). -/
  | bar2Unmap (win : Nat)
  /-- Another part's access changes memory that a peer grants (R395). -/
  | peerWrite (part vdev pos : Nat) (data : List Byte) (p : Bool)
  /-- A peer answers requests for a page of a window as unmapped, or no longer (R393). -/
  | peerUnmapped (part vdev page : Nat) (off : Bool)
  /-- A peer refuses requests for a page of a window, or no longer (R393). -/
  | peerRefused (part vdev page : Nat) (off : Bool)
  /-- The host writes its own memory: its requests among it (R398). -/
  | hostWrite (addr : Nat) (data : List Byte)
  /-- The source part of a device that moves here has failed (R409). -/
  | sourceFailed (src : Nat)
  /-- The resident system of the source has completed a call of a device that has moved here (R408). -/
  | callCompleted (vdev id : Nat)
  /-- The condition of a call of a device that has moved away holds at its new part, with this result (R408). -/
  | callCondition (dest vdev id : Nat) (res : DWord)
  /-- An exporter has not yet re-pointed the grant of a window of a device that has moved here, or has (R409). -/
  | windowPointed (part vdev : Nat) (ok : Bool)
  /-- A flit passes over a link without a replay (R410). -/
  | goodFlit (link : Nat)
  /-- Twenty-four hours have passed for the wear monitors (R377). -/
  | day
  /-- A corrected error in a cluster unit (R306). -/
  | corrected (die cl : Nat)
  /-- A datagram with the code of a system call comes to the management port: its tag, its sequence number, whether it is sound, the
  device and the arguments (R383, R398). -/
  | portCall (tag : Nat) (seq : DWord) (sound : Bool) (vdev code : Nat) (args : List Word)
  /-- Traffic of another part for another part (R391). -/
  | transit (dst hops : Nat)
  /-- A device of another part asks for a place here (R399): what the operator's record gives it, and the resident system's
  choices. -/
  | reserve (src sdev : Nat) (st : ExecState) (record : List Byte) (root block : Nat) (check : Half) (slots frames tables : List Nat)
  /-- The execution state of a device comes, encrypted, with its digest and signature (R400). -/
  | stateCame (src sdev : Nat) (cipher digest sig : List Byte)
  /-- The destination of a migration has failed (R409). -/
  | destFailed (vdev : Nat)
  deriving DecidableEq, Repr

end Sys2Proof.Machine
end

