-- ==== Sys2Proof/Syntax.lean ====
section
/-! DEFINITION. The instruction set: one constructor for each row of spec/opcode_table.json. A native form carries the
fields of its F word, a Prerin form the fields its words supply, an event the units it acts on and the choices that the
spec leaves to the resident system or to the outside world. -/
namespace Sys2Proof

/-- The rows of the opcode table. `ill` and `illPrerin` keep their whole word (R103). -/
inductive Instr where
  /- native forms (Table 4-7) -/
  | ill (w : DWord)
  | mov (f : Fields)
  | movh (f : Fields)
  | add (f : Fields)
  | sub (f : Fields)
  | addx (f : Fields)
  | subx (f : Fields)
  | mul (f : Fields)
  | mulhi (f : Fields)
  | mad (f : Fields)
  | madhi (f : Fields)
  | mulw (f : Fields)
  | madw (f : Fields)
  | min (f : Fields)
  | max (f : Fields)
  | abs (f : Fields)
  | and (f : Fields)
  | or (f : Fields)
  | xor (f : Fields)
  | andn (f : Fields)
  | lop3 (f : Fields)
  | shl (f : Fields)
  | shr (f : Fields)
  | sar (f : Fields)
  | rot (f : Fields)
  | fsh (f : Fields)
  | bfx (f : Fields)
  | bfi (f : Fields)
  | popc (f : Fields)
  | clz (f : Fields)
  | ctz (f : Fields)
  | brev (f : Fields)
  | bperm (f : Fields)
  | sel (f : Fields)
  | cmp (f : Fields)
  | lea (f : Fields)
  | sad (f : Fields)
  | dot4 (f : Fields)
  | dot2 (f : Fields)
  | vadd2 (f : Fields)
  | vsub2 (f : Fields)
  | vmax2 (f : Fields)
  | vmin2 (f : Fields)
  | plop (f : Fields)
  | pmov (f : Fields)
  | fadd (f : Fields)
  | fsub (f : Fields)
  | fmul (f : Fields)
  | ffma (f : Fields)
  | fmin (f : Fields)
  | fmax (f : Fields)
  | fcmp (f : Fields)
  | fclamp (f : Fields)
  | frnd (f : Fields)
  | hadd2 (f : Fields)
  | hmul2 (f : Fields)
  | hfma2 (f : Fields)
  | hmin2 (f : Fields)
  | hmax2 (f : Fields)
  | hcmp2 (f : Fields)
  | fdot2 (f : Fields)
  | cvt (f : Fields)
  | cvtpk (f : Fields)
  | unpk (f : Fields)
  | q4enc (f : Fields)
  | q4dec (f : Fields)
  | frcp (f : Fields)
  | frsq (f : Fields)
  | fsqrt (f : Fields)
  | fex2 (f : Fields)
  | flg2 (f : Fields)
  | fsin (f : Fields)
  | fcos (f : Fields)
  | ftanh (f : Fields)
  | fact (f : Fields)
  | atld (f : Fields)
  | atsel (f : Fields)
  | shfl (f : Fields)
  | vote (f : Fields)
  | matchk (f : Fields)
  | redux (f : Fields)
  | redix (f : Fields)
  | scan (f : Fields)
  | setpart (f : Fields)
  | actv (f : Fields)
  | lds (f : Fields)
  | sts (f : Fields)
  | ldsa (f : Fields)
  | stsr (f : Fields)
  | atms (f : Fields)
  | ldw (f : Fields)
  | fence (f : Fields)
  | bar (f : Fields)
  | xbarInit (f : Fields)
  | xbarArrive (f : Fields)
  | xbarWait (f : Fields)
  | xbarInval (f : Fields)
  | cpy (f : Fields)
  | cpyg (f : Fields)
  | cpys (f : Fields)
  | cpyr (f : Fields)
  | ldg (f : Fields)
  | stg (f : Fields)
  | atmg (f : Fields)
  | cqjoin (f : Fields)
  | smap (f : Fields)
  | ssync (f : Fields)
  | sinv (f : Fields)
  | sclose (f : Fields)
  | pref (f : Fields)
  | hld (f : Fields)
  | hst (f : Fields)
  | hset (f : Fields)
  | hget (f : Fields)
  | hcpy (f : Fields)
  | hadv (f : Fields)
  | mclr (f : Fields)
  | mtile (f : Fields)
  | mcvt (f : Fields)
  | mld (f : Fields)
  | mexp (f : Fields)
  | mstat (f : Fields)
  | mfmt (f : Fields)
  | tspawn (f : Fields)
  | qrsv (f : Fields)
  | qenq (f : Fields)
  | qdeq (f : Fields)
  | qtry (f : Fields)
  | qsteal (f : Fields)
  | qerr (f : Fields)
  | qrest (f : Fields)
  | qstat (f : Fields)
  | succ (f : Fields)
  | wvis (f : Fields)
  | rsurr (f : Fields)
  | rclaim (f : Fields)
  | rstart (f : Fields)
  | rchild (f : Fields)
  | rdone (f : Fields)
  | rret (f : Fields)
  | rres (f : Fields)
  | rinfo (f : Fields)
  | rbase (f : Fields)
  | rabort (f : Fields)
  | bra (f : Fields)
  | brx (f : Fields)
  | call (f : Fields)
  | callx (f : Fields)
  | ret (f : Fields)
  | exit (f : Fields)
  | yield (f : Fields)
  | nop (f : Fields)
  | trap (f : Fields)
  | tret (f : Fields)
  | sysc (f : Fields)
  | srd (f : Fields)
  | swr (f : Fields)
  | bkpt (f : Fields)
  | ackn (f : Fields)
  | wflg (f : Fields)
  /- the paired word (R71) and the clause header (R76) -/
  | pWord (upper lower : HalfFields)
  | clauseBoundary (h : HFields)
  /- events -/
  | demotionExpiry (t : Machine.TRef)
  | starvationPromotion (t : Machine.TRef)
  | queueEntryBegin (q : Machine.QRef)
  | commandRetire (q : Machine.QRef)
  | copyCredit (q : Machine.QRef) (n : Nat)
  | barrierWake (g : Nat)
  | spanFill (g m sec : Nat)
  | spanWriteBack (g : Nat) (who : Option Machine.TRef)
  | bankWrite (die core bank : Nat)
  | chaserStep (die core quad : Nat)
  | preEmptionRequest (die core region : Nat) (ls : List (BitVec 4)) (blocks : List Nat) (sbg : BitVec 16)
  | foldComplete (g : Nat) (w : Option Nat)
  | expansion (g : Nat)
  | expansionRefill (g : Nat) (w : Option Nat)
  | reachBufferFill (g w blk : Nat)
  | spilledUnitAccess (g w : Nat)
  | fullSaveRequest (g : Nat)
  | draining (g : Nat)
  | forcedSave (g : Nat)
  | drainComplete (g : Nat)
  | saveWritten (g : Nat)
  | resume (g die core : Nat) (units : List Nat)
  | engineFault (src : Machine.FaultSrc)
  | softError (e : Machine.SoftErr) (die core : Nat) (unc : Bool)
  | coreHardFailure (die core : Nat)
  | clusterFailure (e : Machine.ClusterErr)
  | dieSoftError (die : Nat) (e : Machine.DieErr) (unc : Bool)
  | gangPlacement (launch die core : Nat) (units : List Nat)
  | waveFormation (die cl core task : Nat) (units : List Nat)
  | slotHeaderWrite (q : Nat)
  | queueService (q : Nat)
  | laneWorkgroupPlacement (n die core : Nat) (units : List Nat)
  | icinv (die : Nat) (w0 w1 w2 w3 : DWord)
  | icinvall (die : Nat) (w0 w1 w2 w3 : DWord)
  | tinv (die : Nat) (w0 w1 w2 w3 : DWord)
  | tinvall (die : Nat) (w0 w1 w2 w3 : DWord)
  | keyload (die : Nat) (w0 w1 w2 w3 : DWord)
  | keydisc (die : Nat) (w0 w1 w2 w3 : DWord)
  | scrub (die : Nat) (w0 w1 w2 w3 : DWord)
  | frestart (die : Nat) (w0 w1 w2 w3 : DWord)
  | fkill (die : Nat) (w0 w1 w2 w3 : DWord)
  | unknownDieCommand (die : Nat) (w0 w1 w2 w3 : DWord)
  | epochEnd (die vdev : Nat) (queued : List Nat)
  | pageMove (die vdev page act target frame : Nat)
  | replicaCommit (q : Machine.QRef)
  | tokenPeriod (die : Nat)
  | version (c : Nat)
  | launch (c : Nat)
  | lstat (c : Nat)
  | lwait (c : Nat)
  | qopen (c : Nat) (check : Half)
  | qclose (c : Nat)
  | mmap (c : Nat) (frames : Machine.Frames) (tables : Machine.Frames)
  | munmap (c : Nat)
  | rcreate (c : Nat) (addr : Nat) (check : Half)
  | rdestroy (c : Nat)
  | fwait (c : Nat)
  | fresolve (c : Nat)
  | log (c : Nat)
  | ckpt (c : Nat)
  | resync (c : Nat)
  | unassignedSyscall (c : Nat)
  | syscallReply (c : Nat)
  | imageLoad (vdev : Nat) (image : List Byte) (place : Machine.ImagePlace)
  | functionSwap (img func : Nat) (code : List DWord)
  | sliceEnd (die core quad : Nat)
  | vconfCreate (src : Machine.ReqSrc) (record : List Byte) (root : Nat) (block : Nat) (check : Half) (slots : List Nat)
  | vconfChange (src : Machine.ReqSrc) (record : List Byte)
  | vconfReset (src : Machine.ReqSrc) (record : List Byte)
  | vconfDelete (src : Machine.ReqSrc) (record : List Byte)
  | resyncService (src : Machine.ReqSrc)
  | attest (src : Machine.ReqSrc) (vdev : Nat) (nonce : List Byte)
  | rstat (src : Machine.ReqSrc)
  | pcap (src : Machine.ReqSrc) (w : Word)
  | migrate (src : Machine.ReqSrc) (vdev dest : Nat) (accepted : Bool)
  | unknownServiceCode (src : Machine.ReqSrc) (code : Half)
  | qtail (v : Word)
  | registerWrite (off : Nat) (v : Word)
  | boot (fails : List Nat)
  | reserveBringIn (die kind num date : Nat)
  | thermalThrottle
  | thermalShutdown (safe : Bool)
  | peerRequest (link ipart ivdev ppg off kind n : Nat) (data : Machine.ReqData)
  | outsideWrite (src vdev : Nat) (va : DWord) (data : List Byte) (relaxed : Bool)
  | bar2Access (win off n : Nat) (op : Machine.Bar2Op) (data : List Byte)
  | flitReplay (link : Nat)
  | linkRetrain (link : Nat)
  | laneFailure (link : Nat) (rx : Bool) (date : Nat)
  | linkDown (link : Nat)
  | routeTimeout (part : Nat)
  | migrationQuiesce (vdev : Nat)
  | migrationSend (vdev : Nat)
  | migrationCommit (vdev : Nat) (ok : Bool) (exp : Option (Nat × Nat × Nat))
  | migrationResume (vdev src : Nat) (st : Machine.ExecState) (marks : List (Nat × Nat)) (frames tables : Machine.Frames)
  | demandRequest (vdev page die : Nat) (arriving : Bool)
  | pagePush (vdev : Nat)
  | pageArrival (vdev page frame : Nat) (img : Option Machine.PageImg)
  | peerSwitch (vdev peer src dest : Nat) (importer : Bool)
  | switchMarker (vdev link peer : Nat)
  | migrationRelease (vdev : Nat)
  | linkTrained (link peer own : Nat) (routes : List (Nat × Nat))
  | outsideRead (src vdev : Nat) (va : DWord) (n : Nat)
  | peerWindowConfiguration (g : Machine.Grant) (exp va : Nat) (tables : Machine.Frames)
  | bar2MappingConfiguration (vdev : Nat) (m : Machine.Bar2)
  | checkpointRestore (id : Nat) (frames tables : Machine.Frames)
  | operatorCheckpoint
  /- Prerin forms (R85) -/
  | illPrerin (w : Word)
  | movPrerin (f : PFields)
  | movhPrerin (f : PFields)
  | addPrerin (f : PFields)
  | subPrerin (f : PFields)
  | addxPrerin (f : PFields)
  | subxPrerin (f : PFields)
  | mulPrerin (f : PFields)
  | mulhiPrerin (f : PFields)
  | madPrerin (f : PFields)
  | madhiPrerin (f : PFields)
  | mulwPrerin (f : PFields)
  | madwPrerin (f : PFields)
  | minPrerin (f : PFields)
  | maxPrerin (f : PFields)
  | absPrerin (f : PFields)
  | andPrerin (f : PFields)
  | orPrerin (f : PFields)
  | xorPrerin (f : PFields)
  | andnPrerin (f : PFields)
  | lop3Prerin (f : PFields)
  | shlPrerin (f : PFields)
  | shrPrerin (f : PFields)
  | sarPrerin (f : PFields)
  | rotPrerin (f : PFields)
  | fshPrerin (f : PFields)
  | bfxPrerin (f : PFields)
  | bfiPrerin (f : PFields)
  | popcPrerin (f : PFields)
  | clzPrerin (f : PFields)
  | ctzPrerin (f : PFields)
  | brevPrerin (f : PFields)
  | bpermPrerin (f : PFields)
  | selPrerin (f : PFields)
  | cmpPrerin (f : PFields)
  | leaPrerin (f : PFields)
  | sadPrerin (f : PFields)
  | dot4Prerin (f : PFields)
  | dot2Prerin (f : PFields)
  | vadd2Prerin (f : PFields)
  | vsub2Prerin (f : PFields)
  | vmax2Prerin (f : PFields)
  | vmin2Prerin (f : PFields)
  | plopPrerin (f : PFields)
  | pmovPrerin (f : PFields)
  | faddPrerin (f : PFields)
  | fsubPrerin (f : PFields)
  | fmulPrerin (f : PFields)
  | ffmaPrerin (f : PFields)
  | fminPrerin (f : PFields)
  | fmaxPrerin (f : PFields)
  | fcmpPrerin (f : PFields)
  | fclampPrerin (f : PFields)
  | frndPrerin (f : PFields)
  | hadd2Prerin (f : PFields)
  | hmul2Prerin (f : PFields)
  | hfma2Prerin (f : PFields)
  | hmin2Prerin (f : PFields)
  | hmax2Prerin (f : PFields)
  | hcmp2Prerin (f : PFields)
  | fdot2Prerin (f : PFields)
  | cvtPrerin (f : PFields)
  | cvtpkPrerin (f : PFields)
  | unpkPrerin (f : PFields)
  | q4encPrerin (f : PFields)
  | q4decPrerin (f : PFields)
  | frcpPrerin (f : PFields)
  | frsqPrerin (f : PFields)
  | fsqrtPrerin (f : PFields)
  | fex2Prerin (f : PFields)
  | flg2Prerin (f : PFields)
  | fsinPrerin (f : PFields)
  | fcosPrerin (f : PFields)
  | ftanhPrerin (f : PFields)
  | factPrerin (f : PFields)
  | atldPrerin (f : PFields)
  | atselPrerin (f : PFields)
  | shflPrerin (f : PFields)
  | votePrerin (f : PFields)
  | matchkPrerin (f : PFields)
  | reduxPrerin (f : PFields)
  | redixPrerin (f : PFields)
  | scanPrerin (f : PFields)
  | setpartPrerin (f : PFields)
  | actvPrerin (f : PFields)
  | ldsPrerin (f : PFields)
  | stsPrerin (f : PFields)
  | ldsaPrerin (f : PFields)
  | stsrPrerin (f : PFields)
  | atmsPrerin (f : PFields)
  | ldwPrerin (f : PFields)
  | fencePrerin (f : PFields)
  | barPrerin (f : PFields)
  | xbarInitPrerin (f : PFields)
  | xbarArrivePrerin (f : PFields)
  | xbarWaitPrerin (f : PFields)
  | xbarInvalPrerin (f : PFields)
  | cpyPrerin (f : PFields)
  | cpygPrerin (f : PFields)
  | cpysPrerin (f : PFields)
  | cpyrPrerin (f : PFields)
  | ldgPrerin (f : PFields)
  | stgPrerin (f : PFields)
  | atmgPrerin (f : PFields)
  | cqjoinPrerin (f : PFields)
  | smapPrerin (f : PFields)
  | ssyncPrerin (f : PFields)
  | sinvPrerin (f : PFields)
  | sclosePrerin (f : PFields)
  | prefPrerin (f : PFields)
  | hldPrerin (f : PFields)
  | hstPrerin (f : PFields)
  | hsetPrerin (f : PFields)
  | hgetPrerin (f : PFields)
  | hcpyPrerin (f : PFields)
  | hadvPrerin (f : PFields)
  | mclrPrerin (f : PFields)
  | mtilePrerin (f : PFields)
  | mcvtPrerin (f : PFields)
  | mldPrerin (f : PFields)
  | mexpPrerin (f : PFields)
  | mstatPrerin (f : PFields)
  | mfmtPrerin (f : PFields)
  | tspawnPrerin (f : PFields)
  | qrsvPrerin (f : PFields)
  | qenqPrerin (f : PFields)
  | qdeqPrerin (f : PFields)
  | qtryPrerin (f : PFields)
  | qstealPrerin (f : PFields)
  | qerrPrerin (f : PFields)
  | qrestPrerin (f : PFields)
  | qstatPrerin (f : PFields)
  | succPrerin (f : PFields)
  | wvisPrerin (f : PFields)
  | rsurrPrerin (f : PFields)
  | rclaimPrerin (f : PFields)
  | rstartPrerin (f : PFields)
  | rchildPrerin (f : PFields)
  | rdonePrerin (f : PFields)
  | rretPrerin (f : PFields)
  | rresPrerin (f : PFields)
  | rinfoPrerin (f : PFields)
  | rbasePrerin (f : PFields)
  | rabortPrerin (f : PFields)
  | braPrerin (f : PFields)
  | brxPrerin (f : PFields)
  | callPrerin (f : PFields)
  | callxPrerin (f : PFields)
  | retPrerin (f : PFields)
  | exitPrerin (f : PFields)
  | yieldPrerin (f : PFields)
  | nopPrerin (f : PFields)
  | trapPrerin (f : PFields)
  | tretPrerin (f : PFields)
  | syscPrerin (f : PFields)
  | srdPrerin (f : PFields)
  | swrPrerin (f : PFields)
  | bkptPrerin (f : PFields)
  | acknPrerin (f : PFields)
  | wflgPrerin (f : PFields)
  deriving DecidableEq, Repr

end Sys2Proof
end

