-- ==== Sys2Proof/WellFormed.lean ====
section
/-! DEFINITION. Which instructions are well formed: exactly those whose words pass every decode rule that depends on the
words alone (R424). -/
namespace Sys2Proof

/-- How an instruction is written: a native word of a form, a Prerin run of a form, a raw illegal word, a P word, a
clause header, or no word at all (an event). -/
inductive View where
  | native (o : Op) (f : Fields)
  | prerin (o : Op) (p : PFields)
  | illN (w : DWord)
  | illP (w : Word)
  | pair (u l : HalfFields)
  | header (h : HFields)
  | event
  deriving DecidableEq, Repr

/-- The view of an instruction. -/
def Instr.view : Instr → View
  | .ill w => .illN w
  | .mov f => .native .mov f
  | .movh f => .native .movh f
  | .add f => .native .add f
  | .sub f => .native .sub f
  | .addx f => .native .addx f
  | .subx f => .native .subx f
  | .mul f => .native .mul f
  | .mulhi f => .native .mulhi f
  | .mad f => .native .mad f
  | .madhi f => .native .madhi f
  | .mulw f => .native .mulw f
  | .madw f => .native .madw f
  | .min f => .native .min f
  | .max f => .native .max f
  | .abs f => .native .abs f
  | .and f => .native .and f
  | .or f => .native .or f
  | .xor f => .native .xor f
  | .andn f => .native .andn f
  | .lop3 f => .native .lop3 f
  | .shl f => .native .shl f
  | .shr f => .native .shr f
  | .sar f => .native .sar f
  | .rot f => .native .rot f
  | .fsh f => .native .fsh f
  | .bfx f => .native .bfx f
  | .bfi f => .native .bfi f
  | .popc f => .native .popc f
  | .clz f => .native .clz f
  | .ctz f => .native .ctz f
  | .brev f => .native .brev f
  | .bperm f => .native .bperm f
  | .sel f => .native .sel f
  | .cmp f => .native .cmp f
  | .lea f => .native .lea f
  | .sad f => .native .sad f
  | .dot4 f => .native .dot4 f
  | .dot2 f => .native .dot2 f
  | .vadd2 f => .native .vadd2 f
  | .vsub2 f => .native .vsub2 f
  | .vmax2 f => .native .vmax2 f
  | .vmin2 f => .native .vmin2 f
  | .plop f => .native .plop f
  | .pmov f => .native .pmov f
  | .fadd f => .native .fadd f
  | .fsub f => .native .fsub f
  | .fmul f => .native .fmul f
  | .ffma f => .native .ffma f
  | .fmin f => .native .fmin f
  | .fmax f => .native .fmax f
  | .fcmp f => .native .fcmp f
  | .fclamp f => .native .fclamp f
  | .frnd f => .native .frnd f
  | .hadd2 f => .native .hadd2 f
  | .hmul2 f => .native .hmul2 f
  | .hfma2 f => .native .hfma2 f
  | .hmin2 f => .native .hmin2 f
  | .hmax2 f => .native .hmax2 f
  | .hcmp2 f => .native .hcmp2 f
  | .fdot2 f => .native .fdot2 f
  | .cvt f => .native .cvt f
  | .cvtpk f => .native .cvtpk f
  | .unpk f => .native .unpk f
  | .q4enc f => .native .q4enc f
  | .q4dec f => .native .q4dec f
  | .frcp f => .native .frcp f
  | .frsq f => .native .frsq f
  | .fsqrt f => .native .fsqrt f
  | .fex2 f => .native .fex2 f
  | .flg2 f => .native .flg2 f
  | .fsin f => .native .fsin f
  | .fcos f => .native .fcos f
  | .ftanh f => .native .ftanh f
  | .fact f => .native .fact f
  | .atld f => .native .atld f
  | .atsel f => .native .atsel f
  | .shfl f => .native .shfl f
  | .vote f => .native .vote f
  | .matchk f => .native .matchk f
  | .redux f => .native .redux f
  | .redix f => .native .redix f
  | .scan f => .native .scan f
  | .setpart f => .native .setpart f
  | .actv f => .native .actv f
  | .lds f => .native .lds f
  | .sts f => .native .sts f
  | .ldsa f => .native .ldsa f
  | .stsr f => .native .stsr f
  | .atms f => .native .atms f
  | .ldw f => .native .ldw f
  | .fence f => .native .fence f
  | .bar f => .native .bar f
  | .xbarInit f => .native .xbarInit f
  | .xbarArrive f => .native .xbarArrive f
  | .xbarWait f => .native .xbarWait f
  | .xbarInval f => .native .xbarInval f
  | .cpy f => .native .cpy f
  | .cpyg f => .native .cpyg f
  | .cpys f => .native .cpys f
  | .cpyr f => .native .cpyr f
  | .ldg f => .native .ldg f
  | .stg f => .native .stg f
  | .atmg f => .native .atmg f
  | .cqjoin f => .native .cqjoin f
  | .smap f => .native .smap f
  | .ssync f => .native .ssync f
  | .sinv f => .native .sinv f
  | .sclose f => .native .sclose f
  | .pref f => .native .pref f
  | .hld f => .native .hld f
  | .hst f => .native .hst f
  | .hset f => .native .hset f
  | .hget f => .native .hget f
  | .hcpy f => .native .hcpy f
  | .hadv f => .native .hadv f
  | .mclr f => .native .mclr f
  | .mtile f => .native .mtile f
  | .mcvt f => .native .mcvt f
  | .mld f => .native .mld f
  | .mexp f => .native .mexp f
  | .mstat f => .native .mstat f
  | .mfmt f => .native .mfmt f
  | .tspawn f => .native .tspawn f
  | .qrsv f => .native .qrsv f
  | .qenq f => .native .qenq f
  | .qdeq f => .native .qdeq f
  | .qtry f => .native .qtry f
  | .qsteal f => .native .qsteal f
  | .qerr f => .native .qerr f
  | .qrest f => .native .qrest f
  | .qstat f => .native .qstat f
  | .succ f => .native .succ f
  | .wvis f => .native .wvis f
  | .rsurr f => .native .rsurr f
  | .rclaim f => .native .rclaim f
  | .rstart f => .native .rstart f
  | .rchild f => .native .rchild f
  | .rdone f => .native .rdone f
  | .rret f => .native .rret f
  | .rres f => .native .rres f
  | .rinfo f => .native .rinfo f
  | .rbase f => .native .rbase f
  | .rabort f => .native .rabort f
  | .bra f => .native .bra f
  | .brx f => .native .brx f
  | .call f => .native .call f
  | .callx f => .native .callx f
  | .ret f => .native .ret f
  | .exit f => .native .exit f
  | .yield f => .native .yield f
  | .nop f => .native .nop f
  | .trap f => .native .trap f
  | .tret f => .native .tret f
  | .sysc f => .native .sysc f
  | .srd f => .native .srd f
  | .swr f => .native .swr f
  | .bkpt f => .native .bkpt f
  | .ackn f => .native .ackn f
  | .wflg f => .native .wflg f
  | .illPrerin w => .illP w
  | .movPrerin p => .prerin .mov p
  | .movhPrerin p => .prerin .movh p
  | .addPrerin p => .prerin .add p
  | .subPrerin p => .prerin .sub p
  | .addxPrerin p => .prerin .addx p
  | .subxPrerin p => .prerin .subx p
  | .mulPrerin p => .prerin .mul p
  | .mulhiPrerin p => .prerin .mulhi p
  | .madPrerin p => .prerin .mad p
  | .madhiPrerin p => .prerin .madhi p
  | .mulwPrerin p => .prerin .mulw p
  | .madwPrerin p => .prerin .madw p
  | .minPrerin p => .prerin .min p
  | .maxPrerin p => .prerin .max p
  | .absPrerin p => .prerin .abs p
  | .andPrerin p => .prerin .and p
  | .orPrerin p => .prerin .or p
  | .xorPrerin p => .prerin .xor p
  | .andnPrerin p => .prerin .andn p
  | .lop3Prerin p => .prerin .lop3 p
  | .shlPrerin p => .prerin .shl p
  | .shrPrerin p => .prerin .shr p
  | .sarPrerin p => .prerin .sar p
  | .rotPrerin p => .prerin .rot p
  | .fshPrerin p => .prerin .fsh p
  | .bfxPrerin p => .prerin .bfx p
  | .bfiPrerin p => .prerin .bfi p
  | .popcPrerin p => .prerin .popc p
  | .clzPrerin p => .prerin .clz p
  | .ctzPrerin p => .prerin .ctz p
  | .brevPrerin p => .prerin .brev p
  | .bpermPrerin p => .prerin .bperm p
  | .selPrerin p => .prerin .sel p
  | .cmpPrerin p => .prerin .cmp p
  | .leaPrerin p => .prerin .lea p
  | .sadPrerin p => .prerin .sad p
  | .dot4Prerin p => .prerin .dot4 p
  | .dot2Prerin p => .prerin .dot2 p
  | .vadd2Prerin p => .prerin .vadd2 p
  | .vsub2Prerin p => .prerin .vsub2 p
  | .vmax2Prerin p => .prerin .vmax2 p
  | .vmin2Prerin p => .prerin .vmin2 p
  | .plopPrerin p => .prerin .plop p
  | .pmovPrerin p => .prerin .pmov p
  | .faddPrerin p => .prerin .fadd p
  | .fsubPrerin p => .prerin .fsub p
  | .fmulPrerin p => .prerin .fmul p
  | .ffmaPrerin p => .prerin .ffma p
  | .fminPrerin p => .prerin .fmin p
  | .fmaxPrerin p => .prerin .fmax p
  | .fcmpPrerin p => .prerin .fcmp p
  | .fclampPrerin p => .prerin .fclamp p
  | .frndPrerin p => .prerin .frnd p
  | .hadd2Prerin p => .prerin .hadd2 p
  | .hmul2Prerin p => .prerin .hmul2 p
  | .hfma2Prerin p => .prerin .hfma2 p
  | .hmin2Prerin p => .prerin .hmin2 p
  | .hmax2Prerin p => .prerin .hmax2 p
  | .hcmp2Prerin p => .prerin .hcmp2 p
  | .fdot2Prerin p => .prerin .fdot2 p
  | .cvtPrerin p => .prerin .cvt p
  | .cvtpkPrerin p => .prerin .cvtpk p
  | .unpkPrerin p => .prerin .unpk p
  | .q4encPrerin p => .prerin .q4enc p
  | .q4decPrerin p => .prerin .q4dec p
  | .frcpPrerin p => .prerin .frcp p
  | .frsqPrerin p => .prerin .frsq p
  | .fsqrtPrerin p => .prerin .fsqrt p
  | .fex2Prerin p => .prerin .fex2 p
  | .flg2Prerin p => .prerin .flg2 p
  | .fsinPrerin p => .prerin .fsin p
  | .fcosPrerin p => .prerin .fcos p
  | .ftanhPrerin p => .prerin .ftanh p
  | .factPrerin p => .prerin .fact p
  | .atldPrerin p => .prerin .atld p
  | .atselPrerin p => .prerin .atsel p
  | .shflPrerin p => .prerin .shfl p
  | .votePrerin p => .prerin .vote p
  | .matchkPrerin p => .prerin .matchk p
  | .reduxPrerin p => .prerin .redux p
  | .redixPrerin p => .prerin .redix p
  | .scanPrerin p => .prerin .scan p
  | .setpartPrerin p => .prerin .setpart p
  | .actvPrerin p => .prerin .actv p
  | .ldsPrerin p => .prerin .lds p
  | .stsPrerin p => .prerin .sts p
  | .ldsaPrerin p => .prerin .ldsa p
  | .stsrPrerin p => .prerin .stsr p
  | .atmsPrerin p => .prerin .atms p
  | .ldwPrerin p => .prerin .ldw p
  | .fencePrerin p => .prerin .fence p
  | .barPrerin p => .prerin .bar p
  | .xbarInitPrerin p => .prerin .xbarInit p
  | .xbarArrivePrerin p => .prerin .xbarArrive p
  | .xbarWaitPrerin p => .prerin .xbarWait p
  | .xbarInvalPrerin p => .prerin .xbarInval p
  | .cpyPrerin p => .prerin .cpy p
  | .cpygPrerin p => .prerin .cpyg p
  | .cpysPrerin p => .prerin .cpys p
  | .cpyrPrerin p => .prerin .cpyr p
  | .ldgPrerin p => .prerin .ldg p
  | .stgPrerin p => .prerin .stg p
  | .atmgPrerin p => .prerin .atmg p
  | .cqjoinPrerin p => .prerin .cqjoin p
  | .smapPrerin p => .prerin .smap p
  | .ssyncPrerin p => .prerin .ssync p
  | .sinvPrerin p => .prerin .sinv p
  | .sclosePrerin p => .prerin .sclose p
  | .prefPrerin p => .prerin .pref p
  | .hldPrerin p => .prerin .hld p
  | .hstPrerin p => .prerin .hst p
  | .hsetPrerin p => .prerin .hset p
  | .hgetPrerin p => .prerin .hget p
  | .hcpyPrerin p => .prerin .hcpy p
  | .hadvPrerin p => .prerin .hadv p
  | .mclrPrerin p => .prerin .mclr p
  | .mtilePrerin p => .prerin .mtile p
  | .mcvtPrerin p => .prerin .mcvt p
  | .mldPrerin p => .prerin .mld p
  | .mexpPrerin p => .prerin .mexp p
  | .mstatPrerin p => .prerin .mstat p
  | .mfmtPrerin p => .prerin .mfmt p
  | .tspawnPrerin p => .prerin .tspawn p
  | .qrsvPrerin p => .prerin .qrsv p
  | .qenqPrerin p => .prerin .qenq p
  | .qdeqPrerin p => .prerin .qdeq p
  | .qtryPrerin p => .prerin .qtry p
  | .qstealPrerin p => .prerin .qsteal p
  | .qerrPrerin p => .prerin .qerr p
  | .qrestPrerin p => .prerin .qrest p
  | .qstatPrerin p => .prerin .qstat p
  | .succPrerin p => .prerin .succ p
  | .wvisPrerin p => .prerin .wvis p
  | .rsurrPrerin p => .prerin .rsurr p
  | .rclaimPrerin p => .prerin .rclaim p
  | .rstartPrerin p => .prerin .rstart p
  | .rchildPrerin p => .prerin .rchild p
  | .rdonePrerin p => .prerin .rdone p
  | .rretPrerin p => .prerin .rret p
  | .rresPrerin p => .prerin .rres p
  | .rinfoPrerin p => .prerin .rinfo p
  | .rbasePrerin p => .prerin .rbase p
  | .rabortPrerin p => .prerin .rabort p
  | .braPrerin p => .prerin .bra p
  | .brxPrerin p => .prerin .brx p
  | .callPrerin p => .prerin .call p
  | .callxPrerin p => .prerin .callx p
  | .retPrerin p => .prerin .ret p
  | .exitPrerin p => .prerin .exit p
  | .yieldPrerin p => .prerin .yield p
  | .nopPrerin p => .prerin .nop p
  | .trapPrerin p => .prerin .trap p
  | .tretPrerin p => .prerin .tret p
  | .syscPrerin p => .prerin .sysc p
  | .srdPrerin p => .prerin .srd p
  | .swrPrerin p => .prerin .swr p
  | .bkptPrerin p => .prerin .bkpt p
  | .acknPrerin p => .prerin .ackn p
  | .wflgPrerin p => .prerin .wflg p
  | .pWord u l => .pair u l
  | .clauseBoundary h => .header h
  | .demotionExpiry _ => .event
  | .starvationPromotion _ => .event
  | .queueEntryBegin _ => .event
  | .commandRetire _ => .event
  | .copyCredit _ _ => .event
  | .barrierWake _ => .event
  | .spanFill _ _ _ => .event
  | .spanWriteBack _ _ => .event
  | .bankWrite _ _ _ => .event
  | .chaserStep _ _ _ => .event
  | .preEmptionRequest _ _ _ _ _ _ => .event
  | .foldComplete _ _ => .event
  | .expansion _ => .event
  | .expansionRefill _ _ => .event
  | .reachBufferFill _ _ _ => .event
  | .spilledUnitAccess _ _ => .event
  | .fullSaveRequest _ => .event
  | .draining _ => .event
  | .forcedSave _ => .event
  | .drainComplete _ => .event
  | .saveWritten _ => .event
  | .resume _ _ _ _ => .event
  | .engineFault _ => .event
  | .softError _ _ _ _ => .event
  | .coreHardFailure _ _ => .event
  | .clusterFailure _ => .event
  | .dieSoftError _ _ _ => .event
  | .gangPlacement _ _ _ _ => .event
  | .waveFormation _ _ _ _ _ => .event
  | .slotHeaderWrite _ => .event
  | .queueService _ => .event
  | .laneWorkgroupPlacement _ _ _ _ => .event
  | .icinv _ _ _ _ _ => .event
  | .icinvall _ _ _ _ _ => .event
  | .tinv _ _ _ _ _ => .event
  | .tinvall _ _ _ _ _ => .event
  | .keyload _ _ _ _ _ => .event
  | .keydisc _ _ _ _ _ => .event
  | .scrub _ _ _ _ _ => .event
  | .frestart _ _ _ _ _ => .event
  | .fkill _ _ _ _ _ => .event
  | .unknownDieCommand _ _ _ _ _ => .event
  | .epochEnd _ _ _ => .event
  | .pageMove _ _ _ _ _ _ => .event
  | .replicaCommit _ => .event
  | .tokenPeriod _ => .event
  | .version _ => .event
  | .launch _ => .event
  | .lstat _ => .event
  | .lwait _ => .event
  | .qopen _ _ => .event
  | .qclose _ => .event
  | .mmap _ _ _ => .event
  | .munmap _ => .event
  | .rcreate _ _ _ => .event
  | .rdestroy _ => .event
  | .fwait _ => .event
  | .fresolve _ => .event
  | .log _ => .event
  | .ckpt _ => .event
  | .resync _ => .event
  | .unassignedSyscall _ => .event
  | .syscallReply _ => .event
  | .imageLoad _ _ _ => .event
  | .functionSwap _ _ _ => .event
  | .sliceEnd _ _ _ => .event
  | .vconfCreate _ _ _ _ _ _ => .event
  | .vconfChange _ _ => .event
  | .vconfReset _ _ => .event
  | .vconfDelete _ _ => .event
  | .resyncService _ => .event
  | .attest _ _ _ => .event
  | .rstat _ => .event
  | .pcap _ _ => .event
  | .migrate _ _ _ _ => .event
  | .unknownServiceCode _ _ => .event
  | .qtail _ => .event
  | .registerWrite _ _ => .event
  | .boot _ => .event
  | .reserveBringIn _ _ _ _ => .event
  | .thermalThrottle => .event
  | .thermalShutdown _ => .event
  | .peerRequest _ _ _ _ _ _ _ _ => .event
  | .outsideWrite _ _ _ _ _ => .event
  | .bar2Access _ _ _ _ _ => .event
  | .flitReplay _ => .event
  | .linkRetrain _ => .event
  | .laneFailure _ _ _ => .event
  | .linkDown _ => .event
  | .routeTimeout _ => .event
  | .migrationQuiesce _ => .event
  | .migrationSend _ => .event
  | .migrationCommit _ _ _ => .event
  | .migrationResume _ _ _ _ _ _ => .event
  | .demandRequest _ _ _ _ => .event
  | .pagePush _ => .event
  | .pageArrival _ _ _ _ => .event
  | .peerSwitch _ _ _ _ _ => .event
  | .switchMarker _ _ _ => .event
  | .migrationRelease _ => .event
  | .linkTrained _ _ _ _ => .event
  | .outsideRead _ _ _ _ => .event
  | .peerWindowConfiguration _ _ _ _ => .event
  | .bar2MappingConfiguration _ _ => .event
  | .checkpointRestore _ _ _ => .event
  | .operatorCheckpoint => .event

/-- The native instruction of a form (`ill` keeps its word, R103, and has none here). -/
def nativeInstr (o : Op) (f : Fields) : Instr :=
  match o with
  | .ill => .ill 0
  | .mov => .mov f
  | .movh => .movh f
  | .add => .add f
  | .sub => .sub f
  | .addx => .addx f
  | .subx => .subx f
  | .mul => .mul f
  | .mulhi => .mulhi f
  | .mad => .mad f
  | .madhi => .madhi f
  | .mulw => .mulw f
  | .madw => .madw f
  | .min => .min f
  | .max => .max f
  | .abs => .abs f
  | .and => .and f
  | .or => .or f
  | .xor => .xor f
  | .andn => .andn f
  | .lop3 => .lop3 f
  | .shl => .shl f
  | .shr => .shr f
  | .sar => .sar f
  | .rot => .rot f
  | .fsh => .fsh f
  | .bfx => .bfx f
  | .bfi => .bfi f
  | .popc => .popc f
  | .clz => .clz f
  | .ctz => .ctz f
  | .brev => .brev f
  | .bperm => .bperm f
  | .sel => .sel f
  | .cmp => .cmp f
  | .lea => .lea f
  | .sad => .sad f
  | .dot4 => .dot4 f
  | .dot2 => .dot2 f
  | .vadd2 => .vadd2 f
  | .vsub2 => .vsub2 f
  | .vmax2 => .vmax2 f
  | .vmin2 => .vmin2 f
  | .plop => .plop f
  | .pmov => .pmov f
  | .fadd => .fadd f
  | .fsub => .fsub f
  | .fmul => .fmul f
  | .ffma => .ffma f
  | .fmin => .fmin f
  | .fmax => .fmax f
  | .fcmp => .fcmp f
  | .fclamp => .fclamp f
  | .frnd => .frnd f
  | .hadd2 => .hadd2 f
  | .hmul2 => .hmul2 f
  | .hfma2 => .hfma2 f
  | .hmin2 => .hmin2 f
  | .hmax2 => .hmax2 f
  | .hcmp2 => .hcmp2 f
  | .fdot2 => .fdot2 f
  | .cvt => .cvt f
  | .cvtpk => .cvtpk f
  | .unpk => .unpk f
  | .q4enc => .q4enc f
  | .q4dec => .q4dec f
  | .frcp => .frcp f
  | .frsq => .frsq f
  | .fsqrt => .fsqrt f
  | .fex2 => .fex2 f
  | .flg2 => .flg2 f
  | .fsin => .fsin f
  | .fcos => .fcos f
  | .ftanh => .ftanh f
  | .fact => .fact f
  | .atld => .atld f
  | .atsel => .atsel f
  | .shfl => .shfl f
  | .vote => .vote f
  | .matchk => .matchk f
  | .redux => .redux f
  | .redix => .redix f
  | .scan => .scan f
  | .setpart => .setpart f
  | .actv => .actv f
  | .lds => .lds f
  | .sts => .sts f
  | .ldsa => .ldsa f
  | .stsr => .stsr f
  | .atms => .atms f
  | .ldw => .ldw f
  | .fence => .fence f
  | .bar => .bar f
  | .xbarInit => .xbarInit f
  | .xbarArrive => .xbarArrive f
  | .xbarWait => .xbarWait f
  | .xbarInval => .xbarInval f
  | .cpy => .cpy f
  | .cpyg => .cpyg f
  | .cpys => .cpys f
  | .cpyr => .cpyr f
  | .ldg => .ldg f
  | .stg => .stg f
  | .atmg => .atmg f
  | .cqjoin => .cqjoin f
  | .smap => .smap f
  | .ssync => .ssync f
  | .sinv => .sinv f
  | .sclose => .sclose f
  | .pref => .pref f
  | .hld => .hld f
  | .hst => .hst f
  | .hset => .hset f
  | .hget => .hget f
  | .hcpy => .hcpy f
  | .hadv => .hadv f
  | .mclr => .mclr f
  | .mtile => .mtile f
  | .mcvt => .mcvt f
  | .mld => .mld f
  | .mexp => .mexp f
  | .mstat => .mstat f
  | .mfmt => .mfmt f
  | .tspawn => .tspawn f
  | .qrsv => .qrsv f
  | .qenq => .qenq f
  | .qdeq => .qdeq f
  | .qtry => .qtry f
  | .qsteal => .qsteal f
  | .qerr => .qerr f
  | .qrest => .qrest f
  | .qstat => .qstat f
  | .succ => .succ f
  | .wvis => .wvis f
  | .rsurr => .rsurr f
  | .rclaim => .rclaim f
  | .rstart => .rstart f
  | .rchild => .rchild f
  | .rdone => .rdone f
  | .rret => .rret f
  | .rres => .rres f
  | .rinfo => .rinfo f
  | .rbase => .rbase f
  | .rabort => .rabort f
  | .bra => .bra f
  | .brx => .brx f
  | .call => .call f
  | .callx => .callx f
  | .ret => .ret f
  | .exit => .exit f
  | .yield => .yield f
  | .nop => .nop f
  | .trap => .trap f
  | .tret => .tret f
  | .sysc => .sysc f
  | .srd => .srd f
  | .swr => .swr f
  | .bkpt => .bkpt f
  | .ackn => .ackn f
  | .wflg => .wflg f

/-- The Prerin instruction of a form (`ill` keeps its word, R103, and has none here). Lean compiles no value of a
constructor beyond the 245th, so this and what rests on it is for the kernel alone. -/
noncomputable def prerinInstr (o : Op) (p : PFields) : Instr :=
  match o with
  | .ill => .illPrerin 0
  | .mov => .movPrerin p
  | .movh => .movhPrerin p
  | .add => .addPrerin p
  | .sub => .subPrerin p
  | .addx => .addxPrerin p
  | .subx => .subxPrerin p
  | .mul => .mulPrerin p
  | .mulhi => .mulhiPrerin p
  | .mad => .madPrerin p
  | .madhi => .madhiPrerin p
  | .mulw => .mulwPrerin p
  | .madw => .madwPrerin p
  | .min => .minPrerin p
  | .max => .maxPrerin p
  | .abs => .absPrerin p
  | .and => .andPrerin p
  | .or => .orPrerin p
  | .xor => .xorPrerin p
  | .andn => .andnPrerin p
  | .lop3 => .lop3Prerin p
  | .shl => .shlPrerin p
  | .shr => .shrPrerin p
  | .sar => .sarPrerin p
  | .rot => .rotPrerin p
  | .fsh => .fshPrerin p
  | .bfx => .bfxPrerin p
  | .bfi => .bfiPrerin p
  | .popc => .popcPrerin p
  | .clz => .clzPrerin p
  | .ctz => .ctzPrerin p
  | .brev => .brevPrerin p
  | .bperm => .bpermPrerin p
  | .sel => .selPrerin p
  | .cmp => .cmpPrerin p
  | .lea => .leaPrerin p
  | .sad => .sadPrerin p
  | .dot4 => .dot4Prerin p
  | .dot2 => .dot2Prerin p
  | .vadd2 => .vadd2Prerin p
  | .vsub2 => .vsub2Prerin p
  | .vmax2 => .vmax2Prerin p
  | .vmin2 => .vmin2Prerin p
  | .plop => .plopPrerin p
  | .pmov => .pmovPrerin p
  | .fadd => .faddPrerin p
  | .fsub => .fsubPrerin p
  | .fmul => .fmulPrerin p
  | .ffma => .ffmaPrerin p
  | .fmin => .fminPrerin p
  | .fmax => .fmaxPrerin p
  | .fcmp => .fcmpPrerin p
  | .fclamp => .fclampPrerin p
  | .frnd => .frndPrerin p
  | .hadd2 => .hadd2Prerin p
  | .hmul2 => .hmul2Prerin p
  | .hfma2 => .hfma2Prerin p
  | .hmin2 => .hmin2Prerin p
  | .hmax2 => .hmax2Prerin p
  | .hcmp2 => .hcmp2Prerin p
  | .fdot2 => .fdot2Prerin p
  | .cvt => .cvtPrerin p
  | .cvtpk => .cvtpkPrerin p
  | .unpk => .unpkPrerin p
  | .q4enc => .q4encPrerin p
  | .q4dec => .q4decPrerin p
  | .frcp => .frcpPrerin p
  | .frsq => .frsqPrerin p
  | .fsqrt => .fsqrtPrerin p
  | .fex2 => .fex2Prerin p
  | .flg2 => .flg2Prerin p
  | .fsin => .fsinPrerin p
  | .fcos => .fcosPrerin p
  | .ftanh => .ftanhPrerin p
  | .fact => .factPrerin p
  | .atld => .atldPrerin p
  | .atsel => .atselPrerin p
  | .shfl => .shflPrerin p
  | .vote => .votePrerin p
  | .matchk => .matchkPrerin p
  | .redux => .reduxPrerin p
  | .redix => .redixPrerin p
  | .scan => .scanPrerin p
  | .setpart => .setpartPrerin p
  | .actv => .actvPrerin p
  | .lds => .ldsPrerin p
  | .sts => .stsPrerin p
  | .ldsa => .ldsaPrerin p
  | .stsr => .stsrPrerin p
  | .atms => .atmsPrerin p
  | .ldw => .ldwPrerin p
  | .fence => .fencePrerin p
  | .bar => .barPrerin p
  | .xbarInit => .xbarInitPrerin p
  | .xbarArrive => .xbarArrivePrerin p
  | .xbarWait => .xbarWaitPrerin p
  | .xbarInval => .xbarInvalPrerin p
  | .cpy => .cpyPrerin p
  | .cpyg => .cpygPrerin p
  | .cpys => .cpysPrerin p
  | .cpyr => .cpyrPrerin p
  | .ldg => .ldgPrerin p
  | .stg => .stgPrerin p
  | .atmg => .atmgPrerin p
  | .cqjoin => .cqjoinPrerin p
  | .smap => .smapPrerin p
  | .ssync => .ssyncPrerin p
  | .sinv => .sinvPrerin p
  | .sclose => .sclosePrerin p
  | .pref => .prefPrerin p
  | .hld => .hldPrerin p
  | .hst => .hstPrerin p
  | .hset => .hsetPrerin p
  | .hget => .hgetPrerin p
  | .hcpy => .hcpyPrerin p
  | .hadv => .hadvPrerin p
  | .mclr => .mclrPrerin p
  | .mtile => .mtilePrerin p
  | .mcvt => .mcvtPrerin p
  | .mld => .mldPrerin p
  | .mexp => .mexpPrerin p
  | .mstat => .mstatPrerin p
  | .mfmt => .mfmtPrerin p
  | .tspawn => .tspawnPrerin p
  | .qrsv => .qrsvPrerin p
  | .qenq => .qenqPrerin p
  | .qdeq => .qdeqPrerin p
  | .qtry => .qtryPrerin p
  | .qsteal => .qstealPrerin p
  | .qerr => .qerrPrerin p
  | .qrest => .qrestPrerin p
  | .qstat => .qstatPrerin p
  | .succ => .succPrerin p
  | .wvis => .wvisPrerin p
  | .rsurr => .rsurrPrerin p
  | .rclaim => .rclaimPrerin p
  | .rstart => .rstartPrerin p
  | .rchild => .rchildPrerin p
  | .rdone => .rdonePrerin p
  | .rret => .rretPrerin p
  | .rres => .rresPrerin p
  | .rinfo => .rinfoPrerin p
  | .rbase => .rbasePrerin p
  | .rabort => .rabortPrerin p
  | .bra => .braPrerin p
  | .brx => .brxPrerin p
  | .call => .callPrerin p
  | .callx => .callxPrerin p
  | .ret => .retPrerin p
  | .exit => .exitPrerin p
  | .yield => .yieldPrerin p
  | .nop => .nopPrerin p
  | .trap => .trapPrerin p
  | .tret => .tretPrerin p
  | .sysc => .syscPrerin p
  | .srd => .srdPrerin p
  | .swr => .swrPrerin p
  | .bkpt => .bkptPrerin p
  | .ackn => .acknPrerin p
  | .wflg => .wflgPrerin p

/-- The F word's fields that a half of a P word stands for, of a one-source form when `one` (R72). -/
def HalfFields.fields (h : HalfFields) (one : Bool) : Fields where
  guard := 0#1 ++ h.guard
  d := h.d
  a := if one then 0 else h.d
  b := h.b
  c := 0
  m := 0#1 ++ (h.mod.extractLsb' 2 3 ++ (0#6 ++ h.mod.extractLsb' 0 2))
  sf := false
  fs := false

/-- The pairable form of a half with its class (X true) and whether it has two sources (R73). -/
def HalfFields.form (h : HalfFields) : Option (Op × Bool × Bool) :=
  match lookupOp h.op.toNat opList with
  | none => none
  | some o =>
    match o.pair with
    | none => none
    | some (x, two) => some (o, x, two)

/-- A half is legal alone: a pairable form whose F word passes, and no 64-bit type where M[10:8] is a type (R72, R73). -/
def halfOk (h : HalfFields) : Bool :=
  match h.form with
  | none => false
  | some (o, _, two) =>
    let f := h.fields (!two)
    staticOk o f && (o.types == none || !is64 f)

/-- The bank of a register; gz counts as bank 3 (R74). -/
def regBank (r : Byte) : Nat := r.toNat % 4

/-- The registers that a half reads, gz among them. -/
def halfReads (h : HalfFields) : List Nat :=
  match h.form with
  | none => []
  | some (_, _, two) => (if two then [h.d.toNat] else []) ++ [h.b.toNat]

/-- No bank supplies more than two distinct registers; gz is never counted (R74). -/
def banksOk (rs : List Nat) : Bool :=
  let ds := (rs.filter (fun r => r != 255)).eraseDups
  [0, 1, 2, 3].all (fun k => decide ((ds.filter (fun r => r % 4 == k)).length ≤ 2))

/-- The legality of a P word (R74). A half that reads gz reads the other half's destination where that is gz. -/
def pairOk (u l : HalfFields) : Bool :=
  halfOk u && halfOk l
  && (match u.form, l.form with
      | some (_, xu, _), some (_, xl, _) => xu || xl
      | _, _ => false)
  && regBank u.d != regBank l.d
  && banksOk (halfReads u ++ halfReads l)
  && !(halfReads u).contains l.d.toNat && !(halfReads l).contains u.d.toNat

/-- A flag number of a header: 0–11, or 15 for none (R76). -/
def flagNumOk (n : BitVec 4) : Bool := decide (n.toNat ≤ 11) || n == 15

/-- The checks of an H word (R76). -/
def headerOk (h : HFields) : Bool :=
  h.len != 0 && flagNumOk h.fa && flagNumOk h.fb && (h.fa == 15 || h.fa != h.fb)

/-- What the absence of a prefix says of the fields it would supply, and the prefix rules of R86. -/
def prefixOk (o : Op) (p : PFields) : Bool :=
  let imm := p.f.m.getLsbD 11
  (p.reg || (decide (p.f.d.toNat < 64) && decide (p.f.a.toNat < 64)
      && (if imm then true else decide (p.f.b.toNat < 64) && p.f.c == 0)))
  && (p.mod || (p.f.m &&& 0x7FF == 0 && !p.f.sf && p.flag == 0))
  && (!p.f.sf || (decide (p.flag.toNat ≤ 11) && o.flagCapable))
  && !p.f.fs

/-- A well-formed instruction. -/
def Instr.wellFormed (i : Instr) : Bool :=
  match i.view with
  | .native o f => o != .ill && staticOk o f
  | .prerin o p => o != .ill && prefixOk o p && staticOk o p.f
  | .illN w => w.extractLsb' 52 12 == 0
  | .illP w => w.extractLsb' 22 10 == 0
  | .pair u l => pairOk u l
  | .header h => headerOk h
  | .event => true

end Sys2Proof
end

