-- ==== Sys2Proof/Decode.lean ====
section
/-! DEFINITION. The decoder, total on any words, and after it the encoder, both from the layouts of Tables 4-1, 4-2, 4-4,
4-7a and 4-8. Code words are little-endian: the low word of a 64-bit native word stands at the lower address. -/
namespace Sys2Proof

/-- Why a word is no instruction (Table 4-9): the decode rules of R424 that name trap 0x01. -/
inductive Reject where
  | reservedClass | reservedOpcode | reservedBits | badOperand | badHalf | badPair | badHeader | badPrefix | noWord
  deriving DecidableEq, Repr

/-- The fields of an F word (Table 4-1). -/
def fieldsOfWord (w : DWord) : Fields where
  guard := w.extractLsb' 48 4
  d := w.extractLsb' 40 8
  a := w.extractLsb' 32 8
  b := w.extractLsb' 24 8
  c := w.extractLsb' 16 8
  m := w.extractLsb' 0 12
  sf := w.getLsbD 15
  fs := w.getLsbD 14

/-- An F word (R67, R103). -/
def decodeF (w : DWord) : Except Reject Instr :=
  let code := (w.extractLsb' 52 10).toNat
  if code = 0 then .ok (.ill w)
  else
    let f := fieldsOfWord w
    match opOf code (mbits f 0 2) with
    | none => .error .reservedOpcode
    | some o =>
      if w.extractLsb' 12 2 ≠ 0 then .error .reservedBits
      else if staticOk o f then .ok (nativeInstr o f)
      else .error .badOperand

/-- The fields of a half of a P word (Table 4-2). -/
def halfOfBits (h : BitVec 31) : HalfFields where
  op := h.extractLsb' 24 7
  guard := h.extractLsb' 21 3
  d := h.extractLsb' 13 8
  b := h.extractLsb' 5 8
  mod := h.extractLsb' 0 5

/-- A P word (R71–R74). -/
def decodeP (w : DWord) : Except Reject Instr :=
  let u := halfOfBits (w.extractLsb' 31 31)
  let l := halfOfBits (w.extractLsb' 0 31)
  if !halfOk u || !halfOk l then .error .badHalf
  else if pairOk u l then .ok (.pWord u l)
  else .error .badPair

/-- The fields of an H word (Table 4-4). -/
def headerOfWord (w : DWord) : HFields where
  wait := w.extractLsb' 50 12
  fa := w.extractLsb' 46 4
  fb := w.extractLsb' 42 4
  len := w.extractLsb' 37 5
  yld := w.getLsbD 36

/-- An H word (R76). -/
def decodeH (w : DWord) : Except Reject Instr :=
  let h := headerOfWord w
  if w.extractLsb' 0 36 ≠ 0 then .error .badHeader
  else if headerOk h then .ok (.clauseBoundary h)
  else .error .badHeader

/-- A native word, by its class (R65). -/
def decodeNative (w : DWord) : Except Reject Instr :=
  match (w.extractLsb' 62 2).toNat with
  | 0 => decodeF w
  | 1 => decodeP w
  | 2 => decodeH w
  | _ => .error .reservedClass

/-- The prefixes read so far (R86): the first prefix word, the REG, MOD and IMM words. -/
abbrev Prefixes := Option Word × Option Word × Option Word × Option Word

/-- The kind of the last prefix read plus one; 0 before any. -/
def Prefixes.last (p : Prefixes) : Nat :=
  match p with
  | (_, _, _, some _) => 3
  | (_, _, some _, none) => 2
  | (_, some _, none, none) => 1
  | _ => 0

/-- Whether a prefix word's own fields are legal (R86, Table 4-8). (DESIGN CHOICE, log 95). -/
def prefixWordOk (kind : Nat) (w : Word) : Bool :=
  match kind with
  | 0 => w.extractLsb' 0 6 == 0
  | 1 => w.extractLsb' 0 3 == 0 && !w.getLsbD 19 && (!w.getLsbD 7 || decide ((w.extractLsb' 3 4).toNat ≤ 11))
  | 2 => w.extractLsb' 16 4 == 0
  | _ => false

/-- The fields that the prefixes and the instruction word supply (R85, R86). -/
def prerinFields (p : Prefixes) (w : Word) : PFields :=
  let r := p.2.1
  let m := p.2.2.1
  let i := p.2.2.2
  let rw := r.getD 0
  let mw := m.getD 0
  { reg := r.isSome
    mod := m.isSome
    flag := mw.extractLsb' 3 4
    f :=
      { guard := w.extractLsb' 0 4
        d := rw.extractLsb' 18 2 ++ w.extractLsb' 16 6
        a := rw.extractLsb' 16 2 ++ w.extractLsb' 10 6
        b := match i with
          | some iw => iw.extractLsb' 8 8
          | none => rw.extractLsb' 14 2 ++ w.extractLsb' 4 6
        c := match i with
          | some iw => iw.extractLsb' 0 8
          | none => rw.extractLsb' 6 8
        m := (if i.isSome then 1#1 else 0#1) ++ mw.extractLsb' 8 11
        sf := mw.getLsbD 7
        fs := false } }

/-- What a Prerin word decodes to: ill with its whole word, or a form with its fields. -/
inductive PForm where
  | ill (w : Word)
  | form (o : Op) (f : PFields)
  deriving DecidableEq, Repr

/-- The instruction of a decoded Prerin word. -/
noncomputable def PForm.instr : PForm → Instr
  | .ill w => .illPrerin w
  | .form o f => prerinInstr o f

/-- An instruction word behind its prefixes. A fault of R86 is reported with the first prefix, any other with the word
(R66). (DESIGN CHOICE, log 96). -/
def decodePrerinWord (p : Prefixes) (w : Word) : Except (Reject × Word) PForm :=
  let code := (w.extractLsb' 22 10).toNat
  let first := p.1.getD w
  if code = 0 then .ok (.ill w)
  else
    let pf := prerinFields p w
    match opOf code (mbits pf.f 0 2) with
    | none => .error (.reservedOpcode, w)
    | some o =>
      if p.2.2.2.isSome && !(w.extractLsb' 4 6 == 0 && (p.2.1.getD 0).extractLsb' 6 10 == 0) then .error (.badPrefix, first)
      else if pf.f.sf && !o.flagCapable then .error (.badPrefix, first)
      else if staticOk o pf.f then .ok (.form o pf)
      else .error (.badOperand, w)

/-- A Prerin instruction: its prefixes in the order REG, MOD, IMM, each at most once, then its word (R86). The number
answered is the words read. -/
def decodePrerinFrom (p : Prefixes) (n : Nat) : List Word → Except (Reject × Word) (PForm × Nat)
  | [] => .error (.noWord, p.1.getD 0)
  | w :: ws =>
    if w.extractLsb' 22 10 = 0x3FF#10 then
      let kind := (w.extractLsb' 20 2).toNat
      let first := p.1.getD w
      if !prefixWordOk kind w || decide (kind + 1 ≤ p.last) then .error (.badPrefix, first)
      else
        decodePrerinFrom
          (match kind with
           | 0 => (some first, some w, p.2.2)
           | 1 => (some first, p.2.1, some w, p.2.2.2)
           | _ => (some first, p.2.1, p.2.2.1, some w)) (n + 1) ws
    else
      match decodePrerinWord p w with
      | .ok i => .ok (i, n + 1)
      | .error e => .error e

/-- The form of a Prerin instruction from the words at its PC (R85–R89). -/
def decodePrerinForm (ws : List Word) : Except (Reject × Word) (PForm × Nat) :=
  decodePrerinFrom (none, none, none, none) 0 ws

/-- A Prerin instruction from the words at its PC, and the words read. -/
noncomputable def decodePrerin (ws : List Word) : Except (Reject × Word) (Instr × Nat) :=
  match decodePrerinForm ws with
  | .ok (x, n) => .ok (x.instr, n)
  | .error e => .error e

/-- The instruction of an opcode-table word: `nbits` up to 32 is a Prerin word (or a prefix, with zero words after it),
more is a native word, or a Prerin run where no native word decodes. -/
noncomputable def decodeTableWord (nbits w : Nat) : Option Instr :=
  let pre := fun (_ : Unit) =>
    match decodePrerin [BitVec.ofNat 32 w, BitVec.ofNat 32 (w >>> 32), 0, 0] with
    | .ok (i, _) => some i
    | .error _ => none
  if nbits ≤ 32 then pre ()
  else
    match decodeNative (BitVec.ofNat 64 w) with
    | .ok i => some i
    | .error _ => pre ()

/-! ## The encoder -/

/-- The F word of a form (Table 4-1). -/
def encodeF (o : Op) (f : Fields) : DWord :=
  0#2 ++ (BitVec.ofNat 10 o.code ++ (f.guard ++ (f.d ++ (f.a ++ (f.b ++ (f.c ++
    (BitVec.ofBool f.sf ++ (BitVec.ofBool f.fs ++ (0#2 ++ f.m)))))))))

/-- A half of a P word (Table 4-2). -/
def encodeHalf (h : HalfFields) : BitVec 31 :=
  h.op ++ (h.guard ++ (h.d ++ (h.b ++ h.mod)))

/-- A P word (R71). -/
def encodeP (u l : HalfFields) : DWord := 1#2 ++ (encodeHalf u ++ encodeHalf l)

/-- An H word (Table 4-4). -/
def encodeH (h : HFields) : DWord :=
  2#2 ++ (h.wait ++ (h.fa ++ (h.fb ++ (h.len ++ (BitVec.ofBool h.yld ++ 0#36)))))

/-- The REG prefix (Table 4-8). With an immediate, B and C are not its to supply (R86). -/
def encodeReg (f : Fields) : Word :=
  let imm := f.m.getLsbD 11
  0x3FF#10 ++ (0#2 ++ (f.d.extractLsb' 6 2 ++ (f.a.extractLsb' 6 2 ++
    ((if imm then 0#2 else f.b.extractLsb' 6 2) ++ ((if imm then 0#8 else f.c) ++ 0#6)))))

/-- The MOD prefix (Table 4-8). -/
def encodeMod (p : PFields) : Word :=
  0x3FF#10 ++ (1#2 ++ (0#1 ++ (p.f.m.extractLsb' 0 11 ++ (BitVec.ofBool p.f.sf ++ (p.flag ++ 0#3)))))

/-- The IMM prefix (Table 4-8). -/
def encodeImm (f : Fields) : Word := 0x3FF#10 ++ (2#2 ++ (0#4 ++ (f.b ++ f.c)))

/-- The Prerin instruction word of a form (Table 4-7a). -/
def encodePWord (o : Op) (f : Fields) : Word :=
  BitVec.ofNat 10 o.code ++ (f.d.extractLsb' 0 6 ++ (f.a.extractLsb' 0 6 ++
    ((if f.m.getLsbD 11 then 0#6 else f.b.extractLsb' 0 6) ++ f.guard)))

/-- The words of a Prerin instruction. -/
def encodePrerin (o : Op) (p : PFields) : List Word :=
  (if p.reg then [encodeReg p.f] else []) ++ ((if p.mod then [encodeMod p] else []) ++
    ((if p.f.m.getLsbD 11 then [encodeImm p.f] else []) ++ [encodePWord o p.f]))

/-- The 32-bit words of a native word, the low one first. -/
def wordsOf (w : DWord) : List Word := [w.extractLsb' 0 32, w.extractLsb' 32 32]

/-- The native word of an instruction; none for a Prerin form or an event. -/
def encodeNative (i : Instr) : Option DWord :=
  match i.view with
  | .native o f => some (encodeF o f)
  | .illN w => some w
  | .pair u l => some (encodeP u l)
  | .header h => some (encodeH h)
  | _ => none

/-- The words of an instruction, in the order they stand in memory; none for an event. -/
def encode (i : Instr) : List Word :=
  match i.view with
  | .native o f => wordsOf (encodeF o f)
  | .prerin o p => encodePrerin o p
  | .illN w => wordsOf w
  | .illP w => [w]
  | .pair u l => wordsOf (encodeP u l)
  | .header h => wordsOf (encodeH h)
  | .event => []

end Sys2Proof
end

