-- ==== Sys2Proof/Config.lean ====
section
/-! DEFINITION. What one part fixes and the spec leaves open: free values, which no proof can see, and the part's own
constants. -/
namespace Sys2Proof.Config

/-- The bits that the part's special function `fn` (0x086 frsq to 0x08C ftanh by opcode) delivers for an operand, before
the bound of Table 6-6 is imposed on them (R145: a fixed function of the operand). Free (DESIGN CHOICE, log 10). -/
opaque special (fn : Nat) (x : Word) : Word

/-- What memory outside the part holds where the part has not written: the host's (part 63) by address, a peer's by the
position in its grant. Free (DESIGN CHOICE, log 11). -/
opaque outsideByte (part vdev pos : Nat) : Byte

/-- The SM3 digest of a byte string: the algorithm is not part of the spec. Free (DESIGN CHOICE, log 12). -/
opaque sm3 (b : List Byte) : List Byte

/-- Whether an SM2 signature over a byte string verifies. Free (DESIGN CHOICE, log 12). -/
opaque sm2Valid (msg sig : List Byte) : Bool

/-- The SM2 signature of a byte string by the part's identity key (R381). Free (DESIGN CHOICE, log 12). -/
opaque sm2Sign (msg : List Byte) : List Byte

/-- The serial number of the part, sixteen bytes (R385). Free (DESIGN CHOICE, log 12). -/
opaque serial : List Byte

/-- The digests of ROM, firmware and resident system (R381). Free (DESIGN CHOICE, log 12). -/
opaque digest (which : Nat) : List Byte

/-- A byte string in a field of `n` bytes (R385): what is free is its bytes, not its length. -/
def field (n : Nat) (l : List Byte) : List Byte := (List.range n).map (fun k => l.getD k 0)

/-- The half `h` of the key pair that a load of a slot of a die brings over the management path (R330): free, since keys are
never readable (DESIGN CHOICE, log 12). -/
opaque slotKey (die slot load h : Nat) : Nat

/-- The half `h` of the pair of checkpoint keys of a device (R379). Free (DESIGN CHOICE, log 12). -/
opaque ckptKey (vdev h : Nat) : Nat

/-- SM4 in XTS mode (R330): the ciphertext of a 64-byte line under a pair of keys with the line's address as the tweak. The
algorithm is not part of the spec. Free (DESIGN CHOICE, log 12). -/
opaque sm4Xts (key1 key2 tweak : Nat) (line : List Byte) : List Byte

/-- The SM4 encryption of a byte string under a key (R400): the algorithm is not part of the spec. Free (DESIGN CHOICE, log 12). -/
opaque sm4Enc (key : Nat) (b : List Byte) : List Byte

/-- The SM4 decryption of a byte string under a key (R400). Free (DESIGN CHOICE, log 12). -/
opaque sm4Dec (key : Nat) (b : List Byte) : List Byte

/-- The key that the resident systems of two parts agree for the move of a device (R400). Free (DESIGN CHOICE, log 12). -/
opaque moveKey (src dest vdev : Nat) : Nat

/-- The corrected-error rate of a resource over 24 hours at manufacture (R377). Free (DESIGN CHOICE, log 89). -/
opaque wearBase (die unit : Nat) : Nat

/-- The date, in days since 1 January 2000 (Table 18-13), at a value of the clock. Free (DESIGN CHOICE, log 63). -/
opaque today (clock : Nat) : Nat

/-- The entry word of a function whose native code the loader has dropped (R357): the image names no other entry of it. Free
(DESIGN CHOICE, log 101). -/
opaque droppedEntry (word : Nat) : Nat

/-- The stepping that VERSION reports: the first (R362). -/
def stepping : Nat := 0

/-- The release of the resident system that VERSION reports: releases are numbered from 1 (R362). (DESIGN CHOICE, log 13). -/
def release : Nat := 1

/-- The ISA level (R3). -/
def isaLevel : Nat := 3

/-- The part's own default part number before link training assigns one is 0; the upstream host is part 63 (R391). -/
def hostPart : Nat := 63

end Sys2Proof.Config
end

