-- ==== Sys2Proof/Machine/State.lean ====
section
/-! DEFINITION. The machine's state as plain data, its faults and refusals, and the state after reset. -/
namespace Sys2Proof.Machine

/-- Why the machine stops with a fault. -/
inductive Fault where
  /-- Raised by every step after the part has stopped at 105 °C (R386): nothing more happens until power-on. Safe: the
  spec says that the part stops. -/
  | stopped
  deriving DecidableEq, Repr

/-- Why a step has no meaning. -/
inductive Refusal where
  /-- Raised by an arm of `exec` that has no meaning yet. Safe: the machine goes no further. -/
  | notModelled (mnemonic : String)
  deriving DecidableEq, Repr

/-- The LG-940: the step stamp, physical memory and its poisoned sectors (R320, R62), the four compute dies (R2), the
workgroups (R175), the virtual devices (R367), regions (R370), launches (R363), hardware queues (R280), recursion runs
(R288), pending tasks (R276), system calls (R168), images (R355), checkpoints (R379), the package and the fabric. The
last five fields are the model's own: what comes from outside without an instruction or event of its own, the steps that
are to be taken before any other (what arrives from outside, what an engine was asked for), the numbers that settle which quadrant issues next, those that settle which accesses wait on
their way (R341, R344), and the pack in issue (R177). -/
structure State where
  clock : Nat
  mem : List Host.Cell
  poison : List Nat
  dies : List Die
  groups : List Group
  vdevs : List VDev
  regions : List Region
  launches : List Launch
  queues : List HwQueue
  spinners : List Spinner
  tasks : List Task
  calls : List Call
  images : List Image
  ckpts : List Ckpt
  pkg : Package
  fab : Fabric
  inputs : List Input
  agenda : List Instr
  turn : List Nat
  late : List Nat
  pack : Pack
  deriving DecidableEq, Repr

/-- A physical memory byte that nothing has written (DESIGN CHOICE, log 4). -/
def memDefault : Byte := 0

/-- A quadrant nobody owns, its slot pointer at 0. -/
def Quad.zero : Quad := ⟨.none, [], 0, none⟩

/-- A logical core as it stands after reset, on the physical core `phys`. -/
def Core.zero (phys : Nat) : Core where
  phys := phys
  l1 := []
  groups := []
  banks := []
  atlds := []
  quads := [Quad.zero, Quad.zero, Quad.zero, Quad.zero]
  skew := 0
  failed := false

/-- What an unlisted core of a die reads as. Core `k` of a die stands on physical core `k` until reserve is brought in;
`phys` 255 marks that (R22). -/
def Core.default : Core := Core.zero 255

/-- A die after reset. (DESIGN CHOICE, log 3). -/
def Die.zero : Die where
  skew := 0
  cores := []
  icache := []
  tlb := []
  shadow := []
  replicas := []
  spanDir := []
  spanDrops := 0
  paths := []
  keys := []
  lineTags := []
  toks := []
  spare := []
  owners := []
  faults := []
  lost := []
  viols := []
  violOver := 0
  replies := []
  corrected := 0
  uncorrected := 0
  reserves := []
  wear := []
  moves := []

/-- The mailbox after reset (Table 20-3). -/
def Mailbox.zero : Mailbox := ⟨0, 0, 0, 0, 0, 0, 0, 0, false, false⟩

/-- The package after reset: boot stage 0 and failure code 0 (Table 20-3), the power cap at its highest.
(DESIGN CHOICE, log 5). -/
def Package.zero : Package where
  stage := 0
  bootFail := 0
  cap := 2000
  throttled := false
  stopped := false
  box := Mailbox.zero
  msix := []
  mgmtSeq := 0
  mgmtOpen := []
  log := []
  reports := []
  answers := []
  reqs := []
  apps := []
  fused := []
  due := []
  nextId := 1

/-- The fabric side after reset: no link trained, nothing granted. (DESIGN CHOICE, log 5). -/
def Fabric.zero : Fabric where
  part := 0
  links := []
  linkEvents := []
  routes := []
  passed := []
  grants := []
  peers := []
  bar2Dev := 0
  bar2 := []
  migOut := []
  migIn := []
  reserved := []
  markersOut := []
  host := []
  hostPsn := []
  unack := []
  waiting := []
  outHeld := []
  outAnswers := []
  roomAnswers := []
  owed := []
  paid := []

/-- The machine right after reset, before its first boot stage. -/
def State.reset : State where
  clock := 0
  mem := []
  poison := []
  dies := [Die.zero, Die.zero, Die.zero, Die.zero]
  groups := []
  vdevs := []
  regions := []
  launches := []
  queues := []
  spinners := []
  tasks := []
  calls := []
  images := []
  ckpts := []
  pkg := Package.zero
  fab := Fabric.zero
  inputs := []
  agenda := []
  turn := []
  late := []
  pack := ⟨0, 0, []⟩

end Sys2Proof.Machine
end

