-- ==== Sys2Proof/Machine/Access.lean ====
section
/-! DEFINITION. The named operations that read and write registers, threads, warps, workgroups, cores and dies. -/
namespace Sys2Proof.Machine

/-! ## Registers and predicates of a thread (R14) -/

/-- The value of a g-register; gz, and any number beyond it, reads 0 with poison clear. -/
def Thread.reg (t : Thread) (r : Nat) : Val := if r < 255 then FMap.get Val.zero t.g r else Val.zero

/-- Writing a g-register replaces its value and poison (R17); gz discards both. -/
def Thread.setReg (t : Thread) (r : Nat) (v : Val) : Thread :=
  if r < 255 then { t with g := FMap.set Val.zero t.g r v } else t

/-- The value of a predicate; pt is true and never poisoned. -/
def Thread.pred (t : Thread) (k : Nat) : PVal := if k < 7 then FMap.get PVal.zero t.p k else ⟨true, false⟩

/-- Writing a predicate; pt discards the write. -/
def Thread.setPred (t : Thread) (k : Nat) (v : PVal) : Thread :=
  if k < 7 then { t with p := FMap.set PVal.zero t.p k v } else t

/-- The 64-bit value of a pair (R16): the low word in register `r`. -/
def Thread.reg64 (t : Thread) (r : Nat) : DWord := (t.reg (r + 1)).v ++ (t.reg r).v

/-- A pair is poisoned when either register is (R16). -/
def Thread.poison64 (t : Thread) (r : Nat) : Bool := (t.reg r).p || (t.reg (r + 1)).p

/-! ## %status (Table 2-3) -/

/-- HND: the thread runs its trap handler. -/
def Thread.hnd (t : Thread) : Bool := t.status.getLsbD 12
/-- NEN: residency notices are enabled. -/
def Thread.nen (t : Thread) : Bool := t.status.getLsbD 4
/-- TSM: the Touchstone mode. -/
def Thread.tsm (t : Thread) : Nat := (t.status.extractLsb' 6 2).toNat
/-- Whether the exception number `k` (0 invalid, 1 divide-by-zero, 2 overflow) is enabled. -/
def Thread.enabled (t : Thread) (k : Nat) : Bool := t.status.getLsbD k

/-- %status with HND at `b`. -/
def setHnd (s : Word) (b : Bool) : Word := if b then s ||| 0x1000 else s &&& ~~~0x1000#32

/-- The reset value of %status: EINV 1, TSM and NEN from the kernel descriptor (R29). -/
def statusReset (kd : KDesc) : Word :=
  0x1 ||| (if kd.nen then 0x10 else 0) ||| (BitVec.ofNat 32 (kd.tsm % 4) <<< 6)

/-! ## A thread's creation and location -/

/-- A slot that holds no thread. -/
def Thread.absent : Thread where
  g := []
  p := []
  f := []
  pc := 0
  tix := 0
  mode := .prerin
  fa := 15
  fb := 15
  len := 0
  status := 0
  tpc := 0
  trix := 0
  tcause := 0
  tval := 0
  sched := .absent
  npc := 0
  ntix := 0
  demoted := false
  demAt := 0
  spinT := 1
  spinN := 0
  spinCh := false
  opps := 0
  promo := none
  notice := false
  ackd := 0
  sAll := false
  sSet := []
  lSet := []
  lFull := false
  pend := []
  latch := []
  sysc := false
  kind := .launch

/-- A thread at its creation (Table 2-1): at the entry `e`, whose bit 0 is the mode (R90). (DESIGN CHOICE, log 1).
(DESIGN CHOICE, log 97). -/
def Thread.create (kd : KDesc) (e : DWord) (k : TKind) (resl : Word) : Thread :=
  { Thread.absent with
    pc := e &&& ~~~1#64
    mode := if e.getLsbD 0 then .native else .prerin
    status := statusReset kd
    sched := .ready
    ackd := resl
    kind := k }

/-- The entry of a kernel descriptor: the mode follows its native tag (R90, R357). -/
def KDesc.entry (kd : KDesc) : DWord := if kd.ntag = 3 then kd.nentry ||| 1 else kd.pentry &&& ~~~1#64

/-- Whether a thread is live: it exists and has not exited. -/
def Thread.live (t : Thread) : Bool :=
  match t.sched with
  | .absent => false
  | .exited => false
  | _ => true

/-- Whether a thread is Ready. -/
def Thread.ready (t : Thread) : Bool := t.sched == .ready

/-- Where a thread stands after an instruction of `n` Prerin words: the next word of its clause, the header after the
clause (R77), or the address `4 n` on. -/
def Thread.after (t : Thread) (n : Nat) : DWord × Nat :=
  match t.mode with
  | .native => if t.tix < t.len then (t.pc, t.tix + 1) else (t.pc + 8 * BitVec.ofNat 64 (t.len + 1), 0)
  | .prerin => (t.pc + 4 * BitVec.ofNat 64 n, 0)

/-- The thread moved past an instruction of `n` Prerin words. -/
def Thread.advance (t : Thread) (n : Nat) : Thread :=
  let l := t.after n
  { t with pc := l.1, tix := l.2 }

/-- The thread continues at the header that follows its clause, or past its Prerin words (R79). -/
def Thread.skipClause (t : Thread) (n : Nat) : Thread :=
  match t.mode with
  | .native => { t with pc := t.pc + 8 * BitVec.ofNat 64 (t.len + 1), tix := 0 }
  | .prerin => t.advance n

/-- The flag count of `f n` (R80). -/
def Thread.flagCount (t : Thread) (n : Nat) : Nat := FMap.get 0 t.f n
/-- One more operation pending under a flag. -/
def Thread.raiseFlag (t : Thread) (n : Nat) : Thread := { t with f := FMap.set 0 t.f n (t.flagCount n + 1) }
/-- One operation under a flag complete. -/
def Thread.lowerFlag (t : Thread) (n : Nat) : Thread := { t with f := FMap.set 0 t.f n (t.flagCount n - 1) }

/-- Whether a flag of the mask is set (R78, R173). -/
def Thread.flagsSet (t : Thread) (mask : BitVec 12) : Bool :=
  (List.range 12).any (fun n => mask.getLsbD n && decide (t.flagCount n ≠ 0))

/-! ## Warps and workgroups -/

/-- The thread in a slot. -/
def Warp.thr (w : Warp) (t : Nat) : Thread := w.threads.getD t Thread.absent
/-- A warp with one thread changed. -/
def Warp.mod (w : Warp) (t : Nat) (f : Thread → Thread) : Warp := { w with threads := modAt w.threads t f }
/-- A warp with every thread changed. -/
def Warp.all (w : Warp) (f : Thread → Thread) : Warp := { w with threads := w.threads.map f }

/-- A kernel descriptor of zeros. -/
def KDesc.zero : KDesc := ⟨0, 0, 0, 0, 0, 1, false, false, 0, 0, 0, 0⟩

/-- A warp that holds no thread, with `b` blocks and `a` tiles. -/
def Warp.new (kd : KDesc) (quad slot b a : Nat) (ls : BitVec 4) (ths : List Thread) (stamp : Nat) : Warp where
  quad := quad
  slot := slot
  kd := kd
  threads := ths
  blocks := b
  spilled := []
  reach := none
  reachMod := false
  spillBad := []
  slow := false
  ls := ls
  part := if kd.leg then 16 else 32
  legacy := kd.leg
  shapes := []
  accs := a
  tiles := []
  cqs := [[], [], [], []]
  mops := []
  bank := none
  opps := 0
  lastIssue := stamp
  fold := none
  refill := []
  resl := 0

/-- What stands for a warp a workgroup does not have. -/
def Warp.void : Warp := Warp.new KDesc.zero 0 0 1 0 0 [] 0

/-- The warp with a %wid. -/
def Group.wrp (g : Group) (w : Nat) : Warp := g.warps.getD w Warp.void
/-- A workgroup with one warp changed. -/
def Group.modW (g : Group) (w : Nat) (f : Warp → Warp) : Group := { g with warps := modAt g.warps w f }
/-- A workgroup with one thread changed. -/
def Group.modT (g : Group) (w t : Nat) (f : Thread → Thread) : Group := g.modW w (fun x => x.mod t f)

/-- What stands for a workgroup that does not exist. -/
def Group.void : Group where
  kind := .wave
  vdev := 0
  region := 0
  wgx := 0
  wgy := 0
  wgz := 0
  nwgx := 1
  nwgy := 1
  nwgz := 1
  die := 0
  core := 0
  placed := 0
  save := .running
  saveAt := 0
  forced := false
  foldSave := false
  alive := false
  faulted := false
  warps := []
  wins := []
  scrSize := 0
  scr := []
  scrP := []
  tags := []
  xbars := []
  xbFrom := []
  bank := []
  units := []
  spilledU := []
  refillU := []
  foldU := []
  pins := []
  scaleSize := 0
  scales := []
  spans := []
  bars := []
  phase := 0
  rels := []
  board := []
  pools := []
  succMark := false
  bankImgs := []
  atlds := []

/-- A workgroup by its number. -/
def State.grp (s : State) (g : Nat) : Group := s.groups.getD g Group.void
/-- The state with one workgroup changed. -/
def State.modG (s : State) (g : Nat) (f : Group → Group) : State := { s with groups := modAt s.groups g f }
/-- The state with one warp changed. -/
def State.modW (s : State) (g w : Nat) (f : Warp → Warp) : State := s.modG g (fun x => x.modW w f)
/-- The state with one thread changed. -/
def State.modT (s : State) (g w t : Nat) (f : Thread → Thread) : State := s.modG g (fun x => x.modT w t f)
/-- A warp by its workgroup and %wid. -/
def State.wrp (s : State) (g w : Nat) : Warp := (s.grp g).wrp w
/-- A thread. -/
def State.thr (s : State) (g w t : Nat) : Thread := (s.wrp g w).thr t

/-- A compute die. -/
def State.die (s : State) (d : Nat) : Die := s.dies.getD d Die.zero
/-- The state with one die changed. -/
def State.modD (s : State) (d : Nat) (f : Die → Die) : State := { s with dies := modAt s.dies d f }
/-- A logical core. -/
def State.core (s : State) (d c : Nat) : Core := FMap.get Core.default (s.die d).cores c
/-- The state with one core changed. -/
def State.modC (s : State) (d c : Nat) (f : Core → Core) : State :=
  s.modD d (fun x => { x with cores := FMap.set Core.default x.cores c (f (FMap.get Core.default x.cores c)) })
/-- The physical core behind a logical core (R22). -/
def State.physCore (s : State) (d c : Nat) : Nat := let p := (s.core d c).phys; if p = 255 then c else p

/-- The thread index in the workgroup (Table 2-4 %tid). -/
def tid (w t : Nat) : Nat := 32 * w + t

/-! ## Residency (Table 8-6) -/

/-- The resident register limit of a warp (R202). -/
def Warp.rlim (w : Warp) : Nat :=
  let n := w.blocks - w.spilled.length
  if n ≥ 16 then 255 else 16 * n

/-- The bank groups that a workgroup's allocation holds: those of its units that are not spilled. -/
def Group.sbg (g : Group) : Nat :=
  (((List.range g.units.length).filter (fun u => !NSet.has g.spilledU u)).map (fun u => g.units.getD u 0)).eraseDups.length

/-- The value of %resl that a warp's holdings give (Table 8-6). -/
def reslOf (g : Group) (w : Warp) : Word :=
  BitVec.ofNat 32 (g.sbg * 65536 + w.rlim * 256 + w.ls.toNat)

/-- A change of %resl sets the pending bit of every thread that has acknowledged another value (R171). -/
def noticeThread (resl : Word) (t : Thread) : Thread :=
  if t.live && !t.notice && t.ackd != resl then { t with notice := true } else t

/-- A fold or an expansion complete for a warp: %resl takes the value of its holdings, and a change raises the notice
(R205, R171). -/
def Group.newResl (g : Group) (w : Nat) : Group :=
  let v := reslOf g (g.wrp w)
  if (g.wrp w).resl = v then g else g.modW w (fun x => { x with resl := v }.all (noticeThread v))

/-- A change of %resl that the warp made itself raises no notice: every thread has acknowledged it (R273). -/
def Group.ownResl (g : Group) (w : Nat) : Group :=
  let v := reslOf g (g.wrp w)
  g.modW w (fun x => { x with resl := v }.all (fun t => { t with ackd := v }))

/-! ## Waking -/

/-- A thread Stalled for one of some reasons is Ready when that reason has ended (Table 2-5). -/
def Thread.unstall (p : StallWhy → Bool) (t : Thread) : Thread :=
  match t.sched with
  | .stalled y => if p y then { t with sched := .ready } else t
  | _ => t
/-- The threads of a warp Stalled for one of some reasons, when it has ended. -/
def State.unstall (s : State) (g w : Nat) (p : StallWhy → Bool) : State := s.modW g w (fun y => y.all (Thread.unstall p))

/-! ## Regions (R371) -/

/-- The region whose own field stands for region `r`: itself where its OVR bit is set, else its nearest ancestor's. -/
def ownerOf (rs : List Region) (bit : Nat) : Nat → Nat → Nat
  | 0, r => r
  | n + 1, r =>
    match rs[r]? with
    | none => r
    | some x => if x.ovr.getLsbD bit then r else match x.parent with
      | none => r
      | some p => ownerOf rs bit n p

/-- The effective value of a field of a region (R371). -/
def State.eff (s : State) (bit : Nat) (f : Region → Nat) (r : Nat) : Nat :=
  ((s.regions[ownerOf s.regions bit s.regions.length r]?).map f).getD 0

/-- The effective priority of a workgroup's region (Table 18-8 PRIO). -/
def State.prioOf (s : State) (g : Nat) : Nat := s.eff 7 (fun x => x.prio) (s.grp g).region

end Sys2Proof.Machine
end

