-- ==== Sys2Proof/Machine/Memory.lean ====
section
/-! DEFINITION. Physical memory, page tables and translation, and the accesses of a device's virtual addresses
(16_die.md R318–R331, 20_fabric.md R392–R396). -/
namespace Sys2Proof.Machine

/-! ## Physical memory -/

/-- A physical byte. -/
def State.pbyte (s : State) (pa : Nat) : Byte := FMap.get memDefault s.mem pa
/-- The state with a physical byte written. -/
def State.setPbyte (s : State) (pa : Nat) (b : Byte) : State := { s with mem := FMap.set memDefault s.mem pa b }
/-- Whether the 32-byte sector of a physical byte is poisoned (R62). -/
def State.psn (s : State) (pa : Nat) : Bool := NSet.has s.poison (pa / 32)
/-- The state with a sector's poison set or cleared. -/
def State.setPsn (s : State) (pa : Nat) (p : Bool) : State := { s with poison := NSet.put s.poison (pa / 32) p }

/-- A little-endian number of `n` bytes read by `f` from `a` on. -/
def leNat (f : Nat → Byte) (a : Nat) : Nat → Nat
  | 0 => 0
  | n + 1 => (f a).toNat + 256 * leNat f (a + 1) n

/-- The `n` little-endian bytes of a number. -/
def leBytes (v : Nat) : Nat → List Byte
  | 0 => []
  | n + 1 => BitVec.ofNat 8 v :: leBytes (v / 256) n

/-- A 64-bit word of physical memory. -/
def State.pword (s : State) (pa : Nat) : DWord := BitVec.ofNat 64 (leNat s.pbyte pa 8)

/-- Bytes written from a physical address on. -/
def State.setPbytes (s : State) (pa : Nat) : List Byte → State
  | [] => s
  | b :: l => (s.setPbyte pa b).setPbytes (pa + 1) l

/-- The die of a physical address (R320). -/
def paDie (pa : Nat) : Nat := pa / 2 ^ 38 % 4
/-- The channel code of a physical address (R320). -/
def paChan (pa : Nat) : Nat := pa / 2 ^ 31 % 128
/-- The offset of a physical address in its channel (R320). -/
def paOff (pa : Nat) : Nat := pa % 2 ^ 31
/-- Whether a physical address lies in a Shelf (R320). -/
def paShelf (pa : Nat) : Bool := paChan pa == 0x7F
/-- Whether a physical address exists (R320): DRAM channels 0–67 of 2 GiB, or 384 MiB of Shelf. -/
def paOk (pa : Nat) : Bool :=
  decide (pa < 2 ^ 40) && (decide (paChan pa ≤ 67) || (paShelf pa && decide (paOff pa < 384 * 2 ^ 20)))

/-! ## Page tables (R318–R320, R392) -/

/-- The device with a number. -/
def State.vdev (s : State) (v : Nat) : Option VDev := s.vdevs.find? (fun x => x.num == v)

/-- Bits [hi : lo] of a number. -/
def bitsOf (n hi lo : Nat) : Nat := n / 2 ^ lo % 2 ^ (hi + 1 - lo)

/-- A table entry's V bit. -/
def entV (e : Nat) : Bool := e % 2 == 1
/-- A table entry's LEAF bit. -/
def entLeaf (e : Nat) : Bool := bitsOf e 1 1 == 1
/-- A leaf's W bit. -/
def entW (e : Nat) : Bool := bitsOf e 2 2 == 1
/-- A leaf's ATM bit. -/
def entAtm (e : Nat) : Bool := bitsOf e 3 3 == 1
/-- A leaf's REPL bit. -/
def entRepl (e : Nat) : Bool := bitsOf e 4 4 == 1
/-- A leaf's PEER bit. -/
def entPeer (e : Nat) : Bool := bitsOf e 5 5 == 1
/-- A leaf's PIN bit. -/
def entPin (e : Nat) : Bool := bitsOf e 6 6 == 1
/-- A leaf's FRAME as a physical address. -/
def entFrame (e : Nat) : Nat := bitsOf e 39 16 * 65536

/-- The next table of a pointer entry, whose tables are aligned to `al`; none for a table error (R319). -/
def ptrOf (e al : Nat) : Option Nat :=
  let pa := bitsOf e 39 8 * 256
  if bitsOf e 63 40 = 0 ∧ bitsOf e 7 2 = 0 ∧ pa % al = 0 ∧ paOk pa then some pa else none

/-- Whether a leaf's bits are legal (R319, R320, R392). -/
def leafOk (s : State) (e : Nat) (large : Bool) : Bool :=
  bitsOf e 63 40 == 0 && bitsOf e 15 7 == 0
  && (if entPeer e then
        !entRepl e && bitsOf e 39 34 != s.fab.part && (!large || bitsOf e 20 16 == 0)
      else paOk (entFrame e) && (!large || bitsOf e 20 16 == 0))

/-- An entry that a walker reads: a table error where its sector carries an uncorrectable error (R319). -/
def State.entry (s : State) (pa : Nat) : Except Nat Nat :=
  if s.psn pa then .error 4 else .ok (s.pword pa).toNat

/-- The walk of a device's three-level table for a virtual address: the leaf and whether it is a large page, or the
kind of engine fault (R318, R319, R335): 1 unmapped, 4 table error. -/
def State.walk (s : State) (v va : Nat) : Except Nat (Nat × Bool) :=
  if va ≥ 2 ^ 52 then .error 1
  else match s.vdev v with
  | none => .error 1
  | some dv => do
    let e1 ← s.entry (dv.root + 8 * bitsOf va 51 34)
    if !entV e1 then .error 1
    else if entLeaf e1 then .error 4
    else match ptrOf e1 65536 with
    | none => .error 4
    | some t2 => do
      let e2 ← s.entry (t2 + 8 * bitsOf va 33 21)
      if !entV e2 then .error 1
      else if entLeaf e2 then (if leafOk s e2 true then .ok (e2, true) else .error 4)
      else match ptrOf e2 256 with
      | none => .error 4
      | some t3 => do
        let e3 ← s.entry (t3 + 8 * bitsOf va 20 16)
        if !entV e3 then .error 1
        else if !entLeaf e3 then .error 4
        else if leafOk s e3 false then .ok (e3, false) else .error 4

/-- The 64 KiB page of a virtual address. -/
def pageOf (va : Nat) : Nat := va / 65536

/-- Whether a cached translation is that of a page. -/
def TlbEnt.has (e : TlbEnt) (v page : Nat) : Bool :=
  e.vdev == v && (if e.large then e.page / 32 == page / 32 else e.page == page)

/-- The translation a die uses: its cached entry where it holds one, else a walk (R317, R321). -/
def State.leaf (s : State) (d v va : Nat) : Except Nat (Nat × Bool) :=
  match (s.die d).tlb.find? (fun e => e.has v (pageOf va)) with
  | some e => if va ≥ 2 ^ 52 then .error 1 else .ok (e.leaf.toNat, e.large)
  | none => s.walk v va

/-- The physical address of a byte in the frame that its leaf names: the home copy (R319, R320). -/
def homePa (l : Nat × Bool) (va : Nat) : Nat := if l.2 then entFrame l.1 + va % 2 ^ 21 else entFrame l.1 + va % 65536

/-- The physical address of a byte under its leaf; a die whose replica map names the page uses its own copy (R325). -/
def State.paOf (s : State) (d v va : Nat) (l : Nat × Bool) : Nat :=
  match (s.die d).replicas.find? (fun r => r.vdev == v && r.page == pageOf va) with
  | some r => r.frame + va % 65536
  | none => homePa l va

/-- The owner that the frame-ownership table gives a frame (R337); 0 is the resident system. -/
def State.owner (s : State) (pa : Nat) : Nat := FMap.get 0 (s.die (paDie pa)).owners (pa / 65536)

/-- Whether some route leads to a part: a trained link to it or to the neighbour that the route table names (R391). -/
def State.reachable (s : State) (part : Nat) : Bool :=
  if part = 63 then true
  else
    (s.fab.links.any (fun l => l.2.up && l.2.peer == part))
    || (let n := FMap.get 64 s.fab.routes part
        decide (n ≠ 64) && s.fab.links.any (fun l => l.2.up && l.2.peer == n))

/-- The links that connect this part directly to a part, in ascending number (R394). -/
def State.linksTo (s : State) (part : Nat) : List Nat :=
  (s.fab.links.filter (fun l => l.2.up && l.2.peer == part)).map (fun l => l.1)
/-- The link that a request for a page of a part takes: number n mod c of the c direct links, or of those to the neighbour
that the route table names (R391, R394). -/
def State.linkFor (s : State) (part page : Nat) : Option Nat :=
  let l := s.linksTo part
  let l := if l.isEmpty then s.linksTo (FMap.get 64 s.fab.routes part) else l
  l[page % l.length]?

/-- Whether a request for a page of a part may go out now (R410): no retraining holds its link, and what went over a link
that is down has been acknowledged. -/
def State.goes (s : State) (part page : Nat) : Bool :=
  let link := fun (k : Nat) => FMap.get Link.zero s.fab.links k
  part == 63 || (match s.linkFor part page with
    | none => false
    | some k => !(link k).held && s.fab.unack.all (fun u => u.part != part || (link u.link).up))

/-- The grant through which a device reaches a part's pages. -/
def State.peer (s : State) (part v : Nat) : Option Peer :=
  s.fab.peers.find? (fun p => p.part == part && p.vdev == v)

/-- Where a byte lies: in this part's memory, or on a peer page at a position within the grant. -/
inductive Where' where
  | here (pa : Nat)
  | peer (part pos : Nat)
  deriving DecidableEq, Repr

/-- What an access does: it reads, writes, or is an atomic or cpyr. -/
inductive Need where | read | write | atomic
  deriving DecidableEq, Repr

/-- Whether a device owns a key slot of a die (R330, R337). -/
def State.keyed (s : State) (v d : Nat) : Bool :=
  match s.vdev v with
  | none => false
  | some dv =>
    let k := FMap.get 64 dv.keySlot d
    decide (k < 64) && (FMap.get KeySlot.zero (s.die d).keys k).vdev == some v

/-- Whether the key slot that a device has on a die is another device's: an access under it is a violation (R337). -/
def State.foreignKey (s : State) (v d : Nat) : Bool :=
  match s.vdev v with
  | none => false
  | some dv =>
    let k := FMap.get 64 dv.keySlot d
    decide (k < 64) && (FMap.get KeySlot.zero (s.die d).keys k).vdev.any (fun u => u != v)

/-- Whether a page of a device is absent after its migration to this part (R402). (DEDUCED, log 72). -/
def State.absentPage (s : State) (v page : Nat) : Bool :=
  s.fab.migIn.any (fun m => m.vdev == v && NSet.has m.absent page)

/-- Translation of one byte for an access: where it lies, or the kind of engine fault (R335): 1 unmapped, 2 protection,
3 remote unreachable, 4 table error; 6 stands for a page absent after a migration, which stalls and never faults (R402). -/
def State.locate (s : State) (d v va : Nat) (n : Need) : Except Nat Where' := do
  let l ← s.leaf d v va
  if s.absentPage v (pageOf va) then .error 6
  else if n ≠ .read ∧ !entW l.1 then .error 2
  else if n = .atomic ∧ !entAtm l.1 then .error 2
  else if entPeer l.1 then
    let part := bitsOf l.1 39 34
    let pos := (bitsOf l.1 33 16 + (if l.2 then pageOf va % 32 else 0)) * 65536 + va % 65536
    match s.peer part v with
    | none => .error 2
    | some p =>
      if !s.reachable part || !p.pointed || !s.goes part (pageOf va) then .error 3
      else if pos / 65536 ≥ p.npg then .error 2
      else if NSet.has p.refused (pos / 65536) then .error 2
      else if NSet.has p.unmapped (pos / 65536) then .error 1
      else if n ≠ .read ∧ !p.w then .error 2
      else if n = .atomic ∧ !p.atm then .error 2
      else .ok (.peer part pos)
  else
    let pa := s.paOf d v va l
    if s.owner pa ≠ v ∧ s.owner pa ≠ 256 + v ∧ v ≠ 0 then .error 2
    else if v != 0 && paShelf pa && (if n = .read then s.foreignKey v (paDie pa) else !s.keyed v (paDie pa)) then .error 2
    else .ok (.here pa)

/-! ## The Shelf's lines (R331) -/

/-- The slot and the generation under which a device reaches a die's Shelf; none where it owns no slot there. -/
def State.slotGen (s : State) (v d : Nat) : Option (Nat × Nat) :=
  match s.vdev v with
  | none => none
  | some dv =>
    let k := FMap.get 64 dv.keySlot d
    let x := FMap.get KeySlot.zero (s.die d).keys k
    if k < 64 ∧ x.vdev = some v then some (k, x.gen) else none

/-- The tag of a line that nothing has written: of no slot. -/
def noTag : Nat × Nat := (64, 0)
/-- Whether a device reads a byte's true contents: always in DRAM, in the Shelf where the line's tag matches. -/
def State.lineOk (s : State) (v pa : Nat) : Bool :=
  if paShelf pa then some (FMap.get noTag (s.die (paDie pa)).lineTags (pa / 64)) == s.slotGen v (paDie pa) else true

/-- A byte of this part's memory as a device reads it, with its sector's poison (R331, R62). -/
def State.readPa (s : State) (v pa : Nat) : Byte × Bool :=
  if s.lineOk v pa then (s.pbyte pa, s.psn pa) else (0, false)

/-- Bytes `a` to `a + n − 1` cleared. -/
def State.zeroP (s : State) (a : Nat) : Nat → State
  | 0 => s
  | n + 1 => (s.setPbyte a 0).zeroP (a + 1) n

/-- The Shelf line of a byte taken over by the writing device: a line of another tag reads zero before it (R331). -/
def State.claimLine (s : State) (v pa : Nat) : State :=
  if !paShelf pa || s.lineOk v pa then s
  else match s.slotGen v (paDie pa) with
  | none => s
  | some sg =>
    (((s.zeroP (pa / 64 * 64) 64).setPsn pa false).setPsn (if pa % 64 < 32 then pa + 32 else pa - 32) false).modD (paDie pa)
      (fun x => { x with lineTags := FMap.set noTag x.lineTags (pa / 64) sg })

/-- What a write does to the poison of a byte's sector (R62). -/
def State.markPsn (s : State) (pa : Nat) (p : Psn) : State :=
  match p with
  | .keep => s
  | .set => s.setPsn pa true
  | .clear => s.setPsn pa false

/-- One byte of this part's memory written under a mask; poisoned data poisons the whole sector (R62). -/
def State.writePa (s : State) (v pa : Nat) (b mask : Byte) (p : Psn) : State :=
  let s := s.claimLine v pa
  (s.setPbyte pa ((s.pbyte pa &&& ~~~mask) ||| (b &&& mask))).markPsn pa p

/-! ## Writes on their way to another die (R344, R345, R346) -/

/-- The writes that have left die `d` for a home on die `h` and are not performed there yet. -/
def State.path (s : State) (d h : Nat) : List PathWr := FMap.get [] (s.die d).paths h
/-- The state with the writes on a path replaced. -/
def State.setPath (s : State) (d h : Nat) (l : List PathWr) : State :=
  s.modD d (fun x => { x with paths := FMap.set [] x.paths h l })
/-- Writes performed at their home, in their order on the path. -/
def State.performPath (s : State) (l : List PathWr) : State := l.foldl (fun s w => s.writePa w.v w.pa w.b w.mask w.p) s
/-- Every write on a path performed. -/
def State.drainPath (s : State) (d h : Nat) : State :=
  match s.path d h with
  | [] => s
  | l => (s.setPath d h []).performPath l
/-- The first write on a path performed: its bytes in one aligned eight-byte unit, so no single-copy atomic access is
torn (R241). -/
def State.arrivePath (s : State) (d h : Nat) : State :=
  match s.path d h with
  | [] => s
  | w :: l =>
    let one := fun (x : PathWr) => x.pa / 8 == w.pa / 8
    (s.setPath d h (l.dropWhile one)).performPath (w :: l.takeWhile one)
/-- Every write that has left a die performed: what a release at .die or wider waits for (R345). -/
def State.drainDie (s : State) (d : Nat) : State := (List.range 4).foldl (fun s h => s.drainPath d h) s
/-- Every write on every path performed. -/
def State.drainAll (s : State) : State := (List.range 4).foldl State.drainDie s

/-- Whether the access made now waits on its way (R341, R344). (DESIGN CHOICE, log 80). -/
def State.lateNow (s : State) : Bool := s.late.headD 0 % 2 == 1
/-- How many of `n` pieces the access made now performs at once; 0 stands for all. (DESIGN CHOICE, log 80). -/
def State.pieces (s : State) (n : Nat) : Nat :=
  let k := s.late.headD 0 / 2
  if k = 0 then n else min k n
/-- The number that settled an access is used up. -/
def State.popLate (s : State) : State := { s with late := s.late.tail }

/-- A byte written at its one home by an engine of die `d`: it takes the path to another die where `late` says so, and else is
performed behind what stands on that path (R346). -/
def State.homeWrite (s : State) (d v pa : Nat) (b mask : Byte) (p : Psn) (late : Bool) : State :=
  let h := paDie pa
  if late && decide (d < 4) && h != d then s.setPath d h (s.path d h ++ [⟨v, pa, b, mask, p⟩])
  else (s.drainPath d h).writePa v pa b mask p

/-! ## Bytes of a device's address space -/

/-- A byte of host memory: what this part wrote there, else whatever the host holds there. (DESIGN CHOICE, log 11). -/
def State.hostByte (s : State) (a : Nat) : Byte := (FMap.get none s.fab.host a).getD (Config.outsideByte 63 0 a)
/-- A byte that a peer grants, with its sector's poison: of the host's memory for part 63 (R396, R62).
(DESIGN CHOICE, log 11). -/
def State.peerByte (s : State) (p : Peer) (pos : Nat) : Byte × Bool :=
  if p.part = 63 then (s.hostByte (p.base + pos), NSet.has s.fab.hostPsn ((p.base + pos) / 32))
  else ((FMap.get none p.mem pos).getD (Config.outsideByte p.part p.vdev pos), NSet.has p.psn (pos / 32))
/-- What a write does to a set of poisoned sectors. -/
def NSet.psn (l : NSet) (k : Nat) (p : Psn) : NSet :=
  match p with
  | .keep => l
  | .set => NSet.add l k
  | .clear => NSet.del l k
/-- A byte that a peer grants, written. -/
def State.setPeerByte (s : State) (p : Peer) (pos : Nat) (b : Byte) (ps : Psn) : State :=
  if p.part = 63 then
    { s with fab := { s.fab with
        host := FMap.set none s.fab.host (p.base + pos) (some b)
        hostPsn := NSet.psn s.fab.hostPsn ((p.base + pos) / 32) ps } }
  else
    let put := fun (x : Peer) => { x with mem := FMap.set none x.mem pos (some b), psn := NSet.psn x.psn (pos / 32) ps }
    { s with fab := { s.fab with peers := modFirst (fun (x : Peer) => x.part == p.part && x.vdev == p.vdev) put s.fab.peers } }

/-- A byte as an engine of die `d` reads it for device `v`. -/
def State.readB (s : State) (d v va : Nat) : Except Nat (Byte × Bool) := do
  match ← s.locate d v va .read with
  | .here pa => .ok (s.readPa v pa)
  | .peer part pos =>
    match s.peer part v with
    | some p => .ok (s.peerByte p pos)
    | none => .error 2

/-- `n` bytes from `va` on, the first failing byte's address with its kind. -/
def State.readN (s : State) (d v va : Nat) : Nat → Except (Nat × Nat) (List (Byte × Bool))
  | 0 => .ok []
  | n + 1 =>
    match s.readB d v va with
    | .error k => .error (va, k)
    | .ok b =>
      match s.readN d v (va + 1) n with
      | .error e => .error e
      | .ok l => .ok (b :: l)

/-- An engine of die `d` reads at the home of a byte: behind what its die has sent there (R239, R346). -/
def State.drainTo (s : State) (d v va : Nat) : State :=
  match s.locate d v va .read with
  | .ok (.here pa) => s.drainPath d (paDie pa)
  | _ => s

/-- The physical addresses of the copies of a byte on a replicated page: those of the replica maps and the home copy (R325,
R326). -/
def State.copies (s : State) (v va : Nat) : List Nat :=
  ((List.range 4).filterMap (fun k =>
    ((s.die k).replicas.find? (fun r => r.vdev == v && r.page == pageOf va)).map (fun r => r.frame + va % 65536)))
  ++ (match s.leaf 4 v va with
    | .ok l => if entRepl l.1 then [homePa l va] else []
    | .error _ => [])

/-- A byte written by an engine of die `d` for device `v`: at its home, or on every copy of a replicated page (R326). -/
def State.writeB (s : State) (d v va : Nat) (b mask : Byte) (p : Psn) (n : Need) (late : Bool) : Except Nat State := do
  match ← s.locate d v va n with
  | .here pa =>
    match s.copies v va with
    | [] => .ok (s.homeWrite d v pa b mask p late)
    | l => .ok ((pa :: l).foldl (fun s a => s.writePa v a b mask p) s)
  | .peer part pos =>
    match s.peer part v with
    | some x => .ok (s.setPeerByte x pos (((s.peerByte x pos).1 &&& ~~~mask) ||| (b &&& mask)) p)
    | none => .error 2

/-- Poisoned data sets a sector's poison, other data leave it. -/
def psnOf (p : Bool) : Psn := if p then .set else .keep

/-- Bytes written from `va` on; the first failing byte's address with its kind. -/
def State.writeN (s : State) (d v va : Nat) (p : Bool) : List Byte → Except (Nat × Nat) State
  | [] => .ok s
  | b :: l =>
    match s.writeB d v va b 0xFF (psnOf p) .write false with
    | .error k => .error (va, k)
    | .ok s => s.writeN d v (va + 1) p l

/-- A little-endian number of `n` bytes as the resident system reads it for a device; none where a byte is unmapped. -/
def State.vnat (s : State) (v va n : Nat) : Option Nat :=
  match s.readN 4 v va n with
  | .ok l => some (leNat (fun k => (l.getD k (0, false)).1) 0 n)
  | .error _ => none

/-- Unpoisoned data that covers whole sectors clears their poison (R62), on every copy of the page: the sectors of the `n` bytes from `va`. -/
def State.clearPsn (s : State) (d v va n : Nat) : State :=
  if s.poison.isEmpty then s
  else
    let first := (va + 31) / 32
    (List.range ((va + n) / 32 - first)).foldl (fun s k =>
      [0, 1, 2, 3, d, 4].foldl (fun s e =>
        match s.locate e v ((first + k) * 32) .read with
        | .ok (.here pa) => s.setPsn pa false
        | _ => s) s) s

/-- Clean bytes written from `va` on: the sectors that they cover whole lose their poison (R62); the first failing byte's
address with its kind. -/
def State.writeClean (s : State) (d v va : Nat) (l : List Byte) : Except (Nat × Nat) State :=
  match s.writeN d v va false l with
  | .error e => .error e
  | .ok s => .ok (s.clearPsn d v va l.length)

/-- Bytes as the resident system writes them for a device; the state unchanged where a byte cannot be written. -/
def State.vput (s : State) (v va : Nat) (l : List Byte) : State :=
  match s.writeClean 4 v va l with
  | .ok s' => s'
  | .error _ => s

/-- Register values written as words from `va` on, with the poison of each (R62). -/
def State.putVals (s : State) (d v va : Nat) (l : List Val) : State :=
  l.zipIdx.foldl (fun s x =>
    if x.1.p then
      match s.writeN d v (va + 4 * x.2) true (leBytes x.1.v.toNat 4) with
      | .ok s' => s'
      | .error _ => s
    else s) (s.vput v va (l.flatMap (fun x => leBytes x.v.toNat 4)))

/-- Bytes that come from outside written from `va` on, with the poison of those that `psn` names (R62); the first failing byte's
address with its kind. -/
def State.land (s : State) (d v va : Nat) (data : List Byte) (psn : NSet) : Except (Nat × Nat) State :=
  match s.writeClean d v va data with
  | .error e => .error e
  | .ok s => .ok ((psn.filter (fun k => decide (k < data.length))).foldl (fun s k =>
      match s.writeB d v (va + k) (data.getD k 0) 0xFF .set .write false with
      | .ok s => s
      | .error _ => s) s)

/-! ## The die translation cache and its counters (R321, R322) -/

/-- A saturating 16-bit count. -/
def sat16 (n : Nat) : Nat := min n 0xFFFF

/-- A shadow record with a die's hits and writes added (R322). -/
def Shadow.add (r : Shadow) (d hits : Nat) (written : Bool) : Shadow :=
  let r := match d with
    | 0 => { r with h0 := sat16 (r.h0 + hits) }
    | 1 => { r with h1 := sat16 (r.h1 + hits) }
    | 2 => { r with h2 := sat16 (r.h2 + hits) }
    | _ => { r with h3 := sat16 (r.h3 + hits) }
  if written then { r with wmask := r.wmask ||| (1#4 <<< d) } else r

/-- A cache entry's counter and flag added to the record of its page's home frame, a DRAM frame. -/
def State.foldHits (s : State) (d : Nat) (e : TlbEnt) : State :=
  if entPeer e.leaf.toNat || paShelf (entFrame e.leaf.toNat) then s
  else
    let fr := entFrame e.leaf.toNat / 65536
    s.modD (paDie (entFrame e.leaf.toNat)) (fun x =>
      { x with shadow := FMap.set Shadow.zero x.shadow fr ((FMap.get Shadow.zero x.shadow fr).add d e.hits e.written) })

/-- A page's translation brought into a die's cache where absent (the oldest of 16,384 leaves, its counts folded in), with
`hits` counted (R321). -/
def State.bring (s : State) (d v page hits : Nat) (write : Bool) : State :=
  if (s.die d).tlb.any (fun e => e.has v page) then
    let hit := fun (e : TlbEnt) => { e with hits := sat16 (e.hits + hits), written := e.written || write }
    s.modD d (fun x => { x with tlb := modFirst (fun e => e.has v page) hit x.tlb })
  else match s.walk v (page * 65536) with
  | .error _ => s
  | .ok (l, large) =>
    let s :=
      if (s.die d).tlb.length < 16384 then s
      else match (s.die d).tlb with
        | [] => s
        | e :: r => (s.foldHits d e).modD d (fun x => { x with tlb := r })
    let first := if large then page / 32 * 32 else page
    s.modD d (fun x => { x with tlb := x.tlb ++ [⟨v, first, BitVec.ofNat 64 l, large, hits, write⟩] })

/-- One touch of a page by an engine of a die. -/
def State.touch (s : State) (d v page : Nat) (write : Bool) : State := s.bring d v page 1 write

/-- Touches of several pages. -/
def State.touchAll (s : State) (d v : Nat) (pages : List Nat) (write : Bool) : State :=
  pages.foldl (fun s p => s.touch d v p write) s

/-! ## Logs and free values -/

/-- A violation logged by a die, overwriting the oldest of 64 entries (R337). -/
def State.violate (s : State) (d : Nat) (phys : Bool) (kind v src : Nat) (addr : DWord) : State :=
  let e : Viol := ⟨BitVec.ofNat 32 (s.clock + (s.die d).skew), phys, kind, v, src, addr⟩
  s.modD d (fun x =>
    if x.viols.length < 64 then { x with viols := x.viols ++ [e] }
    else { x with viols := x.viols.tail ++ [e], violOver := x.violOver + 1 })

/-- A fresh identifier. -/
def State.newId (s : State) : State × Nat :=
  ({ s with pkg := { s.pkg with nextId := s.pkg.nextId + 1 } }, s.pkg.nextId)

/-- A report at the management port. -/
def State.report (s : State) (r : Report) : State := { s with pkg := { s.pkg with reports := s.pkg.reports ++ [r] } }

/-! ## Bandwidth tokens (R333, R334) -/

/-- The capacity of a token class per period: DRAM, Shelf, link. -/
def tokCap (cls : Nat) : Nat :=
  match cls with
  | 0 => 1398101
  | 1 => 1820444
  | _ => 512000

/-- The tokens of a class that a die has not given to any device (R334 spare). -/
def Die.spareOf (x : Die) (cls : Nat) : Nat := FMap.get 0 x.spare cls

/-- The account of a device in a class. -/
def Die.acct (x : Die) (v cls : Nat) : Option Toks := x.toks.find? (fun a => a.vdev == v && a.cls == cls)
/-- A die with one account changed. -/
def Die.modAcct (x : Die) (v cls : Nat) (f : Toks → Toks) : Die :=
  { x with toks := modFirst (fun a => a.vdev == v && a.cls == cls) f x.toks }

/-- The device that lends `n` tokens: the largest balance, ties to the lowest number (R334). -/
def Die.lender (x : Die) (v cls n : Nat) : Option Toks :=
  let ok := x.toks.filter (fun a => a.cls == cls && a.vdev != v && !a.waiting && decide ((n : Int) ≤ a.bal))
  ok.foldl (fun (best : Option Toks) a =>
    match best with
    | none => some a
    | some b => if b.bal < a.bal ∨ (b.bal = a.bal ∧ a.vdev < b.vdev) then some a else some b) none

/-- A request of `n` tokens (R334); none where it waits for the next period. A device with no account in the class is not
metered. -/
def Die.charge (x : Die) (v cls n : Nat) : Option Die :=
  match x.acct v cls with
  | none => some x
  | some a =>
    if n = 0 then some x
    else if 1 ≤ a.bal then some (x.modAcct v cls (fun a => { a with bal := a.bal - n }))
    else if a.debt + n ≤ a.borrow then
      if n ≤ x.spareOf cls then
        some ({ x with spare := FMap.set 0 x.spare cls (x.spareOf cls - n) }.modAcct v cls
          (fun a => { a with debt := a.debt + n }))
      else match x.lender v cls n with
        | none => none
        | some u =>
          some ((x.modAcct u.vdev cls (fun a => { a with bal := a.bal - n })).modAcct v cls
            (fun a => { a with debt := a.debt + n }))
    else none

/-- A global access of a command: address, bytes, and what it does. -/
structure Req where
  va : Nat
  n : Nat
  need : Need
  deriving DecidableEq, Repr

/-- The resources that a byte's request enters: the DRAM or the Shelf of the die that holds it, and the link out of the
issuing die where it lies elsewhere. A write to a replicated page goes to the home's commit unit and from there to every
copy (R326). -/
def State.resOf (s : State) (d v : Nat) (r : Req) : List (Nat × Nat) :=
  let enter := fun (e pa : Nat) => (paDie pa, if paShelf pa then 1 else 0) :: (if paDie pa = e then [] else [(e, 2)])
  match s.locate d v r.va .read with
  | .ok (.here pa) =>
    (match (if r.need = .read then [] else s.copies v r.va).getLast? with
     | none => enter d pa
     | some home => enter d home ++ ((s.copies v r.va).filter (fun a => a != home)).flatMap (enter (paDie home)))
  | .ok (.peer _ _) => [(d, 2)]
  | .error _ => []

/-- The bytes of a request entering one resource, as often as it enters it. -/
def State.bytesIn (s : State) (d v : Nat) (rs : List Req) (res : Nat × Nat) : Nat :=
  (rs.map (fun r => r.n * ((s.resOf d v r).filter (fun x => x == res)).length)).sum

/-- The table entries that the walk of an untranslated page reads, by the die that holds each (R318). -/
def State.walkDies (s : State) (v page : Nat) : List Nat :=
  match s.vdev v with
  | none => []
  | some dv =>
    let e1 := (s.pword (dv.root + 8 * (page / 2 ^ 18))).toNat
    paDie dv.root :: (match (if entV e1 then ptrOf e1 65536 else none) with
      | none => []
      | some t2 =>
        let e2 := (s.pword (t2 + 8 * (page / 32 % 8192))).toNat
        paDie t2 :: (match (if entV e2 && !entLeaf e2 then ptrOf e2 256 else none) with
          | none => []
          | some t3 => [paDie t3]))

/-- The tokens that the walks for the pages of some accesses take of one resource: one for each entry read in its DRAM, one
of the link for an entry on another die. -/
def State.walkToks (s : State) (d v : Nat) (rs : List Req) (res : Nat × Nat) : Nat :=
  if 4 ≤ d then 0 else
  let pages := ((rs.flatMap (fun r => [pageOf r.va, pageOf (r.va + r.n - 1)])).eraseDups).filter (fun p =>
    !(s.die d).tlb.any (fun e => e.has v p))
  let ds := pages.flatMap (fun p => s.walkDies v p)
  match res.2 with
  | 0 => (ds.filter (fun k => k == res.1)).length
  | 2 => if res.1 = d then (ds.filter (fun k => k != d)).length else 0
  | _ => 0

/-- Every resource charged for a command's accesses and the walks they need, or the resource whose account must wait.
(DEDUCED, log 28). -/
def State.charge (s : State) (d v : Nat) (rs : List Req) : Except (Nat × Nat) State :=
  if s.dies.all (fun x => x.toks.isEmpty) then .ok s
  else
    let res := (List.range 4).flatMap (fun k => [(k, 0), (k, 1), (k, 2)])
    res.foldl (fun (r : Except (Nat × Nat) State) x =>
      match r with
      | .error e => .error e
      | .ok s' =>
        match (s'.die x.1).charge v x.2 ((s.bytesIn d v rs x + 63) / 64 + s.walkToks d v rs x) with
        | none => .error x
        | some y => .ok (s'.modD x.1 (fun _ => y))) (.ok s)

/-- The account that a request finds empty marked as waiting for the next period. -/
def State.markWait (s : State) (d v : Nat) (rs : List Req) : State :=
  match s.charge d v rs with
  | .ok _ => s
  | .error x => s.modD x.1 (fun y => y.modAcct v x.2 (fun a => { a with waiting := true }))

/-! ## Touched pages (R321) -/

/-- The page that counts for a byte: a large page counts as one, at its first base page. -/
def State.pageKey (s : State) (d v va : Nat) : Nat :=
  match s.leaf d v va with
  | .ok (_, true) => pageOf va / 32 * 32
  | _ => pageOf va
/-- The pages that accesses touch, each with whether one of them writes. -/
def State.pagesOf (s : State) (d v : Nat) (rs : List Req) : List (Nat × Bool) :=
  let keys := fun (l : List Req) => (l.flatMap (fun r => [s.pageKey d v r.va, s.pageKey d v (r.va + r.n - 1)])).eraseDups
  let wr := keys (rs.filter (fun r => r.need != .read))
  ((keys rs).filter (fun k => !wr.contains k)).map (fun k => (k, false)) ++ wr.map (fun k => (k, true))
/-- The pages of some accesses counted, but for those that their command has counted before (R321): one hit for each page,
and its written flag. -/
def State.touchNew (s : State) (d v : Nat) (rs : List Req) (seen : NSet) : State :=
  (s.pagesOf d v rs).foldl (fun s k => s.bring d v k.1 (if NSet.has seen k.1 then 0 else 1) k.2) s
/-- The pages that accesses touch, counted. -/
def State.touchReqs (s : State) (d v : Nat) (rs : List Req) : State := s.touchNew d v rs []

/-! ## Instruction fetch (R315) -/

/-- The lines of a core's instruction L1: 64 KiB. -/
def l1Lines : Nat := 1024
/-- The lines of a die's level-2 instruction cache: 16 MiB. -/
def l2Lines : Nat := 262144

/-- The cached line of an address. -/
def lineIn (l : List ICLine) (v va : Nat) : Option ICLine := l.find? (fun x => x.vdev == v && x.line == va / 64)
/-- A line added to a cache of `n` lines, in place of the oldest where it is full. (DESIGN CHOICE, log 81). -/
def addLine (n : Nat) (l : List ICLine) (x : ICLine) : List ICLine := (if l.length < n then l else l.tail) ++ [x]

/-- A 64-bit word of code at an 8-byte-aligned address as core `c` of die `d` fetches it: from its L1, else from the die's
level 2, else from memory; or the kind of engine fault. (DESIGN CHOICE, log 97). -/
def State.codeWord (s : State) (d c v va : Nat) : Except Nat DWord :=
  match lineIn (s.core d c).l1 v va with
  | some l => .ok (l.words.getD (va / 8 % 8) 0)
  | none =>
    match lineIn (s.die d).icache v va with
    | some l => .ok (l.words.getD (va / 8 % 8) 0)
    | none =>
      match s.readN d v (va / 8 * 8) 8 with
      | .ok l => .ok (BitVec.ofNat 64 (leNat (fun k => (l.getD k (0, false)).1) 0 8))
      | .error e => .error e.2

/-- A 32-bit word of code at a 4-byte-aligned address. -/
def State.codeHalf (s : State) (d c v va : Nat) : Except Nat Word :=
  match s.codeWord d c v va with
  | .ok w => .ok (if va / 4 % 2 = 0 then w.extractLsb' 0 32 else w.extractLsb' 32 32)
  | .error e => .error e

/-- Whether the line of an address has to come from memory. -/
def State.lineMissing (s : State) (d c v va : Nat) : Bool :=
  (lineIn (s.core d c).l1 v va).isNone && (lineIn (s.die d).icache v va).isNone

/-- A line as it stands in memory. -/
def State.memLine (s : State) (d v va : Nat) : Option ICLine :=
  match s.readN d v (va / 64 * 64) 64 with
  | .error _ => none
  | .ok l =>
    let word := fun k => BitVec.ofNat 64 (leNat (fun j => (l.getD j (0, false)).1) (8 * k) 8)
    some ⟨v, va / 64, (List.range 8).map word⟩

/-- The line of a fetched word brought into the core's L1, through the die's level 2, which it fills where that has no
such line; a fetch from level 2 touches the page (R321). -/
def State.fillLine (s : State) (d c v va : Nat) : State :=
  if (lineIn (s.core d c).l1 v va).isSome then s
  else
    let up := fun (s : State) (x : ICLine) =>
      (s.touch d v (pageOf va) false).modC d c (fun y => { y with l1 := addLine l1Lines y.l1 x })
    match lineIn (s.die d).icache v va with
    | some x => up s x
    | none =>
      match s.memLine d v va with
      | none => s
      | some x => up (s.modD d (fun y => { y with icache := addLine l2Lines y.icache x })) x

/-- The tokens of a code fill taken where the line of an address comes from memory (R333); with the state in which they are
waited for where they are short. -/
def State.payLine (s : State) (d c v va : Nat) : Except State State :=
  if s.lineMissing d c v va then
    let r : List Req := [⟨va / 64 * 64, 64, .read⟩]
    match s.charge d v r with
    | .ok s => .ok s
    | .error _ => .error (s.markWait d v r)
  else .ok s

/-- A code word fetched with its line; with the state in which the fetch waits where it cannot be made now. -/
def State.fetchWord (s : State) (d c v va : Nat) : Except State (State × DWord) :=
  match s.codeWord d c v va with
  | .error _ => .error s
  | .ok w =>
    match s.payLine d c v va with
    | .error s => .error s
    | .ok s => .ok (s.fillLine d c v va, w)

end Sys2Proof.Machine
end

