-- ==== Sys2Proof/Machine/Ops.lean ====
section
/-! DEFINITION. The life of a thread and of a workgroup: exit, barriers, region faults, release; taking an exception (R34)
and returning from one (R35). -/
namespace Sys2Proof.Machine

/-! ## Workgroup barriers (R230, R193) -/

/-- The indices of the live threads of a workgroup. -/
def Group.liveIds (g : Group) : List Nat :=
  (List.range g.warps.length).flatMap (fun w =>
    ((List.range 32).filter (fun t => ((g.wrp w).thr t).live)).map (fun t => tid w t))

/-- What a phase advance does to a thread: both Touchstone sets are emptied (R195). -/
def Thread.newPhase (t : Thread) : Thread := { t with sAll := false, sSet := [], lSet := [], lFull := false }

/-- A thread's state when a barrier's phase `ph` completes: a second arrival counts in the next phase (R230), and with it
an arrive waits for nothing more than the completed phase. -/
def Thread.barDone (t : Thread) (id ph : Nat) : Thread :=
  match t.sched with
  | .blocked (.barAgain k sync) =>
    if k = id then { t with sched := .blocked (.bar id (if sync then ph + 1 else ph)) } else t
  | _ => t

/-- The threads that wait to arrive again at a barrier. -/
def Group.againIds (g : Group) (id : Nat) : List Nat :=
  (List.range g.warps.length).flatMap (fun w =>
    ((List.range 32).filter (fun t => match ((g.wrp w).thr t).sched with
      | .blocked (.barAgain k _) => k == id
      | _ => false)).map (fun t => tid w t))

/-- A barrier's phase completes when every live thread has arrived: its phase and the workgroup's advance, and every
Touchstone tag reads as empty (R230, R193). -/
def Group.completeBar (g : Group) (id : Nat) : Group :=
  let b := FMap.get Bar.zero g.bars id
  if b.arrived.isEmpty || !(g.liveIds.all (fun k => NSet.has b.arrived k)) then g
  else
    { g with
      bars := FMap.set Bar.zero g.bars id ⟨b.phase + 1, (g.againIds id).foldl NSet.add []⟩
      phase := (g.phase + 1) % 16
      rels := []
      tags := []
      warps := g.warps.map (fun w => w.all (fun t => (t.barDone id b.phase).newPhase)) }

/-- Every barrier that an arrival or an exit may have completed (R30); second arrivals may complete the next phase. -/
def Group.completeBars (g : Group) : Group :=
  (List.range 16).foldl Group.completeBar ((List.range 16).foldl Group.completeBar g)

/-! ## Exit (R30, R159) -/

/-- A thread that ends. -/
def Thread.exit (t : Thread) : Thread :=
  { t with sched := .exited, demoted := false, spinN := 0, promo := none, pend := [], latch := [], status := setHnd t.status false }

/-- A warp whose threads have all ended gives its blocks to its quadrant's pool (R273). -/
def Group.poolWarp (g : Group) (w : Nat) : Group :=
  let x := g.wrp w
  if x.threads.any Thread.live || x.blocks = 0 then g
  else
    let p := FMap.get Pool.zero g.pools x.quad
    { (g.modW w (fun y => { y with blocks := 0, spilled := [], reach := none, refill := [], bank := none })) with
      pools := FMap.set Pool.zero g.pools x.quad ⟨p.n + x.blocks, p.taken + x.spilled.length⟩ }

/-- A thread of a workgroup ends: barriers no longer expect it. -/
def Group.exitT (g : Group) (w t : Nat) : Group :=
  ((g.modT w t Thread.exit).poolWarp w).completeBars

/-! ## What a release reaches (R340, R345, R328) -/

/-- Whether a workgroup lies in the domain of an operation at a scope by another (Table 17-1). -/
def State.inDomain (s : State) (scope g h : Nat) : Bool :=
  let x := s.grp g
  let y := s.grp h
  match scope with
  | 0 => false
  | 1 => g == h
  | 2 => y.die == x.die && y.core / 4 == x.core / 4
  | 3 => y.die == x.die
  | _ => true

/-- The directory of every die changed entry by entry. -/
def State.mapSpans (s : State) (f : SpanEnt → SpanEnt) : State :=
  { s with dies := s.dies.map (fun (x : Die) => { x with spanDir := x.spanDir.map f }) }
/-- Whether a mark covers a workgroup: from .dev on every one, else those that it names (R328). -/
def RelMark.covers (m : RelMark) (g : Nat) : Bool := decide (4 ≤ m.scope) || NSet.has m.cover g
/-- Whether the marks of an entry cover a workgroup (R328). -/
def SpanEnt.covers (e : SpanEnt) (g : Nat) : Bool := e.marks.any (fun m => m.covers g)
/-- Whether two marks come from releases of one workgroup at one scope and place. -/
def RelMark.same (a b : RelMark) : Bool := a.by' == b.by' && a.scope == b.scope && a.die == b.die && a.cl == b.cl
/-- An entry marked by a release; a later one of the same kind adds to what the earlier covers. -/
def SpanEnt.mark (e : SpanEnt) (m : RelMark) : SpanEnt :=
  let old := (e.marks.filter (fun k => k.same m)).flatMap (fun k => k.cover)
  { e with marks := e.marks.filter (fun k => !k.same m) ++ [{ m with cover := old.foldl NSet.add m.cover }] }

/-- A release by a thread of workgroup `g` at a scope, as far as it reaches beyond the core (R345, R328): from .die on the writes
that its die has sent out are performed; from .cl on its directory entries are marked for its domain, and so are those of
others that its threads had acquired from. (DEDUCED, log 82). -/
def State.released (s : State) (g scope : Nat) : State :=
  if scope < 2 then s
  else
    let x := s.grp g
    let m : RelMark := ⟨g, scope, x.die, x.core / 4, (List.range s.groups.length).filter (fun h => s.inDomain scope g h), s.groups.length⟩
    (if scope < 3 then s else s.drainDie x.die).mapSpans (fun e => if e.grp = g ∨ NSet.has e.got g then e.mark m else e)

/-- Whether a mark's place takes in a workgroup that did not exist at its release: its cluster or its die. -/
def RelMark.takesIn (m : RelMark) (g : Nat) (x : Group) : Bool :=
  decide (m.upto ≤ g) && x.die == m.die && (m.scope == 3 || (m.scope == 2 && x.core / 4 == m.cl))
/-- What an acquire by a workgroup at a scope does to an entry: a mark takes in a workgroup created since its release that stands
in its place, and the entry notes who has acquired, where the releaser lies in the acquire's domain (R344).
(DEDUCED, log 82). -/
def State.acquireEnt (s : State) (g scope : Nat) (e : SpanEnt) : SpanEnt :=
  let in' := fun (m : RelMark) => s.inDomain scope g m.by'
  let ms := e.marks.map (fun m => if in' m && m.takesIn g (s.grp g) then { m with cover := NSet.add m.cover g } else m)
  { e with
    marks := ms
    got := if ms.any (fun m => in' m && m.covers g) then NSet.add e.got g else e.got }
/-- An acquire by a workgroup at a scope, as far as it reaches beyond the core (R340, R344). -/
def State.acquires (s : State) (g scope : Nat) : State :=
  if scope < 2 then s else s.mapSpans (s.acquireEnt g scope)

/-- A release by a thread, by its index: from .wg on the Touchstone has it among those that others may acquire from by what
lies beyond scratch (R349). (DEDUCED, log 106). -/
def State.releasedBy (s : State) (g u scope : Nat) : State :=
  if scope = 0 then s else (s.released g scope).modG g (fun x => { x with rels := NSet.add x.rels u })

/-- Whether the die of a workgroup has sent write-backs to peer pages that are not acknowledged: a release from .die on waits for
them (R345, R394); those of engine commands retire only when they are. -/
def State.unsent (s : State) (g scope : Nat) : Bool :=
  decide (3 ≤ scope) && s.fab.unack.any (fun u => u.id == 0 && u.die == (s.grp g).die)

/-- Whether a thread, by its index, has a scratch access issued and not performed (R341). -/
def Group.bankBusy (x : Group) (u : Nat) : Bool := x.bank.any (fun o => o.u == u)

/-! ## The end of a workgroup -/

/-- The sum of a map's values. -/
def FMap.total (m : FMap Nat) : Nat := m.foldl (fun n x => n + x.2) 0

/-- The gangs of a launch. -/
def Launch.gangs (l : Launch) : Nat := l.nx * l.ny * l.nz

/-- A launch completes when every gang it placed has exited (R314). -/
def Launch.settle (l : Launch) : Launch :=
  if l.st = 1 ∧ l.gangs ≤ FMap.total l.exited then { l with st := 2 } else l

/-- A launch that is not complete enters state 3 when a predecessor is in state 3 (R365): none of its groups starts from
then on. (DEDUCED, log 73). -/
def spreadFaults (ls : List Launch) : Nat → List Launch
  | 0 => ls
  | n + 1 =>
    let bad := (ls.filter (fun l => l.st == 3)).map (fun l => l.id)
    spreadFaults (ls.map (fun l => if l.st < 2 ∧ l.preds.any (fun p => bad.contains p) then { l with st := 3 } else l)) n

/-- A launch put into state 3 (R365), and with it every launch that waits for it. -/
def State.faultLaunch (s : State) (id : Nat) : State :=
  let ls := s.launches.map (fun l => if l.id = id ∧ l.st ≠ 2 then { l with st := 3 } else l)
  { s with launches := spreadFaults ls ls.length }

/-- One exited gang more on a die. -/
def State.exitedGang (s : State) (id d : Nat) : State :=
  let more := fun (l : Launch) => { l with exited := FMap.set 0 l.exited d (FMap.get 0 l.exited d + 1) }
  { s with launches := s.launches.map (fun l => if l.id = id then (more l).settle else l) }

/-- Whether a device still has a workgroup on a core. -/
def State.onCore (s : State) (v d c : Nat) : Bool :=
  s.groups.any (fun g => g.alive && g.vdev == v && g.die == d && g.core == c)

/-- Whether a warp of a core selects an activation bank (R150): resident, folded and saved warps count. -/
def State.bankSelected (s : State) (d c k : Nat) : Bool :=
  s.groups.any (fun g => g.alive && g.die == d && g.core == c &&
    g.warps.any (fun w => w.bank == some k && w.threads.any Thread.live))

/-- The banks of a device without workgroups on a core are cleared and left with no owner (R151). -/
def State.clearBanks (s : State) (v d c : Nat) : State :=
  if s.onCore v d c then s
  else
    let clr := fun (m : FMap ActBank) (k : Nat) =>
      if (FMap.get ActBank.void m k).owner = some v ∧ !s.bankSelected d c k then FMap.set ActBank.void m k ActBank.void
      else m
    s.modC d c (fun x => { x with banks := (List.range 2).foldl clr x.banks })

/-- The workgroup's own mark on its scoreboard, queues and operations removed: nothing of it is in flight any more. -/
def Group.quiet (g : Group) : Group :=
  { g with
    board := []
    bank := []
    warps := g.warps.map (fun w => { w with cqs := [[], [], [], []], mops := [], fold := none, refill := [] }) }

/-- The open-span directory forgets a workgroup (R328). -/
def Die.dropSpans (x : Die) (g : Nat) : Die := { x with spanDir := x.spanDir.filter (fun e => e.grp != g) }

/-- What a workgroup holds returns to the free pools: it is no longer alive (R30). -/
def State.release (s : State) (g : Nat) : State :=
  let x := s.grp g
  let s := s.modG g (fun x => { x.quiet with alive := false, spans := [] })
  let s := { s with dies := s.dies.map (fun (d : Die) => d.dropSpans g) }
  s.clearBanks x.vdev x.die x.core

/-- Whether nothing of a workgroup is in flight: every thread has ended and every command retired. -/
def State.drained (s : State) (g : Nat) : Bool :=
  let x := s.grp g
  x.alive && x.liveIds.isEmpty && x.bank.isEmpty
  && x.warps.all (fun w => w.cqs.all List.isEmpty && w.mops.isEmpty)
  && !(s.core x.die x.core).atlds.any (fun a => a.grp == g)

/-- Whether a span of a workgroup holds a dirty byte. -/
def Group.anyDirty (g : Group) : Bool :=
  g.spans.any (fun m => match m.2 with
    | some sp => sp.secs.any (fun x => !x.2.dirty.isEmpty)
    | none => false)

/-- A workgroup that has ended is released, once the dirty sectors of its spans are written back (R30, Table 8-2), with
a release at .dev (R275): its launch counts it. -/
def State.settle (s : State) (g : Nat) : State :=
  let x := s.grp g
  if s.drained g && !x.anyDirty && !s.unsent g 4 then
    let s := (s.released g 4).release g
    match x.kind with
    | .gang l _ => s.exitedGang l x.die
    | _ => s
  else s

/-- A thread of a workgroup ends (R30); its warp's blocks may go to a pool (R273). -/
def State.exitT (s : State) (g w t : Nat) : State := (s.modG g (fun x => x.exitT w t)).settle g

/-! ## Region faults (R36) -/

/-- Every thread of a workgroup ends without reaching exit, and its commands and dirty sectors are abandoned (R36). -/
def Group.kill (g : Group) : Group :=
  { g with
    faulted := true
    spans := []
    board := []
    xbars := []
    xbFrom := []
    bank := []
    warps := g.warps.map (fun w =>
      { w with
        cqs := [[], [], [], []]
        mops := []
        fold := none
        refill := []
        threads := w.threads.map (fun t => if t.live then t.exit else t) }) }

/-- A recursion run ends early (R292): its routines end, its frames are freed, which their headers say (Table 13-7), ABC and
then STATUS are written with a release at .dev, nothing goes to RES. -/
def State.abortSpinner (s : State) (n : Nat) (abc : Nat) : State :=
  match s.spinners[n]? with
  | none => s
  | some sp =>
    if sp.st ≠ .running then s
    else
      let off := fun (x : Spinner) => { x with
        st := .aborted
        frames := []
        pending := []
        lanes := [] }
      let s := { s with spinners := modAt s.spinners n off }
      let s := sp.frames.foldl (fun s f => s.vput sp.vdev (sp.pool + 64 * f.ix + 6) [0]) s
      let s := s.vput sp.vdev (sp.obj + 0x64) (leBytes abc 4)
      let s := match sp.grp with
        | some g => s.released g 4
        | none => s
      let s := s.vput sp.vdev (sp.obj + 0x60) (leBytes 3 4)
      match sp.grp with
      | none => s
      | some g => (s.grp g).liveIds.foldl (fun s u => s.exitT g (u / 32) (u % 32)) s

/-- Nothing of a workgroup waits at a queue or in a table loader any more. -/
def State.forget (s : State) (g : Nat) : State :=
  let x := s.grp g
  let s := { s with queues := s.queues.map (fun (q : HwQueue) => { q with waits := q.waits.filter (fun (w : QWait) => w.t.g != g) }) }
  s.modC x.die x.core (fun c => { c with atlds := c.atlds.filter (fun a => a.grp != g) })

/-- A region fault in a workgroup (R36): its threads end, its commands are abandoned, the fault is reported with its
cause and value, its launch enters state 3 or its recursion run aborts, and its resources are released. -/
def State.regionFault (s : State) (g : Nat) (cause : Nat) (val : DWord) : State :=
  let x := s.grp g
  if !x.alive then s
  else
    let s := ((s.modG g Group.kill).forget g).release g
    let s := s.report (.region x.region cause val)
    match x.kind with
    | .gang l _ => (s.faultLaunch l).exitedGang l x.die
    | .wave => s
    | .lanes n => s.abortSpinner n 0xFFFF

/-- A region fault in a region as a whole (R212, R306, R339): in every workgroup of it, those Saved too where `all` says so;
its launches enter state 3, and its recursion runs abort. A region without a workgroup is reported as well. (DEDUCED, log
86). -/
def State.faultRegion (s : State) (r : Nat) (all : Bool) : State :=
  let gs := (List.range s.groups.length).filter (fun g =>
    let x := s.grp g
    x.alive && x.region == r && (all || x.save != .saved))
  let s := if gs.isEmpty then s.report (.region r 0 0) else gs.foldl (fun s g => s.regionFault g 0 0) s
  let ls := (s.launches.filter (fun l => l.region == r && decide (l.st < 2) && all)).map (fun l => l.id)
  let s := ls.foldl State.faultLaunch s
  ((List.range s.spinners.length).filter (fun n => ((s.spinners[n]?).map (fun x => x.region)) == some r)).foldl
    (fun s n => if all then s.abortSpinner n 0xFFFF else s) s

/-! ## Taking an exception (R34) -/

/-- The thread at its trap entry: the saved location, cause and value, HND set, and the handler's address and mode
(R34, R163). A trap sets the spin detector's count to 0 (R178). (DESIGN CHOICE, log 97). -/
def Thread.takeTrap (t : Thread) (entry : DWord) (cause : Nat) (val : DWord) : Thread :=
  { t with
    tpc := match t.mode with
      | .native => t.pc ||| 1
      | .prerin => t.pc &&& ~~~1#64
    trix := match t.mode with
      | .native => BitVec.ofNat 32 t.tix
      | .prerin => 0
    tcause := BitVec.ofNat 32 (cause % 64)
    tval := val
    status := setHnd t.status true
    pc := entry &&& ~~~1#64
    tix := 0
    mode := if entry.getLsbD 0 then .native else .prerin
    sched := .ready
    latch := []
    spinN := 0 }

/-- A thread takes a trap. In a handler, or where the kernel descriptor names none, it is a region fault instead
(R36, R163). -/
def State.trapT (s : State) (g w t : Nat) (cause : Nat) (val : DWord) : State :=
  let x := s.thr g w t
  let entry := (s.wrp g w).kd.trap
  if !x.live then s
  else if x.hnd || entry = 0 then s.regionFault g cause val
  else s.modT g w t (fun x => x.takeTrap entry cause val)

/-! ## Returning from an exception (R35) -/

/-- What tret does in a thread that runs its handler, with the header found at the saved address: where it resumes,
with the header's flags (R35, R83); none where tret itself traps. -/
def Thread.retTrap (t : Thread) (hdr : Option HFields) : Option Thread :=
  let h := t.tpc &&& ~~~1#64
  let out := { t with status := setHnd t.status false, spinN := 0, sched := .ready }
  if t.tpc.getLsbD 0 then
    match hdr with
    | none => none
    | some w =>
      let len := w.len.toNat
      let ix := t.trix.toNat
      if h.toNat % 8 ≠ 0 then none
      else if ix > len + 1 then none
      else if ix = len + 1 then
        some { out with mode := .native, pc := h + 8 * BitVec.ofNat 64 (len + 1), tix := 0,
                        fa := w.fa.toNat, fb := w.fb.toNat, len := len }
      else some { out with mode := .native, pc := h, tix := ix, fa := w.fa.toNat, fb := w.fb.toNat, len := len }
  else if h.toNat % 4 ≠ 0 then none
  else some { out with mode := .prerin, pc := h, tix := 0 }

/-! ## Service actions in order (R375) -/

/-- A device changed. -/
def State.modV (s : State) (v : Nat) (f : VDev → VDev) : State := { s with vdevs := s.vdevs.map (fun x => if x.num = v then f x else x) }
/-- What tells a request from others of its kind while it is in progress. -/
def ReqSrc.key : ReqSrc → Nat
  | .mgmt _ seq _ => 2 * seq.toNat + 1
  | .host tag => 2 * tag
/-- Whether an action of a device still stands for something: a checkpoint for the operator's or for a call not answered, a
migration for the move, a restoring for its checkpoint, each other one for its request. -/
def State.actLive (s : State) (v a : Nat) : Bool :=
  let k := a / 16
  let asked := if k % 2 = 0 then s.pkg.reqs.any (fun r => r.tag == k / 2)
    else s.pkg.mgmtOpen.any (fun x => x.2.toNat == k / 2)
  match a % 16 with
  | 2 => a == 2 || s.calls.any (fun c => c.id == k && c.vdev == v && c.res.isNone)
  | 3 => asked || s.fab.migOut.any (fun m => m.vdev == v && m.req.key == k)
  | 5 => s.ckpts.any (fun c => c.id == k)
  | _ => asked
/-- The actions of a device in the order in which they were received: 1 reset, 2 checkpoint, 3 migration, 4 reconfiguration,
5 restoring, 6 deletion, in the low four bits, above them what tells two of a kind apart. -/
def State.actions (s : State) (v : Nat) : List Nat :=
  (((s.vdev v).map (fun x => x.actions)).getD []).filter (fun a => s.actLive v a)
/-- An action received: behind those before it. (DEDUCED, log 68). -/
def State.enqueue (s : State) (v a : Nat) : State :=
  if (s.actions v).contains a then s else s.modV v (fun x => { x with actions := s.actions v ++ [a] })
/-- Whether an action is the one in progress. -/
def State.isHead (s : State) (v a : Nat) : Bool := (s.actions v).head? == some a
/-- An action complete. -/
def State.finishAct (s : State) (v a : Nat) : State := s.modV v (fun x => { x with actions := x.actions.filter (fun y => y != a) })
/-- A system call received: CKPT takes its place among the service actions of its device at once (R375). -/
def State.addCall (s : State) (c : Call) : State :=
  let s := { s with calls := s.calls ++ [c] }
  if c.num = 0x00D ∧ c.res.isNone then s.enqueue c.vdev (2 + 16 * c.id) else s

end Sys2Proof.Machine
end

