-- ==== Sys2Proof/Machine/Operands.lean ====
section
/-! DEFINITION. Operands and the front of every instruction: the registers a word names, the checks made before any
effect (R15, R16, R64, R68, R424), and the three ways an instruction acts: on each thread by its own registers, on each
thread in turn, or once for the pack (R213). -/
namespace Sys2Proof.Machine

/-- An instruction as it issues: its form and fields, the Prerin words it takes (0 in native code), the flag that SF
names in Prerin code, and the word that a decode trap reports (R66). -/
structure Ins where
  op : Op
  f : Fields
  words : Nat
  flag : Nat
  word : DWord
  deriving DecidableEq, Repr

/-- A native instruction. -/
def nat (o : Op) (f : Fields) : Ins := ⟨o, f, 0, 15, encodeF o f⟩

/-- A Prerin instruction. -/
def pri (o : Op) (p : PFields) : Ins :=
  ⟨o, p.f, (encodePrerin o p).length, p.flag.toNat, (encodePWord o p.f).setWidth 64⟩

/-- Whether the instruction has an immediate (R69). -/
def Ins.imm (i : Ins) : Bool := i.f.m.getLsbD 11
/-- imm16 zero-extended. -/
def Ins.immZ (i : Ins) : Nat := (imm16 i.f).toNat
/-- imm16 sign-extended. -/
def Ins.immS (i : Ins) : Int := (imm16 i.f).toInt
/-- A field of M. -/
def Ins.mb (i : Ins) (lo n : Nat) : Nat := mbits i.f lo n
/-- The D field. -/
def Ins.d (i : Ins) : Nat := i.f.d.toNat
/-- The A field. -/
def Ins.a (i : Ins) : Nat := i.f.a.toNat
/-- The B field. -/
def Ins.b (i : Ins) : Nat := i.f.b.toNat
/-- The C field. -/
def Ins.c (i : Ins) : Nat := i.f.c.toNat
/-- The layout of the operand fields. -/
def Ins.lay (i : Ins) : Layout := layout i.op i.f

/-- The run of registers that a field reads. -/
def srcRun (k : FK) (x : Nat) : List Nat :=
  match k with
  | .src n _ => (List.range n).map (fun j => x + j)
  | _ => []
/-- The run of registers that a field writes. -/
def dstRun (k : FK) (x : Nat) : List Nat :=
  match k with
  | .dst n _ => (List.range n).map (fun j => x + j)
  | _ => []
/-- An odd register where the field names a pair (R16). -/
def oddPair (k : FK) (x : Nat) : Bool :=
  match k with
  | .src 2 2 => x % 2 == 1
  | .dst 2 2 => x % 2 == 1
  | _ => false

/-- The g-registers that an instruction reads. -/
def Ins.srcs (i : Ins) : List Nat :=
  let l := i.lay
  srcRun l.d i.d ++ (srcRun l.a i.a ++ (srcRun l.b i.b ++ srcRun l.c i.c))
/-- The g-registers that an instruction writes. -/
def Ins.dsts (i : Ins) : List Nat :=
  let l := i.lay
  dstRun l.d i.d
/-- Every g-register that an instruction names, in the order D, A, B, C. -/
def Ins.regs (i : Ins) : List Nat :=
  let l := i.lay
  (dstRun l.d i.d ++ srcRun l.d i.d) ++ (srcRun l.a i.a ++ (srcRun l.b i.b ++ srcRun l.c i.c))
/-- The first odd register that names a pair (R16). -/
def Ins.odd (i : Ins) : Option Nat :=
  let l := i.lay
  if oddPair l.d i.d then some i.d
  else if oddPair l.a i.a then some i.a
  else if oddPair l.b i.b then some i.b
  else if oddPair l.c i.c then some i.c
  else none

/-- Whether a register number may be named by a warp of `b` blocks (R15); gz always may. -/
def regIn (b r : Nat) : Bool := r == 255 || (decide (r < 16 * b) && decide (r < 255))

/-- The trap 0x01 value of the register rules: the first odd register named as a pair, else the first register outside the
warp's blocks, each in the order D, A, B, C (R15, R16). (DESIGN CHOICE, log 79). -/
def regTrap (b : Nat) (rs : List Nat) (odd : Option Nat) : Option DWord :=
  match odd with
  | some r => some (BitVec.ofNat 64 r)
  | none => (rs.find? (fun r => !regIn b r)).map (fun r => BitVec.ofNat 64 r)

/-- The flag that SF selects for a thread: the header flag FS names, or the number that MOD names (R70, R87). -/
def Ins.flagOf (i : Ins) (t : Thread) : Option Nat :=
  if i.f.sf then
    (match t.mode with
     | .native => some (if i.f.fs then t.fb else t.fa)
     | .prerin => some i.flag)
  else none

/-- The checks of a decoded word against the clause's header flags and the warp (R424): the trap 0x01 value. -/
def warpTrap (w : Warp) (i : Ins) (t : Thread) : Option DWord :=
  if i.flagOf t = some 15 then some i.word
  else match i.op with
  | .setpart => if w.legacy && i.immZ != 16 then some i.word else none
  | .rsurr => if 1 ≤ i.immZ ∧ i.immZ + 1 ≤ w.blocks then none else some i.word
  | .rclaim => if 1 ≤ i.immZ ∧ w.blocks + i.immZ ≤ 16 then none else some i.word
  | _ => none

/-- Every decode check that is left when a word has decoded (R424): the trap 0x01 value for the whole pack. The checks of
header flags and of the legacy width come before those of registers. (DESIGN CHOICE, log 79). -/
def gate (w : Warp) (i : Ins) (t : Thread) : Option DWord :=
  match warpTrap w i t with
  | some v => some v
  | none => regTrap w.blocks i.regs i.odd

/-- The forms whose poisoned register operands trap 0x03 (R64). -/
def storesPoison : Op → Bool
  | .sts | .stsr | .atms | .hst | .xbarInit | .xbarArrive | .xbarWait | .xbarInval => true
  | .cpy | .cpyg | .cpys | .cpyr | .ldg | .stg | .atmg | .cqjoin | .smap | .ssync | .sinv | .sclose | .pref => true
  | .tspawn | .qrsv | .qenq | .qdeq | .qtry | .qsteal | .qerr | .qrest | .qstat | .succ | .wvis | .rsurr | .rclaim => true
  | .rstart | .rchild | .rdone | .rret | .rres | .rinfo | .rbase | .rabort => true
  | .sysc | .swr => true
  | _ => false

/-- The register whose poison is a poison at control: a branch target or a format word (R64). -/
def Ins.controlReg (i : Ins) : List Nat :=
  match i.op with
  | .brx | .callx | .ret => [i.a, i.a + 1]
  | .mtile | .mcvt => [i.c]
  | .mfmt => [i.a]
  | _ => []

/-- The lowest-numbered poisoned register of a list. -/
def Thread.lowestPoison (t : Thread) (rs : List Nat) : Option Nat :=
  minBy id (rs.filter (fun r => (t.reg r).p))

/-- The trap of a thread's own poisoned operands (R64): 0x04 before 0x03 (R33). -/
def poisonTrap (t : Thread) (i : Ins) : Option (Nat × DWord) :=
  match t.lowestPoison i.controlReg with
  | some r => some (0x04, BitVec.ofNat 64 (if i.op == .mtile || i.op == .mcvt || i.op == .mfmt then r else i.a))
  | none =>
    if storesPoison i.op then
      (t.lowestPoison i.srcs).map (fun r => (0x03, BitVec.ofNat 64 r))
    else none

/-- What the guard says of a thread (R68, R64). -/
inductive Guard where | take | skip | trap (v : DWord)
  deriving DecidableEq, Repr

/-- The guard field `gd` in a thread: `gd` bits [2:0] name the predicate, bit 3 negates it. -/
def Thread.guard (t : Thread) (gd : BitVec 4) : Guard :=
  let k := (gd.extractLsb' 0 3).toNat
  if k = 7 then .take
  else
    let p := t.pred k
    if p.p then .trap (BitVec.ofNat 64 (0x100 + k))
    else if p.v != gd.getLsbD 3 then .take
    else .skip

/-- The registers that an issued word reads and writes. -/
structure Use where
  rd : List Nat
  wr : List Nat
  deriving DecidableEq, Repr

/-- The registers of an instruction. -/
def Ins.use (i : Ins) : Use := ⟨i.srcs, i.dsts⟩
/-- The registers of both halves of a P word. -/
def Use.and (a b : Use) : Use := ⟨a.rd ++ b.rd, a.wr ++ b.wr⟩

/-- Whether a register the word names still awaits a result (R81). -/
def Thread.waits (t : Thread) (u : Use) : Bool := (u.wr ++ u.rd).any (fun r => NSet.has t.pend r)

/-- The spilled blocks that registers lie in, rising. -/
def Warp.spilledOf (w : Warp) (rs : List Nat) : List Nat :=
  (sortBy (· ≤ ·) ((rs.filter (· < 255)).map (· / 16))).eraseDups.filter (fun b => NSet.has w.spilled b)
/-- The spilled blocks a word needs: those it reads, then its destination's (R202). -/
def Warp.need (w : Warp) (u : Use) : List Nat := w.spilledOf u.rd ++ w.spilledOf u.wr

/-- The blocks of a list that are still to serve when the reach buffer holds `occ`: what it holds is latched. -/
def reachPast (occ : Option Nat) : List Nat → List Nat
  | [] => []
  | b :: l => if occ = some b then reachPast occ l else b :: l

/-- The blocks still to bring into the reach buffer for a word of these threads, behind those that their operand latch has
(R202, R267). -/
def Warp.toFill (w : Warp) (u : Use) (ts : List Nat) : List Nat :=
  reachPast w.reach ((w.need u).filter (fun b => !ts.all (fun t => NSet.has (w.thr t).latch b)))

/-- Whether the reach buffer serves a word of threads other than these. -/
def Warp.reachBusy (w : Warp) (ts : List Nat) : Bool :=
  (List.range 32).any (fun k => !ts.contains k && (match (w.thr k).sched with
    | .stalled (.reach _) => true
    | _ => false))

/-! ## What an instruction does to one thread -/

/-- The effect of an instruction on a thread: register and predicate writes, and the sticky bits it sets (bit 0 invalid,
1 divide-by-zero, 2 overflow). -/
structure Eff where
  g : List (Nat × Val)
  p : List (Nat × PVal)
  x : BitVec 3
  deriving DecidableEq, Repr

/-- No effect. -/
def Eff.none : Eff := ⟨[], [], 0⟩
/-- One register written. -/
def Eff.reg (r : Nat) (v : Val) : Eff := ⟨[(r, v)], [], 0⟩
/-- One predicate written. -/
def Eff.pred (k : Nat) (v : PVal) : Eff := ⟨[], [(k, v)], 0⟩
/-- A pair written, with one poison bit (R16). -/
def Eff.pair (r : Nat) (v : DWord) (p : Bool) : Eff :=
  ⟨[(r, ⟨v.extractLsb' 0 32, p⟩), (r + 1, ⟨v.extractLsb' 32 32, p⟩)], [], 0⟩
/-- Both effects. -/
def Eff.and (a b : Eff) : Eff := ⟨a.g ++ b.g, a.p ++ b.p, a.x ||| b.x⟩

/-- The outcome of an instruction in one thread. -/
inductive Res where
  | ok (e : Eff)
  | trap (cause : Nat) (val : DWord)
  | stall (w : StallWhy)
  deriving DecidableEq, Repr

/-- The registers written, in order. -/
def Thread.setRegs (t : Thread) : List (Nat × Val) → Thread
  | [] => t
  | (r, v) :: l => (t.setReg r v).setRegs l
/-- The predicates written, in order. -/
def Thread.setPreds (t : Thread) : List (Nat × PVal) → Thread
  | [] => t
  | (k, v) :: l => (t.setPred k v).setPreds l

/-- Whether an effect changes a value or a poison bit the thread holds (R178). -/
def Eff.changes (e : Eff) (t : Thread) : Bool :=
  e.g.any (fun x => decide (x.1 < 255) && t.reg x.1 != x.2) || e.p.any (fun x => decide (x.1 < 7) && t.pred x.1 != x.2)

/-- An effect written into a thread. -/
def Thread.apply (t : Thread) (e : Eff) : Thread :=
  let ch := e.changes t
  let t := (t.setRegs e.g).setPreds e.p
  { t with status := t.status ||| (e.x.setWidth 32 <<< 8), spinCh := t.spinCh || ch }

/-- A thread Stalled at its instruction (R28). -/
def Thread.stall (t : Thread) (w : StallWhy) : Thread := { t with sched := .stalled w }

/-- The outcome written: the effect and the move past the instruction, a trap, or a stall. -/
def State.finish (s : State) (g w t : Nat) (words : Nat) (r : Res) : State :=
  match r with
  | .ok e => s.modT g w t (fun x => (x.apply e).advance words)
  | .trap c v => s.trapT g w t c v
  | .stall y => s.modT g w t (fun x => x.stall y)

/-! ## The front of an instruction -/

/-- Every thread of a list takes one trap. -/
def State.trapAll (s : State) (g w : Nat) (ts : List Nat) (cause : Nat) (val : DWord) : State :=
  ts.foldl (fun s t => s.trapT g w t cause val) s

/-- Every thread of a list stalls. -/
def State.stallAll (s : State) (g w : Nat) (ts : List Nat) (y : StallWhy) : State :=
  ts.foldl (fun s t => s.modT g w t (fun x => x.stall y)) s

/-- The reach buffer left empty: a modified occupant is written back, and of one that is not, the registers whose copy in the
spill area is bad read poisoned once the good copy has gone (R202, R211). -/
def Warp.emptyReach (w : Warp) : Warp :=
  let bad := fun (w : Warp) (x : Nat × Nat) => w.mod x.1 (fun t => t.setReg x.2 ⟨(t.reg x.2).v, true⟩)
  { (if w.reachMod then w else w.spillBad.foldl bad w) with
    reach := none
    reachMod := false
    spillBad := [] }

/-- The block a reach buffer holds from now on, in place of its occupant (R202). -/
def Warp.occupy (w : Warp) (b : Nat) (modified : Bool) : Warp :=
  if w.reach = some b then { w with reachMod := w.reachMod || modified, spillBad := if modified then [] else w.spillBad }
  else { w.emptyReach with
    reach := some b
    reachMod := modified }

/-- After a word's passes the reach buffer holds the last block needed (R202). -/
def Warp.passed (w : Warp) (u : Use) : Warp :=
  match (w.need u).getLast? with
  | none => w
  | some b => w.occupy b (!(w.spilledOf u.wr).isEmpty)

/-- Whether a thread waits at its instruction and makes it again when what holds it has ended (Table 2-5). -/
def Thread.retries (t : Thread) : Bool :=
  match t.sched with
  | .stalled _ => true
  | .blocked .former => true
  | .blocked .wvis => true
  | .blocked .pool => true
  | .blocked .spinner => true
  | _ => false

/-- The outcome of a word for the operand latch: it keeps the word's blocks for those of its threads that wait at it, so the
procedure runs once for it (R267). `w` is the warp before the word; a word that no thread has executed has made no pass. -/
def State.afterPasses (s : State) (u : Use) (w : Warp) (act : List Nat) : State :=
  let need := w.need u
  if need.isEmpty then s
  else
    let p := s.pack
    let held := fun (t : Nat) => (s.thr p.g p.w t).retries
    let ran := act.any (fun t => !held t && ((w.thr t).hnd || !(s.thr p.g p.w t).hnd))
    let keep := fun (s : State) (t : Nat) => s.modT p.g p.w t (fun x => { x with latch := if held t then NSet.ofList need else [] })
    let s := act.foldl keep s
    if ran then s.modW p.g p.w (fun x => x.passed u) else s

/-- The common front: the decode checks, in `bad`, trap the whole pack (R66, R424); a thread whose registers await a result
drops out (R81); a spilled block that has not arrived stalls those that remain (R202); `body` runs on them. -/
def State.front (s : State) (u : Use) (bad : Warp → Thread → Option DWord) (body : State → List Nat → State) : State :=
  let p := s.pack
  let w := s.wrp p.g p.w
  match p.ts with
  | [] => s
  | t0 :: _ =>
    match bad w (w.thr t0) with
    | some v => s.trapAll p.g p.w p.ts 0x01 v
    | none =>
      let (out, act) := p.ts.partition (fun t => (w.thr t).waits u)
      let s := s.stallAll p.g p.w out .interlock
      match w.toFill u act with
      | b :: l =>
        if w.reachBusy p.ts then s.stallAll p.g p.w act .interlock
        else
          let done := NSet.ofList ((w.need u).filter (fun k => !(b :: l).contains k))
          act.foldl (fun s t => s.modT p.g p.w t (fun x => { x with latch := done }.stall (.reach b))) s
      | [] => (body s act).afterPasses u w act

/-- A trap's cause with its %tval. -/
abbrev Cause := Option (Nat × DWord)

/-- The place of a cause in the order of R33. -/
def causeRank (c : Nat) : Nat :=
  ([0x01, 0x02, 0x06, 0x05, 0x08, 0x0A, 0x0B, 0x09, 0x0C, 0x0D, 0x04, 0x03, 0x07, 0x11, 0x0F, 0x10].findIdx? (· == c)).getD 16
/-- The first of two causes in the order of R33. -/
def firstCause (a b : Nat × DWord) : Nat × DWord := if causeRank b.1 < causeRank a.1 then b else a
/-- The first of two causes that may be absent. -/
def firstOf (a b : Cause) : Cause :=
  match a, b with
  | some x, some y => some (firstCause x y)
  | none, y => y
  | x, none => x

/-- What an instruction comes to in a thread before its body: nothing where the guard is false (R68); the trap of a
poisoned guard; the first, in the order of R33, of `chk`, the entry's own checks of the thread's values, and of the trap of
its own poisoned operands (R64); none where the body decides. (DEDUCED, log 75). -/
def before (i : Ins) (chk : Cause) (t : Thread) : Option Res :=
  match t.guard i.f.guard with
  | .trap v => some (.trap 0x04 v)
  | .skip => some (.ok Eff.none)
  | .take => (firstOf chk (poisonTrap t i)).map (fun cv => .trap cv.1 cv.2)

/-- An instruction that acts on each thread by registers alone: every source is read before any result is written
(R10), and a warp-wide operation reads the sources of the whole pack from `w` (R201). -/
def State.lanes (s : State) (i : Ins) (body : Warp → List Nat → Nat → Res) : State :=
  s.front i.use (fun w t => gate w i t) (fun s act =>
    let p := s.pack
    let w := s.wrp p.g p.w
    let rs := act.map (fun t => (t, (before i none (w.thr t)).getD (body w act t)))
    rs.foldl (fun s r => s.finish p.g p.w r.1 i.words r.2) s)

/-- An instruction that acts on each thread in turn, in ascending thread index, each seeing what the ones before it did
(R186, R227): the body answers the state with the thread's effect made, and the thread's own outcome. What it does is
complete when it has executed, so a flag that SF names rises and falls at once; a full one stalls (R80). -/
def State.inTurn (s : State) (i : Ins) (chk : State → Nat → Nat → Nat → Cause)
    (body : State → Nat → Nat → Nat → State × Res) : State :=
  s.front i.use (fun w t => gate w i t) (fun s act =>
    let p := s.pack
    act.foldl (fun s t =>
      let x := s.thr p.g p.w t
      if !x.ready then s
      else match before i (chk s p.g p.w t) x with
        | some r => s.finish p.g p.w t i.words r
        | none =>
          if (i.flagOf x).any (fun n => decide (255 ≤ x.flagCount n)) then s.modT p.g p.w t (fun x => x.stall .flagFull)
          else
          let o := body s p.g p.w t
          o.1.finish p.g p.w t i.words o.2) s)

/-- An instruction that moves threads, in one thread: `ends` says that a thread in which it has no effect continues at the
next header (R79); the body answers the whole of its effect. -/
def State.move1 (i : Ins) (ends : Bool) (chk : State → Nat → Nat → Nat → Cause)
    (body : State → Nat → Nat → Nat → State) (g w : Nat) (s : State) (t : Nat) : State :=
  let x := s.thr g w t
  if !x.ready then s
  else match before i (chk s g w t) x with
    | some (.ok _) => s.modT g w t (fun x => if ends then x.skipClause i.words else x.advance i.words)
    | some r => s.finish g w t i.words r
    | none => body s g w t

/-- An instruction that moves threads, in each thread in turn. -/
def State.control (s : State) (i : Ins) (ends : Bool) (chk : State → Nat → Nat → Nat → Cause)
    (body : State → Nat → Nat → Nat → State) : State :=
  s.front i.use (fun w t => gate w i t) (fun s act => act.foldl (State.move1 i ends chk body s.pack.g s.pack.w) s)

/-- The outcome of an instruction that executes once for a pack. -/
inductive Once where
  | done (s : State)
  | trap (cause : Nat) (val : DWord)
  | stall (w : StallWhy)
  | block (b : BlockWhy)

/-- The traps of the threads of `act` that trap on their own values: with a failed check `cv` of the pack, a thread whose
guard is true takes the earlier cause (R213, R33). (DEDUCED, log 24). -/
def State.ownTraps (s : State) (i : Ins) (w : Warp) (act : List Nat) (cv : Cause) : State :=
  act.foldl (fun s t =>
    match before i none (w.thr t) with
    | some (.trap c v) =>
      let x := match (w.thr t).guard i.f.guard, cv with
        | .take, some y => firstCause (c, v) y
        | _, _ => (c, v)
      s.trapT s.pack.g s.pack.w t x.1 x.2
    | _ => s) s

/-- A pack-once instruction (R213): threads whose guard or own operands trap are left out, the lowest-indexed thread that
remains supplies the operands, and a failed check traps every thread that remains; where it executes, those threads
move on and, with SF, each raises its flag where the operation is still `pending`: one that is complete when it has
executed has lowered it again (R80). (DESIGN CHOICE, log 107). -/
def State.once (s : State) (i : Ins) (pending : Bool) (body : State → Nat → Nat → Nat → List Nat → Once) : State :=
  s.front i.use (fun w t => gate w i t) (fun s act =>
    let p := s.pack
    let w := s.wrp p.g p.w
    let go := act.filter (fun t => (before i none (w.thr t)).isNone)
    let s := act.foldl (fun s t =>
      match before i none (w.thr t) with
      | some (.ok e) => s.finish p.g p.w t i.words (.ok e)
      | _ => s) s
    match go with
    | [] => s.ownTraps i w act none
    | sup :: _ =>
      let flag := i.flagOf (w.thr sup)
      if flag.any (fun n => go.any (fun t => decide (255 ≤ (w.thr t).flagCount n))) then
        (s.stallAll p.g p.w go .flagFull).ownTraps i w act none
      else match body s p.g p.w sup go with
        | .done s =>
          let up := fun (x : Thread) => match flag with
            | some n => if pending then x.raiseFlag n else x
            | none => x
          (go.foldl (fun s t => s.modT p.g p.w t (fun x => (up x).advance i.words)) s).ownTraps i w act none
        | .trap c v => (s.trapAll p.g p.w go c v).ownTraps i w act (some (c, v))
        | .stall y => (s.stallAll p.g p.w go y).ownTraps i w act none
        | .block b =>
          (go.foldl (fun s t => s.modT p.g p.w t (fun x => { x with sched := .blocked b })) s).ownTraps i w act none)

/-! ## The spin detector (R178, R179) -/

/-- A thread that loses the Demoted mark. -/
def Thread.undemote (t : Thread) : Thread := if t.demoted then { t with demoted := false, spinN := 0 } else t

/-- A thread has stored, performed an atomic or arrived at a bar: its detector sees it (R178), and where it is not
Demoted, every Demoted thread of its warp loses the mark (R179). -/
def State.stored (s : State) (g w t : Nat) : State :=
  let s := s.modT g w t (fun x => { x with spinCh := true })
  if (s.thr g w t).demoted then s else s.modW g w (fun x => x.all Thread.undemote)

end Sys2Proof.Machine
end

