-- ==== Sys2Proof/Machine/Flags.lean ====
section
/-! DEFINITION. Sticky bits, completion flags and the bits that a status write touches (R18, R60, R80). -/
namespace Sys2Proof.Machine

/-- The exceptions of a lane instruction: invalid, divide-by-zero, overflow (Table 3-5). -/
structure Exc where
  inv : Bool
  dz : Bool
  ovf : Bool
  deriving DecidableEq, Repr

/-- No exception. -/
def Exc.none : Exc := ⟨false, false, false⟩
/-- Invalid operation. -/
def Exc.invalid : Exc := ⟨true, false, false⟩
/-- Divide by zero. -/
def Exc.divZero : Exc := ⟨false, true, false⟩
/-- Overflow. -/
def Exc.over : Exc := ⟨false, false, true⟩
/-- The exceptions of both. -/
def Exc.or (a b : Exc) : Exc := ⟨a.inv || b.inv, a.dz || b.dz, a.ovf || b.ovf⟩

/-- The sticky bits SINV, SDZ, SOVF as bits 0, 1, 2 (Table 2-3 bits 8 to 10). -/
def Exc.sticky (e : Exc) : BitVec 3 := BitVec.ofBool e.ovf ++ (BitVec.ofBool e.dz ++ BitVec.ofBool e.inv)

/-- Whether an exception whose enable bit is set delivers poison in a thread (R60). -/
def Exc.poisons (e : Exc) (t : Thread) : Bool :=
  (e.inv && t.enabled 0) || (e.dz && t.enabled 1) || (e.ovf && t.enabled 2)

/-- A swr of %status: the RW fields TSM, NEN, EOVF, EDZ and EINV are set, the sticky bits written with 1 are cleared,
every other bit stays (R18). -/
def swrStatus (old v : Word) : Word :=
  (old &&& ~~~0xD7#32 &&& ~~~(v &&& 0x700#32)) ||| (v &&& 0xD7#32)

/-- The flag counts of the threads that an operation's completion lowers (R80). -/
def State.lowerFlags (s : State) (g w : Nat) (ts : List Nat) (flag : Option Nat) : State :=
  match flag with
  | none => s
  | some n => ts.foldl (fun s t => s.modT g w t (fun x => x.lowerFlag n)) s

/-- The flag counts that an instruction's issue raises in threads that take it (R80). -/
def State.raiseFlags (s : State) (g w : Nat) (ts : List Nat) (flag : Option Nat) : State :=
  match flag with
  | none => s
  | some n => ts.foldl (fun s t => s.modT g w t (fun x => x.raiseFlag n)) s

end Sys2Proof.Machine
end

