-- ==== Sys2Proof/Machine/Int.lean ====
section
/-! DEFINITION. Integer, logic and predicate instructions (05_integer_instructions.md). -/
namespace Sys2Proof.Machine

/-! ## Types and operands (R40, R97) -/

/-- The width of an integer type code (R40). -/
def tyWidth (ty : Nat) : Nat :=
  match ty with
  | 0 | 1 => 32
  | 2 | 3 => 16
  | 4 | 5 => 8
  | _ => 64
/-- An i type is two's complement (R40). -/
def tySigned (ty : Nat) : Bool := ty % 2 == 0

/-- The value of the low `w` bits of a number, two's complement when `sg` (R97 val). -/
def valOf (w : Nat) (sg : Bool) (n : Nat) : Int :=
  let m := n % 2 ^ w
  if sg && decide (2 ^ (w - 1) ≤ m) then (m : Int) - 2 ^ w else m

/-- A number modulo 2^w (R10). -/
def modW (w : Nat) (v : Int) : Nat := (v % (2 ^ w : Int)).toNat

/-- The clamp of a value to the range of a width (R97 sat). -/
def satOf (w : Nat) (sg : Bool) (v : Int) : Int :=
  if sg then max (-(2 ^ (w - 1) : Int)) (min v (2 ^ (w - 1) - 1))
  else max 0 (min v (2 ^ w - 1))

/-- The bits of a register, or of the pair where `w` is 64. -/
def Thread.raw (t : Thread) (w r : Nat) : Nat := if w = 64 then (t.reg64 r).toNat else (t.reg r).v.toNat

/-- The type of an instruction, in M[10:8]. -/
def Ins.ty (i : Ins) : Nat := i.mb 8 3
/-- The operation width (R97). -/
def Ins.w (i : Ins) : Nat := tyWidth i.ty
/-- Whether the type is an i type. -/
def Ins.sg (i : Ins) : Bool := tySigned i.ty

/-- val(A) (R97). -/
def Ins.valA (i : Ins) (t : Thread) : Int := valOf i.w i.sg (t.raw i.w i.a)
/-- The bits of opB at the operation width: the B register, or imm16 extended (R97, R69). -/
def Ins.rawB (i : Ins) (t : Thread) : Nat :=
  if i.imm then modW i.w (if i.sg then i.immS else i.immZ) else t.raw i.w i.b % 2 ^ i.w
/-- val(opB) (R97). -/
def Ins.valB (i : Ins) (t : Thread) : Int := valOf i.w i.sg (i.rawB t)
/-- val(C) (R97). -/
def Ins.valC (i : Ins) (t : Thread) : Int := valOf i.w i.sg (t.raw i.w i.c)
/-- The bits of A at the operation width. -/
def Ins.rawA (i : Ins) (t : Thread) : Nat := t.raw i.w i.a % 2 ^ i.w

/-- Whether a register that the instruction reads is poisoned (R63). -/
def Ins.psn (i : Ins) (t : Thread) : Bool := i.srcs.any (fun r => (t.reg r).p)

/-- A result written at a width: extended into one register, or the pair at 64 bits (R97 wr). -/
def wrInt (w : Nat) (sg : Bool) (d : Nat) (v : Int) (p : Bool) : Eff :=
  if w = 64 then Eff.pair d (BitVec.ofNat 64 (modW 64 v)) p
  else Eff.reg d ⟨BitVec.ofInt 32 (valOf w sg (modW w v)), p⟩

/-- wr(v) into D with the poison of the sources (R97, R63). -/
def Ins.wr (i : Ins) (t : Thread) (v : Int) : Eff := wrInt i.w i.sg i.d v (i.psn t)
/-- A 32-bit word into D. -/
def Ins.wr32 (i : Ins) (t : Thread) (v : Nat) : Eff := Eff.reg i.d ⟨BitVec.ofNat 32 v, i.psn t⟩

/-- A predicate read as data, coded as a guard is (R98). -/
def Thread.pcode (t : Thread) (k : Nat) : PVal :=
  let v := t.pred (k % 8)
  ⟨v.v != decide (8 ≤ k), v.p⟩

/-- The combine of cmp and fcmp: none, and, or, xor (R117). -/
def combine (op : Nat) (c : Bool) (p : PVal) (psn : Bool) : PVal :=
  match op with
  | 0 => ⟨c, psn⟩
  | 1 => ⟨c && p.v, psn || p.p⟩
  | 2 => ⟨c || p.v, psn || p.p⟩
  | _ => ⟨c != p.v, psn || p.p⟩

/-! ## Effects by entry -/

/-- mov (R104). -/
def aluMov (i : Ins) (t : Thread) : Eff := i.wr t (i.valB t)
/-- movh (R104). -/
def aluMovh (i : Ins) (t : Thread) : Eff :=
  let h := if i.imm then i.immZ else (t.reg i.b).v.toNat % 65536
  i.wr32 t (h * 65536 + (t.reg i.a).v.toNat % 65536)
/-- A sum or difference, clamped under SAT (R105). -/
def Ins.satWr (i : Ins) (t : Thread) (v : Int) : Eff := i.wr t (if i.f.m.getLsbD 0 then satOf i.w i.sg v else v)
/-- add (R105). -/
def aluAdd (i : Ins) (t : Thread) : Eff := i.satWr t (i.valA t + i.valB t)
/-- sub (R105). -/
def aluSub (i : Ins) (t : Thread) : Eff := i.satWr t (i.valA t - i.valB t)
/-- The carry-in of addx and subx (R106). -/
def Ins.cin (i : Ins) (t : Thread) : PVal := t.pcode (i.mb 0 4)
/-- addx (R106). -/
def aluAddx (i : Ins) (t : Thread) : Eff :=
  let c := i.cin t
  let v := i.rawA t + i.rawB t + (if c.v then 1 else 0)
  let p := i.psn t || c.p
  (Eff.reg i.d ⟨BitVec.ofNat 32 v, p⟩).and (Eff.pred (i.mb 4 3) ⟨decide (2 ^ 32 ≤ v), p⟩)
/-- subx (R106). -/
def aluSubx (i : Ins) (t : Thread) : Eff :=
  let c := i.cin t
  let b := i.rawB t + (if c.v then 1 else 0)
  let p := i.psn t || c.p
  (Eff.reg i.d ⟨BitVec.ofInt 32 ((i.rawA t : Int) - b), p⟩).and (Eff.pred (i.mb 4 3) ⟨decide (i.rawA t < b), p⟩)
/-- mul (R107). -/
def aluMul (i : Ins) (t : Thread) : Eff := i.wr t (i.valA t * i.valB t)
/-- mulhi (R107). -/
def aluMulhi (i : Ins) (t : Thread) : Eff := i.wr t (Int.fdiv (i.valA t * i.valB t) (2 ^ i.w))
/-- mad (R107). -/
def aluMad (i : Ins) (t : Thread) : Eff := i.wr t (i.valA t * i.valB t + i.valC t)
/-- madhi (R107). -/
def aluMadhi (i : Ins) (t : Thread) : Eff := i.wr t (Int.fdiv (i.valA t * i.valB t + i.valC t) (2 ^ i.w))
/-- mulw (R107). -/
def aluMulw (i : Ins) (t : Thread) : Eff := wrInt 64 i.sg i.d (i.valA t * i.valB t) (i.psn t)
/-- madw (R107). -/
def aluMadw (i : Ins) (t : Thread) : Eff :=
  wrInt 64 i.sg i.d (i.valA t * i.valB t + valOf 64 i.sg (t.reg64 i.c).toNat) (i.psn t)
/-- min (R108). -/
def aluMin (i : Ins) (t : Thread) : Eff := i.wr t (min (i.valA t) (i.valB t))
/-- max (R108). -/
def aluMax (i : Ins) (t : Thread) : Eff := i.wr t (max (i.valA t) (i.valB t))
/-- abs (R108). -/
def aluAbs (i : Ins) (t : Thread) : Eff := i.satWr t ((i.valB t).natAbs : Int)
/-- and (R109). -/
def aluAnd (i : Ins) (t : Thread) : Eff := i.wr t (i.rawA t &&& i.rawB t : Nat)
/-- or (R109). -/
def aluOr (i : Ins) (t : Thread) : Eff := i.wr t (i.rawA t ||| i.rawB t : Nat)
/-- xor (R109). -/
def aluXor (i : Ins) (t : Thread) : Eff := i.wr t (i.rawA t ^^^ i.rawB t : Nat)
/-- andn (R109). -/
def aluAndn (i : Ins) (t : Thread) : Eff := i.wr t (i.rawA t &&& (2 ^ i.w - 1 - i.rawB t) : Nat)

/-- The number whose bit `k` is `f k`, for k below `n`. -/
def natOfBits (f : Nat → Bool) : Nat → Nat
  | 0 => 0
  | n + 1 => natOfBits f n + (if f n then 2 ^ n else 0)

/-- The table bit that three input bits select (R110, R122). -/
def lutBit (table : Nat) (a b c : Bool) : Bool :=
  table.testBit ((if a then 1 else 0) + (if b then 2 else 0) + (if c then 4 else 0))

/-- lop3 (R110). -/
def aluLop3 (i : Ins) (t : Thread) : Eff :=
  let a := i.rawA t
  let b := t.raw i.w i.b
  let c := t.raw i.w i.c
  i.wr t (natOfBits (fun k => lutBit (i.mb 0 8) (a.testBit k) (b.testBit k) (c.testBit k)) i.w)

/-- The count of a shift: B[7:0] or imm16[7:0], taken modulo w under WRAP (R111). -/
def Ins.count (i : Ins) (t : Thread) (wrap : Bool) : Nat :=
  let n := (if i.imm then i.immZ else (t.reg i.b).v.toNat) % 256
  if wrap then n % i.w else n
/-- shl (R111). -/
def aluShl (i : Ins) (t : Thread) : Eff :=
  let n := i.count t (i.f.m.getLsbD 0)
  i.wr t (if n ≥ i.w then 0 else i.rawA t * 2 ^ n : Nat)
/-- shr (R111). -/
def aluShr (i : Ins) (t : Thread) : Eff :=
  let n := i.count t (i.f.m.getLsbD 0)
  i.wr t (if n ≥ i.w then 0 else i.rawA t / 2 ^ n : Nat)
/-- sar (R111). -/
def aluSar (i : Ins) (t : Thread) : Eff :=
  let n := i.count t (i.f.m.getLsbD 0)
  let a := valOf i.w true (i.rawA t)
  i.wr t (if n ≥ i.w then (if a < 0 then -1 else 0) else Int.fdiv a (2 ^ n))
/-- rot (R111). -/
def aluRot (i : Ins) (t : Thread) : Eff :=
  let m := i.count t true
  let l := if i.f.m.getLsbD 1 then (i.w - m) % i.w else m
  let a := i.rawA t
  i.wr t (a * 2 ^ l % 2 ^ i.w + a / 2 ^ (i.w - l) : Nat)
/-- fsh (R112). -/
def aluFsh (i : Ins) (t : Thread) : Eff :=
  let c := (t.reg i.c).v.toNat % 256
  let n := if i.f.m.getLsbD 0 then c % 32 else min c 32
  let x := (t.reg i.a).v.toNat * 2 ^ 32 + (t.reg i.b).v.toNat
  i.wr32 t (if i.f.m.getLsbD 1 then x / 2 ^ n % 2 ^ 32 else x * 2 ^ n % 2 ^ 64 / 2 ^ 32)

/-- The length of a bit field cut off at the word's edge (R113). -/
def fieldLen (w p l : Nat) : Nat := if p ≥ w then 0 else min l (w - p)
/-- bfx (R113). -/
def aluBfx (i : Ins) (t : Thread) : Eff :=
  let c := if i.imm then i.immZ else (t.reg i.b).v.toNat
  let p := c % 256
  let l := fieldLen i.w p (c / 256 % 256)
  i.wr t (if l = 0 then 0 else valOf l i.sg (i.rawA t / 2 ^ p))
/-- bfi (R113). -/
def aluBfi (i : Ins) (t : Thread) : Eff :=
  let c := (t.reg i.c).v.toNat
  let p := c % 256
  let l := fieldLen i.w p (c / 256 % 256)
  let a := i.rawA t
  i.wr t (if l = 0 then a else a % 2 ^ p + t.raw i.w i.b % 2 ^ l * 2 ^ p + a / 2 ^ (p + l) * 2 ^ (p + l) : Nat)

/-- The number of one bits below position `n`. -/
def popCount (x : Nat) : Nat → Nat
  | 0 => 0
  | n + 1 => popCount x n + (if x.testBit n then 1 else 0)
/-- The number of zero bits above the highest one bit below position `n`. -/
def leadZeros (x : Nat) : Nat → Nat
  | 0 => 0
  | n + 1 => if x.testBit n then 0 else leadZeros x n + 1
/-- The bits of a number in reverse order. -/
def revBits (x n : Nat) : Nat := natOfBits (fun k => x.testBit (n - 1 - k)) n
/-- popc (R114). -/
def aluPopc (i : Ins) (t : Thread) : Eff := i.wr32 t (popCount (i.rawB t) i.w)
/-- clz (R114). -/
def aluClz (i : Ins) (t : Thread) : Eff := i.wr32 t (leadZeros (i.rawB t) i.w)
/-- ctz (R114). -/
def aluCtz (i : Ins) (t : Thread) : Eff := i.wr32 t (leadZeros (revBits (i.rawB t) i.w) i.w)
/-- brev (R114). -/
def aluBrev (i : Ins) (t : Thread) : Eff := i.wr t (revBits (i.rawB t) i.w)

/-- bperm (R115): byte `k` of the result. -/
def permByte (src : Nat) (sel srep k : Nat) : Nat :=
  let e := sel / 16 ^ k % 16
  let y := if e ≥ 8 then 0 else src / 256 ^ e % 256
  if srep.testBit k then (if y ≥ 128 then 255 else 0) else y
/-- bperm (R115). -/
def aluBperm (i : Ins) (t : Thread) : Eff :=
  let src := (t.reg i.a).v.toNat + (if i.imm then 0 else (t.reg i.b).v.toNat * 2 ^ 32)
  let sel := if i.imm then i.immZ else (t.reg i.c).v.toNat % 65536
  let b := permByte src sel (i.mb 0 4)
  i.wr32 t (b 0 + 256 * b 1 + 65536 * b 2 + 16777216 * b 3)
/-- sel (R116). -/
def aluSel (i : Ins) (t : Thread) : Eff :=
  let k := t.pcode (i.mb 0 4)
  wrInt i.w i.sg i.d (if k.v then i.valA t else i.valB t) (i.psn t || k.p)

/-- The conditions of cmp (R117). -/
def cmpCond (c : Nat) (a b : Int) : Bool :=
  match c with
  | 0 => a == b
  | 1 => a != b
  | 2 => decide (a < b)
  | 3 => decide (a ≤ b)
  | 4 => decide (a > b)
  | _ => decide (a ≥ b)
/-- cmp (R117). -/
def aluCmp (i : Ins) (t : Thread) : Eff :=
  Eff.pred (i.d % 8)
    (combine (i.mb 3 2) (cmpCond (i.mb 0 3) (i.valA t) (i.valB t)) (t.pred (i.mb 5 3)) (i.psn t))
/-- lea (R118): B is one 32-bit register even where the type is 64 bits wide. -/
def aluLea (i : Ins) (t : Thread) : Eff :=
  let b := if i.imm then i.valB t else valOf 32 i.sg (t.reg i.b).v.toNat
  i.wr t (i.rawA t + b * 2 ^ i.mb 0 3)

/-- The lanes of a word: lane `k` of `n` bits. -/
def laneOf (x n k : Nat) : Nat := x / 2 ^ (n * k) % 2 ^ n
/-- sad (R119). -/
def aluSad (i : Ins) (t : Thread) : Eff :=
  let a := (t.reg i.a).v.toNat
  let b := (t.reg i.b).v.toNat
  let d := (List.range (32 / i.w)).foldl (fun (n : Nat) k =>
    n + (valOf i.w i.sg (laneOf a i.w k) - valOf i.w i.sg (laneOf b i.w k)).natAbs) 0
  i.wr32 t ((t.reg i.c).v.toNat + d)
/-- The dot products over lanes of `n` bits (R120). -/
def Ins.dot (i : Ins) (t : Thread) (n : Nat) : Eff :=
  let a := (t.reg i.a).v.toNat
  let b := (t.reg i.b).v.toNat
  let v := (List.range (32 / n)).foldl (fun (x : Int) k =>
    x + valOf n (i.f.m.getLsbD 1) (laneOf a n k) * valOf n (i.f.m.getLsbD 0) (laneOf b n k))
    (valOf 32 true (t.reg i.c).v.toNat)
  i.wr32 t (modW 32 (if i.f.m.getLsbD 2 then satOf 32 true v else v))
/-- dot4 (R120). -/
def aluDot4 (i : Ins) (t : Thread) : Eff := i.dot t 8
/-- dot2 (R120). -/
def aluDot2 (i : Ins) (t : Thread) : Eff := i.dot t 16

/-- opB of a packed instruction: imm16 stands in both lanes (R121, R126). -/
def Ins.packB (i : Ins) (t : Thread) : Nat := if i.imm then i.immZ * 65537 else (t.reg i.b).v.toNat
/-- A packed halfword operation (R121). -/
def Ins.pack2 (i : Ins) (t : Thread) (sat : Bool) (op : Int → Int → Int) : Eff :=
  let a := (t.reg i.a).v.toNat
  let b := i.packB t
  let lane := fun k =>
    let v := op (valOf 16 i.sg (laneOf a 16 k)) (valOf 16 i.sg (laneOf b 16 k))
    modW 16 (if sat then satOf 16 i.sg v else v)
  i.wr32 t (lane 0 + 65536 * lane 1)
/-- vadd2 (R121). -/
def aluVadd2 (i : Ins) (t : Thread) : Eff := i.pack2 t (i.f.m.getLsbD 0) (· + ·)
/-- vsub2 (R121). -/
def aluVsub2 (i : Ins) (t : Thread) : Eff := i.pack2 t (i.f.m.getLsbD 0) (· - ·)
/-- vmax2 (R121). -/
def aluVmax2 (i : Ins) (t : Thread) : Eff := i.pack2 t false max
/-- vmin2 (R121). -/
def aluVmin2 (i : Ins) (t : Thread) : Eff := i.pack2 t false min
/-- plop (R122). -/
def aluPlop (i : Ins) (t : Thread) : Eff :=
  let a := t.pred (i.a % 8)
  let b := t.pred (i.b % 8)
  let c := t.pred (i.c % 8)
  Eff.pred (i.d % 8) ⟨lutBit (i.mb 0 8) a.v b.v c.v, a.p || b.p || c.p⟩
/-- pmov (R123). -/
def aluPmov (i : Ins) (t : Thread) : Eff :=
  if i.f.m.getLsbD 0 then
    let a := t.reg i.a
    ⟨[], ((List.range 7).filter (fun k => (i.mb 1 7).testBit k)).map (fun k => (k, ⟨a.v.getLsbD k, a.p⟩)), 0⟩
  else
    Eff.reg i.d ⟨BitVec.ofNat 32 (128 + natOfBits (fun k => (t.pred k).v) 7), (List.range 7).any (fun k => (t.pred k).p)⟩

/-! ## The instructions -/

/-- An instruction whose effect in each thread is a function of that thread's registers alone. -/
def State.alu (s : State) (i : Ins) (sem : Ins → Thread → Eff) : State :=
  s.lanes i (fun w _ t => .ok (sem i (w.thr t)))

/-- ill (R103): trap 0x01 in every active thread of the pack. -/
def execIll (w : DWord) (s : State) : Host.Outcome State Fault Refusal :=
  .next (s.trapAll s.pack.g s.pack.w s.pack.ts 0x01 w)
/-- ill in a Prerin word (R103). -/
def execIllPrerin (w : Word) (s : State) : Host.Outcome State Fault Refusal :=
  .next (s.trapAll s.pack.g s.pack.w s.pack.ts 0x01 (w.setWidth 64))
/-- mov (R104). -/
def execMov (f : Fields) (s : State) : Host.Outcome State Fault Refusal :=
  .next (s.alu (nat .mov f) aluMov)
/-- mov in Prerin code (R104, R85). -/
def execMovPrerin (p : PFields) (s : State) : Host.Outcome State Fault Refusal :=
  .next (s.alu (pri .mov p) aluMov)
/-- movh (R104). -/
def execMovh (f : Fields) (s : State) : Host.Outcome State Fault Refusal :=
  .next (s.alu (nat .movh f) aluMovh)
/-- movh in Prerin code (R104, R85). -/
def execMovhPrerin (p : PFields) (s : State) : Host.Outcome State Fault Refusal :=
  .next (s.alu (pri .movh p) aluMovh)
/-- add (R105). -/
def execAdd (f : Fields) (s : State) : Host.Outcome State Fault Refusal :=
  .next (s.alu (nat .add f) aluAdd)
/-- add in Prerin code (R105, R85). -/
def execAddPrerin (p : PFields) (s : State) : Host.Outcome State Fault Refusal :=
  .next (s.alu (pri .add p) aluAdd)
/-- sub (R105). -/
def execSub (f : Fields) (s : State) : Host.Outcome State Fault Refusal :=
  .next (s.alu (nat .sub f) aluSub)
/-- sub in Prerin code (R105, R85). -/
def execSubPrerin (p : PFields) (s : State) : Host.Outcome State Fault Refusal :=
  .next (s.alu (pri .sub p) aluSub)
/-- addx (R106). -/
def execAddx (f : Fields) (s : State) : Host.Outcome State Fault Refusal :=
  .next (s.alu (nat .addx f) aluAddx)
/-- addx in Prerin code (R106, R85). -/
def execAddxPrerin (p : PFields) (s : State) : Host.Outcome State Fault Refusal :=
  .next (s.alu (pri .addx p) aluAddx)
/-- subx (R106). -/
def execSubx (f : Fields) (s : State) : Host.Outcome State Fault Refusal :=
  .next (s.alu (nat .subx f) aluSubx)
/-- subx in Prerin code (R106, R85). -/
def execSubxPrerin (p : PFields) (s : State) : Host.Outcome State Fault Refusal :=
  .next (s.alu (pri .subx p) aluSubx)
/-- mul (R107). -/
def execMul (f : Fields) (s : State) : Host.Outcome State Fault Refusal :=
  .next (s.alu (nat .mul f) aluMul)
/-- mul in Prerin code (R107, R85). -/
def execMulPrerin (p : PFields) (s : State) : Host.Outcome State Fault Refusal :=
  .next (s.alu (pri .mul p) aluMul)
/-- mulhi (R107). -/
def execMulhi (f : Fields) (s : State) : Host.Outcome State Fault Refusal :=
  .next (s.alu (nat .mulhi f) aluMulhi)
/-- mulhi in Prerin code (R107, R85). -/
def execMulhiPrerin (p : PFields) (s : State) : Host.Outcome State Fault Refusal :=
  .next (s.alu (pri .mulhi p) aluMulhi)
/-- mad (R107). -/
def execMad (f : Fields) (s : State) : Host.Outcome State Fault Refusal :=
  .next (s.alu (nat .mad f) aluMad)
/-- mad in Prerin code (R107, R85). -/
def execMadPrerin (p : PFields) (s : State) : Host.Outcome State Fault Refusal :=
  .next (s.alu (pri .mad p) aluMad)
/-- madhi (R107). -/
def execMadhi (f : Fields) (s : State) : Host.Outcome State Fault Refusal :=
  .next (s.alu (nat .madhi f) aluMadhi)
/-- madhi in Prerin code (R107, R85). -/
def execMadhiPrerin (p : PFields) (s : State) : Host.Outcome State Fault Refusal :=
  .next (s.alu (pri .madhi p) aluMadhi)
/-- mulw (R107). -/
def execMulw (f : Fields) (s : State) : Host.Outcome State Fault Refusal :=
  .next (s.alu (nat .mulw f) aluMulw)
/-- mulw in Prerin code (R107, R85). -/
def execMulwPrerin (p : PFields) (s : State) : Host.Outcome State Fault Refusal :=
  .next (s.alu (pri .mulw p) aluMulw)
/-- madw (R107). -/
def execMadw (f : Fields) (s : State) : Host.Outcome State Fault Refusal :=
  .next (s.alu (nat .madw f) aluMadw)
/-- madw in Prerin code (R107, R85). -/
def execMadwPrerin (p : PFields) (s : State) : Host.Outcome State Fault Refusal :=
  .next (s.alu (pri .madw p) aluMadw)
/-- min (R108). -/
def execMin (f : Fields) (s : State) : Host.Outcome State Fault Refusal :=
  .next (s.alu (nat .min f) aluMin)
/-- min in Prerin code (R108, R85). -/
def execMinPrerin (p : PFields) (s : State) : Host.Outcome State Fault Refusal :=
  .next (s.alu (pri .min p) aluMin)
/-- max (R108). -/
def execMax (f : Fields) (s : State) : Host.Outcome State Fault Refusal :=
  .next (s.alu (nat .max f) aluMax)
/-- max in Prerin code (R108, R85). -/
def execMaxPrerin (p : PFields) (s : State) : Host.Outcome State Fault Refusal :=
  .next (s.alu (pri .max p) aluMax)
/-- abs (R108). -/
def execAbs (f : Fields) (s : State) : Host.Outcome State Fault Refusal :=
  .next (s.alu (nat .abs f) aluAbs)
/-- abs in Prerin code (R108, R85). -/
def execAbsPrerin (p : PFields) (s : State) : Host.Outcome State Fault Refusal :=
  .next (s.alu (pri .abs p) aluAbs)
/-- and (R109). -/
def execAnd (f : Fields) (s : State) : Host.Outcome State Fault Refusal :=
  .next (s.alu (nat .and f) aluAnd)
/-- and in Prerin code (R109, R85). -/
def execAndPrerin (p : PFields) (s : State) : Host.Outcome State Fault Refusal :=
  .next (s.alu (pri .and p) aluAnd)
/-- or (R109). -/
def execOr (f : Fields) (s : State) : Host.Outcome State Fault Refusal :=
  .next (s.alu (nat .or f) aluOr)
/-- or in Prerin code (R109, R85). -/
def execOrPrerin (p : PFields) (s : State) : Host.Outcome State Fault Refusal :=
  .next (s.alu (pri .or p) aluOr)
/-- xor (R109). -/
def execXor (f : Fields) (s : State) : Host.Outcome State Fault Refusal :=
  .next (s.alu (nat .xor f) aluXor)
/-- xor in Prerin code (R109, R85). -/
def execXorPrerin (p : PFields) (s : State) : Host.Outcome State Fault Refusal :=
  .next (s.alu (pri .xor p) aluXor)
/-- andn (R109). -/
def execAndn (f : Fields) (s : State) : Host.Outcome State Fault Refusal :=
  .next (s.alu (nat .andn f) aluAndn)
/-- andn in Prerin code (R109, R85). -/
def execAndnPrerin (p : PFields) (s : State) : Host.Outcome State Fault Refusal :=
  .next (s.alu (pri .andn p) aluAndn)
/-- lop3 (R110). -/
def execLop3 (f : Fields) (s : State) : Host.Outcome State Fault Refusal :=
  .next (s.alu (nat .lop3 f) aluLop3)
/-- lop3 in Prerin code (R110, R85). -/
def execLop3Prerin (p : PFields) (s : State) : Host.Outcome State Fault Refusal :=
  .next (s.alu (pri .lop3 p) aluLop3)
/-- shl (R111). -/
def execShl (f : Fields) (s : State) : Host.Outcome State Fault Refusal :=
  .next (s.alu (nat .shl f) aluShl)
/-- shl in Prerin code (R111, R85). -/
def execShlPrerin (p : PFields) (s : State) : Host.Outcome State Fault Refusal :=
  .next (s.alu (pri .shl p) aluShl)
/-- shr (R111). -/
def execShr (f : Fields) (s : State) : Host.Outcome State Fault Refusal :=
  .next (s.alu (nat .shr f) aluShr)
/-- shr in Prerin code (R111, R85). -/
def execShrPrerin (p : PFields) (s : State) : Host.Outcome State Fault Refusal :=
  .next (s.alu (pri .shr p) aluShr)
/-- sar (R111). -/
def execSar (f : Fields) (s : State) : Host.Outcome State Fault Refusal :=
  .next (s.alu (nat .sar f) aluSar)
/-- sar in Prerin code (R111, R85). -/
def execSarPrerin (p : PFields) (s : State) : Host.Outcome State Fault Refusal :=
  .next (s.alu (pri .sar p) aluSar)
/-- rot (R111). -/
def execRot (f : Fields) (s : State) : Host.Outcome State Fault Refusal :=
  .next (s.alu (nat .rot f) aluRot)
/-- rot in Prerin code (R111, R85). -/
def execRotPrerin (p : PFields) (s : State) : Host.Outcome State Fault Refusal :=
  .next (s.alu (pri .rot p) aluRot)
/-- fsh (R112). -/
def execFsh (f : Fields) (s : State) : Host.Outcome State Fault Refusal :=
  .next (s.alu (nat .fsh f) aluFsh)
/-- fsh in Prerin code (R112, R85). -/
def execFshPrerin (p : PFields) (s : State) : Host.Outcome State Fault Refusal :=
  .next (s.alu (pri .fsh p) aluFsh)
/-- bfx (R113). -/
def execBfx (f : Fields) (s : State) : Host.Outcome State Fault Refusal :=
  .next (s.alu (nat .bfx f) aluBfx)
/-- bfx in Prerin code (R113, R85). -/
def execBfxPrerin (p : PFields) (s : State) : Host.Outcome State Fault Refusal :=
  .next (s.alu (pri .bfx p) aluBfx)
/-- bfi (R113). -/
def execBfi (f : Fields) (s : State) : Host.Outcome State Fault Refusal :=
  .next (s.alu (nat .bfi f) aluBfi)
/-- bfi in Prerin code (R113, R85). -/
def execBfiPrerin (p : PFields) (s : State) : Host.Outcome State Fault Refusal :=
  .next (s.alu (pri .bfi p) aluBfi)
/-- popc (R114). -/
def execPopc (f : Fields) (s : State) : Host.Outcome State Fault Refusal :=
  .next (s.alu (nat .popc f) aluPopc)
/-- popc in Prerin code (R114, R85). -/
def execPopcPrerin (p : PFields) (s : State) : Host.Outcome State Fault Refusal :=
  .next (s.alu (pri .popc p) aluPopc)
/-- clz (R114). -/
def execClz (f : Fields) (s : State) : Host.Outcome State Fault Refusal :=
  .next (s.alu (nat .clz f) aluClz)
/-- clz in Prerin code (R114, R85). -/
def execClzPrerin (p : PFields) (s : State) : Host.Outcome State Fault Refusal :=
  .next (s.alu (pri .clz p) aluClz)
/-- ctz (R114). -/
def execCtz (f : Fields) (s : State) : Host.Outcome State Fault Refusal :=
  .next (s.alu (nat .ctz f) aluCtz)
/-- ctz in Prerin code (R114, R85). -/
def execCtzPrerin (p : PFields) (s : State) : Host.Outcome State Fault Refusal :=
  .next (s.alu (pri .ctz p) aluCtz)
/-- brev (R114). -/
def execBrev (f : Fields) (s : State) : Host.Outcome State Fault Refusal :=
  .next (s.alu (nat .brev f) aluBrev)
/-- brev in Prerin code (R114, R85). -/
def execBrevPrerin (p : PFields) (s : State) : Host.Outcome State Fault Refusal :=
  .next (s.alu (pri .brev p) aluBrev)
/-- bperm (R115). -/
def execBperm (f : Fields) (s : State) : Host.Outcome State Fault Refusal :=
  .next (s.alu (nat .bperm f) aluBperm)
/-- bperm in Prerin code (R115, R85). -/
def execBpermPrerin (p : PFields) (s : State) : Host.Outcome State Fault Refusal :=
  .next (s.alu (pri .bperm p) aluBperm)
/-- sel (R116). -/
def execSel (f : Fields) (s : State) : Host.Outcome State Fault Refusal :=
  .next (s.alu (nat .sel f) aluSel)
/-- sel in Prerin code (R116, R85). -/
def execSelPrerin (p : PFields) (s : State) : Host.Outcome State Fault Refusal :=
  .next (s.alu (pri .sel p) aluSel)
/-- cmp (R117). -/
def execCmp (f : Fields) (s : State) : Host.Outcome State Fault Refusal :=
  .next (s.alu (nat .cmp f) aluCmp)
/-- cmp in Prerin code (R117, R85). -/
def execCmpPrerin (p : PFields) (s : State) : Host.Outcome State Fault Refusal :=
  .next (s.alu (pri .cmp p) aluCmp)
/-- lea (R118). -/
def execLea (f : Fields) (s : State) : Host.Outcome State Fault Refusal :=
  .next (s.alu (nat .lea f) aluLea)
/-- lea in Prerin code (R118, R85). -/
def execLeaPrerin (p : PFields) (s : State) : Host.Outcome State Fault Refusal :=
  .next (s.alu (pri .lea p) aluLea)
/-- sad (R119). -/
def execSad (f : Fields) (s : State) : Host.Outcome State Fault Refusal :=
  .next (s.alu (nat .sad f) aluSad)
/-- sad in Prerin code (R119, R85). -/
def execSadPrerin (p : PFields) (s : State) : Host.Outcome State Fault Refusal :=
  .next (s.alu (pri .sad p) aluSad)
/-- dot4 (R120). -/
def execDot4 (f : Fields) (s : State) : Host.Outcome State Fault Refusal :=
  .next (s.alu (nat .dot4 f) aluDot4)
/-- dot4 in Prerin code (R120, R85). -/
def execDot4Prerin (p : PFields) (s : State) : Host.Outcome State Fault Refusal :=
  .next (s.alu (pri .dot4 p) aluDot4)
/-- dot2 (R120). -/
def execDot2 (f : Fields) (s : State) : Host.Outcome State Fault Refusal :=
  .next (s.alu (nat .dot2 f) aluDot2)
/-- dot2 in Prerin code (R120, R85). -/
def execDot2Prerin (p : PFields) (s : State) : Host.Outcome State Fault Refusal :=
  .next (s.alu (pri .dot2 p) aluDot2)
/-- vadd2 (R121). -/
def execVadd2 (f : Fields) (s : State) : Host.Outcome State Fault Refusal :=
  .next (s.alu (nat .vadd2 f) aluVadd2)
/-- vadd2 in Prerin code (R121, R85). -/
def execVadd2Prerin (p : PFields) (s : State) : Host.Outcome State Fault Refusal :=
  .next (s.alu (pri .vadd2 p) aluVadd2)
/-- vsub2 (R121). -/
def execVsub2 (f : Fields) (s : State) : Host.Outcome State Fault Refusal :=
  .next (s.alu (nat .vsub2 f) aluVsub2)
/-- vsub2 in Prerin code (R121, R85). -/
def execVsub2Prerin (p : PFields) (s : State) : Host.Outcome State Fault Refusal :=
  .next (s.alu (pri .vsub2 p) aluVsub2)
/-- vmax2 (R121). -/
def execVmax2 (f : Fields) (s : State) : Host.Outcome State Fault Refusal :=
  .next (s.alu (nat .vmax2 f) aluVmax2)
/-- vmax2 in Prerin code (R121, R85). -/
def execVmax2Prerin (p : PFields) (s : State) : Host.Outcome State Fault Refusal :=
  .next (s.alu (pri .vmax2 p) aluVmax2)
/-- vmin2 (R121). -/
def execVmin2 (f : Fields) (s : State) : Host.Outcome State Fault Refusal :=
  .next (s.alu (nat .vmin2 f) aluVmin2)
/-- vmin2 in Prerin code (R121, R85). -/
def execVmin2Prerin (p : PFields) (s : State) : Host.Outcome State Fault Refusal :=
  .next (s.alu (pri .vmin2 p) aluVmin2)
/-- plop (R122). -/
def execPlop (f : Fields) (s : State) : Host.Outcome State Fault Refusal :=
  .next (s.alu (nat .plop f) aluPlop)
/-- plop in Prerin code (R122, R85). -/
def execPlopPrerin (p : PFields) (s : State) : Host.Outcome State Fault Refusal :=
  .next (s.alu (pri .plop p) aluPlop)
/-- pmov (R123). -/
def execPmov (f : Fields) (s : State) : Host.Outcome State Fault Refusal :=
  .next (s.alu (nat .pmov f) aluPmov)
/-- pmov in Prerin code (R123, R85). -/
def execPmovPrerin (p : PFields) (s : State) : Host.Outcome State Fault Refusal :=
  .next (s.alu (pri .pmov p) aluPmov)

end Sys2Proof.Machine
end

