-- ==== Sys2Proof/Machine/Number.lean ====
section
/-! DEFINITION. Number formats and exact arithmetic (03_number_formats.md): decoding, rounding once, overflow results,
conversion. A finite value is a sign, a natural number and a power of two, so nothing is ever approximated. -/
namespace Sys2Proof.Machine

/-- A floating-point format (Table 3-1): exponent and fraction widths, bias, whether it holds infinities, and its NaNs: 0
none, 1 the all-ones pattern alone, 2 every all-ones exponent with a fraction, always quiet, 3 the same with signalling
NaNs. -/
structure Fmt where
  ew : Nat
  fw : Nat
  bias : Nat
  inf : Bool
  nans : Nat
  deriving DecidableEq, Repr

/-- FP32. -/
def fp32 : Fmt := ⟨8, 23, 127, true, 3⟩
/-- BF16. -/
def bf16 : Fmt := ⟨8, 7, 127, true, 3⟩
/-- FP16. -/
def fp16 : Fmt := ⟨5, 10, 15, true, 3⟩
/-- E4M3. -/
def e4m3 : Fmt := ⟨4, 3, 7, false, 1⟩
/-- E5M2. -/
def e5m2 : Fmt := ⟨5, 2, 15, true, 2⟩
/-- E2M1. -/
def e2m1 : Fmt := ⟨2, 1, 1, false, 0⟩

/-- The width of a format in bits. -/
def Fmt.width (f : Fmt) : Nat := 1 + f.ew + f.fw

/-- A decoded value: ±m × 2^e, an infinity, or a NaN, signalling or not. -/
inductive FV where
  | fin (neg : Bool) (m : Nat) (e : Int)
  | inf (neg : Bool)
  | nan (sig : Bool)
  deriving DecidableEq, Repr

/-- The value of an encoding (R39, R43). -/
def Fmt.decode (f : Fmt) (x : Nat) : FV :=
  let fr := x % 2 ^ f.fw
  let ex := x / 2 ^ f.fw % 2 ^ f.ew
  let neg := x / 2 ^ (f.fw + f.ew) % 2 == 1
  let top := ex == 2 ^ f.ew - 1
  if f.nans = 1 ∧ top ∧ fr = 2 ^ f.fw - 1 then .nan false
  else if f.nans ≥ 2 ∧ top ∧ fr ≠ 0 then .nan (f.nans = 3 ∧ fr < 2 ^ (f.fw - 1))
  else if f.inf ∧ top then .inf neg
  else if ex = 0 then .fin neg fr (1 - f.bias - f.fw)
  else .fin neg (2 ^ f.fw + fr) ((ex : Int) - f.bias - f.fw)

/-- The canonical NaN (R43); +0 in E2M1 (R46). -/
def Fmt.canon (f : Fmt) : Nat :=
  match f.nans with
  | 0 => 0
  | 1 => 2 ^ (f.ew + f.fw) - 1
  | _ => (2 ^ f.ew - 1) * 2 ^ f.fw + 2 ^ (f.fw - 1)

/-- The largest finite magnitude's encoding (Table 3-1). -/
def Fmt.maxBits (f : Fmt) : Nat :=
  match f.nans with
  | 0 => 2 ^ (f.ew + f.fw) - 1
  | 1 => 2 ^ (f.ew + f.fw) - 2
  | _ => (2 ^ f.ew - 1) * 2 ^ f.fw - 1

/-- The sign bit of an encoding. -/
def Fmt.signBit (f : Fmt) (neg : Bool) : Nat := if neg then 2 ^ (f.ew + f.fw) else 0

/-- The encoding of an infinity. -/
def Fmt.infBits (f : Fmt) (neg : Bool) : Nat := f.signBit neg + (2 ^ f.ew - 1) * 2 ^ f.fw

/-- Whether a magnitude rounds up: `m` is the truncated magnitude, `rem` of `2 ^ sh` what was cut, `st` that more was cut
below (R44). Modes: 0 RNE, 1 RZ, 2 RD, 3 RU. -/
def roundUp (rnd : Nat) (neg : Bool) (m rem sh : Nat) (st : Bool) : Bool :=
  let inexact := decide (rem ≠ 0) || st
  match rnd with
  | 0 => if sh = 0 then false
         else decide (2 ^ (sh - 1) < rem) || (decide (rem = 2 ^ (sh - 1)) && (st || m % 2 == 1))
  | 1 => false
  | 2 => neg && inexact
  | _ => !neg && inexact

/-- A magnitude `q × 2^e` (and a little more when `st`) rounded to a multiple of `2 ^ u`. -/
def roundTo (rnd : Nat) (neg : Bool) (q : Nat) (e : Int) (st : Bool) (u : Int) : Nat :=
  if u ≤ e then
    let m := q * 2 ^ (e - u).toNat
    if roundUp rnd neg m 0 0 st then m + 1 else m
  else
    let sh := (u - e).toNat
    let m := q / 2 ^ sh
    if roundUp rnd neg m (q % 2 ^ sh) sh st then m + 1 else m

/-- The unit of the last place at which a magnitude is rounded: the precision's, never below the subnormal grid (R44). -/
def Fmt.unit (f : Fmt) (q : Nat) (e : Int) : Int :=
  max ((Nat.log2 q : Int) + e - f.fw) (1 - f.bias - f.fw)

/-- The result of an overflow (Table 3-2). -/
def Fmt.overflow (f : Fmt) (rnd : Nat) (neg sat : Bool) : Nat :=
  let mx := f.signBit neg + f.maxBits
  if sat then mx
  else if f.nans = 0 then mx
  else
    let toMax := match rnd with
      | 0 => false
      | 1 => true
      | 2 => !neg
      | _ => neg
    if toMax then mx else if f.inf then f.infBits neg else f.canon

/-- A finite magnitude rounded once into a format (R44, R45). -/
def Fmt.round (f : Fmt) (rnd : Nat) (sat neg : Bool) (q : Nat) (e : Int) (st : Bool) : Nat × Exc :=
  if q = 0 then (f.signBit neg, Exc.none)
  else
    let u := f.unit q e
    let m := roundTo rnd neg q e st u
    let bits := ((u + f.fw + f.bias - 1).toNat) * 2 ^ f.fw + m
    if bits > f.maxBits then (f.overflow rnd neg sat, Exc.over)
    else (f.signBit neg + bits, Exc.none)

/-- An infinite source in a format of which the source is (`narrow`) or is not the wider (R45, R46). -/
def Fmt.ofInf (f : Fmt) (sat neg narrow : Bool) : Nat × Exc :=
  if f.inf then
    (if sat && narrow then f.signBit neg + f.maxBits else f.infBits neg, Exc.none)
  else if f.nans = 0 then (f.signBit neg + f.maxBits, Exc.invalid)
  else (if sat then f.signBit neg + f.maxBits else f.canon, Exc.invalid)

/-! ## Exact sums and products -/

/-- An exact dyadic value m × 2^e. -/
structure Dy where
  m : Int
  e : Int
  deriving DecidableEq, Repr

/-- Exact sum. -/
def Dy.add (a b : Dy) : Dy :=
  let e := min a.e b.e
  ⟨a.m * 2 ^ (a.e - e).toNat + b.m * 2 ^ (b.e - e).toNat, e⟩
/-- Exact product. -/
def Dy.mul (a b : Dy) : Dy := ⟨a.m * b.m, a.e + b.e⟩
/-- The dyadic value of a finite FV. -/
def dyOf (neg : Bool) (m : Nat) (e : Int) : Dy := ⟨if neg then -(m : Int) else m, e⟩

/-- An exact result before rounding: a finite value with the sign its zero has, an infinity, or a NaN. -/
inductive XV where
  | fin (v : Dy) (negZero : Bool)
  | inf (neg : Bool)
  | nan
  deriving DecidableEq, Repr

/-- The sign of a finite FV. -/
def FV.neg : FV → Bool
  | .fin n _ _ => n
  | .inf n => n
  | .nan _ => false
/-- A value with its sign changed. -/
def FV.negate : FV → FV
  | .fin n m e => .fin (!n) m e
  | .inf n => .inf (!n)
  | .nan s => .nan s
/-- Whether a value is a NaN. -/
def FV.isNan : FV → Bool
  | .nan _ => true
  | _ => false
/-- Whether a value is a signalling NaN. -/
def FV.isSig : FV → Bool
  | .nan s => s
  | _ => false
/-- Whether a value is a zero. -/
def FV.isZero : FV → Bool
  | .fin _ m _ => m == 0
  | _ => false

/-- The exact product: NaN for 0 × ∞ (Table 3-5). -/
def FV.mul (a b : FV) : FV :=
  match a, b with
  | .nan s, _ => .nan s
  | _, .nan s => .nan s
  | .inf n, y => if y.isZero then .nan true else .inf (n != y.neg)
  | x, .inf n => if x.isZero then .nan true else .inf (x.neg != n)
  | .fin n m e, .fin n' m' e' => .fin (n != n') (m * m') (e + e')

/-- The sum of the finite terms of a list. -/
def sumDy : List FV → Dy
  | [] => ⟨0, 0⟩
  | .fin n m e :: l => if m = 0 then sumDy l else (dyOf n m e).add (sumDy l)
  | _ :: l => sumDy l

/-- The exact sum of terms (R42, R55): NaN where a term is or where infinities oppose; an exact zero sum has the common
sign of terms that are all zeros of one sign, else the sign that the mode gives. -/
def sumX (rnd : Nat) (l : List FV) : XV :=
  if l.any FV.isNan then .nan
  else
    let infs := l.filter (fun x => match x with | .inf _ => true | _ => false)
    match infs with
    | x :: r => if r.all (fun y => y.neg == x.neg) then .inf x.neg else .nan
    | [] =>
      let v := sumDy l
      let z := l.all FV.isZero
      .fin v (if z && l.all FV.neg then true else if z && l.all (fun x => !x.neg) then false else rnd == 2)

/-- An exact result rounded once into a format (R128). An infinite result of arithmetic is kept. -/
def Fmt.ofX (f : Fmt) (rnd : Nat) (x : XV) : Nat × Exc :=
  match x with
  | .nan => (f.canon, Exc.none)
  | .inf n => (f.infBits n, Exc.none)
  | .fin v z => if v.m = 0 then (f.signBit z, Exc.none) else f.round rnd false (decide (v.m < 0)) v.m.natAbs v.e false

/-- Arithmetic on values: `terms` are added exactly and rounded once. Invalid is raised by a signalling NaN among the
operands `ops`, and, where no operand is a NaN, by a NaN that arises (Table 3-5, R136). -/
def Fmt.sum (f : Fmt) (rnd : Nat) (ops terms : List FV) : Nat × Exc :=
  let x := sumX rnd terms
  let r := f.ofX rnd x
  let inv := ops.any FV.isSig || (x == .nan && !ops.any FV.isNan)
  (r.1, r.2.or ⟨inv, false, false⟩)

/-- The product of two values rounded once. -/
def Fmt.prod (f : Fmt) (rnd : Nat) (a b : FV) : Nat × Exc :=
  match a.mul b with
  | .nan _ => (f.canon, ⟨a.isSig || b.isSig || (!a.isNan && !b.isNan), false, false⟩)
  | .inf n => (f.infBits n, Exc.none)
  | .fin n m e => f.round rnd false n m e false

/-- The clamp of SAT01 (R129): NaN and negatives to +0, values above 1.0 to 1.0. -/
def Fmt.sat01 (f : Fmt) (x : Nat) : Nat :=
  match f.decode x with
  | .nan _ => 0
  | v => if v.neg then 0 else if x > f.bias * 2 ^ f.fw then f.bias * 2 ^ f.fw else x

/-! ## Order (R130, R131) -/

/-- The order of two finite or infinite values. -/
def FV.cmp (a b : FV) : Ordering :=
  match a, b with
  | .inf n, .inf n' => if n = n' then .eq else if n then .lt else .gt
  | .inf n, _ => if n then .lt else .gt
  | _, .inf n => if n then .gt else .lt
  | .fin n m e, .fin n' m' e' =>
    let d := (dyOf n m e).add (dyOf (!n') m' e')
    if d.m < 0 then .lt else if d.m = 0 then .eq else .gt
  | _, _ => .eq

/-- Whether `a` comes before `b` where −0 is smaller than +0 (R130). -/
def FV.below (a b : FV) : Bool :=
  match a.cmp b with
  | .lt => true
  | .gt => false
  | .eq => a.neg && !b.neg

/-- The smaller, or the larger, of two encodings (R130). -/
def Fmt.pick (f : Fmt) (mx : Bool) (a b : Nat) : Nat :=
  match f.decode a, f.decode b with
  | .nan _, .nan _ => f.canon
  | .nan _, _ => b
  | _, .nan _ => a
  | x, y => if mx then (if x.below y then b else a) else (if y.below x then b else a)

/-- The conditions of Table 6-2. -/
def fcond (c : Nat) (a b : FV) : Bool :=
  let un := a.isNan || b.isNan
  let o := a.cmp b
  match c with
  | 0 => !un && o == .eq
  | 1 => !un && o == .lt
  | 2 => !un && o != .gt
  | 3 => !un && o == .gt
  | 4 => !un && o != .lt
  | 5 => !un && o != .eq
  | 6 => !un
  | 7 => un
  | 8 => un || o == .eq
  | 9 => un || o == .lt
  | 10 => un || o != .gt
  | 11 => un || o == .gt
  | 12 => un || o != .lt
  | _ => un || o != .eq

/-! ## Conversion (R45, R46, R138) -/

/-- A value rounded to an integer (R44). -/
def roundInt (rnd : Nat) (neg : Bool) (q : Nat) (e : Int) (st : Bool) : Int :=
  let m := roundTo rnd neg q e st 0
  if neg then -(m : Int) else m

/-- A conversion source: a value, with the largest finite encoding's magnitude of its format to judge "narrower" by. -/
inductive Dst where
  | flt (f : Fmt)
  | int (w : Nat) (sg : Bool)
  deriving DecidableEq, Repr

/-- The format of a conversion code (Table 6-3). -/
def dstOf (c : Nat) : Dst :=
  match c with
  | 0 => .flt bf16
  | 1 => .flt fp16
  | 2 => .flt e4m3
  | 3 => .flt e5m2
  | 4 => .flt e2m1
  | 5 => .int 8 true
  | 6 => .int 4 true
  | 7 => .flt fp32
  | 8 => .int 32 true
  | 9 => .int 32 false
  | 10 => .int 16 true
  | 11 => .int 16 false
  | 12 => .int 8 true
  | 13 => .int 8 false
  | 14 => .int 64 true
  | _ => .int 64 false

/-- The largest finite magnitude of a format as an exact value. -/
def Fmt.maxVal (f : Fmt) : FV := f.decode f.maxBits

/-- Whether a destination is narrower than an infinite source of format `src` (R45); `none` is the accumulator, wider
than every format. -/
def narrower (src : Option Fmt) (dst : Fmt) : Bool :=
  match src with
  | none => true
  | some s => (dst.maxVal).cmp s.maxVal == .lt

/-- A value converted to a floating-point format (R44–R46). (DESIGN CHOICE, log 99). -/
def convF (f : Fmt) (rnd : Nat) (sat : Bool) (src : Option Fmt) (v : FV) : Nat × Exc :=
  match v with
  | .nan s => (f.canon, ⟨s || f.nans == 0, false, false⟩)
  | .inf n => f.ofInf sat n (narrower src f)
  | .fin n m e => f.round rnd sat n m e false

/-- A value converted to an integer of a width: the rounded value, clamped whatever the saturate control (R46). -/
def convI (w : Nat) (sg : Bool) (rnd : Nat) (v : FV) : Int × Exc :=
  match v with
  | .nan _ => (0, Exc.invalid)
  | .inf n => (satOf' w sg n, Exc.invalid)
  | .fin n m e =>
    let x := roundInt rnd n m e false
    let lo : Int := if sg then -(2 ^ (w - 1) : Int) else 0
    let hi : Int := if sg then 2 ^ (w - 1) - 1 else 2 ^ w - 1
    if x < lo then (lo, Exc.invalid) else if x > hi then (hi, Exc.invalid) else (x, Exc.none)
where
  /-- The end of a range at the side of an infinity. -/
  satOf' (w : Nat) (sg n : Bool) : Int :=
    if n then (if sg then -(2 ^ (w - 1) : Int) else 0) else (if sg then 2 ^ (w - 1) - 1 else 2 ^ w - 1)

/-- The Q4N codebook in units of 1/128 (Table 3-4). -/
def q4nBook : List Int := [-128, -89, -67, -51, -37, -25, -13, 0, 11, 23, 35, 48, 63, 81, 104, 128]

/-- The codebook value of a code, as a value. -/
def q4nVal (c : Nat) : FV :=
  let v := q4nBook.getD c 0
  .fin (decide (v < 0)) v.natAbs (-7)

/-- The Q4N code of the quotient of two exact values, `b` above 0 (R48): nearest entry, ties to the even code. -/
def q4nCode (a : Dy) (b : Dy) : Nat :=
  -- the doubled sum of neighbouring entries, in units of 1/128, is compared with 256 · a / b
  let e := min a.e b.e
  let x := a.m * 2 ^ (a.e - e).toNat * 256
  let y := b.m * 2 ^ (b.e - e).toNat
  (List.range 15).foldl (fun (n : Nat) k =>
    let mid := q4nBook.getD k 0 + q4nBook.getD (k + 1) 0
    if x > mid * y ∨ (x = mid * y ∧ k % 2 = 1) then k + 1 else n) 0

end Sys2Proof.Machine
end

