-- ==== Sys2Proof/Machine/Float.lean ====
section
/-! DEFINITION. Floating-point arithmetic on FP32 values and packed 16-bit pairs (06_float_instructions.md R124–R136). -/
namespace Sys2Proof.Machine

/-! ## Operands and results -/

/-- The rounding mode in M[10:8] (R124). -/
def Ins.rnd (i : Ins) : Nat := i.mb 8 3
/-- The bits of A. -/
def Ins.bitsA (i : Ins) (t : Thread) : Nat := (t.reg i.a).v.toNat
/-- The bits of opB: the register, or imm16 × 2^16 (R126). -/
def Ins.bitsB (i : Ins) (t : Thread) : Nat := if i.imm then i.immZ * 65536 else (t.reg i.b).v.toNat
/-- The bits of C. -/
def Ins.bitsC (i : Ins) (t : Thread) : Nat := (t.reg i.c).v.toNat

/-- A result with its exceptions written to D: the sticky bits are set, and an enabled exception poisons (R60, R63).
(DEDUCED, log 15). -/
def Ins.wrF (i : Ins) (t : Thread) (r : Nat × Exc) : Eff :=
  ⟨[(i.d, ⟨BitVec.ofNat 32 r.1, i.psn t || r.2.poisons t⟩)], [], r.2.sticky⟩

/-- The SAT01 clamp of a result; its exceptions stay (R129). -/
def Fmt.sat (f : Fmt) (on : Bool) (r : Nat × Exc) : Nat × Exc := (if on then f.sat01 r.1 else r.1, r.2)

/-- Invalid where an operand is a signalling NaN. (DEDUCED, log 14). -/
def sigExc (l : List FV) : Exc := ⟨l.any FV.isSig, false, false⟩

/-! ## Scalar arithmetic -/

/-- fadd (R129). -/
def fluAdd (i : Ins) (t : Thread) : Eff :=
  let a := fp32.decode (i.bitsA t)
  let b := fp32.decode (i.bitsB t)
  i.wrF t (fp32.sat (i.f.m.getLsbD 0) (fp32.sum i.rnd [a, b] [a, b]))
/-- fsub (R129). -/
def fluSub (i : Ins) (t : Thread) : Eff :=
  let a := fp32.decode (i.bitsA t)
  let b := fp32.decode (i.bitsB t)
  i.wrF t (fp32.sat (i.f.m.getLsbD 0) (fp32.sum i.rnd [a, b] [a, b.negate]))
/-- fmul (R129). -/
def fluMul (i : Ins) (t : Thread) : Eff :=
  let a := fp32.decode (i.bitsA t)
  let b := fp32.decode (i.bitsB t)
  i.wrF t (fp32.sat (i.f.m.getLsbD 0) (fp32.prod i.rnd a b))
/-- ffma (R129): the product and the sum are exact, rounded once. -/
def fluFma (i : Ins) (t : Thread) : Eff :=
  let a := fp32.decode (i.bitsA t)
  let b := fp32.decode (i.bitsB t)
  let c := fp32.decode (i.bitsC t)
  let p := a.mul b
  let p' := if i.f.m.getLsbD 1 then p.negate else p
  let c' := if i.f.m.getLsbD 2 then c.negate else c
  i.wrF t (fp32.sat (i.f.m.getLsbD 0) (fp32.sum i.rnd [a, b, c] [p', c']))
/-- fmin (R130). -/
def fluMin (i : Ins) (t : Thread) : Eff :=
  i.wrF t (fp32.pick false (i.bitsA t) (i.bitsB t), sigExc [fp32.decode (i.bitsA t), fp32.decode (i.bitsB t)])
/-- fmax (R130). -/
def fluMax (i : Ins) (t : Thread) : Eff :=
  i.wrF t (fp32.pick true (i.bitsA t) (i.bitsB t), sigExc [fp32.decode (i.bitsA t), fp32.decode (i.bitsB t)])
/-- fcmp (R131). -/
def fluCmp (i : Ins) (t : Thread) : Eff :=
  let a := fp32.decode (i.bitsA t)
  let b := fp32.decode (i.bitsB t)
  let x := sigExc [a, b]
  ⟨[], [(i.d % 8, combine (i.mb 4 2) (fcond (i.mb 0 4) a b) (t.pred (i.mb 6 3)) (i.psn t || x.poisons t))], x.sticky⟩
/-- fclamp (R132). -/
def fluClamp (i : Ins) (t : Thread) : Eff :=
  i.wrF t (fp32.pick false (fp32.pick true (i.bitsA t) (i.bitsB t)) (i.bitsC t),
    sigExc [fp32.decode (i.bitsA t), fp32.decode (i.bitsB t), fp32.decode (i.bitsC t)])
/-- frnd (R133): an integral value, exactly; a zero result keeps the sign. -/
def fluRnd (i : Ins) (t : Thread) : Eff :=
  let x := (t.reg i.b).v.toNat
  i.wrF t (match fp32.decode x with
    | .nan s => (fp32.canon, ⟨s, false, false⟩)
    | .inf _ => (x, Exc.none)
    | .fin n m e => fp32.round 0 false n (roundTo i.rnd n m e false 0) 0 false)

/-! ## Packed 16-bit arithmetic (R134–R136) -/

/-- The format of the lanes. -/
def Ins.half (i : Ins) : Fmt := if i.f.m.getLsbD 0 then fp16 else bf16

/-- A packed operation: each lane on its own, the exceptions of both lanes collected (R134). -/
def Ins.lanes2 (i : Ins) (t : Thread) (op : Fmt → Nat → Nat → Nat → Nat × Exc) : Eff :=
  let a := i.bitsA t
  let b := i.packB t
  let c := i.bitsC t
  let r := fun k => op i.half (laneOf a 16 k) (laneOf b 16 k) (laneOf c 16 k)
  i.wrF t ((r 0).1 + 65536 * (r 1).1, (r 0).2.or (r 1).2)

/-- hadd2 (R134). -/
def fluAdd2 (i : Ins) (t : Thread) : Eff :=
  i.lanes2 t (fun h a b _ =>
    h.sat (i.f.m.getLsbD 1) (h.sum i.rnd [h.decode a, h.decode b] [h.decode a, h.decode b]))
/-- hmul2 (R134). -/
def fluMul2 (i : Ins) (t : Thread) : Eff :=
  i.lanes2 t (fun h a b _ => h.sat (i.f.m.getLsbD 1) (h.prod i.rnd (h.decode a) (h.decode b)))
/-- hfma2 (R134). -/
def fluFma2 (i : Ins) (t : Thread) : Eff :=
  i.lanes2 t (fun h a b c =>
    h.sat (i.f.m.getLsbD 1)
      (h.sum i.rnd [h.decode a, h.decode b, h.decode c] [(h.decode a).mul (h.decode b), h.decode c]))
/-- hmin2 (R134). -/
def fluMin2 (i : Ins) (t : Thread) : Eff :=
  i.lanes2 t (fun h a b _ => (h.pick false a b, sigExc [h.decode a, h.decode b]))
/-- hmax2 (R134). -/
def fluMax2 (i : Ins) (t : Thread) : Eff :=
  i.lanes2 t (fun h a b _ => (h.pick true a b, sigExc [h.decode a, h.decode b]))
/-- hcmp2 (R135). -/
def fluCmp2 (i : Ins) (t : Thread) : Eff :=
  i.lanes2 t (fun h a b _ =>
    (if fcond (i.mb 1 4) (h.decode a) (h.decode b) then 0xFFFF else 0, sigExc [h.decode a, h.decode b]))
/-- fdot2 (R136). -/
def fluDot2 (i : Ins) (t : Thread) : Eff :=
  let h := i.half
  let a := i.bitsA t
  let b := i.bitsB t
  let a0 := h.decode (laneOf a 16 0)
  let a1 := h.decode (laneOf a 16 1)
  let b0 := h.decode (laneOf b 16 0)
  let b1 := h.decode (laneOf b 16 1)
  let c := fp32.decode (i.bitsC t)
  i.wrF t (fp32.sum i.rnd [a0, a1, b0, b1, c] [a0.mul b0, a1.mul b1, c])

/-! ## The instructions -/

/-- fadd (R129). -/
def execFadd (f : Fields) (s : State) : Host.Outcome State Fault Refusal :=
  .next (s.alu (nat .fadd f) fluAdd)
/-- fadd in Prerin code (R129, R85). -/
def execFaddPrerin (p : PFields) (s : State) : Host.Outcome State Fault Refusal :=
  .next (s.alu (pri .fadd p) fluAdd)
/-- fsub (R129). -/
def execFsub (f : Fields) (s : State) : Host.Outcome State Fault Refusal :=
  .next (s.alu (nat .fsub f) fluSub)
/-- fsub in Prerin code (R129, R85). -/
def execFsubPrerin (p : PFields) (s : State) : Host.Outcome State Fault Refusal :=
  .next (s.alu (pri .fsub p) fluSub)
/-- fmul (R129). -/
def execFmul (f : Fields) (s : State) : Host.Outcome State Fault Refusal :=
  .next (s.alu (nat .fmul f) fluMul)
/-- fmul in Prerin code (R129, R85). -/
def execFmulPrerin (p : PFields) (s : State) : Host.Outcome State Fault Refusal :=
  .next (s.alu (pri .fmul p) fluMul)
/-- ffma (R129). -/
def execFfma (f : Fields) (s : State) : Host.Outcome State Fault Refusal :=
  .next (s.alu (nat .ffma f) fluFma)
/-- ffma in Prerin code (R129, R85). -/
def execFfmaPrerin (p : PFields) (s : State) : Host.Outcome State Fault Refusal :=
  .next (s.alu (pri .ffma p) fluFma)
/-- fmin (R130). -/
def execFmin (f : Fields) (s : State) : Host.Outcome State Fault Refusal :=
  .next (s.alu (nat .fmin f) fluMin)
/-- fmin in Prerin code (R130, R85). -/
def execFminPrerin (p : PFields) (s : State) : Host.Outcome State Fault Refusal :=
  .next (s.alu (pri .fmin p) fluMin)
/-- fmax (R130). -/
def execFmax (f : Fields) (s : State) : Host.Outcome State Fault Refusal :=
  .next (s.alu (nat .fmax f) fluMax)
/-- fmax in Prerin code (R130, R85). -/
def execFmaxPrerin (p : PFields) (s : State) : Host.Outcome State Fault Refusal :=
  .next (s.alu (pri .fmax p) fluMax)
/-- fcmp (R131). -/
def execFcmp (f : Fields) (s : State) : Host.Outcome State Fault Refusal :=
  .next (s.alu (nat .fcmp f) fluCmp)
/-- fcmp in Prerin code (R131, R85). -/
def execFcmpPrerin (p : PFields) (s : State) : Host.Outcome State Fault Refusal :=
  .next (s.alu (pri .fcmp p) fluCmp)
/-- fclamp (R132). -/
def execFclamp (f : Fields) (s : State) : Host.Outcome State Fault Refusal :=
  .next (s.alu (nat .fclamp f) fluClamp)
/-- fclamp in Prerin code (R132, R85). -/
def execFclampPrerin (p : PFields) (s : State) : Host.Outcome State Fault Refusal :=
  .next (s.alu (pri .fclamp p) fluClamp)
/-- frnd (R133). -/
def execFrnd (f : Fields) (s : State) : Host.Outcome State Fault Refusal :=
  .next (s.alu (nat .frnd f) fluRnd)
/-- frnd in Prerin code (R133, R85). -/
def execFrndPrerin (p : PFields) (s : State) : Host.Outcome State Fault Refusal :=
  .next (s.alu (pri .frnd p) fluRnd)
/-- hadd2 (R134). -/
def execHadd2 (f : Fields) (s : State) : Host.Outcome State Fault Refusal :=
  .next (s.alu (nat .hadd2 f) fluAdd2)
/-- hadd2 in Prerin code (R134, R85). -/
def execHadd2Prerin (p : PFields) (s : State) : Host.Outcome State Fault Refusal :=
  .next (s.alu (pri .hadd2 p) fluAdd2)
/-- hmul2 (R134). -/
def execHmul2 (f : Fields) (s : State) : Host.Outcome State Fault Refusal :=
  .next (s.alu (nat .hmul2 f) fluMul2)
/-- hmul2 in Prerin code (R134, R85). -/
def execHmul2Prerin (p : PFields) (s : State) : Host.Outcome State Fault Refusal :=
  .next (s.alu (pri .hmul2 p) fluMul2)
/-- hfma2 (R134). -/
def execHfma2 (f : Fields) (s : State) : Host.Outcome State Fault Refusal :=
  .next (s.alu (nat .hfma2 f) fluFma2)
/-- hfma2 in Prerin code (R134, R85). -/
def execHfma2Prerin (p : PFields) (s : State) : Host.Outcome State Fault Refusal :=
  .next (s.alu (pri .hfma2 p) fluFma2)
/-- hmin2 (R134). -/
def execHmin2 (f : Fields) (s : State) : Host.Outcome State Fault Refusal :=
  .next (s.alu (nat .hmin2 f) fluMin2)
/-- hmin2 in Prerin code (R134, R85). -/
def execHmin2Prerin (p : PFields) (s : State) : Host.Outcome State Fault Refusal :=
  .next (s.alu (pri .hmin2 p) fluMin2)
/-- hmax2 (R134). -/
def execHmax2 (f : Fields) (s : State) : Host.Outcome State Fault Refusal :=
  .next (s.alu (nat .hmax2 f) fluMax2)
/-- hmax2 in Prerin code (R134, R85). -/
def execHmax2Prerin (p : PFields) (s : State) : Host.Outcome State Fault Refusal :=
  .next (s.alu (pri .hmax2 p) fluMax2)
/-- hcmp2 (R135). -/
def execHcmp2 (f : Fields) (s : State) : Host.Outcome State Fault Refusal :=
  .next (s.alu (nat .hcmp2 f) fluCmp2)
/-- hcmp2 in Prerin code (R135, R85). -/
def execHcmp2Prerin (p : PFields) (s : State) : Host.Outcome State Fault Refusal :=
  .next (s.alu (pri .hcmp2 p) fluCmp2)
/-- fdot2 (R136). -/
def execFdot2 (f : Fields) (s : State) : Host.Outcome State Fault Refusal :=
  .next (s.alu (nat .fdot2 f) fluDot2)
/-- fdot2 in Prerin code (R136, R85). -/
def execFdot2Prerin (p : PFields) (s : State) : Host.Outcome State Fault Refusal :=
  .next (s.alu (pri .fdot2 p) fluDot2)

end Sys2Proof.Machine
end

