-- ==== Sys2Proof/Machine/Pair.lean ====
section
/-! DEFINITION. P words and clause headers (04_instruction_words.md R71–R83). -/
namespace Sys2Proof.Machine

/-- The effect of a pairable form (Table 4-3). -/
def pairSem (o : Op) : Ins → Thread → Eff :=
  match o with
  | .mov => aluMov
  | .add => aluAdd
  | .sub => aluSub
  | .mul => aluMul
  | .mulhi => aluMulhi
  | .min => aluMin
  | .max => aluMax
  | .abs => aluAbs
  | .and => aluAnd
  | .or => aluOr
  | .xor => aluXor
  | .andn => aluAndn
  | .shl => aluShl
  | .shr => aluShr
  | .sar => aluSar
  | .rot => aluRot
  | .popc => aluPopc
  | .clz => aluClz
  | .ctz => aluCtz
  | .brev => aluBrev
  | .vadd2 => aluVadd2
  | .vsub2 => aluVsub2
  | .vmax2 => aluVmax2
  | .vmin2 => aluVmin2
  | .fadd => fluAdd
  | .fsub => fluSub
  | .fmul => fluMul
  | .fmin => fluMin
  | .fmax => fluMax
  | .hadd2 => fluAdd2
  | .hmul2 => fluMul2
  | .hmin2 => fluMin2
  | .hmax2 => fluMax2
  | _ => fun _ _ => Eff.none

/-- A half as the instruction it executes as (R72); none where it is no pairable form. -/
def halfIns (h : HalfFields) (word : DWord) : Option Ins :=
  match h.form with
  | none => none
  | some (o, _, two) => some ⟨o, h.fields (!two), 0, 15, word⟩

/-- Both halves' outcomes together: a trap of either leaves the thread without effect (R75). -/
def Res.both (a b : Res) : Res :=
  match a, b with
  | .ok x, .ok y => .ok (x.and y)
  | .ok _, r => r
  | r, _ => r

/-- A P word: both halves read before either writes, each under its own guard (R75). (DEDUCED, log 20). -/
def State.paired (s : State) (u l : HalfFields) : State :=
  let word := encodePWord' u l
  match halfIns u word, halfIns l word with
  | some iu, some il =>
    s.front (iu.use.and il.use) (fun w _ => regTrap w.blocks (iu.regs ++ il.regs) none) (fun s act =>
      let p := s.pack
      let w := s.wrp p.g p.w
      let half := fun (i : Ins) (t : Nat) => (before i none (w.thr t)).getD (.ok (pairSem i.op i (w.thr t)))
      let rs := act.map (fun t => (t, (half iu t).both (half il t)))
      rs.foldl (fun s r => s.finish p.g p.w r.1 0 r.2) s)
  | _, _ => s.trapAll s.pack.g s.pack.w s.pack.ts 0x01 word
where
  /-- The encoding of the word. -/
  encodePWord' (u l : HalfFields) : DWord := encodeP u l

/-- P word (R71–R75). -/
def execPWord (u l : HalfFields) (s : State) : Host.Outcome State Fault Refusal := .next (s.paired u l)

/-- Whether a residency notice is due in a thread (R171, R36). -/
def Thread.noticeDue (t : Thread) : Bool := t.nen && t.notice && !t.hnd

/-- A clause boundary passed by one thread (R78): a due notice is taken; a set flag of WAIT blocks it; else it adopts the
header's flags and stands at word 1. A starvation promotion ends here (R180). (DESIGN CHOICE, log 22). -/
def State.boundary (s : State) (h : HFields) (g w t : Nat) : State :=
  let x := s.thr g w t
  if x.noticeDue then s.trapT g w t 0x0E ((s.wrp g w).resl.setWidth 64)
  else if x.flagsSet h.wait then s.modT g w t (fun x => { x with sched := .blocked (.flags h.wait) })
  else s.modT g w t (fun x =>
    { x with fa := h.fa.toNat, fb := h.fb.toNat, len := h.len.toNat, tix := 1, promo := none })

/-- A clause header, passed by each thread of the pack on its own (R78). -/
def execClauseBoundary (h : HFields) (s : State) : Host.Outcome State Fault Refusal :=
  .next (s.pack.ts.foldl (fun s t => s.boundary h s.pack.g s.pack.w t) s)

end Sys2Proof.Machine
end

