-- ==== Sys2Proof/Machine/Control.lean ====
section
/-! DEFINITION. Control flow, traps and system instructions (07_control_and_traps.md R153–R173). -/
namespace Sys2Proof.Machine

/-! ## Branch targets (R90, R91, R154) -/

/-- The displacement of bra. -/
def dispBra (f : Fields) : Int :=
  (f.d.extractLsb' 6 2 ++ f.a.extractLsb' 6 2 ++ f.b.extractLsb' 6 2 ++ f.c ++ f.d.extractLsb' 0 6 ++ f.a.extractLsb' 0 6
    ++ f.b.extractLsb' 0 6).toInt
/-- The displacement of call. -/
def dispCall (f : Fields) : Int :=
  (f.a.extractLsb' 6 2 ++ f.b.extractLsb' 6 2 ++ f.c ++ f.a.extractLsb' 0 6 ++ f.b.extractLsb' 0 6).toInt

/-- The address of the word a thread stands at: the native word, or the first Prerin word (R154, R88). -/
def Thread.at' (t : Thread) : DWord :=
  match t.mode with
  | .native => t.pc + 8 * BitVec.ofNat 64 t.tix
  | .prerin => t.pc

/-- The target of a direct branch; it stays in the mode (R90). -/
def Thread.direct (t : Thread) (disp : Int) : DWord :=
  match t.mode with
  | .native => t.at' + BitVec.ofInt 64 (8 * disp)
  | .prerin => t.at' + BitVec.ofInt 64 (4 * disp)

/-- What stands at a branch target: a legal one, one that traps, or code that cannot be fetched now. -/
inductive Target where | good | bad | away (kind : Nat)
  deriving DecidableEq, Repr

/-- The check of a target in a mode (R90, R91): a native one is 8-byte aligned and holds an H word. -/
def State.target (s : State) (g : Nat) (m : Mode) (h : DWord) : Target :=
  let x := s.grp g
  match m with
  | .prerin => if h.toNat % 4 = 0 then .good else .bad
  | .native =>
    if h.toNat % 8 ≠ 0 then .bad
    else match s.codeWord x.die x.core x.vdev h.toNat with
      | .error k => .away k
      | .ok w => if w.extractLsb' 62 2 = 2 then .good else .bad

/-- The return address of a call (R156). -/
def Thread.link (t : Thread) (words : Nat) : DWord :=
  match t.mode with
  | .native => t.pc + 8 * BitVec.ofNat 64 (t.len + 1) + 1
  | .prerin => t.pc + 4 * BitVec.ofNat 64 words

/-- A taken branch to `h` as the spin detector sees it, at the warp's opportunity count `opp` (R178). -/
def Thread.spin (t : Thread) (h : DWord) (opp : Nat) : Thread :=
  if h.toNat > t.at'.toNat then t
  else if h = t.spinT ∧ !t.spinCh then
    let n := min (t.spinN + 1) 4
    if n = 4 ∧ !t.demoted then { t with spinN := 4, demoted := true, demAt := opp }
    else { t with spinN := n }
  else { t with spinT := h, spinN := 0, spinCh := false }

/-- A branch taken by one thread (R155, R156): the link `d` is written, the detector told, and the thread stands at the
target; a bad target traps 0x02 with `val` and leaves pc and link alone. -/
def State.jump (s : State) (g w t : Nat) (m : Mode) (h val : DWord) (link : Option (Nat × DWord)) : State :=
  match s.target g m h with
  | .bad => s.trapT g w t 0x02 val
  | .away _ => s.modT g w t (fun x => x.stall (.fetch h.toNat 0))
  | .good =>
    let opp := (s.wrp g w).opps
    s.modT g w t (fun x =>
      let x := match link with
        | none => x
        | some (d, v) => x.apply (Eff.pair d v false)
      { x.spin h opp with pc := h, tix := 0, mode := m })

/-- A jump through a register pair: bit 0 is the mode (R90). (DEDUCED, log 19). -/
def State.jumpReg (s : State) (g w t : Nat) (v : DWord) (link : Option (Nat × DWord)) : State :=
  s.jump g w t (if v.getLsbD 0 then .native else .prerin) (v &&& ~~~1#64) v link

/-- No checks of the entry's own. -/
def noChk : State → Nat → Nat → Nat → Cause := fun _ _ _ _ => none

/-- bra (R156). -/
def State.doBra (s : State) (i : Ins) : State :=
  s.control i true noChk (fun s g w t =>
    let x := s.thr g w t
    s.jump g w t x.mode (x.direct (dispBra i.f)) (x.direct (dispBra i.f)) none)
/-- The check of the target of brx, callx and ret (R155, R90, R91), whether or not the pair is poisoned: trap 0x02 comes
before the trap 0x04 of a poisoned target (R33). Code that cannot be fetched now decides nothing here. -/
def chkTarget (i : Ins) (s : State) (g w t : Nat) : Cause :=
  let v := (s.thr g w t).reg64 i.a
  match s.target g (if v.getLsbD 0 then .native else .prerin) (v &&& ~~~1#64) with
  | .bad => some (0x02, v)
  | _ => none
/-- brx and ret (R156). -/
def State.doBrx (s : State) (i : Ins) : State :=
  s.control i true (chkTarget i) (fun s g w t => s.jumpReg g w t ((s.thr g w t).reg64 i.a) none)
/-- call (R156). -/
def State.doCall (s : State) (i : Ins) : State :=
  s.control i true noChk (fun s g w t =>
    let x := s.thr g w t
    s.jump g w t x.mode (x.direct (dispCall i.f)) (x.direct (dispCall i.f)) (some (i.d, x.link i.words)))
/-- callx (R156): A is read before D is written. -/
def State.doCallx (s : State) (i : Ins) : State :=
  s.control i true (chkTarget i) (fun s g w t =>
    let x := s.thr g w t
    s.jumpReg g w t (x.reg64 i.a) (some (i.d, x.link i.words)))

/-! ## exit, yield, nop (R159–R161) -/

/-- Whether a thread was created by the Spinner. -/
def Thread.isLane (t : Thread) : Bool :=
  match t.kind with
  | .lane _ _ => true
  | _ => false

/-- exit (R159). -/
def State.doExit (s : State) (i : Ins) : State :=
  s.control i true noChk (fun s g w t => if (s.thr g w t).isLane then s.trapT g w t 0x01 i.word else s.exitT g w t)

/-- The request that a quadrant not pick a warp at its next pick when another of its warps is ready (R160, R82). -/
def State.yieldWarp (s : State) (g w : Nat) : State :=
  let x := s.grp g
  s.modC x.die x.core (fun c =>
    { c with quads := modAt c.quads (s.wrp g w).quad (fun (q : Quad) => { q with avoid := some (g, w) }) })

/-- yield (R160). -/
def State.doYield (s : State) (i : Ins) : State :=
  s.control i false noChk (fun s g w t => (s.yieldWarp g w).modT g w t (fun x => x.advance i.words))

/-! ## trap, bkpt, tret (R162–R166) -/

/-- trap (R162). -/
def State.doTrap (s : State) (i : Ins) : State :=
  s.control i false noChk (fun s g w t =>
    s.trapT g w t 0x10 (if i.imm then BitVec.ofNat 64 i.immZ else ((s.thr g w t).reg i.a).v.setWidth 64))
/-- bkpt (R162). -/
def State.doBkpt (s : State) (i : Ins) : State :=
  s.control i false noChk (fun s g w t => s.trapT g w t 0x0F (BitVec.ofNat 64 (if i.imm then i.immZ else 0)))

/-- tret (R35, R83, R166). -/
def State.doTret (s : State) (i : Ins) : State :=
  s.control i true noChk (fun s g w t =>
    let x := s.thr g w t
    let h := x.tpc &&& ~~~1#64
    if !x.hnd then s.trapT g w t 0x01 i.word
    else
      let back := fun (s : State) (hdr : Option HFields) =>
        match x.retTrap hdr with
        | none => s.trapT g w t 0x01 i.word
        | some y => s.modT g w t (fun _ => y)
      if x.tpc.getLsbD 0 then
        if h.toNat % 8 ≠ 0 then back s none
        else match s.fetchWord (s.grp g).die (s.grp g).core (s.grp g).vdev h.toNat with
        | .error s => s.modT g w t (fun x => x.stall (.fetch h.toNat 0))
        | .ok (s, v) => back s (if v.extractLsb' 62 2 = 2 then some (headerOfWord v) else none)
      else back s none)

/-! ## sysc (R168) -/

/-- Whether an engine command that a thread issued has not retired. -/
def Warp.cmdBusy (w : Warp) (t : Nat) : Bool := w.cqs.any (fun q => q.any (fun e => e.act.contains t))

/-- A register of a thread that now awaits a result (R81). -/
def Thread.await (t : Thread) (r : Nat) : Thread := if r < 255 then { t with pend := NSet.add t.pend r } else t

/-- sysc (R168): one call of one thread is sent; the thread goes on, and a reader of D waits for the reply.
(DESIGN CHOICE, log 33). -/
def State.doSysc (s : State) (i : Ins) : State :=
  s.control i false noChk (fun s g w t =>
    let x := s.thr g w t
    if x.sysc || (s.wrp g w).cmdBusy t || (s.grp g).bankBusy (tid w t) || s.unsent g 5 then s.modT g w t (fun x => x.stall .sysc)
    else
      let (s, id) := (s.releasedBy g (tid w t) 5).newId
      let c : Call := ⟨id, .thread ⟨g, w, t⟩ i.d, (s.grp g).vdev, i.immZ,
        (List.range 8).map (fun k => (x.reg (i.a + k)).v), none, false⟩
      (s.modT g w t (fun x => { ((x.await i.d).await (i.d + 1)).advance i.words with sysc := true })).addCall c)

/-! ## Special registers (R170, Table 2-4) -/

/-- The cycle counter of a core (R6). (DESIGN CHOICE, log 2). -/
def State.cycle (s : State) (d c : Nat) : Nat := s.clock + (s.core d c).skew

/-- The value of a special register in a thread. -/
def State.spr (s : State) (g w t n : Nat) : Nat :=
  let x := s.grp g
  let wp := x.wrp w
  let th := wp.thr t
  match n with
  | 0x00 => tid w t
  | 0x01 => if wp.legacy then t % 16 else t
  | 0x02 => w
  | 0x03 => x.wgx
  | 0x04 => x.wgy
  | 0x05 => x.wgz
  | 0x06 => x.nwgx
  | 0x07 => x.nwgy
  | 0x08 => x.nwgz
  | 0x09 => x.core
  | 0x0A => wp.quad
  | 0x0B => x.die
  | 0x0C => wp.part
  | 0x0D => if wp.legacy then 1 else 0
  | 0x0E => wp.resl.toNat
  | 0x0F => s.cycle x.die x.core
  | 0x10 => th.status.toNat
  | 0x11 => th.tpc.toNat
  | 0x12 => th.trix.toNat
  | 0x13 => th.tcause.toNat % 64
  | _ => th.tval.toNat

/-- srd (R170). -/
def State.doSrd (s : State) (i : Ins) : State :=
  s.lanes i (fun _ _ t =>
    let v := s.spr s.pack.g s.pack.w t (i.mb 0 6)
    .ok (if spr64 (i.mb 0 6) then Eff.pair i.d (BitVec.ofNat 64 v) false else Eff.reg i.d ⟨BitVec.ofNat 32 v, false⟩))

/-- The checks of swr: %tpc and %tix only in a handler (R21), and no TSM of 2 or 3 (R18). -/
def chkSwr (i : Ins) (s : State) (g w t : Nat) : Cause :=
  let x := s.thr g w t
  if i.mb 0 6 ≠ 0x10 then if x.hnd then none else some (0x01, i.word)
  else if 2 ≤ ((x.reg i.a).v.extractLsb' 6 2).toNat then some (0x01, i.word) else none

/-- swr (R170, R18, R21). -/
def State.doSwr (s : State) (i : Ins) : State :=
  s.control i false (chkSwr i) (fun s g w t =>
    let x := s.thr g w t
    let v := (x.reg i.a).v
    match i.mb 0 6 with
    | 0x10 => s.modT g w t (fun x => { x with status := swrStatus x.status v }.advance i.words)
    | 0x11 => s.modT g w t (fun x => { x with tpc := x.reg64 i.a }.advance i.words)
    | _ => s.modT g w t (fun x => { x with trix := v &&& 0x3F }.advance i.words))

/-! ## ackn and wflg (R172, R173) -/

/-- ackn (R172). -/
def State.doAckn (s : State) (i : Ins) : State :=
  s.control i false noChk (fun s g w t =>
    let v := (s.wrp g w).resl
    s.modT g w t (fun x => ({ x with notice := false, ackd := v }.apply (Eff.reg i.d ⟨v, false⟩)).advance i.words))

/-- wflg (R173): the thread stays at the word until every named flag is clear. -/
def State.doWflg (s : State) (i : Ins) : State :=
  s.control i false noChk (fun s g w t =>
    let m := BitVec.ofNat 12 i.immZ
    if (s.thr g w t).flagsSet m then s.modT g w t (fun x => { x with sched := .blocked (.flags m) })
    else s.modT g w t (fun x => x.advance i.words))

/-! ## The instructions -/

/-- bra (R156). -/
def execBra (f : Fields) (s : State) : Host.Outcome State Fault Refusal :=
  .next (s.doBra (nat .bra f))
/-- bra in Prerin code (R156, R85). -/
def execBraPrerin (p : PFields) (s : State) : Host.Outcome State Fault Refusal :=
  .next (s.doBra (pri .bra p))
/-- brx (R156). -/
def execBrx (f : Fields) (s : State) : Host.Outcome State Fault Refusal :=
  .next (s.doBrx (nat .brx f))
/-- brx in Prerin code (R156, R85). -/
def execBrxPrerin (p : PFields) (s : State) : Host.Outcome State Fault Refusal :=
  .next (s.doBrx (pri .brx p))
/-- call (R156). -/
def execCall (f : Fields) (s : State) : Host.Outcome State Fault Refusal :=
  .next (s.doCall (nat .call f))
/-- call in Prerin code (R156, R85). -/
def execCallPrerin (p : PFields) (s : State) : Host.Outcome State Fault Refusal :=
  .next (s.doCall (pri .call p))
/-- callx (R156). -/
def execCallx (f : Fields) (s : State) : Host.Outcome State Fault Refusal :=
  .next (s.doCallx (nat .callx f))
/-- callx in Prerin code (R156, R85). -/
def execCallxPrerin (p : PFields) (s : State) : Host.Outcome State Fault Refusal :=
  .next (s.doCallx (pri .callx p))
/-- ret (R156). -/
def execRet (f : Fields) (s : State) : Host.Outcome State Fault Refusal :=
  .next (s.doBrx (nat .ret f))
/-- ret in Prerin code (R156, R85). -/
def execRetPrerin (p : PFields) (s : State) : Host.Outcome State Fault Refusal :=
  .next (s.doBrx (pri .ret p))
/-- exit (R159). -/
def execExit (f : Fields) (s : State) : Host.Outcome State Fault Refusal :=
  .next (s.doExit (nat .exit f))
/-- exit in Prerin code (R159, R85). -/
def execExitPrerin (p : PFields) (s : State) : Host.Outcome State Fault Refusal :=
  .next (s.doExit (pri .exit p))
/-- yield (R160). -/
def execYield (f : Fields) (s : State) : Host.Outcome State Fault Refusal :=
  .next (s.doYield (nat .yield f))
/-- yield in Prerin code (R160, R85). -/
def execYieldPrerin (p : PFields) (s : State) : Host.Outcome State Fault Refusal :=
  .next (s.doYield (pri .yield p))
/-- nop (R161). -/
def execNop (f : Fields) (s : State) : Host.Outcome State Fault Refusal :=
  .next (s.alu (nat .nop f) (fun _ _ => Eff.none))
/-- nop in Prerin code (R161, R85). -/
def execNopPrerin (p : PFields) (s : State) : Host.Outcome State Fault Refusal :=
  .next (s.alu (pri .nop p) (fun _ _ => Eff.none))
/-- trap (R162). -/
def execTrap (f : Fields) (s : State) : Host.Outcome State Fault Refusal :=
  .next (s.doTrap (nat .trap f))
/-- trap in Prerin code (R162, R85). -/
def execTrapPrerin (p : PFields) (s : State) : Host.Outcome State Fault Refusal :=
  .next (s.doTrap (pri .trap p))
/-- tret (R35). -/
def execTret (f : Fields) (s : State) : Host.Outcome State Fault Refusal :=
  .next (s.doTret (nat .tret f))
/-- tret in Prerin code (R35, R85). -/
def execTretPrerin (p : PFields) (s : State) : Host.Outcome State Fault Refusal :=
  .next (s.doTret (pri .tret p))
/-- sysc (R168). -/
def execSysc (f : Fields) (s : State) : Host.Outcome State Fault Refusal :=
  .next (s.doSysc (nat .sysc f))
/-- sysc in Prerin code (R168, R85). -/
def execSyscPrerin (p : PFields) (s : State) : Host.Outcome State Fault Refusal :=
  .next (s.doSysc (pri .sysc p))
/-- srd (R170). -/
def execSrd (f : Fields) (s : State) : Host.Outcome State Fault Refusal :=
  .next (s.doSrd (nat .srd f))
/-- srd in Prerin code (R170, R85). -/
def execSrdPrerin (p : PFields) (s : State) : Host.Outcome State Fault Refusal :=
  .next (s.doSrd (pri .srd p))
/-- swr (R170). -/
def execSwr (f : Fields) (s : State) : Host.Outcome State Fault Refusal :=
  .next (s.doSwr (nat .swr f))
/-- swr in Prerin code (R170, R85). -/
def execSwrPrerin (p : PFields) (s : State) : Host.Outcome State Fault Refusal :=
  .next (s.doSwr (pri .swr p))
/-- bkpt (R162). -/
def execBkpt (f : Fields) (s : State) : Host.Outcome State Fault Refusal :=
  .next (s.doBkpt (nat .bkpt f))
/-- bkpt in Prerin code (R162, R85). -/
def execBkptPrerin (p : PFields) (s : State) : Host.Outcome State Fault Refusal :=
  .next (s.doBkpt (pri .bkpt p))
/-- ackn (R172). -/
def execAckn (f : Fields) (s : State) : Host.Outcome State Fault Refusal :=
  .next (s.doAckn (nat .ackn f))
/-- ackn in Prerin code (R172, R85). -/
def execAcknPrerin (p : PFields) (s : State) : Host.Outcome State Fault Refusal :=
  .next (s.doAckn (pri .ackn p))
/-- wflg (R173). -/
def execWflg (f : Fields) (s : State) : Host.Outcome State Fault Refusal :=
  .next (s.doWflg (nat .wflg f))
/-- wflg in Prerin code (R173, R85). -/
def execWflgPrerin (p : PFields) (s : State) : Host.Outcome State Fault Refusal :=
  .next (s.doWflg (pri .wflg p))

end Sys2Proof.Machine
end

