-- ==== Sys2Proof/Machine/Scratch.lean ====
section
/-! DEFINITION. Scratch as the workgroup's threads reach it: bytes and poison, spans, the range scoreboard, transfer
barriers, the Touchstone, and the release and acquire parts of an access (08_core.md R183–R197, 09_core_instructions.md
R224–R231). -/
namespace Sys2Proof.Machine

/-! ## Bytes and poison (R62, R186) -/

/-- A little-endian number of `n` bytes of scratch. -/
def Group.rd (g : Group) (off n : Nat) : Nat := leNat (fun a => FMap.get 0 g.scr a) off n
/-- The words that `n` bytes touch. -/
def wordsOf (off n : Nat) : List Nat := (List.range ((off + n + 3) / 4 - off / 4)).map (fun k => off / 4 + k)
/-- Whether a word that the bytes touch is poisoned. -/
def Group.rdPsn (g : Group) (off n : Nat) : Bool := (wordsOf off n).any (fun k => NSet.has g.scrP k)
/-- Scratch bytes written; only a whole clean word clears its poison (R62). -/
def Group.wr (g : Group) (off n v : Nat) (p : Bool) : Group :=
  let put := fun (m : FMap Byte) (k : Nat) => FMap.set 0 m (off + k) (BitVec.ofNat 8 (v / 256 ^ k))
  let psn := fun (l : NSet) (k : Nat) =>
    if p then NSet.add l k else if off ≤ 4 * k ∧ 4 * k + 4 ≤ off + n then NSet.del l k else l
  { g with scr := (List.range n).foldl put g.scr, scrP := (wordsOf off n).foldl psn g.scrP }

/-! ## What holds an access (R188, R191, R203, R242) -/

/-- The range-scoreboard entry that stalls an access (R191): a destination entry stalls every access, a source entry a
store. -/
def Group.boardHit (g : Group) (off n : Nat) (store : Bool) : Bool :=
  g.board.any (fun e => decide (e.lo < off + n) && decide (off < e.hi) && (e.dst || store))

/-- A span's sector at a position. -/
def Span.sec (sp : Span) (k : Nat) : Sector := FMap.get Sector.invalid sp.secs k
/-- The open span with a number. -/
def Group.span (g : Group) (m : Nat) : Option Span := FMap.get none g.spans m
/-- The sectors of a span that `n` bytes touch. -/
def Span.touched (sp : Span) (off n : Nat) : List Nat :=
  (List.range (sp.len / 1024)).filter (fun k =>
    decide (off < sp.so + 1024 * k + 1024) && decide (sp.so + 1024 * k < off + n))
/-- The first sector that an access must have filled (R188). -/
def Group.spanNeed (g : Group) (off n : Nat) : Option (Nat × Nat) :=
  (List.range 8).findSome? (fun m => (g.span m).bind (fun sp =>
    ((sp.touched off n).find? (fun k => !(sp.sec k).valid || (sp.sec k).stale)).map (fun k => (m, k))))

/-- The units of the allocation that `n` bytes touch and a fold has spilled (R203). -/
def Group.unitSpilled (g : Group) (off n : Nat) : Bool :=
  (List.range ((off + n + 1023) / 1024 - off / 1024)).any (fun k => NSet.has g.spilledU (off / 1024 + k))

/-- Whether a thread has a load, ldg or atomic that has not returned (R229). -/
def Warp.loadBusy (w : Warp) (t : Nat) : Bool :=
  w.cqs.any (fun q => q.any (fun e => e.act.contains t && (match e.cmd with
    | .ldg .. => true
    | .atmg .. => true
    | _ => false)))
/-- Whether an acquire of a thread keeps its later scratch accesses from beginning (R242). -/
def Warp.acqBusy (w : Warp) (t : Nat) : Bool :=
  w.cqs.any (fun q => q.any (fun e => e.act.contains t && (match e.cmd with
    | .ldg _ _ _ ord _ => ord == 1
    | .atmg _ _ _ _ scope => scope != 0
    | _ => false)))

/-- What holds a scratch access of one thread back (R242, R191, R203, R188). -/
def State.scrHold (s : State) (g w t off n : Nat) (store : Bool) : Option StallWhy :=
  let x := s.grp g
  let wp := x.wrp w
  if wp.acqBusy t then some .fence
  else if x.boardHit off n store then some .scoreboard
  else if x.unitSpilled off n && !wp.slow then some .spilled
  else (x.spanNeed off n).map (fun ms => .spanFill ms.1 ms.2)

/-- The words of a scratch access that waits. -/
def BankOp.words (o : BankOp) : List Nat := wordsOf o.off (o.w * o.n)
/-- Whether a scratch access of a thread, by its index, that is not performed yet touches a word of these bytes: accesses of
one thread to one word stay in order (Table 17-2). -/
def Group.bankHit (x : Group) (u off n : Nat) : Bool :=
  x.bank.any (fun o => o.u == u && (wordsOf off n).any (fun k => o.words.contains k))
/-- Whether a scratch access loads. -/
def BankOp.loads (o : BankOp) : Bool :=
  match o.act with
  | .store _ _ => false
  | _ => true

/-- What a release at a scope waits for in a thread (R229): its scratch accesses, its engine commands from .cl on, the dirty
sectors of the workgroup's spans from .die on where the release is one that writes them back (R226), the acknowledgement
of what its die has written back to peer pages from .die on (R345, R394). -/
def State.relHold (s : State) (g w t scope : Nat) (wb : Bool) : Option StallWhy :=
  if (s.grp g).bankBusy (tid w t) then some .fence
  else if 2 ≤ scope && (s.wrp g w).cmdBusy t then some .fence
  else if s.unsent g scope then some .fence
  else if wb && decide (3 ≤ scope) && (s.grp g).anyDirty then some (.writeBack none)
  else none
/-- What an acquire waits for in a thread (R229): its loads and atomics of scratch and its engine commands that return. -/
def State.acqHold (s : State) (g w t : Nat) : Option StallWhy :=
  if (s.wrp g w).loadBusy t || (s.grp g).bank.any (fun o => o.u == tid w t && o.loads) then some .fence else none

/-! ## Spans (R187–R189) -/

/-- A store's bytes marked dirty in the spans they lie in (R188). -/
def Group.markDirty (g : Group) (off n : Nat) : Group :=
  let sector := fun (sp : Span) (secs : FMap Sector) (k : Nat) =>
    let lo := sp.so + 1024 * k
    let c := FMap.get Sector.invalid secs k
    let d := (List.range n).foldl (fun d j =>
      if lo ≤ off + j ∧ off + j < lo + 1024 then NSet.add d (off + j - lo) else d) c.dirty
    FMap.set Sector.invalid secs k { c with dirty := d }
  let one := fun (m : Option Span) =>
    m.map (fun sp => { sp with secs := (sp.touched off n).foldl (sector sp) sp.secs })
  { g with spans := g.spans.map (fun x => (x.1, one x.2)) }

/-- A sector made stale where it is valid; a fill in progress starts again (R189, R244). -/
def Sector.makeStale (c : Sector) : Sector :=
  { c with
    stale := c.stale || c.valid
    filled := 0 }
/-- Every valid sector of every open span becomes stale (R189). -/
def Group.stale (g : Group) : Group :=
  let one := fun (m : Option Span) =>
    m.map (fun sp => { sp with secs := sp.secs.map (fun x => (x.1, x.2.makeStale)) })
  { g with spans := g.spans.map (fun x => (x.1, one x.2)) }

/-! ## The Touchstone (R193–R197) -/

/-- How an access counts for the Touchstone (R194): plain, plain sub-word, synchronising with or without an acquire. -/
inductive TsCls where | plain | sub | sync | acq
  deriving DecidableEq, Repr

/-- A tag of the workgroup; one of an earlier phase reads as empty (R193). -/
def Group.tag (g : Group) (word : Nat) : Tag :=
  let x := FMap.get Tag.empty g.tags word
  if x.ph = g.phase then x else Tag.empty
/-- The state with a tag written. -/
def Group.setTag (g : Group) (word : Nat) (x : Tag) : Group := { g with tags := FMap.set Tag.empty g.tags word x }
/-- Tags of the words that bytes touch made empty (R194, R231). -/
def Group.clearTags (g : Group) (off n : Nat) : Group :=
  (wordsOf off n).foldl (fun g k => g.setTag k Tag.empty) g

/-- The thread of a workgroup with an index. -/
def Group.byTid (g : Group) (u : Nat) : Thread := (g.wrp (u / 32)).thr (u % 32)
/-- The workgroup with one thread, by its index, changed. -/
def Group.modTid (g : Group) (u : Nat) (f : Thread → Thread) : Group := g.modT (u / 32) (u % 32) f

/-- A set of at most eight indices, past which it becomes ALL (R195). -/
def Thread.acquireSet (t : Thread) (all : Bool) (l : NSet) : Thread :=
  if t.sAll then t
  else
    let n := l.foldl NSet.add t.sSet
    if all || decide (8 < n.length) then { t with sAll := true, sSet := [] } else { t with sSet := n }
/-- An index added to the read-from list; a full one is marked (R195). -/
def Thread.listed (t : Thread) (v : Nat) : Thread :=
  if NSet.has t.lSet v then t
  else if 8 ≤ t.lSet.length then { t with lFull := true }
  else { t with lSet := NSet.add t.lSet v }

/-- The conflict that a plain access meets (R196, R197): the earlier thread's index. -/
def Group.tsConflict (g : Group) (u word : Nat) (write : Bool) (cls : TsCls) : Option Nat :=
  let x := g.tag word
  let t := g.byTid u
  let ordered := fun v => v == u || t.sAll || NSet.has t.sSet v
  match cls with
  | .sync => none
  | .acq => none
  | _ =>
    match x.w with
    | some v =>
      if !ordered v then some v
      else if write && cls == .sub && x.sub && v != u then some v
      else rest x t ordered write
    | none => rest x t ordered write
where
  /-- The part of the check that looks at the readers. -/
  rest (x : Tag) (t : Thread) (ordered : Nat → Bool) (write : Bool) : Option Nat :=
    if !write then none
    else if x.mr then (if t.sAll then none else x.rd)
    else match x.rd with
      | some v => if ordered v then none else some v
      | none => none

/-- What a read does to the reader's set and list (R195). -/
def Group.tsRead (g : Group) (u word : Nat) (cls : TsCls) : Group :=
  match (g.tag word).w with
  | none => g
  | some v =>
    if v = u then g
    else match cls with
      | .acq =>
        let o := g.byTid v
        g.modTid u (fun t => t.acquireSet o.sAll (NSet.add o.sSet v))
      | _ => g.modTid u (fun t => t.listed v)

/-- The update part of R196 for one word: its write line, then its read line. -/
def Group.tsUpdate (g : Group) (u word : Nat) (read write : Bool) (cls : TsCls) : Group :=
  let x := g.tag word
  let x := if write then ⟨some u, none, false, g.phase, cls == .sub⟩ else x
  let x : Tag := if read then
      match x.rd with
      | none => { x with rd := some u }
      | some v => if v = u then x else { x with mr := true }
    else x
  g.setTag word { x with ph := g.phase }

/-- An access of one thread, word by word: a read changes the reader's set and list; then the tag is updated, unless a
plain access conflicts there: a conflict leaves the tag as it is, whatever the thread's TSM (R195, R196). -/
def Group.tsAccess (g : Group) (u off n : Nat) (read write : Bool) (cls : TsCls) : Group :=
  (wordsOf off n).foldl (fun g k =>
    let bad := (g.tsConflict u k write cls).isSome
    let g := if read then g.tsRead u k cls else g
    if bad then g else g.tsUpdate u k read write cls) g

/-- The trap that a plain access takes: only a thread whose TSM is 1, at the first word in conflict (R20, R196). -/
def Group.tsTrap (g : Group) (u off n : Nat) (write : Bool) (cls : TsCls) : Cause :=
  if (g.byTid u).tsm ≠ 1 then none
  else (wordsOf off n).findSome? (fun k =>
    (g.tsConflict u k write cls).map (fun v => (0x07, BitVec.ofNat 64 (v * 2 ^ 32 + 4 * k))))

/-- An acquire fence at .wg or wider by a thread (R195). -/
def Group.tsFence (g : Group) (u : Nat) : Group :=
  let t := g.byTid u
  let all := t.lFull || t.lSet.any (fun v => (g.byTid v).sAll)
  let more := t.lSet.flatMap (fun v => (g.byTid v).sSet)
  g.modTid u (fun t => { t.acquireSet all (t.lSet ++ more) with lSet := [], lFull := false })

/-- A value read by a thread beyond scratch, or an item received, as the Touchstone takes it: the threads of its workgroup that
have released there in this phase count as its writers, ordered at once where the read acquires (at .wg or wider), listed
where it does not (R195, R349). (DEDUCED, log 106). -/
def Group.tsOutside (g : Group) (u scope : Nat) : Group :=
  let l := g.rels.filter (fun v => v != u)
  if l.isEmpty then g
  else if scope = 0 then g.modTid u (fun t => l.foldl Thread.listed t)
  else
    let all := l.any (fun v => (g.byTid v).sAll)
    g.modTid u (fun t => t.acquireSet all (l ++ l.flatMap (fun v => (g.byTid v).sSet)))
/-- An item received by a thread with an acquire: a queue's entry, a reply, a frame (Table 17-3). -/
def State.received (s : State) (g u scope : Nat) : State :=
  (s.acquires g scope).modG g (fun x => (x.tsFence u).tsOutside u scope)

/-- What a finished acquire at a scope does: the Touchstone's fence from .wg on, the directory's note of it, and stale spans from
.die on where the acquire is one that marks them (R195, R189, R226, R344). (DEDUCED, log 23). -/
def State.acquired (s : State) (g w t scope : Nat) (mark : Bool) : State :=
  (s.acquires g scope).modG g (fun x =>
    let x := if scope = 0 then x else x.tsFence (tid w t)
    if mark ∧ 3 ≤ scope then x.stale else x)

/-! ## Transfer barriers (R192, Table 8-3) -/

/-- Whether a piece of scratch holds an initialised object. -/
def Group.xbValid (g : Group) (off : Nat) : Bool := NSet.has g.xbars (off / 16 * 16)
/-- Whether an access overlaps an initialised object. -/
def Group.xbHit (g : Group) (off n : Nat) : Bool :=
  g.xbars.any (fun o => decide (o < off + n) && decide (off < o + 16))

/-- A waiter's state when the phase `ph` of the object at `off` completes: 2 marks that its wait is over. -/
def Thread.xbDone (t : Thread) (off ph : Nat) : Thread :=
  if t.sched == .blocked (.xbar off ph) then { t with sched := .blocked (.xbar off 2) } else t
/-- The number of threads that wait on an object. -/
def Group.xbWaiters (g : Group) (off : Nat) : Nat :=
  (g.warps.map (fun w => (w.threads.filter (fun t =>
    t.sched == .blocked (.xbar off 0) || t.sched == .blocked (.xbar off 1))).length)).sum
/-- Whether a command in flight names an object (R231, R236). -/
def Group.xbNamed (g : Group) (off : Nat) : Bool :=
  g.warps.any (fun w => w.cqs.any (fun q => q.any (fun e => match e.cmd with
    | .copy _ _ _ (some o) _ _ _ => o == off
    | _ => false)))

/-- A credit of `n` bytes: the object completes as often as ARRIVED reaches EXPECTED (R192). -/
def Group.xbCredit (g : Group) (off n : Nat) : Group :=
  if !g.xbValid off then g
  else
    let ex := g.rd off 4
    let ar := g.rd (off + 4) 4 + n
    let fl := g.rd (off + 8) 4
    if ex = 0 ∨ ar < ex then g.wr (off + 4) 4 ar false
    else
      let k := ar / ex
      let ph := fl % 2
      let ovr := if ar > ex ∨ fl / 2 % 2 = 1 then 2 else 0
      let from' := FMap.get ([], []) g.xbFrom off
      let g := { g with
        warps := g.warps.map (fun (w : Warp) => w.all (fun t => t.xbDone off ph))
        xbFrom := FMap.set ([], []) g.xbFrom off ([], from'.1.foldl NSet.add from'.2) }
      let g := (g.wr (off + 4) 4 (ar % ex) false).wr (off + 8) 4 (fl / 4 * 4 + ovr + (ph + k) % 2) false
      g.wr (off + 12) 4 (g.xbWaiters off) false

/-- An object initialised (R231). -/
def Group.xbInit (g : Group) (off bytes : Nat) : Group :=
  let g := (((g.wr off 4 bytes false).wr (off + 4) 4 0 false).wr (off + 8) 4 4 false).wr (off + 12) 4 0 false
  { g with xbars := NSet.add g.xbars off, xbFrom := FMap.set ([], []) g.xbFrom off ([], []) }.clearTags off 16
/-- A thread recorded among those that arrived in the phase in progress. -/
def Group.xbArrived (g : Group) (off u : Nat) : Group :=
  let x := FMap.get ([], []) g.xbFrom off
  { g with xbFrom := FMap.set ([], []) g.xbFrom off (NSet.add x.1 u, x.2) }
/-- What the acquire of a finished wait adds to the waiter's set: the threads that arrived in completed phases, with the
threads that they had acquired from (R344, R349). (DEDUCED, log 21). -/
def Group.xbAcquire (g : Group) (off u : Nat) : Group :=
  let l := (FMap.get ([], []) g.xbFrom off).2.filter (fun v => v != u)
  let all := l.any (fun v => (g.byTid v).sAll)
  g.modTid u (fun t => t.acquireSet all (l ++ l.flatMap (fun v => (g.byTid v).sSet)))
/-- An object invalidated; an invalid one stays as it is (R231). -/
def Group.xbInval (g : Group) (off : Nat) : Group :=
  if !g.xbValid off then g
  else
    let fl := g.rd (off + 8) 4
    { g.wr (off + 8) 4 (fl / 8 * 8 + fl % 4) false with xbars := NSet.del g.xbars off }.clearTags off 16

/-! ## Scratch loads and stores (R224–R226) -/

/-- The scratch address of a load or store and its poison (R224). -/
def Ins.scrAddr (i : Ins) (t : Thread) : Nat × Bool :=
  let a := t.reg i.a
  let b := t.reg i.b
  (((a.v.toNat + (if i.imm then i.immZ else b.v.toNat)) % 2 ^ 32), a.p || (!i.imm && b.p))

/-- The form of a scratch access: bytes of one value, values, alignment, order and scope. -/
structure ScrForm where
  w : Nat
  n : Nat
  al : Nat
  ord : Nat
  scope : Nat
  deriving DecidableEq, Repr

/-- The form of lds and sts. -/
def Ins.formV (i : Ins) : ScrForm :=
  let w := i.w / 8
  ⟨w, vecN i.f, w * vecN i.f, i.mb 6 2, i.mb 3 3⟩
/-- The form of ldsa and stsr. -/
def Ins.formN (i : Ins) : ScrForm := ⟨4, i.mb 0 3 + 1, 4, 0, 0⟩

/-- The bound and alignment of a scratch access (R26, R224). -/
def Group.scrOk (g : Group) (off n al : Nat) : Bool := off % al == 0 && decide (off + n ≤ g.scrSize)

/-- The check of a scratch store: bound, alignment, and no transfer barrier (R26, R192). Only loads are spared it by a
poisoned address (R26), so it comes before the trap 0x03 of a store's poisoned operands (R33). -/
def chkStore (i : Ins) (f : ScrForm) (s : State) (g w t : Nat) : Cause :=
  let off := (i.scrAddr (s.thr g w t)).1
  let x := s.grp g
  if !x.scrOk off (f.w * f.n) f.al || x.xbHit off (f.w * f.n) then some (0x09, BitVec.ofNat 64 off)
  else none

/-- A value loaded into a register, or a pair, extended by the type's signedness. -/
def loadEff (d w : Nat) (sg : Bool) (v : Nat) (p : Bool) : Eff := wrInt (if w = 8 then 64 else 32) sg d (valOf (8 * w) sg v) p

/-- A read of bytes that lie in an open span: what it reads was written beyond scratch (R347). -/
def Group.spanRead (x : Group) (u off n scope : Nat) : Group :=
  if x.spans.any (fun m => m.2.any (fun sp => !(sp.touched off n).isEmpty)) then x.tsOutside u scope else x

/-- A load with acquire order whose address is poisoned: no access is made (R63), and its acquire fence is (R226). -/
def State.loadNothing (s : State) (f : ScrForm) (g w t : Nat) (e : Eff) : State × Res :=
  if f.ord ≠ 1 then (s, .ok e)
  else match s.acqHold g w t with
    | some y => (s, .stall y)
    | none => (s.acquired g w t f.scope true, .ok e)

/-- The values that a load of `n` values of `w` bytes writes, from register `d` on. -/
def loadEffs (d w n : Nat) (sg : Bool) (val : Nat → Nat × Bool) : Eff :=
  (List.range n).foldl (fun e k => e.and (loadEff (d + k) w sg (val k).1 (val k).2)) Eff.none

/-- How the Touchstone counts an access with acquire order at a scope (R195). -/
def acqCls (scope : Nat) : TsCls := if scope = 0 then .sync else .acq

/-- A scratch access that waits in the bank queues instead of being performed as it issues (R341): registers that it will
write await it, and the flag it names is raised. (DESIGN CHOICE, log 80). -/
def State.later (s : State) (i : Ins) (g w t off bw n : Nat) (act : BankDo) (regs : List Nat) : State :=
  let (s, id) := s.newId
  let flag := i.flagOf (s.thr g w t)
  let s := s.modG g (fun x => { x with bank := x.bank ++ [⟨id, tid w t, off, bw, n, act, flag, s.clock⟩] })
  s.modT g w t (fun x =>
    let x := regs.foldl Thread.await x
    match flag with
    | some n => x.raiseFlag n
    | none => x)

/-- Whether a scratch access made now waits: behind one of its thread to a common word, and where `late` says so (R341).
(DESIGN CHOICE, log 80). -/
def State.waitsBank (s : State) (g w t off n : Nat) : Bool := s.lateNow || (s.grp g).bankHit (tid w t) off n

/-- A scratch load of one thread (R225, R226). -/
def State.load1 (s : State) (i : Ins) (f : ScrForm) (sg : Bool) (g w t : Nat) : State × Res :=
  let (off, pa) := i.scrAddr (s.thr g w t)
  let n := f.w * f.n
  let x := s.grp g
  let regs := loadEffs i.d f.w f.n sg
  if pa then s.loadNothing f g w t (regs (fun _ => (0, true)))
  else if !x.scrOk off n f.al then (s, .trap 0x09 (BitVec.ofNat 64 off))
  else match s.scrHold g w t off n false with
  | some y => (s, .stall y)
  | none =>
    match (if f.ord = 1 then s.acqHold g w t else none) with
    | some y => (s, .stall y)
    | none =>
      let cls := if f.ord = 1 then acqCls f.scope else TsCls.plain
      match x.tsTrap (tid w t) off n false cls with
      | some cv => (s, .trap cv.1 cv.2)
      | none =>
        if f.ord = 1 && x.bankHit (tid w t) off n then (s, .stall .fence)
        else
          let wait := f.ord ≠ 1 && s.waitsBank g w t off n
          let scope := if cls = .acq then f.scope else 0
          let s := (s.modG g (fun x => (x.tsAccess (tid w t) off n true false cls).spanRead (tid w t) off n scope)).popLate
          if wait then
            (s.later i g w t off f.w f.n (.load i.d sg) ((regs (fun _ => (0, false))).g.map (fun r => r.1)), .ok Eff.none)
          else
            let s := if f.ord = 1 then s.acquired g w t f.scope true else s
            (s, .ok (regs (fun k => (x.rd (off + f.w * k) f.w, x.rdPsn (off + f.w * k) f.w))))

/-- Values of `w` bytes stored from an offset on (R225), and the bytes marked dirty in the spans they lie in (R188). -/
def Group.storeVals (x : Group) (off w : Nat) (vals : List Nat) : Group :=
  ((List.range vals.length).foldl (fun x k => x.wr (off + w * k) w (vals.getD k 0) false) x).markDirty off (w * vals.length)

/-- A scratch store of one thread (R225, R226). -/
def State.store1 (s : State) (i : Ins) (f : ScrForm) (g w t : Nat) : State × Res :=
  let th := s.thr g w t
  let off := (i.scrAddr th).1
  let n := f.w * f.n
  let x := s.grp g
  match s.scrHold g w t off n true with
  | some y => (s, .stall y)
  | none =>
    match (if f.ord = 2 then s.relHold g w t f.scope true else none) with
    | some y => (s, .stall y)
    | none =>
      let cls := if f.ord = 2 then TsCls.sync else if f.w < 4 then TsCls.sub else TsCls.plain
      match x.tsTrap (tid w t) off n true cls with
      | some cv => (s, .trap cv.1 cv.2)
      | none =>
        let vals := (List.range f.n).map (fun k => th.raw (if f.w = 8 then 64 else 32) (i.d + k))
        let wait := s.waitsBank g w t off n
        let s := (if f.ord = 2 then s.releasedBy g (tid w t) f.scope else s).popLate
        let tag := fun (x : Group) => x.tsAccess (tid w t) off n false true cls
        if wait then
          let s := if f.ord = 2 then s else s.modG g tag
          ((s.later i g w t off f.w f.n (.store vals (f.ord == 2)) []).stored g w t, .ok Eff.none)
        else ((s.modG g (fun x => (tag x).storeVals off f.w vals)).stored g w t, .ok Eff.none)

/-- After an access of spilled units the slow path is free again, unless a thread of the pack still waits for it (R203). -/
def State.slowDone (s : State) : State :=
  let p := s.pack
  if p.ts.any (fun t => (s.thr p.g p.w t).sched == .stalled .spilled) then s
  else s.modW p.g p.w (fun x => { x with slow := false })

/-- lds and ldsa. -/
def State.doLoad (s : State) (i : Ins) (f : ScrForm) (sg : Bool) : State :=
  (s.inTurn i noChk (fun s g w t => s.load1 i f sg g w t)).slowDone
/-- sts and stsr. -/
def State.doStore (s : State) (i : Ins) (f : ScrForm) : State :=
  (s.inTurn i (chkStore i f) (fun s g w t => s.store1 i f g w t)).slowDone

/-! ## atms (R227) -/

/-- The operations of atms and atmg (R227). -/
def atomOp (op w : Nat) (sg : Bool) (old b c : Nat) : Nat :=
  match op with
  | 0 => (old + b) % 2 ^ w
  | 1 => if valOf w sg old ≤ valOf w sg b then old else b
  | 2 => if valOf w sg old ≤ valOf w sg b then b else old
  | 3 => old &&& b
  | 4 => old ||| b
  | 5 => old ^^^ b
  | 6 => b
  | _ => if old = c then b else old

/-- The check of atms (R227, R192). -/
def chkAtms (i : Ins) (s : State) (g w t : Nat) : Cause :=
  let a := (s.thr g w t).reg i.a
  let x := s.grp g
  let n := i.w / 8
  if !x.scrOk a.v.toNat n n || x.xbHit a.v.toNat n then some (0x09, a.v.setWidth 64)
  else none

/-- An atomic of `n` bytes performed by a thread, by its index (R227): the Touchstone's update, the new value with the old
one's poison, the bytes marked dirty. -/
def Group.atomAt (x : Group) (u off n : Nat) (sg : Bool) (op b c : Nat) (cls : TsCls) : Group :=
  let new := atomOp op (8 * n) sg (x.rd off n) b c
  ((x.tsAccess u off n true true cls).wr off n new (x.rdPsn off n)).markDirty off n

/-! ## Scratch accesses performed after their issue (R341) -/

/-- Whether a waiting access is an atomic. -/
def BankOp.atomic (o : BankOp) : Bool :=
  match o.act with
  | .atom .. => true
  | _ => false
/-- Whether an atomic of a pack waits behind one of a thread before it, to a common word: within a pack the threads act in
ascending index (R227). A pack's accesses issue at one value of the clock. -/
def Group.packHit (x : Group) (w off n now : Nat) : Bool :=
  x.bank.any (fun p => p.atomic && p.at' == now && p.u / 32 == w && (wordsOf off n).any (fun k => p.words.contains k))

/-- Whether a waiting access may be performed: none of its thread to a common word stands before it, nor, for an atomic, one of
its pack (R227), and no sector it touches has to be filled (R186, R188). -/
def Group.bankMay (x : Group) (o : BankOp) : Bool :=
  !x.bank.any (fun p => decide (p.id < o.id) && p.words.any (fun k => o.words.contains k)
    && (p.u == o.u || (p.atomic && o.atomic && p.at' == o.at' && p.u / 32 == o.u / 32)))
  && (x.spanNeed o.off (o.w * o.n)).isNone

/-- The result of a waiting access for its thread: the registers written, and its flag lowered. -/
def Thread.bankDone (t : Thread) (flag : Option Nat) (e : Eff) : Thread :=
  if !t.live then t
  else
    let t := { t.apply e with pend := e.g.foldl (fun l r => NSet.del l r.1) t.pend }
    match flag with
    | some n => t.lowerFlag n
    | none => t

/-- What a waiting access does to the workgroup, and what it delivers. -/
def Group.bankEffect (x : Group) (o : BankOp) : Group × Eff :=
  match o.act with
  | .load d sg => (x, loadEffs d o.w o.n sg (fun k => (x.rd (o.off + o.w * k) o.w, x.rdPsn (o.off + o.w * k) o.w)))
  | .store vals rel =>
    ((if rel then x.tsAccess o.u o.off (o.w * o.n) false true .sync else x).storeVals o.off o.w vals, Eff.none)
  | .atom d sg op b c => (x.atomAt o.u o.off o.w sg op b c .sync, loadEff d o.w false (x.rd o.off o.w) (x.rdPsn o.off o.w))

/-- A waiting scratch access of a workgroup performed. -/
def State.performBank (s : State) (g id : Nat) : State :=
  let x := s.grp g
  match x.bank.find? (fun o => o.id == id) with
  | none => s
  | some o =>
    if !x.alive || x.save == .saved || !x.bankMay o then s
    else
      let r := x.bankEffect o
      s.modG g (fun _ => ({ r.1 with bank := x.bank.filter (fun p => p.id != id) }).modTid o.u (fun t =>
        t.bankDone o.flag r.2))

/-- atms in one thread. -/
def State.atms1 (s : State) (i : Ins) (g w t : Nat) : State × Res :=
  let th := s.thr g w t
  let off := (th.reg i.a).v.toNat
  let n := i.w / 8
  let ord := i.mb 6 2
  let scope := i.mb 3 3
  let x := s.grp g
  match s.scrHold g w t off n true with
  | some y => (s, .stall y)
  | none =>
    match (if ord / 2 % 2 = 1 then s.relHold g w t scope true else none) with
    | some y => (s, .stall y)
    | none =>
      match (if ord % 2 = 1 then s.acqHold g w t else none) with
      | some y => (s, .stall y)
      | none =>
        if ord % 2 = 1 && x.bankHit (tid w t) off n then (s, .stall .fence)
        else
          let b := th.raw i.w i.b
          let c := th.raw i.w i.c
          let cls := if ord % 2 = 1 then acqCls scope else TsCls.sync
          let wait := ord % 2 ≠ 1 && (s.waitsBank g w t off n || x.packHit w off n s.clock)
          let s := (if ord / 2 % 2 = 1 then s.releasedBy g (tid w t) scope else s).popLate
          if wait then
            ((s.later i g w t off n 1 (.atom i.d i.sg (i.mb 0 3) b c) ((loadEff i.d n false 0 false).g.map (fun r => r.1))).stored
              g w t, .ok Eff.none)
          else
            let s := s.modG g (fun x => (x.atomAt (tid w t) off n i.sg (i.mb 0 3) b c cls).spanRead (tid w t) off n
              (if cls = .acq then scope else 0))
            let s := if ord % 2 = 1 then s.acquired g w t scope true else s
            (s.stored g w t, .ok (loadEff i.d n false (x.rd off n) (x.rdPsn off n)))

/-- atms. -/
def State.doAtms (s : State) (i : Ins) : State :=
  (s.inTurn i (chkAtms i) (fun s g w t => s.atms1 i g w t)).slowDone

/-! ## ldw (R228) -/

/-- Bytes of a window from an offset: those beyond the bound read 0 with poison; the address of a byte that cannot be reached. -/
def State.winRead (s : State) (g : Nat) (win : Nat × Nat) (off : Nat) : Nat → Except Nat (List (Byte × Bool))
  | 0 => .ok []
  | n + 1 =>
    let b := if off < win.2 then s.readB (s.grp g).die (s.grp g).vdev (win.1 + off) else .ok (0, true)
    match b with
    | .error _ => .error (win.1 + off)
    | .ok b =>
      match s.winRead g win (off + 1) n with
      | .error a => .error a
      | .ok l => .ok (b :: l)

/-- A read of a window through the core's window cache: what the die has sent to the pages stands before it, its tokens are
taken (R333), and its pages are counted (R321); or the address that it waits at. -/
def State.winFill (s : State) (g : Nat) (win : Nat × Nat) (off n : Nat) :
    Except (State × Nat) (State × List (Byte × Bool)) :=
  let d := (s.grp g).die
  let v := (s.grp g).vdev
  let k := min n (win.2 - off)
  let rs : List Req := if k = 0 then [] else [⟨win.1 + off, k, .read⟩]
  let s := (List.range k).foldl (fun s j => s.drainTo d v (win.1 + off + j)) s
  match s.winRead g win off n with
  | .error a => .error (s, a)
  | .ok l =>
    match s.charge d v rs with
    | .error _ => .error (s.markWait d v rs, win.1 + off)
    | .ok s => .ok (s.touchReqs d v rs, l)

/-- A window bound at launch; size 0 is unbound (Table 18-6). -/
def Group.win (g : Group) (n : Nat) : Nat × Nat := FMap.get (0, 0) g.wins n

/-- ldw in one thread. -/
def State.ldw1 (s : State) (i : Ins) (g w t : Nat) : State × Res :=
  let a := (s.thr g w t).reg i.a
  let n := i.w / 8
  let win := (s.grp g).win (i.mb 0 3)
  if a.p then (s, .ok (loadEff i.d n i.sg 0 true))
  else if win.2 = 0 then (s, .trap 0x08 (BitVec.ofNat 64 (i.mb 0 3)))
  else match s.winFill g win (a.v.toNat + i.immZ) n with
  | .error r => (r.1, .stall (.fetch r.2 0x105))
  | .ok (s, l) => (s, .ok (loadEff i.d n i.sg (leNat (fun k => (l.getD k (0, false)).1) 0 n) (l.any (fun b => b.2))))
/-- ldw. -/
def State.doLdw (s : State) (i : Ins) : State := s.inTurn i noChk (fun s g w t => s.ldw1 i g w t)

/-! ## fence, bar, xbar (R229–R231) -/

/-- fence in one thread. -/
def State.fence1 (s : State) (i : Ins) (g w t : Nat) : State × Res :=
  let ord := i.mb 6 2
  let scope := i.mb 3 3
  match (if ord / 2 % 2 = 1 then s.relHold g w t scope true else none) with
  | some y => (s, .stall y)
  | none =>
    if ord % 2 = 0 then (s.releasedBy g (tid w t) scope, .ok Eff.none)
    else match s.acqHold g w t with
      | some y => (s, .stall y)
      | none =>
        let s := if ord / 2 % 2 = 1 then s.releasedBy g (tid w t) scope else s
        (s.acquired g w t scope true, .ok Eff.none)
/-- fence. -/
def State.doFence (s : State) (i : Ins) : State := s.inTurn i noChk (fun s g w t => s.fence1 i g w t)

/-- A thread blocked at its instruction, with the place where it goes on. -/
def Thread.block (t : Thread) (b : BlockWhy) (words : Nat) : Thread :=
  let l := t.after words
  { t with sched := .blocked b, npc := l.1, ntix := l.2 }

/-- bar in one thread (R230): arrive 1, wait 2, sync 3. -/
def State.bar1 (s : State) (i : Ins) (g w t : Nat) : State :=
  let id := i.mb 0 4
  let mode := i.mb 4 2
  let b := FMap.get Bar.zero (s.grp g).bars id
  if mode = 2 then s.modT g w t (fun x => x.block (.bar id b.phase) i.words)
  else if (s.grp g).bankBusy (tid w t) then s.modT g w t (fun x => x.stall .fence)
  else
    let s := s.stored g w t
    if NSet.has b.arrived (tid w t) then s.modT g w t (fun x => x.block (.barAgain id (decide (mode = 3))) i.words)
    else
      let s := s.modT g w t (fun x => if mode = 3 then x.block (.bar id b.phase) i.words else x.advance i.words)
      s.modG g (fun x =>
        { x with bars := FMap.set Bar.zero x.bars id ⟨b.phase, NSet.add b.arrived (tid w t)⟩ }.completeBars)
/-- bar. -/
def State.doBar (s : State) (i : Ins) : State := s.control i false noChk (fun s g w t => s.bar1 i g w t)

/-- The offset of an xbar object that traps 0x09 (R231). -/
def Group.xbBad (g : Group) (off : Nat) : Bool := off % 16 != 0 || decide (g.scrSize < off + 16)

/-- What holds an access of an xbar object back: a pending acquire of the thread, its own scratch access to the object that
is not performed yet, a spilled unit, a sector to fill (R242, R341, R203, R188). The range scoreboard stalls no xbar
(R191). -/
def State.xbHold (s : State) (g w t off : Nat) : Option StallWhy :=
  let x := s.grp g
  let wp := x.wrp w
  if wp.acqBusy t || x.bankHit (tid w t) off 16 then some .fence
  else if x.unitSpilled off 16 && !wp.slow then some .spilled
  else (x.spanNeed off 16).map (fun ms => .spanFill ms.1 ms.2)

/-- xbar.init (R231). -/
def State.doXbarInit (s : State) (i : Ins) : State :=
  s.once i false (fun s g w t _ =>
    let th := s.thr g w t
    let off := (th.reg i.a).v.toNat
    let n := if i.imm then i.immZ else (th.reg i.b).v.toNat
    let x := s.grp g
    if x.xbBad off || n = 0 || x.xbWaiters off ≠ 0 || x.xbNamed off then .trap 0x09 (BitVec.ofNat 64 off)
    else match s.xbHold g w t off with
    | some y => .stall y
    | none => .done (s.modG g (fun x => x.xbInit off n)))
/-- xbar.inval (R231). -/
def State.doXbarInval (s : State) (i : Ins) : State :=
  s.once i false (fun s g w t _ =>
    let off := ((s.thr g w t).reg i.a).v.toNat
    let x := s.grp g
    if x.xbBad off || (x.xbValid off && (x.xbWaiters off != 0 || x.xbNamed off)) then .trap 0x09 (BitVec.ofNat 64 off)
    else match s.xbHold g w t off with
    | some y => .stall y
    | none => .done (s.modG g (fun x => x.xbInval off)))

/-- The check of xbar.arrive and xbar.wait (R231). -/
def chkXbar (i : Ins) (s : State) (g w t : Nat) : Cause :=
  let a := (s.thr g w t).reg i.a
  let x := s.grp g
  if x.xbBad a.v.toNat || !x.xbValid a.v.toNat then some (0x09, a.v.setWidth 64) else none
/-- xbar.arrive (R231): a synchronising access of the object, then the credit. (DEDUCED, log 21). -/
def State.doXbarArrive (s : State) (i : Ins) : State :=
  (s.inTurn i (chkXbar i) (fun s g w t =>
    let th := s.thr g w t
    let off := (th.reg i.a).v.toNat
    let n := if i.imm then i.immZ else (th.reg i.b).v.toNat
    match (if (s.grp g).bankBusy (tid w t) then some .fence else s.xbHold g w t off) with
    | some y => (s, .stall y)
    | none =>
      (s.modG g (fun x => ((x.tsAccess (tid w t) off 16 true true .sync).xbArrived off (tid w t)).xbCredit off n),
        .ok Eff.none))).slowDone
/-- xbar.wait (R231): the thread waits for the phase current now. -/
def State.doXbarWait (s : State) (i : Ins) : State :=
  (s.control i false (chkXbar i) (fun s g w t =>
    let off := ((s.thr g w t).reg i.a).v.toNat
    match s.xbHold g w t off with
    | some y => s.modT g w t (fun x => x.stall y)
    | none =>
      let ph := (s.grp g).rd (off + 8) 4 % 2
      let s := s.modT g w t (fun x => x.block (.xbar off ph) i.words)
      s.modG g (fun x => x.wr (off + 12) 4 (x.xbWaiters off) false))).slowDone

/-- Whether the phase that a blocked thread waits for has completed. -/
def Group.waitOver (g : Group) (t : Thread) : Bool :=
  match t.sched with
  | .blocked (.bar id ph) => decide (ph < (FMap.get Bar.zero g.bars id).phase)
  | .blocked (.xbar _ ph) => ph == 2
  | _ => false

/-- A thread whose wait is over goes on, with an acquire at .wg (R230, R231). -/
def Group.barWake1 (g : Group) (u : Nat) : Group :=
  let t := g.byTid u
  if !g.waitOver t then g
  else
    let g := match t.sched with
      | .blocked (.xbar off _) => (g.tsAccess u off 16 true false .acq).xbAcquire off u
      | _ => g
    (g.modTid u (fun t => { t with sched := .ready, pc := t.npc, tix := t.ntix })).tsFence u

/-- BARRIER_WAKE: every thread of a workgroup whose barrier wait is over becomes Ready (R230, R231). -/
def execBarrierWake (g : Nat) (s : State) : Host.Outcome State Fault Refusal :=
  .next (s.modG g (fun x => x.liveIds.foldl Group.barWake1 x))

/-! ## The instructions -/

/-- lds (R225). -/
def execLds (f : Fields) (s : State) : Host.Outcome State Fault Refusal :=
  .next (s.doLoad (nat .lds f) (Ins.formV (nat .lds f)) (Ins.sg (nat .lds f)))
/-- lds in Prerin code (R225, R85). -/
def execLdsPrerin (p : PFields) (s : State) : Host.Outcome State Fault Refusal :=
  .next (s.doLoad (pri .lds p) (Ins.formV (pri .lds p)) (Ins.sg (pri .lds p)))
/-- sts (R225). -/
def execSts (f : Fields) (s : State) : Host.Outcome State Fault Refusal :=
  .next (s.doStore (nat .sts f) (Ins.formV (nat .sts f)))
/-- sts in Prerin code (R225, R85). -/
def execStsPrerin (p : PFields) (s : State) : Host.Outcome State Fault Refusal :=
  .next (s.doStore (pri .sts p) (Ins.formV (pri .sts p)))
/-- ldsa (R225). -/
def execLdsa (f : Fields) (s : State) : Host.Outcome State Fault Refusal :=
  .next (s.doLoad (nat .ldsa f) (Ins.formN (nat .ldsa f)) false)
/-- ldsa in Prerin code (R225, R85). -/
def execLdsaPrerin (p : PFields) (s : State) : Host.Outcome State Fault Refusal :=
  .next (s.doLoad (pri .ldsa p) (Ins.formN (pri .ldsa p)) false)
/-- stsr (R225). -/
def execStsr (f : Fields) (s : State) : Host.Outcome State Fault Refusal :=
  .next (s.doStore (nat .stsr f) (Ins.formN (nat .stsr f)))
/-- stsr in Prerin code (R225, R85). -/
def execStsrPrerin (p : PFields) (s : State) : Host.Outcome State Fault Refusal :=
  .next (s.doStore (pri .stsr p) (Ins.formN (pri .stsr p)))
/-- atms (R227). -/
def execAtms (f : Fields) (s : State) : Host.Outcome State Fault Refusal :=
  .next (s.doAtms (nat .atms f))
/-- atms in Prerin code (R227, R85). -/
def execAtmsPrerin (p : PFields) (s : State) : Host.Outcome State Fault Refusal :=
  .next (s.doAtms (pri .atms p))
/-- ldw (R228). -/
def execLdw (f : Fields) (s : State) : Host.Outcome State Fault Refusal :=
  .next (s.doLdw (nat .ldw f))
/-- ldw in Prerin code (R228, R85). -/
def execLdwPrerin (p : PFields) (s : State) : Host.Outcome State Fault Refusal :=
  .next (s.doLdw (pri .ldw p))
/-- fence (R229). -/
def execFence (f : Fields) (s : State) : Host.Outcome State Fault Refusal :=
  .next (s.doFence (nat .fence f))
/-- fence in Prerin code (R229, R85). -/
def execFencePrerin (p : PFields) (s : State) : Host.Outcome State Fault Refusal :=
  .next (s.doFence (pri .fence p))
/-- bar (R230). -/
def execBar (f : Fields) (s : State) : Host.Outcome State Fault Refusal :=
  .next (s.doBar (nat .bar f))
/-- bar in Prerin code (R230, R85). -/
def execBarPrerin (p : PFields) (s : State) : Host.Outcome State Fault Refusal :=
  .next (s.doBar (pri .bar p))
/-- xbarInit (R231). -/
def execXbarInit (f : Fields) (s : State) : Host.Outcome State Fault Refusal :=
  .next (s.doXbarInit (nat .xbarInit f))
/-- xbarInit in Prerin code (R231, R85). -/
def execXbarInitPrerin (p : PFields) (s : State) : Host.Outcome State Fault Refusal :=
  .next (s.doXbarInit (pri .xbarInit p))
/-- xbarArrive (R231). -/
def execXbarArrive (f : Fields) (s : State) : Host.Outcome State Fault Refusal :=
  .next (s.doXbarArrive (nat .xbarArrive f))
/-- xbarArrive in Prerin code (R231, R85). -/
def execXbarArrivePrerin (p : PFields) (s : State) : Host.Outcome State Fault Refusal :=
  .next (s.doXbarArrive (pri .xbarArrive p))
/-- xbarWait (R231). -/
def execXbarWait (f : Fields) (s : State) : Host.Outcome State Fault Refusal :=
  .next (s.doXbarWait (nat .xbarWait f))
/-- xbarWait in Prerin code (R231, R85). -/
def execXbarWaitPrerin (p : PFields) (s : State) : Host.Outcome State Fault Refusal :=
  .next (s.doXbarWait (pri .xbarWait p))
/-- xbarInval (R231). -/
def execXbarInval (f : Fields) (s : State) : Host.Outcome State Fault Refusal :=
  .next (s.doXbarInval (nat .xbarInval f))
/-- xbarInval in Prerin code (R231, R85). -/
def execXbarInvalPrerin (p : PFields) (s : State) : Host.Outcome State Fault Refusal :=
  .next (s.doXbarInval (pri .xbarInval p))

end Sys2Proof.Machine
end

