-- ==== Sys2Proof/Machine/Shape.lean ====
section
/-! DEFINITION. Shape registers: fields, validity, element addresses, and the shape instructions (09_core_instructions.md
R232–R234, R245). -/
namespace Sys2Proof.Machine

/-! ## Fields (Table 9-2) -/

/-- Word `k` of a shape register. -/
def Shape.wd (h : Shape) (k : Nat) : Nat := (FMap.get 0 h.w k).toNat
/-- The base. -/
def Shape.base (h : Shape) : Nat := h.wd 0 + h.wd 1 * 2 ^ 32
/-- The space code. -/
def Shape.space (h : Shape) : Nat := h.wd 2
/-- The element width in bits. -/
def Shape.width (h : Shape) : Nat := h.wd 3 % 256
/-- The element format code. -/
def Shape.fmt (h : Shape) : Nat := h.wd 3 / 256 % 16
/-- The extent of dimension `k`. -/
def Shape.dim (h : Shape) (k : Nat) : Nat := h.wd (4 + k)
/-- The stride of dimension `k`; that of dimension 0 is 1. -/
def Shape.str (h : Shape) (k : Nat) : Nat := if k = 0 then 1 else h.wd (7 + k)
/-- The box extent of dimension `k`. -/
def Shape.box (h : Shape) (k : Nat) : Nat := h.wd (11 + k / 2) / 65536 ^ (k % 2) % 65536
/-- The origin of dimension `k`. -/
def Shape.org (h : Shape) (k : Nat) : Int := (BitVec.ofNat 16 (h.wd (13 + k / 2) / 65536 ^ (k % 2))).toInt
/-- The swizzle applies in the scratch and scale spaces alone (R234). -/
def Shape.swz (h : Shape) : Bool := h.wd 15 % 16 == 1 && (h.space == 0 || h.space == 2)
/-- The scale-memory offset. -/
def Shape.sofs (h : Shape) : Nat := h.wd 15 / 65536
/-- The bits of an element read out of bounds. -/
def Shape.pad (h : Shape) : Nat := if h.wd 15 / 16 % 4 = 1 then 2 ^ h.width - 1 else 0

/-- An index in four dimensions. -/
structure Ix where
  s0 : Nat
  s1 : Nat
  s2 : Nat
  s3 : Nat
  deriving DecidableEq, Repr

/-- The byte address of an element, and which nibble of the byte a 4-bit element takes (R234, R41). -/
def Shape.addr (h : Shape) (i : Ix) : Nat × Nat :=
  let n := i.s0 + i.s1 * h.str 1 + i.s2 * h.str 2 + i.s3 * h.str 3
  let o := n * h.width / 8
  let o := if h.swz then o ^^^ (o / 128 % 8 * 16) else o
  (h.base + o, n % 2)
/-- The bytes that an element takes. -/
def Shape.nbytes (h : Shape) : Nat := max 1 (h.width / 8)

/-- The indices of the box: dimension 0 fastest (R235). -/
def Shape.boxIx (h : Shape) : List Ix :=
  (List.range (h.box 3)).flatMap (fun j3 =>
    (List.range (h.box 2)).flatMap (fun j2 =>
      (List.range (h.box 1)).flatMap (fun j1 =>
        (List.range (h.box 0)).map (fun j0 => ⟨j0, j1, j2, j3⟩))))

/-- The element at a position of the box, where it lies within the dims (R235); a row of an index list stands in place of
the origin and position of dimension 1 (R237). -/
def Shape.atRow (h : Shape) (j : Ix) (row : Option Nat) : Option Ix :=
  let p := fun (k v : Nat) => h.org k + (v : Int)
  let p1 : Int := match row with
    | some r => r
    | none => p 1 j.s1
  let ok := fun (k : Nat) (x : Int) => decide (0 ≤ x) && decide (x < h.dim k)
  if ok 0 (p 0 j.s0) && ok 1 p1 && ok 2 (p 2 j.s2) && ok 3 (p 3 j.s3) then
    some ⟨(p 0 j.s0).toNat, p1.toNat, (p 2 j.s2).toNat, (p 3 j.s3).toNat⟩
  else none

/-- The element at a position of the box, where it lies within the dims (R235). -/
def Shape.at' (h : Shape) (j : Ix) : Option Ix := h.atRow j none

/-- The elements of the box that lie within the dims. -/
def Shape.elems (h : Shape) : List Ix := h.boxIx.filterMap h.at'

/-- The smallest interval that holds every byte of some elements; empty where there are none (R191). -/
def Shape.hull (h : Shape) (l : List Ix) : Nat × Nat :=
  l.foldl (fun r i =>
    let a := (h.addr i).1
    if r.1 = r.2 then (a, a + h.nbytes) else (min r.1 a, max r.2 (a + h.nbytes))) (0, 0)

/-- The lowest byte at or beyond a limit that some elements occupy (R235). -/
def Shape.firstOut (h : Shape) (lim : Nat) (l : List Ix) : Option Nat :=
  minBy id ((l.filter (fun i => decide (lim < (h.addr i).1 + h.nbytes))).map (fun i => max lim (h.addr i).1))

/-- Whether a shape is valid (R233, Table 9-2). -/
def Shape.valid (h : Shape) : Bool :=
  (h.space ≤ 2 || (8 ≤ h.space && h.space ≤ 15))
  && (h.space == 1 || h.wd 1 == 0)
  && h.wd 3 / 4096 == 0 && [4, 8, 16, 32].contains h.width
  && [0, 1, 2, 3].all (fun k => 1 ≤ h.dim k && 1 ≤ h.box k)
  && h.wd 15 / 64 % 1024 == 0 && h.wd 15 / 16 % 4 ≤ 1 && h.wd 15 % 16 ≤ 1
  && (h.width != 4 || [h.wd 0, h.wd 8, h.wd 9, h.wd 10, h.box 0, h.wd 13].all (fun x => x % 2 == 0))
  && h.box 0 * h.box 1 * h.box 2 * h.box 3 * h.width ≤ 8 * 2 ^ 20
  && (h.space != 1 || (h.hull h.elems).2 ≤ 2 ^ 52)

/-- Whether two shapes have equal box extents. -/
def Shape.sameBox (a b : Shape) : Bool := [0, 1, 2, 3].all (fun k => a.box k == b.box k)

/-! ## Shape registers of a warp -/

/-- A shape register. -/
def Warp.shape (w : Warp) (n : Nat) : Shape := FMap.get Shape.zero w.shapes n
/-- A shape register written. -/
def Warp.setShape (w : Warp) (n : Nat) (h : Shape) : Warp := { w with shapes := FMap.set Shape.zero w.shapes n h }
/-- A shape word written. -/
def Shape.setWd (h : Shape) (k : Nat) (v : Word) : Shape := { h with w := FMap.set 0 h.w k v }

/-- The trap of poisoned shape registers (R245): the lowest number. -/
def Warp.shapeTrap (w : Warp) (hs : List Nat) : Cause :=
  (minBy id (hs.filter (fun n => (w.shape n).p))).map (fun n => (0x03, BitVec.ofNat 64 (0x200 + n)))

/-- What holds a scratch access of a pack-once instruction: in one of its threads an access to a common word that is not
performed yet, or what holds a load or store of it. -/
def State.packHold (s : State) (g w : Nat) (go : List Nat) (off n : Nat) (store : Bool) : Option StallWhy :=
  go.findSome? (fun t => if (s.grp g).bankHit (tid w t) off n then some .fence else s.scrHold g w t off n store)

/-- hld (R245); with a poisoned address it makes no access (R26, R63). (DEDUCED, log 18). (DESIGN CHOICE, log 111). -/
def State.doHld (s : State) (i : Ins) : State :=
  (s.once i false (fun s g w t go =>
    let a := (s.thr g w t).reg i.a
    let off := (a.v.toNat + i.immZ) % 2 ^ 32
    let x := s.grp g
    let put := fun (s : State) (b : Nat → Byte) (p : Bool) =>
      s.modW g w (fun y => y.setShape i.d
        ((List.range 16).foldl (fun h k => h.setWd k (BitVec.ofNat 32 (leNat b (4 * k) 4))) ⟨[], p⟩))
    if a.p then .done (put s (fun _ => 0) true)
    else if i.f.m.getLsbD 3 then
      let win := x.win (i.mb 0 3)
      if win.2 = 0 then .trap 0x08 (BitVec.ofNat 64 (i.mb 0 3))
      else match s.winFill g win off 64 with
        | .error r => .stall (.fetch r.2 0x200)
        | .ok (s, l) => .done (put s (fun k => (l.getD k (0, false)).1) (l.any (fun b => b.2)))
    else if !x.scrOk off 64 16 then .trap 0x09 (BitVec.ofNat 64 off)
    else match s.packHold g w go off 64 false with
    | some y => .stall y
    | none =>
      match x.tsTrap (tid w t) off 64 false .plain with
      | some cv => .trap cv.1 cv.2
      | none =>
        let s := s.modG g (fun x => x.tsAccess (tid w t) off 64 true false .plain)
        .done (put s (fun k => FMap.get 0 x.scr (off + k)) (x.rdPsn off 64)))).slowDone

/-- hst (R245, R64). (DEDUCED, log 17). -/
def State.doHst (s : State) (i : Ins) : State :=
  (s.once i false (fun s g w t go =>
    let off := (((s.thr g w t).reg i.a).v.toNat + i.immZ) % 2 ^ 32
    let x := s.grp g
    let h := (x.wrp w).shape i.d
    if !x.scrOk off 64 16 || x.xbHit off 64 then .trap 0x09 (BitVec.ofNat 64 off)
    else match (x.wrp w).shapeTrap [i.d] with
    | some cv => .trap cv.1 cv.2
    | none =>
      match s.packHold g w go off 64 true with
      | some y => .stall y
      | none =>
        match x.tsTrap (tid w t) off 64 true .plain with
        | some cv => .trap cv.1 cv.2
        | none =>
          let put := fun (x : Group) (k : Nat) => x.wr (off + 4 * k) 4 (h.wd k) false
          let s := s.modG g (fun x =>
            ((List.range 16).foldl put (x.tsAccess (tid w t) off 64 false true .plain)).markDirty off 64)
          .done (s.stored g w t))).slowDone

/-- hset (R245). -/
def State.doHset (s : State) (i : Ins) : State :=
  s.once i false (fun s g w t _ =>
    let a := (s.thr g w t).reg i.a
    .done (s.modW g w (fun y =>
      let h := y.shape i.d
      y.setShape i.d { h.setWd (i.mb 0 4) a.v with p := h.p || a.p })))
/-- hget (R245), in each thread. -/
def laneHget (i : Ins) (w : Warp) : Res :=
  let h := w.shape i.a
  .ok (Eff.reg i.d ⟨BitVec.ofNat 32 (h.wd (i.mb 0 4)), h.p⟩)
/-- hcpy (R245). -/
def State.doHcpy (s : State) (i : Ins) : State :=
  s.once i false (fun s g w _ _ => .done (s.modW g w (fun y => y.setShape i.d (y.shape i.a))))
/-- hadv (R245). -/
def State.doHadv (s : State) (i : Ins) : State :=
  s.once i false (fun s g w t _ =>
    let a := (s.thr g w t).reg i.a
    let step := if i.imm then i.immZ else a.v.toNat
    let k := i.mb 0 2
    .done (s.modW g w (fun y =>
      let h := y.shape i.d
      let old := h.wd (13 + k / 2)
      let v := ((h.org k + (step : Int)) % 65536).toNat
      let new := if k % 2 = 0 then old / 65536 * 65536 + v else v * 65536 + old % 65536
      y.setShape i.d { h.setWd (13 + k / 2) (BitVec.ofNat 32 new) with p := h.p || (!i.imm && a.p) })))

/-! ## The instructions -/

/-- hld (R245). -/
def execHld (f : Fields) (s : State) : Host.Outcome State Fault Refusal :=
  .next (s.doHld (nat .hld f))
/-- hld in Prerin code (R245, R85). -/
def execHldPrerin (p : PFields) (s : State) : Host.Outcome State Fault Refusal :=
  .next (s.doHld (pri .hld p))
/-- hst (R245). -/
def execHst (f : Fields) (s : State) : Host.Outcome State Fault Refusal :=
  .next (s.doHst (nat .hst f))
/-- hst in Prerin code (R245, R85). -/
def execHstPrerin (p : PFields) (s : State) : Host.Outcome State Fault Refusal :=
  .next (s.doHst (pri .hst p))
/-- hset (R245). -/
def execHset (f : Fields) (s : State) : Host.Outcome State Fault Refusal :=
  .next (s.doHset (nat .hset f))
/-- hset in Prerin code (R245, R85). -/
def execHsetPrerin (p : PFields) (s : State) : Host.Outcome State Fault Refusal :=
  .next (s.doHset (pri .hset p))
/-- hget (R245). -/
def execHget (f : Fields) (s : State) : Host.Outcome State Fault Refusal :=
  .next (s.lanes (nat .hget f) (fun w _ _ => laneHget (nat .hget f) w))
/-- hget in Prerin code (R245, R85). -/
def execHgetPrerin (p : PFields) (s : State) : Host.Outcome State Fault Refusal :=
  .next (s.lanes (pri .hget p) (fun w _ _ => laneHget (pri .hget p) w))
/-- hcpy (R245). -/
def execHcpy (f : Fields) (s : State) : Host.Outcome State Fault Refusal :=
  .next (s.doHcpy (nat .hcpy f))
/-- hcpy in Prerin code (R245, R85). -/
def execHcpyPrerin (p : PFields) (s : State) : Host.Outcome State Fault Refusal :=
  .next (s.doHcpy (pri .hcpy p))
/-- hadv (R245). -/
def execHadv (f : Fields) (s : State) : Host.Outcome State Fault Refusal :=
  .next (s.doHadv (nat .hadv f))
/-- hadv in Prerin code (R245, R85). -/
def execHadvPrerin (p : PFields) (s : State) : Host.Outcome State Fault Refusal :=
  .next (s.doHadv (pri .hadv p))

end Sys2Proof.Machine
end

