-- ==== Sys2Proof/Machine/Queue.lean ====
section
/-! DEFINITION. Copy queues: how an entry begins, writes, credits, faults and retires (09_core_instructions.md R235–R243,
16_die.md R326, R333–R336). -/
namespace Sys2Proof.Machine

/-! ## Entries of a queue (R239) -/

/-- A copy queue. -/
def State.cq (s : State) (q : QRef) : List Entry := (s.wrp q.g q.w).cqs.getD q.q []
/-- The state with a copy queue changed. -/
def State.modCq (s : State) (q : QRef) (f : List Entry → List Entry) : State :=
  s.modW q.g q.w (fun x => { x with cqs := modAt x.cqs q.q f })
/-- The state with the head entry of a queue changed. -/
def State.modHead (s : State) (q : QRef) (f : Entry → Entry) : State := s.modCq q (fun l => modAt l 0 f)
/-- Whether a queue has no free entry. -/
def Warp.full (w : Warp) (q : Nat) : Bool := decide (16 ≤ (w.cqs.getD q []).length)

/-! ## Bytes as a command reads them -/

/-- A byte of a space as a command of a workgroup in a quadrant reads it, or the global address and the fault (R235, R248,
R26). -/
def State.engByte (s : State) (g quad sp a : Nat) : Except (Nat × Nat) (Byte × Bool) :=
  let x := s.grp g
  let glob := fun (va : Nat) =>
    match s.readB x.die x.vdev va with
    | .ok b => .ok b
    | .error k => .error (va, k)
  match sp with
  | 0 => .ok (FMap.get 0 x.scr a, NSet.has x.scrP (a / 4))
  | 1 => glob a
  | 2 =>
    let m := FMap.get ScaleMem.zero x.scales quad
    .ok (FMap.get 0 m.b a, NSet.has m.p (a / 4))
  | _ =>
    let w := x.win (sp - 8)
    if a < w.2 then glob (w.1 + a) else .ok (0, true)

/-- A little-endian value of `n` bytes of a space. -/
def State.engVal (s : State) (g quad sp a : Nat) : Nat → Except (Nat × Nat) (Nat × Bool)
  | 0 => .ok (0, false)
  | n + 1 =>
    match s.engByte g quad sp a with
    | .error e => .error e
    | .ok b =>
      match s.engVal g quad sp (a + 1) n with
      | .error e => .error e
      | .ok r => .ok (b.1.toNat + 256 * r.1, b.2 || r.2)

/-- An element of a shape as a command reads it (R234). -/
def State.elem (s : State) (g quad : Nat) (h : Shape) (i : Ix) : Except (Nat × Nat) (Nat × Bool) :=
  match s.engVal g quad h.space (h.addr i).1 h.nbytes with
  | .error e => .error e
  | .ok r => .ok (if h.width = 4 then laneOf r.1 4 (h.addr i).2 else r.1, r.2)

/-! ## Copies (R235, R237, R238) -/

/-- One position of the box: the source element, the destination element, and whether its index word is poisoned. -/
structure Move where
  src : Option Ix
  dst : Option Ix
  ip : Bool
  deriving DecidableEq, Repr

/-- The positions of a copy in the order of R235, with the index list's rows (R237). -/
def copyMoves (op : Op) (d a : Shape) (idx : List (Nat × Bool)) : List Move :=
  a.boxIx.map (fun j =>
    let row := idx.getD j.s1 (0, false)
    ⟨a.atRow j (if op = .cpyg then some row.1 else none), d.atRow j (if op = .cpys then some row.1 else none), row.2⟩)

/-- The index list of cpyg and cpys: box1 words of scratch (R237). -/
def Group.indexList (x : Group) (op : Op) (off n : Nat) : List (Nat × Bool) :=
  if op = .cpyg ∨ op = .cpys then (List.range n).map (fun k => (x.rd (off + 4 * k) 4, x.rdPsn (off + 4 * k) 4)) else []

/-- The values of every position: all reads are made before any write (R235). -/
def State.moveVals (s : State) (g quad : Nat) (a : Shape) : List Move → Except (Nat × Nat) (List (Ix × Nat × Bool))
  | [] => .ok []
  | m :: l =>
    let v : Except (Nat × Nat) (Nat × Bool) := match m.src with
      | none => .ok (a.pad, false)
      | some i => s.elem g quad a i
    match v with
    | .error e => .error e
    | .ok v =>
      match s.moveVals g quad a l with
      | .error e => .error e
      | .ok r => .ok (match m.dst with
        | none => r
        | some d => (d, v.1, v.2 || m.ip) :: r)

/-- The address space of a destination. -/
def spaceOf (n : Nat) : Space :=
  match n with
  | 0 => .scr
  | 1 => .glob
  | _ => .scale

/-- What a command leaves in each half byte, by twice the address and the half: later positions win (R235). -/
def nibbles (h : Shape) (vals : List (Ix × Nat × Bool)) : FMap (Option (Nat × Bool)) :=
  vals.foldl (fun m x =>
    let a := h.addr x.1
    if h.width = 4 then FMap.set none m (2 * a.1 + a.2) (some (x.2.1 % 16, x.2.2))
    else (List.range (2 * h.nbytes)).foldl (fun m k => FMap.set none m (2 * a.1 + k) (some (laneOf x.2.1 4 k, x.2.2))) m) []

/-- What the writes of a command do to the poison of the unit of `u` bytes that a byte lies in (R62): they set it where
one of them is poisoned, and clear it, with its last byte, where they cover the whole of it. -/
def unitPsn (m : FMap (Option (Nat × Bool))) (u a : Nat) : Psn :=
  let l := (List.range (2 * u)).map (fun k => FMap.get none m (2 * (a / u * u) + k))
  if l.any (fun x => match x with
    | some y => y.2
    | none => false) then .set
  else if a % u = u - 1 ∧ l.all Option.isSome then .clear
  else .keep

/-- The byte writes of a command, in ascending address. -/
def byteWrites (h : Shape) (vals : List (Ix × Nat × Bool)) : List Wr :=
  let m := nibbles h vals
  let u := if h.space = 1 then 32 else 4
  let half := fun (a k : Nat) => FMap.get none m (2 * a + k)
  ((m.map (fun x => x.1 / 2)).eraseDups).map (fun a =>
    let v := fun (k : Nat) => ((half a k).map (fun x => x.1)).getD 0
    let mk := fun (k : Nat) => if (half a k).isSome then 15 else 0
    .byte (spaceOf h.space) a (BitVec.ofNat 8 (v 0 + 16 * v 1)) (BitVec.ofNat 8 (mk 0 + 16 * mk 1)) (unitPsn m u a))

/-- The element writes of cpyr, in the order of R235. -/
def redWrites (h : Shape) (op ty : Nat) (vals : List (Ix × Nat × Bool)) : List Wr :=
  vals.map (fun x => .red (spaceOf h.space) (h.addr x.1).1 op ty h.width x.2.1 x.2.2)

/-- The combination of cpyr (R238). -/
def redOp (op ty w old v : Nat) : Nat :=
  let f := fun (f : Fmt) =>
    match op with
    | 0 => (f.sum 0 [f.decode old, f.decode v] [f.decode old, f.decode v]).1
    | 1 => f.pick false old v
    | _ => f.pick true old v
  match ty with
  | 2 => f fp32
  | 3 => f bf16
  | 4 => f fp16
  | _ => atomOp op w (ty == 0) old v 0

/-! ## Performing writes -/

/-- The bytes of a write. -/
def Wr.size : Wr → Nat
  | .byte .. => 1
  | .red _ _ _ _ w _ _ => w / 8
/-- The first address of a write. -/
def Wr.addr : Wr → Nat
  | .byte _ a _ _ _ => a
  | .red _ a _ _ _ _ _ => a
/-- The space of a write. -/
def Wr.space : Wr → Space
  | .byte sp .. => sp
  | .red sp .. => sp

/-- A byte of scratch or scale memory under a mask. -/
def maskByte (old b mask : Byte) : Byte := (old &&& ~~~mask) ||| (b &&& mask)
/-- The poison set of words after a write. -/
def psnPut (l : NSet) (k : Nat) (p : Psn) : NSet :=
  match p with
  | .keep => l
  | .set => NSet.add l k
  | .clear => NSet.del l k
/-- A byte written into one allocation of scale memory. -/
def ScaleMem.put (m : ScaleMem) (a : Nat) (b mask : Byte) (p : Psn) : ScaleMem :=
  ⟨FMap.set 0 m.b a (maskByte (FMap.get 0 m.b a) b mask), psnPut m.p (a / 4) p⟩

/-- The quadrants in which a workgroup has warps. -/
def Group.quadsOf (x : Group) : List Nat := (List.range 4).filter (fun k => x.warps.any (fun w => w.quad == k))

/-- A byte written into scale memory: every allocation of the workgroup receives it (R248). -/
def Group.putScale (x : Group) (a : Nat) (b mask : Byte) (p : Psn) : Group :=
  let one := fun (m : FMap ScaleMem) (k : Nat) =>
    FMap.set ScaleMem.zero m k ((FMap.get ScaleMem.zero m k).put a b mask p)
  { x with scales := x.quadsOf.foldl one x.scales }

/-- A byte written into scratch by an engine: the word's tag becomes empty (R194). -/
def Group.putScr (x : Group) (a : Nat) (b mask : Byte) (p : Psn) : Group :=
  { x with scr := FMap.set 0 x.scr a (maskByte (FMap.get 0 x.scr a) b mask), scrP := psnPut x.scrP (a / 4) p }.clearTags a 1

/-- Bytes written to global memory for a command of a workgroup, on their way to another die where they are `late`, or
the address and the fault. -/
def State.putBytes (s : State) (x : Group) (va : Nat) (p : Bool) (n : Need) (late : Bool) : List Byte → Except (Nat × Nat) State
  | [] => .ok s
  | b :: l =>
    match s.writeB x.die x.vdev va b 0xFF (psnOf p) n late with
    | .error k => .error (va, k)
    | .ok s => s.putBytes x (va + 1) p n late l

/-- A write or atomic of a command that has gone to a peer page: its owner has still to acknowledge it (R394). -/
def State.sent (s : State) (g id va : Nat) : State :=
  let x := s.grp g
  match s.locate x.die x.vdev va .write with
  | .ok (.peer part _) =>
    let u : Unack := ⟨g, id, x.die, va, part, (s.linkFor part (pageOf va)).getD 12⟩
    if s.fab.unack.any (fun k => k.g == g && k.id == id && k.die == x.die && k.part == part && k.link == u.link) then s
    else { s with fab := { s.fab with unack := s.fab.unack ++ [u] } }
  | _ => s

/-- What an engine reads at the home of some bytes stands behind what its die has sent there (R239, R346). -/
def State.drainBytes (s : State) (d v va n : Nat) : State := (List.range n).foldl (fun s k => s.drainTo d v (va + k)) s

/-- One write of a command performed, or the global address and the fault. -/
def State.performWr (s : State) (g : Nat) (w : Wr) : Except (Nat × Nat) State :=
  let x := s.grp g
  match w with
  | .byte .scr a b m p => .ok (s.modG g (fun x => x.putScr a b m p))
  | .byte .scale a b m p => .ok (s.modG g (fun x => x.putScale a b m p))
  | .byte .glob a b m p =>
    match s.writeB x.die x.vdev a b m p .write s.lateNow with
    | .error k => .error (a, k)
    | .ok s => .ok s
  | .red .glob a op ty w v p =>
    match s.locate x.die x.vdev a .atomic with
    | .error k => .error (a, k)
    | .ok _ =>
      let s := s.drainBytes x.die x.vdev a (w / 8)
      match s.engVal g 0 1 a (w / 8) with
      | .error e => .error e
      | .ok old =>
        s.putBytes x a (p || old.2) .atomic false (leBytes (redOp op ty w old.1 v.toNat) (w / 8))
  | .red _ a op ty w v p =>
    let n := w / 8
    .ok (s.modG g (fun x => (x.wr a n (redOp op ty w (x.rd a n) v.toNat) (p || x.rdPsn a n)).clearTags a n))

/-- Whether a global byte lies on a replicated page (R326). -/
def State.onRepl (s : State) (d v va : Nat) : Bool :=
  match s.leaf d v va with
  | .ok l => !entPeer l.1 && entRepl l.1
  | .error _ => false

/-- Whether a write stands behind a matrix operation issued before its command, under whose source entries or scale interval
it has a byte (R251). -/
def Group.behindMatrix (x : Group) (id : Nat) (w : Wr) : Bool :=
  let hit := fun (lo hi : Nat) => decide (lo < w.addr + w.size) && decide (w.addr < hi)
  match w.space with
  | .glob => false
  | .scr => x.warps.any (fun y => y.mops.any (fun m =>
      decide (m.id < id) && x.board.any (fun e => e.owner == m.id && !e.dst && hit e.lo e.hi)))
  | .scale => x.warps.any (fun y => y.mops.any (fun m =>
      decide (m.id < id) && (match m.scl with
        | some iv => hit iv.1 iv.2
        | none => false)))

/-- The word that a write lies in. -/
def Wr.word (w : Wr) : Nat := w.addr / 4
/-- Whether two writes of one command have a byte in common. -/
def Wr.meets (w y : Wr) : Bool := decide (y.addr < w.addr + w.size) && decide (w.addr < y.addr + y.size)
/-- A byte write that does `p` to the poison of its word. -/
def Wr.withPsn (w : Wr) (p : Psn) : Wr :=
  match w with
  | .byte sp a b m _ => .byte sp a b m p
  | .red .. => w
/-- Whether a write is the one that clears the poison of its word. -/
def Wr.clears (w : Wr) : Bool :=
  match w with
  | .byte _ _ _ _ p => p == .clear
  | .red .. => false

/-- Writes of a head entry performed one after another, `n` of them and on to the end of the last one's word, which no
access finds in part (R186). A write that waits behind a matrix operation is passed over, with the later ones to its bytes
(R251, R269), and the last of its word that is passed over clears the word's poison where all of them together do (R62); any other that cannot be made now ends the run. `repl` takes those on replicated pages, and them alone;
`last` is the word written last (its number + 1), `kept` what was passed over. The state, the writes left and the bytes
performed. -/
def State.performAll (s : State) (g id : Nat) (repl : Bool) (n last : Nat) : List Wr → List Wr → Nat → State × List Wr × Nat
  | [], kept, k => (s, kept, k)
  | w :: l, kept, k =>
    let x := s.grp g
    if n = 0 ∧ w.word + 1 ≠ last then (s, kept ++ w :: l, k)
    else
      let may := match w.space with
        | .glob => s.onRepl x.die x.vdev w.addr == repl && !s.absentPage x.vdev (pageOf w.addr)
        | .scr => !repl && (x.spanNeed w.addr w.size).isNone
        | .scale => !repl
      if x.behindMatrix id w || kept.any w.meets then s.performAll g id repl n last l (kept ++ [w]) k
      else if !may then (s, kept ++ w :: l, k)
      else
        let rest := w.clears && kept.any (fun y => y.word == w.word)
        let kept := if rest then
            (modFirst (fun (y : Wr) => y.word == w.word) (fun y => y.withPsn .clear) kept.reverse).reverse
          else kept
        match s.performWr g (if rest then w.withPsn .keep else w) with
        | .ok s' =>
          let s' := if w.space = .glob then s'.sent g id w.addr else s'
          let s' := if (w.addr + w.size) % 4 = 0 then s'.popLate else s'
          s'.performAll g id repl (n - 1) (w.word + 1) l kept (k + w.size)
        | .error _ => (s, kept ++ w :: l, k)

/-! ## What an entry reads when it begins (R269, R342) -/

/-- The global accesses of an entry, for tokens and touches. -/
def State.entryReqs (s : State) (g : Nat) (e : Entry) : List Req :=
  let x := s.grp g
  match e.cmd with
  | .copy op d a _ idx _ _ =>
    let mv := copyMoves op d a (x.indexList op idx (a.box 1))
    let rd := if a.space = 1 then mv.filterMap (fun m => m.src.map (fun i => ⟨(a.addr i).1, a.nbytes, Need.read⟩))
      else if 8 ≤ a.space then
        let win := x.win (a.space - 8)
        (mv.filterMap (fun m => m.src.map (fun i => (a.addr i).1))).filterMap (fun o =>
          if o < win.2 then some ⟨win.1 + o, min a.nbytes (win.2 - o), Need.read⟩ else none)
      else []
    let wr := if d.space = 1 then mv.filterMap (fun m => m.dst.map (fun i => ⟨(d.addr i).1, d.nbytes, if op = .cpyr then Need.atomic else Need.write⟩))
      else []
    rd ++ wr
  | .ldg l _ ty _ _ => l.map (fun c => ⟨c.a.toNat, tyWidth ty / 8, Need.read⟩)
  | .stg l ty _ _ => l.map (fun c => ⟨c.a.toNat, tyWidth ty / 8, Need.write⟩)
  | .atmg l _ ty _ _ => l.map (fun c => ⟨c.a.toNat, tyWidth ty / 8, Need.atomic⟩)
  | .join _ => []
  | .pref _ _ => []

/-- One thread's access of an ldg, stg or atmg entry: the state, and the value it returns with its poison. A store may take
the path to another die (R344); a load or an atomic is performed at its home. -/
def State.access (s : State) (g : Nat) (e : Entry) (c : Acc) : Except (Nat × Nat) (State × Nat × Bool) :=
  let x := s.grp g
  let put := fun (s : State) (n v : Nat) (p : Bool) (need : Need) (late : Bool) =>
    match s.putBytes x c.a.toNat p need late (leBytes v n) with
    | .error e => Except.error e
    | .ok s => Except.ok (s.sent g e.id c.a.toNat)
  match e.cmd with
  | .ldg _ _ ty _ _ =>
    let s := s.drainBytes x.die x.vdev c.a.toNat (tyWidth ty / 8)
    match s.engVal g 0 1 c.a.toNat (tyWidth ty / 8) with
    | .error e => .error e
    | .ok v => .ok (s, v.1, v.2)
  | .stg _ ty _ _ =>
    match put s (tyWidth ty / 8) c.x.toNat false .write s.lateNow with
    | .error e => .error e
    | .ok s => .ok (s, 0, false)
  | .atmg _ _ ty op _ =>
    match s.locate x.die x.vdev c.a.toNat .atomic with
    | .error k => .error (c.a.toNat, k)
    | .ok _ =>
      let s := s.drainBytes x.die x.vdev c.a.toNat (tyWidth ty / 8)
      match s.engVal g 0 1 c.a.toNat (tyWidth ty / 8) with
      | .error e => .error e
      | .ok old =>
        match put s (tyWidth ty / 8) (atomOp op (tyWidth ty) (tySigned ty) old.1 c.x.toNat c.y.toNat) old.2 .atomic false with
        | .error e => .error e
        | .ok s => .ok (s, old.1, old.2)
  | _ => .ok (s, 0, false)

/-- The registers that an access delivers at retirement. -/
def Entry.delivers (e : Entry) (c : Acc) (v : Nat) (p : Bool) : List (Nat × Nat × Val) :=
  let wr := fun (d ty : Nat) => (wrInt (if tyWidth ty = 64 then 64 else 32) (tySigned ty) d
    (valOf (tyWidth ty) (tySigned ty) v) p).g.map (fun x => (c.t, x.1, x.2))
  match e.cmd with
  | .ldg _ d ty _ _ => wr d ty
  | .atmg _ d ty _ _ => wr d ty
  | _ => []

/-- Accesses performed one after another while each may be. -/
def State.accesses (s : State) (g : Nat) (repl : Bool) (e : Entry) : List Acc → State × List Acc × List (Nat × Nat × Val) × Nat
  | [] => (s, [], [], 0)
  | c :: l =>
    let x := s.grp g
    let reads := match e.cmd with
      | .ldg .. => true
      | _ => false
    let ok := (reads || s.onRepl x.die x.vdev c.a.toNat == repl) && !s.absentPage x.vdev (pageOf c.a.toNat)
    if !ok then (s, c :: l, [], 0)
    else match s.access g e c with
      | .error _ => (s, c :: l, [], 0)
      | .ok (s, v, p) =>
        let n := match e.cmd with
          | .ldg _ _ ty _ _ => tyWidth ty / 8
          | .stg _ ty _ _ => tyWidth ty / 8
          | .atmg _ _ ty _ _ => tyWidth ty / 8
          | _ => 0
        let r := s.popLate.accesses g repl e l
        (r.1, r.2.1, e.delivers c v p ++ r.2.2.1, n + r.2.2.2)

/-- The command with the accesses it has still to perform. -/
def Cmd.setAccs (c : Cmd) (l : List Acc) : Cmd :=
  match c with
  | .ldg _ d ty ord scope => .ldg l d ty ord scope
  | .stg _ ty ord scope => .stg l ty ord scope
  | .atmg _ d ty op scope => .atmg l d ty op scope
  | c => c
/-- The accesses that a command has still to perform. -/
def Cmd.accs : Cmd → List Acc
  | .ldg l _ _ _ _ => l
  | .stg l _ _ _ => l
  | .atmg l _ _ _ _ => l
  | .pref l _ => l
  | _ => []

/-- The state with the source entries of a command gone: every byte has been read (R191). -/
def Group.readDone (x : Group) (id : Nat) : Group := { x with board := x.board.filter (fun e => e.owner != id || e.dst) }
/-- The state with every scoreboard entry of a command gone. -/
def Group.boardDone (x : Group) (id : Nat) : Group := { x with board := x.board.filter (fun e => e.owner != id) }

/-- The bytes of scratch that a copy reads: its source elements and its index list. -/
def Group.copyReads (x : Group) (op : Op) (d a : Shape) (idx : Nat) : List (Nat × Nat) :=
  let il := x.indexList op idx (a.box 1)
  (if a.space = 0 then (copyMoves op d a il).filterMap (fun m => m.src.map (fun i => ((a.addr i).1, a.nbytes))) else [])
  ++ (if il.isEmpty then [] else [(idx, 4 * il.length)])

/-- The sector that the command at the head of a queue must have filled before it goes on: that of a byte it reads when it
begins, or of the byte it writes next (R188, R194). (DEDUCED, log 83). -/
def Group.entryNeed (x : Group) (e : Entry) : Option (Nat × Nat) :=
  if x.spans.isEmpty then none
  else match e.st, e.cmd with
  | .queued, .copy op d a _ idx _ _ => (x.copyReads op d a idx).findSome? (fun r => x.spanNeed r.1 r.2)
  | .begun, _ =>
    (e.todo.find? (fun w => w.space == .scr && !x.behindMatrix e.id w)).bind (fun w => x.spanNeed w.addr w.size)
  | _, _ => none

/-- The bytes of scratch that a matrix operation reads or writes, as ranges (R254, R260–R262). -/
def MCmd.ranges (c : MCmd) : List (Nat × Nat) :=
  let els := fun (h : Shape) => h.elems.map (fun i => ((h.addr i).1, h.nbytes))
  match c with
  | .tile _ asrc _ _ _ sa sb _ _ _ => (if asrc then [] else els sa) ++ els sb
  | .cvt dst _ _ _ _ => els dst
  | .ld _ off _ => [(off, 32784)]
  | .ex _ off _ => [(off, 32784)]
/-- The sector that a matrix operation must have filled before it goes on: of the bytes that it touches, the first that is
invalid or stale (R188, R194). (DEDUCED, log 83). -/
def Group.mopNeed (x : Group) (c : MCmd) : Option (Nat × Nat) :=
  if x.spans.isEmpty then none else c.ranges.findSome? (fun r => x.spanNeed r.1 r.2)

/-- Whether a scratch access that a thread of the command issued before it is still to be performed: one that touches scratch
waits for every one of them (R342), and so does a release (R242). -/
def Group.behindBank (x : Group) (w : Nat) (e : Entry) : Bool :=
  let mine := x.bank.filter (fun o => decide (o.id < e.id) && e.ts.any (fun t => tid w t == o.u))
  !mine.isEmpty && (match e.cmd with
  | .copy .. => x.board.any (fun b => b.owner == e.id)
  | .stg _ _ ord _ => ord == 2
  | .atmg _ _ _ _ scope => scope != 0
  | _ => false)

/-- The sectors that accesses which no thread stands Stalled for wait to have filled (R188): accesses that have issued, the
commands at the heads of the queues, the pending matrix operations. -/
def Group.needs (x : Group) : List (Nat × Nat) :=
  if x.spans.isEmpty then []
  else
    x.bank.filterMap (fun o => x.spanNeed o.off (o.w * o.n))
    ++ x.warps.flatMap (fun w =>
      w.cqs.filterMap (fun q => q.head?.bind x.entryNeed)
      ++ w.mops.filterMap (fun m => x.mopNeed m.cmd))

/-- The scope at which the command of an entry releases (R241), 0 where it does not. -/
def Cmd.relScope : Cmd → Nat
  | .stg _ _ ord scope => if ord = 2 then scope else 0
  | .atmg _ _ _ _ scope => scope
  | _ => 0

/-- What an engine read of scratch does to the tags: a read by the thread that supplied the operands (R194). -/
def Group.engRead (x : Group) (u : Nat) (words : List Nat) : Group := words.foldl (fun x k => x.tsUpdate u k true false .plain) x

/-- A copy begins: its reads are made and its writes are planned. -/
def State.beginCopy (s : State) (q : QRef) (e : Entry) (op : Op) (d a : Shape) (idx rop rty : Nat) : Option State :=
  let x := s.grp q.g
  let quad := (x.wrp q.w).quad
  let il := x.indexList op idx (a.box 1)
  let mv := copyMoves op d a il
  match s.moveVals q.g quad a mv with
  | .error _ => none
  | .ok vals =>
    let todo := if op = .cpyr then redWrites d rop rty vals else byteWrites d vals
    let sup := tid q.w (e.ts.headD 0)
    let rdw := (x.copyReads op d a idx).flatMap (fun r => wordsOf r.1 r.2)
    let outer := a.space = 1 ∨ 8 ≤ a.space
    let s := s.modG q.g (fun x =>
      let x := (x.engRead sup rdw.eraseDups).readDone e.id
      if outer then x.tsOutside sup 0 else x)
    some (s.modHead q (fun e => { e with st := .begun, todo := todo }))

/-- Whether a page that the entry's accesses name is absent after a migration (R402). -/
def State.entryAbsent (s : State) (v : Nat) (rs : List Req) : Option Nat :=
  (rs.flatMap (fun r => [pageOf r.va, pageOf (r.va + r.n - 1)])).find? (fun p => s.absentPage v p)

/-- Whether a workgroup's commands may begin: while it is Running or Pending; in Draining only what has begun goes on
(R209). -/
def Group.mayBegin (x : Group) (e : Entry) : Bool :=
  x.save == .running || x.save == .pending || (x.save == .draining && decide (0 < e.prog))

/-- The pages of accesses counted for the head entry, each once for a command (R321). -/
def State.touchHead (s : State) (q : QRef) (rs : List Req) : State :=
  match s.cq q with
  | [] => s
  | e :: _ =>
    let x := s.grp q.g
    let keys := (s.pagesOf x.die x.vdev rs).map (fun k => k.1)
    (s.touchNew x.die x.vdev rs e.seen).modHead q (fun e => { e with seen := keys.foldl NSet.add e.seen })

/-- Single accesses of the head entry performed, as many of those asked for as can be made now: their tokens are charged
(R334), their pages counted (R321), and a release at its scope comes before the first (R242). None where none can be
made. -/
def State.runAccs (s : State) (q : QRef) (e : Entry) (repl : Bool) (n : Nat) : Option State :=
  let x := s.grp q.g
  let ask := e.cmd.accs.take n
  let rel := e.cmd.relScope
  let s := if e.prog = 0 then e.ts.foldl (fun s t => s.releasedBy q.g (tid q.w t) rel) s else s
  let r := s.accesses q.g repl e ask
  let done := ask.length - r.2.1.length
  if (done = 0 ∧ !e.cmd.accs.isEmpty) ∨ (e.prog = 0 ∧ s.unsent q.g rel) then none
  else
    let rs := (s.entryReqs q.g e).take done
    match r.1.charge x.die x.vdev rs with
    | .error _ => none
    | .ok s =>
      let left := e.cmd.accs.drop done
      some ((s.touchHead q rs).modHead q (fun e => { e with
        cmd := e.cmd.setAccs left
        regs := e.regs ++ r.2.2.1
        prog := e.prog + r.2.2.2
        st := if left.isEmpty then .begun else .queued }))

/-- The entry at the head of a queue begins (R239): its tokens are charged (R334), its pages counted (R321), its sources
read (R342) and its single accesses performed, as far as no page faults. None where nothing can be done. -/
def State.beginEntry (s : State) (q : QRef) : Option State :=
  match s.cq q with
  | [] => none
  | e :: _ =>
    let x := s.grp q.g
    if e.st ≠ .queued || !x.mayBegin e || x.behindBank q.w e || (x.entryNeed e).isSome then none
    else
      match e.cmd with
      | .join _ => some (s.modHead q (fun e => { e with st := .begun }))
      | .pref l n =>
        let pages := (l.flatMap (fun c =>
          (List.range (pageOf (c.a.toNat + n - 1) + 1 - pageOf c.a.toNat)).map (fun k => pageOf c.a.toNat + k))).eraseDups
        let s := if n = 0 then s else pages.foldl (fun s p => s.bring x.die x.vdev p 0 false) s
        some (s.modHead q (fun e => { e with st := .begun }))
      | .copy op d a _ idx rop rty =>
        let rs := s.entryReqs q.g e
        if (s.entryAbsent x.vdev rs).isSome then none
        else match s.charge x.die x.vdev rs with
          | .error _ => none
          | .ok s =>
            let s := rs.foldl (fun s r => if r.need = .read then s.drainBytes x.die x.vdev r.va r.n else s) s
            (s.beginCopy q e op d a idx rop rty).map (fun s => s.touchHead q rs)
      | c => s.runAccs q e false (s.pieces c.accs.length)

/-- QUEUE_ENTRY_BEGIN (R239, R269). -/
def execQueueEntryBegin (q : QRef) (s : State) : Host.Outcome State Fault Refusal :=
  .next ((s.beginEntry q).getD (match s.cq q with
    | e :: _ =>
      if e.st = .queued then s.markWait (s.grp q.g).die (s.grp q.g).vdev (s.entryReqs q.g e) else s
    | [] => s))

/-! ## Writes and credits (R192, R236, R326) -/

/-- The transfer barrier that an entry names, and whether it is credited byte by byte. -/
def Entry.xb (e : Entry) : Option (Nat × Bool) :=
  match e.cmd with
  | .copy _ d _ (some o) _ _ _ => some (o, d.space != 1)
  | _ => none

/-- `n` of the head entry's writes performed, and on to the end of a word, with the credit of each; none where none can be.
(DEDUCED, log 26). -/
def State.creditEntry (s : State) (q : QRef) (n : Nat) (repl : Bool) : Option State :=
  match s.cq q with
  | [] => none
  | e :: _ =>
    if e.st ≠ .begun ∨ n = 0 then none
    else
      let r := s.performAll q.g e.id repl n 0 e.todo [] 0
      if r.2.2 = 0 then none
      else
        let s := r.1.popLate.modHead q (fun e => { e with
          todo := r.2.1
          prog := e.prog + r.2.2 })
        let s := match e.xb with
          | some (o, true) => s.modG q.g (fun x => x.xbCredit o r.2.2)
          | _ => s
        some (if r.2.1.isEmpty then s.modG q.g (fun x => x.boardDone e.id) else s)

/-- COPY_CREDIT (R192, R236). -/
def execCopyCredit (q : QRef) (n : Nat) (s : State) : Host.Outcome State Fault Refusal :=
  .next ((s.creditEntry q n false).getD s)

/-- The writes at the head of an entry that lie on one page. -/
def pageRun (l : List Wr) : Nat :=
  match l with
  | [] => 0
  | w :: _ => (l.takeWhile (fun x => x.space == .glob && pageOf x.addr == pageOf w.addr)).length

/-- One commit of the head entry on a replicated page: of a single access, or of the run of writes on the page (R326). -/
def State.commitEntry (s : State) (q : QRef) : Option State :=
  match s.cq q with
  | [] => none
  | e :: _ =>
    let x := s.grp q.g
    if e.st = .begun then s.creditEntry q (pageRun e.todo) true
    else if e.st ≠ .queued || !x.mayBegin e then none
    else if x.behindBank q.w e then none
    else match e.cmd with
      | .ldg .. => none
      | _ => if e.cmd.accs.isEmpty then none else s.runAccs q e true 1

/-- REPLICA_COMMIT (R326): the lines are locked on every copy, every copy is updated and they are unlocked. -/
def execReplicaCommit (q : QRef) (s : State) : Host.Outcome State Fault Refusal :=
  .next ((s.commitEntry q).getD s)

/-! ## Retirement (R239, R240, R81) -/

/-- A result delivered to a register of a thread: a reader waits no longer. -/
def Thread.deliver (t : Thread) (r : Nat) (v : Val) : Thread :=
  if t.live then { t.apply (Eff.reg r v) with pend := NSet.del t.pend r } else t

/-- The results of an entry delivered. -/
def Warp.deliverAll (w : Warp) (l : List (Nat × Nat × Val)) : Warp :=
  l.foldl (fun w x => w.mod x.1 (fun t => t.deliver x.2.1 x.2.2)) w

/-- Whether the head entry may retire: it has begun, written all it has to write, every write to a peer page is
acknowledged (R394), and where it is a join, its sisters
are at the heads of their queues (R240). -/
def State.canRetire (s : State) (q : QRef) : Bool :=
  match s.cq q with
  | [] => false
  | e :: _ =>
    match e.cmd with
    | .join mask => (List.range 4).all (fun k => !mask.getLsbD k || (match s.cq ⟨q.g, q.w, k⟩ with
        | [] => false
        | h :: _ => h.id == e.id))
    | _ => e.st == .begun && e.todo.isEmpty && !s.fab.unack.any (fun u => u.g == q.g && u.id == e.id)

/-- What the return of a value read beyond scratch does for its threads: with an acquire the Touchstone orders those that have
released beyond scratch, and the directory takes note of it (R242, R344, R349). -/
def State.returned (s : State) (q : QRef) (e : Entry) : State :=
  let us := (e.regs.map (fun r => tid q.w r.1)).eraseDups
  let acq := fun (s : State) (scope : Nat) => us.foldl (fun s u => (s.acquires q.g scope).modG q.g (fun x => x.tsOutside u scope)) s
  match e.cmd with
  | .ldg _ _ _ ord scope => acq s (if ord = 1 then scope else 0)
  | .atmg _ _ _ _ scope => acq s scope
  | _ => s

/-- The head entry of a queue retires. -/
def State.retire1 (s : State) (q : QRef) : State :=
  match s.cq q with
  | [] => s
  | e :: _ =>
    let s := s.modCq q List.tail
    let s := (s.modW q.g q.w (fun w => w.deliverAll e.regs)).returned q e
    let s := s.lowerFlags q.g q.w e.ts e.flag
    let s := match e.xb with
      | some (o, false) => s.modG q.g (fun x => x.xbCredit o e.prog)
      | _ => s
    s.modG q.g (fun x => x.boardDone e.id)

/-- The head entry retires, a join with all its sisters, and a workgroup that has ended is
released when its last command retires (R30). -/
def State.retire (s : State) (q : QRef) : State :=
  if !s.canRetire q then s
  else
    let qs := match s.cq q with
      | e :: _ => (match e.cmd with
        | .join mask => ((List.range 4).filter (fun k => mask.getLsbD k)).map (fun k => (⟨q.g, q.w, k⟩ : QRef))
        | _ => [q])
      | [] => []
    (qs.foldl State.retire1 s).settle q.g

/-- COMMAND_RETIRE (R239). -/
def execCommandRetire (q : QRef) (s : State) : Host.Outcome State Fault Refusal := .next (s.retire q)

/-! ## Engine faults (R335–R337) -/

/-- The first error of a list of accesses: its first failing byte and the kind. -/
def State.reqFault (s : State) (d v : Nat) (rs : List Req) : Option (Nat × Nat × Need) :=
  rs.findSome? (fun r => (List.range r.n).findSome? (fun k =>
    match s.locate d v (r.va + k) r.need with
    | .error e => some (r.va + k, e, r.need)
    | .ok _ => none))

/-- The fault that stops the entry at the head of a queue; one that has only to be acknowledged waits for its part (R394,
R410). -/
def State.entryFault (s : State) (q : QRef) : Option (Nat × Nat × Need) :=
  match s.cq q with
  | [] => none
  | e :: _ =>
    let x := s.grp q.g
    match e.st with
    | .queued =>
      let rs := s.entryReqs q.g e
      (match e.cmd with
       | .copy .. => s.reqFault x.die x.vdev (rs.filter (fun r => r.need == .read))
       | _ => s.reqFault x.die x.vdev (rs.take 1))
    | .begun =>
      (match e.todo.find? (fun w => w.space == .glob) with
       | some w =>
         s.reqFault x.die x.vdev [⟨w.addr, w.size, match w with
           | .red .. => Need.atomic
           | _ => Need.write⟩]
       | none => (s.fab.unack.find? (fun u => u.g == q.g && u.id == e.id && !s.reachable u.part)).map (fun u =>
           (u.va, 3, Need.write)))
    | .faulted _ => none

/-- A violation that a failing access is, besides its fault (R337): protection, a frame that another device owns, or a Shelf
write without a key slot. -/
def State.violOf (s : State) (d v va : Nat) (n : Need) : Option (Bool × Nat × DWord) :=
  match s.leaf d v va with
  | .error _ => none
  | .ok l =>
    if (n ≠ .read ∧ !entW l.1) ∨ (n = .atomic ∧ !entAtm l.1) then some (false, 2, BitVec.ofNat 64 va)
    else if entPeer l.1 then some (false, 2, BitVec.ofNat 64 va)
    else
      let pa := s.paOf d v va l
      if s.owner pa = v ∨ s.owner pa = 256 + v ∨ v = 0 then some (true, 6, BitVec.ofNat 64 pa) else some (true, 5, BitVec.ofNat 64 pa)

/-- A fault record written by a die (R335): a full fault queue takes none. A violation is logged by the die that finds it
(R337): of a physical access the one that holds the frame, to which an engine of another die is that die. -/
def State.addFault (s : State) (d : Nat) (r : FaultRec) (n : Need) : State :=
  let s := s.modD d (fun x => { x with faults := x.faults ++ [r] })
  if r.kind ≠ 2 then s
  else match s.violOf d r.vdev r.va.toNat n with
    | some (phys, k, a) =>
      let h := if phys then paDie a.toNat else d
      s.violate h phys k r.vdev (if h = d then r.core else 0x60 + d) a
    | none => s

/-- The record of a fault of a warp's access. -/
def State.faultRec (s : State) (tag g w : Nat) (va kind opc queue prog : Nat) (src : FaultSrc) : FaultRec :=
  let x := s.grp g
  let y := x.wrp w
  ⟨BitVec.ofNat 64 va, tag, opc, queue, x.vdev, kind, prog, x.die, x.core, y.quad, y.slot,
   ((s.regions[x.region]?).map (fun r => r.addr)).getD 0, src, [], false⟩

/-- Whether a die's fault queue has room (R336). -/
def State.faultRoom (s : State) (d : Nat) : Bool := decide ((s.die d).faults.length < 256)

/-- What an access made for an instruction does: `opc` is its opcode, and 1,024 more where it writes. -/
def fetchNeed (opc : Nat) : Need := if 1024 ≤ opc then .write else .read

/-- Whether a fault record of a span's sector stands: its fill and its write-back wait for the fault handler (R336). -/
def State.spanHeld (s : State) (g m sec : Nat) : Bool :=
  s.dies.any (fun d => d.faults.any (fun f => match f.src with
    | .span t m' k => t.g == g && m' == m && k == sec
    | _ => false))
/-! ## The slots of hardware queues (R281) -/

/-- What a number that names no queue reads as. -/
def HwQueue.void : HwQueue := ⟨0, 0, 0, 0, 0, 0, 0, .closed, 4, 0, 0, 0, []⟩
/-- A queue by its number. -/
def State.queue (s : State) (q : Nat) : HwQueue := s.queues.getD q HwQueue.void
/-- The slot address of a ticket (R281). -/
def HwQueue.slot (q : HwQueue) (t : Word) : Nat := q.ring + 64 * (t.toNat % 2 ^ q.log2)
/-- Whether the queue is full (R282). -/
def HwQueue.isFull (q : HwQueue) : Bool := (q.wrx - q.rdx).toNat == 2 ^ q.log2


/-- The slot that a blocked thread's request would read or write now: device, die, address and opcode, 1,024 more where it
writes (R282, R283). -/
def State.slotWanted (s : State) (t : TRef) : Option (Nat × Nat × Nat × Nat) :=
  s.queues.findSome? (fun q => (q.waits.find? (fun w => w.t == t)).bind (fun w =>
    match w.ask with
    | .rsv _ => none
    | .enq _ _ => if q.st ≠ .opened ∨ q.isFull then none else some (q.vdev, q.hdie, q.slot q.wrx, Op.qenq.code + 1024)
    | .deq _ => if q.rdx = q.wrx then none else some (q.vdev, q.hdie, q.slot q.rdx, Op.qdeq.code)))

/-- What a thread waits to have read or written for its instruction: device, die, address and opcode; the slot, where its
request waits at a queue (R306). -/
def State.fetchWants (s : State) (t : TRef) : Option (Nat × Nat × Nat × Nat) :=
  match (s.thr t.g t.w t.t).sched with
  | .stalled (.fetch va opc) => some ((s.grp t.g).vdev, (s.grp t.g).die, va, opc)
  | .blocked (.queue _) => s.slotWanted t
  | _ => none

/-- Whether a fault record of what a thread waits to have read stands: the thread waits for the fault handler (R336). -/
def State.fetchHeld (s : State) (t : TRef) : Bool :=
  match s.fetchWants t with
  | none => false
  | some k => s.dies.any (fun d => d.faults.any (fun f => f.src == .fetch t && f.va.toNat == k.2.2.1))

/-- The fault that holds a thread of the machine. -/
def State.fetchFault (s : State) (t : TRef) : Option (Nat × Nat × Nat) :=
  match s.fetchWants t with
  | none => none
  | some (v, d, va, opc) =>
    match s.locate d v va (fetchNeed opc) with
    | .error k => if s.fetchHeld t then none else some (va, k, opc)
    | .ok _ => none

/-- The fault that holds the fill of a span's sector, or the write-back of one (R188, R189). -/
def State.spanFault (s : State) (t : TRef) (m sec : Nat) : Option (Nat × Nat × Need) :=
  let x := s.grp t.g
  match x.span m with
  | none => none
  | some sp =>
    if s.spanHeld t.g m sec then none
    else
      let dirty := (sp.sec sec).dirty
      let base := sp.va + 1024 * sec
      match (s.thr t.g t.w t.t).sched with
      | .stalled (.spanFill m' sec') =>
        if m' = m ∧ sec' = sec then s.reqFault x.die x.vdev [⟨base, 1024, .read⟩] else none
      | .stalled (.writeBack _) => s.reqFault x.die x.vdev (dirty.map (fun b => ⟨base + b, 1, .write⟩))
      | _ =>
        if x.liveIds.isEmpty then s.reqFault x.die x.vdev (dirty.map (fun b => ⟨base + b, 1, .write⟩))
        else if x.needs.contains (m, sec) then s.reqFault x.die x.vdev [⟨base, 1024, .read⟩] else none

/-- Whether an access waits for another part: unreachable, or a page not yet brought. (DEDUCED, log 27). -/
def farKind (k : Nat) : Bool := k == 3 || k == 6
/-- The kind that a fault record gives (R335, R403). -/
def faultKind (k : Nat) : Nat := if k = 6 then 3 else k

/-- An engine fault of a source that is due (R335); `far` takes those of an unreachable part, which come only when the
route has been lost for 2,250,000 cc (R403). -/
def State.engineFault (s : State) (src : FaultSrc) (far : Bool) : State :=
  let (s', tag) := s.newId
  match src with
  | .queue q id =>
    let x := s.grp q.g
    if (s.cq q).head?.map (fun e => e.id) ≠ some id || !s.faultRoom x.die then s
    else match s.entryFault q, s.cq q with
      | some (va, k, n), e :: _ =>
        if farKind k != far then s
        else
          let r := s.faultRec tag q.g q.w va (faultKind k) e.opc q.q e.prog src
          (s'.modHead q (fun e => { e with st := .faulted tag })).addFault x.die r n
      | _, _ => s
  | .fetch t =>
    let x := s.grp t.g
    (match s.fetchFault t with
     | some (va, k, opc) =>
       if farKind k != far || !s.faultRoom x.die then s
       else s'.addFault x.die (s.faultRec tag t.g t.w va (faultKind k) (opc % 1024) 0 0 src) (fetchNeed opc)
     | none => s)
  | .span t m sec =>
    let x := s.grp t.g
    (match s.spanFault t m sec with
     | some (va, k, n) =>
       if farKind k != far || !s.faultRoom x.die then s
       else s'.addFault x.die (s.faultRec tag t.g t.w va (faultKind k) 0x188 0 0 src) n
     | none => s)
  | .task id =>
    (match s.tasks.find? (fun k => k.id == id) with
     | none => s
     | some k =>
       if (s.die k.die).faults.any (fun f => f.src == src) || !s.faultRoom k.die then s
       else match s.reqFault k.die k.vdev [⟨k.desc.toNat, 64, .read⟩] with
         | some (va, kind, n) =>
           if farKind kind != far then s
           else
             let reg := ((s.regions[k.region]?).map (fun r => r.addr)).getD 0
             s'.addFault k.die ⟨BitVec.ofNat 64 va, tag, 0x280, 0, k.vdev, faultKind kind, 0, k.die, 4 * k.cl, 0, 0, reg, src,
               k.args.flatMap (fun a => leBytes a.v.toNat 4), false⟩ n
         | none => s)

/-- ENGINE_FAULT (R335). -/
def execEngineFault (src : FaultSrc) (s : State) : Host.Outcome State Fault Refusal := .next (s.engineFault src false)

end Sys2Proof.Machine
end

