-- ==== Sys2Proof/Machine/Engine.lean ====
section
/-! DEFINITION. Engine commands as they issue, spans, and the map unit's fills and write-backs (09_core_instructions.md
R235–R244, 08_core.md R187–R191, 16_die.md R328). -/
namespace Sys2Proof.Machine

/-! ## The range scoreboard (R191, R174) -/

/-- The scoreboard entries in use on a core. -/
def State.boardUsed (s : State) (d c : Nat) : Nat :=
  ((s.groups.filter (fun x => x.alive && x.save != .saved && x.die == d && x.core == c)).map (fun x => x.board.length)).sum
/-- Whether a workgroup may add `n` entries: 16 of its own, 64 on its core. -/
def State.boardRoom (s : State) (g n : Nat) : Bool :=
  let x := s.grp g
  decide (x.board.length + n ≤ 16) && decide (s.boardUsed x.die x.core + n ≤ 64)
/-- Entries added for a command. -/
def Group.record (x : Group) (l : List SbEntry) : Group := { x with board := x.board ++ l }

/-- An entry for an interval, none where it is empty. -/
def sbOf (id : Nat) (dst : Bool) (iv : Nat × Nat) : List SbEntry := if iv.1 < iv.2 then [⟨id, iv.1, iv.2, dst⟩] else []

/-! ## Copies at issue (R235–R238) -/

/-- The rows that an index may name, as far as they can lie below a limit and the first beyond it. -/
def Shape.rows (h : Shape) (lim : Nat) : List Nat :=
  if h.str 1 = 0 then [0] else List.range (min (h.dim 1) (lim * 8 / (h.str 1 * h.width) + 257))

/-- The elements of a side of a copy: those of its box within the dims, or where an index list names its rows, those of
every row that an index may name. -/
def Shape.sideElems (h : Shape) (indexed : Bool) (lim : Nat) : List Ix :=
  if indexed then
    (h.rows lim).flatMap (fun r => (h.boxIx.filter (fun j => j.s1 == 0)).filterMap (fun j => h.atRow j (some r)))
  else h.elems

/-- The end of a space's allocation (R235); none where the space has no bound that is checked. -/
def Group.limit (x : Group) (space : Nat) : Option Nat :=
  match space with
  | 0 => some x.scrSize
  | 2 => some (min x.scaleSize 65536)
  | _ => none

/-- The first byte outside of one side of a copy. -/
def Group.sideOut (x : Group) (h : Shape) (indexed : Bool) : Option Nat :=
  match x.limit h.space with
  | none => none
  | some lim => h.firstOut lim (h.sideElems indexed lim)
/-- The scratch interval of one side of a copy; empty for another space. -/
def Group.sideHull (x : Group) (h : Shape) (indexed : Bool) : Nat × Nat :=
  if h.space = 0 then h.hull (h.sideElems indexed x.scrSize) else (0, 0)

/-- The width of an element type of cpyr (R238). -/
def redWidth (ty : Nat) : Nat := if ty = 3 ∨ ty = 4 then 16 else 32

/-- What a copy instruction carries. -/
structure CopyOp where
  d : Shape
  a : Shape
  xb : Option Nat
  idx : Nat
  rop : Nat
  rty : Nat
  deriving DecidableEq, Repr

/-- The operands of a copy: shape registers, barrier and index list of the thread that supplies them. -/
def Ins.copyOp (i : Ins) (y : Warp) (t : Thread) : CopyOp :=
  ⟨y.shape i.d, y.shape i.a, if i.f.m.getLsbD 2 then some (t.reg i.b).v.toNat else none,
   if i.op = .cpyg ∨ i.op = .cpys then (t.reg i.c).v.toNat else 0, i.mb 4 3, i.mb 8 3⟩

/-- The checks of a copy at issue (R233, R235–R238, R245). (DEDUCED, log 25). (DESIGN CHOICE, log 110). -/
def Group.copyTrap (x : Group) (y : Warp) (i : Ins) (c : CopyOp) : Cause :=
  let ixd := i.op == .cpys
  let ixa := i.op == .cpyg
  let il := ixd || ixa
  if !c.d.valid || !c.a.valid || !c.d.sameBox c.a || c.d.width != c.a.width || decide (8 ≤ c.d.space)
      || (i.op == .cpyr && (c.d.space == 2 || redWidth c.rty != c.d.width)) then some (0x01, i.word)
  else if 8 ≤ c.a.space ∧ (x.win (c.a.space - 8)).2 = 0 then some (0x08, BitVec.ofNat 64 (c.a.space - 8))
  else match x.sideOut c.d ixd with
  | some o => some (0x09, BitVec.ofNat 64 o)
  | none =>
    match x.sideOut c.a ixa with
    | some o => some (0x09, BitVec.ofNat 64 o)
    | none =>
      if il && (c.idx % 4 != 0 || decide (x.scrSize < c.idx + 4 * c.a.box 1)) then some (0x09, BitVec.ofNat 64 c.idx)
      else match c.xb with
      | some o => if x.xbBad o || !x.xbValid o then some (0x09, BitVec.ofNat 64 o) else y.shapeTrap [i.d, i.a]
      | none => y.shapeTrap [i.d, i.a]

/-- The threads of the pack in issue that its command counts as active (R229). -/
def State.packAct (s : State) : List Nat := s.pack.ts.filter (fun t => (s.thr s.pack.g s.pack.w t).ready)

/-- A command entered in a queue; the threads that issued it tell their detectors (R178). -/
def State.post (s : State) (g w q : Nat) (e : Entry) : State :=
  let s := s.modCq ⟨g, w, q⟩ (fun l => l ++ [e])
  e.ts.foldl (fun s t => s.modT g w t (fun x => { x with spinCh := true })) s

/-- cpy, cpyg, cpys and cpyr (R235–R238). -/
def State.doCopy (s : State) (i : Ins) : State :=
  s.once i true (fun s g w t go =>
    let x := s.grp g
    let y := x.wrp w
    let c := i.copyOp y (s.thr g w t)
    match x.copyTrap y i c with
    | some cv => .trap cv.1 cv.2
    | none =>
      if y.full (i.mb 0 2) then .stall .queueFull
      else
        let (s', id) := s.newId
        let list := if i.op = .cpyg ∨ i.op = .cpys then sbOf id false (c.idx, c.idx + 4 * c.a.box 1) else []
        let sb := sbOf id true (x.sideHull c.d (i.op == .cpys)) ++ (sbOf id false (x.sideHull c.a (i.op == .cpyg)) ++ list)
        if !s.boardRoom g sb.length then .stall .scoreboard
        else
          let e : Entry := ⟨id, .copy i.op c.d c.a c.xb c.idx c.rop c.rty, i.op.code, go, s.packAct,
            i.flagOf (s.thr g w t), .queued, [], [], 0, []⟩
          .done ((s'.modG g (fun x => x.record sb)).post g w (i.mb 0 2) e))

/-! ## Single global accesses, joins and prefetches (R240–R243) -/

/-- The accesses of an ldg, stg or atmg, one for each thread (R241). -/
def Ins.acc (i : Ins) (th : Thread) (t : Nat) : Acc :=
  let a := th.reg64 i.a
  let a := if i.op = .ldg ∧ i.imm then a + BitVec.ofInt 64 i.immS else a
  let a := if i.op = .atmg then BitVec.ofNat 64 (a.toNat / (i.w / 8) * (i.w / 8)) else a
  let wd := if i.w = 64 then 64 else 32
  ⟨t, a, if i.op = .ldg ∨ i.op = .pref then 0 else BitVec.ofNat 64 (th.raw wd i.b),
   if i.op = .atmg then BitVec.ofNat 64 (th.raw wd i.c) else 0, false⟩

/-- The registers that a command will write in a thread await it (R81). -/
def Ins.awaitD (i : Ins) (t : Thread) : Thread := if i.w = 64 then (t.await i.d).await (i.d + 1) else t.await i.d

/-- An entry of single accesses placed in its queue. -/
def State.doAccs (s : State) (i : Ins) (cmd : List Acc → Cmd) (loads stores : Bool) : State :=
  s.once i true (fun s g w t go =>
    if (s.wrp g w).full (i.mb 0 2) then .stall .queueFull
    else
      let (s', id) := s.newId
      let e : Entry := ⟨id, cmd (go.map (fun t => i.acc (s.thr g w t) t)), i.op.code, go, go,
        i.flagOf (s.thr g w t), .queued, [], [], 0, []⟩
      let s := s'.post g w (i.mb 0 2) e
      let s := if loads then go.foldl (fun s t => s.modT g w t i.awaitD) s else s
      .done (if stores then go.foldl (fun s t => s.stored g w t) s else s))

/-- ldg. -/
def State.doLdg (s : State) (i : Ins) : State :=
  s.doAccs i (fun l => .ldg l i.d i.ty (i.mb 6 2) (i.mb 3 3)) true false
/-- stg. -/
def State.doStg (s : State) (i : Ins) : State := s.doAccs i (fun l => .stg l i.ty (i.mb 6 2) (i.mb 3 3)) false true
/-- atmg. -/
def State.doAtmg (s : State) (i : Ins) : State :=
  s.doAccs i (fun l => .atmg l i.d i.ty (i.mb 5 3) (i.mb 2 3)) true true
/-- pref (R243). -/
def State.doPref (s : State) (i : Ins) : State := s.doAccs i (fun l => .pref l i.immZ) false false

/-- cqjoin (R240): one entry in every queue named; the lowest carries the flag. -/
def State.doCqjoin (s : State) (i : Ins) : State :=
  s.once i true (fun s g w t go =>
    let mask := BitVec.ofNat 4 (i.mb 0 4)
    let qs := (List.range 4).filter (fun k => mask.getLsbD k)
    if qs.any (fun k => (s.wrp g w).full k) then .stall .queueFull
    else
      let (s', id) := s.newId
      let e := fun (k : Nat) => (⟨id, .join mask, i.op.code, go, s.packAct,
        if qs.head? = some k then i.flagOf (s.thr g w t) else none, .queued, [], [], 0, []⟩ : Entry)
      .done (qs.foldl (fun s k => s.post g w k (e k)) s'))

/-! ## Spans (R187, R244) -/

/-- Whether a binding breaks the rules of R187. -/
def Group.smapBad (x : Group) (m so va n : Nat) : Bool :=
  (x.span m).isSome || so % 1024 != 0 || va % 1024 != 0 || n % 1024 != 0 || decide (x.scrSize < so + n)
  || (List.range 8).any (fun k => match x.span k with
    | some sp => decide (0 < n) && decide (0 < sp.len) && decide (so < sp.so + sp.len) && decide (sp.so < so + n)
    | none => false)

/-- A span set or unset. -/
def Group.setSpan (x : Group) (m : Nat) (sp : Option Span) : Group := { x with spans := FMap.set none x.spans m sp }

/-- The threads that issue a command of the map unit or the table loader: their detectors see it (R178). -/
def State.mapIssued (s : State) (g w : Nat) (go : List Nat) : State :=
  go.foldl (fun s t => s.modT g w t (fun x => { x with spinCh := true })) s

/-- smap (R187, R244). -/
def State.doSmap (s : State) (i : Ins) : State :=
  s.once i false (fun s g w t go =>
    let th := s.thr g w t
    let so := (th.reg i.a).v.toNat
    let va := (th.reg64 i.b).toNat
    let n := (th.reg i.c).v.toNat
    if (s.grp g).smapBad i.d so va n then .trap 0x09 (BitVec.ofNat 64 so)
    else if go.any (fun t => (s.grp g).bankHit (tid w t) so n) then .stall .fence
    else
      let s := s.modG g (fun x => x.setSpan i.d (some ⟨so, va, n, [], []⟩))
      .done (s.mapIssued g w go))

/-- Whether a span has a dirty sector. -/
def Span.dirty (sp : Span) : Bool := sp.secs.any (fun x => !x.2.dirty.isEmpty)

/-- The directory forgets the sectors of a span of a workgroup (R328). -/
def Die.dropSpan (x : Die) (g : Nat) (sp : Span) : Die :=
  { x with spanDir := x.spanDir.filter (fun e =>
      !(e.grp == g && decide (sp.va / 1024 ≤ e.sector) && decide (e.sector < sp.va / 1024 + sp.len / 1024))) }

/-- What holds ssync and sclose of an open span: a scratch access that one of the threads issued before it and that is not
performed (R342), dirty sectors to write back. -/
def Group.syncHold (x : Group) (w : Nat) (go : List Nat) (m : Nat) (sp : Span) : Option StallWhy :=
  if go.any (fun t => x.bankHit (tid w t) sp.so sp.len) then some .fence
  else if sp.dirty then some (.writeBack (some m))
  else none

/-- ssync (R244): waits until the dirty sectors are written back. -/
def State.doSsync (s : State) (i : Ins) : State :=
  s.once i false (fun s g w _ go =>
    match (s.grp g).span i.d with
    | none => .done (s.mapIssued g w go)
    | some sp =>
      match (s.grp g).syncHold w go i.d sp with
      | some y => .stall y
      | none => .done (s.mapIssued g w go))
/-- sclose (R244): the same, then the span is unbound. -/
def State.doSclose (s : State) (i : Ins) : State :=
  s.once i false (fun s g w _ go =>
    match (s.grp g).span i.d with
    | none => .done (s.mapIssued g w go)
    | some sp =>
      match (s.grp g).syncHold w go i.d sp with
      | some y => .stall y
      | none =>
        let s := (s.modG g (fun x => x.setSpan i.d none)).mapIssued g w go
        .done { s with dies := s.dies.map (fun (d : Die) => d.dropSpan g sp) })
/-- sinv (R244): every valid sector becomes stale. -/
def State.doSinv (s : State) (i : Ins) : State :=
  s.once i false (fun s g w _ go =>
    .done ((s.modG g (fun x =>
      x.setSpan i.d ((x.span i.d).map (fun sp =>
        { sp with secs := sp.secs.map (fun y => (y.1, y.2.makeStale)) })))).mapIssued g w go))

/-- A sector of a span changed. -/
def Group.modSec (x : Group) (m k : Nat) (f : Sector → Sector) : Group :=
  x.setSpan m ((x.span m).map (fun sp => { sp with secs := FMap.set Sector.invalid sp.secs k (f (sp.sec k)) }))

/-- `n` words of a sector, from word `k0` on, that a fill brings (R188): every byte that is not dirty; a word's poison
follows R62. -/
def Group.fillBytes (x : Group) (so : Nat) (dirty : NSet) (k0 n : Nat) (l : List (Byte × Bool)) : Group :=
  let at4 := fun (k j : Nat) => l.getD (4 * (k - k0) + j) (0, false)
  let put := fun (x : Group) (k : Nat) =>
    let free := (List.range 4).filter (fun j => !NSet.has dirty (4 * k + j))
    let p := free.any (fun j => (at4 k j).2)
    let psn := if p then NSet.add x.scrP ((so + 4 * k) / 4)
      else if free.length = 4 then NSet.del x.scrP ((so + 4 * k) / 4) else x.scrP
    { x with scr := free.foldl (fun m j => FMap.set 0 m (so + 4 * k + j) (at4 k j).1) x.scr, scrP := psn }
  ((List.range n).map (fun k => k0 + k)).foldl put x

/-- Whether an access of a workgroup waits for a sector. -/
def Group.waitsFill (x : Group) (m k : Nat) : Bool :=
  x.warps.any (fun w => w.threads.any (fun t => t.sched == .stalled (.spanFill m k))) || x.needs.contains (m, k)

/-- A part of the fill of an invalid or stale sector (R188): words read one after another, each at once (R388); the sector
is valid when the last has been read. None where no fill is due or its page cannot be read. (DESIGN CHOICE, log 80). -/
def State.fillSpan (s : State) (g m k : Nat) : Option State :=
  let x := s.grp g
  match x.span m with
  | none => none
  | some sp =>
    let c := sp.sec k
    let n := s.pieces (256 - c.filled)
    let va := sp.va + 1024 * k + 4 * c.filled
    let rq : List Req := [⟨va, 4 * n, .read⟩]
    if !x.alive || decide (sp.len / 1024 ≤ k) || (c.valid && !c.stale) || !x.waitsFill m k || s.spanHeld g m k
      || (s.entryAbsent x.vdev rq).isSome then none
    else
      let s := s.drainBytes x.die x.vdev va (4 * n)
      match s.readN x.die x.vdev va (4 * n) with
      | .error _ => none
      | .ok l =>
        match s.charge x.die x.vdev rq with
        | .error _ => none
        | .ok s =>
          let full := decide (256 ≤ c.filled + n)
          let seen := if c.filled = 0 then [] else (s.pagesOf x.die x.vdev rq).map (fun k => k.1)
          let s := (s.touchNew x.die x.vdev rq seen).popLate
          let s := s.modG g (fun x =>
            (x.fillBytes (sp.so + 1024 * k) c.dirty c.filled n l).modSec m k (fun c => { c with
              valid := c.valid || full
              stale := c.stale && !full
              filled := if full then 0 else c.filled + n }))
          some s

/-- SPAN_FILL (R188). -/
def execSpanFill (g m sec : Nat) (s : State) : Host.Outcome State Fault Refusal :=
  .next ((s.fillSpan g m sec).getD (match (s.grp g).span m with
    | some sp =>
      if (s.grp g).waitsFill m sec then s.markWait (s.grp g).die (s.grp g).vdev [⟨sp.va + 1024 * sec, 1024, .read⟩] else s
    | none => s))

/-! ## Write-backs (R189, R190, R328, Table 8-2) -/

/-- The die at which a sector's directory entry stands: the home of its page. -/
def State.homeDie (s : State) (v va : Nat) : Option Nat :=
  match s.leaf 4 v va with
  | .ok l => if entPeer l.1 then none else some (paDie (entFrame l.1))
  | .error _ => none

/-- The first byte of a sector at which a write-back meets an entry of another workgroup that does not cover it (R328).
(DEDUCED, log 29). -/
def State.spanConflict (s : State) (g va : Nat) (dirty : NSet) : Option Nat :=
  let x := s.grp g
  match s.homeDie x.vdev va with
  | none => none
  | some h =>
    let es := (s.die h).spanDir.filter (fun e =>
      e.vdev == x.vdev && e.sector == va / 1024 && e.grp != g && !e.covers g)
    (dirty.find? (fun b => es.any (fun e => NSet.has e.bytes b))).map (fun b => va + b)

/-- An entry for a sector written back; the oldest of 4,096 is dropped and counted (R328). -/
def Die.addSpan (x : Die) (e : SpanEnt) : Die :=
  if x.spanDir.length < 4096 then { x with spanDir := x.spanDir ++ [e] }
  else { x with spanDir := x.spanDir.tail ++ [e], spanDrops := x.spanDrops + 1 }
/-- The entry of a write-back in progress takes in more bytes. -/
def Die.growSpan (x : Die) (v sector g : Nat) (bytes : NSet) : Die :=
  let grow := fun (e : SpanEnt) => { e with bytes := bytes.foldl NSet.add e.bytes }
  { x with spanDir := (modFirst (fun e => e.vdev == v && e.sector == sector && e.grp == g) grow x.spanDir.reverse).reverse }

/-- What one sector's write-back came to: nothing to do, done, in part, a conflict, or held. -/
inductive Wb where
  | clean | done | part | conflict (va : Nat) | held
  deriving DecidableEq, Repr

/-- What a byte of a write-back does to the poison of its global sector (R62): poisoned words set it; the last of 32 clean
bytes that the write-back covers clears it. -/
def Group.wbPsn (x : Group) (so : Nat) (c : Sector) (b : Nat) : Psn :=
  let covered := fun (j : Nat) =>
    (NSet.has c.dirty j || NSet.has c.wrote j) && !NSet.has x.scrP ((so + j) / 4)
  if NSet.has x.scrP ((so + b) / 4) then .set
  else if b % 32 = 31 ∧ (List.range 32).all (fun j => covered (b / 32 * 32 + j)) then .clear
  else .keep

/-- Dirty bytes of a sector written, one after another. -/
def State.putDirty (s : State) (g so va : Nat) (c : Sector) : List Nat → Except Nat State
  | [] => .ok s
  | b :: l =>
    let x := s.grp g
    match s.writeB x.die x.vdev (va + b) (FMap.get 0 x.scr (so + b)) 0xFF (x.wbPsn so c b) .write s.lateNow with
    | .error k => .error k
    | .ok s => (s.sent g 0 (va + b)).putDirty g so va c l

/-- The pages that the write-back of a span counts, added to those that it has counted; a span with no dirty sector left has
done with its write-back (R321). -/
def Group.seenWb (x : Group) (m : Nat) (pages : List Nat) : Group :=
  x.setSpan m ((x.span m).map (fun sp => { sp with seen := if sp.dirty then pages.foldl NSet.add sp.seen else [] }))

/-- A part of the write-back of one sector: exactly its dirty bytes, unless they conflict (R189, R190), word by word, each
at once (R388), but the whole sector in one commit where its page is replicated (R326). (DESIGN CHOICE, log 80). -/
def State.wbSector (s : State) (g m k : Nat) : State × Wb :=
  let x := s.grp g
  match x.span m with
  | none => (s, .clean)
  | some sp =>
    let c := sp.sec k
    let va := sp.va + 1024 * k
    let so := sp.so + 1024 * k
    let words := (c.dirty.map (fun b => b / 4)).eraseDups
    let now := if s.onRepl x.die x.vdev va then words else words.take (s.pieces words.length)
    let bytes := c.dirty.filter (fun b => now.contains (b / 4))
    if c.dirty.isEmpty then (s, .clean)
    else match s.spanConflict g va c.dirty with
    | some a => (s, .conflict a)
    | none =>
      let rq : List Req := [⟨va + bytes.headD 0, bytes.length, .write⟩]
      if s.spanHeld g m k || (s.entryAbsent x.vdev rq).isSome then (s, .held)
      else match s.putDirty g so va c bytes with
      | .error _ => (s, .held)
      | .ok s1 =>
        match s1.charge x.die x.vdev rq with
        | .error _ => (s, .held)
        | .ok s2 =>
          let s3 := (s2.touchNew x.die x.vdev rq sp.seen).popLate
          let pages := (s2.pagesOf x.die x.vdev rq).map (fun k => k.1)
          let s4 := match s3.homeDie x.vdev va with
            | some h => s3.modD h (fun d =>
                if c.wrote.isEmpty then d.addSpan ⟨x.vdev, va / 1024, g, c.dirty, [], []⟩
                else d.growSpan x.vdev (va / 1024) g c.dirty)
            | none => s3
          let left := c.dirty.filter (fun b => !now.contains (b / 4))
          (s4.modG g (fun x => (x.modSec m k (fun c => { c with
            dirty := left
            wrote := if left.isEmpty then [] else bytes.foldl NSet.add c.wrote })).seenWb m pages),
            if left.isEmpty then .done else .part)

/-- The sectors of the spans that a write-back takes: of one span, or of all. -/
def Group.wbList (x : Group) (m : Option Nat) : List (Nat × Nat) :=
  let ms := match m with
    | some k => [k]
    | none => List.range 8
  ms.flatMap (fun k => match x.span k with
    | some sp => (List.range (sp.len / 1024)).map (fun j => (k, j))
    | none => [])

/-- A write-back taken on: the state, the first conflicting byte, and whether a sector without conflict is still to be
written. -/
def State.writeBack (s : State) (g : Nat) (m : Option Nat) : State × Option Nat × Bool :=
  ((s.grp g).wbList m).foldl (fun r x =>
    let o := r.1.wbSector g x.1 x.2
    (o.1, match r.2.1, o.2 with
      | none, .conflict a => some a
      | c, _ => c, r.2.2 || o.2 == .part || o.2 == .held)) (s, none, false)

/-- The threads that share a write-back: those of the warp that stand Stalled for it at the same word. -/
def State.wbThreads (s : State) (t : TRef) : List Nat :=
  let w := s.wrp t.g t.w
  let x := w.thr t.t
  match x.sched with
  | .stalled (.writeBack none) => [t.t]
  | _ => (List.range 32).filter (fun k =>
      (w.thr k).sched == x.sched && (w.thr k).pc == x.pc && (w.thr k).tix == x.tix)

/-- SPAN_WRITE_BACK (R189, R190): for the instruction that a thread stands at, or at the end of a workgroup. -/
def State.spanWriteBack (s : State) (g : Nat) (who : Option TRef) : State :=
  match who with
  | some t =>
    (match (s.thr t.g t.w t.t).sched with
     | .stalled (.writeBack m) =>
       let ts := s.wbThreads t
       let r := s.writeBack t.g m
       if r.2.2 then r.1
       else (match r.2.1 with
        | some a => r.1.trapAll t.g t.w ts 0x11 (BitVec.ofNat 64 a)
        | none => r.1)
     | _ => s)
  | none =>
    if s.drained g && (s.grp g).anyDirty then
      let r := s.writeBack g none
      if r.2.2 then r.1
      else match r.2.1 with
      | some a => r.1.regionFault g 0x11 (BitVec.ofNat 64 a)
      | none => r.1.settle g
    else s

/-- SPAN_WRITE_BACK (R189). -/
def execSpanWriteBack (g : Nat) (who : Option TRef) (s : State) : Host.Outcome State Fault Refusal :=
  .next (s.spanWriteBack g who)

/-! ## The instructions -/

/-- cpy (R235). -/
def execCpy (f : Fields) (s : State) : Host.Outcome State Fault Refusal :=
  .next (s.doCopy (nat .cpy f))
/-- cpy in Prerin code (R235, R85). -/
def execCpyPrerin (p : PFields) (s : State) : Host.Outcome State Fault Refusal :=
  .next (s.doCopy (pri .cpy p))
/-- cpyg (R237). -/
def execCpyg (f : Fields) (s : State) : Host.Outcome State Fault Refusal :=
  .next (s.doCopy (nat .cpyg f))
/-- cpyg in Prerin code (R237, R85). -/
def execCpygPrerin (p : PFields) (s : State) : Host.Outcome State Fault Refusal :=
  .next (s.doCopy (pri .cpyg p))
/-- cpys (R237). -/
def execCpys (f : Fields) (s : State) : Host.Outcome State Fault Refusal :=
  .next (s.doCopy (nat .cpys f))
/-- cpys in Prerin code (R237, R85). -/
def execCpysPrerin (p : PFields) (s : State) : Host.Outcome State Fault Refusal :=
  .next (s.doCopy (pri .cpys p))
/-- cpyr (R238). -/
def execCpyr (f : Fields) (s : State) : Host.Outcome State Fault Refusal :=
  .next (s.doCopy (nat .cpyr f))
/-- cpyr in Prerin code (R238, R85). -/
def execCpyrPrerin (p : PFields) (s : State) : Host.Outcome State Fault Refusal :=
  .next (s.doCopy (pri .cpyr p))
/-- ldg (R241). -/
def execLdg (f : Fields) (s : State) : Host.Outcome State Fault Refusal :=
  .next (s.doLdg (nat .ldg f))
/-- ldg in Prerin code (R241, R85). -/
def execLdgPrerin (p : PFields) (s : State) : Host.Outcome State Fault Refusal :=
  .next (s.doLdg (pri .ldg p))
/-- stg (R241). -/
def execStg (f : Fields) (s : State) : Host.Outcome State Fault Refusal :=
  .next (s.doStg (nat .stg f))
/-- stg in Prerin code (R241, R85). -/
def execStgPrerin (p : PFields) (s : State) : Host.Outcome State Fault Refusal :=
  .next (s.doStg (pri .stg p))
/-- atmg (R241). -/
def execAtmg (f : Fields) (s : State) : Host.Outcome State Fault Refusal :=
  .next (s.doAtmg (nat .atmg f))
/-- atmg in Prerin code (R241, R85). -/
def execAtmgPrerin (p : PFields) (s : State) : Host.Outcome State Fault Refusal :=
  .next (s.doAtmg (pri .atmg p))
/-- cqjoin (R240). -/
def execCqjoin (f : Fields) (s : State) : Host.Outcome State Fault Refusal :=
  .next (s.doCqjoin (nat .cqjoin f))
/-- cqjoin in Prerin code (R240, R85). -/
def execCqjoinPrerin (p : PFields) (s : State) : Host.Outcome State Fault Refusal :=
  .next (s.doCqjoin (pri .cqjoin p))
/-- smap (R244). -/
def execSmap (f : Fields) (s : State) : Host.Outcome State Fault Refusal :=
  .next (s.doSmap (nat .smap f))
/-- smap in Prerin code (R244, R85). -/
def execSmapPrerin (p : PFields) (s : State) : Host.Outcome State Fault Refusal :=
  .next (s.doSmap (pri .smap p))
/-- ssync (R244). -/
def execSsync (f : Fields) (s : State) : Host.Outcome State Fault Refusal :=
  .next (s.doSsync (nat .ssync f))
/-- ssync in Prerin code (R244, R85). -/
def execSsyncPrerin (p : PFields) (s : State) : Host.Outcome State Fault Refusal :=
  .next (s.doSsync (pri .ssync p))
/-- sinv (R244). -/
def execSinv (f : Fields) (s : State) : Host.Outcome State Fault Refusal :=
  .next (s.doSinv (nat .sinv f))
/-- sinv in Prerin code (R244, R85). -/
def execSinvPrerin (p : PFields) (s : State) : Host.Outcome State Fault Refusal :=
  .next (s.doSinv (pri .sinv p))
/-- sclose (R244). -/
def execSclose (f : Fields) (s : State) : Host.Outcome State Fault Refusal :=
  .next (s.doSclose (nat .sclose f))
/-- sclose in Prerin code (R244, R85). -/
def execSclosePrerin (p : PFields) (s : State) : Host.Outcome State Fault Refusal :=
  .next (s.doSclose (pri .sclose p))
/-- pref (R243). -/
def execPref (f : Fields) (s : State) : Host.Outcome State Fault Refusal :=
  .next (s.doPref (nat .pref f))
/-- pref in Prerin code (R243, R85). -/
def execPrefPrerin (p : PFields) (s : State) : Host.Outcome State Fault Refusal :=
  .next (s.doPref (pri .pref p))

end Sys2Proof.Machine
end

