-- ==== Sys2Proof/Machine/Matrix.lean ====
section
/-! DEFINITION. The matrix unit: format words, tiles, the exact step, and the matrix instructions
(03_number_formats.md R47–R59, 10_matrix.md R247–R264). -/
namespace Sys2Proof.Machine

/-! ## Format words (R50–R53) -/

/-- The width of an element format code (Table 3-7). -/
def mWidth (c : Nat) : Nat :=
  match c with
  | 0 | 1 => 16
  | 2 | 3 | 5 => 8
  | _ => 4

/-- The format code of A in a format word: bits [15:12] where A is read from a tile (R52). -/
def fwA (fw : Nat) (acc : Bool) : Nat := if acc then bitsOf fw 15 12 else bitsOf fw 3 0
/-- The format code of B. -/
def fwB (fw : Nat) : Nat := bitsOf fw 7 4
/-- The scale mode of A. -/
def fwAs (fw : Nat) : Nat := bitsOf fw 9 8
/-- The scale mode of B. -/
def fwBs (fw : Nat) : Nat := bitsOf fw 11 10
/-- The rounding of the down-converter and of mcvt. -/
def fwRnd (fw : Nat) : Nat := bitsOf fw 17 16
/-- The saturate control. -/
def fwSat (fw : Nat) : Bool := bitsOf fw 18 18 == 1

/-- Whether a format and its scale mode go together (R52). -/
def scaleOk (fmt mode : Nat) : Bool :=
  mode != 3 && (mode != 1 || fmt == 2 || fmt == 3 || fmt == 4 || fmt == 5) && ((fmt == 7) == (mode == 2))

/-- Whether a format word is valid (R52). -/
def fwOk (fw : Nat) (acc : Bool) : Bool :=
  bitsOf fw 31 19 == 0 && decide (bitsOf fw 3 0 ≤ 7) && decide (fwB fw ≤ 7) && decide (fwRnd fw ≤ 1)
  && scaleOk (fwA fw acc) (fwAs fw) && scaleOk (fwB fw) (fwBs fw)
  && (!acc || (decide (bitsOf fw 15 12 ≤ 6) && fwAs fw == 0))

/-- Whether mcvt accepts a format word (R261). -/
def cvtFwOk (fw : Nat) : Bool := bitsOf fw 31 19 == 0 && decide (fwRnd fw ≤ 1) && decide (bitsOf fw 15 12 ≤ 6)

/-- The K-chunk of a step (R53). -/
def chunkOf (fw : Nat) (acc : Bool) : Nat :=
  let w := max (mWidth (fwA fw acc)) (mWidth (fwB fw))
  if w = 16 then 16 else if w = 8 then 32 else 64

/-- The figures of Table 10-6. -/
def mfmtWord (fw : Nat) (acc : Bool) : Nat :=
  let c := chunkOf fw acc
  let macs := if c = 16 then 4 else if c = 32 then 8 else 16
  macs * 2 ^ 24 + mWidth (fwB fw) * 2 ^ 16 + mWidth (fwA fw acc) * 2 ^ 8 + c

/-- The value of an element (Table 3-7). -/
def elemVal (code bits : Nat) : FV :=
  if code = 7 then q4nVal bits
  else match dstOf code with
  | .flt f => f.decode bits
  | .int w sg => let v := valOf w sg bits; .fin (decide (v < 0)) v.natAbs 0

/-! ## Tiles (R54, R247) -/

/-- An accumulator tile of a warp. -/
def Warp.tile (w : Warp) (n : Nat) : Tile := FMap.get Tile.zero w.tiles n
/-- A tile written. -/
def Warp.setTile (w : Warp) (n : Nat) (t : Tile) : Warp := { w with tiles := FMap.set Tile.zero w.tiles n t }
/-- An element of a tile. -/
def Tile.at' (t : Tile) (i j : Nat) : Elem := FMap.get Elem.zero t.e (64 * i + j)
/-- An element of a tile written. -/
def Tile.put (t : Tile) (k : Nat) (x : Elem) : Tile := { t with e := FMap.set Elem.zero t.e k x }

/-- The conversion of an element to a format code 0–6: its bits, and what it sets in the tile (R59). -/
def Tile.drain (t : Tile) (i j code rnd : Nat) (sat : Bool) : Nat × Bool × Tile :=
  let x := t.at' i j
  let v : FV := match x.c with
    | .fin => .fin (decide (x.m < 0)) x.m.natAbs t.x
    | .pinf => .inf false
    | .ninf => .inf true
    | .nan => .nan false
  let r : Nat × Exc := match dstOf code with
    | .flt f => convF f rnd sat none v
    | .int w sg => let y := convI w sg rnd v; (modW w y.1, y.2)
  (r.1, x.p, { t with i := t.i || r.2.inv, o := t.o || r.2.ovf })

/-! ## Operands and scales (R249, R254) -/

/-- Bytes of the scale memory of a quadrant: value and poison. -/
def Group.scaleRead (x : Group) (quad off n : Nat) : Nat × Bool :=
  let m := FMap.get ScaleMem.zero x.scales quad
  (leNat (fun a => FMap.get 0 m.b a) off n, (wordsOf off n).any (fun k => NSet.has m.p k))

/-- ⌈a / b⌉. -/
def ceilDiv (a b : Nat) : Nat := (a + b - 1) / b

/-- The scale offset of element `k` of a line (Table 10-1): the byte, and in mode 2 the super-scale. -/
def Shape.scaleAt (h : Shape) (mode k line dk dl : Nat) : Nat × Nat :=
  if mode = 1 then (h.sofs + line * ceilDiv dk 32 + k / 32, 0)
  else
    let n := line * ceilDiv dk 64 + k / 64
    (h.sofs + n, h.sofs + 4 * ceilDiv (dl * ceilDiv dk 64) 4 + 4 * (n / 256))

/-- The block scale of an element with its poison (R49, R51). -/
def Group.blockScale (x : Group) (quad : Nat) (h : Shape) (mode k line dk dl : Nat) : FV × Bool :=
  let o := h.scaleAt mode k line dk dl
  match mode with
  | 0 => (.fin false 1 0, false)
  | 1 => let b := x.scaleRead quad o.1 1; (e4m3.decode b.1, b.2)
  | _ =>
    let c := x.scaleRead quad o.1 1
    let s := x.scaleRead quad o.2 4
    ((fp32.decode s.1).mul (.fin false c.1 (-8)), c.2 || s.2)

/-- An element of an operand shape in scratch with its block scale and the tensor scale; none where it lies outside the
dims (R254, R55). `tr` says that K runs along dimension 0. -/
def State.operand (s : State) (g quad : Nat) (h : Shape) (code mode : Nat) (ts : FV) (tr : Bool) (k line : Nat) :
    Option (FV × Bool) :=
  let j : Ix := if tr then ⟨k, line, 0, 0⟩ else ⟨line, k, 0, 0⟩
  match h.at' j with
  | none => none
  | some i =>
    let v := match s.elem g quad h i with
      | .ok r => r
      | .error _ => (0, false)
    let ka := if tr then i.s0 else i.s1
    let la := if tr then i.s1 else i.s0
    let dk := if tr then h.dim 0 else h.dim 1
    let dl := if tr then h.dim 1 else h.dim 0
    let sc := (s.grp g).blockScale quad h mode ka la dk dl
    some (((elemVal code v.1).mul sc.1).mul ts, v.2 || sc.2)

/-! ## The step (R56, R58) -/

/-- The exact contribution of a row and a column with its poison (R55, R63). -/
def contrib (row col : List (Option (FV × Bool))) : XV × Bool :=
  let ts := (row.zip col).filterMap (fun x =>
    match x.1, x.2 with
    | some a, some b => some (a.1.mul b.1, a.2 || b.2)
    | _, _ => none)
  (sumX 0 (ts.map (fun x => x.1)), ts.any (fun x => x.2))

/-- m / 2^s to the nearest integer, ties to even. -/
def rneShift (m : Int) (s : Nat) : Int := roundInt 0 (decide (m < 0)) m.natAbs (-(s : Int)) false
/-- An exact value on the grid 2^E, to the nearest, ties to even. -/
def rneGrid (c : Dy) (e : Int) : Int := roundInt 0 (decide (c.m < 0)) c.m.natAbs (c.e - e) false

/-- The largest mantissa (R54). -/
def maxMant : Nat := 2 ^ 47 - 1

/-- The smallest room `s`, from a start and at most `n` more, that holds every sum (R56, R58). -/
def roomFor (f : List (Int × Dy)) (e : Int) : Nat → Nat → Nat
  | 0, s => s
  | n + 1, s =>
    if f.all (fun x => decide ((rneShift x.1 s + rneGrid x.2 (e + s)).natAbs ≤ maxMant)) then s else roomFor f e n (s + 1)

/-- A contribution that is not finite meets an element (R56): the element, and whether it has become NaN. -/
def meetInf (x : Elem) (c : ECls) : Elem × Bool :=
  match x.c with
  | .fin => (⟨c, 0, x.p⟩, c == .nan)
  | .nan => (x, false)
  | k => if c = k then (x, false) else (⟨.nan, 0, x.p⟩, true)

/-- The class of an exact value. -/
def XV.cls : XV → ECls
  | .nan => .nan
  | .inf n => if n then .ninf else .pinf
  | .fin _ _ => .fin

/-- A step on one block: the contributions by element number (R56, R58, R63). -/
def Tile.step (t : Tile) (cs : List (Nat × XV × Bool)) : Tile :=
  let t := cs.foldl (fun t c =>
    let x := FMap.get Elem.zero t.e c.1
    let x := { x with p := x.p || c.2.2 }
    match c.2.1 with
    | .fin _ _ => t.put c.1 x
    | v => let r := meetInf x v.cls; { t.put c.1 r.1 with i := t.i || r.2 }) t
  let f := cs.filterMap (fun c =>
    match c.2.1 with
    | .fin d _ => let x := FMap.get Elem.zero t.e c.1; if x.c = .fin then some (c.1, x.m, d) else none
    | _ => none)
  let s := roomFor (f.map (fun x => x.2)) t.x (32767 - t.x).toNat 0
  let shifted := t.e.filterMap (fun y =>
    if y.2.c = .fin then
      let z := { y.2 with m := rneShift y.2.m s }
      if z = Elem.zero then none else some (y.1, z)
    else some y)
  let t := if s = 0 then t else { t with e := shifted, x := t.x + s }
  f.foldl (fun t y =>
    let x := FMap.get Elem.zero t.e y.1
    let v := x.m + rneGrid y.2.2 t.x
    if v.natAbs ≤ maxMant then t.put y.1 { x with m := v }
    else { t.put y.1 { x with c := if v < 0 then .ninf else .pinf, m := 0 } with o := true }) t

/-! ## The pending list (R250, R251) -/

/-- Whether an operation on a tile has not retired (R81). -/
def MCmd.tiles : MCmd → List Nat
  | .tile d asrc src _ _ _ _ _ _ _ => if asrc then [d, src] else [d]
  | .cvt _ s _ _ _ => [s]
  | .ld d _ _ => [d]
  | .ex s _ _ => [s]
/-- Whether a warp has an operation pending on a tile. -/
def Warp.tileBusy (w : Warp) (n : Nat) : Bool := w.mops.any (fun o => o.cmd.tiles.contains n)

/-- The operations pending in a quadrant's matrix unit, with their workgroup and warp. -/
def State.unitOps (s : State) (d c q : Nat) : List (Nat × Nat × MOp) :=
  (List.range s.groups.length).flatMap (fun g =>
    let x := s.grp g
    if x.alive && x.save != .saved && x.die == d && x.core == c then
      (List.range x.warps.length).flatMap (fun w =>
        if (x.wrp w).quad = q then (x.wrp w).mops.map (fun o => (g, w, o)) else [])
    else [])

/-- Whether the pending list of a warp's matrix unit is full (R250). -/
def State.unitFull (s : State) (g w : Nat) : Bool :=
  decide (8 ≤ (s.unitOps (s.grp g).die (s.grp g).core (s.wrp g w).quad).length)

/-- The number of 16 × 16 blocks of a box side. -/
def blocks16 (n : Nat) : Nat := ceilDiv n 16

/-- The geometry of an mtile: M, N, K (R254). -/
def MCmd.geo : MCmd → Nat × Nat × Nat
  | .tile _ asrc _ rows tb sa sb _ _ _ =>
    (if asrc then rows else sa.box 1, if tb then sb.box 1 else sb.box 0, if tb then sb.box 0 else sb.box 1)
  | _ => (64, 64, 64)

/-- The number of steps of an operation (R250). (DEDUCED, log 30). -/
def MCmd.steps (c : MCmd) : Nat :=
  match c with
  | .tile _ asrc _ _ _ _ _ fmt _ _ =>
    let m := c.geo
    (m.1 / 16) * (m.2.1 / 16) * (m.2.2 / chunkOf fmt.toNat asrc)
  | .cvt dst _ _ _ _ => blocks16 (dst.box 1) * blocks16 (dst.box 0)
  | .ld .. => 16
  | .ex .. => 16

/-- The contributions of one step of an mtile, and the source tile as the down-converter leaves it (R55–R57, R255). -/
def State.tileStep (s : State) (g w : Nat) (c : MCmd) (k : Nat) : List (Nat × XV × Bool) × Option (Nat × Tile) :=
  match c with
  | .tile _ asrc src _ tb sa sb fmt ta tb' =>
    let y := s.wrp g w
    let fw := fmt.toNat
    let m := c.geo
    let ch := chunkOf fw asrc
    let nb := m.2.1 / 16
    let per := (m.1 / 16) * nb
    let ks := (List.range ch).map (fun x => k / per * ch + x)
    let br := k % per / nb
    let bc := k % per % nb
    let fa := fp32.decode ta.v.toNat
    let fb := fp32.decode tb'.v.toNat
    let rowOf := fun (t : Tile) (i : Nat) =>
      ks.foldl (fun (r : List (Option (FV × Bool)) × Tile) kk =>
        let d := r.2.drain i kk (fwA fw true) (fwRnd fw) (fwSat fw)
        (r.1 ++ [some ((elemVal (fwA fw true) d.1).mul fa, d.2.1)], d.2.2)) ([], t)
    let rows := (List.range 16).foldl (fun (r : List (List (Option (FV × Bool))) × Tile) i =>
      if asrc then let o := rowOf r.2 (16 * br + i); (r.1 ++ [o.1], o.2)
      else (r.1 ++ [ks.map (fun kk => s.operand g y.quad sa (fwA fw false) (fwAs fw) fa true kk (16 * br + i))], r.2))
      ([], y.tile src)
    let cols := (List.range 16).map (fun j =>
      ks.map (fun kk => s.operand g y.quad sb (fwB fw) (fwBs fw) fb tb kk (16 * bc + j)))
    let cs := rows.1.zipIdx.flatMap (fun r => cols.zipIdx.map (fun col =>
      let x := contrib r.1 col.1
      (64 * (16 * br + r.2) + 16 * bc + col.2, x.1, x.2 || ta.p || tb'.p)))
    (cs, if asrc then some (src, rows.2) else none)
  | _ => ([], none)

/-- The values that mcvt writes from one block, or from all of them, with the tile as they leave it (R261). -/
def Tile.cvtVals (t : Tile) (dst : Shape) (rb cb fw : Nat) (js : List Ix) : List (Ix × Nat × Bool) × Tile :=
  js.foldl (fun (r : List (Ix × Nat × Bool) × Tile) j =>
    let d := r.2.drain (16 * rb + j.s1) (16 * cb + j.s0) (bitsOf fw 15 12) (fwRnd fw) (fwSat fw)
    (match dst.at' j with
     | some i => r.1 ++ [(i, d.1, d.2.1)]
     | none => r.1, d.2.2)) ([], t)

/-- The class code of a tile image (Table 10-4). -/
def ECls.code : ECls → Nat
  | .fin => 0
  | .pinf => 1
  | .ninf => 2
  | .nan => 3

/-- The 64-bit image of an element (Table 10-4). -/
def Elem.image (x : Elem) : Nat := x.c.code * 2 ^ 48 + modW 48 x.m
/-- The element that a 64-bit image loads, and whether it sets I (R262). -/
def elemOf (v : Nat) (p : Bool) : Elem × Bool :=
  let m := valOf 48 true v
  let c := bitsOf v 49 48
  if bitsOf v 63 50 ≠ 0 ∨ (c = 0 ∧ m = -(2 ^ 47)) ∨ (c ≠ 0 ∧ m ≠ 0) then (⟨.nan, 0, true⟩, true)
  else (⟨if c = 0 then .fin else if c = 1 then .pinf else if c = 2 then .ninf else .nan, if c = 0 then m else 0, p⟩, false)

/-- The element numbers of block `k` of a tile. -/
def blockIds (k : Nat) : List Nat :=
  (List.range 16).flatMap (fun i => (List.range 16).map (fun j => 64 * (16 * (k / 4) + i) + 16 * (k % 4) + j))

/-- One step of an mld: the header with the first step, then a block (R262). -/
def Group.ldStep (x : Group) (t : Tile) (off k : Nat) (p : Bool) : Tile :=
  let h := x.rd off 4
  let hp := p || x.rdPsn off 4
  let t := if k = 0 then { t with x := valOf 16 true h, i := bitsOf h 16 16 == 1, o := bitsOf h 17 17 == 1 } else t
  (blockIds k).foldl (fun t n =>
    let a := off + 16 + 8 * n
    let r := elemOf (x.rd a 8) (hp || x.rdPsn a 8)
    let y := if hp then { r.1 with p := true } else r.1
    { t.put n y with i := t.i || r.2 }) t

/-- A whole word written by an engine, its tag made empty (R62, R194). -/
def Group.engWord (x : Group) (a v : Nat) (p : Bool) : Group := (x.wr a 4 v p).clearTags a 4

/-- One step of an mexp: the header with the first step, then a block (R262). -/
def Group.exStep (x : Group) (t : Tile) (off k : Nat) (p : Bool) : Group :=
  let head := Sys2Proof.Machine.modW 16 t.x + (if t.i then 2 ^ 16 else 0) + (if t.o then 2 ^ 17 else 0)
  let x := if k = 0 then
    ((((x.engWord off head p).engWord (off + 4) 0 p).engWord (off + 8) 0 p).engWord (off + 12) 0 p) else x
  (blockIds k).foldl (fun x n =>
    let y := FMap.get Elem.zero t.e n
    let a := off + 16 + 8 * n
    (x.engWord a y.image (p || y.p)).engWord (a + 4) (y.image / 2 ^ 32) (p || y.p)) x

/-- The scratch words that a shape's elements touch. -/
def Shape.words (h : Shape) : List Nat := (h.elems.flatMap (fun i => wordsOf (h.addr i).1 h.nbytes)).eraseDups

/-- One step of an operation performed on its warp's tiles and its workgroup's scratch. -/
def State.mopStep (s : State) (g w : Nat) (o : MOp) : State :=
  let k := o.step
  match o.cmd with
  | .tile d asrc _ _ _ sa sb _ _ _ =>
    let r := s.tileStep g w o.cmd k
    let s := if k = 0 then
        s.modG g (fun x => x.engRead o.sup ((if asrc then [] else sa.words) ++ sb.words).eraseDups) else s
    s.modW g w (fun y =>
      let y := match r.2 with
        | some (n, t) => y.setTile n t
        | none => y
      y.setTile d ((y.tile d).step r.1))
  | .cvt dst src rb cb fmt =>
    let y := s.wrp g w
    let nbc := blocks16 (dst.box 0)
    let all := dst.boxIx
    let mine := all.filter (fun j => j.s1 / 16 == k / nbc && j.s0 / 16 == k % nbc)
    let r := (y.tile src).cvtVals dst rb cb fmt.toNat mine
    let full := ((y.tile src).cvtVals dst rb cb fmt.toNat all).1
    let addrs := ((nibbles dst r.1).map (fun x => x.1 / 2)).eraseDups
    let s := s.modW g w (fun y => y.setTile src r.2)
    s.modG g (fun x => ((byteWrites dst full).filter (fun b => addrs.contains b.addr)).foldl (fun x b =>
      match b with
      | .byte _ a v m p => x.putScr a v m p
      | .red .. => x) x)
  | .ld d off p =>
    let s := if k = 0 then s.modG g (fun x => x.engRead o.sup (wordsOf off 32784)) else s
    let x := s.grp g
    s.modW g w (fun y => y.setTile d (x.ldStep (y.tile d) off k p))
  | .ex src off p =>
    let t := (s.wrp g w).tile src
    s.modG g (fun x => x.exStep t off k p)

/-- Whether a copy into scale memory that was issued before an operation overlaps the interval it reads (R251). -/
def Group.scaleCopyBefore (x : Group) (o : MOp) : Bool :=
  match o.scl with
  | none => false
  | some iv => x.warps.any (fun y => y.cqs.any (fun q => q.any (fun e => match e.cmd with
      | .copy op d _ _ _ _ _ =>
        let hl := d.hull (d.sideElems (op == .cpys) (min x.scaleSize 65536))
        d.space == 2 && decide (e.id < o.id) && decide (hl.1 < iv.2) && decide (iv.1 < hl.2)
      | _ => false)))

/-- Whether a scratch access that an issuing thread of an operation made before it is still to be performed (R251, R342). -/
def Group.bankBefore (x : Group) (w : Nat) (o : MOp) : Bool :=
  x.bank.any (fun b => decide (b.id < o.id) && o.ts.any (fun t => tid w t == b.u))

/-- Whether an operation is held before its first step by a destination entry, a copy or a scratch access issued before it
(R251), or before any step by a sector that has to be filled (R188, R194). (DEDUCED, log 83). -/
def Group.mopHeld (x : Group) (w : Nat) (o : MOp) : Bool :=
  let mine := x.board.filter (fun e => e.owner == o.id)
  (o.step == 0 && (x.scaleCopyBefore o || x.bankBefore w o ||
    mine.any (fun m => x.board.any (fun e =>
      e.dst && decide (e.owner < o.id) && decide (e.lo < m.hi) && decide (m.lo < e.hi)))))
  || (x.mopNeed o.cmd).isSome

/-- Whether an earlier operation on one of the tiles has not retired (R250). -/
def Warp.mopBehind (y : Warp) (o : MOp) : Bool :=
  y.mops.any (fun e => decide (e.id < o.id) && e.cmd.tiles.any (fun t => o.cmd.tiles.contains t))

/-- The next step of a matrix unit: of the operation whose region has the highest priority, the oldest of those (R250). -/
def State.chaserPick (s : State) (d c q : Nat) : Option (Nat × Nat × MOp) :=
  let ok := (s.unitOps d c q).filter (fun x =>
    let g := s.grp x.1
    (g.save == .running || g.save == .pending) && !g.mopHeld x.2.1 x.2.2 && !(g.wrp x.2.1).mopBehind x.2.2)
  ok.foldl (fun (best : Option (Nat × Nat × MOp)) x =>
    match best with
    | none => some x
    | some b =>
      if s.prioOf b.1 < s.prioOf x.1 ∨ (s.prioOf b.1 = s.prioOf x.1 ∧ x.2.2.id < b.2.2.id) then some x else some b) none

/-- An operation retires: its records are released and its flags lowered (R251, R260). -/
def State.mopRetire (s : State) (g w : Nat) (o : MOp) : State :=
  let s := s.modW g w (fun y => { y with mops := y.mops.filter (fun e => e.id != o.id) })
  let s := s.lowerFlags g w o.ts o.flag
  (s.modG g (fun x => x.boardDone o.id)).settle g

/-- The Chaser performs the next step of a matrix unit (R250, R56); with its last step an operation retires. -/
def State.chaserStep (s : State) (d c q : Nat) : Option State :=
  match s.chaserPick d c q with
  | none => none
  | some (g, w, o) =>
    let s := s.mopStep g w o
    if o.cmd.steps ≤ o.step + 1 then some (s.mopRetire g w o)
    else some (s.modW g w (fun y =>
      { y with mops := modFirst (fun e => e.id == o.id) (fun e => { e with step := e.step + 1 }) y.mops }))

/-- CHASER_STEP (R56). -/
def execChaserStep (die core quad : Nat) (s : State) : Host.Outcome State Fault Refusal :=
  .next ((s.chaserStep die core quad).getD s)

/-! ## Issue of the collective instructions (R256, R260, R261) -/

/-- An operation placed in the pending list with its records; a stall where there is no room. -/
def State.enlist (s : State) (g w : Nat) (cmd : MCmd) (ivs : List (Bool × Nat × Nat)) (scl : Option (Nat × Nat)) (sup : Nat)
    (ts : List Nat) (flag : Option Nat) : Once :=
  let (s', id) := s.newId
  let sb := ivs.flatMap (fun x => sbOf id x.1 x.2)
  if s.unitFull g w then .stall .matrixFull
  else if !s.boardRoom g sb.length then .stall .scoreboard
  else
    let s := s'.modG g (fun x => x.record sb)
    .done (s.modW g w (fun y => { y with mops := y.mops ++ [⟨id, cmd, tid w sup, ts, flag, 0, scl⟩] }))

/-- The checks of a matrix instruction: of a thread's own format word, and of the pack with the supplier's operands. -/
structure MChk where
  own : Thread → Cause
  pack : Thread → Cause
  n : Nat

/-- The vote (R256): which of the `n` operands from gn on differ among the voters, as a mask. -/
def voteMask (ts : List Thread) (c n : Nat) : Nat :=
  ((List.range n).map (fun k =>
    if (ts.map (fun t => (t.reg (c + k)).v)).eraseDups.length ≤ 1 then 0 else 2 ^ k)).sum

/-- A collective instruction (R256, R213): each thread's own causes, the vote, the checks of the pack, then the poison
traps, each thread taking the first cause in the order of R33; it executes for the threads that take none. -/
def State.collective (s : State) (i : Ins) (k : Warp → MChk) (body : State → Nat → Nat → Nat → List Nat → Once) : State :=
  s.front i.use (fun w t => gate w i t) (fun s act =>
    let p := s.pack
    let w := s.wrp p.g p.w
    let c := k w
    let take := act.filter (fun t => (w.thr t).guard i.f.guard == .take)
    let s := act.foldl (fun s t =>
      match (w.thr t).guard i.f.guard with
      | .trap v => s.trapT p.g p.w t 0x04 v
      | .skip => s.finish p.g p.w t i.words (.ok Eff.none)
      | .take => s) s
    let own := fun (t : Nat) => firstOf (c.own (w.thr t)) (if (w.thr t).lowestPoison [i.c] = none then none
      else some (0x04, BitVec.ofNat 64 i.c))
    let early := fun (t : Nat) => match own t with
      | some cv => decide (causeRank cv.1 < causeRank 0x05)
      | none => false
    let voters := take.filter (fun t => !early t)
    let mask := voteMask (voters.map w.thr) i.c c.n
    let pack := match voters with
      | v :: _ => if mask = 0 then c.pack (w.thr v) else none
      | [] => none
    let vote := fun (t : Nat) => if mask = 0 then none
      else some (0x05, BitVec.ofNat 64 (((w.thr t).reg i.c).v.toNat + mask * 2 ^ 32))
    let cause := fun (t : Nat) => firstOf (firstOf (own t) (if early t then none else vote t)) (if early t then none else pack)
    let go := take.filter (fun t => cause t == none)
    let traps := fun (s : State) => take.foldl (fun s t => match cause t with
      | some cv => s.trapT p.g p.w t cv.1 cv.2
      | none => s) s
    match go with
    | [] => traps s
    | sup :: _ =>
      let flag := i.flagOf (w.thr sup)
      if flag.any (fun n => go.any (fun t => decide (255 ≤ (w.thr t).flagCount n))) then
        traps (s.stallAll p.g p.w go .flagFull)
      else match body s p.g p.w sup go with
        | .done s =>
          let up := fun (x : Thread) => match flag with
            | some n => x.raiseFlag n
            | none => x
          traps (go.foldl (fun s t => s.modT p.g p.w t (fun x => (up x).advance i.words)) s)
        | .trap cz v => traps (s.trapAll p.g p.w go cz v)
        | .stall y => traps (s.stallAll p.g p.w go y)
        | .block b => traps (go.foldl (fun s t => s.modT p.g p.w t (fun x => { x with sched := .blocked b })) s))

/-- The command that an mtile captures for a thread (R251). -/
def Ins.mtileCmd (i : Ins) (y : Warp) (t : Thread) : MCmd :=
  .tile i.d (i.f.m.getLsbD 0) i.a (16 * (i.mb 2 2 + 1)) (i.f.m.getLsbD 1) (y.shape i.a) (y.shape i.b) (t.reg i.c).v
    (t.reg (i.c + 1)) (t.reg (i.c + 2))

/-- Whether an mtile's shapes and geometry are legal (R254). -/
def MCmd.geoOk (c : MCmd) : Bool :=
  match c with
  | .tile d asrc src _ _ sa sb fmt _ _ =>
    let m := c.geo
    let shape := fun (h : Shape) => h.valid && h.space == 0 && h.box 2 == 1 && h.box 3 == 1
    let side := fun (n : Nat) => [16, 32, 48, 64].contains n
    shape sb && side m.2.1 && side m.1 && decide (1 ≤ m.2.2) && m.2.2 % chunkOf fmt.toNat asrc == 0
      && (if asrc then decide (m.2.2 ≤ 64) && d != src else shape sa && sa.box 0 == m.2.2)
  | _ => true

/-- Whether an mtile's format word is valid and agrees with its shapes (R52, R254). -/
def MCmd.fmtOk (c : MCmd) : Bool :=
  match c with
  | .tile _ asrc _ _ _ sa sb fmt _ _ =>
    let fw := fmt.toNat
    let side := fun (h : Shape) (code : Nat) => h.fmt == code && h.width == mWidth code
    fwOk fw asrc && side sb (fwB fw) && (asrc || side sa (bitsOf fw 3 0))
  | _ => true

/-- The interval of scale memory that a shape's elements within the dims reach (R249). -/
def Shape.scaleSpan (h : Shape) (mode : Nat) (tr : Bool) : Nat × Nat :=
  if mode = 0 then (0, 0)
  else
    let dk := if tr then h.dim 0 else h.dim 1
    let dl := if tr then h.dim 1 else h.dim 0
    h.elems.foldl (fun (r : Nat × Nat) i =>
      let o := h.scaleAt mode (if tr then i.s0 else i.s1) (if tr then i.s1 else i.s0) dk dl
      let lo := o.1
      let hi := if mode = 1 then o.1 + 1 else max (o.1 + 1) (o.2 + 4)
      if r.1 = r.2 then (lo, hi) else (min r.1 lo, max r.2 hi)) (0, 0)

/-- The hull of two intervals. -/
def joinIv (a b : Nat × Nat) : Nat × Nat := if a.1 = a.2 then b else if b.1 = b.2 then a else (min a.1 b.1, max a.2 b.2)

/-- The scale interval of an mtile. -/
def MCmd.scales (c : MCmd) : Nat × Nat :=
  match c with
  | .tile _ asrc _ _ tb sa sb fmt _ _ =>
    joinIv (if asrc then (0, 0) else sa.scaleSpan (fwAs fmt.toNat) true) (sb.scaleSpan (fwBs fmt.toNat) tb)
  | _ => (0, 0)

/-- The first scale offset of an operand that fails: misaligned in mode 2, or beyond the allocation (R249).
(DESIGN CHOICE, log 112). -/
def Group.scaleBad (x : Group) (h : Shape) (mode : Nat) (tr : Bool) : Option Nat :=
  let iv := h.scaleSpan mode tr
  let lim := min x.scaleSize 65536
  if mode = 2 ∧ h.sofs % 4 ≠ 0 then some h.sofs
  else if lim < iv.2 then some (max iv.1 lim)
  else none

/-- The trap 0x09 of tile numbers (R247). -/
def tileTrap (y : Warp) (ns : List Nat) : Cause := (ns.find? (fun n => decide (y.accs ≤ n))).map (fun n => (0x09, BitVec.ofNat 64 n))

/-- The checks of the pack for an mtile (R247, R249, R26, R245). (DESIGN CHOICE, log 113). -/
def Group.mtilePack (x : Group) (y : Warp) (i : Ins) (c : MCmd) : Cause :=
  match c with
  | .tile d asrc src _ tb sa sb fmt _ _ =>
    let fw := fmt.toNat
    let out := fun (o : Option Nat) => o.map (fun a => (0x09, BitVec.ofNat 64 a))
    let ca := if asrc then none else out (x.scaleBad sa (fwAs fw) true)
    let oa := if asrc then none else out (sa.firstOut x.scrSize sa.elems)
    firstOf (firstOf (firstOf (tileTrap y (if asrc then [d, src] else [d])) ca)
      (firstOf (out (x.scaleBad sb (fwBs fw) tb)) oa))
      (firstOf (out (sb.firstOut x.scrSize sb.elems)) (y.shapeTrap (if asrc then [i.b] else [i.a, i.b])))
  | _ => none

/-- The checks of an mtile. -/
def Ins.mtileChk (i : Ins) (x : Group) (y : Warp) : MChk where
  own := fun t =>
    let c := i.mtileCmd y t
    if !c.geoOk then some (0x01, i.word) else if !c.fmtOk then some (0x06, (t.reg i.c).v.setWidth 64) else none
  pack := fun t => x.mtilePack y i (i.mtileCmd y t)
  n := 3

/-- mtile (R260). -/
def State.doMtile (s : State) (i : Ins) : State :=
  s.collective i (fun y => i.mtileChk (s.grp s.pack.g) y) (fun s g w t go =>
    let x := s.grp g
    let c := i.mtileCmd (x.wrp w) (s.thr g w t)
    match c with
    | .tile _ asrc _ _ _ sa sb _ _ _ =>
      let ivs := (if asrc then [] else [(false, sa.hull sa.elems)]) ++ [(false, sb.hull sb.elems)]
      let sc := c.scales
      s.enlist g w c ivs (if sc.1 = sc.2 then none else some sc) t go (i.flagOf (s.thr g w t))
    | _ => .done s)

/-- The first byte that an mcvt must not write: outside the allocation or in a transfer barrier (R261). -/
def Group.cvtOut (x : Group) (h : Shape) : Option Nat :=
  let hit := (h.elems.flatMap (fun i => (List.range h.nbytes).map (fun k => (h.addr i).1 + k))).filter (fun a =>
    decide (x.scrSize ≤ a) || x.xbHit a 1)
  minBy id hit

/-- The checks of an mcvt (R261). -/
def Ins.mcvtChk (i : Ins) (x : Group) (y : Warp) : MChk where
  own := fun t =>
    let h := y.shape i.d
    let fw := (t.reg i.c).v.toNat
    if !h.valid || h.space != 0 || h.box 2 != 1 || h.box 3 != 1 then some (0x01, i.word)
    else if !cvtFwOk fw || h.fmt != bitsOf fw 15 12 || h.width != mWidth (bitsOf fw 15 12) then
      some (0x06, (t.reg i.c).v.setWidth 64)
    else none
  pack := fun _ =>
    let h := y.shape i.d
    let size := if 64 < 16 * i.mb 2 2 + h.box 1 ∨ 64 < 16 * i.mb 0 2 + h.box 0 then some (0x09, BitVec.ofNat 64 i.a) else none
    firstOf (firstOf (tileTrap y [i.a]) size)
      (firstOf ((x.cvtOut h).map (fun a => (0x09, BitVec.ofNat 64 a))) (y.shapeTrap [i.d]))
  n := 1

/-- mcvt (R261). -/
def State.doMcvt (s : State) (i : Ins) : State :=
  s.collective i (fun y => i.mcvtChk (s.grp s.pack.g) y) (fun s g w t go =>
    let h := (s.wrp g w).shape i.d
    s.enlist g w (.cvt h i.a (i.mb 2 2) (i.mb 0 2) ((s.thr g w t).reg i.c).v) [(true, h.hull h.elems)] none t go
      (i.flagOf (s.thr g w t)))

/-! ## The other matrix instructions -/

/-- A cleared tile (R259). -/
def Tile.clear (e : Int) (p : Bool) : Tile :=
  ⟨if p then (List.range 4096).map (fun k => (k, ⟨.fin, 0, true⟩)) else [], e, false, false⟩

/-- mclr (R259). -/
def State.doMclr (s : State) (i : Ins) : State :=
  s.once i false (fun s g w t _ =>
    let a := (s.thr g w t).reg i.a
    let y := s.wrp g w
    match tileTrap y [i.d] with
    | some cv => .trap cv.1 cv.2
    | none =>
      if y.tileBusy i.d then .stall .interlock
      else
        let e := if i.imm then i.immS else valOf 16 true a.v.toNat
        .done (s.modW g w (fun y => y.setTile i.d (Tile.clear e (!i.imm && a.p)))))

/-- mld and mexp (R262). -/
def State.doImage (s : State) (i : Ins) (load : Bool) : State :=
  s.once i true (fun s g w t go =>
    let a := (s.thr g w t).reg i.a
    let off := (a.v.toNat + i.immZ) % 2 ^ 32
    let x := s.grp g
    match tileTrap (x.wrp w) [i.d] with
    | some cv => .trap cv.1 cv.2
    | none =>
      if !x.scrOk off 32784 16 || (!load && x.xbHit off 32784) then .trap 0x09 (BitVec.ofNat 64 off)
      else s.enlist g w (if load then .ld i.d off a.p else .ex i.d off a.p) [(!load, off, off + 32784)] none t go
        (i.flagOf (s.thr g w t)))

/-- The word of Table 10-5. -/
def Tile.stat (t : Tile) : Nat :=
  (if t.e.any (fun x => x.2.p) then 2 ^ 18 else 0) + (if t.o then 2 ^ 17 else 0) + (if t.i then 2 ^ 16 else 0) + modW 16 t.x

/-- mstat in one thread (R263). -/
def laneMstat (i : Ins) (y : Warp) : Res :=
  match tileTrap y [i.a] with
  | some cv => .trap cv.1 cv.2
  | none =>
    if y.tileBusy i.a then .stall .interlock
    else .ok (Eff.reg i.d ⟨BitVec.ofNat 32 (y.tile i.a).stat, false⟩)

/-- The format check of mfmt (R264, R52). -/
def chkMfmt (i : Ins) (s : State) (g w t : Nat) : Cause :=
  let v := ((s.thr g w t).reg i.a).v
  if fwOk v.toNat (i.f.m.getLsbD 0) then none else some (0x06, v.setWidth 64)
/-- mfmt (R264). -/
def State.doMfmt (s : State) (i : Ins) : State :=
  s.inTurn i (chkMfmt i) (fun s g w t =>
    (s, .ok (Eff.reg i.d ⟨BitVec.ofNat 32 (mfmtWord ((s.thr g w t).reg i.a).v.toNat (i.f.m.getLsbD 0)), false⟩)))

/-! ## The instructions -/

/-- mclr (R259). -/
def execMclr (f : Fields) (s : State) : Host.Outcome State Fault Refusal :=
  .next (s.doMclr (nat .mclr f))
/-- mclr in Prerin code (R259, R85). -/
def execMclrPrerin (p : PFields) (s : State) : Host.Outcome State Fault Refusal :=
  .next (s.doMclr (pri .mclr p))
/-- mtile (R260). -/
def execMtile (f : Fields) (s : State) : Host.Outcome State Fault Refusal :=
  .next (s.doMtile (nat .mtile f))
/-- mtile in Prerin code (R260, R85). -/
def execMtilePrerin (p : PFields) (s : State) : Host.Outcome State Fault Refusal :=
  .next (s.doMtile (pri .mtile p))
/-- mcvt (R261). -/
def execMcvt (f : Fields) (s : State) : Host.Outcome State Fault Refusal :=
  .next (s.doMcvt (nat .mcvt f))
/-- mcvt in Prerin code (R261, R85). -/
def execMcvtPrerin (p : PFields) (s : State) : Host.Outcome State Fault Refusal :=
  .next (s.doMcvt (pri .mcvt p))
/-- mld (R262). -/
def execMld (f : Fields) (s : State) : Host.Outcome State Fault Refusal :=
  .next (s.doImage (nat .mld f) true)
/-- mld in Prerin code (R262, R85). -/
def execMldPrerin (p : PFields) (s : State) : Host.Outcome State Fault Refusal :=
  .next (s.doImage (pri .mld p) true)
/-- mexp (R262). -/
def execMexp (f : Fields) (s : State) : Host.Outcome State Fault Refusal :=
  .next (s.doImage (nat .mexp f) false)
/-- mexp in Prerin code (R262, R85). -/
def execMexpPrerin (p : PFields) (s : State) : Host.Outcome State Fault Refusal :=
  .next (s.doImage (pri .mexp p) false)
/-- mstat (R263). -/
def execMstat (f : Fields) (s : State) : Host.Outcome State Fault Refusal :=
  .next (s.lanes (nat .mstat f) (fun w _ _ => laneMstat (nat .mstat f) w))
/-- mstat in Prerin code (R263, R85). -/
def execMstatPrerin (p : PFields) (s : State) : Host.Outcome State Fault Refusal :=
  .next (s.lanes (pri .mstat p) (fun w _ _ => laneMstat (pri .mstat p) w))
/-- mfmt (R264). -/
def execMfmt (f : Fields) (s : State) : Host.Outcome State Fault Refusal :=
  .next (s.doMfmt (nat .mfmt f))
/-- mfmt in Prerin code (R264, R85). -/
def execMfmtPrerin (p : PFields) (s : State) : Host.Outcome State Fault Refusal :=
  .next (s.doMfmt (pri .mfmt p))

end Sys2Proof.Machine
end

