-- ==== Sys2Proof/Machine/Place.lean ====
section
/-! DEFINITION. What a core has free, the budgets of regions, and the placement of a workgroup: shared by gangs, waves,
lane workgroups and resumes (08_core.md R174, R175, R183, 11_program_fold.md R266, 13_cluster.md R272, 18_package.md
R368, R371, R372). -/
namespace Sys2Proof.Machine

/-! ## Kernel descriptors (R423, Table 21-5) -/

/-- The kernel descriptor that 64 bytes hold. -/
def kdOf (b : Nat → Byte) : KDesc :=
  let w := fun o => leNat b o 4
  { pentry := BitVec.ofNat 64 (leNat b 0 8)
    nentry := BitVec.ofNat 64 (leNat b 8 8)
    trap := BitVec.ofNat 64 (leNat b 16 8)
    ntag := bitsOf (w 0x18) 31 24
    accs := bitsOf (w 0x18) 19 16
    blk := bitsOf (w 0x18) 12 8
    leg := bitsOf (w 0x18) 7 7 == 1
    nen := bitsOf (w 0x18) 6 6 == 1
    tsm := bitsOf (w 0x18) 5 4
    scale := bitsOf (w 0x1C) 31 16
    scr := bitsOf (w 0x1C) 15 0
    pin := bitsOf (w 0x20) 31 16 }

/-- Whether every field of the 64 bytes lies in its range (Table 21-5). -/
def kdOk (b : Nat → Byte) : Bool :=
  let k := kdOf b
  let w := fun o => leNat b o 4
  (k.ntag == 3 || (k.ntag == 0 && k.nentry == 0)) && !k.pentry.getLsbD 0 && (k.ntag == 0 || k.nentry.getLsbD 0)
  && decide (k.accs ≤ 8) && decide (1 ≤ k.blk) && decide (k.blk ≤ 16) && decide (k.tsm ≤ 1) && decide (k.scale ≤ 64)
  && decide (k.scr ≤ 1024) && bitsOf (w 0x18) 23 20 == 0 && bitsOf (w 0x18) 15 13 == 0 && bitsOf (w 0x18) 3 0 == 0
  && bitsOf (w 0x20) 15 0 == 0 && (List.range 7).all (fun j => w (0x24 + 4 * j) == 0)

/-- The bytes of a read as a function of their offset. -/
def byteAt (l : List (Byte × Bool)) (k : Nat) : Byte := (l.getD k (0, false)).1

/-! ## Ownership of quadrants (R368) -/

/-- Whether a device may issue on a quadrant. -/
def Quad.mayIssue (q : Quad) (v : Nat) : Bool :=
  match q.own with
  | .none => false
  | .hard u => u == v
  | .shared l _ _ => l.any (fun e => e.1 == v)

/-- A quadrant of a core. -/
def State.quad (s : State) (d c q : Nat) : Quad := (s.core d c).quads.getD q Quad.zero
/-- The state with one quadrant changed. -/
def State.modQuad (s : State) (d c q : Nat) (f : Quad → Quad) : State :=
  s.modC d c (fun x => { x with quads := modAt x.quads q f })

/-! ## What is in use on a core (R174) -/

/-- Whether a workgroup holds core resources: it is alive and not Saved (Table 8-7). -/
def Group.holds (x : Group) : Bool := x.alive && x.save != .saved
/-- The workgroups that hold resources of a core. -/
def State.residents (s : State) (d c : Nat) : List Group := s.groups.filter (fun x => x.holds && x.die == d && x.core == c)

/-- The warps of workgroups in a quadrant. -/
def inQuad (gs : List Group) (q : Nat) : List Warp := gs.flatMap (fun x => x.warps.filter (fun w => w.quad == q))
/-- The warp slots in use. -/
def usedSlots (gs : List Group) (q : Nat) : List Nat := (inQuad gs q).map (fun w => w.slot)
/-- The register blocks that a warp holds; those on their way back count. -/
def Warp.held (w : Warp) : Nat := w.blocks - w.spilled.length + w.refill.length
/-- The register blocks in use, those in pools included (R273). -/
def usedBlocks (gs : List Group) (q : Nat) : Nat :=
  ((inQuad gs q).map Warp.held).sum + (gs.map (fun x => let p := FMap.get Pool.zero x.pools q; p.n - p.taken)).sum
/-- The accumulator tiles in use. -/
def usedTiles (gs : List Group) (q : Nat) : Nat := ((inQuad gs q).map (fun w => w.accs)).sum
/-- The scale memory in use, in bytes (R248). -/
def usedScale (gs : List Group) (q : Nat) : Nat :=
  ((gs.filter (fun x => x.warps.any (fun w => w.quad == q))).map (fun x => x.scaleSize)).sum

/-- The positions of a workgroup's allocation that hold a unit. -/
def Group.heldUnits (x : Group) : List Nat :=
  (List.range x.units.length).filter (fun u => !NSet.has x.spilledU u || NSet.has x.refillU u)
/-- The units of a bank group in use. -/
def usedUnits (gs : List Group) (b : Nat) : Nat :=
  (gs.map (fun x => (x.heldUnits.filter (fun u => x.units.getD u 0 == b)).length)).sum

/-- Whether a region has work that waits for resources: a saved workgroup, gangs of a launch, pending tasks, a recursion run
without its lanes. -/
def State.regionWaits (s : State) (r : Nat) : Bool :=
  s.groups.any (fun x => x.alive && x.region == r && x.save == .saved)
  || s.launches.any (fun l => l.region == r && decide (l.st < 2) && decide (FMap.total l.placed < l.gangs))
  || s.tasks.any (fun k => k.region == r)
  || s.spinners.any (fun x => x.region == r && x.st == .running && x.grp.isNone)
/-- Whether a region that took a lane set of a quadrant by a fold still holds it: while a warp of it stands there, or work of it
waits for resources (R30: the region that took it releases it). (DESIGN CHOICE, log 103). -/
def State.markHolds (s : State) (d c q r : Nat) : Bool :=
  ((s.regions[r]?).map (fun x => x.alive)).getD false
  && ((s.residents d c).any (fun x => x.region == r && x.warps.any (fun w => w.quad == q)) || s.regionWaits r)
/-- The region that holds a lane set of a quadrant by a fold: the last that took it, of those that hold it still. -/
def State.holderOf (s : State) (d c q k : Nat) : Option Nat :=
  (FMap.get [] (s.quad d c q).taken k).find? (fun r => s.markHolds d c q r)

/-- The lane sets of LS0 to LS(LSQ − 1) that no fold of another region holds (R266). -/
def State.freeLs (s : State) (d c q region : Nat) : BitVec 4 :=
  let lsq := s.eff 9 (fun x => x.lsq) region
  let free := fun (k : Nat) => decide (k < lsq) && ((s.holderOf d c q k).all (fun r => r == region))
  (List.range 4).foldl (fun (m : BitVec 4) k => if free k then m ||| (1#4 <<< k) else m) 0

/-- A lane set's takers without those that hold it no longer: once released, a hold does not come back (R30, R266). -/
def State.sweepQuad (s : State) (d c q : Nat) : State :=
  if (s.quad d c q).taken.isEmpty then s
  else
    let keep := fun (m : FMap (List Nat)) (e : Nat × List Nat) => FMap.set [] m e.1 (e.2.filter (fun r => s.markHolds d c q r))
    s.modQuad d c q (fun y => { y with taken := y.taken.foldl keep [] })
/-- Every quadrant's lane sets whose holds have ended are handed back. -/
def State.sweep (s : State) : State :=
  (List.range 4).foldl (fun s d => (s.die d).cores.foldl (fun s c =>
    (List.range 4).foldl (fun s q => s.sweepQuad d c.1 q) s) s) s

/-! ## Budgets (R371, R372) -/

/-- Whether region `a` is region `r` or an ancestor of it. -/
def upTo (rs : List Region) (a : Nat) : Nat → Nat → Bool
  | 0, r => a == r
  | n + 1, r => a == r || (match rs[r]?.bind (fun x => x.parent) with
    | none => false
    | some p => upTo rs a n p)
/-- Whether region `a` is region `r` or above it. -/
def State.above (s : State) (a r : Nat) : Bool := upTo s.regions a s.regions.length r
/-- Region `r` with its ancestors. -/
def State.line (s : State) (r : Nat) : List Nat := (List.range s.regions.length).filter (fun a => s.above a r)

/-- The workgroups that hold resources in a region or below it. -/
def State.under (s : State) (a : Nat) : List Group := s.groups.filter (fun x => x.holds && s.above a x.region)

/-- The bank groups in which workgroups hold units, each counted once a core. -/
def bankGroups (gs : List Group) : Nat :=
  ((gs.flatMap (fun x => x.heldUnits.map (fun u => (x.die, x.core, x.units.getD u 0)))).eraseDups).length
/-- The number of lane sets in a mask. -/
def lsCount (m : BitVec 4) : Nat := ((List.range 4).filter (fun k => m.getLsbD k)).length
/-- The lane sets that the regions of workgroups hold: in every quadrant the union of each region's masks (R372). -/
def lsHeld (gs : List Group) : Nat :=
  let cells := gs.flatMap (fun x => x.warps.map (fun w => (x.region, x.die, x.core, w.quad)))
  (cells.eraseDups.map (fun k => lsCount ((gs.flatMap (fun x => (x.warps.filter (fun w =>
    (x.region, x.die, x.core, w.quad) == k)).map (fun w => w.ls))).foldl (fun a b => a ||| b) 0))).sum

/-- The register blocks that a workgroup holds, its pools included (R273). -/
def Group.blocksHeld (x : Group) : Nat :=
  (x.warps.map Warp.held).sum + (x.pools.map (fun p => p.2.n - p.2.taken)).sum
/-- Whether the effective budgets of a region and of every ancestor hold (R371). -/
def State.budgetsOk (s : State) (r : Nat) : Bool :=
  (s.line r).all (fun a =>
    let gs := s.under a
    decide ((gs.map Group.blocksHeld).sum ≤ s.eff 1 (fun x => x.rb) a)
    && decide (bankGroups gs ≤ s.eff 2 (fun x => x.sbg) a)
    && decide ((gs.map (fun x => (x.warps.map (fun w => w.accs)).sum)).sum ≤ s.eff 3 (fun x => x.acc) a)
    && decide (lsHeld gs ≤ s.eff 0 (fun x => x.ls) a))

/-! ## Placement (R272, R266, R183) -/

/-- The quadrant and the slot that a warp takes among those of a core (R272). The matrix operations that a saved warp brings are
not counted against its unit's list (DESIGN CHOICE, log 104). -/
def State.pickQuad (s : State) (d c : Nat) (x : Group) (w : Warp) : Option (Nat × Nat) :=
  let gs := s.residents d c ++ [x]
  let scale := fun (q : Nat) => usedScale gs q + (if x.warps.any (fun y => y.quad == q) then 0 else x.scaleSize)
  let ok := (List.range 4).filter (fun q =>
    (s.quad d c q).mayIssue x.vdev && decide ((usedSlots gs q).length < 16) && decide (usedTiles gs q + w.accs ≤ 8)
    && decide (usedBlocks gs q + w.blocks ≤ 128) && decide (scale q ≤ 65536) && s.freeLs d c q x.region != 0)
  match minBy (fun q => usedBlocks gs q) ok with
  | none => none
  | some q =>
    ((List.range 16).find? (fun k => !(usedSlots gs q).contains k)).map (fun k => (q, k))

/-- Warps placed in ascending %wid behind those of `x` (R272); none where a quadrant lacks room. -/
def State.placeWarps (s : State) (d c : Nat) (x : Group) : List Warp → Option Group
  | [] => some x
  | w :: l =>
    match s.pickQuad d c x w with
    | none => none
    | some (q, k) =>
      s.placeWarps d c { x with warps := x.warps ++ [{ w with quad := q, slot := k, ls := s.freeLs d c q x.region }] } l

/-- Whether a list of bank groups gives an allocation of `n` bytes: free units of groups the device owns (R183). -/
def State.unitsOk (s : State) (d c v n : Nat) (units : List Nat) : Bool :=
  decide (1024 * units.length = n) && units.all (fun b =>
    decide (b < 16) && FMap.get 0 (s.core d c).groups b == v
    && decide (usedUnits (s.residents d c) b + (units.filter (fun u => u == b)).length ≤ 64))

/-- Whether a device admits nothing while it leaves for another part (R400). -/
def State.quiesced (s : State) (v : Nat) : Bool := ((s.vdev v).map (fun x => x.quiesced)).getD false

/-- Whether the core's scoreboard has room for `n` entries more (Table 8-1). -/
def State.boardFits (s : State) (d c n : Nat) : Bool :=
  decide (((s.residents d c).map (fun x => x.board.length)).sum + n ≤ 64)

/-- Free units for an allocation of `n` bytes, from the lowest bank group that has them (the choice is free, R183). -/
def State.someUnits (s : State) (d c v n : Nat) : List Nat :=
  let gs := s.residents d c
  ((List.range 16).flatMap (fun b =>
    if FMap.get 0 (s.core d c).groups b = v then List.replicate (64 - usedUnits gs b) b else [])).take (n / 1024)

/-- A workgroup placed on a core with its warps and units, all or none (R175); none where the core, the units or a budget
do not allow it. -/
def State.fit (s : State) (d c : Nat) (units : List Nat) (x : Group) (ws : List Warp) : Option Group :=
  let x := { x with
    die := d
    core := c
    units := units
    warps := []
    alive := true
    save := .running
    foldSave := false
    placed := s.clock }
  if (s.core d c).failed || s.quiesced x.vdev || decide (64 ≤ c) || decide (4 ≤ d) || !s.boardFits d c x.board.length || !s.unitsOk d c x.vdev x.scrSize units
      || !(s.eff 10 (fun y => y.dmask.toNat) x.region).testBit d then none
  else match s.placeWarps d c x ws with
  | none => none
  | some x => if { s with groups := s.groups ++ [x] }.budgetsOk x.region then some x else none

/-- A new workgroup: its warps enter with %resl acknowledged (R171). -/
def Group.fresh (x : Group) : Group := (List.range x.warps.length).foldl Group.ownResl x

/-- A new workgroup becomes resident on a core; its threads start with an acquire, at .cl those of a wave, at .dev the others
(Table 17-3). -/
def State.settleIn (s : State) (d c : Nat) (units : List Nat) (x : Group) (ws : List Warp) : Option State :=
  (s.fit d c units x ws).map (fun x => { s with groups := s.groups ++ [x.fresh] }.acquires s.groups.length (match x.kind with
    | .wave => 2
    | _ => 4))

/-- A slot's thread of a new warp: threads below `n` exist. -/
def newThreads (n : Nat) (f : Nat → Thread) : List Thread :=
  (List.range 32).map (fun t => if t < n then f t else Thread.absent)

/-- The pinned units of an allocation: `pin` KiB from `base` KiB on (Table 8-5). -/
def pinUnits (base pin : Nat) : List Nat := (List.range pin).map (fun k => base + k)

end Sys2Proof.Machine
end

