-- ==== Sys2Proof/Machine/Cluster.lean ====
section
/-! DEFINITION. The cluster: tasks and waves, hardware queues, register pools, early starts and the gang starter
(13_cluster.md R270–R285, R293–R300, R306, 16_die.md R311–R314). -/
namespace Sys2Proof.Machine

/-! ## Handles (R279, R373) -/

/-- The object address of a handle (Table 13-1). -/
def handleObj (h : DWord) : Nat := (h.extractLsb' 0 44).toNat * 64
/-- The CHECK of a handle. -/
def handleCheck (h : DWord) : Half := h.extractLsb' 48 16
/-- A handle for an object with its CHECK and rights [3:0]. -/
def mkHandle (check : Half) (rights obj : Nat) : DWord := check ++ BitVec.ofNat 4 rights ++ BitVec.ofNat 44 (obj / 64)

/-- The queue that a handle of a device names, where its CHECK matches. -/
def State.queueOf (s : State) (v : Nat) (h : DWord) : Option Nat :=
  s.queues.findIdx? (fun q => q.vdev == v && q.desc == handleObj h && q.check == handleCheck h)
/-- The state with one queue changed. -/
def State.modQ (s : State) (q : Nat) (f : HwQueue → HwQueue) : State := { s with queues := modAt s.queues q f }

/-- The state code of a queue (Table 13-2). -/
def QState.code : QState → Nat
  | .opened => 0
  | .error => 1
  | .draining => 2
  | .closed => 3

/-- The tag of a ticket (R281). -/
def HwQueue.tag (q : HwQueue) (t : Word) : Nat := (t.toNat / 2 ^ q.log2 + 1) % 65536
/-- Descriptor word 0x10. -/
def HwQueue.word10 (q : HwQueue) : Nat := q.err.toNat * 65536 + q.st.code * 256 + q.log2
/-- Descriptor word 0x14. -/
def HwQueue.word14 (q : HwQueue) : Nat := q.hdie * 2 ^ 22 + q.hcl * 65536 + q.check.toNat
/-- The 64 bytes of a descriptor (Table 13-2). -/
def HwQueue.bytes (q : HwQueue) : List Byte :=
  leBytes q.ring 8 ++ leBytes q.rdx.toNat 4 ++ leBytes q.wrx.toNat 4 ++ leBytes q.word10 4 ++ leBytes q.word14 4
    ++ leBytes (q.tag q.rdx) 4 ++ leBytes 0 36
/-- The memory copy of a descriptor written (R280). -/
def State.putDesc (s : State) (q : Nat) : State := s.vput (s.queue q).vdev (s.queue q).desc (s.queue q).bytes

/-- Whether ticket RDX is published, or the address that cannot be read (R281). -/
def State.published (s : State) (q : Nat) : Except Nat Bool :=
  let x := s.queue q
  if x.rdx = x.wrx then .ok false
  else match s.readN x.hdie x.vdev (x.slot x.rdx) 4 with
  | .error e => .error e.1
  | .ok l => .ok (leNat (byteAt l) 2 2 == x.tag x.rdx)

/-- The sixteen words of a slot as a delivery gives them (R283); or the address that cannot be read. -/
def State.slotWords (s : State) (q : Nat) : Except Nat (List Val) :=
  let x := s.queue q
  match s.readN x.hdie x.vdev (x.slot x.rdx) 64 with
  | .error e => .error e.1
  | .ok l => .ok ((List.range 16).map (fun k =>
      ⟨BitVec.ofNat 32 (leNat (byteAt l) (4 * k) (if k = 0 then 2 else 4)),
       (List.range 4).any (fun j => (l.getD (4 * k + j) (0, false)).2)⟩))

/-! ## Waiting threads (R282, R285) -/

/-- A thread taken off a queue's order. -/
def State.unqueue (s : State) (q : Nat) (t : TRef) : State :=
  s.modQ q (fun x => { x with waits := x.waits.filter (fun y => y.t != t) })
/-- A served thread goes on past its instruction. -/
def Thread.goOn (t : Thread) : Thread := { t with sched := .ready, pc := t.npc, tix := t.ntix }

/-- Every blocked thread of a queue, or those of one kind, takes trap 0x0B (R285). -/
def State.refuseAll (s : State) (q : Nat) (p : QAsk → Bool) : State :=
  let ws := (s.queue q).waits.filter (fun w => p w.ask)
  ws.foldl (fun s w =>
    let h : DWord := match (s.thr w.t.g w.t.w w.t.t).sched with
      | .blocked (.queue h) => h
      | _ => 0
    (s.unqueue q w.t).trapT w.t.g w.t.w w.t.t 0x0B h) s

/-- A draining queue with RDX = WRX becomes closed (R284). -/
def State.closeIfEmpty (s : State) (q : Nat) : State :=
  let x := s.queue q
  if x.st = .draining ∧ x.rdx = x.wrx then
    ((s.modQ q (fun x => { x with st := .closed })).putDesc q).refuseAll q (fun _ => true)
  else s

/-- A ticket reserved. -/
def State.reserve (s : State) (q : Nat) : State := s.modQ q (fun x => { x with wrx := x.wrx + 1 })

/-- The registers that qrsv returns for ticket `t` (R295). -/
def HwQueue.rsvEff (q : HwQueue) (d : Nat) (t : Word) : Eff :=
  (Eff.pair d (BitVec.ofNat 64 (q.slot t)) false).and
    ⟨[(d + 2, ⟨t, false⟩), (d + 3, ⟨BitVec.ofNat 32 (q.tag t * 65536), false⟩)], [], 0⟩

/-- The bytes that qenq writes into the slot of ticket `t` (R295). -/
def HwQueue.enqBytes (q : HwQueue) (x : Thread) (b : Nat) (t : Word) : List Byte :=
  (List.range 16).flatMap (fun k =>
    let v := (x.reg (b + k)).v.toNat
    leBytes (if k = 0 then v % 65536 + q.tag t * 65536 else v) 4)

/-- The unpoisoned predicate write of a TRY form. -/
def tryEff (pd : Option Nat) (v : Bool) : Eff :=
  match pd with
  | some k => Eff.pred k ⟨v, false⟩
  | none => Eff.none

/-- What serving a request came to: done, still waiting for the queue, or held at a slot that cannot be read or written
now. -/
inductive Served where
  | done (s : State)
  | waits
  | held (s : State)

/-- A slot read or written for a device by the controller: its tokens are taken, or its wait is noted (R333). -/
def State.paySlot (s : State) (x : HwQueue) (t : Word) (n : Need) : Except State State :=
  let r : List Req := [⟨x.slot t, 64, n⟩]
  match s.charge x.hdie x.vdev r with
  | .ok s => .ok s
  | .error _ => .error (s.markWait x.hdie x.vdev r)

/-- One request performed at the controller for a thread that goes on (R295, R296). -/
def State.serve (s : State) (q : Nat) (t : TRef) (a : QAsk) : Served :=
  let x := s.queue q
  let th := s.thr t.g t.w t.t
  let go := fun (s : State) (e : Eff) => (s.unqueue q t).modT t.g t.w t.t (fun y => (y.apply e).goOn)
  match a with
  | .rsv d =>
    if x.st ≠ .opened ∨ x.isFull then .waits else .done (go (s.reserve q) (x.rsvEff d x.wrx))
  | .enq pd b =>
    if x.st ≠ .opened ∨ x.isFull then .waits
    else if s.fetchHeld t then .held s
    else match s.paySlot x x.wrx .write with
    | .error s => .held s
    | .ok s1 =>
      match s1.writeClean x.hdie x.vdev (x.slot x.wrx) (x.enqBytes th b x.wrx) with
      | .error _ => .held s
      | .ok s' => .done (go (s'.reserve q) (tryEff pd true))
  | .deq d =>
    if x.st = .error ∨ x.st = .closed then .waits
    else match s.published q with
    | .error _ => .held s
    | .ok false => .waits
    | .ok true =>
      if s.fetchHeld t then .held s
      else match s.paySlot x x.rdx .read, s.slotWords q with
      | .error s, _ => .held s
      | .ok _, .error _ => .held s
      | .ok s, .ok l =>
        let s := s.modQ q (fun x => { x with rdx := x.rdx + 1 })
        let s := go s ⟨(List.range 16).map (fun k => (d + k, l.getD k Val.zero)), [], 0⟩
        .done ((s.received t.g (tid t.w t.t) 5).closeIfEmpty q)

/-- The blocked threads in the order of service: those of the home cluster first (R282). -/
def HwQueue.order (q : HwQueue) : List QWait := q.waits.filter (fun w => w.home) ++ q.waits.filter (fun w => !w.home)

/-- Whether a request dequeues. -/
def QAsk.isDeq : QAsk → Bool
  | .deq _ => true
  | _ => false

/-- The first of some requests that can be served, served; one held at its slot keeps its place, and with it those of its side
of the queue behind it, which `held` lists (R282, R306). -/
def State.serveIn (s : State) (q : Nat) (held : List Bool) : List QWait → Option State
  | [] => none
  | w :: l =>
    if held.contains w.ask.isDeq then s.serveIn q held l
    else match s.serve q w.t w.ask with
    | .done s' => some s'
    | .waits => s.serveIn q held l
    | .held _ => s.serveIn q (w.ask.isDeq :: held) l
/-- The first blocked thread of those that `p` takes which can be served, served. -/
def State.serveFirst (s : State) (q : Nat) (p : QAsk → Bool) : Option State :=
  s.serveIn q [] ((s.queue q).order.filter (fun w => p w.ask))

/-- Published tickets delivered to the threads blocked in qdeq, while there are both (R282). -/
def State.deliverAll (s : State) (q : Nat) : Nat → State
  | 0 => s
  | n + 1 =>
    match s.serveFirst q QAsk.isDeq with
    | none => s
    | some s' => s'.deliverAll q n
/-- What the controller has done before an operation reaches it: no published ticket waits beside a blocked dequeuer.
(DEDUCED, log 43). -/
def State.settleQ (s : State) (q : Nat) : State := s.deliverAll q (s.queue q).waits.length

/-- SLOT_HEADER_WRITE (R281, R282). -/
def execSlotHeaderWrite (q : Nat) (s : State) : Host.Outcome State Fault Refusal := .next (s.settleQ q)
/-- The accounts that blocked threads find empty at their slots marked as waiting (R334). -/
def State.markSlots (s : State) (q : Nat) : State :=
  (s.queue q).waits.foldl (fun s w => match s.slotWanted w.t with
    | some (v, d, va, opc) => s.markWait d v [⟨va, 64, fetchNeed opc⟩]
    | none => s) s
/-- QUEUE_SERVICE (R282): the first blocked thread that can be served. -/
def execQueueService (q : Nat) (s : State) : Host.Outcome State Fault Refusal :=
  .next ((s.serveFirst q (fun _ => true)).getD (s.markSlots q))

/-! ## Queue instructions (R295–R298) -/

/-- The handle in (A, A+1). -/
def Ins.handle (i : Ins) (t : Thread) : DWord := t.reg64 i.a

/-- The rights that an instruction needs, one of them (Table 13-3): bits of the handle. -/
def queueRights : Op → List Nat
  | .qrsv => [47]
  | .qenq => [47]
  | .qdeq => [46]
  | .qtry => [46]
  | .qsteal => [45]
  | .qerr => [46, 44]
  | .qrest => [44]
  | _ => []

/-- Whether an instruction raises 0x0B in a state (Table 13-3). -/
def queueRefuses (o : Op) (st : QState) : Bool :=
  match o, st with
  | .qrsv, .opened => false
  | .qenq, .opened => false
  | .qrsv, _ => true
  | .qenq, _ => true
  | .qdeq, .error => true
  | .qtry, .error => true
  | .qsteal, .error => true
  | .qstat, _ => false
  | _, .closed => true
  | _, _ => false

/-- The checks of a queue instruction (R279, R284, R297); they come before the trap of its poisoned operands (R33). -/
def chkQueue (i : Ins) (s : State) (g w t : Nat) : Cause :=
  let x := s.thr g w t
  let h := i.handle x
  match s.queueOf (s.grp g).vdev h with
  | none => some (0x0A, h)
  | some q =>
    if queueRights i.op ≠ [] ∧ !(queueRights i.op).any (fun k => h.getLsbD k) then some (0x0A, h)
    else
      let y := s.queue q
      if queueRefuses i.op y.st then some (0x0B, h)
      else if i.op = .qrest ∧ y.st = .error ∧ (y.wrx - y.rdx).toNat < ((x.reg i.b).v - y.rdx).toNat then
        some (0x0B, h)
      else none

/-- The queue that an instruction of a thread names, settled: no operation reaches a controller ahead of a delivery (R282). -/
def State.settleFor (s : State) (i : Ins) (g w t : Nat) : State :=
  if (s.thr g w t).guard i.f.guard = .take then
    match s.queueOf (s.grp g).vdev (i.handle (s.thr g w t)) with
    | none => s
    | some q => s.settleQ q
  else s
/-- The queues that threads of the pack in issue name, settled. -/
def State.settleNamed (s : State) (i : Ins) (act : List Nat) : State :=
  act.foldl (fun s' t => s'.settleFor i s.pack.g s.pack.w t) s

/-- A queue instruction: the checks and its effect at the controller stand at one place of the controller's order, thread by
thread; what a thread publishes is delivered before the next one comes (R282, R310). -/
def State.queueIns (s : State) (i : Ins) (body : State → Nat → Nat → Nat → Nat → State) : State :=
  s.front i.use (fun w t => gate w i t) (fun s act =>
    act.foldl (State.move1 i false (chkQueue i) (fun s g w t =>
      match s.queueOf (s.grp g).vdev (i.handle (s.thr g w t)) with
      | none => s
      | some q => (body s q g w t).settleQ q) s.pack.g s.pack.w) (s.settleNamed i act))

/-- What a step has published is delivered in that step to the threads blocked in qdeq, whoever wrote it (R281, R282). -/
def State.deliverQueues (s : State) : State :=
  (List.range s.queues.length).foldl (fun s q =>
    if (s.queue q).waits.any (fun w => w.ask.isDeq) then s.settleQ q else s) s

/-- Whether a thread stands in the home cluster of a queue. -/
def State.atHome (s : State) (q g : Nat) : Bool :=
  (s.grp g).die == (s.queue q).hdie && (s.grp g).core / 4 == (s.queue q).hcl

/-- A thread's request put into the controller's order. -/
def State.enrol (s : State) (q g w t : Nat) (a : QAsk) : State :=
  s.modQ q (fun x => { x with waits := x.waits ++ [⟨⟨g, w, t⟩, a, s.atHome q g⟩] })

/-- A request of a thread at its instruction: served at once, or the thread waits in the controller's order. -/
def State.ask (s : State) (i : Ins) (q g w t : Nat) (a : QAsk) : State :=
  let s1 := s.modT g w t (fun x => x.block (.queue (i.handle x)) i.words)
  match s1.serve q ⟨g, w, t⟩ a with
  | .done s' => s'
  | .waits => s1.enrol q g w t a
  | .held s' => s'.enrol q g w t a

/-- Whether the TRY bit is set. -/
def Ins.try' (i : Ins) : Bool := i.f.m.getLsbD 0

/-- qrsv (R295). -/
def State.doQrsv (s : State) (i : Ins) : State :=
  s.queueIns i (fun s q g w t =>
    if i.try' && (s.queue q).isFull then
      s.modT g w t (fun x => (x.apply ⟨(List.range 4).map (fun k => (i.d + k, Val.zero)), [], 0⟩).advance i.words)
    else s.ask i q g w t (.rsv i.d))

/-- qenq (R295): its release at .dev waits for the thread's earlier commands. -/
def State.doQenq (s : State) (i : Ins) : State :=
  s.queueIns i (fun s q g w t =>
    match s.relHold g w t 4 false with
    | some y => s.modT g w t (fun x => x.stall y)
    | none =>
      if i.try' && (s.queue q).isFull then
        s.modT g w t (fun x => (x.apply (tryEff (some i.d) false)).advance i.words)
      else
        let s := (s.releasedBy g (tid w t) 4).modT g w t (fun x => { x with spinCh := true })
        s.ask i q g w t (.enq (if i.try' then some i.d else none) i.b))

/-- qdeq (R296). -/
def State.doQdeq (s : State) (i : Ins) : State :=
  s.queueIns i (fun s q g w t =>
    match s.acqHold g w t with
    | some y => s.modT g w t (fun x => x.stall y)
    | none => s.ask i q g w t (.deq i.d))

/-- qtry and qsteal (R296): a published ticket, or failure. -/
def State.doQtry (s : State) (i : Ins) : State :=
  s.queueIns i (fun s q g w t =>
    match s.acqHold g w t with
    | some y => s.modT g w t (fun x => x.stall y)
    | none =>
      let s1 := s.modT g w t (fun x => x.block (.queue (i.handle x)) i.words)
      match s1.serve q ⟨g, w, t⟩ (.deq i.d) with
      | .done s' => s'.modT g w t (fun x => x.apply (tryEff (some (i.c % 8)) true))
      | .waits => s.modT g w t (fun x => (x.apply (tryEff (some (i.c % 8)) false)).advance i.words)
      | .held _ => s.modT g w t (fun x => x.stall (.fetch ((s.queue q).slot (s.queue q).rdx) i.op.code)))

/-- qerr (R297). -/
def State.doQerr (s : State) (i : Ins) : State :=
  s.queueIns i (fun s q g w t =>
    let s := s.modT g w t (fun x => x.advance i.words)
    match (s.queue q).st with
    | .error => s
    | _ =>
      let s := s.modQ q (fun x => { x with st := .error, err := BitVec.ofNat 16 i.immZ })
      (s.putDesc q).refuseAll q (fun _ => true))

/-- qrest (R297). -/
def State.doQrest (s : State) (i : Ins) : State :=
  s.queueIns i (fun s q g w t =>
    let b := ((s.thr g w t).reg i.b).v
    let s := s.modT g w t (fun x => x.advance i.words)
    if (s.queue q).st = .error then
      (s.modQ q (fun x => { x with st := .opened, err := 0, rdx := b })).putDesc q
    else s)

/-- qstat (R298). -/
def State.doQstat (s : State) (i : Ins) : State :=
  s.queueIns i (fun s q g w t =>
    let x := s.queue q
    let v := fun (n : Nat) => (⟨BitVec.ofNat 32 n, false⟩ : Val)
    s.modT g w t (fun y => (y.apply ⟨[(i.d, ⟨x.rdx, false⟩), (i.d + 1, ⟨x.wrx, false⟩), (i.d + 2, v x.word10),
      (i.d + 3, v x.word14)], [], 0⟩).advance i.words))

/-! ## Tasks (R276–R278, R294) -/

/-- The pending tasks of a cluster's former. -/
def State.formerTasks (s : State) (d cl : Nat) : List Task := s.tasks.filter (fun k => k.die == d && k.cl == cl)

/-- tspawn (R294): a release at .cl, then the task is handed over. -/
def State.doTspawn (s : State) (i : Ins) : State :=
  s.control i false noChk (fun s g w t =>
    match s.relHold g w t 2 false with
    | some y => s.modT g w t (fun x => x.stall y)
    | none =>
      let x := s.grp g
      let th := s.thr g w t
      if 1024 ≤ (s.formerTasks x.die (x.core / 4)).length || s.quiesced x.vdev then
        if i.try' then s.modT g w t (fun y => (y.apply (tryEff (some i.d) false)).advance i.words)
        else s.modT g w t (fun y => { y with sched := .blocked .former })
      else
        let (s, id) := (s.releasedBy g (tid w t) 2).newId
        let k : Task := ⟨id, x.die, x.core / 4, x.vdev, x.region, th.reg64 i.a,
          (List.range 8).map (fun j => th.reg (i.b + j)), s.clock + (s.die x.die).skew, false⟩
        { s.modT g w t (fun y => (y.apply (tryEff (if i.try' then some i.d else none) true)).advance i.words) with
          tasks := s.tasks ++ [k] })

/-- The pending tasks that would form one wave with a task: of its former, descriptor and region (R277). -/
def State.waveTasks (s : State) (k : Task) : List Task :=
  (s.formerTasks k.die k.cl).filter (fun x => x.desc == k.desc && x.region == k.region)

/-- Whether a wave of a task's group is due: 32 tasks, or 512 cc since the oldest came (R277). -/
def State.waveDue (s : State) (k : Task) : Bool :=
  match s.waveTasks k with
  | [] => false
  | l@(x :: _) => decide (32 ≤ l.length) || decide (x.at' + 512 ≤ s.clock + (s.die k.die).skew)

/-- The workgroup of a wave of `n` threads. -/
def waveGroup (v r : Nat) (kd : KDesc) : Group :=
  { Group.void with
    kind := .wave
    vdev := v
    region := r
    scrSize := 1024 * kd.scr
    scaleSize := 1024 * kd.scale
    pins := pinUnits 0 kd.pin }

/-- A thread of a wave with its argument record (R278). -/
def waveThread (kd : KDesc) (args : List Val) : Thread :=
  (Thread.create kd kd.entry .wave 0).setRegs ((List.range 8).map (fun j => (j, args.getD j Val.zero)))

/-- The wave that a task's group would form now: its tasks, its workgroup and its warp (R277, R278); none where it is not due, or
its descriptor cannot be read or breaks Table 21-5. (DESIGN CHOICE, log 40). -/
def State.waveOf (s : State) (k : Task) : Option (List Task × Group × List Warp) :=
  let l := (s.waveTasks k).take 32
  let stopped := l.any (fun x => (s.die k.die).faults.any (fun f => f.src == .task x.id))
  if !s.waveDue k || stopped then none
  else match s.readN k.die k.vdev k.desc.toNat 64 with
  | .error _ => none
  | .ok b =>
    if !kdOk (byteAt b) then none
    else
      let kd := kdOf (byteAt b)
      let ths := newThreads l.length (fun n => waveThread kd ((l.map (fun x => x.args)).getD n []))
      some (l, waveGroup k.vdev k.region kd, [Warp.new kd 0 0 kd.blk kd.accs 0 ths s.clock])
/-- A wave formed on a core of the former's cluster (R277, R278); none where there is none or the core cannot take it.
(DESIGN CHOICE, log 40). -/
def State.formWave (s : State) (core id : Nat) (units : List Nat) : Option State :=
  match s.tasks.find? (fun k => k.id == id) with
  | none => none
  | some k =>
    if core / 4 ≠ k.cl then none
    else match s.waveOf k with
    | none => none
    | some w => (s.settleIn k.die core units w.2.1 w.2.2).map (fun s =>
        { s with tasks := s.tasks.filter (fun x => !w.1.any (fun y => y.id == x.id)) })

/-- WAVE_FORMATION (R277). -/
def execWaveFormation (die cl core task : Nat) (units : List Nat) (s : State) : Host.Outcome State Fault Refusal :=
  match s.tasks.find? (fun k => k.id == task) with
  | none => .next s
  | some k => .next (if k.die = die ∧ k.cl = cl then (s.formWave core task units).getD s else s)

/-! ## Early starts (R274, R275, R299) -/

/-- A launch by its identifier. -/
def State.launch (s : State) (id : Nat) : Option Launch := s.launches.find? (fun l => l.id == id)

/-- Whether every group of a launch has exited. -/
def Launch.over (l : Launch) : Bool := l.st == 2 || decide (l.gangs ≤ FMap.total l.exited)

/-- Whether every group of a launch is marked: it has executed succ or has exited (R274). -/
def State.allMarked (s : State) (l : Launch) : Bool :=
  s.groups.all (fun g => match g.kind with
    | .gang k _ => k != l.id || !g.alive || g.succMark
    | _ => true)

/-- Whether the predecessors of a launch let its groups become resident (R274). -/
def State.mayStart (s : State) (l : Launch) : Bool :=
  l.preds.all (fun p => match s.launch p with
    | none => true
    | some x => x.over || (decide (x.gangs ≤ FMap.total x.placed) && l.shint && s.allMarked x))

/-- The predecessors of a thread's launch. -/
def State.predsOf (s : State) (g : Nat) : List Nat :=
  match (s.grp g).kind with
  | .gang l _ => ((s.launch l).map (fun x => x.preds)).getD []
  | _ => []

/-- succ (R299). -/
def State.doSucc (s : State) (i : Ins) : State :=
  s.once i false (fun s g _ _ _ => .done (s.modG g (fun x => { x with succMark := true })))

/-- wvis (R275, R387). -/
def State.doWvis (s : State) (i : Ins) : State :=
  s.control i false noChk (fun s g w t =>
    if !(s.predsOf g).all (fun p => ((s.launch p).map Launch.over).getD true) then
      s.modT g w t (fun x => { x with sched := .blocked .wvis })
    else match s.acqHold g w t with
    | some y => s.modT g w t (fun x => x.stall y)
    | none => (s.acquired g w t 4 true).modT g w t (fun x => x.advance i.words))

/-! ## Register pools (R273, R300) -/

/-- The registers at or above `r` of a thread gone. -/
def Thread.cutRegs (t : Thread) (r : Nat) : Thread := { t with g := t.g.filter (fun x => decide (x.1 < r)) }

/-- Blocks leave a warp for its quadrant's pool. -/
def Group.surrender (x : Group) (w n : Nat) : Group :=
  let y := x.wrp w
  let b := y.blocks - n
  let gone := y.spilled.filter (fun k => decide (b ≤ k))
  let p := FMap.get Pool.zero x.pools y.quad
  let cut := fun (y : Warp) =>
    { y.all (fun t => t.cutRegs (16 * b)) with
      blocks := b
      spilled := y.spilled.filter (fun k => decide (k < b))
      refill := y.refill.filter (fun k => decide (k < b))
      reach := match y.reach with
        | some k => if k < b then some k else none
        | none => none
      spillBad := y.spillBad.filter (fun r => decide (r.2 < 16 * b)) }
  let x := x.modW w cut
  { x with pools := FMap.set Pool.zero x.pools y.quad ⟨p.n + n, p.taken + gone.length⟩ }.ownResl w

/-- The registers that a request at a queue will write. -/
def QAsk.regs : QAsk → List Nat
  | .rsv d => (List.range 4).map (fun k => d + k)
  | .deq d => (List.range 16).map (fun k => d + k)
  | .enq _ _ => []
/-- Whether a thread of a warp waits at a queue for a result in a register from `r` on (R300, R81). -/
def State.queueWrites (s : State) (g w r : Nat) : Bool :=
  s.queues.any (fun q => q.waits.any (fun x => x.t.g == g && x.t.w == w && x.ask.regs.any (fun k => decide (r ≤ k))))

/-- rsurr (R300). -/
def State.doRsurr (s : State) (i : Ins) : State :=
  s.once i false (fun s g w _ _ =>
    let y := s.wrp g w
    let r := 16 * (y.blocks - i.immZ)
    if y.threads.any (fun t => t.pend.any (fun k => decide (r ≤ k))) || s.queueWrites g w r then .stall .interlock
    else .done (s.modG g (fun x => x.surrender w i.immZ)))

/-- Blocks enter a warp from its quadrant's pool: those that no fold has taken first, then spilled ones (R273).
(DEDUCED, log 37). -/
def Group.claim (x : Group) (w n : Nat) : Group :=
  let y := x.wrp w
  let p := FMap.get Pool.zero x.pools y.quad
  let real := min n (p.n - p.taken)
  let cold := (List.range (n - real)).map (fun k => y.blocks + real + k)
  let x := x.modW w (fun y => { y.all (fun t => t.cutRegs (16 * y.blocks)) with
    blocks := y.blocks + n
    spilled := y.spilled ++ cold })
  { x with pools := FMap.set Pool.zero x.pools y.quad ⟨p.n - n, p.taken - (n - real)⟩ }.ownResl w

/-- rclaim (R300). -/
def State.doRclaim (s : State) (i : Ins) : State :=
  s.once i false (fun s g w _ go =>
    let put := fun (s : State) (v : Bool) =>
      if i.try' then go.foldl (fun s t => s.modT g w t (fun x => x.apply (tryEff (some i.d) v))) s else s
    if (FMap.get Pool.zero (s.grp g).pools (s.wrp g w).quad).n < i.immZ then
      if i.try' then .done (put s false) else .block .pool
    else .done (put (s.modG g (fun x => x.claim w i.immZ)) true))

/-! ## The gang starter (R271, R272, R311–R314) -/

/-- One take at the counters of a launch from rank `d` on (R313): the gang index and the launch with its counter raised. -/
def Launch.take (l : Launch) (d : Nat) : Option (Nat × Launch) :=
  let n := l.tickets.length
  let ranks := (List.range (if l.dmode = 0 then n else 1)).map (fun i => (d + i) % n)
  match ranks.find? (fun r => match l.tickets[r]? with
    | some (_, c, e) => decide (c < e)
    | none => false) with
  | none => none
  | some r =>
    ((l.tickets[r]?).map (fun k => k.2.1)).map (fun c =>
      (c, { l with tickets := modAt l.tickets r (fun k => (k.1, k.2.1 + 1, k.2.2)) }))

/-- The threads of a launch warp: 32, at the role's entry (R29). -/
def launchThreads (kd : KDesc) : List Thread := newThreads 32 (fun _ => Thread.create kd kd.entry .launch 0)

/-- The warps of a gang in role order (R271). -/
def Launch.warps (l : Launch) (stamp : Nat) : List Warp :=
  l.roles.flatMap (fun r => List.replicate r.warps (Warp.new r.kd 0 0 r.blk r.acc 0 (launchThreads r.kd) stamp))

/-- The pinned units of a gang: each role's PIN from the start of its part (R364). -/
def Launch.pins (l : Launch) : List Nat :=
  (l.roles.foldl (fun (a : Nat × List Nat) r => (a.1 + r.scr, a.2 ++ pinUnits a.1 r.kd.pin)) (0, [])).2

/-- The workgroup of gang `n` of a launch (R271, R311). (DEDUCED, log 45). -/
def Launch.group (l : Launch) (n : Nat) : Group :=
  { Group.void with
    kind := .gang l.id n
    vdev := l.vdev
    region := l.region
    wgx := n % l.nx
    wgy := n / l.nx % l.ny
    wgz := n / (l.nx * l.ny)
    nwgx := l.nx
    nwgy := l.ny
    nwgz := l.nz
    wins := l.wins
    scrSize := 1024 * (l.roles.map (fun r => r.scr)).sum
    scaleSize := 1024 * (l.roles.map (fun r => r.kd.scale)).foldl max 0
    pins := l.pins }

/-- A gang of a launch placed on a core (R313); none where the launch may not start, the core cannot take a gang, or every
range searched is exhausted. -/
def State.placeGang (s : State) (id d c : Nat) (units : List Nat) : Option State :=
  match s.launch id with
  | none => none
  | some l =>
    match l.tickets.findIdx? (fun k => k.1 == d) with
    | none => none
    | some r =>
      if 2 ≤ l.st || !s.mayStart l then none
      else match l.take r with
      | none => none
      | some (n, l') =>
        (s.settleIn d c units (l.group n) (l.warps s.clock)).map (fun s =>
          let l' := { l' with st := 1, placed := FMap.set 0 l'.placed d (FMap.get 0 l'.placed d + 1) }
          { s with launches := s.launches.map (fun x => if x.id = id then l' else x) })

/-- GANG_PLACEMENT (R313). -/
def execGangPlacement (launch die core : Nat) (units : List Nat) (s : State) : Host.Outcome State Fault Refusal :=
  .next ((s.placeGang launch die core units).getD s)

/-! ## The instructions -/

/-- tspawn (R294). -/
def execTspawn (f : Fields) (s : State) : Host.Outcome State Fault Refusal :=
  .next (s.doTspawn (nat .tspawn f))
/-- tspawn in Prerin code (R294, R85). -/
def execTspawnPrerin (p : PFields) (s : State) : Host.Outcome State Fault Refusal :=
  .next (s.doTspawn (pri .tspawn p))
/-- qrsv (R295). -/
def execQrsv (f : Fields) (s : State) : Host.Outcome State Fault Refusal :=
  .next (s.doQrsv (nat .qrsv f))
/-- qrsv in Prerin code (R295, R85). -/
def execQrsvPrerin (p : PFields) (s : State) : Host.Outcome State Fault Refusal :=
  .next (s.doQrsv (pri .qrsv p))
/-- qenq (R295). -/
def execQenq (f : Fields) (s : State) : Host.Outcome State Fault Refusal :=
  .next (s.doQenq (nat .qenq f))
/-- qenq in Prerin code (R295, R85). -/
def execQenqPrerin (p : PFields) (s : State) : Host.Outcome State Fault Refusal :=
  .next (s.doQenq (pri .qenq p))
/-- qdeq (R296). -/
def execQdeq (f : Fields) (s : State) : Host.Outcome State Fault Refusal :=
  .next (s.doQdeq (nat .qdeq f))
/-- qdeq in Prerin code (R296, R85). -/
def execQdeqPrerin (p : PFields) (s : State) : Host.Outcome State Fault Refusal :=
  .next (s.doQdeq (pri .qdeq p))
/-- qtry (R296). -/
def execQtry (f : Fields) (s : State) : Host.Outcome State Fault Refusal :=
  .next (s.doQtry (nat .qtry f))
/-- qtry in Prerin code (R296, R85). -/
def execQtryPrerin (p : PFields) (s : State) : Host.Outcome State Fault Refusal :=
  .next (s.doQtry (pri .qtry p))
/-- qsteal (R296). -/
def execQsteal (f : Fields) (s : State) : Host.Outcome State Fault Refusal :=
  .next (s.doQtry (nat .qsteal f))
/-- qsteal in Prerin code (R296, R85). -/
def execQstealPrerin (p : PFields) (s : State) : Host.Outcome State Fault Refusal :=
  .next (s.doQtry (pri .qsteal p))
/-- qerr (R297). -/
def execQerr (f : Fields) (s : State) : Host.Outcome State Fault Refusal :=
  .next (s.doQerr (nat .qerr f))
/-- qerr in Prerin code (R297, R85). -/
def execQerrPrerin (p : PFields) (s : State) : Host.Outcome State Fault Refusal :=
  .next (s.doQerr (pri .qerr p))
/-- qrest (R297). -/
def execQrest (f : Fields) (s : State) : Host.Outcome State Fault Refusal :=
  .next (s.doQrest (nat .qrest f))
/-- qrest in Prerin code (R297, R85). -/
def execQrestPrerin (p : PFields) (s : State) : Host.Outcome State Fault Refusal :=
  .next (s.doQrest (pri .qrest p))
/-- qstat (R298). -/
def execQstat (f : Fields) (s : State) : Host.Outcome State Fault Refusal :=
  .next (s.doQstat (nat .qstat f))
/-- qstat in Prerin code (R298, R85). -/
def execQstatPrerin (p : PFields) (s : State) : Host.Outcome State Fault Refusal :=
  .next (s.doQstat (pri .qstat p))
/-- succ (R299). -/
def execSucc (f : Fields) (s : State) : Host.Outcome State Fault Refusal :=
  .next (s.doSucc (nat .succ f))
/-- succ in Prerin code (R299, R85). -/
def execSuccPrerin (p : PFields) (s : State) : Host.Outcome State Fault Refusal :=
  .next (s.doSucc (pri .succ p))
/-- wvis (R275). -/
def execWvis (f : Fields) (s : State) : Host.Outcome State Fault Refusal :=
  .next (s.doWvis (nat .wvis f))
/-- wvis in Prerin code (R275, R85). -/
def execWvisPrerin (p : PFields) (s : State) : Host.Outcome State Fault Refusal :=
  .next (s.doWvis (pri .wvis p))
/-- rsurr (R300). -/
def execRsurr (f : Fields) (s : State) : Host.Outcome State Fault Refusal :=
  .next (s.doRsurr (nat .rsurr f))
/-- rsurr in Prerin code (R300, R85). -/
def execRsurrPrerin (p : PFields) (s : State) : Host.Outcome State Fault Refusal :=
  .next (s.doRsurr (pri .rsurr p))
/-- rclaim (R300). -/
def execRclaim (f : Fields) (s : State) : Host.Outcome State Fault Refusal :=
  .next (s.doRclaim (nat .rclaim f))
/-- rclaim in Prerin code (R300, R85). -/
def execRclaimPrerin (p : PFields) (s : State) : Host.Outcome State Fault Refusal :=
  .next (s.doRclaim (pri .rclaim p))

end Sys2Proof.Machine
end

