-- ==== Sys2Proof/Machine/Spinner.lean ====
section
/-! DEFINITION. The Spinner: recursion objects, frames, routines and their assignment to lanes, and failures of the cluster
unit (13_cluster.md R286–R292, R301–R306, 14_program_recursion.md R307–R309). -/
namespace Sys2Proof.Machine

/-! ## Frames (R287, Table 13-7) -/

/-- A recursion run that does not exist. -/
def Spinner.void : Spinner where
  die := 0
  cl := 0
  vdev := 0
  region := 0
  obj := 0
  divE := 0
  baseE := 0
  combE := 0
  kdesc := KDesc.zero
  pool := 0
  psize := 0
  lanesN := 0
  maxDepth := 0
  fan := 0
  resA := 0
  frames := []
  pending := []
  bfs := false
  level := 0
  lanes := []
  grp := none
  st := .aborted
/-- A recursion run by its number. -/
def State.spin (s : State) (n : Nat) : Spinner := s.spinners.getD n Spinner.void
/-- The state with one recursion run changed. -/
def State.modSpin (s : State) (n : Nat) (f : Spinner → Spinner) : State := { s with spinners := modAt s.spinners n f }

/-- What stands for a frame that does not exist. -/
def Frame.void : Frame := ⟨0, none, 0, 0, .done, 0, 0, 0, [], []⟩
/-- A frame by its index. -/
def Spinner.frame? (x : Spinner) (f : Nat) : Option Frame := x.frames.find? (fun y => y.ix == f)
/-- A frame by its index. -/
def Spinner.frame (x : Spinner) (f : Nat) : Frame := (x.frame? f).getD Frame.void
/-- A run with one frame changed. -/
def Spinner.modFrame (x : Spinner) (f : Nat) (g : Frame → Frame) : Spinner :=
  { x with frames := modFirst (fun y => y.ix == f) g x.frames }

/-- The state code of a frame (Table 13-7). -/
def FState.code : FState → Nat
  | .pending => 1
  | .dividing => 2
  | .waiting => 3
  | .combining => 4
  | .done => 5

/-- A header's second word. -/
def Frame.word4 (f : Frame) (st : Nat) : Nat :=
  f.ndone * 2 ^ 28 + f.nch * 2 ^ 24 + st * 65536 + f.depth * 256 + f.cix
/-- The 64 bytes of a frame with a state code, and the poison of its words. -/
def Frame.bytes (f : Frame) (st : Nat) : List Byte :=
  leBytes (f.parent.getD 0xFFFFFFFF) 4 ++ leBytes (f.word4 st) 4 ++ leBytes 0 8
    ++ (List.range 8).flatMap (fun k => leBytes (f.arg.getD k Val.zero).v.toNat 4)
    ++ (List.range 4).flatMap (fun k => leBytes (f.res.getD k Val.zero).v.toNat 4)
/-- A new frame written to the pool (R287): its sectors carry the poison of its words (R62). (DEDUCED, log 42). -/
def State.putFrame (s : State) (n : Nat) (f : Frame) (st : Nat) : State :=
  let x := s.spin n
  let va := x.pool + 64 * f.ix
  let vals := (List.range 8).map (fun k => f.arg.getD k Val.zero) ++ (List.range 4).map (fun k => f.res.getD k Val.zero)
  (s.vput x.vdev va (f.bytes st)).putVals x.die x.vdev (va + 16) vals
/-- A frame's header written to the pool with a state code: its argument and result stay as software left them (R287).
(DEDUCED, log 42). -/
def State.putHead (s : State) (n : Nat) (f : Frame) (st : Nat) : State :=
  s.vput (s.spin n).vdev ((s.spin n).pool + 64 * f.ix) ((f.bytes st).take 16)

/-- A frame changed, in the run and in the header of its record. -/
def State.setFrame (s : State) (n f : Nat) (g : Frame → Frame) : State :=
  let s := s.modSpin n (fun x => x.modFrame f g)
  let y := (s.spin n).frame f
  s.putHead n y y.st.code
/-- A frame's result stored, in the run and in its record (R291). -/
def State.setRes (s : State) (n f : Nat) (res : List Val) : State :=
  let x := s.spin n
  (s.modSpin n (fun x => x.modFrame f (fun z => { z with res := res }))).putVals x.die x.vdev (x.pool + 64 * f + 0x30) res
/-- An argument or result word of a frame poisoned where it stands. -/
def State.spoilFrame (s : State) (n f k : Nat) (res : Bool) : State :=
  let x := s.spin n
  let va := x.pool + 64 * f + (if res then 0x30 else 0x10) + 4 * k
  match s.readN x.die x.vdev va 4 with
  | .error _ => s
  | .ok l => match s.writeN x.die x.vdev va true (l.map (fun b => b.1)) with
    | .ok s' => s'
    | .error _ => s

/-- The lowest free frame index (R287). -/
def Spinner.free (x : Spinner) : Option Nat :=
  (List.range (min (x.psize / 64) (x.frames.length + 1))).find? (fun k => !x.frames.any (fun f => f.ix == k))

/-- A frame allocated. -/
def State.newFrame (s : State) (n ix : Nat) (parent : Option Nat) (depth cix : Nat) (arg : List Val) : State :=
  let f : Frame := ⟨ix, parent, 0, 0, .pending, depth, cix, 0, arg, List.replicate 4 Val.zero⟩
  (s.modSpin n (fun x => { x with frames := x.frames ++ [f] })).putFrame n f 1

/-- The children of a frame in ascending CIX. -/
def Spinner.children (x : Spinner) (f : Nat) : List Frame :=
  sortBy (fun a b => decide (a.cix ≤ b.cix)) (x.frames.filter (fun y => y.parent == some f))

/-! ## Routines (R288) -/

/-- The lane that a thread is, with its run and its routine. -/
def State.laneOf (s : State) (g w t : Nat) : Option (Nat × Nat × Nat × Routine) :=
  match (s.thr g w t).kind with
  | .lane n l => (((s.spin n).lanes[l]?).bind (fun y => y.cur)).map (fun c => (n, l, c.1, c.2))
  | _ => none

/-- The entry of a routine. -/
def Spinner.entry (x : Spinner) : Routine → DWord
  | .divide => x.divE
  | .base => x.baseE
  | .combine => x.combE

/-- A run with one lane changed. -/
def Spinner.modLane (x : Spinner) (l : Nat) (f : Lane → Lane) : Spinner := { x with lanes := modAt x.lanes l f }

/-- The argument and result words of a frame as they stand in its record in the pool (R287, R288), or as the Spinner keeps
them where the record cannot be read. (DEDUCED, log 85). -/
def State.frameVals (s : State) (n f : Nat) : List Val :=
  let x := s.spin n
  let y := x.frame f
  match s.readN x.die x.vdev (x.pool + 64 * f + 0x10) 48 with
  | .error _ => (List.range 8).map (fun k => y.arg.getD k Val.zero) ++ (List.range 4).map (fun k => y.res.getD k Val.zero)
  | .ok l => (List.range 12).map (fun k =>
      ⟨BitVec.ofNat 32 (leNat (byteAt l) (4 * k) 4), (List.range 4).any (fun j => (l.getD (4 * k + j) (0, false)).2)⟩)

/-- A thread at the start of a routine, with the frame's argument in g0–g7 and its result in g8–g11 (R288). -/
def Thread.routine (t : Thread) (e : DWord) (vals : List Val) : Thread :=
  { t.setRegs ((List.range 12).map (fun k => (k, vals.getD k Val.zero))) with
    pc := e &&& ~~~1#64
    tix := 0
    mode := if e.getLsbD 0 then .native else .prerin
    status := setHnd t.status false
    sched := .ready }

/-- A lane starts a routine on a frame, with an acquire at .dev (R288). -/
def State.startRoutine (s : State) (n l f : Nat) (r : Routine) : State :=
  let x := s.spin n
  match x.grp with
  | none => s
  | some g =>
    let y := s.frameVals n f
    let s := s.modSpin n (fun x => x.modLane l (fun a => { a with cur := some (f, r) }))
    let s := match r with
      | .divide => s.setFrame n f (fun z => { z with st := .dividing })
      | .base => s
      | .combine => s.setFrame n f (fun z => { z with st := .combining })
    (s.modT g (l / 32) (l % 32) (fun t => t.routine (x.entry r) y)).received g l 4

/-- A lane's routine ends: its thread is Blocked until another is assigned (R288). -/
def State.endRoutine (s : State) (n l : Nat) : State :=
  let s := s.modSpin n (fun x => x.modLane l (fun a => { a with cur := none }))
  match (s.spin n).grp with
  | none => s
  | some g => s.modT g (l / 32) (l % 32) (fun t => { t with sched := .blocked .lane, spinN := 0 })

/-! ## Which routine a lane takes (R289, R290) -/

/-- The deepest, then lowest, ready combine above the switch-over level that falls to a lane (R290 rule 1). -/
def Spinner.ready (x : Spinner) (l : Nat) : Option Nat :=
  let c := x.frames.filter (fun f => f.st == .waiting && f.ndone == f.nch && decide (f.depth < x.level)
    && f.pos % x.lanesN == l)
  (c.foldl (fun (best : Option Frame) f =>
    match best with
    | none => some f
    | some b => if b.depth < f.depth ∨ (b.depth = f.depth ∧ f.pos < b.pos) then some f else some b) none).map (fun f => f.ix)

/-- The next routine of the walk of a frame's subtree: its divide, its children's subtrees, its combine (R290). -/
def Spinner.walk (x : Spinner) : Nat → Nat → Option (Nat × Routine)
  | 0, _ => none
  | k + 1, f =>
    match x.frame? f with
    | none => none
    | some y =>
      match y.st with
      | .pending => some (f, .divide)
      | .waiting =>
        match (x.children f).find? (fun c => c.st != .done) with
        | some c => x.walk k c.ix
        | none => some (f, .combine)
      | _ => none

/-- The next routine of a lane when the expansion is over (R290). -/
def Spinner.next (x : Spinner) (l : Nat) : Option (Nat × Routine) :=
  match x.ready l with
  | some f => some (f, .combine)
  | none =>
    match x.lanes[l]? with
    | none => none
    | some a => a.todo.findSome? (fun f => x.walk 66 f)

/-- Every idle lane takes its next routine, in ascending order (R308, R309). -/
def State.assign (s : State) (n : Nat) : State :=
  (List.range (s.spin n).lanesN).foldl (fun (s : State) l =>
    let x := s.spin n
    if (x.lanes[l]?).bind (fun a => a.cur) = none then
      (match x.next l with
       | some (f, r) => s.startRoutine n l f r
       | none => s)
    else s) s

/-- The test at the head of the expansion's loop (R289): the switch-over, or the divides of one level. -/
def State.expand (s : State) (n : Nat) : State :=
  let x := s.spin n
  let p := x.pending
  if x.lanesN ≤ p.length ∨ x.psize / 64 < x.frames.length + p.length * x.fan then
    let todo := fun (l : Nat) => ((List.range p.length).filter (fun k => k % x.lanesN == l)).map (fun k => p.getD k 0)
    (s.modSpin n (fun x => { x with
      bfs := false
      lanes := (List.range x.lanesN).map (fun l => ⟨todo l, none⟩) })).assign n
  else (List.range p.length).foldl (fun s k => s.startRoutine n k (p.getD k 0) .divide) s

/-- A level whose divides have all ended: its children are the next level, by their parent's position, then CIX; without
any the expansion stops (R289). -/
def State.nextLevel (s : State) (n : Nat) : State :=
  let x := s.spin n
  let kids := x.pending.flatMap (fun f => (x.children f).map (fun c => c.ix))
  if kids.isEmpty then (s.modSpin n (fun x => { x with bfs := false, pending := [] })).assign n
  else
    let pos := fun (f : Frame) => match kids.findIdx? (fun k => k == f.ix) with
      | some k => { f with pos := k }
      | none => f
    (s.modSpin n (fun x => { x with pending := kids, level := x.level + 1, frames := x.frames.map pos })).expand n

/-- The run ends with its root complete: RES, then STATUS := 2 with a release at .dev, and its lanes exit (R291). -/
def State.finishRun (s : State) (n : Nat) (root : Frame) : State :=
  let x := s.spin n
  let s := s.putVals x.die x.vdev x.resA root.res
  let s := s.putHead n root 0
  let s := match x.grp with
    | some g => s.released g 4
    | none => s
  let s := s.vput x.vdev (x.obj + 0x60) (leBytes 2 4)
  let s := s.modSpin n (fun x => { x with st := .done, frames := [], pending := [], lanes := [] })
  match x.grp with
  | none => s
  | some g => (s.grp g).liveIds.foldl (fun s u => s.exitT g (u / 32) (u % 32)) s

/-- What the Spinner does when the routines of a pack have ended (R289–R291, R308). -/
def State.advanceRun (s : State) (n : Nat) : State :=
  let x := s.spin n
  if x.st ≠ .running then s
  else match x.frames.find? (fun f => f.parent == none && f.st == .done) with
  | some root => s.finishRun n root
  | none =>
    if !x.bfs then s.assign n
    else if x.lanes.all (fun l => l.cur == none) then s.nextLevel n
    else s

/-- A frame completes with a result (R291): its parent counts it, and where its combine ended its children are freed
(R287). -/
def State.complete (s : State) (n f : Nat) (res : List Val) : State :=
  let y := (s.spin n).frame f
  let kids := (s.spin n).children f
  let s := kids.foldl (fun s c => s.putHead n c 0) s
  let s := s.modSpin n (fun x => { x with
    frames := x.frames.filter (fun z => z.parent != some f)
    lanes := x.lanes.map (fun l => { l with todo := l.todo.filter (fun k => k != f) }) })
  let s := (s.setFrame n f (fun z => { z with st := .done })).setRes n f res
  match y.parent with
  | none => s
  | some p => s.setFrame n p (fun z => { z with ndone := z.ndone + 1 })

/-! ## rdone and rret (R303, R278) -/

/-- Whether a thread was created by a task former. -/
def Thread.isWave (t : Thread) : Bool := t.kind == .wave

/-- The legality of rdone and rret (R293, R303). -/
def chkEnd (i : Ins) (s : State) (g w t : Nat) : Cause :=
  if (s.thr g w t).isWave then none
  else match s.laneOf g w t with
  | none => some (0x01, i.word)
  | some (n, _, f, r) =>
    if i.op = .rdone then (if r = .divide then none else some (0x01, i.word))
    else if r = .divide ∧ ((s.spin n).frame f).nch ≠ 0 then some (0x01, i.word) else none

/-- rdone or rret in one thread: a release at .dev, then the routine ends. -/
def State.end1 (s : State) (i : Ins) (g w t : Nat) : State :=
  match s.relHold g w t 4 false with
  | some y => s.modT g w t (fun x => x.stall y)
  | none =>
    match s.laneOf g w t with
    | none => s.exitT g w t
    | some (n, l, f, _) =>
      let res := (List.range 4).map (fun k => (s.thr g w t).reg (8 + k))
      let s := (s.releasedBy g (tid w t) 4).endRoutine n l
      if i.op = .rdone ∧ ((s.spin n).frame f).nch ≠ 0 then s.setFrame n f (fun z => { z with st := .waiting })
      else s.complete n f res

/-- The run whose lanes a workgroup holds. -/
def State.runOf (s : State) (g : Nat) : Option Nat :=
  match (s.grp g).kind with
  | .lanes n => some n
  | _ => none

/-- rdone and rret (R303): every completion of the pack, then the choices (R308). -/
def State.doEnd (s : State) (i : Ins) : State :=
  let s' := s.control i false (chkEnd i) (fun s g w t => s.end1 i g w t)
  match s.runOf s.pack.g with
  | some n => s'.advanceRun n
  | none => s'

/-! ## rchild, rres, rinfo, rbase, rabort (R302, R304, R305) -/

/-- The checks of rchild that look at no poisoned value (R302, R292). -/
def chkChild (i : Ins) (s : State) (g w t : Nat) : Cause :=
  match s.laneOf g w t with
  | none => some (0x01, i.word)
  | some (n, _, f, r) =>
    let x := s.spin n
    let y := x.frame f
    if r ≠ .divide ∨ y.nch = x.fan then some (0x01, i.word)
    else if y.depth = x.maxDepth then some (0x0C, BitVec.ofNat 64 (x.pool + 64 * f))
    else if x.free = none then some (0x0D, BitVec.ofNat 64 x.obj)
    else none

/-- rchild (R302). -/
def State.doChild (s : State) (i : Ins) : State :=
  s.control i false (chkChild i) (fun s g w t =>
    match s.laneOf g w t with
    | none => s
    | some (n, _, f, _) =>
      let x := s.spin n
      let y := x.frame f
      let th := s.thr g w t
      match x.free with
      | none => s
      | some k =>
        let s := s.newFrame n k (some f) (y.depth + 1) y.nch ((List.range 8).map (fun j => th.reg (i.b + j)))
        (s.setFrame n f (fun z => { z with nch := z.nch + 1 })).modT g w t (fun x => x.advance i.words))

/-- The child index of rres (R304). -/
def Ins.childIx (i : Ins) (t : Thread) : Nat := if i.imm then i.immZ else (t.reg i.b).v.toNat

/-- The checks of rres (R304); they come before the trap of a poisoned index (R33). -/
def chkRres (i : Ins) (s : State) (g w t : Nat) : Cause :=
  let th := s.thr g w t
  match s.laneOf g w t with
  | none => some (0x01, i.word)
  | some (n, _, f, r) =>
    if r ≠ .combine then some (0x01, i.word)
    else if ((s.spin n).frame f).nch ≤ i.childIx th then some (0x01, i.word) else none

/-- rres (R304). -/
def State.doRres (s : State) (i : Ins) : State :=
  s.control i false (chkRres i) (fun s g w t =>
    match s.laneOf g w t with
    | none => s
    | some (n, _, f, _) =>
      match ((s.spin n).children f)[i.childIx (s.thr g w t)]? with
      | none => s
      | some c =>
        let v := (s.frameVals n c.ix).drop 8
        s.modT g w t (fun x =>
          (x.apply ⟨(List.range 4).map (fun k => (i.d + k, v.getD k Val.zero)), [], 0⟩).advance i.words))

/-- A thread that runs no routine traps (R293). -/
def chkLane (i : Ins) (s : State) (g w t : Nat) : Cause := if (s.laneOf g w t).isNone then some (0x01, i.word) else none

/-- The kind of a routine as rinfo gives it. -/
def Routine.code : Routine → Nat
  | .divide => 0
  | .base => 1
  | .combine => 2

/-- rinfo (R304). -/
def State.doRinfo (s : State) (i : Ins) : State :=
  s.control i false (chkLane i) (fun s g w t =>
    match s.laneOf g w t with
    | none => s
    | some (n, _, f, r) =>
      let x := s.spin n
      let y := x.frame f
      let deep := if !x.bfs && decide (x.level ≤ y.depth) then 1 else 0
      let v := r.code * 2 ^ 24 + deep * 65536 + y.nch * 4096 + y.cix * 256 + y.depth
      s.modT g w t (fun x => (x.apply (Eff.pair i.d (BitVec.ofNat 64 (v + f * 2 ^ 32)) false)).advance i.words))

/-- The legality of rbase (R305). -/
def chkRbase (i : Ins) (s : State) (g w t : Nat) : Cause :=
  match s.laneOf g w t with
  | some (n, _, f, .divide) => if ((s.spin n).frame f).nch = 0 then none else some (0x01, i.word)
  | _ => some (0x01, i.word)

/-- rbase (R305): the base routine of the same frame in the same thread. -/
def State.doRbase (s : State) (i : Ins) : State :=
  s.control i false (chkRbase i) (fun s g w t =>
    match s.laneOf g w t with
    | none => s
    | some (n, l, f, _) => (s.modT g w t (fun x => { x with spinN := 0 })).startRoutine n l f .base)

/-- rabort (R305, R292). (DEDUCED, log 41). -/
def State.doRabort (s : State) (i : Ins) : State :=
  s.control i false (chkLane i) (fun s g w t =>
    match s.laneOf g w t with
    | none => s
    | some (n, _, _, _) => s.abortSpinner n (if i.imm then i.immZ else 0))

/-! ## rstart (R286, R301) -/

/-- The region that a handle of a device names, with a right: 47 launch, 46 create child, 45 fault, 44 modify (R373). -/
def State.regionOf (s : State) (v : Nat) (h : DWord) (right : Nat) : Option Nat :=
  if !h.getLsbD right then none
  else s.regions.findIdx? (fun r => r.alive && r.vdev == v && r.addr == handleObj h && r.check == handleCheck h)

/-- Whether an entry is aligned for its mode (R90). -/
def entryOk (e : Nat) : Bool := if e % 2 = 1 then e % 8 == 1 else e % 4 == 0

/-- The run that the 128 bytes of an object describe (Table 13-6). -/
def spinnerOf (b : Nat → Byte) (x : Group) (obj : Nat) (kd : KDesc) (region : Nat) : Spinner :=
  let w := leNat b 0x2C 4
  { Spinner.void with
    die := x.die
    cl := x.core / 4
    vdev := x.vdev
    region := region
    obj := obj
    divE := BitVec.ofNat 64 (leNat b 0 8)
    baseE := BitVec.ofNat 64 (leNat b 8 8)
    combE := BitVec.ofNat 64 (leNat b 16 8)
    kdesc := kd
    pool := leNat b 0x20 8
    psize := leNat b 0x28 4
    lanesN := bitsOf w 31 16
    maxDepth := bitsOf w 14 8
    fan := bitsOf w 3 0
    resA := leNat b 0x30 8
    bfs := true
    st := .running }

/-- Whether an object's fields meet Table 13-6, PSIZE's least size apart. -/
def objectOk (b : Nat → Byte) : Bool :=
  let w := leNat b 0x2C 4
  [0, 8, 16].all (fun o => entryOk (leNat b o 8)) && leNat b 0x18 8 % 64 == 0 && leNat b 0x20 8 % 64 == 0
  && leNat b 0x28 4 % 64 == 0 && leNat b 0x30 8 % 16 == 0
  && decide (1 ≤ bitsOf w 31 16) && decide (bitsOf w 31 16 ≤ 256) && bitsOf w 15 15 == 0
  && decide (1 ≤ bitsOf w 14 8) && decide (bitsOf w 14 8 ≤ 64) && bitsOf w 7 4 == 0
  && decide (1 ≤ bitsOf w 3 0) && decide (bitsOf w 3 0 ≤ 8) && leNat b 0x68 8 == 0 && leNat b 0x70 8 == 0 && leNat b 0x78 8 == 0

/-- The runs of a cluster that have not ended (R288). -/
def State.running (s : State) (d cl : Nat) : Nat :=
  (s.spinners.filter (fun x => x.st == .running && x.die == d && x.cl == cl)).length

/-- The region that an object names for a thread of a workgroup, with its handle (Table 13-6 REGION). -/
def State.startRegion (s : State) (x : Group) (b : Nat → Byte) : Option Nat :=
  let h := BitVec.ofNat 64 (leNat b 0x38 8)
  if h = 0 then some x.region
  else (s.regionOf x.vdev h 47).bind (fun r => if s.above x.region r then some r else none)

/-- The refusals of rstart that the object gives (R301), in the order of R33, before the trap of a poisoned address. An
object that cannot be read decides nothing here. -/
def chkRstart (i : Ins) (s : State) (g w t : Nat) : Cause :=
  let x := s.grp g
  let obj := ((s.thr g w t).reg64 i.a).toNat
  if obj % 128 ≠ 0 then some (0x01, i.word)
  else match s.readN x.die x.vdev obj 128 with
  | .error _ => none
  | .ok l =>
    let b := byteAt l
    if !objectOk b then some (0x01, i.word)
    else match s.readN x.die x.vdev (leNat b 0x18 8) 64 with
    | .error _ => none
    | .ok k =>
      if !kdOk (byteAt k) then some (0x01, i.word)
      else if (s.startRegion x b).isNone then some (0x0A, BitVec.ofNat 64 (leNat b 0x38 8))
      else if leNat b 0x28 4 < 64 then some (0x0D, BitVec.ofNat 64 obj)
      else none

/-- rstart in one thread whose object `chkRstart` passes (R301). -/
def State.start1 (s : State) (i : Ins) (g w t : Nat) : State :=
  let x := s.grp g
  let obj := ((s.thr g w t).reg64 i.a).toNat
  let away := fun (va : Nat) (wr : Bool) => s.modT g w t (fun y => y.stall (.fetch va (0x2C0 + if wr then 1024 else 0)))
  match s.readN x.die x.vdev obj 128 with
  | .error e => away e.1 false
  | .ok l =>
    let b := byteAt l
    match s.readN x.die x.vdev (leNat b 0x18 8) 64 with
    | .error e => away e.1 false
    | .ok k =>
      if 8 ≤ s.running x.die (x.core / 4) || s.quiesced x.vdev then s.modT g w t (fun y => { y with sched := .blocked .spinner })
      else match s.writeN x.die x.vdev (obj + 0x60) false (leBytes 1 8) with
      | .error e => away e.1 true
      | .ok s' =>
        let n := s'.spinners.length
        let arg := (List.range 8).map (fun j => (⟨BitVec.ofNat 32 (leNat b (0x40 + 4 * j) 4),
          (List.range 4).any (fun q => (l.getD (0x40 + 4 * j + q) (0, false)).2)⟩ : Val))
        let sp := spinnerOf b x obj (kdOf (byteAt k)) ((s.startRegion x b).getD x.region)
        let s' := { s' with spinners := s'.spinners ++ [{ sp with
          pending := [0]
          lanes := List.replicate sp.lanesN ⟨[], none⟩ }] }
        (s'.newFrame n 0 none 0 0 arg).modT g w t (fun y => y.advance i.words)

/-- rstart (R301). -/
def State.doRstart (s : State) (i : Ins) : State := s.control i false (chkRstart i) (fun s g w t => s.start1 i g w t)

/-! ## The lane workgroup (R288, R301) -/

/-- A thread of a lane workgroup: Blocked until a routine is assigned. -/
def laneThread (kd : KDesc) (n l : Nat) : Thread := { Thread.create kd kd.entry (.lane n l) 0 with sched := .blocked .lane }

/-- The warps of a run's lane workgroup (R288). -/
def Spinner.warps (x : Spinner) (n stamp : Nat) : List Warp :=
  let kd := x.kdesc
  (List.range ((x.lanesN + 31) / 32)).map (fun w =>
    Warp.new kd 0 0 kd.blk kd.accs 0 (newThreads (min 32 (x.lanesN - 32 * w)) (fun t => laneThread kd n (32 * w + t))) stamp)

/-- The lane workgroup of a run (R288). -/
def Spinner.group (x : Spinner) (n : Nat) : Group := { waveGroup x.vdev x.region x.kdesc with kind := .lanes n }
/-- Whether a core can take the lane workgroup of a run. -/
def State.lanesFit (s : State) (n d c : Nat) (units : List Nat) : Bool :=
  (s.fit d c units ((s.spin n).group n) ((s.spin n).warps n s.clock)).isSome

/-- The lane workgroup of a run placed on the first core of its cluster that can take it (R301), and its first routine
started. %wg.x to %wg.z read 0 and %nwg.x to %nwg.z 1 in its threads. (DESIGN CHOICE, log 105). -/
def State.placeLanes (s : State) (n d c : Nat) (units : List Nat) : Option State :=
  let x := s.spin n
  let lower := (List.range 4).map (fun j => 4 * x.cl + j) |>.filter (fun k => decide (k < c))
  if x.st ≠ .running ∨ x.grp ≠ none ∨ x.die ≠ d ∨ c / 4 ≠ x.cl then none
  else if lower.any (fun k => s.lanesFit n d k (s.someUnits d k x.vdev (1024 * x.kdesc.scr))) then none
  else
    (s.settleIn d c units (x.group n) (x.warps n s.clock)).map (fun s =>
      (s.modSpin n (fun x => { x with grp := some (s.groups.length - 1) })).expand n)

/-- The lane workgroup of a run without one placed where a core of its cluster can take it. -/
def State.placeRun (s : State) (n : Nat) : State :=
  let x := s.spin n
  let on := fun (c : Nat) => s.placeLanes n x.die c (s.someUnits x.die c x.vdev (1024 * x.kdesc.scr))
  (((List.range 4).map (fun j => 4 * x.cl + j)).findSome? on).getD s
/-- Every lane workgroup that waits placed as soon as a core can take it (R301). -/
def State.placeRuns (s : State) : State := (List.range s.spinners.length).foldl State.placeRun s

/-- LANE_WORKGROUP_PLACEMENT (R301). -/
def execLaneWorkgroupPlacement (n die core : Nat) (units : List Nat) (s : State) : Host.Outcome State Fault Refusal :=
  .next ((s.placeLanes n die core units).getD s)

/-! ## Failures of the cluster unit (R306) -/

/-- A queue put into the error state with a code. -/
def State.failQueue (s : State) (q : Nat) (err : Half) : State :=
  if (s.queue q).st = .closed then s
  else ((s.modQ q (fun x => { x with st := .error, err := err })).putDesc q).refuseAll q (fun _ => true)

/-- A poisoned argument or result of a frame. -/
def Frame.spoil (f : Frame) (k : Nat) (res : Bool) : Frame :=
  if res then { f with res := modAt f.res k (fun v => { v with p := true }) }
  else { f with arg := modAt f.arg k (fun v => { v with p := true }) }

/-- The record of a discarded task (R306). (DESIGN CHOICE, log 84). -/
def State.lostRec (s : State) (k : Task) (tag : Nat) : FaultRec :=
  ⟨k.desc, tag, 0x280, 0, k.vdev, 0, 0, k.die, 4 * k.cl, 0, 0, ((s.regions[k.region]?).map (fun r => r.addr)).getD 0,
    .task k.id, k.args.flatMap (fun a => leBytes a.v.toNat 4), false⟩
/-- The discarded tasks of a die reported while its fault queue has room (R306, R336). -/
def State.reportLost (s : State) (d : Nat) : State :=
  let n := min (s.die d).lost.length (256 - (s.die d).faults.length)
  let s := (((s.die d).lost).take n).foldl (fun s k =>
    let (s', tag) := s.newId
    s'.modD d (fun x => { x with faults := x.faults ++ [s.lostRec k tag] })) s
  s.modD d (fun x => { x with lost := x.lost.drop n })
/-- The discarded tasks of every die reported. -/
def State.reportAll (s : State) : State := (List.range 4).foldl (fun s d => if (s.die d).lost.isEmpty then s else s.reportLost d) s
/-- A discarded task reported to its region's fault domain with its record (R306); while the fault queue is full the report
waits. (DESIGN CHOICE, log 84). -/
def State.taskLost (s : State) (k : Task) : State :=
  (s.modD k.die (fun x => { x with lost := x.lost ++ [k] })).reportLost k.die

/-- A hard failure of a cluster unit: region faults in every region with a workgroup, a queue or a run on it, its queues in
error, its tasks discarded. (DESIGN CHOICE, log 114). -/
def State.failUnit (s : State) (d cl : Nat) : State :=
  let gs := s.groups.filter (fun x => x.holds && x.die == d && x.core / 4 == cl)
  let qs := (List.range s.queues.length).filter (fun q =>
    (s.queue q).hdie == d && (s.queue q).hcl == cl && (s.queue q).st != .closed)
  let ns := s.spinners.filter (fun x => x.st == .running && x.die == d && x.cl == cl)
  let rs := (gs.map (fun x => x.region) ++ (qs.map (fun q => (s.queue q).region) ++ ns.map (fun x => x.region))).eraseDups
  let s := rs.foldl (fun s r => s.faultRegion r true) s
  let s := qs.foldl (fun s q => s.failQueue q (s.queue q).err) s
  let ks := s.formerTasks d cl
  ks.foldl State.taskLost { s with tasks := s.tasks.filter (fun k => !(k.die == d && k.cl == cl)) }

/-- An error in the cluster unit (Table 13-10); every error is counted and reported (R211). -/
def State.clusterFail (s : State) (e : ClusterErr) : State :=
  let count := fun (s : State) (d cl : Nat) =>
    (s.modD d (fun x => { x with uncorrected := x.uncorrected + 1 })).report (.uncorrected d (80 + cl))
  match e with
  | .queue q => if (s.queue q).st = .closed then s else (count s (s.queue q).hdie (s.queue q).hcl).failQueue q 0xFFFF
  | .task id =>
    (match s.tasks.find? (fun k => k.id == id) with
     | none => s
     | some k => { count s k.die k.cl with tasks := s.tasks.filter (fun x => x.id != id) }.taskLost k)
  | .spinner n => if (s.spin n).st ≠ .running then s else (count s (s.spin n).die (s.spin n).cl).abortSpinner n 0xFFFE
  | .frameVal n f k res =>
    if (s.spin n).st ≠ .running ∨ (s.spin n).frame? f = none then s
    else ((count s (s.spin n).die (s.spin n).cl).modSpin n (fun x => x.modFrame f (fun y => y.spoil k res))).spoilFrame n f k res
  | .unit d cl => if d < 4 ∧ cl < 16 then (count s d cl).failUnit d cl else s

/-- CLUSTER_FAILURE (R306). -/
def execClusterFailure (e : ClusterErr) (s : State) : Host.Outcome State Fault Refusal := .next (s.clusterFail e)

/-! ## The instructions -/

/-- rstart (R301). -/
def execRstart (f : Fields) (s : State) : Host.Outcome State Fault Refusal :=
  .next (s.doRstart (nat .rstart f))
/-- rstart in Prerin code (R301, R85). -/
def execRstartPrerin (p : PFields) (s : State) : Host.Outcome State Fault Refusal :=
  .next (s.doRstart (pri .rstart p))
/-- rchild (R302). -/
def execRchild (f : Fields) (s : State) : Host.Outcome State Fault Refusal :=
  .next (s.doChild (nat .rchild f))
/-- rchild in Prerin code (R302, R85). -/
def execRchildPrerin (p : PFields) (s : State) : Host.Outcome State Fault Refusal :=
  .next (s.doChild (pri .rchild p))
/-- rdone (R303). -/
def execRdone (f : Fields) (s : State) : Host.Outcome State Fault Refusal :=
  .next (s.doEnd (nat .rdone f))
/-- rdone in Prerin code (R303, R85). -/
def execRdonePrerin (p : PFields) (s : State) : Host.Outcome State Fault Refusal :=
  .next (s.doEnd (pri .rdone p))
/-- rret (R303). -/
def execRret (f : Fields) (s : State) : Host.Outcome State Fault Refusal :=
  .next (s.doEnd (nat .rret f))
/-- rret in Prerin code (R303, R85). -/
def execRretPrerin (p : PFields) (s : State) : Host.Outcome State Fault Refusal :=
  .next (s.doEnd (pri .rret p))
/-- rres (R304). -/
def execRres (f : Fields) (s : State) : Host.Outcome State Fault Refusal :=
  .next (s.doRres (nat .rres f))
/-- rres in Prerin code (R304, R85). -/
def execRresPrerin (p : PFields) (s : State) : Host.Outcome State Fault Refusal :=
  .next (s.doRres (pri .rres p))
/-- rinfo (R304). -/
def execRinfo (f : Fields) (s : State) : Host.Outcome State Fault Refusal :=
  .next (s.doRinfo (nat .rinfo f))
/-- rinfo in Prerin code (R304, R85). -/
def execRinfoPrerin (p : PFields) (s : State) : Host.Outcome State Fault Refusal :=
  .next (s.doRinfo (pri .rinfo p))
/-- rbase (R305). -/
def execRbase (f : Fields) (s : State) : Host.Outcome State Fault Refusal :=
  .next (s.doRbase (nat .rbase f))
/-- rbase in Prerin code (R305, R85). -/
def execRbasePrerin (p : PFields) (s : State) : Host.Outcome State Fault Refusal :=
  .next (s.doRbase (pri .rbase p))
/-- rabort (R292). -/
def execRabort (f : Fields) (s : State) : Host.Outcome State Fault Refusal :=
  .next (s.doRabort (nat .rabort f))
/-- rabort in Prerin code (R292, R85). -/
def execRabortPrerin (p : PFields) (s : State) : Host.Outcome State Fault Refusal :=
  .next (s.doRabort (pri .rabort p))

end Sys2Proof.Machine
end

