-- ==== Sys2Proof/Machine/Convert.lean ====
section
/-! DEFINITION. Conversions and the Q4N instructions (06_float_instructions.md R137–R142). -/
namespace Sys2Proof.Machine

/-- The value of a conversion source: element `k` of a register, or a whole register or pair (Table 6-3). -/
inductive Src where
  | flt (f : Fmt) (x : Nat)
  | int (v : Int)
  deriving DecidableEq, Repr

/-- A source read in the format of a code (R137). -/
def readSrc (code x k : Nat) : Src :=
  match dstOf code with
  | .flt f => .flt f (laneOf x f.width k)
  | .int w sg => .int (valOf w sg (laneOf x w k))

/-- The bits of a result as D holds them: elements zero-extended, narrow lane types extended by their signedness. -/
def dstBits (code : Nat) (w : Nat) (sg : Bool) (v : Int) : Nat :=
  if code ≤ 6 then modW w v else if w = 64 then modW 64 v else modW 32 (valOf w sg (modW w v))

/-- One conversion (R138). -/
def convert (dst rnd : Nat) (sat : Bool) (src : Src) : Nat × Exc :=
  match dstOf dst, src with
  | .int w sg, .int v => (dstBits dst w sg (if sat then satOf w sg v else v), Exc.none)
  | .int w sg, .flt f x => let r := convI w sg rnd (f.decode x); (dstBits dst w sg r.1, r.2)
  | .flt g, .int v => convF g rnd sat none (.fin (decide (v < 0)) v.natAbs 0)
  | .flt g, .flt f x => convF g rnd sat (some f) (f.decode x)

/-- cvt (R138). -/
def fluCvt (i : Ins) (t : Thread) : Eff :=
  let sc := i.mb 0 4
  let dc := i.mb 4 4
  let x := if sc ≥ 14 then (t.reg64 i.b).toNat else (t.reg i.b).v.toNat
  let r := convert dc i.rnd (i.f.c.getLsbD 0) (readSrc sc x (i.c / 2 % 8))
  let p := i.psn t || r.2.poisons t
  if dc ≥ 14 then { Eff.pair i.d (BitVec.ofNat 64 r.1) p with x := r.2.sticky }
  else { Eff.reg i.d ⟨BitVec.ofNat 32 r.1, p⟩ with x := r.2.sticky }

/-- A field of `w` bits at position `k` of a number replaced. -/
def putLane (x w k v : Nat) : Nat := x - laneOf x w k * 2 ^ (w * k) + v % 2 ^ w * 2 ^ (w * k)

/-- cvtpk (R139). -/
def fluCvtpk (i : Ins) (t : Thread) : Eff :=
  let dc := i.mb 4 4
  let w := cvtWidth dc
  let k := 2 * i.mb 0 2
  let one := fun x => convert dc i.rnd (i.f.m.getLsbD 3) (.flt fp32 x)
  let a := one (i.bitsA t)
  let b := one (t.reg i.b).v.toNat
  let base := if dc ≤ 1 then 0 else i.bitsC t
  i.wrF t (putLane (putLane base w k a.1) w (k + 1) b.1, a.2.or b.2)

/-- unpk (R140). -/
def fluUnpk (i : Ins) (t : Thread) : Eff :=
  let code := i.mb 0 4
  let one := fun k => convert 7 0 false (readSrc code (t.reg i.b).v.toNat (2 * i.mb 4 3 + k))
  let lo := one 0
  let hi := one 1
  let x := lo.2.or hi.2
  { Eff.pair i.d (BitVec.ofNat 64 (hi.1 * 2 ^ 32 + lo.1)) (i.psn t || x.poisons t) with x := x.sticky }

/-- The Q4N code of A under the block scale B (R141, R48). -/
def q4Encode (a b : FV) : Nat × Exc :=
  match b with
  | .fin false (m + 1) e =>
    (match a with
     | .nan _ => (7, Exc.invalid)
     | .inf n => (if n then 0 else 15, Exc.none)
     | .fin n m' e' => (q4nCode (dyOf n m' e') ⟨(m : Int) + 1, e⟩, Exc.none))
  | _ => (7, Exc.invalid)

/-- q4enc (R141). -/
def fluQ4enc (i : Ins) (t : Thread) : Eff :=
  let r := q4Encode (fp32.decode (i.bitsA t)) (fp32.decode (t.reg i.b).v.toNat)
  i.wrF t (putLane (i.bitsC t) 4 (i.mb 0 3) r.1, r.2)

/-- q4dec (R142). -/
def fluQ4dec (i : Ins) (t : Thread) : Eff :=
  i.wrF t (fp32.prod i.rnd (q4nVal (laneOf (i.bitsA t) 4 (i.mb 0 3))) (fp32.decode (t.reg i.b).v.toNat))

/-! ## The instructions -/

/-- cvt (R138). -/
def execCvt (f : Fields) (s : State) : Host.Outcome State Fault Refusal :=
  .next (s.alu (nat .cvt f) fluCvt)
/-- cvt in Prerin code (R138, R85). -/
def execCvtPrerin (p : PFields) (s : State) : Host.Outcome State Fault Refusal :=
  .next (s.alu (pri .cvt p) fluCvt)
/-- cvtpk (R139). -/
def execCvtpk (f : Fields) (s : State) : Host.Outcome State Fault Refusal :=
  .next (s.alu (nat .cvtpk f) fluCvtpk)
/-- cvtpk in Prerin code (R139, R85). -/
def execCvtpkPrerin (p : PFields) (s : State) : Host.Outcome State Fault Refusal :=
  .next (s.alu (pri .cvtpk p) fluCvtpk)
/-- unpk (R140). -/
def execUnpk (f : Fields) (s : State) : Host.Outcome State Fault Refusal :=
  .next (s.alu (nat .unpk f) fluUnpk)
/-- unpk in Prerin code (R140, R85). -/
def execUnpkPrerin (p : PFields) (s : State) : Host.Outcome State Fault Refusal :=
  .next (s.alu (pri .unpk p) fluUnpk)
/-- q4enc (R141). -/
def execQ4enc (f : Fields) (s : State) : Host.Outcome State Fault Refusal :=
  .next (s.alu (nat .q4enc f) fluQ4enc)
/-- q4enc in Prerin code (R141, R85). -/
def execQ4encPrerin (p : PFields) (s : State) : Host.Outcome State Fault Refusal :=
  .next (s.alu (pri .q4enc p) fluQ4enc)
/-- q4dec (R142). -/
def execQ4dec (f : Fields) (s : State) : Host.Outcome State Fault Refusal :=
  .next (s.alu (nat .q4dec f) fluQ4dec)
/-- q4dec in Prerin code (R142, R85). -/
def execQ4decPrerin (p : PFields) (s : State) : Host.Outcome State Fault Refusal :=
  .next (s.alu (pri .q4dec p) fluQ4dec)

end Sys2Proof.Machine
end

