-- ==== Sys2Proof/Machine/Special.lean ====
section
/-! DEFINITION. Special functions and the activation table's evaluation (06_float_instructions.md R143–R147). A function
whose bits the spec bounds but does not fix takes the part's own bits, a free value, where they lie within the bound of
the exact result, and the exact result rounded to nearest elsewhere. -/
namespace Sys2Proof.Machine

/-! ## Fixed-point arithmetic: numbers are multiples of 2^−128 -/

/-- One. -/
def fx1 : Nat := 2 ^ 128
/-- ln 2 × 2^128, rounded down. -/
def fxLn2 : Nat := 0xB17217F7D1CF79ABC9E3B39803F2F6AF
/-- π × 2^320, rounded down. -/
def pi320 : Nat := 0x3243F6A8885A308D313198A2E03707344A4093822299F31D0082EFA98EC4E6C89452821E638D01377

/-- The integer square root of a number below 4^n, built on from `acc` bit by bit. -/
def isqrtFrom (x : Nat) : Nat → Nat → Nat
  | 0, acc => acc
  | n + 1, acc => isqrtFrom x n (if (acc + 2 ^ n) * (acc + 2 ^ n) ≤ x then acc + 2 ^ n else acc)
/-- The integer square root, rounded down. -/
def isqrt (x : Nat) : Nat := isqrtFrom x (Nat.log2 x / 2 + 1) 0

/-- The exponential series of `z` from its term `n` down. -/
def expSeries (z : Nat) : Nat → Nat → Nat
  | 0, acc => acc
  | n + 1, acc => expSeries z n (fx1 + z * acc / ((n + 1) * fx1))
/-- 2^f for a fixed-point f in [0, 1). -/
def fxExp2 (f : Nat) : Nat := expSeries (f * fxLn2 / fx1) 40 fx1

/-- The series of atanh: Σ k^(2j) ÷ (2j + 1) from its term `n` down, for the square `k2`. -/
def atanhSeries (k2 : Nat) : Nat → Nat → Nat
  | 0, acc => acc
  | n + 1, acc => atanhSeries k2 n (fx1 / (2 * n + 1) + k2 * acc / fx1)
/-- The series of sin: alternating, from its term `n` down, for the square `r2`. -/
def sinSeries (r2 : Int) : Nat → Int → Int
  | 0, acc => acc
  | n + 1, acc => sinSeries r2 n ((fx1 : Int) - r2 * acc / (((2 * n + 2) * (2 * n + 3) : Nat) * (fx1 : Int)))
/-- The series of cos. -/
def cosSeries (r2 : Int) : Nat → Int → Int
  | 0, acc => acc
  | n + 1, acc => cosSeries r2 n ((fx1 : Int) - r2 * acc / (((2 * n + 1) * (2 * n + 2) : Nat) * (fx1 : Int)))

/-- 2^(X ÷ 2^128), for any fixed-point X. -/
def exp2Of (x : Int) : Dy := ⟨(fxExp2 (x % (fx1 : Int)).toNat : Nat), x / (fx1 : Int) - 128⟩

/-- A magnitude m × 2^e as a fixed-point number, rounded down. -/
def fxOf (m : Nat) (e : Int) : Nat := if e + 128 < 0 then m / 2 ^ (-(e + 128)).toNat else m * 2 ^ (e + 128).toNat

/-- log2 of m × 2^e, m above 0. -/
def log2Of (m : Nat) (e : Int) : Dy :=
  let l := Nat.log2 m
  let l := if m * m > 2 * 2 ^ (2 * l) then l + 1 else l
  let d : Int := (m : Int) - 2 ^ l
  let k : Int := d * (fx1 : Int) / ((m : Int) + 2 ^ l)
  let s : Int := 2 * k * (atanhSeries (k * k / (fx1 : Int)).toNat 50 0 : Nat) / (fx1 : Int)
  ⟨((l : Int) + e) * (fx1 : Int) + s * (fx1 : Int) / (fxLn2 : Int), -128⟩

/-- sin, or cos, of m × 2^e after exact reduction by π/2. -/
def sinCosOf (cos : Bool) (m : Nat) (e : Int) : Dy :=
  let x := m * 2 ^ (e + 320).toNat
  let hp := pi320 / 2
  let k := (x + hp / 2) / hp
  let r : Int := ((x : Int) - k * hp) / 2 ^ 192
  let r2 := r * r / (fx1 : Int)
  let sn := r * sinSeries r2 24 (fx1 : Int) / (fx1 : Int)
  let cs := cosSeries r2 24 (fx1 : Int)
  ⟨(match (if cos then k + 1 else k) % 4 with
    | 0 => sn
    | 1 => cs
    | 2 => -sn
    | _ => -cs), -128⟩

/-- tanh of a magnitude m × 2^e. -/
def tanhOf (m : Nat) (e : Int) : Dy :=
  let t := fxOf (2 * m) e * fx1 / fxLn2
  let x := exp2Of (-(t : Int))
  let d := fxOf x.m.toNat x.e
  ⟨(((fx1 - d) * fx1 / (fx1 + d) : Nat) : Int), -128⟩

/-- The reciprocal square root of m × 2^e. -/
def rsqrtOf (m : Nat) (e : Int) : Dy :=
  let m' := if e % 2 = 0 then m else 2 * m
  let h := e / 2
  let k := 80 + Nat.log2 m'
  ⟨(isqrt (2 ^ (2 * k) / m') : Nat), -(k : Int) - h⟩

/-! ## Results within a bound -/

/-- Whether two exact values differ by no more than `n` × 2^`u`; the approximant's own error, far below 2^−40 of the bound,
counts for the value. -/
def withinBound (a v : Dy) (n : Nat) (u : Int) : Bool :=
  let d := a.add ⟨-v.m, v.e⟩
  let b : Dy := ⟨n * (2 ^ 40 + 1), u - 40⟩
  let x := (⟨d.m.natAbs, d.e⟩ : Dy).add ⟨-b.m, b.e⟩
  decide (x.m ≤ 0)

/-- The part's own bits for an operand where they are a finite value within n × 2^u of the exact result, else the exact
result rounded to nearest (R144, R145). (DESIGN CHOICE, log 10). -/
def ownBits (fn : Nat) (x : Word) (v : Dy) (n : Nat) (u : Int) : Nat :=
  let b := (Config.special fn x).toNat
  let r := (fp32.round 0 false (decide (v.m < 0)) v.m.natAbs v.e false).1
  match fp32.decode b with
  | .fin ng m e => if withinBound (dyOf ng m e) v n u then b else r
  | _ => r

/-- Within `n` units in the last place of the exact result (R144). (DESIGN CHOICE, log 10). -/
def ownUlp (fn : Nat) (x : Word) (v : Dy) (n : Nat) : Nat := ownBits fn x v n (fp32.unit v.m.natAbs v.e)

/-- The canonical NaN of a NaN operand (R143). -/
def nanRes (s : Bool) : Nat × Exc := (fp32.canon, ⟨s, false, false⟩)

/-! ## The functions (Tables 6-5 and 6-6) -/

/-- frcp: correctly rounded. -/
def frcpOf (rnd : Nat) (x : Word) : Nat × Exc :=
  match fp32.decode x.toNat with
  | .nan s => nanRes s
  | .inf n => (fp32.signBit n, Exc.none)
  | .fin n 0 _ => (fp32.infBits n, Exc.divZero)
  | .fin n m e =>
    let k := Nat.log2 m + 32
    fp32.round rnd false n (2 ^ k / m) (-(k : Int) - e) (decide (2 ^ k % m ≠ 0))

/-- fsqrt: correctly rounded. -/
def fsqrtOf (rnd : Nat) (x : Word) : Nat × Exc :=
  match fp32.decode x.toNat with
  | .nan s => nanRes s
  | .inf n => if n then (fp32.canon, Exc.invalid) else (x.toNat, Exc.none)
  | .fin _ 0 _ => (x.toNat, Exc.none)
  | .fin true _ _ => (fp32.canon, Exc.invalid)
  | .fin false m e =>
    let v := (if e % 2 = 0 then m else 2 * m) * 2 ^ 64
    let q := isqrt v
    fp32.round rnd false false q (e / 2 - 32) (decide (q * q ≠ v))

/-- frsq. -/
def frsqOf (x : Word) : Nat × Exc :=
  match fp32.decode x.toNat with
  | .nan s => nanRes s
  | .inf n => if n then (fp32.canon, Exc.invalid) else (0, Exc.none)
  | .fin n 0 _ => (fp32.infBits n, Exc.divZero)
  | .fin true _ _ => (fp32.canon, Exc.invalid)
  | .fin false m e =>
    let v := rsqrtOf m e
    if m = 2 ^ Nat.log2 m ∧ (Nat.log2 m + e) % 2 = 0 then
      (((-(((Nat.log2 m : Int) + e) / 2) + 127).toNat) * 2 ^ 23, Exc.none)
    else (ownUlp 0x086 x v 1, Exc.none)

/-- Whether ±m × 2^e is an integer. -/
def isIntegral (m : Nat) (e : Int) : Bool := if 0 ≤ e then true else m % 2 ^ (-e).toNat == 0

/-- fex2. -/
def fex2Of (x : Word) : Nat × Exc :=
  match fp32.decode x.toNat with
  | .nan s => nanRes s
  | .inf n => if n then (0, Exc.none) else (fp32.infBits false, Exc.none)
  | .fin n m e =>
    if m = 0 then (fp32.bias * 2 ^ 23, Exc.none)
    else
      let big := fun (k : Nat) => (FV.fin false m e).cmp (.fin false k 0) != .lt
      if !n && big 128 then (fp32.infBits false, Exc.over)
      else if n && big 150 then (0, Exc.none)
      else
        let f : Int := if n then -(fxOf m e : Int) else fxOf m e
        if isIntegral m e then fp32.round 0 false false 1 (f / (fx1 : Int)) false
        else
          let f' := if n && decide (fxOf m e = 0) then (-1 : Int) else f
          (ownUlp 0x088 x (exp2Of f') 2, Exc.none)

/-- flg2. -/
def flg2Of (x : Word) : Nat × Exc :=
  match fp32.decode x.toNat with
  | .nan s => nanRes s
  | .inf n => if n then (fp32.canon, Exc.invalid) else (x.toNat, Exc.none)
  | .fin _ 0 _ => (fp32.infBits true, Exc.divZero)
  | .fin true _ _ => (fp32.canon, Exc.invalid)
  | .fin false m e =>
    let l : Int := Nat.log2 m + e
    if m = 2 ^ Nat.log2 m then fp32.round 0 false (decide (l < 0)) l.natAbs 0 false
    else if l = -1 ∨ l = 0 then (ownBits 0x089 x (log2Of m e) 1 (-22), Exc.none)
    else (ownUlp 0x089 x (log2Of m e) 2, Exc.none)

/-- Whether a magnitude lies below 2^−12. -/
def tiny (m : Nat) (e : Int) : Bool := (FV.fin false m e).cmp (.fin false 1 (-12)) == .lt

/-- fsin. -/
def fsinOf (x : Word) : Nat × Exc :=
  match fp32.decode x.toNat with
  | .nan s => nanRes s
  | .inf _ => (fp32.canon, Exc.none)
  | .fin n m e =>
    if tiny m e then (x.toNat, Exc.none)
    else
      let v := sinCosOf false m e
      (ownBits 0x08A x ⟨if n then -v.m else v.m, v.e⟩ 1 (-21), Exc.none)

/-- fcos. -/
def fcosOf (x : Word) : Nat × Exc :=
  match fp32.decode x.toNat with
  | .nan s => nanRes s
  | .inf _ => (fp32.canon, Exc.none)
  | .fin _ m e =>
    if m = 0 then (fp32.bias * 2 ^ 23, Exc.none)
    else (ownBits 0x08B x (sinCosOf true m e) 1 (-21), Exc.none)

/-- ftanh. -/
def ftanhOf (x : Word) : Nat × Exc :=
  match fp32.decode x.toNat with
  | .nan s => nanRes s
  | .inf n => (fp32.signBit n + fp32.bias * 2 ^ 23, Exc.none)
  | .fin n m e =>
    if tiny m e then (x.toNat, Exc.none)
    else if (FV.fin false (10 * m) e).cmp (.fin false 91 0) != .lt then
      (fp32.signBit n + fp32.bias * 2 ^ 23, Exc.none)
    else
      let v := tanhOf m e
      (ownUlp 0x08C x ⟨if n then -v.m else v.m, v.e⟩ 2, Exc.none)

/-- A special function of the FP32 value B (R143). -/
def Ins.specialEff (i : Ins) (t : Thread) (f : Word → Nat × Exc) : Eff := i.wrF t (f (t.reg i.b).v)
/-- frcp (R143). -/
def fluRcp (i : Ins) (t : Thread) : Eff := i.specialEff t (frcpOf i.rnd)
/-- fsqrt (R143). -/
def fluSqrt (i : Ins) (t : Thread) : Eff := i.specialEff t (fsqrtOf i.rnd)
/-- frsq (R143). -/
def fluRsq (i : Ins) (t : Thread) : Eff := i.specialEff t frsqOf
/-- fex2 (R143). -/
def fluEx2 (i : Ins) (t : Thread) : Eff := i.specialEff t fex2Of
/-- flg2 (R143). -/
def fluLg2 (i : Ins) (t : Thread) : Eff := i.specialEff t flg2Of
/-- fsin (R143). -/
def fluSin (i : Ins) (t : Thread) : Eff := i.specialEff t fsinOf
/-- fcos (R143). -/
def fluCos (i : Ins) (t : Thread) : Eff := i.specialEff t fcosOf
/-- ftanh (R143). -/
def fluTanh (i : Ins) (t : Thread) : Eff := i.specialEff t ftanhOf

/-! ## fact (R147) -/

/-- A word of a bank image. -/
def ActBank.word (b : ActBank) (off : Nat) : Val := FMap.get Val.zero b.img (off / 4)
/-- A word of a bank image as an FP32 value. -/
def ActBank.fv (b : ActBank) (off : Nat) : FV := fp32.decode (b.word off).v.toNat

/-- A value as a whole number of segments, rounded down; values at or beyond 2^31 stand for 2^31. -/
def floorSeg (x : FV) : Int :=
  match x with
  | .fin n m e => roundInt 2 n m e false
  | .inf n => if n then -1 else 2 ^ 31
  | .nan _ => 0

/-- What fact delivers for a value: the result, its exceptions and the offsets of the bank words that it reads (R147). -/
def ActBank.eval (b : ActBank) (xb : Nat) : Nat × Exc × List Nat :=
  let x := fp32.decode xb
  let line := fun (k l : Nat) => fp32.sum 0 [b.fv k, x, b.fv l] [(b.fv k).mul x, b.fv l]
  match x with
  | .nan s => (fp32.canon, ⟨s, false, false⟩, [])
  | .inf n => let o := if n then 0x20 else 0x24; ((b.word o).v.toNat, Exc.none, [o])
  | .fin _ _ _ =>
    -- (x − lo) × inv is exact before its one rounding
    let d := (dyFin x).add (dyFin (b.fv 0).negate)
    let v := (d).mul (dyFin (b.fv 4))
    let t := fp32.ofX 0 (.fin v false)
    let tv := fp32.decode t.1
    let seg := floorSeg tv
    if seg < 0 then let r := line 0x10 0x14; (r.1, t.2.or r.2, [0, 4, 0x10, 0x14])
    else if seg ≥ (b.word 8).v.toNat then let r := line 0x18 0x1C; (r.1, t.2.or r.2, [0, 4, 8, 0x18, 0x1C])
    else
      let base := 0x40 + 16 * seg.toNat
      let u := dyFin tv |>.add ⟨-seg, 0⟩
      let uv : FV := .fin false u.m.natAbs u.e
      let step := fun (y : Nat × Exc) (c : Nat) =>
        let r := fp32.sum 0 [fp32.decode y.1, uv, b.fv c] [(fp32.decode y.1).mul uv, b.fv c]
        (r.1, y.2.or r.2)
      let r := step (step (step ((b.word (base + 12)).v.toNat, t.2) (base + 8)) (base + 4)) base
      (r.1, r.2, [0, 4, 8, base, base + 4, base + 8, base + 12])
where
  /-- The exact value of a finite FV. -/
  dyFin (x : FV) : Dy := match x with | .fin n m e => dyOf n m e | _ => ⟨0, 0⟩

/-- fact in one thread of a warp whose core holds the banks `m` (R147, R148, R151). -/
def fluAct (m : FMap ActBank) (i : Ins) (w : Warp) (t : Thread) : Res :=
  match w.bank with
  | none => .trap 0x01 i.word
  | some k =>
    let b := FMap.get ActBank.void m k
    match b.owner with
    | none => .ok (Eff.reg i.d ⟨0, true⟩)
    | some _ =>
      let r := b.eval (t.reg i.b).v.toNat
      let p := i.psn t || r.2.2.any (fun o => (b.word o).p) || r.2.1.poisons t
      .ok ⟨[(i.d, ⟨BitVec.ofNat 32 r.1, p⟩)], [], r.2.1.sticky⟩

/-- The activation banks of the core that the pack runs on. -/
def State.packBanks (s : State) : FMap ActBank :=
  let g := s.grp s.pack.g
  (s.core g.die g.core).banks

/-! ## The instructions -/

/-- frcp (R143). -/
def execFrcp (f : Fields) (s : State) : Host.Outcome State Fault Refusal :=
  .next (s.alu (nat .frcp f) fluRcp)
/-- frcp in Prerin code (R143, R85). -/
def execFrcpPrerin (p : PFields) (s : State) : Host.Outcome State Fault Refusal :=
  .next (s.alu (pri .frcp p) fluRcp)
/-- frsq (R143). -/
def execFrsq (f : Fields) (s : State) : Host.Outcome State Fault Refusal :=
  .next (s.alu (nat .frsq f) fluRsq)
/-- frsq in Prerin code (R143, R85). -/
def execFrsqPrerin (p : PFields) (s : State) : Host.Outcome State Fault Refusal :=
  .next (s.alu (pri .frsq p) fluRsq)
/-- fsqrt (R143). -/
def execFsqrt (f : Fields) (s : State) : Host.Outcome State Fault Refusal :=
  .next (s.alu (nat .fsqrt f) fluSqrt)
/-- fsqrt in Prerin code (R143, R85). -/
def execFsqrtPrerin (p : PFields) (s : State) : Host.Outcome State Fault Refusal :=
  .next (s.alu (pri .fsqrt p) fluSqrt)
/-- fex2 (R143). -/
def execFex2 (f : Fields) (s : State) : Host.Outcome State Fault Refusal :=
  .next (s.alu (nat .fex2 f) fluEx2)
/-- fex2 in Prerin code (R143, R85). -/
def execFex2Prerin (p : PFields) (s : State) : Host.Outcome State Fault Refusal :=
  .next (s.alu (pri .fex2 p) fluEx2)
/-- flg2 (R143). -/
def execFlg2 (f : Fields) (s : State) : Host.Outcome State Fault Refusal :=
  .next (s.alu (nat .flg2 f) fluLg2)
/-- flg2 in Prerin code (R143, R85). -/
def execFlg2Prerin (p : PFields) (s : State) : Host.Outcome State Fault Refusal :=
  .next (s.alu (pri .flg2 p) fluLg2)
/-- fsin (R143). -/
def execFsin (f : Fields) (s : State) : Host.Outcome State Fault Refusal :=
  .next (s.alu (nat .fsin f) fluSin)
/-- fsin in Prerin code (R143, R85). -/
def execFsinPrerin (p : PFields) (s : State) : Host.Outcome State Fault Refusal :=
  .next (s.alu (pri .fsin p) fluSin)
/-- fcos (R143). -/
def execFcos (f : Fields) (s : State) : Host.Outcome State Fault Refusal :=
  .next (s.alu (nat .fcos f) fluCos)
/-- fcos in Prerin code (R143, R85). -/
def execFcosPrerin (p : PFields) (s : State) : Host.Outcome State Fault Refusal :=
  .next (s.alu (pri .fcos p) fluCos)
/-- ftanh (R143). -/
def execFtanh (f : Fields) (s : State) : Host.Outcome State Fault Refusal :=
  .next (s.alu (nat .ftanh f) fluTanh)
/-- ftanh in Prerin code (R143, R85). -/
def execFtanhPrerin (p : PFields) (s : State) : Host.Outcome State Fault Refusal :=
  .next (s.alu (pri .ftanh p) fluTanh)
/-- fact (R147). -/
def execFact (f : Fields) (s : State) : Host.Outcome State Fault Refusal :=
  .next (s.lanes (nat .fact f) (fun w _ t => fluAct s.packBanks (nat .fact f) w (w.thr t)))
/-- fact in Prerin code (R147, R85). -/
def execFactPrerin (p : PFields) (s : State) : Host.Outcome State Fault Refusal :=
  .next (s.lanes (pri .fact p) (fun w _ t => fluAct s.packBanks (pri .fact p) w (w.thr t)))

end Sys2Proof.Machine
end

