-- ==== Sys2Proof/Machine/Table.lean ====
section
/-! DEFINITION. Activation banks: atld, atsel and the table loader (06_float_instructions.md R146–R152). -/
namespace Sys2Proof.Machine

/-- Whether an FP32 word is finite. -/
def finite32 (x : Nat) : Bool :=
  match fp32.decode x with
  | .fin _ _ _ => true
  | _ => false

/-- Whether the header word at an offset of the image meets R146. -/
def headerWordOk (off v : Nat) : Bool :=
  if off = 0x08 then decide (1 ≤ v) && decide (v ≤ 256)
  else if off = 0x0C ∨ 0x28 ≤ off then v == 0
  else if off = 0x20 ∨ off = 0x24 then !(fp32.decode v).isNan
  else finite32 v

/-- The offset, in the image, of the first header word that fails (R146). -/
def Group.headerBad (x : Group) (off : Nat) : Option Nat :=
  ((List.range 16).map (fun k => 4 * k)).find? (fun k => !headerWordOk k (x.rd (off + k) 4))

/-- The size of the image at an offset: 64 + 16 × nseg bytes. -/
def Group.imageSize (x : Group) (off : Nat) : Nat := 64 + 16 * x.rd (off + 8) 4

/-- The words of an image as they stand in scratch with their poison; all of them poisoned for a poisoned address (R149). -/
def Group.image (x : Group) (off n : Nat) (p : Bool) : FMap Val :=
  FMap.setAll Val.zero [] ((List.range (n / 4)).map (fun k =>
    (k, ⟨BitVec.ofNat 32 (x.rd (off + 4 * k) 4), p || x.rdPsn (off + 4 * k) 4⟩)))

/-- The core of the pack in issue. -/
def State.coreOf (s : State) (g : Nat) : Core := s.core (s.grp g).die (s.grp g).core

/-- The check of a bank that another device owns. -/
def State.bankTrap (s : State) (g k : Nat) : Cause :=
  match (FMap.get ActBank.void (s.coreOf g).banks k).owner with
  | none => none
  | some v => if v = (s.grp g).vdev then none else some (0x0A, BitVec.ofNat 64 k)

/-- The checks of atld at issue (R149), in the order of R33. (DESIGN CHOICE, log 98). -/
def State.atldTrap (s : State) (i : Ins) (g w : Nat) (off : Nat) (p : Bool) : Cause :=
  let x := s.grp g
  let k := i.mb 0 1
  if (x.wrp w).bank = some k then some (0x01, i.word)
  else if p then s.bankTrap g k
  else
    let head := if off + 64 ≤ x.scrSize then x.headerBad off else none
    match head with
    | some o => some (0x06, BitVec.ofNat 64 (off + o))
    | none =>
      match s.bankTrap g k with
      | some cv => some cv
      | none =>
        if off % 16 ≠ 0 ∨ x.scrSize < off + 64 ∨ x.scrSize < off + x.imageSize off then some (0x09, BitVec.ofNat 64 off)
        else none

/-- atld (R149, R150). (DESIGN CHOICE, log 98). (DESIGN CHOICE, log 108). -/
def State.doAtld (s : State) (i : Ins) : State :=
  s.once i true (fun s g w t go =>
    let a := (s.thr g w t).reg i.a
    let off := (a.v.toNat + i.immZ) % 2 ^ 32
    let k := i.mb 0 1
    let x := s.grp g
    match s.atldTrap i g w off a.p with
    | some cv => .trap cv.1 cv.2
    | none =>
      let n := if a.p then 4160 else x.imageSize off
      match (if a.p then none else s.packHold g w go off n false) with
      | some y => .stall y
      | none =>
        if (s.coreOf g).atlds.any (fun e => e.bank == k) then .stall .bank
        else if !s.boardRoom g (if a.p then 0 else 1) then .stall .scoreboard
        else
          let (s', id) := s.newId
          let e : AtldPend := ⟨id, k, g, w, x.image off n a.p, i.flagOf (s.thr g w t), go⟩
          let s := s'.modG g (fun x =>
            if a.p then x else (x.engRead (tid w t) (wordsOf off n)).record (sbOf id false (off, off + n)))
          .done ((s.modC x.die x.core (fun c => { c with atlds := c.atlds ++ [e] })).mapIssued g w go))

/-- atsel (R148). -/
def State.doAtsel (s : State) (i : Ins) : State :=
  s.once i false (fun s g w _ _ =>
    let k := i.mb 0 2
    if k = 2 then .done (s.modW g w (fun y => { y with bank := none }))
    else match s.bankTrap g k with
    | some cv => .trap cv.1 cv.2
    | none =>
      if (s.coreOf g).atlds.any (fun e => e.bank == k) then .stall .bank
      else .done (s.modW g w (fun y => { y with bank := some k })))

/-- A pending atld writes its bank once no warp of the core selects it (R150); none where none may. -/
def State.writeBank (s : State) (d c k : Nat) : Option State :=
  match (s.core d c).atlds.find? (fun e => e.bank == k) with
  | none => none
  | some e =>
    if s.bankSelected d c k then none
    else
      let v := (s.grp e.grp).vdev
      let s := s.modC d c (fun x => { x with
        atlds := x.atlds.filter (fun y => y.id != e.id)
        banks := FMap.set ActBank.void x.banks k ⟨some v, e.img⟩ })
      let s := s.lowerFlags e.grp e.wrp e.ts e.flag
      some ((s.modG e.grp (fun x => x.boardDone e.id)).settle e.grp)

/-- BANK_WRITE (R150). -/
def execBankWrite (die core bank : Nat) (s : State) : Host.Outcome State Fault Refusal :=
  .next ((s.writeBank die core bank).getD s)

/-! ## The instructions -/

/-- atld (R149). -/
def execAtld (f : Fields) (s : State) : Host.Outcome State Fault Refusal :=
  .next (s.doAtld (nat .atld f))
/-- atld in Prerin code (R149, R85). -/
def execAtldPrerin (p : PFields) (s : State) : Host.Outcome State Fault Refusal :=
  .next (s.doAtld (pri .atld p))
/-- atsel (R148). -/
def execAtsel (f : Fields) (s : State) : Host.Outcome State Fault Refusal :=
  .next (s.doAtsel (nat .atsel f))
/-- atsel in Prerin code (R148, R85). -/
def execAtselPrerin (p : PFields) (s : State) : Host.Outcome State Fault Refusal :=
  .next (s.doAtsel (pri .atsel p))

end Sys2Proof.Machine
end

