-- ==== Sys2Proof/Machine/Folding.lean ====
section
/-! DEFINITION. Folding and expansion, full saves and resumes, the marks of the packer, and failures of a core (08_core.md
R179, R180, R198–R212, 11_program_fold.md R265–R267, 06_float_instructions.md R152). -/
namespace Sys2Proof.Machine

/-! ## Marks of the packer (R179, R180) -/

/-- DEMOTION_EXPIRY (R179): 1,024 issue opportunities of the warp have passed. -/
def execDemotionExpiry (t : TRef) (s : State) : Host.Outcome State Fault Refusal :=
  let x := s.thr t.g t.w t.t
  .next (if x.live && x.demoted && decide (x.demAt + 1024 ≤ (s.wrp t.g t.w).opps) then s.modT t.g t.w t.t Thread.undemote else s)

/-- STARVATION_PROMOTION (R180): the thread was Ready in 4,096 opportunities since it last issued. -/
def execStarvationPromotion (t : TRef) (s : State) : Host.Outcome State Fault Refusal :=
  let x := s.thr t.g t.w t.t
  .next (if x.live && decide (4096 ≤ x.opps) && x.promo == none then
      s.modT t.g t.w t.t (fun y => { y.undemote with promo := some (s.wrp t.g t.w).opps })
    else s)

/-! ## The request to fold (R198, R199) -/

/-- Whether a fold or an expansion of a core is not yet complete (R265): a save that a fold forced counts until it is (R199). -/
def State.foldBusy (s : State) (d c : Nat) : Bool :=
  (s.residents d c).any (fun x => x.foldSave || !x.foldU.isEmpty || !x.refillU.isEmpty
    || x.warps.any (fun w => w.fold.isSome || !w.refill.isEmpty))

/-- Whether a quadrant is shared by quanta (R368). -/
def Quad.isShared (q : Quad) : Bool :=
  match q.own with
  | .shared .. => true
  | _ => false
/-- Whether a workgroup stands in a shared quadrant. -/
def State.onShared (s : State) (g : Nat) : Bool :=
  let x := s.grp g
  x.warps.any (fun w => (s.quad x.die x.core w.quad).isShared)
/-- Whether a workgroup belongs to a predecessor of a launch, of those that `p` names, that has not completed and may run
beside it (R390, R274). -/
def State.precedes (s : State) (g : Nat) (p : Launch → Bool) : Bool :=
  match (s.grp g).kind with
  | .gang l _ => s.launches.any (fun x => p x && decide (x.st < 2) && x.shint && x.preds.contains l)
  | _ => false

/-- Whether a fold for a region may take from a workgroup: one of its device, of lower effective priority, in quadrants
that the device owns alone (R374), and no predecessor of the region's launches (R390). (DEDUCED, log 34). -/
def State.victim (s : State) (d c region g : Nat) : Bool :=
  let x := s.grp g
  x.alive && (x.save == .running || x.save == .pending) && x.die == d && x.core == c
  && some x.vdev == (s.regions[region]?).map (fun r => r.vdev)
  && decide (s.prioOf g < s.eff 7 (fun r => r.prio) region)
  && !s.onShared g && !s.precedes g (fun l => l.region == region)
/-- The workgroups that a fold on a core may take from, in the order of R374: the lowest priority first, and among equals the
most recently placed. -/
def State.candidates (s : State) (d c region : Nat) : List Nat :=
  let before := fun (a b : Nat) => decide (s.prioOf a < s.prioOf b)
    || (s.prioOf a == s.prioOf b && decide ((s.grp b).placed ≤ (s.grp a).placed))
  sortBy before ((List.range s.groups.length).filter (fun g => s.victim d c region g))

/-- A unit that the floor keeps (Table 8-5): it holds an initialised transfer barrier, lies under a scoreboard entry, or is
pinned. -/
def Group.floorUnit (x : Group) (u : Nat) : Bool :=
  x.xbars.any (fun o => o / 1024 == u) || x.board.any (fun e => decide (e.lo < 1024 * u + 1024) && decide (1024 * u < e.hi))
  || NSet.has x.pins u

/-- The units of a workgroup that lie in bank groups to reclaim. -/
def Group.unitsIn (x : Group) (sbg : BitVec 16) : List Nat :=
  (List.range x.units.length).filter (fun u => !NSet.has x.spilledU u && sbg.getLsbD (x.units.getD u 0))

/-- Whether a request for lane sets and bank groups would take a workgroup below its floor (R199). -/
def Group.belowFloor (x : Group) (ls : List (BitVec 4)) (sbg : BitVec 16) : Bool :=
  x.warps.any (fun w => w.threads.any Thread.live && w.ls &&& ~~~(ls.getD w.quad 0) == 0)
  || (x.unitsIn sbg).any x.floorUnit

/-- The blocks of a warp that are resident and not yet chosen. -/
def Warp.left (w : Warp) : List Nat :=
  let out := match w.fold with
    | some f => f.blocks
    | none => []
  (List.range w.blocks).filter (fun b => !NSet.has w.spilled b && !NSet.has out b)

/-- The warp that gives up the next block: the one with the most resident blocks, ties to the highest slot (R198). -/
def State.giver (s : State) (vs : List (Nat × Nat)) : Option (Nat × Nat) :=
  (vs.filter (fun v => !(s.wrp v.1 v.2).left.isEmpty)).foldl (fun (best : Option (Nat × Nat)) v =>
    match best with
    | none => some v
    | some b =>
      let x := s.wrp v.1 v.2
      let y := s.wrp b.1 b.2
      if y.left.length < x.left.length ∨ (y.left.length = x.left.length ∧ y.slot < x.slot) then some v else some b) none

/-- The blocks of a workgroup in a quadrant that a fold may take: its warps' and its pool's. -/
def Group.blocksIn (x : Group) (q : Nat) : Nat :=
  let p := FMap.get Pool.zero x.pools q
  ((x.warps.filter (fun w => w.quad == q)).map (fun w => w.left.length)).sum + (p.n - p.taken)
/-- Whether a workgroup holds a lane set or a unit that a request names. -/
def Group.named (x : Group) (ls : List (BitVec 4)) (sbg : BitVec 16) : Bool :=
  x.warps.any (fun w => w.ls &&& ls.getD w.quad 0 != 0) || !(x.unitsIn sbg).isEmpty
/-- The victims of a request: as many candidates, in their order, as give the blocks that it asks for and hold what it names
(R198, R374). -/
def State.enough (s : State) (ls : List (BitVec 4)) (blocks : List Nat) (sbg : BitVec 16) : List Nat → List Nat → List Nat
  | gs, [] => gs
  | gs, g :: rest =>
    if (List.range 4).all (fun q => decide (blocks.getD q 0 ≤ (gs.map (fun h => (s.grp h).blocksIn q)).sum))
        && !(g :: rest).any (fun h => (s.grp h).named ls sbg) then gs
    else s.enough ls blocks sbg (gs ++ [g]) rest

/-- What a fold takes from a warp, grown. -/
def Warp.addFold (w : Warp) (region : Nat) (ls : BitVec 4) (blocks : List Nat) : Warp :=
  let f := w.fold.getD ⟨region, 0, []⟩
  { w with fold := some { f with ls := f.ls ||| ls, blocks := blocks.foldl NSet.add f.blocks } }

/-- Nothing is taken from a workgroup after all. -/
def State.unfold (s : State) (g : Nat) : State :=
  s.modG g (fun x => { x with warps := x.warps.map (fun w => { w with fold := none }), foldU := [] })

/-- Blocks chosen one at a time among the warps `vs` of a quadrant (R198). A choice that would take block 0 of a warp puts
its workgroup among those to save, whose own blocks then count (R199). (DEDUCED, log 35). -/
def State.chooseBlocks (s : State) (region : Nat) : Nat → Nat → List (Nat × Nat) → List Nat → State × List Nat
  | 0, _, _, saves => (s, saves)
  | k + 1, n, vs, saves =>
    if n = 0 then (s, saves)
    else match s.giver vs with
    | none => (s, saves)
    | some v =>
      let l := (s.wrp v.1 v.2).left
      match l.getLast? with
      | none => (s, saves)
      | some b =>
        if b = 0 then
          let own := ((vs.filter (fun u => u.1 == v.1)).map (fun u => (s.wrp u.1 u.2).left.length)).sum
          (s.unfold v.1).chooseBlocks region k (n - own) (vs.filter (fun u => u.1 != v.1)) (saves ++ [v.1])
        else (s.modW v.1 v.2 (fun w => w.addFold region 0 [b])).chooseBlocks region k (n - 1) vs saves

/-- Blocks taken from the pools of a quadrant before any warp gives one up (R273): the state and the blocks still to take. -/
def State.foldPools (s : State) (gs : List Nat) (q n : Nat) : State × Nat :=
  gs.foldl (fun r g =>
    let p := FMap.get Pool.zero (r.1.grp g).pools q
    let k := min r.2 (p.n - p.taken)
    (r.1.modG g (fun x => { x with pools := FMap.set Pool.zero x.pools q ⟨p.n, p.taken + k⟩ }), r.2 - k)) (s, n)

/-- The warps of workgroups in a quadrant that have a live thread. -/
def State.warpsIn (s : State) (gs : List Nat) (q : Nat) : List (Nat × Nat) :=
  gs.flatMap (fun g => ((List.range (s.grp g).warps.length).filter (fun w =>
    (s.wrp g w).quad == q && (s.wrp g w).threads.any Thread.live)).map (fun w => (g, w)))

/-- One quadrant's part of a request. -/
def State.foldQuad (s : State) (region : Nat) (gs : List Nat) (q : Nat) (ls : BitVec 4) (n : Nat) (saves : List Nat) :
    State × List Nat :=
  let r := s.foldPools gs q n
  let vs := r.1.warpsIn (gs.filter (fun g => !saves.contains g)) q
  let own := ((r.1.warpsIn saves q).map (fun v => (r.1.wrp v.1 v.2).left.length)).sum
  let s := vs.foldl (fun s v =>
    let m := (s.wrp v.1 v.2).ls &&& ls
    if m = 0 then s else s.modW v.1 v.2 (fun w => w.addFold region m [])) r.1
  s.chooseBlocks region (r.2 + 1) (r.2 - own) vs saves

/-- A full save requested (R207). -/
def State.requestSave (s : State) (g : Nat) : State :=
  let x := s.grp g
  if x.alive && x.save == .running then
    s.modG g (fun x => { x with save := .pending, saveAt := s.cycle x.die x.core, forced := false })
  else s

/-- A pre-emption request (R198, R199): nothing while an earlier one is not complete (R265), or beyond 512 KiB. -/
def State.preEmpt (s : State) (d c region : Nat) (ls : List (BitVec 4)) (blocks : List Nat) (sbg : BitVec 16) : State :=
  let gs := s.enough ls blocks sbg [] (s.candidates d c region)
  let size := 2 * blocks.sum + ((gs.map (fun g => ((s.grp g).unitsIn sbg).length)).sum)
  if s.foldBusy d c || decide (512 < size) then s
  else
    let saves := gs.filter (fun g => (s.grp g).belowFloor ls sbg)
    let r := (List.range 4).foldl (fun (r : State × List Nat) q =>
      r.1.foldQuad region gs q (ls.getD q 0) (blocks.getD q 0) r.2) (s, saves)
    let s := r.2.foldl (fun s g => ((s.unfold g).requestSave g).modG g (fun x => { x with foldSave := true })) r.1
    (gs.filter (fun g => !r.2.contains g)).foldl (fun s g => s.modG g (fun x => { x with foldU := x.unitsIn sbg })) s

/-- PRE_EMPTION_REQUEST (R198). -/
def execPreEmptionRequest (die core region : Nat) (ls : List (BitVec 4)) (blocks : List Nat) (sbg : BitVec 16) (s : State) :
    Host.Outcome State Fault Refusal :=
  .next (s.preEmpt die core region ls blocks sbg)

/-! ## Completion of a fold (R265, R205) -/

/-- Lane sets of a quadrant marked as handed over to a region, before those that took them earlier. -/
def Quad.give (q : Quad) (region : Nat) (ls : BitVec 4) : Quad :=
  { q with taken := (List.range 4).foldl (fun (m : FMap (List Nat)) k =>
      if ls.getLsbD k then FMap.set [] m k (region :: (FMap.get [] m k).filter (fun r => r != region)) else m) q.taken }

/-- A victim warp's spill writes complete: its lane sets and blocks are handed over and %resl changes. -/
def State.foldWarp (s : State) (g w : Nat) : State :=
  let x := s.grp g
  match (x.wrp w).fold with
  | none => s
  | some f =>
    let s := s.modW g w (fun y => { y with
      fold := none
      ls := y.ls &&& ~~~f.ls
      spilled := f.blocks.foldl NSet.add y.spilled
      reach := if y.spilled.isEmpty then none else y.reach
      reachMod := y.reachMod && !y.spilled.isEmpty })
    (s.modQuad x.die x.core (x.wrp w).quad (fun q => q.give f.region f.ls)).modG g (fun x => x.newResl w)

/-- The spill writes of a workgroup's scratch units complete. -/
def State.foldUnits (s : State) (g : Nat) : State :=
  if (s.grp g).foldU.isEmpty then s
  else
    s.modG g (fun x =>
      let x := { x with spilledU := x.foldU.foldl NSet.add x.spilledU, foldU := [] }
      (List.range x.warps.length).foldl Group.newResl x)

/-- FOLD_COMPLETE (R265, R204): of a warp, or of a workgroup's scratch units. -/
def execFoldComplete (g : Nat) (w : Option Nat) (s : State) : Host.Outcome State Fault Refusal :=
  .next (match w with
    | some w => s.foldWarp g w
    | none => s.foldUnits g)

/-! ## Expansion (R206, R267) -/

/-- One warp's part of an expansion: the free lane sets of its range at once, and its spilled blocks scheduled, lowest
first, as far as blocks are free. -/
def State.expandWarp (s : State) (g w : Nat) : State :=
  let x := s.grp g
  let y := x.wrp w
  let room := 128 - usedBlocks (s.residents x.die x.core) y.quad
  let ls := s.freeLs x.die x.core y.quad x.region
  s.modW g w (fun y => { y with ls := y.ls ||| ls, refill := y.spilled.take room })

/-- The spilled units of a workgroup for which its bank groups have room. -/
def State.unitsBack (s : State) (g : Nat) : List Nat :=
  let x := s.grp g
  (x.spilledU.foldl (fun (r : List Nat × List Nat) u =>
    let b := x.units.getD u 0
    if FMap.get 0 (s.core x.die x.core).groups b = x.vdev
        ∧ usedUnits (s.residents x.die x.core) b + (r.2.filter (fun k => k == b)).length < 64
    then (r.1 ++ [u], r.2 ++ [b]) else r) ([], [])).1

/-- The pool counts of a workgroup made good where blocks are free. -/
def State.refillPools (s : State) (g : Nat) : State :=
  (List.range 4).foldl (fun s q =>
    let x := s.grp g
    let p := FMap.get Pool.zero x.pools q
    let k := min p.taken (128 - usedBlocks (s.residents x.die x.core) q)
    s.modG g (fun x => { x with pools := FMap.set Pool.zero x.pools q ⟨p.n, p.taken - k⟩ })) s

/-- %resl of the warps whose expansion is complete (R206). -/
def Group.expanded (x : Group) : Group :=
  if !x.refillU.isEmpty then x
  else ((List.range x.warps.length).filter (fun w => (x.wrp w).refill.isEmpty)).foldl Group.newResl x

/-- An expansion of a workgroup (R206). (DEDUCED, log 36). -/
def State.expansion (s : State) (g : Nat) : State :=
  let x := s.grp g
  if !x.alive || (x.save != .running && x.save != .pending) || s.foldBusy x.die x.core then s
  else
    let s := s.modG g (fun x => { x with refillU := s.unitsBack g })
    let s := (List.range x.warps.length).foldl (fun s w => s.expandWarp g w) s
    (s.refillPools g).modG g Group.expanded

/-- EXPANSION (R206). -/
def execExpansion (g : Nat) (s : State) : Host.Outcome State Fault Refusal := .next (s.expansion g)

/-- The lowest scheduled block of a warp comes back, from the reach buffer where that holds it; with the last the reach
buffer is empty (R267). No latch has it any more: its values are the registers' own. -/
def Warp.refilled (w : Warp) : Warp :=
  match w.refill with
  | [] => w
  | b :: l =>
    let w := { w.all (fun t => { t with latch := NSet.del t.latch b }) with
      refill := l
      spilled := NSet.del w.spilled b
      spillBad := if w.reach = some b then [] else w.spillBad }
    if l.isEmpty then w.emptyReach else w

/-- One refill completes: of a warp's block, or of the workgroup's lowest scheduled unit. -/
def State.refill1 (s : State) (g : Nat) (w : Option Nat) : State :=
  match w with
  | some w =>
    if (s.wrp g w).refill.isEmpty then s else s.modG g (fun x => (x.modW w Warp.refilled).expanded)
  | none =>
    match (s.grp g).refillU with
    | [] => s
    | u :: l => s.modG g (fun x => { x with refillU := l, spilledU := NSet.del x.spilledU u }.expanded)

/-- EXPANSION_REFILL (R206, R267). -/
def execExpansionRefill (g : Nat) (w : Option Nat) (s : State) : Host.Outcome State Fault Refusal := .next (s.refill1 g w)

/-! ## The reach buffer and the slow path (R202, R203) -/

/-- The values of a block copied into the latch of a thread that waits for it, which goes on (R202). -/
def Thread.filled (b : Nat) (t : Thread) : Thread :=
  if t.sched == .stalled (.reach b) then { t with sched := .ready, latch := NSet.add t.latch b } else t
/-- REACH_BUFFER_FILL (R202): the block that a thread of the warp waits for replaces the occupant. -/
def execReachBufferFill (g w blk : Nat) (s : State) : Host.Outcome State Fault Refusal :=
  .next (if (s.wrp g w).threads.any (fun t => t.sched == .stalled (.reach blk)) then
      s.modW g w (fun y => (y.occupy blk false).all (Thread.filled blk))
    else s)

/-- SPILLED_UNIT_ACCESS (R203): the slow path has fetched what a thread of the warp waits for. -/
def execSpilledUnitAccess (g w : Nat) (s : State) : Host.Outcome State Fault Refusal :=
  .next (if (s.wrp g w).threads.any (fun t => t.sched == .stalled .spilled) then
      (s.modW g w (fun y => { y with slow := true })).unstall g w (fun y => y == .spilled)
    else s)

/-! ## Full saves (R207–R209) -/

/-- Whether the resident system keeps a workgroup resident: that of a launch whose successor may run beside it gives no
room to it (R390); a slice end, a service action and a migration ask for their own saves (R207, R375). (DEDUCED, log 34). -/
def State.keeps (s : State) (g : Nat) : Bool := s.precedes g (fun _ => true)

/-- FULL_SAVE_REQUEST (R207). -/
def execFullSaveRequest (g : Nat) (s : State) : Host.Outcome State Fault Refusal :=
  .next (if s.keeps g then s else s.requestSave g)

/-- Whether a thread is Blocked. -/
def Thread.blocked (t : Thread) : Bool :=
  match t.sched with
  | .blocked _ => true
  | _ => false

/-- Whether a warp stands at a save point (R208). -/
def Warp.savePoint (w : Warp) : Bool :=
  match w.threads.filter Thread.live with
  | [] => true
  | t :: l =>
    let all := t :: l
    l.all (fun x => x.hnd == t.hnd && x.mode == t.mode && x.pc == t.pc && x.tix == t.tix)
    && (all.all Thread.blocked || (t.tix == 0 && !all.any Thread.blocked))

/-- A workgroup enters Draining. -/
def State.drain (s : State) (g : Nat) (forced : Bool) : State := s.modG g (fun x => { x with save := .draining, forced := forced })

/-- DRAINING (R208): every warp stands at a save point. -/
def execDraining (g : Nat) (s : State) : Host.Outcome State Fault Refusal :=
  let x := s.grp g
  .next (if x.alive && x.save == .pending && x.warps.all Warp.savePoint then s.drain g false else s)

/-- FORCED_SAVE (R207): 65,536 cc in Pending. -/
def execForcedSave (g : Nat) (s : State) : Host.Outcome State Fault Refusal :=
  let x := s.grp g
  .next (if x.alive && x.save == .pending && decide (x.saveAt + 65536 ≤ s.cycle x.die x.core) then s.drain g true else s)

/-- Whether a queue holds nothing begun that can still drain (R209): its head has not begun, stands recorded at a fault, only
waits for other queues, or has all of its writes behind matrix operations, which stay as they are (R252). -/
def Group.headDrained (x : Group) (q : List Entry) : Bool :=
  match q with
  | [] => true
  | e :: _ =>
    match e.st, e.cmd with
    | .faulted _, _ => true
    | _, .join _ => true
    | .queued, _ => e.prog == 0
    | .begun, _ => !e.todo.isEmpty && e.todo.all (fun w => x.behindMatrix e.id w)

/-- Whether every command of a workgroup has drained or been recorded (R209), with every scratch access performed; matrix
operations stay as they are (R252). -/
def Group.drainDone (x : Group) : Bool :=
  x.bank.isEmpty && x.warps.all (fun w => w.cqs.all x.headDrained && w.fold.isNone && w.refill.isEmpty)
  && x.foldU.isEmpty && x.refillU.isEmpty

/-- The scratch interval that a command has still to write. -/
def Entry.left (e : Entry) : Nat × Nat :=
  (e.todo.filter (fun w => w.space == .scr)).foldl (fun r w =>
    if r.1 = r.2 then (w.addr, w.addr + w.size) else (min r.1 w.addr, max r.2 (w.addr + w.size))) (0, 0)
/-- The scoreboard with the entry of a recorded command cut to what it has still to write (R209, Table 8-8). -/
def cutBoard (l : List SbEntry) (e : Entry) : List SbEntry :=
  if e.todo.isEmpty then l
  else
    let iv := e.left
    l.filterMap (fun b =>
      if b.owner = e.id ∧ b.dst then (if iv.1 < iv.2 then some { b with lo := iv.1, hi := iv.2 } else none) else some b)
/-- The commands of a workgroup recorded with what is left of their intervals (R209). -/
def Group.recorded (x : Group) : Group :=
  { x with board := (x.warps.flatMap (fun w => w.cqs.filterMap List.head?)).foldl cutBoard x.board }

/-- DRAIN_COMPLETE (R209). -/
def execDrainComplete (g : Nat) (s : State) : Host.Outcome State Fault Refusal :=
  let x := s.grp g
  .next (if x.alive && x.save == .draining && x.drainDone then s.modG g (fun x => { x.recorded with save := .writing }) else s)

/-- The banks that a workgroup's warps select. -/
def Group.bankSel (x : Group) : List Nat := [0, 1].filter (fun k => x.warps.any (fun w => w.bank == some k))
/-- The banks that a workgroup's warps select with their owners, for its saved context (R152, R151). -/
def State.bankImages (s : State) (g : Nat) : FMap ActBank :=
  let x := s.grp g
  x.bankSel.foldl (fun m k =>
    FMap.set ActBank.void m k (FMap.get ActBank.void (s.core x.die x.core).banks k)) []

/-- A workgroup's state has been written: it holds no core resource (R210). What its die has sent to other dies is performed
first, so that a move to another die keeps what its threads had ordered (R345, R351). -/
def State.saved (s : State) (g : Nat) : State :=
  let x := s.grp g
  let own := (s.core x.die x.core).atlds.filter (fun a => a.grp == g)
  let imgs := s.bankImages g
  let s := (s.drainDie x.die).forget g
  s.modG g (fun x => { x with
    save := .saved
    foldSave := false
    warps := x.warps.map Warp.emptyReach
    bankImgs := imgs
    atlds := own })

/-- SAVE_WRITTEN (R210). -/
def execSaveWritten (g : Nat) (s : State) : Host.Outcome State Fault Refusal :=
  let x := s.grp g
  .next (if x.alive && x.save == .writing && !s.unsent g 5 then s.saved g else s)

/-! ## Resume (R209, R152, R272) -/

/-- A thread as it resumes, in the state it left (Table 2-5): each condition is evaluated again (R209), and a request to a queue's
controller is made again. -/
def Thread.resumed (t : Thread) : Thread :=
  let t := { t with latch := [] }
  match t.sched with
  | .blocked (.queue _) => { t with sched := .ready }
  | _ => t

/-- A recorded command is issued again from its offset, at the head of its queue (R209). -/
def Entry.reissue (e : Entry) : Entry :=
  match e.st with
  | .faulted _ =>
    let done := decide (0 < e.prog) && e.cmd.accs.isEmpty
    { e with st := if e.todo.isEmpty && !done then .queued else .begun }
  | _ => e

/-- A warp as it resumes, before its placement: nothing of it is spilled. -/
def Warp.resumed (w : Warp) (stamp : Nat) : Warp :=
  { w.all Thread.resumed with
    spilled := []
    reach := none
    reachMod := false
    spillBad := []
    slow := false
    fold := none
    refill := []
    cqs := w.cqs.map (fun q => q.map Entry.reissue)
    lastIssue := stamp }

/-- A bank that a resuming workgroup selects: shared where it holds the identical image of the same device, written where
no warp selects it and no other device owns it; none where neither is so (R152, R150, R151). -/
def State.resumeBank (s : State) (v d c : Nat) (k : Nat) (img : ActBank) : Option State :=
  let b := FMap.get ActBank.void (s.core d c).banks k
  if b = img then some s
  else if s.bankSelected d c k || (b.owner != none && b.owner != some v) || (s.core d c).atlds.any (fun a => a.bank == k) then
    none
  else some (s.modC d c (fun x => { x with banks := FMap.set ActBank.void x.banks k img }))

/-- The banks of a saved context, on the core where it resumes: those of the core where it was saved are unchanged, since
its warps still select them there. -/
def State.resumeBanks (s : State) (g d c : Nat) : Option State :=
  let x := s.grp g
  if x.die = d ∧ x.core = c then some s
  else x.bankSel.foldl (fun (r : Option State) k =>
    r.bind (fun s => s.resumeBank x.vdev d c k (FMap.get ActBank.void x.bankImgs k))) (some s)

/-- Pending loads of a saved context go back to a table loader: at most one a bank. (DEDUCED, log 38). -/
def State.resumeLoads (s : State) (g d c : Nat) : Option State :=
  let l := (s.grp g).atlds
  if l.any (fun a => (s.core d c).atlds.any (fun b => b.bank == a.bank)) then none
  else some (s.modC d c (fun x => { x with atlds := x.atlds ++ l }))

/-- The scale memory of a workgroup whose warps stood in other quadrants: that of the quadrant which the first warp of a
quadrant comes from (R248). (DEDUCED, log 87). -/
def Group.moveScales (x : Group) (old : List Warp) : Group :=
  let src := fun (q : Nat) => ((List.range x.warps.length).find? (fun w => (x.wrp w).quad == q)).map (fun w =>
    (old.getD w Warp.void).quad)
  { x with scales := (List.range 4).foldl (fun m q => match src q with
      | some o => FMap.set ScaleMem.zero m q (FMap.get ScaleMem.zero x.scales o)
      | none => m) [] }

/-- The weight of a device in a quadrant; 1 where it owns it alone (R368). -/
def Quad.weight (q : Quad) (v : Nat) : Nat :=
  match q.own with
  | .shared l _ _ => (l.find? (fun e => e.1 == v)).elim 0 (fun e => e.2.2)
  | _ => 1
/-- The other devices that hold slices of a quadrant (R369). -/
def Quad.holders (q : Quad) (v : Nat) : List Nat :=
  match q.own with
  | .shared l _ _ => (l.filter (fun e => e.1 != v && decide (0 < e.2.2))).map (fun e => e.1)
  | _ => []
/-- The work of a device that waits for resources: its saved workgroups with their warps, the gangs that its launches
still have to place on a die (64 of each at most: a core takes no more), the waves that are due in the core's cluster and the lane
workgroups of the cluster's runs. -/
def State.waiting (s : State) (v d c : Nat) : List (Group × List Warp) :=
  (((s.groups.filter (fun x => x.alive && x.vdev == v && x.save == .saved))).map (fun x =>
    ({ x with
        spilledU := []
        refillU := []
        foldU := []
        pools := x.pools.map (fun p => (p.1, (⟨p.2.n, 0⟩ : Pool))) }, x.warps.map (fun w => w.resumed s.clock))))
  ++ (s.launches.filter (fun l => l.vdev == v && decide (l.st < 2) && s.mayStart l && (l.take d).isSome)).flatMap (fun l =>
    List.replicate (min 64 (l.gangs - FMap.total l.placed)) (l.group 0, l.warps s.clock))
  ++ ((s.formerTasks d (c / 4)).filter (fun k => k.vdev == v && (s.waveTasks k).head?.any (fun x => x.id == k.id))).filterMap (fun k =>
    (s.waveOf k).map (fun w => w.2))
  ++ ((List.range s.spinners.length).filter (fun n =>
    let x := s.spin n
    x.st == .running && x.grp.isNone && x.vdev == v && x.die == d && x.cl == c / 4)).map (fun n =>
      ((s.spin n).group n, (s.spin n).warps n s.clock))
/-- A workgroup of waiting work placed on a core, where it fits. -/
def State.tryFit (s : State) (d c : Nat) (x : Group × List Warp) : Option State :=
  (s.fit d c (s.someUnits d c x.1.vdev x.1.scrSize) x.1 x.2).map (fun y => { s with groups := s.groups ++ [y] })
/-- The state as it would be with some workgroups saved. -/
def State.without (s : State) (gs : List Nat) : State := gs.foldl (fun s g => s.modG g (fun x => { x with save := .saved })) s
/-- The first of some workgroups, in their order, whose saving would let waiting work onto a core, less those whose resources
it does not need; none where even all of them do not suffice. -/
def State.needed (s : State) (d c : Nat) (x : Group × List Warp) (cands : List Nat) : Option (List Nat) :=
  let ok := fun (gs : List Nat) => ((s.without gs).tryFit d c x).isSome
  match (List.range (cands.length + 1)).find? (fun n => ok (cands.take n)) with
  | none => none
  | some n => some ((cands.take n).foldl (fun l g => if ok (l.erase g) then l.erase g else l) (cands.take n))
/-- The workgroups among `cands` whose resources a device needs on a core for the work that waits, one after the other
(R369). -/
def State.neededAll (s : State) (d c : Nat) (cands : List Nat) : List (Group × List Warp) → List Nat
  | [] => []
  | x :: l =>
    match s.needed d c x cands with
    | none => s.neededAll d c cands l
    | some gs => gs ++ (((s.without gs).tryFit d c x).getD s).neededAll d c (cands.filter (fun g => !gs.contains g)) l
/-- The workgroups of other devices in a shared quadrant, those of weight 0 first; not one that also stands in a quadrant
which its device owns alone (R374). -/
def State.sharers (s : State) (d c q v : Nat) : List Nat :=
  let l := (List.range s.groups.length).filter (fun g =>
    let x := s.grp g
    x.holds && x.save == .running && x.die == d && x.core == c && x.vdev != v && x.warps.any (fun y => y.quad == q)
    && x.warps.all (fun y => (s.quad d c y.quad).isShared))
  let zero := fun (g : Nat) => (s.quad d c q).weight (s.grp g).vdev == 0
  l.filter zero ++ l.filter (fun g => !zero g)

/-- Those of weight 0. -/
def State.weightless (s : State) (d c q v : Nat) : List Nat :=
  (s.sharers d c q v).filter (fun g => (s.quad d c q).weight (s.grp g).vdev == 0)

/-- Whether a workgroup of a weight-0 device, placed as it would be, would hold what a slice holder needs there (R369): the holder
would ask for its save at once. (DEDUCED, log 88). -/
def State.holderNeeds (s : State) (x : Group) : Bool :=
  let s' := { s with groups := s.groups ++ [{ x with save := .running }] }
  ((x.warps.map (fun w => w.quad)).eraseDups).any (fun k =>
    let q := s.quad x.die x.core k
    q.weight x.vdev == 0 && (q.holders x.vdev).any (fun v =>
      (s'.neededAll x.die x.core (s'.weightless x.die x.core k v) (s'.waiting v x.die x.core)).contains s.groups.length))

/-- A saved workgroup restored on a core (R209): placed by R272, before any of its threads issues. -/
def State.resume (s : State) (g d c : Nat) (units : List Nat) : Option State :=
  let x := s.grp g
  if !x.alive || x.save != .saved then none
  else
    let pools := x.pools.map (fun p => (p.1, (⟨p.2.n, 0⟩ : Pool)))
    let y := { x with spilledU := [], refillU := [], foldU := [], pools := pools, forced := false }
    match s.fit d c units y (x.warps.map (fun w => w.resumed s.clock)) with
    | none => none
    | some y =>
      if s.holderNeeds y then none
      else match (s.resumeBanks g d c).bind (fun s => s.resumeLoads g d c) with
      | none => none
      | some s =>
        let y := { y.moveScales x.warps with bankImgs := [], atlds := [] }
        let s := s.modG g (fun _ => (List.range y.warps.length).foldl Group.newResl y)
        some (s.clearBanks x.vdev x.die x.core)

/-- RESUME (R209). -/
def execResume (g die core : Nat) (units : List Nat) (s : State) : Host.Outcome State Fault Refusal :=
  .next ((s.resume g die core units).getD s)

/-! ## Soft errors and hard failures (R38, R211, R212) -/

/-- The kind and the number of the reserve that serves a unit (Table 16-8): below 64 a logical core, from 100 on the rows of
a DRAM channel, from 200 on a Shelf bank. (DESIGN CHOICE, log 89). -/
def reserveOf (u : Nat) : Option (Nat × Nat) :=
  if u < 64 then some (1, u) else if u < 100 then none else if u < 200 then some (3, u - 100) else some (4, u - 200)
/-- Reserve for a unit made due (R377), once. -/
def Package.needs (p : Package) (d u : Nat) : Package :=
  match reserveOf u with
  | none => p
  | some k => if p.due.contains (d, k) then p else { p with due := p.due ++ [(d, k)] }
/-- A unit's count of corrected errors seen by its wear monitor (R377): beyond 16 times the rate at manufacture it is ageing,
which is reported once. -/
def Package.worn (p : Package) (d u n : Nat) : Package :=
  let lim := 16 * Config.wearBase d u
  if n ≤ lim then p
  else { p with reports := p.reports ++ (if n = lim + 1 then [Report.ageing d u] else []) }.needs d u

/-- An error counted and reported to the management port and to the wear monitors (R211, R377): reserve is due once its
unit is ageing, and at once after an uncorrectable error. -/
def State.countErr (s : State) (d u : Nat) (unc : Bool) : State :=
  if unc then
    let s := (s.modD d (fun x => { x with uncorrected := x.uncorrected + 1 })).report (.uncorrected d u)
    { s with pkg := s.pkg.needs d u }
  else
    let n := FMap.get 0 (s.die d).wear u + 1
    let s := (s.modD d (fun x => { x with
      corrected := x.corrected + 1
      wear := FMap.set 0 x.wear u n })).report (.corrected d u)
    { s with pkg := s.pkg.worn d u n }

/-- The workgroup that an error in a core lies in. -/
def SoftErr.grp : SoftErr → Option Nat
  | .reg t _ => some t.g
  | .pred t _ => some t.g
  | .threadState t => some t.g
  | .reach t _ => some t.g
  | .scratch g _ => some g
  | .scale g _ _ => some g
  | .elem g _ _ _ => some g
  | .tileExp g _ _ => some g
  | .spillReg g _ _ => some g
  | .spillScr g _ _ => some g
  | .spillScale g _ _ => some g
  | .tag g _ => some g
  | .xbarWord g _ => some g
  | .control g => some g
  | .icache => none

/-- Whether an error lies in a spill area, where the state of a Saved workgroup stands. -/
def SoftErr.spill : SoftErr → Bool
  | .spillReg .. => true
  | .spillScr .. => true
  | .spillScale .. => true
  | _ => false

/-- A register poisoned. -/
def Thread.spoil (t : Thread) (r : Nat) : Thread := t.setReg r ⟨(t.reg r).v, true⟩

/-- An error in a warp's spill area at a thread's register (Table 8-9): `all` says that every block lies there. A register
whose block the reach buffer holds is poisoned only once that copy has gone (R202). -/
def Warp.spillHit (w : Warp) (all : Bool) (r : Nat × Nat) : Warp :=
  if all then w.mod r.1 (fun t => t.spoil r.2)
  else if !NSet.has w.spilled (r.2 / 16) then w
  else if w.reach = some (r.2 / 16) then (if w.reachMod then w else { w with spillBad := w.spillBad ++ [r] })
  else w.mod r.1 (fun t => t.spoil r.2)

/-- What an uncorrectable error gives (Table 8-9, Table 2-7). An error in a predicate is one in its value, which is poisoned (R61),
or one in the state that the thread's control needs, which Table 2-7 gives a region fault. (DEDUCED, log 76). -/
def State.softEffect (s : State) (e : SoftErr) : State :=
  match e with
  | .reg t r => s.modT t.g t.w t.t (fun x => x.spoil r)
  | .reach t r => s.modT t.g t.w t.t (fun x => x.spoil r)
  | .pred t k => s.modT t.g t.w t.t (fun x => x.setPred k ⟨(x.pred k).v, true⟩)
  | .threadState t => s.regionFault t.g 0 0
  | .scratch g off =>
    if (s.grp g).xbHit (off / 4 * 4) 4 then s.regionFault g 0 0
    else s.modG g (fun x => { x with scrP := NSet.add x.scrP (off / 4) })
  | .scale g q off =>
    s.modG g (fun x =>
      let m := FMap.get ScaleMem.zero x.scales q
      { x with scales := FMap.set ScaleMem.zero x.scales q { m with p := NSet.add m.p (off / 4) } })
  | .elem g w a ix => s.modW g w (fun y => y.setTile a ((y.tile a).put ix { FMap.get Elem.zero (y.tile a).e ix with p := true }))
  | .tileExp g w a =>
    s.modW g w (fun y => y.setTile a ((List.range 64).foldl (fun (t : Tile) i =>
      (List.range 64).foldl (fun (t : Tile) j => t.put (64 * i + j) { t.at' i j with p := true }) t) (y.tile a)))
  | .spillReg g w rs => s.modW g w (fun y => rs.foldl (fun y r => y.spillHit ((s.grp g).save == .saved) r) y)
  | .spillScr g u sec =>
    s.modG g (fun x =>
      if x.save == .saved || NSet.has x.spilledU u then
        { x with scrP := (List.range 8).foldl (fun p k => NSet.add p (256 * u + 8 * sec + k)) x.scrP }
      else x)
  | .spillScale g q sec =>
    if (s.grp g).save == .saved then
      s.modG g (fun x =>
        let m := FMap.get ScaleMem.zero x.scales q
        let p := (List.range 8).foldl (fun p k => NSet.add p (8 * sec + k)) m.p
        { x with scales := FMap.set ScaleMem.zero x.scales q { m with p := p } })
    else s
  | .tag g word => s.modG g (fun x => x.setTag word Tag.empty)
  | .xbarWord g off => if (s.grp g).xbValid off then s.regionFault g 0 0 else s
  | .control g => s.regionFault g 0 0
  | .icache => s

/-- SOFT_ERROR (R211): counted, reported, corrected or with its effect; in a workgroup of that core, or in the spill area of
a Saved one (Table 8-9). -/
def execSoftError (e : SoftErr) (die core : Nat) (unc : Bool) (s : State) : Host.Outcome State Fault Refusal :=
  let here := match e.grp with
    | none => true
    | some g =>
      let x := s.grp g
      (x.holds && x.die == die && x.core == core)
        || (e.spill && x.alive && x.save == .saved && (x.die == 4 || (x.die == die && x.core == core)))
  .next (if here && decide (die < 4) then
      let s := s.countErr die core unc
      if unc then s.softEffect e else s
    else s)

/-- CORE_HARD_FAILURE (R212): region faults in the regions with workgroups resident on the core; Saved ones stay, and find
nothing on the core any more. (DEDUCED, log 39). -/
def execCoreHardFailure (die core : Nat) (s : State) : Host.Outcome State Fault Refusal :=
  let rs := ((s.residents die core).map (fun x => x.region)).eraseDups
  let s := s.modC die core (fun x => { x with failed := true })
  let s := rs.foldl (fun s r => s.faultRegion r false) s
  .next { s with groups := s.groups.map (fun x =>
    if x.alive && x.save == .saved && x.die == die && x.core == core then { x with die := 4 } else x) }

end Sys2Proof.Machine
end

