-- ==== Sys2Proof/Machine/Pages.lean ====
section
/-! DEFINITION. Page tables and frames as the resident system and the placement assay handle them (16_die.md R318–R322,
R325, 18_package.md R362). -/
namespace Sys2Proof.Machine

/-! ## Ranges of physical memory -/

/-- The entries of a map with keys from `a` to `a + n − 1`. -/
def FMap.range {α : Type} (m : FMap α) (a n : Nat) : FMap α := m.filter (fun x => decide (a ≤ x.1) && decide (x.1 < a + n))
/-- The map without those entries. -/
def FMap.cut {α : Type} (m : FMap α) (a n : Nat) : FMap α := m.filter (fun x => !(decide (a ≤ x.1) && decide (x.1 < a + n)))
/-- The entries from `a` on moved to `b` on, in place of what stood there. -/
def FMap.copy {α : Type} (m : FMap α) (a b n : Nat) : FMap α :=
  let new := (FMap.range m a n).map (fun x => (x.1 - a + b, x.2))
  m.filter (fun x => decide (x.1 < b)) ++ (new ++ m.filter (fun x => decide (b + n ≤ x.1)))
/-- The same for a set. -/
def NSet.copy (l : NSet) (a b n : Nat) : NSet :=
  let new := (l.filter (fun x => decide (a ≤ x) && decide (x < a + n))).map (fun x => x - a + b)
  l.filter (fun x => decide (x < b)) ++ (new ++ l.filter (fun x => decide (b + n ≤ x)))

/-- `n` bytes of physical memory copied with their poison, behind every write that was on its way; both addresses and `n` are
multiples of 32. -/
def State.copyPhys (s : State) (a b n : Nat) : State :=
  let s := s.drainAll
  { s with mem := FMap.copy s.mem a b n, poison := NSet.copy s.poison (a / 32) (b / 32) (n / 32) }
/-- `n` bytes of physical memory that read zero with poison clear; no write is on its way to them any more. -/
def State.zeroPhys (s : State) (a n : Nat) : State :=
  let s := s.drainAll
  { s with mem := FMap.cut s.mem a n, poison := s.poison.filter (fun x => !(decide (a / 32 ≤ x) && decide (x < (a + n) / 32))) }

/-! ## Frames (R332, R337) -/

/-- The 64 KiB frames of a page. -/
def pageFrames (large : Bool) : Nat := if large then 32 else 1
/-- The channels of a die that hold frames: those of the active cores, and reserve brought in; not one that reserve has
replaced (R332, R338). -/
def State.chanOpen (s : State) (d ch : Nat) : Bool :=
  let rs := (s.die d).reserves.filter (fun r => r.kind == 2)
  ((List.range 64).any (fun c => s.physCore d c == ch) || decide (64 ≤ ch ∧ ch - 64 < rs.length))
  && !rs.any (fun r => r.num == ch)
/-- The frames at the end of every DRAM channel that belong to the die's system area: shadow and frame-ownership tables and
spill areas (R332). (DESIGN CHOICE, log 90). -/
def sysFrames : Nat := 64
/-- The frames of a DRAM channel that devices may have. -/
def chanFrames : Nat := 32768 - sysFrames
/-- Whether `n` frames from a physical address on exist, are free, and lie in the Shelf or in an open channel of DRAM as
asked. -/
def State.framesFree (s : State) (pa n : Nat) (shelf : Bool) : Bool :=
  pa % 65536 == 0 && (List.range n).all (fun k =>
    let p := pa + 65536 * k
    paOk p && paShelf p == shelf && paDie p == paDie pa && s.owner p == 0
    && (shelf || (s.chanOpen (paDie p) (paChan p) && decide (paOff p / 65536 < chanFrames))))
/-- Frames given to a device (0 takes them back). -/
def State.own (s : State) (pa n v : Nat) : State :=
  s.modD (paDie pa) (fun x => { x with owners := (List.range n).foldl (fun m k => FMap.set 0 m (pa / 65536 + k) v) x.owners })
/-- Frames freed: scrubbed before anyone else has them (R376). (DESIGN CHOICE, log 50). -/
def State.freeFrames (s : State) (pa n : Nat) : State := (s.zeroPhys pa (65536 * n)).own pa n 0

/-- The frames of a device in DRAM (`shelf` false) or in the Shelf, in the whole part. -/
def State.framesOf (s : State) (v : Nat) (shelf : Bool) : Nat :=
  (s.dies.map (fun x => (x.owners.filter (fun o => o.2 == v && paShelf (o.1 * 65536) == shelf)).length)).sum
/-- The frames in use in DRAM on a die. -/
def State.framesUsed (s : State) (d : Nat) : Nat := ((s.die d).owners.filter (fun o => !paShelf (o.1 * 65536))).length
/-- The free DRAM frames in a device's quota on a die (R324). -/
def State.freeQuota (s : State) (v d : Nat) : Nat :=
  let q := ((s.vdev v).map (fun x => x.dfr)).getD 0
  min (q - s.framesOf v false) (64 * chanFrames - s.framesUsed d)

/-! ## Table entries (R318, R319) -/

/-- The positions of the nonzero entries of a table. -/
def State.tableIx (s : State) (base n : Nat) : List Nat :=
  ((FMap.range s.mem base (8 * n)).map (fun x => (x.1 - base) / 8)).eraseDups
/-- A table entry. -/
def State.tableEnt (s : State) (base i : Nat) : Nat := (s.pword (base + 8 * i)).toNat

/-- The valid leaves of an L3 table: their positions with the entries. -/
def State.leaves3 (s : State) (t3 page : Nat) : List (Nat × Nat × Bool) :=
  (s.tableIx t3 32).filterMap (fun k =>
    let e := s.tableEnt t3 k
    if entV e && entLeaf e then some (page + k, e, false) else none)
/-- The valid leaves below an L2 table. -/
def State.leaves2 (s : State) (t2 page : Nat) : List (Nat × Nat × Bool) :=
  (s.tableIx t2 8192).flatMap (fun j =>
    let e := s.tableEnt t2 j
    if !entV e then []
    else if entLeaf e then [(page + 32 * j, e, true)]
    else match ptrOf e 256 with
    | some t3 => s.leaves3 t3 (page + 32 * j)
    | none => [])
/-- Every mapped page of a device: page number, leaf, and whether it is large. -/
def State.mapped (s : State) (v : Nat) : List (Nat × Nat × Bool) :=
  match s.vdev v with
  | none => []
  | some dv =>
    (s.tableIx dv.root 262144).flatMap (fun i =>
      let e := s.tableEnt dv.root i
      if !entV e then []
      else match ptrOf e 65536 with
      | some t2 => s.leaves2 t2 (2 ^ 18 * i)
      | none => [])

/-- Where the entry of a page stands: the physical address of its L3 entry, or of its L2 entry where that is a leaf or
`large` asks for it; none where a table is missing. -/
def State.leafAddr (s : State) (v page : Nat) (large : Bool) : Option Nat :=
  match s.vdev v with
  | none => none
  | some dv =>
    let e1 := s.tableEnt dv.root (page / 2 ^ 18)
    if !entV e1 then none
    else match ptrOf e1 65536 with
    | none => none
    | some t2 =>
      let j := page / 32 % 8192
      let e2 := s.tableEnt t2 j
      if large || (entV e2 && entLeaf e2) then some (t2 + 8 * j)
      else if !entV e2 then none
      else (ptrOf e2 256).map (fun t3 => t3 + 8 * (page % 32))

/-- A 64-bit entry written at a physical address. -/
def State.setEnt (s : State) (pa e : Nat) : State := s.setPbytes pa (leBytes e 8)

/-- A leaf's bits (Table 16-4). -/
def mkLeaf (frame : Nat) (w atm repl peer pin : Bool) : Nat :=
  frame / 65536 * 65536 + 3 + (if w then 4 else 0) + (if atm then 8 else 0) + (if repl then 16 else 0)
    + (if peer then 32 else 0) + (if pin then 64 else 0)
/-- A leaf with another frame. -/
def leafFrame (e frame : Nat) : Nat := e % 65536 + frame
/-- A leaf with its REPL bit set or cleared. -/
def leafRepl (e : Nat) (b : Bool) : Nat := e / 32 * 32 + e % 16 + if b then 16 else 0

/-- Whether pages overlap: those from `a` to `a + n − 1` and a mapped page. -/
def overlaps (a n : Nat) (m : Nat × Nat × Bool) : Bool := decide (m.1 < a + n) && decide (a < m.1 + pageFrames m.2.2)
/-- The first base page of the mapping that a page of a device lies in. -/
def State.pageHead (s : State) (v page : Nat) : Nat :=
  ((s.mapped v).find? (overlaps page 1)).map (fun m => m.1) |>.getD page

/-! ## Translations removed (R317) -/

/-- The translations that `p` names gone from a die, their counts folded in (R322). (DEDUCED, log 47). -/
def State.dropTlb (s : State) (d : Nat) (p : TlbEnt → Bool) : State :=
  let s := ((s.die d).tlb.filter p).foldl (fun s e => s.foldHits d e) s
  s.modD d (fun x => { x with tlb := x.tlb.filter (fun e => !p e) })
/-- The translations of pages of a device gone from every die. -/
def State.tinv (s : State) (v page n : Nat) : State :=
  (List.range 4).foldl (fun s d => s.dropTlb d (fun e =>
    e.vdev == v && decide (e.page < page + n) && decide (page < e.page + pageFrames e.large))) s

end Sys2Proof.Machine
end

