-- ==== Sys2Proof/Machine/DieUnit.lean ====
section
/-! DEFINITION. Die commands, the placement assay, the token arbiter and soft errors of a die (16_die.md R316, R317, R322–R326,
R330, R331, R333–R336, R339). -/
namespace Sys2Proof.Machine

/-! ## Die commands (R316, Table 16-2) -/

/-- A die's answer to a command. -/
def State.reply (s : State) (d : Nat) (w0 : DWord) (status : Nat) : State :=
  s.modD d (fun x => { x with replies := x.replies ++ [(w0.extractLsb' 32 32, status)] })

/-- The CODE of a command. -/
def cmdCode (w0 : DWord) : Nat := (w0.extractLsb' 0 8).toNat
/-- The VDEV of a command. -/
def cmdVdev (w0 : DWord) : Nat := (w0.extractLsb' 8 8).toNat
/-- The SLOT of a command. -/
def cmdSlot (w0 : DWord) : Nat := (w0.extractLsb' 16 6).toNat

/-- A command with a code of its own: its effect, or the status of a bad operand. A word with another code is no command
of this kind and does nothing here. -/
def State.dieCmd (s : State) (code d : Nat) (w0 : DWord) (body : State → Except Nat State) : State :=
  if cmdCode w0 ≠ code ∨ 4 ≤ d then s
  else if w0.extractLsb' 22 10 ≠ 0 ∨ 63 < cmdVdev w0 then s.reply d w0 2
  else match body s with
  | .ok s' => s'.reply d w0 0
  | .error k => s.reply d w0 k

/-- Whether a virtual range lies in the implemented address space. -/
def rangeOk (va n : DWord) : Bool := decide (va.toNat + n.toNat ≤ 2 ^ 52)

/-- The lines that `p` takes gone from both levels of a die's instruction caches. -/
def State.dropLines (s : State) (d : Nat) (p : ICLine → Bool) : State :=
  s.modD d (fun x => { x with
    icache := x.icache.filter (fun l => !p l)
    cores := x.cores.map (fun c => (c.1, { c.2 with l1 := c.2.l1.filter (fun l => !p l) })) })
/-- ICINV (R316, R317): no cache of the die holds a line of the range. -/
def State.icinv (s : State) (d v va n : Nat) : State :=
  s.dropLines d (fun l => l.vdev == v && decide (64 * l.line < va + n) && decide (va < 64 * l.line + 64))
/-- ICINV. -/
def execIcinv (die : Nat) (w0 w1 w2 _w3 : DWord) (s : State) : Host.Outcome State Fault Refusal :=
  .next (s.dieCmd 1 die w0 (fun s => if rangeOk w1 w2 then .ok (s.icinv die (cmdVdev w0) w1.toNat w2.toNat) else .error 2))
/-- ICINVALL: both levels are empty. -/
def execIcinvall (die : Nat) (w0 _w1 _w2 _w3 : DWord) (s : State) : Host.Outcome State Fault Refusal :=
  .next (s.dieCmd 2 die w0 (fun s => .ok (s.dropLines die (fun _ => true))))

/-- TINV (R316, R317): no translation of the range remains. -/
def execTinv (die : Nat) (w0 w1 w2 _w3 : DWord) (s : State) : Host.Outcome State Fault Refusal :=
  .next (s.dieCmd 3 die w0 (fun s =>
    if rangeOk w1 w2 then .ok (s.dropTlb die (fun e =>
      e.vdev == cmdVdev w0 && decide (e.page * 65536 < w1.toNat + w2.toNat)
      && decide (w1.toNat < (e.page + pageFrames e.large) * 65536)))
    else .error 2))
/-- TINVALL (R316): no translation of the device remains. -/
def execTinvall (die : Nat) (w0 _w1 _w2 _w3 : DWord) (s : State) : Host.Outcome State Fault Refusal :=
  .next (s.dieCmd 4 die w0 (fun s => .ok (s.dropTlb die (fun e => e.vdev == cmdVdev w0))))

/-- Keys loaded into a slot for a device: the generation rises (R330, R331). -/
def State.keyload (s : State) (d k v : Nat) : State :=
  s.modD d (fun x =>
    let o := FMap.get KeySlot.zero x.keys k
    let key := Config.slotKey d k (o.loads + 1)
    { x with keys := FMap.set KeySlot.zero x.keys k ⟨some v, key 0, key 1, (o.gen + 1) % 1024, o.loads + 1⟩ })
/-- The load of a slot that a generation of its lines was stored under (R331): generations follow the loads, and a slot's lines are
scrubbed before a generation comes round again. -/
def KeySlot.loadOf (x : KeySlot) (gen : Nat) : Nat := x.loads - (x.gen + 1024 - gen) % 1024
/-- A line as it is stored (R330): in the Shelf encrypted under the key pair that the slot in its tag held at the tag's generation,
with its physical address as the tweak; a later load or discard of the slot leaves it as it is. -/
def State.cipherLine (s : State) (pa : Nat) : List Byte :=
  let a := pa / 64 * 64
  let line := (List.range 64).map (fun j => s.pbyte (a + j))
  let tag := FMap.get noTag (s.die (paDie pa)).lineTags (pa / 64)
  let n := (FMap.get KeySlot.zero (s.die (paDie pa)).keys tag.1).loadOf tag.2
  let key := Config.slotKey (paDie pa) tag.1 n
  if paShelf pa then Config.sm4Xts (key 0) (key 1) a line else line
/-- KEYLOAD (R331). -/
def execKeyload (die : Nat) (w0 _w1 _w2 _w3 : DWord) (s : State) : Host.Outcome State Fault Refusal :=
  .next (s.dieCmd 5 die w0 (fun s =>
    let v := cmdVdev w0
    match (FMap.get KeySlot.zero (s.die die).keys (cmdSlot w0)).vdev with
    | some u => if u = v then .ok (s.keyload die (cmdSlot w0) v) else .error 3
    | none => if (s.vdev v).isNone then .error 2 else .ok (s.keyload die (cmdSlot w0) v)))

/-- A key slot without its keys. -/
def KeySlot.clear (x : KeySlot) : KeySlot := { x with vdev := none, key1 := 0, key2 := 0 }
/-- A slot emptied (R331): every line under it reads as zero at once; no access under it is in flight. -/
def State.keydisc (s : State) (d k : Nat) : State :=
  s.drainAll.modD d (fun x => { x with keys := FMap.set KeySlot.zero x.keys k (FMap.get KeySlot.zero x.keys k).clear })
/-- KEYDISC (R331). -/
def execKeydisc (die : Nat) (w0 _w1 _w2 _w3 : DWord) (s : State) : Host.Outcome State Fault Refusal :=
  .next (s.dieCmd 6 die w0 (fun s => .ok (s.keydisc die (cmdSlot w0))))

/-- SCRUB (R316): the range reads zero with poison clear. -/
def execScrub (die : Nat) (w0 w1 w2 _w3 : DWord) (s : State) : Host.Outcome State Fault Refusal :=
  .next (s.dieCmd 7 die w0 (fun s =>
    let a := w1.toNat
    let n := w2.toNat
    if a % 65536 ≠ 0 ∨ n % 65536 ≠ 0 ∨ !(List.range (n / 65536)).all (fun k => paOk (a + 65536 * k) && paDie (a + 65536 * k) == die)
    then .error 2
    else .ok (s.zeroPhys a n)))

/-! ## Restart and kill of a fault (R335, R336) -/

/-- The region whose fault-domain flag stands first on the path from a region to the root (R335). -/
def domainFrom (rs : List Region) : Nat → Nat → Nat
  | 0, r => r
  | n + 1, r =>
    match rs[r]? with
    | none => r
    | some x => if x.ovr.getLsbD 8 && x.fd then r else match x.parent with
      | none => r
      | some p => domainFrom rs n p
/-- The fault domain of a region. -/
def State.domainOf (s : State) (r : Nat) : Nat := domainFrom s.regions s.regions.length r

/-- The fault domain of a record: of the region whose block it names. -/
def State.domainOfRec (s : State) (f : FaultRec) : Option Nat :=
  (s.regions.findIdx? (fun r => r.vdev == f.vdev && r.addr == f.region && r.alive)).map s.domainOf

/-- A fault record with its die. -/
def State.faultOf (s : State) (tag : Nat) : Option (Nat × FaultRec) :=
  (List.range 4).findSome? (fun d => ((s.die d).faults.find? (fun f => f.tag == tag)).map (fun f => (d, f)))
/-- A fault record gone: a slot of the queue frees. -/
def State.dropFault (s : State) (d tag : Nat) : State :=
  s.modD d (fun x => { x with faults := x.faults.filter (fun f => f.tag != tag) })

/-- The demand for a page that has not come is to be sent again (R403). -/
def State.redemand (s : State) (v page : Nat) : State :=
  let p := s.pageHead v page
  { s with fab := { s.fab with migIn := s.fab.migIn.map (fun m =>
      if m.vdev = v then { m with demanded := FMap.set 0 m.demanded p 0 } else m) } }

/-- Whether what a fault record names still stands (R36): the head entry of its queue with this tag, the thread at its fetch, the
workgroup's span, the pending task. -/
def State.faultLives (s : State) (f : FaultRec) : Bool :=
  match f.src with
  | .queue q id => (s.cq q).head?.any (fun e => e.id == id && e.st == .faulted f.tag)
  | .fetch t => (s.fetchWants t).any (fun k => k.2.2.1 == f.va.toNat)
  | .span t _ _ => (s.grp t.g).alive
  | .task id => s.tasks.any (fun k => k.id == id)
/-- A faulted command queued again from its progress; for a record whose command is gone nothing is left to do (R36). -/
def State.frestart (s : State) (d : Nat) (f : FaultRec) : State :=
  if !s.faultLives f then s.dropFault d f.tag
  else
    let s := (s.dropFault d f.tag).redemand f.vdev (pageOf f.va.toNat)
    match f.src with
    | .queue q _ => s.modHead q Entry.reissue
    | _ => s
/-- FRESTART (R336). -/
def execFrestart (die : Nat) (w0 w1 _w2 _w3 : DWord) (s : State) : Host.Outcome State Fault Refusal :=
  .next (s.dieCmd 8 die w0 (fun s =>
    match (s.die die).faults.find? (fun f => f.tag == (w1.extractLsb' 0 32).toNat) with
    | none => .error 2
    | some f => .ok (s.frestart die f)))

/-- A region fault in every workgroup, task and unplaced run of a fault domain (R336). (DEDUCED, log 46). -/
def State.killDomain (s : State) (dom : Nat) : State :=
  let gs := (List.range s.groups.length).filter (fun g => (s.grp g).alive && s.domainOf (s.grp g).region == dom)
  let s := gs.foldl (fun s g => s.regionFault g 0 0) s
  let ns := (List.range s.spinners.length).filter (fun n => (s.spin n).st == .running && s.domainOf (s.spin n).region == dom)
  let s := ns.foldl (fun s n => s.abortSpinner n 0xFFFF) s
  { s with tasks := s.tasks.filter (fun k => s.domainOf k.region != dom) }
/-- The domain of a record killed. -/
def State.fkill (s : State) (d : Nat) (f : FaultRec) : State :=
  let s' := s.dropFault d f.tag
  match s.domainOfRec f with
  | some dom => s'.killDomain dom
  | none => s'
/-- FKILL (R336). -/
def execFkill (die : Nat) (w0 w1 _w2 _w3 : DWord) (s : State) : Host.Outcome State Fault Refusal :=
  .next (s.dieCmd 9 die w0 (fun s =>
    match (s.die die).faults.find? (fun f => f.tag == (w1.extractLsb' 0 32).toNat) with
    | none => .error 2
    | some f => .ok (if s.faultLives f then s.fkill die f else s.dropFault die f.tag)))

/-- A die command with a code that Table 16-2 does not list: status 1, no effect (R316). -/
def execUnknownDieCommand (die : Nat) (w0 _w1 _w2 _w3 : DWord) (s : State) : Host.Outcome State Fault Refusal :=
  .next (if 4 ≤ die ∨ (1 ≤ cmdCode w0 ∧ cmdCode w0 ≤ 9) then s else s.reply die w0 1)

/-! ## The placement assay (R322–R325) -/

/-- The counters of a die's translations of a device folded into the shadow records and cleared (R322). -/
def State.foldEpoch (s : State) (d v : Nat) : State :=
  let s := ((s.die d).tlb.filter (fun e => e.vdev == v)).foldl (fun s e => s.foldHits d e) s
  s.modD d (fun x => { x with tlb := x.tlb.map (fun e => if e.vdev = v then { e with hits := 0, written := false } else e) })

/-- The hits of a die in a record. -/
def Shadow.h (r : Shadow) : Nat → Nat
  | 0 => r.h0
  | 1 => r.h1
  | 2 => r.h2
  | _ => r.h3
/-- T of a record. -/
def Shadow.total (r : Shadow) : Nat := r.h0 + r.h1 + r.h2 + r.h3
/-- A record after its evaluation (R324). -/
def Shadow.decay (r : Shadow) : Shadow :=
  { r with h0 := r.h0 / 2, h1 := r.h1 / 2, h2 := r.h2 / 2, h3 := r.h3 / 2
           quiet := if r.wmask = 0 then min (r.quiet + 1) 255 else 0, wmask := 0 }

/-- The gain of a replica on die `d` (R324). -/
def assayRep (a : Assay) (r : Shadow) (p : Nat) (q : Nat → Nat) (d : Nat) : Int :=
  (a.wh * r.h d : Nat) - (256 * a.wr * p : Nat) - (a.wq * q d : Nat)
/-- The gain of a migration to die `d` from home `h`. -/
def assayMig (a : Assay) (r : Shadow) (h p : Nat) (q : Nat → Nat) (d : Nat) : Int :=
  (a.wh : Int) * ((r.h d : Int) - (r.h h : Int)) - (256 * a.wm * p : Nat) - (a.wq * q d : Nat)

/-- The actions that the assay takes on a page (R324). -/
def assayActs (a : Assay) (r : Shadow) (h p : Nat) (repl : Bool) (q free : Nat → Nat) (v page : Nat) : List AssayMove :=
  let dies := (List.range 4).filter (fun d => d != h && decide (a.fmin + p ≤ free d))
  if repl then
    if r.wmask ≠ 0 then [⟨v, page, 3, h⟩]
    else ((List.range 4).filter (fun d => r.rmask.getLsbD d && decide (assayRep a r p q d ≤ 0))).map (fun d => ⟨v, page, 2, d⟩)
  else
    let gain := dies.filter (fun d => decide (0 < assayRep a r p q d))
    if a.nw ≤ r.quiet ∧ !gain.isEmpty then gain.map (fun d => ⟨v, page, 0, d⟩)
    else
      (dies.foldl (fun (best : Option (Nat × Int)) d =>
        let m := assayMig a r h p q d
        match best with
        | none => if 0 < m then some (d, m) else none
        | some b => if b.2 < m then some (d, m) else some b) none).toList.map (fun b => ⟨v, page, 1, b.1⟩)

/-- The pages of a device homed in the DRAM of a die that the assay may evaluate, with their records. -/
def State.assayPages (s : State) (d v theta : Nat) : List (Nat × Nat × Bool × Shadow) :=
  let l := (s.mapped v).filterMap (fun m =>
    let e := m.2.1
    let fr := entFrame e
    let r := FMap.get Shadow.zero (s.die d).shadow (fr / 65536)
    if !entPin e && !entPeer e && !paShelf fr && paDie fr == d && decide (theta ≤ r.total) then some (m.1, e, m.2.2, r) else none)
  sortBy (fun a b => decide (b.2.2.2.total < a.2.2.2.total
    ∨ (b.2.2.2.total = a.2.2.2.total ∧ entFrame a.2.1 ≤ entFrame b.2.1))) l

/-- What is free for a device while the actions of an epoch are taken (R324): its quota, and the room of each die. -/
structure AssayFree where
  quota : Nat
  room : List Nat
  deriving DecidableEq, Repr
/-- F_d. -/
def AssayFree.at' (f : AssayFree) (d : Nat) : Nat := min f.quota (f.room.getD d 0)
/-- What is free after an action on a page of `p` frames homed on `h`, whose replicas stand on the dies of a mask. -/
def AssayFree.after (f : AssayFree) (h p : Nat) (rmask : BitVec 4) (m : AssayMove) : AssayFree :=
  let add := fun (l : List Nat) (d : Nat) => modAt l d (fun n => n + p)
  let sub := fun (l : List Nat) (d : Nat) => modAt l d (fun n => n - p)
  match m.act with
  | 0 => ⟨f.quota - p, sub f.room m.target⟩
  | 1 => ⟨f.quota, add (sub f.room m.target) h⟩
  | 2 => ⟨f.quota + p, add f.room m.target⟩
  | _ =>
    let ds := (List.range 4).filter (fun d => rmask.getLsbD d)
    ⟨f.quota + p * ds.length, ds.foldl add f.room⟩
/-- What is free for a device at the start. -/
def State.assayFree (s : State) (v : Nat) : AssayFree :=
  let q := ((s.vdev v).map (fun x => x.dfr)).getD 0
  ⟨q - s.framesOf v false, (List.range 4).map (fun d => 64 * chanFrames - s.framesUsed d)⟩
/-- The actions on some pages, one page after the other, each with what those before it leave free. -/
def assayRun (a : Assay) (h v : Nat) (q : Nat → Nat) : List (Nat × Nat × Bool × Shadow) → AssayFree → List AssayMove
  | [], _ => []
  | x :: l, f =>
    let p := pageFrames x.2.2.1
    let acts := assayActs a x.2.2.2 h p (entRepl x.2.1) q f.at' v x.1
    acts ++ assayRun a h v q l (acts.foldl (fun f m => f.after h p x.2.2.2.rmask m) f)

/-! ## What the translator takes from the records (R358) -/

/-- The pages of a function's Prerin code: from its entry to the next mark of its image. -/
def Image.codePages (i : Image) (p : Nat) : List Nat :=
  let stop := (i.marks.filter (fun m => decide (p < m))).foldl (fun a b => if a = 0 then b else min a b) 0
  (List.range (pageOf (stop - 1) + 1 - pageOf p)).map (fun k => pageOf p + k)
/-- The hits in the records of some pages of a device. -/
def State.pageHits (s : State) (v : Nat) (pages : List Nat) : Nat :=
  (pages.map (fun p =>
    match s.walk v (p * 65536) with
    | .ok l =>
      let fr := entFrame l.1
      if entPeer l.1 then 0 else (FMap.get Shadow.zero (s.die (paDie fr)).shadow (fr / 65536)).total
    | .error _ => 0)).sum
/-- The hits that an image's functions have gathered, up to an evaluation of records (R324): `now` stands in the records before
it, `next` after it. -/
def Image.gather (i : Image) (now next : Nat → Nat) : Image :=
  let fs := List.range i.funcs.length
  { i with
    got := fs.foldl (fun m k => FMap.set 0 m k (FMap.get 0 m k + (now k - FMap.get 0 i.hits k))) i.got
    hits := fs.foldl (fun m k => FMap.set 0 m k (next k)) i.hits }
/-- An image after an epoch of die 0: the Prerin functions whose code pages gathered 4,096 hits or more in it queued behind
those still to be translated, in descending hits; the count starts anew. -/
def Image.epoch (i : Image) : Image :=
  let fs := (List.range i.funcs.length).filter (fun k =>
    ((i.funcs.getD k (0, 0)).2 % 2 == 0) && !NSet.has i.swapped k && !NSet.has i.failedF k && !i.hot.contains k)
  let got := fun (k : Nat) => FMap.get 0 i.got k
  let new := sortBy (fun a b => decide (got b ≤ got a)) (fs.filter (fun k => decide (4096 ≤ got k)))
  { i with
    hot := i.hot ++ new
    got := [] }
/-- What the translator takes note of at the end of an epoch of die `d` for a device, with its choice where that is die 0 (R358):
`s` has the records as the counters left them, `t` as the evaluation did. -/
def State.hotFuncs (s t : State) (d v : Nat) : State :=
  let hits := fun (s : State) (i : Image) (k : Nat) => s.pageHits v (i.codePages (i.funcs.getD k (0, 0)).2)
  { t with images := t.images.map (fun i =>
      if i.vdev = v && i.ready then
        let i := i.gather (hits s i) (hits t i)
        if d = 0 then i.epoch else i
      else i) }

/-- The end of an epoch of a die for a device (R324, R358): the counters, the evaluation, at most 1,024 actions. `queued` is
the flits queued from this die to each other. (DEDUCED, log 48). -/
def State.epochEnd (s : State) (d v : Nat) (queued : List Nat) : State :=
  match s.vdev v with
  | none => s
  | some dv =>
    let s := s.foldEpoch d v
    let t := if !dv.assay.en || 4 ≤ d then s
      else
        let ps := s.assayPages d v dv.assay.theta
        let q := fun (k : Nat) => min (queued.getD k 0) 65535
        let acts := assayRun dv.assay d v q ps (s.assayFree v)
        let age := fun (m : FMap Shadow) (p : Nat × Nat × Bool × Shadow) =>
          FMap.set Shadow.zero m (entFrame p.2.1 / 65536) p.2.2.2.decay
        s.modD d (fun x => { x with shadow := ps.foldl age x.shadow, moves := x.moves ++ acts.take 1024 })
    s.hotFuncs t d v

/-- EPOCH_END (R324). -/
def execEpochEnd (die vdev : Nat) (queued : List Nat) (s : State) : Host.Outcome State Fault Refusal :=
  .next (s.epochEnd die vdev queued)

/-- A page's replicas dropped from some dies, their frames freed. -/
def State.dropReplicas (s : State) (v page n : Nat) (ds : List Nat) : State :=
  ds.foldl (fun s d =>
    let mine := fun (r : Replica) => r.vdev == v && decide (page ≤ r.page) && decide (r.page < page + n)
    let s := ((s.die d).replicas.filter mine).foldl (fun s r => s.freeFrames r.frame 1) s
    s.modD d (fun x => { x with replicas := x.replicas.filter (fun r => !mine r) })) s

/-- The shadow record of a frame changed. -/
def State.modShadow (s : State) (fr : Nat) (f : Shadow → Shadow) : State :=
  s.modD (paDie fr) (fun x => { x with
    shadow := FMap.set Shadow.zero x.shadow (fr / 65536) (f (FMap.get Shadow.zero x.shadow (fr / 65536))) })

/-- The open-span directory entries of a page's sectors go to the die of its new home (R325). -/
def State.moveSpanDir (s : State) (v page n d e : Nat) : State :=
  if d = e then s
  else
    let mine := fun (x : SpanEnt) => x.vdev == v && decide (64 * page ≤ x.sector) && decide (x.sector < 64 * (page + n))
    let l := (s.die d).spanDir.filter mine
    (s.modD d (fun x => { x with spanDir := x.spanDir.filter (fun y => !mine y) })).modD e (fun x =>
      l.foldl (fun x y => x.addSpan y) x)

/-- Whether a die's replica map takes `n` pages more (R325). -/
def State.replicaRoom (s : State) (d n : Nat) : Bool := decide ((s.die d).replicas.length + n ≤ 16384)

/-- Whether a device still has frames for an action of the assay on a die (R324). -/
def State.quotaOk (s : State) (v d n : Nat) : Bool :=
  decide ((((s.vdev v).map (fun x => x.assay.fmin)).getD 0) + n ≤ s.freeQuota v d)

/-- An action on a mapped page (R325): copy, leaf, replica map, translations, shadow record, directory. None where the
frame the resident system chose is not free on the target, the device's frames there do not suffice any more, or the
replica map is full. (DESIGN CHOICE, log 49). -/
def State.movePage (s : State) (m : AssayMove) (page e : Nat) (large : Bool) (frame : Nat) : Option State :=
  let n := pageFrames large
  let size := 65536 * n
  let old := entFrame e
  let room := s.framesFree frame n false && paDie frame == m.target && decide (frame % size = 0)
    && (m.act == 4 || s.quotaOk m.vdev m.target n)
  match s.leafAddr m.vdev page large with
  | none => none
  | some la =>
    match m.act with
    | 0 =>
      if !room || !s.replicaRoom m.target n then none
      else
        let rs := (List.range n).map (fun k => (⟨m.vdev, page + k, frame + 65536 * k⟩ : Replica))
        let s := (((s.copyPhys old frame size).own frame n m.vdev).setEnt la (leafRepl e true)).tinv m.vdev page n
        some ((s.modD m.target (fun x => { x with replicas := x.replicas ++ rs })).modShadow old (fun r =>
          { r with rmask := r.rmask ||| (1#4 <<< m.target) }))
    | 2 =>
      let s := (s.dropReplicas m.vdev page n [m.target]).modShadow old (fun r => { r with rmask := r.rmask &&& ~~~(1#4 <<< m.target) })
      let left := (List.range 4).any (fun d => (s.die d).replicas.any (fun r => r.vdev == m.vdev && r.page == page))
      some ((s.setEnt la (leafRepl e left)).tinv m.vdev page n)
    | 3 =>
      let s := (s.dropReplicas m.vdev page n [0, 1, 2, 3]).modShadow old (fun r => { r with rmask := 0 })
      some ((s.setEnt la (leafRepl e false)).tinv m.vdev page n)
    | _ =>
      if !room || (m.act == 4 && !decide (64 ≤ paChan frame)) then none
      else
        let s := (((s.copyPhys old frame size).own frame n (s.owner old)).setEnt la (leafFrame e frame)).tinv m.vdev page n
        let r := FMap.get Shadow.zero (s.die (paDie old)).shadow (old / 65536)
        let s := ((s.modShadow old (fun _ => Shadow.zero)).modShadow frame (fun _ => r)).moveSpanDir m.vdev page n (paDie old) m.target
        some (s.freeFrames old n)

/-- A replica on a die moved to another frame of it (R338). -/
def State.moveReplica (s : State) (m : AssayMove) (frame : Nat) : Option State :=
  match (s.die m.target).replicas.find? (fun r => r.vdev == m.vdev && r.page == m.page) with
  | none => none
  | some r =>
    if !s.framesFree frame 1 false || paDie frame != m.target || decide (paChan frame < 64) then none
    else
      let s := ((s.copyPhys r.frame frame 65536).own frame 1 m.vdev).tinv m.vdev m.page 1
      let set := fun (x : Replica) => if x = r then { r with frame := frame } else x
      some ((s.modD m.target (fun x => { x with replicas := x.replicas.map set })).freeFrames r.frame 1)

/-- Every table entry of a device that points to a table: the addresses of the entries. -/
def State.pointersTo (s : State) (root t : Nat) : List Nat :=
  let hit := fun (e al : Nat) => entV e && !entLeaf e && ptrOf e al == some t
  (s.tableIx root 262144).flatMap (fun i =>
    let e := s.tableEnt root i
    (if hit e 65536 then [root + 8 * i] else [])
    ++ (match (if entV e then ptrOf e 65536 else none) with
      | none => []
      | some t2 => ((s.tableIx t2 8192).filter (fun j => hit (s.tableEnt t2 j) 256)).map (fun j => t2 + 8 * j)))
/-- A table of a device moved to another frame of its die (R338): the root of 32 frames, or a lower table with every entry
that points to it. -/
def State.moveTable (s : State) (m : AssayMove) (frame : Nat) : Option State :=
  let old := 65536 * m.page
  match s.vdev m.vdev with
  | none => none
  | some dv =>
    let n := if dv.root = old then 32 else 1
    if !s.framesFree frame n false || paDie frame != m.target || decide (paChan frame < 64) || decide (frame % (65536 * n) ≠ 0) then none
    else
      let ps := s.pointersTo dv.root old
      let s := (s.copyPhys old frame (65536 * n)).own frame n (256 + m.vdev)
      let s := if n = 32 then
          { s with vdevs := s.vdevs.map (fun (x : VDev) => if x.num = m.vdev then { x with root := frame } else x) }
        else ps.foldl (fun s a => s.setEnt a (frame + 1)) s
      some (s.freeFrames old n)

/-- A pending action performed. -/
def State.pageMove (s : State) (d : Nat) (m : AssayMove) (frame : Nat) : State :=
  if !(s.die d).moves.contains m then s
  else
    let s' := s.modD d (fun x => { x with moves := x.moves.erase m })
    if m.act = 5 then (s'.moveReplica m frame).getD s
    else if m.act = 6 then (s'.moveTable m frame).getD s
    else match (s.mapped m.vdev).find? (fun p => p.1 == m.page) with
    | none => s'
    | some p =>
      if paDie (entFrame p.2.1) ≠ d ∨ entPeer p.2.1 then s'
      else match s'.movePage m p.1 p.2.1 p.2.2 frame with
      | none => if m.act = 0 ∨ m.act = 1 then s' else s
      | some s2 => s2

/-- PAGE_MOVE (R325): held accesses go on at the new place. -/
def execPageMove (die vdev page act target frame : Nat) (s : State) : Host.Outcome State Fault Refusal :=
  .next (s.pageMove die ⟨vdev, page, act, target⟩ frame)

/-! ## Tokens (R334) -/

/-- An account at a period start: the share, the repayment, the balance. -/
def Toks.period (t : Toks) : Toks × Nat × Nat :=
  let r := tokCap t.cls * t.share / 1024
  let x := min t.debt (r / 2)
  ({ t with debt := t.debt - x, bal := (r : Int) - x + min t.bal 0, waiting := false }, r, x)

/-- A period starts in a die (R334). -/
def Die.period (x : Die) : Die :=
  let l := x.toks.map Toks.period
  let spare := fun (c : Nat) =>
    let mine := l.filter (fun a => a.1.cls == c)
    tokCap c + (mine.map (fun a => a.2.2)).sum - (mine.map (fun a => a.2.1)).sum
  { x with toks := l.map (fun a => a.1), spare := [0, 1, 2].foldl (fun m c => FMap.set 0 m c (spare c)) x.spare }

/-- TOKEN_PERIOD (R334). -/
def execTokenPeriod (die : Nat) (s : State) : Host.Outcome State Fault Refusal := .next (s.modD die Die.period)

/-! ## Soft errors of a die (R339) -/

/-- Region faults in every region with a launch on a die (Table 16-9). (DEDUCED, log 86). -/
def State.faultDie (s : State) (d : Nat) : State :=
  let rs := ((s.launches.filter (fun l => l.tickets.any (fun k => k.1 == d)
    && (decide (l.st < 2) || s.groups.any (fun x => x.alive && (match x.kind with
      | .gang n _ => n == l.id
      | _ => false))))).map (fun l => l.region)).eraseDups
  rs.foldl (fun s r => s.faultRegion r true) s

/-- The unit that an error in a die structure is counted for. -/
def DieErr.unit : DieErr → Nat
  | .data sec => if paShelf (32 * sec) then 200 + paOff (32 * sec) / 2 ^ 22 else 100 + paChan (32 * sec)
  | _ => 64

/-- What an uncorrectable error gives (Table 16-9). -/
def State.dieErrEffect (s : State) (d : Nat) (e : DieErr) : State :=
  match e with
  | .tlb v page => s.modD d (fun x => { x with tlb := x.tlb.filter (fun t => !t.has v page) })
  | .icache v line => s.modD d (fun x => { x with icache := x.icache.filter (fun l => !(l.vdev == v && l.line == line)) })
  | .replicaMap _ _ => s
  | .shadow fr => s.modD d (fun x => { x with shadow := FMap.set Shadow.zero x.shadow fr Shadow.zero })
  | .control => s.faultDie d
  | .lock v page =>
    (match (s.mapped v).find? (overlaps page 1) with
     | none => s
     | some m =>
       let h := paDie (entFrame m.2.1)
       if entPeer m.2.1 then s else s.modD h (fun x => { x with moves := x.moves ++ [⟨v, m.1, 3, h⟩] }))
  | .data sec => if paDie (32 * sec) = d ∧ paOk (32 * sec) then { s with poison := NSet.add s.poison sec } else s

/-- DIE_SOFT_ERROR (R339): counted and reported as in R211. -/
def execDieSoftError (die : Nat) (e : DieErr) (unc : Bool) (s : State) : Host.Outcome State Fault Refusal :=
  .next (if 4 ≤ die then s
    else
      let s := s.countErr die e.unit unc
      if unc then s.dieErrEffect die e else s)

end Sys2Proof.Machine
end

