-- ==== Sys2Proof/Machine/Snapshot.lean ====
section
/-! DEFINITION. Mapping pages, and the execution state of a virtual device: taken at a checkpoint or a migration, and put back
(18_package.md R362, R376, R379, 20_fabric.md R401, R402, R408). -/
namespace Sys2Proof.Machine

/-! ## Frames that the resident system may choose (R332, R338) -/

/-- Whether a list names no frame twice. -/
def noRepeat : List Nat → Bool
  | [] => true
  | x :: l => !l.contains x && noRepeat l

/-- The frames in use in the Shelf of a die. -/
def State.shelfUsed (s : State) (d : Nat) : Nat := ((s.die d).owners.filter (fun o => paShelf (o.1 * 65536))).length
/-- The aligned blocks of 2 MiB of a die's DRAM or Shelf that have a frame in use. -/
def State.blocksUsed (s : State) (d : Nat) (shelf : Bool) : Nat :=
  (((s.die d).owners.filter (fun o => paShelf (o.1 * 65536) == shelf)).map (fun o => o.1 / 32)).eraseDups.length
/-- The pages of 64 KiB or 2 MiB that a device may still have in a tier, on one die or on all (`hint` 4). -/
def State.tierRoom (s : State) (v hint : Nat) (shelf large : Bool) : Nat :=
  let q := ((s.vdev v).map (fun x => if shelf then x.sfr else x.dfr)).getD 0
  let one := fun (d : Nat) =>
    if large then (if shelf then 192 else 64 * (chanFrames / 32)) - s.blocksUsed d shelf
    else if shelf then 6144 - s.shelfUsed d else 64 * chanFrames - s.framesUsed d
  min ((q - s.framesOf v shelf) / pageFrames large) (if hint < 4 then one hint else ((List.range 4).map one).sum)

/-- Whether a frame may hold a page: free, of its size and alignment, in the tier, on the die, in an open channel. -/
def State.frameOk (s : State) (f hint : Nat) (large shelf : Bool) : Bool :=
  s.framesFree f (pageFrames large) shelf && decide (f % (65536 * pageFrames large) = 0)
  && (decide (4 ≤ hint) || paDie f == hint)

/-! ## Leaves written (R318, R319) -/

/-- The table that an entry points to, and where it points to none, the next of `tables` put in: each table takes a free
DRAM frame of its own, owned by the system area of the device (number 256 + `v`). (DESIGN CHOICE, log 50). -/
def State.tableAt (s : State) (ea al v : Nat) (tables : List Nat) : Option (State × Nat × List Nat) :=
  let e := (s.pword ea).toNat
  if entV e then (if entLeaf e then none else (ptrOf e al).map (fun t => (s, t, tables)))
  else match tables with
  | [] => none
  | t :: l =>
    if s.framesFree t 1 false then some (((s.zeroPhys t 65536).own t 1 (256 + v)).setEnt ea (t + 1), t, l) else none

/-- The entry of a page written; none where a table is missing and `tables` names no free frame for it. -/
def State.putLeaf (s : State) (v page leaf : Nat) (large : Bool) (tables : List Nat) : Option (State × List Nat) :=
  match s.vdev v with
  | none => none
  | some dv =>
    match s.tableAt (dv.root + 8 * (page / 2 ^ 18)) 65536 v tables with
    | none => none
    | some (s, t2, tables) =>
      let a2 := t2 + 8 * (page / 32 % 8192)
      if large then some (s.setEnt a2 leaf, tables)
      else match s.tableAt a2 256 v tables with
      | none => none
      | some (s, t3, tables) => some (s.setEnt (t3 + 8 * (page % 32)) leaf, tables)

/-- The tables that pages of a device still lack: of L2, and of L3 for base pages. -/
def State.tablesNeeded (s : State) (v : Nat) (pages : List Nat) (large : Bool) : Nat :=
  match s.vdev v with
  | none => 0
  | some dv =>
    let l2 := fun (i : Nat) => let e := s.tableEnt dv.root i; if entV e then ptrOf e 65536 else none
    let up := ((pages.map (fun p => p / 2 ^ 18)).eraseDups).filter (fun i => (l2 i).isNone)
    let low := ((pages.map (fun p => p / 32)).eraseDups).filter (fun j =>
      match l2 (j / 8192) with
      | none => true
      | some t2 => !entV (s.tableEnt t2 (j % 8192)))
    up.length + (if large then 0 else low.length)

/-- A page mapped to a frame of its own, which reads zero. -/
def State.mapPage (s : State) (v : Nat) (m : MapEnt) (frame : Nat) (tables : List Nat) : Option (State × List Nat) :=
  let n := pageFrames m.large
  ((s.zeroPhys frame (65536 * n)).own frame n v).putLeaf v m.page (mkLeaf frame m.w m.atm false false m.pin) m.large tables

/-- Pages mapped to frames, one each, in order, and peer pages mapped by their leaves; none where a frame is not fit or a table cannot be placed. -/
def State.mapPages (s : State) (v hint : Nat) : List MapEnt → List Nat → List Nat → Option State
  | [], [], _ => some s
  | [], _ :: _, _ => none
  | m :: l, fs, tables =>
    match m.peer, fs with
    | some leaf, fs =>
      (match s.putLeaf v m.page leaf m.large tables with
       | none => none
       | some (s, tables) => s.mapPages v hint l fs tables)
    | none, [] => none
    | none, f :: fs =>
      if !s.frameOk f hint m.large m.shelf then none
      else match s.mapPage v m f tables with
      | none => none
      | some (s, tables) => s.mapPages v hint l fs tables

/-- A mapped page gone with its replicas and its frame; a peer page loses its leaf alone. -/
def State.unmapPage (s : State) (v : Nat) (m : Nat × Nat × Bool) : State :=
  let n := pageFrames m.2.2
  let s := match s.leafAddr v m.1 m.2.2 with
    | some la => s.setEnt la 0
    | none => s
  let s := s.tinv v m.1 n
  if entPeer m.2.1 then s
  else ((s.dropReplicas v m.1 n [0, 1, 2, 3]).modShadow (entFrame m.2.1) (fun _ => Shadow.zero)).freeFrames (entFrame m.2.1) n

/-- Whether a mapped page belongs to the device's system area: the page of its root's control block (R373). -/
def State.sysPage (s : State) (v : Nat) (m : Nat × Nat × Bool) : Bool := !entPeer m.2.1 && s.owner (entFrame m.2.1) == 256 + v
/-- The mapped pages of a device but for its system area. -/
def State.userPages (s : State) (v : Nat) : List (Nat × Nat × Bool) := (s.mapped v).filter (fun m => !s.sysPage v m)

/-- The mapping list of a device (R401): every leaf. -/
def State.mapList (s : State) (v : Nat) : List MapEnt :=
  (s.userPages v).map (fun m =>
    let e := m.2.1
    ⟨m.1, entW e, entAtm e, entPin e, m.2.2, !entPeer e && paShelf (entFrame e), if entPeer e then some e else none⟩)

/-! ## Region control blocks (R370, R373) -/

/-- The 64 bytes of a region control block (Table 18-8). -/
def State.regionBytes (s : State) (r : Region) : List Byte :=
  let up := ((r.parent.bind (fun p => s.regions[p]?)).map (fun x => x.addr)).getD 0
  leBytes up 8 ++ leBytes (r.ovr.toNat * 65536 + (if r.fd then 16 else 0) + r.prio) 4 ++ leBytes r.rb 4
    ++ leBytes (r.sbg * 65536 + r.ls) 4 ++ leBytes (r.dmask.toNat * 2 ^ 28 + r.lsq * 65536 + r.acc) 4
    ++ leBytes (r.ts * 65536 + r.td) 4 ++ leBytes r.tl 4 ++ leBytes 0 32

/-- The first free DRAM frame from an address on. -/
def State.freeFrom (s : State) (pa : Nat) : Nat → Option Nat
  | 0 => none
  | n + 1 => if s.framesFree pa 1 false then some pa else s.freeFrom (pa + 65536) n
/-- A free DRAM frame: the first of the part. -/
def State.anyFrame (s : State) : Option Nat :=
  (List.range 4).findSome? (fun d => (List.range 68).findSome? (fun ch => s.freeFrom (2 ^ 38 * d + 2 ^ 31 * ch) chanFrames))
/-- A frame of the system area of a device taken. -/
def State.sysFrame (s : State) (v : Nat) : Option (State × Nat) := s.anyFrame.map (fun f => ((s.zeroPhys f 65536).own f 1 (256 + v), f))

/-- The page of a device root's control block mapped in the device's system area, for reading alone, with the block's bytes
in it (R370, R373); none where no frame is free. (DESIGN CHOICE, log 50). -/
def State.mapRoot (s : State) (v addr : Nat) (b : List Byte) : Option State :=
  match s.sysFrame v with
  | none => none
  | some (s1, f) =>
    match s1.sysFrame v with
    | none => none
    | some (s2, t1) =>
      match s2.sysFrame v with
      | none => none
      | some (_, t2) =>
        (s1.putLeaf v (pageOf addr) (mkLeaf f false false false false true) false [t1, t2]).map (fun r =>
          r.1.setPbytes (f + addr % 65536) b)
/-- The bytes of a device root's control block written where its page is mapped, else mapped with them. -/
def State.putRoot (s : State) (v : Nat) : State :=
  match (s.vdev v).bind (fun x => s.regions[x.rootReg]?) with
  | none => s
  | some r =>
    match s.walk v r.addr with
    | .ok l => s.setPbytes (homePa l r.addr) (s.regionBytes r)
    | .error _ => (s.mapRoot v r.addr (s.regionBytes r)).getD s

/-! ## The execution state (R401) -/

/-- The entries of a list with their numbers that `p` takes. -/
def numbered {α : Type} (l : List α) (p : α → Bool) : FMap α :=
  (((List.range l.length).zip l).filter (fun x => p x.2))

/-- Whether a call came from the host, which the resident system of this part answers (R398). -/
def Call.fromHost (c : Call) : Bool :=
  match c.caller with
  | .host _ _ => true
  | .port _ _ _ => true
  | _ => false
/-- The execution state of a device. -/
def State.execState (s : State) (v : Nat) : ExecState where
  groups := numbered s.groups (fun x => x.alive && x.vdev == v)
  queues := s.queues.filter (fun q => q.vdev == v)
  spinners := numbered s.spinners (fun x => x.vdev == v && x.st == .running)
  tasks := s.tasks.filter (fun k => k.vdev == v)
  launches := s.launches.filter (fun l => l.vdev == v)
  regions := numbered s.regions (fun r => r.vdev == v && r.alive)
  calls := s.calls.filter (fun c => c.vdev == v && !c.fromHost)
  images := s.images.filter (fun i => i.vdev == v)
  apps := s.pkg.apps.filter (fun x => x.vdev == v)
  maps := s.mapList v
  imports := s.fab.peers.filter (fun p => p.vdev == v)
  grants := s.fab.grants.filter (fun g => g.evdev == v)
  ids := s.pkg.nextId

end Sys2Proof.Machine
namespace Sys2Proof.Config
/-- The bytes in which the execution state of a device is written out (R379, R400), whose layout the spec does not give. Free
(DESIGN CHOICE, log 12). -/
opaque stateBytes (st : Sys2Proof.Machine.ExecState) : List Byte
end Sys2Proof.Config
namespace Sys2Proof.Machine

/-- Where an old number stands when the entries follow one another from `base` on; `dflt` for one that is not among
them. -/
def renum {α : Type} (m : FMap α) (base dflt k : Nat) : Nat :=
  match m.findIdx? (fun x => x.1 == k) with
  | some i => base + i
  | none => dflt

/-- Whether a device has a quadrant in a cluster. -/
def State.inCluster (s : State) (v d cl : Nat) : Bool :=
  (List.range 4).any (fun j => (s.core d (4 * cl + j)).quads.any (fun q =>
    match q.own with
    | .none => false
    | .hard u => u == v
    | .shared l _ _ => l.any (fun e => e.1 == v)))
/-- The cluster where a unit's work for a device goes: where it was, if the device has a quadrant there, else the first in
which it has one (R408). (DESIGN CHOICE, log 102). -/
def State.homeFor (s : State) (v d cl : Nat) : Nat × Nat :=
  if s.inCluster v d cl then (d, cl)
  else (((List.range 4).flatMap (fun e => (List.range 16).map (fun k => (e, k)))).find? (fun x => s.inCluster v x.1 x.2)).getD (d, cl)

/-- The new numbers of workgroups, regions, runs and application cores, and the new clusters. -/
structure Renum where
  v : Nat
  g : Nat → Nat
  r : Nat → Nat
  n : Nat → Nat
  app : Nat → Nat
  home : Nat → Nat → Nat × Nat

/-- A thread's run renumbered. -/
def Renum.kind (x : Renum) : TKind → TKind
  | .lane n l => .lane (x.n n) l
  | k => k
/-- A workgroup's run renumbered. -/
def Renum.gkind (x : Renum) : GKind → GKind
  | .lanes n => .lanes (x.n n)
  | k => k
/-- A workgroup with its new numbers, the owner of its bank images among them (R151, R152); it stands on no die of the part until it
resumes. -/
def Renum.group (x : Renum) (y : Group) : Group :=
  { y with
    die := 4
    vdev := x.v
    region := x.r y.region
    kind := x.gkind y.kind
    warps := y.warps.map (fun w => w.all (fun t => { t with kind := x.kind t.kind }))
    bankImgs := y.bankImgs.map (fun b => (b.1, if b.2.owner = some y.vdev then { b.2 with owner := some x.v } else b.2))
    atlds := y.atlds.map (fun a => { a with grp := x.g a.grp }) }
/-- A queue with its new numbers and its new home (R408). -/
def Renum.queue (x : Renum) (y : HwQueue) : HwQueue :=
  { y with
    vdev := x.v
    region := x.r y.region
    hdie := (x.home y.hdie y.hcl).1
    hcl := (x.home y.hdie y.hcl).2
    waits := y.waits.map (fun w => { w with t := { w.t with g := x.g w.t.g } }) }
/-- A run with its new numbers and cluster. -/
def Renum.spin (x : Renum) (y : Spinner) : Spinner :=
  { y with
    vdev := x.v
    region := x.r y.region
    die := (x.home y.die y.cl).1
    cl := (x.home y.die y.cl).2
    grp := y.grp.map x.g }
/-- A task with its new numbers and cluster. -/
def Renum.task (x : Renum) (y : Task) : Task :=
  { y with
    vdev := x.v
    region := x.r y.region
    die := (x.home y.die y.cl).1
    cl := (x.home y.die y.cl).2 }
/-- A region with its new numbers. -/
def Renum.region (x : Renum) (y : Region) : Region := { y with vdev := x.v, parent := y.parent.map x.r }
/-- A call with its new numbers. -/
def Renum.call (x : Renum) (y : Call) : Call :=
  { y with
    vdev := x.v
    caller := match y.caller with
      | .thread t d => .thread { t with g := x.g t.g } d
      | .control c => .control (x.app c)
      | .host _ tag => .host x.v tag
      | .port _ tag seq => .port x.v tag seq }

/-- The application cores that run no control program (R353). -/
def State.freeApps (s : State) : List Nat := ((List.range 12).map (fun k => k + 4)).filter (fun n => !s.pkg.apps.any (fun a => a.n == n))

/-- The execution state put back as device `v` (R402, R408): every virtual address, handle and identifier keeps its value;
the device's root region is the one of the state; control programs run on free application cores. A pending task keeps the
stamp of its making, by which its age is told from then on (DESIGN CHOICE, log 91). -/
def State.restore (s : State) (v : Nat) (st : ExecState) : State :=
  let root := ((s.vdev v).map (fun x => x.rootReg)).getD 0
  let x : Renum := ⟨v, renum st.groups s.groups.length s.groups.length, renum st.regions s.regions.length root,
    renum st.spinners s.spinners.length s.spinners.length,
    fun c => (((st.apps.map (fun a => a.n)).zip s.freeApps).find? (fun k => k.1 == c)).elim c (fun k => k.2),
    s.homeFor v⟩
  let newRoot := match st.regions.find? (fun r => r.2.parent.isNone) with
    | some r => x.r r.1
    | none => root
  { s with
    groups := s.groups ++ st.groups.map (fun y => x.group y.2)
    queues := s.queues ++ st.queues.map x.queue
    spinners := s.spinners ++ st.spinners.map (fun y => x.spin y.2)
    tasks := s.tasks ++ st.tasks.map x.task
    launches := s.launches ++ st.launches.map (fun l => { l with vdev := v, region := x.r l.region })
    regions := s.regions ++ st.regions.map (fun y => x.region y.2)
    calls := s.calls ++ st.calls.map x.call
    images := s.images ++ st.images.map (fun i => { i with vdev := v })
    vdevs := s.vdevs.map (fun (y : VDev) => if y.num = v then { y with rootReg := newRoot } else y)
    fab := { s.fab with peers := s.fab.peers.filter (fun p => p.vdev != v) ++ st.imports.map (fun p => { p with vdev := v }) }
    pkg := { s.pkg with
      apps := s.pkg.apps ++ (st.apps.take s.freeApps.length).map (fun a => { a with n := x.app a.n, vdev := v })
      nextId := max s.pkg.nextId st.ids } }

/-! ## The end of a device's work (R376) -/

/-- The workgroups of a device that are alive. -/
def State.groupsOf (s : State) (v : Nat) : List Nat :=
  (List.range s.groups.length).filter (fun g => (s.grp g).alive && (s.grp g).vdev == v)

/-- Every launch, queue and recursion run of a device ends (R376 step 1): runs aborted with 0xFFFD, queues closed, launches
faulted; the results of its threads' system calls are discarded, and its control programs end. -/
def State.endWork (s : State) (v : Nat) : State :=
  let s := ((List.range s.spinners.length).filter (fun n => (s.spin n).vdev == v && (s.spin n).st == .running)).foldl
    (fun s n => s.abortSpinner n 0xFFFD) s
  let s := (s.launches.filter (fun l => l.vdev == v && decide (l.st < 2))).foldl (fun s l => s.faultLaunch l.id) s
  let s := (s.groupsOf v).foldl (fun s g => ((s.modG g Group.kill).forget g).release g) s
  let s := ((List.range s.queues.length).filter (fun q => (s.queue q).vdev == v && (s.queue q).st != .closed)).foldl
    (fun s q => (s.modQ q (fun x => { x with st := .closed, waits := [] })).putDesc q) s
  { s with
    tasks := s.tasks.filter (fun k => k.vdev != v)
    calls := s.calls.filter (fun c => c.fromHost || c.vdev != v)
    pkg := { s.pkg with apps := s.pkg.apps.filter (fun a => a.vdev != v) }
    dies := s.dies.map (fun x => { x with faults := x.faults.filter (fun f => f.vdev != v) }) }

/-- The activation banks of a device cleared (R151). -/
def Die.clearBanksOf (x : Die) (v : Nat) : Die :=
  { x with cores := x.cores.map (fun c => (c.1, { c.2 with
      banks := c.2.banks.filter (fun b => b.2.owner != some v) })) }

/-- Every frame of a device scrubbed and free, its system area included, with its translations, replicas and cached code
(R376 steps 4 and 5). -/
def State.freeDevice (s : State) (v : Nat) : State :=
  let mine := fun (o : Nat × Nat) => o.2 == v || o.2 == 256 + v
  let s := s.dies.foldl (fun s x => (x.owners.filter mine).foldl (fun s o => s.zeroPhys (o.1 * 65536) 65536) s) s
  { s with dies := s.dies.map (fun x => { x with
      owners := x.owners.filter (fun o => !mine o)
      shadow := x.shadow.filter (fun r => !x.owners.any (fun o => o.1 == r.1 && mine o))
      tlb := x.tlb.filter (fun e => e.vdev != v)
      icache := x.icache.filter (fun l => l.vdev != v)
      cores := x.cores.map (fun c => (c.1, { c.2 with l1 := c.2.l1.filter (fun l => l.vdev != v) }))
      replicas := x.replicas.filter (fun r => r.vdev != v)
      spanDir := x.spanDir.filter (fun e => e.vdev != v)
      moves := x.moves.filter (fun m => m.vdev != v) }) }

/-- The key slots of a device emptied on every die (R376 step 3). -/
def State.discKeys (s : State) (v : Nat) : State :=
  let s := s.drainAll
  { s with dies := s.dies.map (fun x => { x with
      keys := x.keys.map (fun k => if k.2.vdev = some v then (k.1, k.2.clear) else k) }) }

end Sys2Proof.Machine
end

