-- ==== Sys2Proof/Machine/Calls.lean ====
section
/-! DEFINITION. System calls: LAUNCH, queues, pages, regions, faults, the log and the replies (18_package.md R354, R362–R366,
R370–R373, 07_control_and_traps.md R168, R169). -/
namespace Sys2Proof.Machine

/-! ## A call and its result (R168, R354, R362) -/

/-- The result that stands for an error of Table 18-5. -/
def sysErr (n : Nat) : DWord := 0 - BitVec.ofNat 64 n
/-- A call that waits in the resident system. -/
def State.call (s : State) (c : Nat) : Option Call := s.calls.find? (fun x => x.id == c && !x.away)
/-- An argument word. -/
def Call.word (x : Call) (k : Nat) : Word := x.args.getD k 0
/-- A 64-bit argument, low word first. -/
def Call.dword (x : Call) (k : Nat) : DWord := x.word (k + 1) ++ x.word k
/-- A 64-bit argument as a number. -/
def Call.arg (x : Call) (k : Nat) : Nat := (x.dword k).toNat

/-- What serving a call comes to: the state with its result, an error that changes nothing, a wait for a condition or for
the resident system's choice, or a wait after a part of the work. -/
inductive Reply where
  | done (s : State) (v : DWord)
  | err (n : Nat)
  | wait
  | hold (s : State)

/-- What a byte that cannot be reached makes of a call: it waits for a page that a migration has not yet brought (R402). -/
def awayReply (k : Nat) : Reply := if k = 6 then .wait else .err 2

/-- A call's result recorded: the resident system has served it. -/
def State.answer (s : State) (c : Nat) (v : DWord) : State :=
  { s with calls := modFirst (fun x => x.id == c) (fun x => { x with res := some v }) s.calls }

/-- The call `c` of number `num` served, where it waits: an argument word beyond the first `used` must be 0 (R362).
(DESIGN CHOICE, log 52). -/
def State.serveCall (s : State) (c num used : Nat) (body : Call → Reply) : State :=
  match s.call c with
  | none => s
  | some x =>
    if x.num ≠ num ∨ x.res.isSome then s
    else if (x.args.drop used).any (fun w => w != 0) then s.answer c (sysErr 2)
    else match body x with
    | .done s v => s.answer c v
    | .err n => s.answer c (sysErr n)
    | .wait => s
    | .hold s => s

/-- The root region of a device. -/
def State.rootOf (s : State) (v : Nat) : Nat := ((s.vdev v).map (fun x => x.rootReg)).getD 0
/-- The caller's region (R364). -/
def State.callerRegion (s : State) (x : Call) : Nat :=
  match x.caller with
  | .thread t _ => (s.grp t.g).region
  | _ => s.rootOf x.vdev

/-! ## VERSION, LSTAT, LWAIT -/

/-- The result of VERSION. (DESIGN CHOICE, log 13). -/
def versionWord : DWord :=
  BitVec.ofNat 64 (Config.isaLevel + 0x02 * 2 ^ 8 + Config.stepping * 2 ^ 16 + Config.release * 2 ^ 32)
/-- VERSION (R362). -/
def execVersion (c : Nat) (s : State) : Host.Outcome State Fault Refusal :=
  .next (s.serveCall c 0x000 0 (fun _ => .done s versionWord))

/-- The launch of a device with an identifier. -/
def State.launchOf (s : State) (v id : Nat) : Option Launch := s.launches.find? (fun l => l.id == id && l.vdev == v)
/-- LSTAT (R362, R365). (DEDUCED, log 54). -/
def execLstat (c : Nat) (s : State) : Host.Outcome State Fault Refusal :=
  .next (s.serveCall c 0x002 2 (fun x =>
    match s.launchOf x.vdev (x.arg 0) with
    | none => .err 2
    | some l => .done s (BitVec.ofNat 64 l.st)))

/-- Whether a workgroup of a launch is still alive. -/
def State.launchLive (s : State) (id : Nat) : Bool :=
  s.groups.any (fun g => g.alive && (match g.kind with
    | .gang l _ => l == id
    | _ => false))
/-- LWAIT (R362, R365). -/
def execLwait (c : Nat) (s : State) : Host.Outcome State Fault Refusal :=
  .next (s.serveCall c 0x003 2 (fun x =>
    match s.launchOf x.vdev (x.arg 0) with
    | none => .err 2
    | some l =>
      if l.st = 2 ∨ (l.st = 3 ∧ !s.launchLive l.id) then .done s (BitVec.ofNat 64 l.st) else .wait))

/-! ## LAUNCH (R363–R366) -/

/-- A 32-bit word of a block. -/
def w32 (b : Nat → Byte) (o : Nat) : Nat := leNat b o 4
/-- A 64-bit word of a block. -/
def w64 (b : Nat → Byte) (o : Nat) : Nat := leNat b o 8
/-- NROLE. -/
def blkRoles (b : Nat → Byte) : Nat := bitsOf (w32 b 0) 11 8
/-- NPRED. -/
def blkPreds (b : Nat → Byte) : Nat := bitsOf (w32 b 4) 2 0

/-- Whether the fields of a launch block that name nothing else are in range (Table 18-6, R364). -/
def blkOk (b : Nat → Byte) : Bool :=
  let nr := blkRoles b
  let np := blkPreds b
  bitsOf (w32 b 0) 31 15 == 0 && decide (bitsOf (w32 b 0) 13 12 ≤ 1) && decide (1 ≤ nr) && decide (nr ≤ 4)
  && bitsOf (w32 b 4) 31 3 == 0 && decide (np ≤ 4) && w32 b 0x1C == 0
  && decide (1 ≤ w32 b 0x10) && decide (1 ≤ w32 b 0x14) && decide (1 ≤ w32 b 0x18)
  && decide (w32 b 0x10 * w32 b 0x14 * w32 b 0x18 ≤ 2 ^ 32)
  && (List.range 4).all (fun p => decide (p < np) || w64 b (0x20 + 8 * p) == 0)
  && (List.range 8).all (fun n => decide (w32 b (0x48 + 16 * n) ≤ 65536) && w32 b (0x4C + 16 * n) == 0)
  && (List.range 4).all (fun r =>
    let f := w32 b (0xC8 + 16 * r)
    if r < nr then
      bitsOf f 31 20 == 0 && bitsOf f 15 13 == 0 && decide (bitsOf f 19 16 ≤ 8) && decide (1 ≤ bitsOf f 12 8)
      && decide (bitsOf f 12 8 ≤ 16) && decide (1 ≤ bitsOf f 7 0) && decide (bitsOf f 7 0 ≤ 16)
      && bitsOf (w32 b (0xCC + 16 * r)) 31 16 == 0
    else w64 b (0xC0 + 16 * r) == 0 && f == 0 && w32 b (0xCC + 16 * r) == 0)
  && decide (((List.range nr).map (fun r => bitsOf (w32 b (0xC8 + 16 * r)) 7 0)).sum ≤ 16)

/-- A role of a block (R364); none where its descriptor cannot be read, breaks Table 21-5, lies in an image whose load has
not completed, or asks for more than the role gives. -/
def State.roleOf (s : State) (v : Nat) (b : Nat → Byte) (r : Nat) : Option Role :=
  let d := w64 b (0xC0 + 16 * r)
  let f := w32 b (0xC8 + 16 * r)
  let scr := bitsOf (w32 b (0xCC + 16 * r)) 15 0
  let loading := s.images.any (fun i => i.vdev == v && !i.ready && decide (i.base ≤ d) && decide (d < i.base + i.size))
  if d % 64 ≠ 0 ∨ loading then none
  else match s.readN 4 v d 64 with
  | .error _ => none
  | .ok l =>
    let kd := kdOf (byteAt l)
    if !kdOk (byteAt l) || decide (bitsOf f 12 8 < kd.blk) || decide (bitsOf f 19 16 < kd.accs)
        || decide (scr < kd.scr) || decide (scr < kd.pin) then none
    else some ⟨d, kd, bitsOf f 7 0, bitsOf f 12 8, bitsOf f 19 16, scr⟩

/-- The entries of a list of options, where every one is there. -/
def allSome {α : Type} : List (Option α) → Option (List α)
  | [] => some []
  | none :: _ => none
  | some x :: l => (allSome l).map (fun r => x :: r)

/-- Whether a page is mapped to this part's memory, without a table error (R366). -/
def State.windowPage (s : State) (v page : Nat) : Bool :=
  match s.walk v (page * 65536) with
  | .ok l => !entPeer l.1
  | .error _ => false
/-- Whether every byte of a bound window may be read (R366). -/
def State.windowOk (s : State) (v a n : Nat) : Bool :=
  decide (a + n ≤ 2 ^ 52) && (List.range (pageOf (a + n - 1) + 1 - pageOf a)).all (fun k => s.windowPage v (pageOf a + k))

/-- The bound windows of a block: address and bytes by number. -/
def blkWins (b : Nat → Byte) : FMap (Nat × Nat) :=
  ((List.range 8).map (fun n => (n, w64 b (0x40 + 16 * n), w32 b (0x48 + 16 * n)))).filter (fun w => w.2.2 != 0)

/-- Whether a gang of roles could ever be placed on one core within a region's budget (R364). -/
def State.gangFits (s : State) (r : Nat) (l : List Role) : Bool :=
  let sum := fun (f : Role → Nat) => (l.map f).sum
  let scr := sum (fun x => x.scr)
  decide (sum (fun x => x.warps * x.blk) ≤ 512) && decide (sum (fun x => x.warps * x.acc) ≤ 32) && decide (scr ≤ 1024)
  && (s.line r).all (fun a =>
    decide (sum (fun x => x.warps * x.blk) ≤ s.eff 1 (fun y => y.rb) a)
    && decide (sum (fun x => x.warps * x.acc) ≤ s.eff 3 (fun y => y.acc) a)
    && decide ((scr + 63) / 64 ≤ s.eff 2 (fun y => y.sbg) a))

/-- The active dies of a launch in a region (R311). -/
def State.activeDies (s : State) (v r : Nat) : List Nat :=
  (List.range 4).filter (fun d => (s.eff 10 (fun y => y.dmask.toNat) r).testBit d
    && (List.range 64).any (fun c => (List.range 4).any (fun q => (s.quad d c q).mayIssue v)))
/-- The ticket counters of a launch: die, next index, end (R312). -/
def ticketsOf (ds : List Nat) (g : Nat) : List (Nat × Nat × Nat) :=
  (List.range ds.length).map (fun r => (ds.getD r 0, g * r / ds.length, g * (r + 1) / ds.length))

/-- The launch that a block describes, with its region, roles and identifier. -/
def State.mkLaunch (s : State) (v r id : Nat) (b : Nat → Byte) (roles : List Role) : Launch :=
  let preds := (List.range (blkPreds b)).map (fun p => w64 b (0x20 + 8 * p))
  { id := id
    vdev := v
    region := r
    nx := w32 b 0x10
    ny := w32 b 0x14
    nz := w32 b 0x18
    dmode := bitsOf (w32 b 0) 13 12
    shint := bitsOf (w32 b 0) 14 14 == 1
    preds := preds
    wins := blkWins b
    roles := roles
    st := if preds.any (fun p => ((s.launch p).map (fun l => l.st)) == some 3) then 3 else 0
    tickets := ticketsOf (s.activeDies v r) (w32 b 0x10 * w32 b 0x14 * w32 b 0x18)
    placed := []
    exited := [] }

/-- The region that a block names: its handle with the launch right, or 0 for the caller's. -/
def State.blkRegion (s : State) (x : Call) (b : Nat → Byte) : Option Nat :=
  if w64 b 8 = 0 then some (s.callerRegion x) else s.regionOf x.vdev (BitVec.ofNat 64 (w64 b 8)) 47

/-- A block admitted: its launch, or the error (R364). (DEDUCED, log 53). -/
def State.takeBlock (s : State) (x : Call) (b : Nat → Byte) : Reply :=
  let v := x.vdev
  let preds := (List.range (blkPreds b)).map (fun p => w64 b (0x20 + 8 * p))
  if w32 b 0 % 256 ≠ 1 then .err 6
  else if !blkOk b || !preds.all (fun p => (s.launchOf v p).isSome)
      || !(blkWins b).all (fun w => s.windowOk v w.2.1 w.2.2) then .err 2
  else match allSome ((List.range (blkRoles b)).map (fun r => s.roleOf v b r)) with
  | none => .err 2
  | some roles =>
    match s.blkRegion x b with
    | none => .err 4
    | some r =>
      if !s.gangFits r roles then .err 3
      else
        let (s, n) := s.newId
        let id := 64 * n + s.fab.part
        .done { s with launches := s.launches ++ [s.mkLaunch v r id b roles] } (BitVec.ofNat 64 id)

/-- LAUNCH (R363–R366). -/
def execLaunch (c : Nat) (s : State) : Host.Outcome State Fault Refusal :=
  .next (s.serveCall c 0x001 2 (fun x =>
    if s.quiesced x.vdev then .wait
    else if x.arg 0 % 64 ≠ 0 then .err 2
    else match s.readN 4 x.vdev (x.arg 0) 256 with
    | .error e => awayReply e.2
    | .ok l => s.takeBlock x (byteAt l)))

/-! ## QOPEN, QCLOSE (R279, R280, R284, R362) -/

/-- Whether every page of a range may be written by a device, in this part's memory. -/
def State.rangeWritable (s : State) (v a n : Nat) : Bool :=
  decide (a + n ≤ 2 ^ 52) && (List.range (pageOf (a + n - 1) + 1 - pageOf a)).all (fun k =>
    match s.locate 4 v ((pageOf a + k) * 65536) .write with
    | .ok (.here _) => true
    | _ => false)

/-- A range of a device's memory that reads zero, on every copy; it starts and ends at 64-byte boundaries. -/
def State.zeroRange (s : State) (v a n : Nat) : State :=
  (List.range (pageOf (a + n - 1) + 1 - pageOf a)).foldl (fun s k =>
    let lo := max a ((pageOf a + k) * 65536)
    let hi := min (a + n) ((pageOf a + k + 1) * 65536)
    [0, 1, 2, 3, 4].foldl (fun s d =>
      match s.locate d v lo .read with
      | .ok (.here pa) => s.zeroPhys pa (hi - lo)
      | _ => s) s) s

/-- QOPEN (R279, R280): `check` is the CHECK that the resident system chooses. (DEDUCED, log 57). -/
def State.qopen (s : State) (x : Call) (check : Half) : Reply :=
  let desc := x.arg 0
  let ring := x.arg 2
  let log2 := (x.word 4).toNat
  let home := (x.word 6).toNat
  if desc % 64 ≠ 0 ∨ 2 ^ 50 ≤ desc ∨ ring % 64 ≠ 0 ∨ log2 < 4 ∨ 20 < log2 ∨ 15 < (x.word 5).toNat ∨ 63 < home then .err 2
  else if !s.rangeWritable x.vdev desc 64 || !s.rangeWritable x.vdev ring (64 * 2 ^ log2) then .err 2
  else
    let old := s.queues.findIdx? (fun q => q.vdev == x.vdev && q.desc == desc)
    let q : HwQueue := ⟨x.vdev, s.callerRegion x, desc, ring, 0, 0, 0, .opened, log2, home / 16, home % 16, check, []⟩
    let h := mkHandle check (x.word 5).toNat desc
    let put := fun (s : State) (k : Nat) => (s.zeroRange x.vdev ring (64 * 2 ^ log2)).putDesc k
    match old with
    | none =>
      if check = 0xFFFF then .wait
      else .done (put { s with queues := s.queues ++ [q] } s.queues.length) h
    | some k =>
      if (s.queue k).st ≠ .closed then .err 5
      else if check = 0xFFFF ∨ check = (s.queue k).check then .wait
      else .done (put (s.modQ k (fun _ => q)) k) h
/-- QOPEN (R279, R280, R362). -/
def execQopen (c : Nat) (check : Half) (s : State) : Host.Outcome State Fault Refusal :=
  .next (s.serveCall c 0x004 7 (fun x => s.qopen x check))

/-- QCLOSE (R284, R362): an open or error queue drains, and closes once it is empty. -/
def execQclose (c : Nat) (s : State) : Host.Outcome State Fault Refusal :=
  .next (s.serveCall c 0x005 2 (fun x =>
    match s.queueOf x.vdev (x.dword 0) with
    | none => .err 4
    | some q =>
      if !(x.dword 0).getLsbD 44 then .err 4
      else if (s.queue q).st = .opened ∨ (s.queue q).st = .error then
        .done (((s.modQ q (fun y => { y with st := .draining })).putDesc q).closeIfEmpty q) 0
      else .done s 0))

/-! ## MMAP, MUNMAP (R362) -/

/-- The free DRAM frames of the part. -/
def State.freeDram (s : State) : Nat := ((List.range 4).map (fun d => 64 * chanFrames - s.framesUsed d)).sum
/-- The pages that a device may still have in DRAM beside `tables` new tables. -/
def State.dramRoom (s : State) (v hint : Nat) (large : Bool) (tables : Nat) : Nat :=
  min (s.tierRoom v hint false large) ((s.freeDram - tables) / pageFrames large)
/-- The mappings that an MMAP asks for, tier by tier: DRAM as far as its room `dram` reaches where the tier is 2. -/
def mmapEnts (page n : Nat) (large : Bool) (flags tier dram : Nat) : List MapEnt :=
  (List.range n).map (fun k =>
    ⟨page + pageFrames large * k, bitsOf flags 0 0 == 1, bitsOf flags 1 1 == 1, bitsOf flags 3 3 == 1, large,
     tier == 1 || (tier == 2 && decide (dram ≤ k)), none⟩)

/-- MMAP: `frames` and `tables` are the resident system's choice of a frame for each page and of frames for new tables.
(DEDUCED, log 55). -/
def State.mmap (s : State) (x : Call) (frames tables : Frames) : Reply :=
  let va := x.arg 0
  let len := x.arg 2
  let flags := (x.word 4).toNat
  let hint := (x.word 5).toNat
  let large := bitsOf flags 2 2 == 1
  let tier := bitsOf flags 5 4
  let size := pageFrames large
  let al := 65536 * size
  let n := len / al
  let v := x.vdev
  if 63 < flags ∨ tier = 3 ∨ 4 < hint ∨ va % al ≠ 0 ∨ len % al ≠ 0 ∨ 2 ^ 52 < va + len then .err 2
  else if (s.mapped v).any (overlaps (pageOf va) (size * n)) then .err 2
  else
    let new := s.tablesNeeded v ((List.range n).map (fun k => pageOf va + size * k)) large
    let dram := s.dramRoom v hint large new
    let shelf := s.tierRoom v hint true large
    if s.freeDram < new ∨ (if tier = 0 then dram else if tier = 1 then shelf else dram + shelf) < n then .err 3
    else if !noRepeat frames then .wait
    else match s.mapPages v hint (mmapEnts (pageOf va) n large flags tier dram) frames tables with
    | none => .wait
    | some s => .done s 0
/-- MMAP (R362, R332). -/
def execMmap (c : Nat) (frames tables : Frames) (s : State) : Host.Outcome State Fault Refusal :=
  .next (s.serveCall c 0x006 6 (fun x => s.mmap x frames tables))

/-- Whether a launch still binds a window that overlaps a range (R366). (DEDUCED, log 56). -/
def State.windowBusy (s : State) (v va len : Nat) : Bool :=
  s.launches.any (fun l => l.vdev == v && (decide (l.st < 2) || (decide (l.st = 3) && s.launchLive l.id))
    && l.wins.any (fun w => decide (w.2.1 < va + len) && decide (va < w.2.1 + w.2.2)))
/-- MUNMAP (R362): with TINV complete on every die. -/
def execMunmap (c : Nat) (s : State) : Host.Outcome State Fault Refusal :=
  .next (s.serveCall c 0x007 4 (fun x =>
    let va := x.arg 0
    let len := x.arg 2
    let v := x.vdev
    let hit := (s.userPages v).filter (overlaps (pageOf va) (len / 65536))
    if va % 65536 ≠ 0 ∨ len % 65536 ≠ 0 ∨ 2 ^ 52 < va + len then .err 2
    else if s.windowBusy v va len then .err 5
    else if hit.any (fun m => decide (m.1 < pageOf va) || decide (pageOf va + len / 65536 < m.1 + pageFrames m.2.2)) then .err 2
    else .done (hit.foldl (fun s m => s.unmapPage v m) s) 0))

/-! ## RCREATE, RDESTROY (R370–R373) -/

/-- The region that an image of 64 bytes describes below a parent. -/
def regionOfImage (b : Nat → Byte) (v addr : Nat) (check : Half) (parent : Option Nat) : Region :=
  let w := w32 b
  { vdev := v
    addr := addr
    check := check
    parent := parent
    ovr := BitVec.ofNat 11 (bitsOf (w 8) 26 16)
    fd := bitsOf (w 8) 4 4 == 1
    prio := bitsOf (w 8) 2 0
    rb := w 0x0C
    sbg := bitsOf (w 0x10) 31 16
    ls := bitsOf (w 0x10) 15 0
    dmask := BitVec.ofNat 4 (bitsOf (w 0x14) 31 28)
    lsq := bitsOf (w 0x14) 18 16
    acc := bitsOf (w 0x14) 15 0
    ts := bitsOf (w 0x18) 31 16
    td := bitsOf (w 0x18) 15 0
    tl := bitsOf (w 0x1C) 15 0
    alive := true }

/-- Whether the reserved bits of an image are 0 and its own fields in range (Table 18-8). -/
def imageOk (b : Nat → Byte) (r : Region) : Bool :=
  let own := fun (k m x : Nat) => !r.ovr.getLsbD k || decide (x ≤ m)
  bitsOf (w32 b 8) 31 27 == 0 && bitsOf (w32 b 8) 15 5 == 0 && bitsOf (w32 b 8) 3 3 == 0 && bitsOf (w32 b 0x14) 27 19 == 0
  && bitsOf (w32 b 0x1C) 31 16 == 0 && (List.range 8).all (fun k => w32 b (0x20 + 4 * k) == 0)
  && own 0 4096 r.ls && own 1 131072 r.rb && own 2 4096 r.sbg && own 3 8192 r.acc && own 4 1024 r.td && own 5 1024 r.ts
  && own 6 1024 r.tl

/-- Whether a region's own values stay within its parent's effective values (R371, R372). -/
def State.withinParent (s : State) (p : Nat) (r : Region) : Bool :=
  let own := fun (k : Nat) (f : Region → Nat) => !r.ovr.getLsbD k || decide (f r ≤ s.eff k f p)
  let pm := s.eff 10 (fun x => x.dmask.toNat) p
  let dm := if r.ovr.getLsbD 10 then r.dmask.toNat else pm
  own 0 (fun x => x.ls) && own 1 (fun x => x.rb) && own 2 (fun x => x.sbg) && own 3 (fun x => x.acc) && own 4 (fun x => x.td)
  && own 5 (fun x => x.ts) && own 6 (fun x => x.tl) && own 9 (fun x => x.lsq)
  && (!r.ovr.getLsbD 9 || decide (1 ≤ r.lsq)) && decide (dm ≠ 0)
  && (List.range 4).all (fun d => !dm.testBit d || pm.testBit d)

/-- Whether an address and a CHECK may be chosen for a new control block (R370, R373). -/
def State.blockFree (s : State) (v addr : Nat) (check : Half) : Bool :=
  decide (addr % 64 = 0) && decide (addr < 2 ^ 50) && check != 0xFFFF
  && s.regions.all (fun r => r.vdev != v || r.addr != addr || (!r.alive && r.check != check))

/-- RCREATE: `addr` and `check` are the resident system's choice of the block's address and CHECK. (DEDUCED, log 58). -/
def State.rcreate (s : State) (x : Call) (addr : Nat) (check : Half) : Reply :=
  match s.regionOf x.vdev (x.dword 0) 46 with
  | none => .err 4
  | some p =>
    match s.readN 4 x.vdev (x.arg 2) 64 with
    | .error e => awayReply e.2
    | .ok l =>
      let r := regionOfImage (byteAt l) x.vdev addr check (some p)
      if !imageOk (byteAt l) r || !s.withinParent p r then .err 2
      else if !s.blockFree x.vdev addr check || !s.rangeWritable x.vdev addr 64 then .wait
      else .done ({ s with regions := s.regions ++ [r] }.vput x.vdev addr (s.regionBytes r)) (mkHandle check 15 addr)
/-- RCREATE (R370–R373). -/
def execRcreate (c addr : Nat) (check : Half) (s : State) : Host.Outcome State Fault Refusal :=
  .next (s.serveCall c 0x008 4 (fun x => s.rcreate x addr check))

/-- Whether a region has children, live launches, open queues or running recursion runs (R371). -/
def State.regionBusy (s : State) (r : Nat) : Bool :=
  s.regions.any (fun x => x.alive && x.parent == some r)
  || s.launches.any (fun l => l.region == r && (decide (l.st < 2) || s.launchLive l.id))
  || s.queues.any (fun q => q.region == r && q.st != .closed)
  || s.spinners.any (fun n => n.region == r && n.st == .running)
/-- RDESTROY (R371): the modify right; a device root stays. -/
def execRdestroy (c : Nat) (s : State) : Host.Outcome State Fault Refusal :=
  .next (s.serveCall c 0x009 2 (fun x =>
    match s.regionOf x.vdev (x.dword 0) 44 with
    | none => .err 4
    | some r =>
      if ((s.regions[r]?).bind (fun y => y.parent)).isNone then .err 4
      else if s.regionBusy r then .err 5
      else .done { s with regions := modAt s.regions r (fun y => { y with alive := false }) } 0))

/-! ## FWAIT, FRESOLVE (R335, R336) -/

/-- The 32 bytes of a fault record (Table 16-6). -/
def FaultRec.bytes (f : FaultRec) : List Byte :=
  leBytes f.va.toNat 8 ++ leBytes f.tag 4 ++ leBytes (f.opc % 1024 * 2 ^ 22 + f.queue * 2 ^ 20 + f.vdev * 256 + f.kind) 4
    ++ leBytes f.prog 4 ++ leBytes (f.die * 2 ^ 30 + f.core * 2 ^ 24 + f.quad * 2 ^ 22 + f.slot * 2 ^ 18) 4 ++ leBytes f.region 8

/-- The oldest fault record of a domain of which something has not been delivered, with its die (R335): the record, and
behind it the record of the task that it carries (R278, R306). (DESIGN CHOICE, log 84). -/
def State.nextFault (s : State) (r : Nat) : Option (Nat × FaultRec) :=
  (List.range 4).findSome? (fun d =>
    ((s.die d).faults.find? (fun f => (!f.told || !f.task.isEmpty) && s.domainOfRec f == some r)).map (fun f => (d, f)))
/-- What the next FWAIT brings of a fault record. -/
def FaultRec.next (f : FaultRec) : List Byte := if f.told then f.task else f.bytes
/-- A fault record after an FWAIT. -/
def FaultRec.tell (f : FaultRec) : FaultRec := if f.told then { f with task := [] } else { f with told := true }
/-- FWAIT (R335, R362). -/
def execFwait (c : Nat) (s : State) : Host.Outcome State Fault Refusal :=
  .next (s.serveCall c 0x00A 4 (fun x =>
    match s.regionOf x.vdev (x.dword 0) 45 with
    | none => .err 4
    | some r =>
      match s.nextFault r with
      | none => (match s.writeClean 4 x.vdev (x.arg 2) (List.replicate 32 0) with
        | .ok _ => .wait
        | .error e => awayReply e.2)
      | some (d, f) =>
        match s.writeClean 4 x.vdev (x.arg 2) f.next with
        | .error e => awayReply e.2
        | .ok s => .done (s.modD d (fun y => { y with faults := y.faults.map (fun g => if g.tag = f.tag then g.tell else g) })) 0))

/-- FRESOLVE (R336, R362): restart or kill of a fault of the domain. -/
def execFresolve (c : Nat) (s : State) : Host.Outcome State Fault Refusal :=
  .next (s.serveCall c 0x00B 4 (fun x =>
    match s.regionOf x.vdev (x.dword 0) 45 with
    | none => .err 4
    | some r =>
      match s.faultOf (x.word 2).toNat with
      | none => .err 2
      | some (d, f) =>
        if s.domainOfRec f ≠ some r ∨ 1 < (x.word 3).toNat then .err 2
        else if x.word 3 = 0 then .done (s.frestart d f) 0
        else .done (if s.faultLives f then s.fkill d f else s.dropFault d f.tag) 0))

/-! ## LOG, unassigned numbers, replies -/

/-- LOG (R362). -/
def execLog (c : Nat) (s : State) : Host.Outcome State Fault Refusal :=
  .next (s.serveCall c 0x00C 3 (fun x =>
    let n := (x.word 2).toNat
    if 4096 < n then .err 2
    else match s.readN 4 x.vdev (x.arg 0) n with
    | .error e => awayReply e.2
    | .ok l =>
      .done { s with pkg := { s.pkg with log := s.pkg.log ++ [.bytes x.vdev (l.map (fun b => b.1))] } } (BitVec.ofNat 64 n)))

/-- UNASSIGNED_SYSCALL (R168): −1, whatever the arguments. -/
def execUnassignedSyscall (c : Nat) (s : State) : Host.Outcome State Fault Refusal :=
  .next (match s.call c with
    | none => s
    | some x => if x.num ≤ 0x00E ∨ x.res.isSome then s else s.answer c (sysErr 1))

/-- Bytes written to host memory: clean data clear the poison of the sectors that they cover (R62). -/
def State.hostPut (s : State) (a : Nat) (l : List Byte) : State :=
  { s with fab := { s.fab with
    host := (List.range l.length).foldl (fun m k => FMap.set none m (a + k) (some (l.getD k 0))) s.fab.host
    hostPsn := s.fab.hostPsn.filter (fun x => !(decide (a ≤ 32 * x) && decide (32 * x + 32 ≤ a + l.length))) } }
/-- Whether the reply ring of the mailbox has `n` free slots (R397). -/
def Mailbox.room (b : Mailbox) (n : Nat) : Bool :=
  decide (4 ≤ b.plog.toNat) && decide (b.plog.toNat ≤ 12) && decide ((b.ptail - b.phead).toNat + n ≤ 2 ^ b.plog.toNat)
/-- The reply entries that an answer with data takes: the entry of R398, and behind it the data, 64 bytes an entry.
(DESIGN CHOICE, log 92). -/
def replySlots (data : List Byte) : Nat := 1 + (data.length + 63) / 64
/-- Bytes written into the next slot of the host's reply ring. -/
def State.ringPut (s : State) (l : List Byte) : State :=
  let b := s.pkg.box
  let s := s.hostPut (b.pbase.toNat + 64 * (b.ptail.toNat % 2 ^ b.plog.toNat)) l
  { s with pkg := { s.pkg with box := { b with ptail := b.ptail + 1 } } }
/-- `n` pieces of 64 bytes written into the ring. -/
def State.ringData (s : State) (data : List Byte) : Nat → State
  | 0 => s
  | n + 1 => (s.ringPut (data.take 64 ++ List.replicate (64 - data.length) 0)).ringData (data.drop 64) n
/-- The 64 bytes of a reply entry (R398, R383, R384): the tag in word 0, the result in words 2 and 3, words 4 to 9 of `extra`,
the sequence number in words 10 and 11; the last words of `extra` stand in words 1 and 12, where a clamp gives its device
and its value (R368). (DESIGN CHOICE, log 92). -/
def replyEntry (tag : Nat) (res : DWord) (extra : List Byte) (seq : DWord) : List Byte :=
  leBytes tag 4 ++ Config.field 4 (extra.drop 24) ++ leBytes res.toNat 8 ++ Config.field 24 extra ++ leBytes seq.toNat 8
    ++ Config.field 4 (extra.drop 28) ++ leBytes 0 12
/-- A reply written to the host's ring (R398): its entry, then data; RIRQ is set and raises an MSI-X message (R397). -/
def State.hostReply (s : State) (tag : Nat) (res : DWord) (extra data : List Byte) : State :=
  let s := s.ringPut (replyEntry tag res extra 0)
  let s := s.ringData data (replySlots data - 1)
  { s with pkg := { s.pkg with
    box := { s.pkg.box with rirq := true }
    msix := s.pkg.msix ++ [0] } }

/-! ## Replies at the management port (R383) -/

/-- Bytes `a` to `a + n − 1` of a string. -/
def slice (l : List Byte) (a n : Nat) : List Byte := (l.drop a).take n
/-- A signature by the part's identity key over the digest of some bytes (R381, R383). -/
def signature (l : List Byte) : List Byte := Config.field 64 (Config.sm2Sign (Config.sm3 l))
/-- One datagram of a reply (R383): its entry, its data, its signature. -/
def datagram (tag : Nat) (seq res : DWord) (extra data : List Byte) : Report :=
  .reply tag seq res extra data (signature (replyEntry tag res extra seq ++ data))
/-- The datagrams of a reply (R383): one, or with more than 1,024 bytes of data a run of fragments, whose words 4 and 5 hold
the index and the count. -/
def datagrams (tag : Nat) (seq res : DWord) (extra data : List Byte) : List Report :=
  let n := (data.length + 1023) / 1024
  if n ≤ 1 then [datagram tag seq res extra data]
  else (List.range n).map (fun k => datagram tag seq res (leBytes k 4 ++ leBytes n 4) (slice data (1024 * k) 1024))
/-- A reply at the management port: the request is open no more. -/
def State.mgmtReply (s : State) (tag : Nat) (seq res : DWord) (extra data : List Byte) : State :=
  { s with pkg := { s.pkg with
    mgmtOpen := s.pkg.mgmtOpen.filter (fun x => x != (tag, seq))
    reports := s.pkg.reports ++ datagrams tag seq res extra data } }

/-- A datagram at the management port accepted (R383): a sound one with a sequence number above every one accepted before, or
one that has been accepted and is not answered yet; else it is discarded. -/
def State.accept (s : State) (tag : Nat) (seq : DWord) (sound : Bool) : Option State :=
  if s.pkg.mgmtOpen.contains (tag, seq) then some s
  else if sound && decide (s.pkg.mgmtSeq < seq) then
    some { s with pkg := { s.pkg with mgmtSeq := seq, mgmtOpen := s.pkg.mgmtOpen ++ [(tag, seq)] } }
  else none

/-! ## The reply of a system call -/

/-- A call that has been answered is gone. -/
def State.dropCall (s : State) (c : Nat) : State := { s with calls := s.calls.filter (fun x => x.id != c) }
/-- The result pair written in a thread (R168): an acquire at .sys. -/
def Thread.reply (t : Thread) (d : Nat) (v : DWord) : Thread :=
  { t.apply (Eff.pair d v false) with pend := NSet.del (NSet.del t.pend d) (d + 1), sysc := false }
/-- The state with an application core changed (R353). -/
def State.modApp (s : State) (n : Nat) (f : AppCore → AppCore) : State :=
  { s with pkg := { s.pkg with apps := s.pkg.apps.map (fun a => if a.n = n then f a else a) } }
/-- A control program's environment call (R354): the number stands in x17, the address of the argument block of eight words
in x10; a block that cannot be read is a bad argument (−2), and one on a page that has not come is waited for.
(DESIGN CHOICE, log 78). -/
def State.appCall (s : State) (n : Nat) (x17 x10 : DWord) : Option State :=
  match s.pkg.apps.find? (fun a => a.n == n) with
  | none => some s
  | some a =>
    if a.call.isSome then some s
    else
      let send := fun (args : List Word) (res : Option DWord) =>
        let r := s.newId
        let s := r.1.modApp n (fun a => { a with x17 := x17, x10 := x10, call := some r.2 })
        s.addCall ⟨r.2, .control n, a.vdev, x17.toNat, args, res, false⟩
      match s.readN 4 a.vdev x10.toNat 32 with
      | .ok l => some (send ((List.range 8).map (fun k => BitVec.ofNat 32 (leNat (byteAt l) (4 * k) 4))) none)
      | .error e => if e.2 = 6 then none else some (send [] (some (sysErr 2)))
/-- SYSCALL_REPLY (R168, R169, R354): to a thread, running or saved; to a control program; to the host. -/
def execSyscallReply (c : Nat) (s : State) : Host.Outcome State Fault Refusal :=
  .next (match s.call c with
    | none => s
    | some x =>
      match x.res with
      | none => s
      | some v =>
        match x.caller with
        | .thread t d =>
          if (s.thr t.g t.w t.t).live then
            ((s.dropCall c).modT t.g t.w t.t (fun y => y.reply d v)).received t.g (tid t.w t.t) 5
          else s.dropCall c
        | .control n =>
          (s.dropCall c).modApp n (fun a => if a.call = some c then { a with x10 := v, call := none } else a)
        | .host _ tag => if s.pkg.box.room 1 then (s.dropCall c).hostReply tag v [] [] else s
        | .port _ tag seq => (s.dropCall c).mgmtReply tag seq v [] [])

end Sys2Proof.Machine
end

