-- ==== Sys2Proof/Machine/Service.lean ====
section
/-! DEFINITION. Service actions: the resynchronise summary, checkpoints, images and the translator, shared quadrants, the
configuration of virtual devices, attestation and reserve (18_package.md R355–R361, R367–R369, R375–R385, 16_die.md R338,
21_assembly_reference.md R422). -/
namespace Sys2Proof.Machine

/-! ## The resynchronise summary (R378, Table 18-9) -/

/-- 64-bit words as bytes. -/
def words64 (l : List Nat) : List Byte := l.flatMap (fun w => leBytes w 8)
/-- A section: its code, its record count, its records. -/
def sectionBytes (code : Nat) (recs : List (List Byte)) : List Byte :=
  leBytes (recs.length * 256 + code) 4 ++ leBytes 0 4 ++ recs.flatten
/-- A summary of sections. (DESIGN CHOICE, log 59). -/
def summaryOf (l : List (List Byte)) : List Byte :=
  let body := l.flatten
  leBytes (l.length * 256 + 1) 4 ++ leBytes (16 + body.length) 4 ++ leBytes 0 8 ++ body

/-- A quadrant entry (Table 18-12). -/
def qentOf (d c q quant weight : Nat) (shared : Bool) : Nat :=
  quant * 2 ^ 32 + weight * 2 ^ 20 + (if shared then 2 ^ 18 else 0) + d * 65536 + c * 256 + q
/-- Every quadrant of the part. -/
def allQuads : List (Nat × Nat × Nat) :=
  (List.range 4).flatMap (fun d => (List.range 64).flatMap (fun c => (List.range 4).map (fun q => (d, c, q))))
/-- The quadrant entries of a device. -/
def State.quadsOf (s : State) (v : Nat) : List Nat :=
  allQuads.filterMap (fun k =>
    match (s.quad k.1 k.2.1 k.2.2).own with
    | .none => none
    | .hard u => if u = v then some (qentOf k.1 k.2.1 k.2.2 0 0 false) else none
    | .shared l _ _ => (l.find? (fun e => e.1 == v)).map (fun e => qentOf k.1 k.2.1 k.2.2 e.2.1 e.2.2 true))
/-- The bank groups of a device in a core, as a mask. -/
def State.bgmOf (s : State) (v d c : Nat) : Nat :=
  ((List.range 16).map (fun b => if FMap.get 0 (s.core d c).groups b = v then 2 ^ b else 0)).sum
/-- The cores in which a device owns bank groups. -/
def State.bgms (s : State) (v : Nat) : List (Nat × Nat × Nat) :=
  ((List.range 4).flatMap (fun d => (List.range 64).map (fun c => (d, c, s.bgmOf v d c)))).filter (fun k => k.2.2 != 0)

/-- A device's record. -/
def State.vdevRec (s : State) (x : VDev) : List Byte :=
  let qs := s.quadsOf x.num
  let bs := s.bgms x.num
  let toks := fun (c : Nat) => match (s.die 0).acct x.num c with
    | some a => [a.share, a.borrow]
    | none => [0, 0]
  words64 ([x.num, qs.length] ++ qs ++ [bs.length] ++ bs.flatMap (fun k => [k.1, k.2.1, k.2.2])
    ++ [s.framesOf x.num false, s.framesOf x.num true] ++ (List.range 4).map (fun d => FMap.get 64 x.keySlot d)
    ++ [0, 1, 2].flatMap toks)
/-- A region's record. -/
def State.regionRec (s : State) (r : Nat) (x : Region) : List Byte :=
  let gs := s.under r
  words64 [x.addr, s.eff 0 (fun y => y.ls) r, s.eff 1 (fun y => y.rb) r, s.eff 2 (fun y => y.sbg) r, s.eff 3 (fun y => y.acc) r,
    s.eff 4 (fun y => y.td) r, s.eff 5 (fun y => y.ts) r, s.eff 6 (fun y => y.tl) r, s.eff 7 (fun y => y.prio) r,
    (gs.map Group.blocksHeld).sum, bankGroups gs, (gs.map (fun g => (g.warps.map (fun w => w.accs)).sum)).sum, lsHeld gs]
/-- A launch's record. -/
def State.launchRec (s : State) (l : Launch) : List Byte :=
  words64 ([l.id, ((s.regions[l.region]?).map (fun r => r.addr)).getD 0, l.st]
    ++ (List.range 4).flatMap (fun d => [FMap.get 0 l.placed d, FMap.get 0 l.exited d]))
/-- A queue's record. -/
def HwQueue.rec' (q : HwQueue) : List Byte := words64 [q.desc / 64, q.rdx.toNat, q.wrx.toNat, q.word10, q.word14]
/-- STATUS of a run (Table 13-6). -/
def SpinSt.code : SpinSt → Nat
  | .running => 1
  | .done => 2
  | .aborted => 3
/-- A run's record. -/
def Spinner.rec' (x : Spinner) : List Byte := words64 [x.obj, x.st.code, x.frames.length]
/-- A reserve record (Table 18-13). -/
def Reserve.bytes (r : Reserve) (die : Nat) : List Byte := leBytes (r.date * 2 ^ 32 + r.num * 65536 + r.kind * 256 + die) 8
/-- Reserve in use, with the link lanes (R411) kept by die 0's list under kind 5 as that of the links (number 4).
(DESIGN CHOICE, log 63). -/
def State.reserveRecs (s : State) : List (List Byte) :=
  (List.range 4).flatMap (fun d => (s.die d).reserves.map (fun r => r.bytes (if r.kind = 5 then 4 else d)))
/-- What stands in the reserve section beside the reserve in use: the events of the links with their counts (R411: 6 a link
on four lanes, 7 a link down, 8 a route lost), and the resources that are ageing or failed and wait for reserve (R377), their
kind with 128 added. (DESIGN CHOICE, log 63). -/
def State.eventRecs (s : State) : List (List Byte) :=
  s.fab.linkEvents.map (fun e => (⟨e.1 / 64, e.1 % 64, e.2⟩ : Reserve).bytes 4)
  ++ s.pkg.due.map (fun k => (⟨128 + k.2.1, k.2.2, 0⟩ : Reserve).bytes k.1)
/-- The 16 bytes of a violation (Table 16-7). -/
def Viol.bytes (x : Viol) : List Byte :=
  leBytes x.addr.toNat 8 ++ leBytes ((if x.phys then 2 ^ 20 else 0) + x.kind * 65536 + x.vdev * 256 + x.src) 4
    ++ leBytes x.cyc.toNat 4
/-- A die's violation log, as far as `p` shows it. -/
def Die.violRec (x : Die) (d : Nat) (p : Viol → Bool) : List Byte :=
  words64 [d, x.violOver] ++ ((x.viols.filter p).map Viol.bytes).flatten

/-- The summary that a device sees, or with none every device's (R378). -/
def State.summary (s : State) (who : Option Nat) : List Byte :=
  let me := fun (v : Nat) => match who with
    | none => true
    | some u => u == v
  let rs := numbered s.regions (fun r => r.alive && me r.vdev)
  summaryOf ([
    sectionBytes 1 ((s.vdevs.filter (fun x => me x.num)).map (fun x => s.vdevRec x)),
    sectionBytes 2 (rs.map (fun r => s.regionRec r.1 r.2)),
    sectionBytes 3 ((s.launches.filter (fun l => me l.vdev)).map (fun l => s.launchRec l)),
    sectionBytes 4 ((s.queues.filter (fun q => me q.vdev)).map HwQueue.rec'),
    sectionBytes 5 ((s.spinners.filter (fun x => me x.vdev)).map Spinner.rec')]
    ++ (if who.isNone then [sectionBytes 6 (s.reserveRecs ++ s.eventRecs)] else [])
    ++ [sectionBytes 7 (s.dies.flatMap (fun x => (x.faults.filter (fun f => me f.vdev)).map FaultRec.bytes)),
    sectionBytes 8 ((List.range 4).map (fun d => (s.die d).violRec d (fun x => me x.vdev))),
    sectionBytes 9 ((s.vdevs.filter (fun x => me x.num)).flatMap (fun x => (s.actions x.num).map (fun a =>
      words64 [a % 16, x.num, if s.isHead x.num a then 1 else 0])))])

/-- RESYNC (R378, R362). -/
def execResync (c : Nat) (s : State) : Host.Outcome State Fault Refusal :=
  .next (s.serveCall c 0x00E 3 (fun x =>
    let b := s.summary (some x.vdev)
    if (x.word 2).toNat < b.length then .err 3
    else match s.writeClean 4 x.vdev (x.arg 0) b with
    | .error e => awayReply e.2
    | .ok s => .done s (BitVec.ofNat 64 b.length)))

/-! ## Checkpoints (R379) -/

/-- Whether every workgroup of a device is saved. -/
def State.allSaved (s : State) (v : Nat) : Bool := (s.groupsOf v).all (fun g => (s.grp g).save == .saved)
/-- A full save requested of every workgroup of a device. -/
def State.saveAll (s : State) (v : Nat) : State := (s.groupsOf v).foldl (fun s g => s.requestSave g) s
/-- The live state of a device's queues written to memory. -/
def State.flushQueues (s : State) (v : Nat) : State :=
  ((List.range s.queues.length).filter (fun q => (s.queue q).vdev == v)).foldl (fun s q => s.putDesc q) s

/-- The bytes of a page that are not zero, by virtual address; Shelf lines as the device reads them. -/
def State.pageCells (s : State) (v : Nat) (m : Nat × Nat × Bool) : FMap Byte :=
  let fr := entFrame m.2.1
  ((FMap.range s.mem fr (65536 * pageFrames m.2.2)).filter (fun x => s.lineOk v x.1)).map (fun x => (x.1 - fr + 65536 * m.1, x.2))
/-- The poisoned sectors of a page, by virtual address ÷ 32. -/
def State.pagePsn (s : State) (m : Nat × Nat × Bool) : NSet :=
  let fr := entFrame m.2.1 / 32
  (s.poison.filter (fun x => decide (fr ≤ x) && decide (x < fr + 2048 * pageFrames m.2.2))).map (fun x => x - fr + 2048 * m.1)

/-- A Shelf line as a checkpoint holds it: encrypted under the checkpoint keys of the device, once for each line (R379). -/
def shelfLine (v : Nat) (cells : FMap Byte) (l : List (Nat × List Byte)) (line : Nat) : List (Nat × List Byte) :=
  if l.any (fun x => x.1 == line) then l
  else l ++ [(line, Config.sm4Xts (Config.ckptKey v 0) (Config.ckptKey v 1) line
    ((List.range 64).map (fun j => FMap.get memDefault cells (64 * line + j))))]
/-- A checkpoint of a device whose workgroups are saved (R379): its state, the bytes of its own pages as the device reads
them, the Shelf lines as the safe tier holds them, and the signed digest of the image. -/
def State.takeCkpt (s : State) (v : Nat) : State × Nat :=
  let (s, id) := (s.flushQueues v).drainAll.newId
  let ms := (s.userPages v).filter (fun m => !entPeer m.2.1)
  let cells := ms.flatMap (fun m => s.pageCells v m)
  let shelf := ms.filter (fun m => paShelf (entFrame m.2.1))
  let st := s.execState v
  let digest := Config.field 32 (Config.sm3 (Config.stateBytes st ++ cells.flatMap (fun c => leBytes c.1 8 ++ [c.2])))
  let k : Ckpt :=
    { id := id
      vdev := v
      st := st
      cells := cells
      poison := ms.flatMap (fun m => s.pagePsn m)
      shelf := (shelf.flatMap (fun m => s.pageCells v m)).foldl (fun l c => shelfLine v cells l (c.1 / 64)) []
      digest := digest
      sig := Config.field 64 (Config.sm2Sign digest) }
  ({ s with ckpts := s.ckpts ++ [k] }, id)

/-- One step of a checkpoint that is `a` among the device's actions: the saves are requested, or the checkpoint is taken. -/
def State.ckptStep (s : State) (v a : Nat) : State × Option Nat :=
  let s := s.enqueue v a
  if !s.isHead v a then (s, none)
  else if !s.allSaved v then (s.saveAll v, none)
  else
    let r := (s.finishAct v a).takeCkpt v
    (r.1, some r.2)

/-- A call's answer in a checkpoint: the restored run has its own result (R169). (DEDUCED, log 60). -/
def State.ckptAnswer (s : State) (c id : Nat) : State :=
  { s with ckpts := s.ckpts.map (fun k =>
      if k.id = id then { k with st := { k.st with
        calls := modFirst (fun x => x.id == c) (fun x => { x with res := some (BitVec.ofNat 64 id) }) k.st.calls } } else k) }
/-- CKPT (R379, R362). -/
def execCkpt (c : Nat) (s : State) : Host.Outcome State Fault Refusal :=
  .next (s.serveCall c 0x00D 0 (fun x =>
    match s.ckptStep x.vdev (2 + 16 * c) with
    | (s, none) => .hold s
    | (s, some id) => .done (s.ckptAnswer c id) (BitVec.ofNat 64 id)))

/-- One step of a checkpoint of every device, with whether it is complete (R379). -/
def State.ckptAll (s : State) : State × Bool :=
  let vs := s.vdevs.map (fun x => x.num)
  let s := if vs.any (fun v => (s.actions v).contains 2) then s else vs.foldl (fun s v => s.enqueue v 2) s
  let s := (vs.filter (fun v => (s.actions v).contains 2)).foldl (fun s v => (s.ckptStep v 2).1) s
  (s, !vs.any (fun v => (s.actions v).contains 2))
/-- OPERATOR_CHECKPOINT (R379): repeated until every device's workgroups are saved. -/
def execOperatorCheckpoint (s : State) : Host.Outcome State Fault Refusal := .next s.ckptAll.1

/-- Bytes put back into a device's memory, whatever the rights of its pages. -/
def State.putCells (s : State) (v : Nat) (l : FMap Byte) : State :=
  l.foldl (fun s x =>
    match s.locate 4 v x.1 .read with
    | .ok (.here pa) => s.writePa v pa x.2 0xFF .keep
    | _ => s) s
/-- Poison put back. -/
def State.putPsn (s : State) (v : Nat) (l : NSet) : State :=
  l.foldl (fun s x =>
    match s.locate 4 v (32 * x) .read with
    | .ok (.here pa) => s.setPsn pa true
    | _ => s) s

/-- The root table of a device taken again, empty, after its frames were freed. -/
def State.keepRoot (s : State) (v : Nat) : State :=
  match s.vdev v with
  | some x => s.own x.root 32 (256 + v)
  | none => s
/-- A device without work, mapping and image, its configuration and root region aside (R376 steps 1, 2 and 4). -/
def State.emptyDevice (s : State) (v : Nat) : State :=
  let root := s.rootOf v
  let s := ((s.endWork v).freeDevice v).keepRoot v
  let hard := fun (q : Quad) => match q.own with
    | .hard u => if u = v then { q with taken := [], lastSlot := 0, avoid := none } else q
    | _ => q
  { s with
    images := s.images.filter (fun i => i.vdev != v)
    regions := ((List.range s.regions.length).zip s.regions).map (fun (r : Nat × Region) =>
      if r.2.vdev = v ∧ r.1 ≠ root then { r.2 with alive := false } else r.2)
    dies := s.dies.map (fun x =>
      let x := x.clearBanksOf v
      { x with cores := x.cores.map (fun c => (c.1, { c.2 with quads := c.2.quads.map hard })) }) }

/-- A device put back to a checkpoint; none where the places that the resident system chose are not fit. -/
def State.restoreCkpt (s : State) (k : Ckpt) (frames tables : Frames) : Option State :=
  let v := k.vdev
  let s := s.emptyDevice v
  let s := { s with
    queues := s.queues.filter (fun (q : HwQueue) => q.vdev != v)
    launches := s.launches.filter (fun (l : Launch) => l.vdev != v)
    regions := s.regions.map (fun (r : Region) => if r.vdev = v then { r with alive := false } else r) }
  if !noRepeat frames || decide (s.freeApps.length < k.st.apps.length) then none
  else (s.mapPages v 4 k.st.maps frames tables).map (fun s =>
    (((s.putCells v k.cells).putPsn v k.poison).restore v k.st).putRoot v)
/-- CHECKPOINT_RESTORE (R375, R379): in its turn among the device's actions, the device runs on from the point of the
checkpoint; `frames` and `tables` are the resident system's choice. -/
def execCheckpointRestore (id : Nat) (frames tables : Frames) (s : State) : Host.Outcome State Fault Refusal :=
  .next (match s.ckpts.find? (fun k => k.id == id) with
    | none => s
    | some k =>
      let a := 5 + 16 * id
      let s := s.enqueue k.vdev a
      if (s.vdev k.vdev).isNone || !s.isHead k.vdev a then s
      else ((s.restoreCkpt k frames tables).map (fun s => s.finishAct k.vdev a)).getD s)

/-! ## Loading an image (R355–R357, R422) -/

/-- The next multiple of 64. -/
def up64 (n : Nat) : Nat := (n + 63) / 64 * 64
/-- A number of `n` bytes in a byte string. -/
def numAt (l : List Byte) (o n : Nat) : Nat := leNat (fun k => l.getD k 0) o n
/-- A byte string with another put over it. -/
def overlay (l : List Byte) (o : Nat) (x : List Byte) : List Byte := l.take o ++ (x ++ l.drop (o + x.length))

/-- The error of a manifest header (R356 step 1): −6 for a wrong mark or level, −2 for a count out of range. -/
def manifestErr (l : List Byte) : Option Nat :=
  let nk := numAt l 6 2
  let plev := numAt l 5 1
  let heap := numAt l 0x16 2
  if numAt l 0 4 ≠ 0x4C474149 ∨ numAt l 4 1 ≠ 1 ∨ numAt l 0x14 2 ≠ 0 ∨ numAt l 0x2C 20 ≠ 0 ∨ Config.isaLevel < plev ∨ plev = 0 then
    some 6
  else if nk = 0 ∨ 4096 < nk ∨ heap = 0 ∨ 4096 < heap then some 2 else none
/-- Whether a device's policy takes an image: signed where the device requires it (R356). -/
def signedOk (req : Bool) (l : List Byte) : Bool :=
  let n := numAt l 0x28 4
  let o := numAt l 0x20 8
  !req || (decide (n ≠ 0) && Config.sm2Valid (Config.sm3 (overlay l 0x20 (leBytes 0 12))) (slice l o n))

/-- A kernel object as it is placed: the addresses of its sections and their bytes, the functions' entry words, and where
pieces of Prerin code begin and end. -/
structure Placed where
  next : Nat
  puts : List (Nat × List Byte)
  words : List Nat
  marks : List Nat
  deriving DecidableEq, Repr

/-- Relocations applied to a data section (R422): none where one names no section or lies outside. -/
def relocate (o : List Byte) (off : Nat) (bases : List Nat) (data : List Byte) : Nat → Option (List Byte)
  | 0 => some data
  | n + 1 =>
    match relocate o off bases data n with
    | none => none
    | some d =>
      let t := numAt o (off + 16 * n) 8
      let a := numAt o (off + 16 * n + 8) 8
      match bases[a / 2 ^ 62]? with
      | none => none
      | some b => if t % 8 ≠ 0 ∨ d.length < t + 8 then none else some (overlay d t (leBytes (b + a % 2 ^ 62) 8))

/-- Kernel descriptors whose native tag is not the part's level lose their native code (R356 step 2, R357). -/
def dropNative (o : List Byte) (off : Nat) (data : List Byte) : Nat → List Byte
  | 0 => data
  | n + 1 =>
    let d := dropNative o off data n
    let k := numAt o (off + 32 * n + 0x18) 4
    if numAt o (off + 32 * n + 0x1C) 1 = 1 ∧ numAt d (k + 0x1B) 1 ≠ Config.isaLevel then
      overlay (overlay d (k + 0x1B) [0]) (k + 8) (leBytes 0 8)
    else d

/-- The offsets in the data section of the symbols of a kind: 1 kernel descriptors, 2 entry words (R422). -/
def symbols (x : List Byte) (sym nsym kind : Nat) : List Nat :=
  ((List.range nsym).filter (fun k => numAt x (sym + 32 * k + 0x1C) 1 == kind)).map (fun k => numAt x (sym + 32 * k + 0x18) 4)
/-- Whether an object's native code is kept (R356 step 2): where a kernel of it has the part's native tag, and where it has no
kernel. (DEDUCED, log 65). -/
def keepNative (x : List Byte) (doff sym nsym : Nat) : Bool :=
  let ks := symbols x sym nsym 1
  ks.isEmpty || ks.any (fun k => numAt x (doff + k + 0x1B) 1 == Config.isaLevel)
/-- The 64-bit words of a data section that may name code: TRAP of the kernel descriptors (Table 21-5), the entry words, and DIV,
BASE and COMB of the recursion objects (Table 13-6). -/
def codeWords (x : List Byte) (sym nsym : Nat) : List Nat :=
  (symbols x sym nsym 1).map (fun k => k + 0x10) ++ symbols x sym nsym 2
    ++ (symbols x sym nsym 3).flatMap (fun k => [k, k + 8, k + 0x10])
/-- The Prerin address that a word gets whose native code is not kept: some instruction of the object's `n` bytes of Prerin code
from `pb` on (R357, R421). (DESIGN CHOICE, log 101). -/
def prerinFor (pb n word : Nat) : Nat := pb + 4 * (Config.droppedEntry word % (n / 4))
/-- Words that named native code which is not kept name Prerin code (R357). -/
def dropEntries (pb n : Nat) (words : List Nat) (data : List Byte) : List Byte :=
  words.foldl (fun d k => if numAt d k 8 % 2 = 1 then overlay d k (leBytes (prerinFor pb n (numAt d k 8)) 8) else d) data

/-- A kernel object placed from an address on (R422); none where it is not one. -/
def placeObject (l : List Byte) (o base : Nat) : Option Placed :=
  let x := l.drop o
  let plen := numAt x 0x10 4
  let nlen := numAt x 0x14 4
  let dlen := numAt x 0x28 4
  let poff := numAt x 0x08 8
  let noff := numAt x 0x18 8
  let doff := numAt x 0x20 8
  let nsym := numAt x 6 2
  let sym := numAt x 0x38 8
  if numAt x 0 4 ≠ 0x4C474B4F ∨ numAt x 4 1 ≠ 1 ∨ Config.isaLevel < numAt x 5 1
      ∨ x.length < poff + plen ∨ x.length < noff + nlen ∨ x.length < doff + dlen then none
  else
    let keep := keepNative x doff sym nsym
    let pb := up64 base
    let nb := up64 (pb + plen)
    let db := up64 (nb + if keep then nlen else 0)
    let words := symbols x sym nsym 2
    (relocate x (numAt x 0x30 8) [pb, nb, db] (slice x doff dlen) (numAt x 0x2C 4)).map (fun d =>
      let d := dropNative x sym (if keep then d else dropEntries pb plen (codeWords x sym nsym) d) nsym
      { next := db + dlen
        puts := [(pb, slice x poff plen)] ++ (if keep then [(nb, slice x noff nlen)] else []) ++ [(db, d)]
        words := words.map (fun k => db + k)
        marks := (words ++ symbols x sym nsym 1).map (fun k => numAt d k 8) ++ [pb + plen] })

/-- Every kernel object of an image placed, one behind the other. -/
def placeObjects (l : List Byte) (ktab base : Nat) : Nat → Option Placed
  | 0 => some ⟨base, [], [], []⟩
  | n + 1 =>
    match placeObjects l ktab base n with
    | none => none
    | some p => (placeObject l (numAt l (ktab + 8 * n) 8) p.next).map (fun q =>
        ⟨q.next, p.puts ++ q.puts, p.words ++ q.words, p.marks ++ q.marks⟩)

/-- A control program started on the first free application core (R356 step 5, R353). -/
def State.startApp (s : State) (v pc : Nat) : State :=
  match s.freeApps with
  | [] => s
  | n :: _ => { s with pkg := { s.pkg with apps := s.pkg.apps ++ [⟨n, v, BitVec.ofNat 64 pc, 0, 0, none, []⟩] } }

/-- The base pages from `a` up to `b` that a device has not mapped. -/
def State.unmappedIn (s : State) (v a b : Nat) : List Nat :=
  ((List.range (pageOf (b - 1) + 1 - pageOf a)).map (fun k => pageOf a + k)).filter (fun p =>
    !(s.mapped v).any (overlaps p 1))
/-- Memory for an image (R356 step 2): the pages of its place that the device has not mapped are mapped writable in DRAM, as for an
MMAP; −3 where the device's quota or the part has too little, none where the frames chosen are not fit. (DEDUCED, log 65). -/
def State.placeFor (s : State) (v a b : Nat) (frames tables : Frames) : Except Nat (Option State) :=
  let new := s.unmappedIn v a b
  let t := s.tablesNeeded v new false
  if new.isEmpty then .ok (some s)
  else if s.freeDram < t ∨ s.dramRoom v 4 false t < new.length then .error 3
  else if !noRepeat frames then .ok none
  else .ok (s.mapPages v 4 (new.map (fun p => ⟨p, true, false, false, false, false, none⟩)) frames tables)

/-- An image placed at an address of a device (R356): the control program, then the objects, then the code heap; then the
control program starts. The result is an error, or none where the pages of the place cannot be written or no application core
is free yet. (DEDUCED, log 65). -/
def State.loadImage (s : State) (v : Nat) (l : List Byte) (base : Nat) (frames tables : Frames) : Option (State × Nat) :=
  match s.vdev v with
  | none => none
  | some dv =>
    match manifestErr l with
    | some e => some (s, e)
    | none =>
      if !signedOk dv.sigreq l then some (s, 4)
      else
        let cp := slice l (numAt l 8 8) (numAt l 0x10 4)
        match placeObjects l (numAt l 0x18 8) (up64 (base + cp.length)) (numAt l 6 2) with
        | none => some (s, 6)
        | some p =>
          let heap := up64 p.next
          let stop := heap + 2 ^ 20 * numAt l 0x16 2
          if base % 64 ≠ 0 ∨ s.freeApps.isEmpty then none
          else match s.placeFor v base stop frames tables with
          | .error e => some (s, e)
          | .ok none => none
          | .ok (some s) =>
          if !s.rangeWritable v base (stop - base) then none
          else
            let s := ((base, cp) :: p.puts).foldl (fun s w => s.vput v w.1 w.2) s
            let s := (List.range 4).foldl (fun s d => s.icinv d v base (stop - base)) s
            let funcs := p.words.map (fun a => (a, (s.vnat v a 8).getD 0))
            let i : Image :=
              { vdev := v
                base := base
                size := stop - base
                ready := true
                digest := Config.field 32 (Config.sm3 l)
                heap := heap
                heapEnd := stop
                funcs := funcs
                swapped := []
                failedF := []
                old := []
                cp := base
                marks := p.marks
                free := []
                hot := []
                hits := []
                got := [] }
            some ({ s with images := s.images ++ [i] }.startApp v base, 0)
/-- IMAGE_LOAD (R356): the loader's answer is 0 or an error; `place` is its choice. -/
def execImageLoad (vdev : Nat) (image : List Byte) (place : ImagePlace) (s : State) : Host.Outcome State Fault Refusal :=
  .next (match s.loadImage vdev image place.base place.frames place.tables with
    | none => s
    | some (s, e) =>
      let (s, id) := s.newId
      { s with pkg := { s.pkg with answers := s.pkg.answers ++ [(id, sysErr e)] } })

/-! ## The translator (R358–R361) -/

/-- A piece of `n` bytes of an image's code heap (R359): the first free piece that holds it, else the heap's unused end. -/
def Image.alloc (i : Image) (n : Nat) : Option (Nat × Image) :=
  match i.free.find? (fun f => decide (n ≤ f.2)) with
  | some f => some (f.1, { i with free := i.free.erase f ++ (if n < f.2 then [(f.1 + n, f.2 - n)] else []) })
  | none => if i.heapEnd < i.heap + n then none else some (i.heap, { i with heap := i.heap + n })

/-- A function out of the translator's queue. -/
def Image.done (i : Image) (func : Nat) : Image := { i with hot := i.hot.erase func }
/-- A translation cut short (R361): the event 0x21 with the function's Prerin address in the device log; the function is not
attempted again. -/
def State.cutShort (s : State) (img func : Nat) (v p : Nat) : State :=
  { s with
    images := modAt s.images img (fun x => { x.done func with failedF := NSet.add x.failedF func })
    pkg := { s.pkg with log := s.pkg.log ++ [.event v 0x21 (BitVec.ofNat 64 p)] } }

/-- Whether a launch has completed, or has faulted with no workgroup left. -/
def State.launchOver (s : State) (v id : Nat) : Bool :=
  match s.launchOf v id with
  | none => true
  | some l => l.st == 2 || (l.st == 3 && !s.launchLive id)
/-- The first function of the translator's queue (R358) swapped in, or its translation cut short: without code, or where the
heap is out (R359, R361). -/
def State.swap (s : State) (img func : Nat) (code : List DWord) : State :=
  match s.images[img]? with
  | none => s
  | some i =>
    match i.funcs[func]? with
    | none => s
    | some (ea, p) =>
      let n := up64 (8 * code.length)
      if !i.ready || i.hot.head? != some func || NSet.has i.swapped func || NSet.has i.failedF func || p % 2 ≠ 0 then s
      else match (if code.isEmpty then none else i.alloc n) with
      | none => s.cutShort img func i.vdev p
      | some (a, j) =>
        let s := s.vput i.vdev a (code.flatMap (fun w => leBytes w.toNat 8))
        let s := (List.range 4).foldl (fun s d => s.icinv d i.vdev a n) s
        let s := s.vput i.vdev ea (leBytes (a + 1) 8)
        let live := (s.launches.filter (fun l => l.vdev == i.vdev && !s.launchOver i.vdev l.id)).map (fun l => l.id)
        { s with images := modAt s.images img (fun _ =>
            { j.done func with swapped := NSet.add j.swapped func, old := j.old ++ [(func, p, live)] }) }
/-- FUNCTION_SWAP (R359). -/
def execFunctionSwap (img func : Nat) (code : List DWord) (s : State) : Host.Outcome State Fault Refusal :=
  .next (s.swap img func code)

/-- The end of the piece of Prerin code that begins at an address: the next mark of its image. -/
def Image.codeEnd (i : Image) (p : Nat) : Nat :=
  (i.marks.filter (fun m => decide (p < m))).foldl (fun a b => if a = 0 then b else min a b) 0
/-- Old code back in the heap, whose launches at the swap have all completed (R360). (DESIGN CHOICE, log 66). -/
def State.reclaim (s : State) (img : Nat) : State :=
  match s.images[img]? with
  | none => s
  | some i =>
    let gone := i.old.filter (fun o => o.2.2.all (fun l => s.launchOver i.vdev l))
    let pieces := gone.filterMap (fun o =>
      let a := up64 o.2.1
      let b := i.codeEnd o.2.1 / 64 * 64
      if a < b then some (a, b - a) else none)
    { s with images := modAt s.images img (fun x =>
        { x with old := x.old.filter (fun o => !gone.contains o), free := x.free ++ pieces }) }

/-! ## Shared quadrants (R368, R369) -/

/-- The device after `u` in a round: the next of weight 1 or more in ascending number, else the first. -/
def nextHolder (l : List (Nat × Nat × Nat)) (u : Nat) : Option (Nat × Nat × Nat) :=
  let ws := sortBy (fun a b => decide (a.1 ≤ b.1)) (l.filter (fun e => e.2.2 != 0))
  match ws.find? (fun e => decide (u < e.1)) with
  | some e => some e
  | none => ws.head?

/-- A slice ends and the next holder takes over (R369); the workgroups of other devices whose resources it needs are asked to
save. (DEDUCED, log 67). -/
def State.sliceEnd (s : State) (d c q : Nat) : State :=
  match (s.quad d c q).own with
  | .shared l u stop =>
    if s.cycle d c < stop then s
    else match nextHolder l u with
    | none => s
    | some (v, quant, w) =>
      let s := s.modQuad d c q (fun x => { x with own := .shared l v (s.cycle d c + w * quant) })
      (s.neededAll d c (s.sharers d c q v) (s.waiting v d c)).foldl (fun s g => s.requestSave g) s
  | _ => s
/-- Workgroups of weight-0 devices asked to save, whenever the slice holder needs their resources (R369). -/
def State.holderNeed (s : State) (d c q : Nat) : State :=
  match (s.quad d c q).own with
  | .shared _ v _ =>
    (s.neededAll d c (s.weightless d c q v) (s.waiting v d c)).foldl (fun s g => s.requestSave g) s
  | _ => s
/-- SLICE_END (R369). -/
def execSliceEnd (die core quad : Nat) (s : State) : Host.Outcome State Fault Refusal := .next (s.sliceEnd die core quad)

/-! ## Requests of the management port and the mailbox (R382, R383, R398) -/

/-- What a service comes to: its result with the extra words and the data of the reply, or a wait. -/
inductive Served' where
  | done (s : State) (res : DWord) (extra data : List Byte)
  | wait (s : State)

/-- The device that a request of the mailbox names in word 1, 0 for one of the port (R398). -/
def State.reqDev (s : State) (src : ReqSrc) (code : Nat) : Nat :=
  match src with
  | .mgmt _ _ _ => 0
  | .host tag => ((s.pkg.reqs.find? (fun r => r.tag == tag && r.code == code)).map (fun r => r.vdev)).getD 0
/-- Whether the operator's policy lets the mailbox have services for a device (R398, Table 18-11 MBOX). -/
def State.boxed (s : State) (v : Nat) : Bool := ((s.vdev v).map (fun x => x.mbox)).getD false

/-- A reply of a service to the mailbox, where the ring has room: none where it has not yet; data that never fit in the ring
are answered with −3 (R378). (DESIGN CHOICE, log 92). -/
def State.boxReply (s : State) (tag : Nat) (res : DWord) (extra data : List Byte) : Option State :=
  let b := s.pkg.box
  if 2 ^ b.plog.toNat < replySlots data then (if b.room 1 then some (s.hostReply tag (sysErr 3) [] []) else none)
  else if b.room (replySlots data) then some (s.hostReply tag res extra data) else none

/-- A request served, where it stands at the port, or in the mailbox with a code and words that are those of the step; a
request above 0x00FF of a device without the mailbox right returns −4 (R398). Nothing is served before boot stage 5 (R380). -/
def State.service (s : State) (src : ReqSrc) (code : Nat) (ok : HostReq → Bool) (body : State → Served') : State :=
  if s.pkg.stage ≠ 5 then s
  else match src with
  | .mgmt tag seq sound =>
    (match s.accept tag seq sound with
     | none => s
     | some s => match body s with
      | .done s res extra data => s.mgmtReply tag seq res extra data
      | .wait s => s)
  | .host tag =>
    match s.pkg.reqs.find? (fun r => r.tag == tag && r.code == code && ok r) with
    | none => s
    | some r =>
      let gone := fun (s : State) => { s with pkg := { s.pkg with reqs := s.pkg.reqs.erase r } }
      if 0x00FF < code ∧ !s.boxed r.vdev then ((gone s).boxReply tag (sysErr 4) [] []).getD s
      else (match body s with
        | .done s' res extra data => ((gone s').boxReply tag res extra data).getD s
        | .wait s => s)

/-! ## The configuration record (R384, Tables 18-11 and 18-12) -/

/-- The bytes of a configuration record with its quadrant entries, by its count NQ (Tables 18-11 and 18-12). -/
def recBytes (nq : Nat) : Nat := 0x240 + 8 * nq
/-- NQ of a record. -/
def recNq (r : List Byte) : Nat := numAt r 4 2
/-- VDEV of a record. -/
def recV (r : List Byte) : Nat := numAt r 0 1
/-- OP of a record. -/
def recOp (r : List Byte) : Nat := numAt r 2 1
/-- The flag word of a record. -/
def recFlags (r : List Byte) : Nat := numAt r 0 4
/-- A quadrant entry of a record. -/
structure Qent where
  quant : Nat
  weight : Nat
  shared : Bool
  die : Nat
  core : Nat
  quad : Nat
  deriving DecidableEq, Repr
/-- Quadrant entry `n`. -/
def qent (r : List Byte) (n : Nat) : Qent :=
  let e := numAt r (0x240 + 8 * n) 8
  ⟨bitsOf e 63 32, bitsOf e 23 20, bitsOf e 18 18 == 1, bitsOf e 17 16, bitsOf e 15 8, bitsOf e 1 0⟩
/-- The quadrant entries of a record. -/
def qents (r : List Byte) : List Qent := (List.range (recNq r)).map (fun n => qent r n)
/-- BGM of a core. -/
def recBgm (r : List Byte) (d c : Nat) : Nat := numAt r (0x40 + 2 * (64 * d + c)) 2
/-- BORROW and SHARE of a token class. -/
def recTok (r : List Byte) (c : Nat) : Nat × Nat := (numAt r (0x10 + 8 * c) 4, numAt r (0x14 + 8 * c) 4)

/-- Whether word 0 of a record is in range. -/
def headOk (r : List Byte) : Bool :=
  bitsOf (recFlags r) 31 24 == 0 && bitsOf (recFlags r) 15 10 == 0 && decide (1 ≤ recV r) && decide (recV r ≤ 63)
/-- Whether every field of a record is in range (R384, R334, R368). -/
def recOk (r : List Byte) : Bool :=
  let qentOk := fun (n : Nat) =>
    let e := numAt r (0x240 + 8 * n) 8
    let q := qent r n
    bitsOf e 31 24 == 0 && bitsOf e 19 19 == 0 && bitsOf e 7 2 == 0 && decide (q.core < 64)
    && (if q.shared then decide (1 ≤ q.quant) else q.quant == 0 && q.weight == 0)
  headOk r && numAt r 6 2 == 0
  && decide (recNq r ≤ 1024) && r.length == recBytes (recNq r) && numAt r 0x28 24 == 0
  && [0, 1, 2].all (fun c => decide ((recTok r c).2 ≤ 1024) && !((recTok r c).1 == 0 && (recTok r c).2 == 0))
  && (List.range (recNq r)).all qentOk
  && noRepeat ((qents r).map (fun q => q.die * 1024 + q.core * 4 + q.quad))

/-- Whether the quadrants of a record can be had: none hard-owned by another device, none shared by more than 8 (R384). -/
def State.quadFree (s : State) (v : Nat) (q : Qent) : Bool :=
  match (s.quad q.die q.core q.quad).own with
  | .none => true
  | .hard u => u == v
  | .shared l _ _ =>
    let others := l.filter (fun e => e.1 != v)
    others.isEmpty || (q.shared && decide (others.length < 8))

/-- The sum of a quota over the other devices. -/
def State.quotas (s : State) (v : Nat) (f : VDev → Nat) : Nat := ((s.vdevs.filter (fun x => x.num != v)).map f).sum
/-- The DRAM frames that tables of devices take. -/
def State.tableFrames (s : State) : Nat := (s.dies.map (fun x => (x.owners.filter (fun o => decide (256 ≤ o.2))).length)).sum
/-- Whether the free pools meet a record: quadrants, bank groups, frames and token shares (R384). (DEDUCED, log 62). -/
def State.recFits (s : State) (r : List Byte) : Bool :=
  let v := recV r
  (qents r).all (fun q => s.quadFree v q)
  && (List.range 4).all (fun d => (List.range 64).all (fun c => (List.range 16).all (fun b =>
    !(recBgm r d c).testBit b || (let o := FMap.get 0 (s.core d c).groups b; o == 0 || o == v))))
  && decide (s.quotas v (fun x => x.dfr) + numAt r 8 4 + s.tableFrames + (if (s.vdev v).isNone then 32 else 0) ≤ 4 * 64 * chanFrames)
  && decide (s.quotas v (fun x => x.sfr) + numAt r 0xC 4 ≤ 4 * 6144)
  && s.dies.all (fun x => [0, 1, 2].all (fun c =>
    decide (((x.toks.filter (fun a => a.cls == c && a.vdev != v)).map (fun a => a.share)).sum + (recTok r c).2 ≤ 1024)))

/-- A quantum as the resident system sets it (R368). -/
def clampQ (n : Nat) : Nat := max n 27000
/-- The entries whose quantum was clamped. -/
def clampIx (r : List Byte) : List Nat :=
  (List.range (recNq r)).filter (fun n => (qent r n).shared && decide ((qent r n).quant < 27000))
/-- The words of a reply that report the clamps (R384, R368): their number and the first five; then the device and the value
set. -/
def clampWords (r : List Byte) : List Byte :=
  let ix := clampIx r
  Config.field 24 (leBytes ix.length 4 ++ (ix.take 5).flatMap (fun n => leBytes n 4))
    ++ (if ix.isEmpty then [] else leBytes (recV r) 4 ++ leBytes (clampQ 0) 4)

/-- A device leaves a quadrant. -/
def Quad.without (q : Quad) (v : Nat) : Quad :=
  match q.own with
  | .hard u => if u = v then { q with own := .none, taken := [], avoid := none } else q
  | .shared l u stop =>
    let l := l.filter (fun e => e.1 != v)
    { q with own := if l.isEmpty then .none else .shared l u stop }
  | .none => q
/-- A device enters a quadrant; the first of weight 1 or more has its slice of a shared one from `now` on, and while there is
none no device holds a slice (R369). -/
def Quad.withEntry (q : Quad) (v : Nat) (e : Qent) (now : Nat) : Quad :=
  if !e.shared then { q with own := .hard v }
  else
    let old := match q.own with
      | .shared l _ _ => l
      | _ => []
    let l := sortBy (fun a b => decide (a.1 ≤ b.1)) (old ++ [(v, clampQ e.quant, e.weight)])
    match q.own with
    | .shared _ u stop => { q with own := .shared l u stop }
    | _ => { q with own := .shared l (if e.weight = 0 then 0 else v) (now + e.weight * clampQ e.quant) }

/-- The bank groups of a device in a core as a mask gives them. -/
def Core.withGroups (x : Core) (v m : Nat) : Core :=
  { x with groups := (List.range 16).foldl (fun g b =>
      if m.testBit b then FMap.set 0 g b v else if FMap.get 0 g b = v then FMap.set 0 g b 0 else g) x.groups }

/-- The borrow limit and the share of a token account. -/
def Die.setAcct (x : Die) (v c : Nat) (t : Nat × Nat) : Die :=
  match x.acct v c with
  | some _ => x.modAcct v c (fun a => { a with share := t.2, borrow := t.1 })
  | none => { x with toks := x.toks ++ [⟨v, c, t.2, t.1, 0, 0, false⟩] }
/-- The quadrants, bank groups and token accounts of a device as a record gives them. -/
def State.applyRec (s : State) (r : List Byte) : State :=
  let v := recV r
  let s := { s with dies := s.dies.map (fun (x : Die) =>
    { x with cores := x.cores.map (fun (c : Nat × Core) => (c.1, { c.2 with quads := c.2.quads.map (fun (q : Quad) => q.without v) })) }) }
  let s := (qents r).foldl (fun s q => s.modQuad q.die q.core q.quad (fun x => x.withEntry v q (s.cycle q.die q.core))) s
  let s := (List.range 4).foldl (fun s d => (List.range 64).foldl (fun s c =>
    if s.bgmOf v d c = recBgm r d c then s else s.modC d c (fun x => x.withGroups v (recBgm r d c))) s) s
  { s with dies := s.dies.map (fun (x : Die) => [0, 1, 2].foldl (fun x c => x.setAcct v c (recTok r c)) x) }

/-- The root region of a device (R371, R372): every field its own, the budgets those of the device's resources.
(DESIGN CHOICE, log 61). -/
def rootRegion (r : List Byte) (addr : Nat) (check : Half) : Region :=
  let n := recNq r
  let bg := ((List.range 4).map (fun d => ((List.range 64).map (fun c =>
    ((List.range 16).filter (fun b => (recBgm r d c).testBit b)).length)).sum)).sum
  { vdev := recV r
    addr := addr
    check := check
    parent := none
    ovr := 0x7FF
    fd := true
    prio := 0
    rb := 128 * n
    sbg := bg
    ls := 4 * n
    dmask := (qents r).foldl (fun (m : BitVec 4) q => m ||| (1#4 <<< q.die)) 0
    lsq := 4
    acc := 8 * n
    ts := (recTok r 1).2
    td := (recTok r 0).2
    tl := (recTok r 2).2
    alive := true }

/-- The assay words at reset (R323). -/
def Assay.reset : Assay := ⟨1, 16, 32, 4, 1024, 2, 6, 64, false⟩
/-- Key slots that are empty and no other device's, one for each die. -/
def State.slotsOk (s : State) (v : Nat) (slots : List Nat) : Bool :=
  slots.length == 4 && (List.range 4).all (fun d =>
    let k := slots.getD d 64
    decide (k < 64) && (FMap.get KeySlot.zero (s.die d).keys k).vdev.isNone
    && s.vdevs.all (fun x => x.num == v || FMap.get 64 x.keySlot d != k))
/-- A slot loaded for a device; before a 1,024th load, the lines under the slot are scrubbed (R331). (DEDUCED, log 51). -/
def State.loadKey (s : State) (d k v : Nat) : State :=
  let mine := (s.die d).lineTags.filter (fun l => l.2.1 == k)
  let zero := fun (s : State) (l : Nat × Nat × Nat) => ((s.zeroP (64 * l.1) 64).setPsn (64 * l.1) false).setPsn (64 * l.1 + 32) false
  let s := if ((FMap.get KeySlot.zero (s.die d).keys k).loads + 1) % 1024 = 0 then
      (mine.foldl zero s.drainAll).modD d (fun x => { x with lineTags := x.lineTags.filter (fun l => l.2.1 != k) })
    else s
  s.keyload d k v

/-- OP 1 applied (R384): the device of the record, with a region tree of its root alone. -/
def State.createDevice (s : State) (r : List Byte) (root block : Nat) (check : Half) (slots : List Nat) : State :=
  let v := recV r
  let f := recFlags r
  let dv : VDev :=
    { num := v
      root := root
      dfr := numAt r 8 4
      sfr := numAt r 0xC 4
      sigreq := bitsOf f 8 8 == 1
      mbox := bitsOf f 9 9 == 1
      keySlot := (List.range 4).map (fun d => (d, slots.getD d 64))
      assay := Assay.reset
      rootReg := s.regions.length
      actions := []
      quiesced := false }
  let s := (s.zeroPhys root (2 ^ 21)).own root 32 (256 + v)
  let s := (List.range 4).foldl (fun s d => s.loadKey d (slots.getD d 64) v) s
  { s.applyRec r with
    vdevs := s.vdevs ++ [dv]
    regions := s.regions ++ [rootRegion r block check] }.putRoot v

/-- Whether a record is the one that a mailbox request names: every byte of it, at the host address in words 2 and 3 (R398). -/
def State.recAt (s : State) (r : List Byte) (q : HostReq) : Bool :=
  let a := (q.words.getD 1 0 ++ q.words.getD 0 0 : DWord).toNat
  r.length == recBytes (leNat s.hostByte (a + 4) 2) && (List.range r.length).all (fun k => s.hostByte (a + k) == r.getD k 0)
/-- Whether a request for a record of a device is the operator's: of the port, or of the mailbox where the operator's policy
has enabled it for that device, if it exists (Table 18-11 MBOX). (DEDUCED, log 93). -/
def State.recMay (s : State) (src : ReqSrc) (v : Nat) : Bool :=
  match src with
  | .mgmt _ _ _ => true
  | .host _ => (s.vdev v).isNone || s.boxed v
/-- A VCONF request of a record whose device it may name (R384). -/
def State.vconf (s : State) (src : ReqSrc) (record : List Byte) (body : State → Served') : State :=
  s.service src 0x0100 (fun q => s.recAt record q) (fun s =>
    if !s.recMay src (recV record) then .done s (sysErr 4) [] [] else body s)
/-- A service action on a device in its turn (R375): put behind those before it, and performed once it is the first. -/
def State.inTurnOf (s : State) (v a : Nat) (body : State → Served') : Served' :=
  let s := s.enqueue v a
  if s.isHead v a then body s else .wait s

/-- Whether a root table may stand at a physical address: 32 free frames of one channel, aligned to 2 MiB. -/
def State.rootOk (s : State) (root : Nat) : Bool := s.frameOk root 4 true false

/-- VCONF_CREATE (R384 OP 1): `root`, `block`, `check` and `slots` are the resident system's choice. A record whose OP is none
of the four is a bad argument. -/
def execVconfCreate (src : ReqSrc) (record : List Byte) (root block : Nat) (check : Half) (slots : List Nat) (s : State) :
    Host.Outcome State Fault Refusal :=
  let v := recV record
  .next (if 2 ≤ recOp record ∧ recOp record ≤ 4 then s
    else s.vconf src record (fun s =>
      if recOp record ≠ 1 || !recOk record then .done s (sysErr 2) [] []
      else if (s.vdev v).isSome then .done s (sysErr 5) [] []
      else if !s.recFits record then .done s (sysErr 3) [] []
      else if !s.rootOk root || !s.slotsOk v slots || !s.blockFree v block check then .wait s
      else .done (s.createDevice record root block check slots) 0 (clampWords record) []))

/-- The workgroups of a device that stand where a record leaves it nothing (R384 OP 2). -/
def State.outside (s : State) (r : List Byte) : List Nat :=
  let v := recV r
  (s.groupsOf v).filter (fun g =>
    let x := s.grp g
    x.holds && (x.warps.any (fun w => !(qents r).any (fun q => q.die == x.die && q.core == x.core && q.quad == w.quad))
      || x.heldUnits.any (fun u => !(recBgm r x.die x.core).testBit (x.units.getD u 0))))
/-- A free key slot on each die for a device that has none, as a reset leaves it (R376, R384): the first; none where a die has
no free one. (DESIGN CHOICE, log 100). -/
def State.newSlots (s : State) (v : Nat) : Option (List Nat) :=
  if ((s.vdev v).map (fun x => !x.keySlot.isEmpty)).getD true then some []
  else allSome ((List.range 4).map (fun d => (List.range 64).find? (fun k =>
    (FMap.get KeySlot.zero (s.die d).keys k).vdev.isNone && s.vdevs.all (fun x => FMap.get 64 x.keySlot d != k))))
/-- OP 2 applied: the settings, key slots where the device has none, and the budgets of the root region with them. -/
def State.changeDevice (s : State) (r : List Byte) (slots : List Nat) : State :=
  let v := recV r
  let f := recFlags r
  let set := fun (x : VDev) =>
    { x with
      dfr := numAt r 8 4
      sfr := numAt r 0xC 4
      sigreq := bitsOf f 8 8 == 1
      mbox := bitsOf f 9 9 == 1
      keySlot := if slots.isEmpty then x.keySlot else (List.range 4).map (fun d => (d, slots.getD d 64)) }
  let root := s.rootOf v
  let s := ((List.range slots.length).foldl (fun s d => s.loadKey d (slots.getD d 64) v) (s.applyRec r)).modV v set
  { s with regions := modAt s.regions root (fun x =>
      { rootRegion r x.addr x.check with
        prio := x.prio
        fd := x.fd }) }.putRoot v
/-- VCONF_CHANGE (R384 OP 2): first the workgroups that lose their place are saved. -/
def execVconfChange (src : ReqSrc) (record : List Byte) (s : State) : Host.Outcome State Fault Refusal :=
  let v := recV record
  let a := 4 + 16 * src.key
  .next (if recOp record ≠ 2 then s
    else s.vconf src record (fun s =>
      if !recOk record || (s.vdev v).isNone then .done (s.finishAct v a) (sysErr 2) [] []
      else if !s.recFits record then .done (s.finishAct v a) (sysErr 3) [] []
      else s.inTurnOf v a (fun s =>
        match s.newSlots v, s.outside record with
        | none, _ => .done (s.finishAct v a) (sysErr 3) [] []
        | some slots, [] => .done ((s.changeDevice record slots).finishAct v a) 0 (clampWords record) []
        | _, l => .wait (l.foldl (fun s g => s.requestSave g) s))))

/-- A tenant reset (R376): the device without work, mappings and keys; its key slots and bank groups are free again, and its
region tree is its root alone. -/
def State.resetDevice (s : State) (v : Nat) : State :=
  let s := (s.emptyDevice v).discKeys v
  let s := { s with dies := s.dies.map (fun (x : Die) => { x with
    cores := x.cores.map (fun (c : Nat × Core) => (c.1, c.2.withGroups v 0)) }) }
  (s.modV v (fun x => { x with keySlot := [] })).putRoot v
/-- VCONF_RESET (R384 OP 3, R376). -/
def execVconfReset (src : ReqSrc) (record : List Byte) (s : State) : Host.Outcome State Fault Refusal :=
  let v := recV record
  let a := 1 + 16 * src.key
  .next (if recOp record ≠ 3 then s
    else s.vconf src record (fun s =>
      if !headOk record || (s.vdev v).isNone then .done s (sysErr 2) [] []
      else s.inTurnOf v a (fun s => .done ((s.resetDevice v).finishAct v a) 0 (clampWords []) [])))

/-- A device deleted: what it owned returns to the free pools. -/
def State.deleteDevice (s : State) (v : Nat) : State :=
  let s := ((s.emptyDevice v).discKeys v).freeDevice v
  { s with
    vdevs := s.vdevs.filter (fun x => x.num != v)
    regions := s.regions.map (fun r => if r.vdev = v then { r with alive := false } else r)
    dies := s.dies.map (fun x =>
      { x with
        toks := x.toks.filter (fun a => a.vdev != v)
        cores := x.cores.map (fun c => (c.1, ({ c.2 with quads := c.2.quads.map (fun (q : Quad) => q.without v) } : Core).withGroups v 0)) })
    fab := { s.fab with
      grants := s.fab.grants.filter (fun g => g.evdev != v)
      peers := s.fab.peers.filter (fun p => p.vdev != v)
      bar2 := if s.fab.bar2Dev = v then [] else s.fab.bar2
      bar2Dev := if s.fab.bar2Dev = v then 0 else s.fab.bar2Dev } }
/-- VCONF_DELETE (R384 OP 4): a reset, then every resource back in the free pools. -/
def execVconfDelete (src : ReqSrc) (record : List Byte) (s : State) : Host.Outcome State Fault Refusal :=
  let v := recV record
  let a := 6 + 16 * src.key
  .next (if recOp record ≠ 4 then s
    else s.vconf src record (fun s =>
      if !headOk record || (s.vdev v).isNone then .done (s.finishAct v a) (sysErr 2) [] []
      else s.inTurnOf v a (fun s => .done (s.deleteDevice v) 0 (clampWords []) [])))

/-! ## Summary, attestation, reserve status, power cap -/

/-- RESYNC_SERVICE (R378, R383): every device's summary at the management port, its own for a caller in the mailbox. -/
def execResyncService (src : ReqSrc) (s : State) : Host.Outcome State Fault Refusal :=
  .next (s.service src 0x0101 (fun _ => true) (fun s =>
    let b := s.summary (match src with
      | .mgmt _ _ _ => none
      | .host _ => some (s.reqDev src 0x0101))
    .done s (BitVec.ofNat 64 b.length) [] b))

/-- The attestation report of a device, or of the part (R381, R385). -/
def State.attestation (s : State) (v : Nat) (nonce : List Byte) : List Byte :=
  let imgs := (s.images.filter (fun i => i.vdev == v)).map (fun i => Config.field 32 i.digest)
  let body := leBytes 0x4C474154 4 ++ leBytes (Config.isaLevel * 256 + 1) 4 ++ leBytes Config.stepping 4
    ++ leBytes (s.reserveRecs.length * 65536 + imgs.length * 256 + v) 4 ++ Config.field 16 Config.serial ++ Config.field 32 nonce
    ++ Config.field 32 (Config.digest 0) ++ Config.field 32 (Config.digest 1) ++ Config.field 32 (Config.digest 2)
    ++ s.reserveRecs.flatten ++ imgs.flatten
  body ++ signature body
/-- ATTEST (R381, R383, R385). -/
def execAttest (src : ReqSrc) (vdev : Nat) (nonce : List Byte) (s : State) : Host.Outcome State Fault Refusal :=
  let ok := fun (q : HostReq) => q.vdev == vdev && ((q.words.take 8).flatMap (fun w => leBytes w.toNat 4)) == nonce
  .next (s.service src 0x0102 ok (fun s =>
    if nonce.length ≠ 32 ∨ (vdev ≠ 0 ∧ (s.vdev vdev).isNone) then .done s (sysErr 2) [] []
    else
      let b := s.attestation vdev nonce
      .done s (BitVec.ofNat 64 b.length) [] b))

/-- RSTAT (R383): a summary of section 6 alone. -/
def execRstat (src : ReqSrc) (s : State) : Host.Outcome State Fault Refusal :=
  .next (s.service src 0x0103 (fun _ => true) (fun s =>
    let b := summaryOf [sectionBytes 6 (s.reserveRecs ++ s.eventRecs)]
    .done s (BitVec.ofNat 64 b.length) [] b))

/-- PCAP (R383, R386). -/
def execPcap (src : ReqSrc) (w : Word) (s : State) : Host.Outcome State Fault Refusal :=
  .next (s.service src 0x0104 (fun q => q.words.head? == some w) (fun s =>
    if w.toNat < 1000 ∨ 2000 < w.toNat then .done s (sysErr 2) [] []
    else .done { s with pkg := { s.pkg with cap := w.toNat } } (BitVec.ofNat 64 w.toNat) [] []))

/-- The codes of R398. -/
def knownCode (c : Nat) : Bool := decide (c ≤ 0x00E) || (decide (0x0100 ≤ c) && decide (c ≤ 0x0105))
/-- UNKNOWN_SERVICE_CODE (R398): −1; of the mailbox, −4 where the policy has not enabled the device's requests. -/
def execUnknownServiceCode (src : ReqSrc) (code : Half) (s : State) : Host.Outcome State Fault Refusal :=
  .next (if knownCode code.toNat then s else s.service src code.toNat (fun _ => true) (fun s => .done s (sysErr 1) [] []))

/-! ## Reserve (R22, R338, R377) -/

/-- The reserve cores of a die that stand behind no logical core. -/
def State.freeReserve (s : State) (d : Nat) : List Nat :=
  [64, 65, 66, 67].filter (fun p => !(List.range 64).any (fun c => s.physCore d c == p))
/-- Reserve recorded and reported (R377): the record stays for the next boot (R380), and what was due is done. -/
def State.addReserve (s : State) (d : Nat) (r : Reserve) : State :=
  let s := (s.modD d (fun x => { x with reserves := x.reserves ++ [r] })).report (.reserve d r)
  { s with pkg := { s.pkg with
    fused := if s.pkg.fused.contains (d, r) then s.pkg.fused else s.pkg.fused ++ [(d, r)]
    due := s.pkg.due.filter (fun k => k != (d, r.kind, r.num)) } }
/-- Reserve of a kind in use on a die. -/
def Die.reserveUsed (x : Die) (kind : Nat) : Nat := (x.reserves.filter (fun r => r.kind == kind)).length
/-- What stands in a DRAM channel of a die, as actions that move it to a reserve channel (Table 16-8): pages, replicas and
tables. -/
def State.channelMoves (s : State) (d ch : Nat) : List AssayMove :=
  let here := fun (pa : Nat) => paDie pa == d && paChan pa == ch
  s.vdevs.flatMap (fun v =>
    let ms := (s.mapped v.num).filter (fun m => !entPeer m.2.1 && here (entFrame m.2.1))
    let rs := (s.die d).replicas.filter (fun r => r.vdev == v.num && here r.frame)
    let head := fun (o : Nat × Nat) =>
      o.2 == 256 + v.num && here (65536 * o.1)
      && (65536 * o.1 == v.root || !(decide (v.root < 65536 * o.1) && decide (65536 * o.1 < v.root + 2 ^ 21)))
      && !ms.any (fun m => entFrame m.2.1 == 65536 * o.1)
    ms.map (fun m => (⟨v.num, m.1, 4, d⟩ : AssayMove)) ++ rs.map (fun r => ⟨v.num, r.page, 5, d⟩)
      ++ ((s.die d).owners.filter head).map (fun o => ⟨v.num, o.1, 6, d⟩))

/-- Reserve brought in for resource `num` (Table 16-8): for a core its workgroups are saved first, and the lowest free
reserve core takes its number (R22). What the core's counter shows from then on is not said: it goes on as it stood
(DESIGN CHOICE, log 94). -/
def State.bringReserve (s : State) (d kind num date : Nat) : State :=
  let r : Reserve := ⟨kind, num, date⟩
  if 4 ≤ d then s
  else if kind = 1 then
    match s.freeReserve d with
    | [] => s
    | p :: _ =>
      if 64 ≤ num then s
      else
        let live := (List.range s.groups.length).filter (fun g => (s.grp g).holds && (s.grp g).die == d && (s.grp g).core == num)
        if live.isEmpty then
          { s.modC d num (fun x => { x with phys := p, failed := false, banks := [], atlds := [] }) with
            groups := s.groups.map (fun (x : Group) => if x.die = d ∧ x.core = num then { x with die := 4 } else x) }.addReserve d r
        else live.foldl (fun s g => s.requestSave g) s
  else if kind = 2 then
    if 4 ≤ (s.die d).reserveUsed 2 ∨ 68 ≤ num then s
    else (s.modD d (fun x => { x with moves := x.moves ++ s.channelMoves d num })).addReserve d r
  else if kind = 3 then s.addReserve d r
  else if kind = 4 ∧ (s.die d).reserveUsed 4 < 4 then s.addReserve d r
  else s
/-- RESERVE_BRING_IN (R338, R377). -/
def execReserveBringIn (die kind num date : Nat) (s : State) : Host.Outcome State Fault Refusal :=
  .next (s.bringReserve die kind num date)

end Sys2Proof.Machine
end

