-- ==== Sys2Proof/Machine/Fabric.lean ====
section
/-! DEFINITION. The fabric: links, peer windows, accesses from outside, BAR2, and the migration of a virtual device
(20_fabric.md R391–R411, 17_ordering.md R350). -/
namespace Sys2Proof.Machine

/-! ## Links (R391, R410, R411) -/

/-- A link by its number. -/
def State.link (s : State) (n : Nat) : Link := FMap.get Link.zero s.fab.links n
/-- The state with one link changed. -/
def State.modLink (s : State) (n : Nat) (f : Link → Link) : State :=
  { s with fab := { s.fab with links := FMap.set Link.zero s.fab.links n (f (s.link n)) } }
/-- Whether a number names a link. -/
def linkOk (n : Nat) : Bool := decide (n < 12)

/-- An event of a link counted and reported (R411): 6 it runs on four lanes, 7 it is down, 8 a route is lost. -/
def State.linkEvent (s : State) (kind n : Nat) : State :=
  let k := 64 * kind + n
  { s with fab := { s.fab with linkEvents := FMap.set 0 s.fab.linkEvents k (FMap.get 0 s.fab.linkEvents k + 1) } }.report
    (.link n (kind - 4))

/-- FLIT_REPLAY (R410): the sender replays; programs see only delay. -/
def execFlitReplay (link : Nat) (s : State) : Host.Outcome State Fault Refusal :=
  .next (if linkOk link && (s.link link).up then s.modLink link (fun l => { l with replays := l.replays + 1 }) else s)
/-- LINK_RETRAIN (R410): after 16 replays of one flit in succession the link retrains and its traffic is held. -/
def execLinkRetrain (link : Nat) (s : State) : Host.Outcome State Fault Refusal :=
  .next (if linkOk link && decide (16 ≤ (s.link link).replays) then s.modLink link (fun l => { l with replays := 0, held := true }) else s)

/-- LANE_FAILURE (R410, R411): the spare lane of the direction takes over during a retraining, or the link runs on 4
lanes. -/
def execLaneFailure (link : Nat) (rx : Bool) (date : Nat) (s : State) : Host.Outcome State Fault Refusal :=
  let dir := if rx then 1 else 0
  .next (if !linkOk link then s
    else if (s.link link).spare.getLsbD dir then (s.modLink link (fun l => { l with lanes := 4 })).linkEvent 6 link
    else
      let s := s.modLink link (fun l => { l with spare := l.spare ||| (1#2 <<< dir), held := true })
      (s.addReserve 0 ⟨5, 2 * link + dir, date⟩).report (.link link 1))

/-- LINK_TRAINED (R391, R410): the link is up to a peer; training assigns the part its number and the route table its
neighbours. -/
def execLinkTrained (link peer own : Nat) (routes : List (Nat × Nat)) (s : State) : Host.Outcome State Fault Refusal :=
  .next (if linkOk link && decide (peer ≤ 62) && decide (own ≤ 62) && decide (peer ≠ own) then
      let s := s.modLink link (fun l => { l with up := true, peer := peer, held := false, replays := 0 })
      { s with fab := { s.fab with part := own, routes := FMap.setAll 64 s.fab.routes routes } }
    else s)

/-! ## Accesses from outside (R350, R393, R395, R397) -/

/-- An answer to a requester outside: 0 performed, 1 unmapped, 2 refused, 3 error completion, 4 discarded. -/
def State.outAnswer (s : State) (src status : Nat) (l : List (Byte × Bool)) : State :=
  { s with fab := { s.fab with outAnswers := s.fab.outAnswers ++ [(src, status, l)] } }

/-- What an outside request does, by its low four bits: 0 read, 1 write, 2 atomic, 3 cpyr. -/
def reqKind (k : Nat) : Nat := k % 16
/-- Its operation. -/
def reqOp (k : Nat) : Nat := k / 16 % 16
/-- Its type. -/
def reqTy (k : Nat) : Nat := k / 256 % 16

/-- The bytes that a request touches. -/
def reqLen (kind n : Nat) (data : List Byte) : Nat :=
  match reqKind kind with
  | 0 => n
  | 1 => data.length
  | 2 => tyWidth (reqTy kind) / 8
  | _ => redWidth (reqTy kind) / 8
/-- What a request needs of a page. -/
def reqNeed (kind : Nat) : Need :=
  match reqKind kind with
  | 0 => .read
  | 1 => .write
  | _ => .atomic

/-- An access of device `v` performed for a requester outside, `psn` naming those of its bytes that carry poison: the state and what
it reads, with its poison (R62); or the first failing byte and the kind of fault. -/
def State.outAccess (s : State) (v va kind n : Nat) (data : List Byte) (psn : NSet) :
    Except (Nat × Nat) (State × List (Byte × Bool)) :=
  let num := fun (l : List Byte) (o k : Nat) => leNat (fun j => l.getD j 0) o k
  match reqKind kind with
  | 0 =>
    (match s.readN 4 v va n with
     | .error e => .error e
     | .ok l => .ok (s, l))
  | 1 =>
    (match s.land 4 v va data psn with
     | .error e => .error e
     | .ok s => .ok (s, []))
  | k =>
    let ty := reqTy kind
    let w := reqLen kind n data
    match s.locate 4 v va .atomic, s.readN 4 v va w with
    | .error e, _ => .error (va, e)
    | _, .error e => .error e
    | .ok _, .ok old =>
      let o := leNat (byteAt old) 0 w
      let r := if k = 2 then atomOp (reqOp kind) (8 * w) (tySigned ty) o (num data 0 w) (num data w w)
        else redOp (reqOp kind) ty (8 * w) o (num data 0 w)
      match s.writeN 4 v va (old.any (fun b => b.2) || !psn.isEmpty) (leBytes r w) with
      | .error e => .error e
      | .ok s => .ok (s, old)

/-- The die that holds a byte of a device's memory. -/
def State.homeOf (s : State) (v va : Nat) : Nat :=
  match s.locate 4 v va .read with
  | .ok (.here pa) => paDie pa
  | _ => 0

/-- A migration that leaves, of a device. -/
def State.migOf (s : State) (v : Nat) : Option MigOut := s.fab.migOut.find? (fun m => m.vdev == v)
/-- A migration that arrives, of a device. -/
def State.migTo (s : State) (v : Nat) : Option MigIn := s.fab.migIn.find? (fun m => m.vdev == v)
/-- The state with the leaving migration of a device changed. -/
def State.modOut (s : State) (v : Nat) (f : MigOut → MigOut) : State :=
  { s with fab := { s.fab with migOut := modFirst (fun m => m.vdev == v) f s.fab.migOut } }
/-- The state with the arriving migration of a device changed. -/
def State.modIn (s : State) (v : Nat) (f : MigIn → MigIn) : State :=
  { s with fab := { s.fab with migIn := modFirst (fun m => m.vdev == v) f s.fab.migIn } }

/-- The state of a page at the source (Table 20-5). -/
def MigOut.pageSt (m : MigOut) (page : Nat) : Option PageSt := (m.pages.find? (fun p => p.1 == page)).map (fun p => p.2)

/-- What becomes of a request that arrives for a page: performed, held, or forwarded (R404, R405, R407). -/
inductive Route where | perform | hold | forward
  deriving DecidableEq, Repr
/-- The part that a request comes from. -/
def HeldReq.part (r : HeldReq) : Nat := r.src / 16
/-- The route of a request at the source of a migration (Table 20-5): the requests of one part are forwarded in the order in
which they came, so one behind a held one is held, and so is a read behind a held access of its part to the page (R404). -/
def State.routeAt (s : State) (v : Nat) (m : MigOut) (r : HeldReq) : Route :=
  if r.kind = 4 then (if m.held.any (fun h => h.part == r.part) then .hold else .forward)
  else match m.pageSt (s.pageHead v r.page) with
  | some .leaving => if reqKind r.kind = 0 ∧ !m.held.any (fun h => h.part == r.part && h.page == r.page) then .perform else .hold
  | some .transit => .hold
  | some .gone => if m.held.any (fun h => h.part == r.part) then .hold else .forward
  | _ => .perform
/-- Whether the destination of a migration holds a request (R402, R405, R407): for an absent page, a direct one while a switch
marker of its part is to come, and one behind another of its part and page. -/
def MigIn.holds (m : MigIn) (before : List HeldReq) (r : HeldReq) : Bool :=
  NSet.has m.absent r.page || (!r.fwd && m.markers.any (fun k => k.1 == r.part))
  || before.any (fun h => h.part == r.part && h.page == r.page)
/-- The route of a request for a page of a device. -/
def State.routeOf (s : State) (v : Nat) (r : HeldReq) : Route :=
  match s.migOf v, s.migTo v with
  | some m, _ => s.routeAt v m r
  | none, some m => if m.holds m.held r then .hold else .perform
  | none, none => .perform

/-- A request performed as an access of device `v` and answered; a fault is answered as unmapped, its bytes are charged to
the device's link tokens on the die that holds them (R393), and to its memory there (R333). None where it waits for tokens. -/
def State.peerAccess (s : State) (v : Nat) (r : HeldReq) : Option State :=
  let va := 65536 * r.page + r.off
  let d := s.homeOf v va
  let n := reqLen r.kind r.n r.bytes
  match (s.die d).charge v 2 ((n + 63) / 64) with
  | none => none
  | some x =>
    match (s.modD d (fun _ => x)).charge 4 v [⟨va, n, reqNeed r.kind⟩] with
    | .error _ => none
    | .ok s => some (match s.outAccess v va r.kind r.n r.bytes r.psn with
      | .ok (s, l) => s.outAnswer (0x50 + r.src % 16) 0 l
      | .error _ => s.outAnswer (0x50 + r.src % 16) 1 [])
/-- Held requests of an arriving device served, as far as nothing holds them any more (R404, R407). -/
def State.serveList (s : State) (v : Nat) (m : MigIn) : List HeldReq → List HeldReq → State × List HeldReq
  | left, [] => (s, left)
  | left, r :: l =>
    if m.holds left r then s.serveList v m (left ++ [r]) l
    else match s.peerAccess v r with
    | none => s.serveList v m (left ++ [r]) l
    | some s => s.serveList v m left l
/-- The held requests of an arriving device served: those that its source forwarded before the direct ones (R407). -/
def State.serveHeld (s : State) (v : Nat) : State :=
  match s.migTo v with
  | none => s
  | some m =>
    let r := s.serveList v m [] (m.held.filter (fun r => r.fwd) ++ m.held.filter (fun r => !r.fwd))
    r.1.modIn v (fun m => { m with held := r.2 })
/-- The held requests at a source forwarded as far as their pages have gone, each part's in its order (R404). -/
def State.forwardHeld (s : State) (v : Nat) : State :=
  match s.migOf v with
  | none => s
  | some m =>
    let r := m.held.foldl (fun (a : List HeldReq × List HeldReq) h =>
      let gone := h.kind == 4 || m.pageSt (s.pageHead v h.page) == some .gone
      if gone && !a.1.any (fun x => x.part == h.part) then (a.1, a.2 ++ [h]) else (a.1 ++ [h], a.2)) ([], [])
    s.modOut v (fun m => { m with held := r.1, fwd := m.fwd ++ r.2 })

/-- A request refused: a violation of kind 7 with the link as its source (R393, R337). (DESIGN CHOICE, log 71). -/
def State.refuse (s : State) (link ivdev pos : Nat) : State :=
  (s.violate (link / 3) false 7 ivdev (0x50 + link) (BitVec.ofNat 64 pos)).outAnswer (0x50 + link) 2 []

/-- Whether a request's kind says that the source of a migration forwarded it (R404). (DESIGN CHOICE, log 70). -/
def reqFwd (k : Nat) : Bool := k / 4096 % 2 == 1
/-- A request of a peer part taken (R393): the grant, the translation, the access; none where it waits for tokens. A request names
bytes of one page, and one that goes on past it is refused. -/
def State.peerTry (s : State) (q : PeerReq) : Option State :=
  let n := reqLen q.kind q.n q.data
  match s.fab.grants.find? (fun g => g.ipart == q.ipart && g.ivdev == q.ivdev) with
  | none => some (s.refuse q.link q.ivdev (65536 * q.ppg + q.off))
  | some g =>
    if g.npg ≤ q.ppg ∨ (reqKind q.kind ≠ 0 ∧ !g.w) ∨ (2 ≤ reqKind q.kind ∧ !g.atm) then
      some (s.refuse q.link q.ivdev (65536 * q.ppg + q.off))
    else if 65536 < q.off + n then some (s.refuse q.link q.ivdev (65536 * q.ppg + max q.off 65536))
    else
      let va := g.base + 65536 * q.ppg + q.off
      let r : HeldReq := ⟨pageOf va, q.link + 16 * q.ipart, va % 65536, q.kind % 4096, q.n, q.data, q.psn, reqFwd q.kind⟩
      match s.routeOf g.evdev r with
      | .forward => some (s.modOut g.evdev (fun m => { m with fwd := m.fwd ++ [r] }))
      | .hold =>
        some (if (s.migOf g.evdev).isSome then s.modOut g.evdev (fun m => { m with held := m.held ++ [r] })
          else s.modIn g.evdev (fun m => { m with held := m.held ++ [r] }))
      | .perform => s.peerAccess g.evdev r
/-- A request of a peer part (R393): where it finds no tokens, or others of its link wait, it waits. -/
def State.peerRequest (s : State) (q : PeerReq) : State :=
  if !linkOk q.link || !(s.link q.link).up || decide (3 < reqKind q.kind) then s
  else
    let held := { s with fab := { s.fab with waiting := s.fab.waiting ++ [q] } }
    if s.fab.waiting.any (fun x => x.link == q.link) then held else (s.peerTry q).getD held
/-- PEER_REQUEST (R393, R395, R404). -/
def execPeerRequest (link ipart ivdev ppg off kind n : Nat) (data : ReqData) (s : State) :
    Host.Outcome State Fault Refusal :=
  .next (s.peerRequest ⟨link, ipart, ivdev, ppg, off, kind, n, data.bytes, data.psn⟩)
/-- An arriving migration with nothing left to come is over. -/
def State.endMigIn (s : State) (v : Nat) : State :=
  { s with fab := { s.fab with migIn := s.fab.migIn.filter (fun m =>
      m.vdev != v || !(m.absent.isEmpty && m.markers.isEmpty && m.held.isEmpty)) } }
/-- A switch marker of a part taken (R407): at the source it is forwarded behind every earlier request of its part; at the
destination, with the last marker of a part its direct requests are performed. -/
def State.takeMarker (s : State) (v link peer : Nat) : State :=
  let r : HeldReq := ⟨0, link + 16 * peer, 0, 4, 0, [], [], true⟩
  match s.migOf v with
  | some m =>
    if s.routeAt v m r = .hold then s.modOut v (fun m => { m with held := m.held ++ [r] })
    else s.modOut v (fun m => { m with fwd := m.fwd ++ [r] })
  | none => ((s.modIn v (fun m => { m with markers := m.markers.filter (fun k => k != (peer, link)) })).serveHeld v).endMigIn v
/-- What waits on a link tried again: a request, or a switch marker behind such a one. -/
def State.waitTry (s : State) (q : PeerReq) : Option State :=
  if q.kind = 4 then some (s.takeMarker q.ivdev q.link q.ipart) else s.peerTry q
/-- The requests that wait for tokens tried again, each link's in order. -/
def State.serveWaiting (s : State) : State :=
  let r := s.fab.waiting.foldl (fun (a : State × List PeerReq) q =>
    if a.2.any (fun x => x.link == q.link) then (a.1, a.2 ++ [q])
    else match a.1.waitTry q with
    | none => (a.1, a.2 ++ [q])
    | some s => (s, a.2)) (s, [])
  { r.1 with fab := { r.1.fab with waiting := r.2 } }

/-- The importing part under which a requester's grant stands: 63 for the upstream host, the source number itself for a
root port. -/
def outPart (src : Nat) : Nat := if src = 0x48 then 63 else src
/-- Whether an outside requester has been granted a range of a device. -/
def State.outGranted (s : State) (src v va n : Nat) (w : Bool) : Bool :=
  s.fab.grants.any (fun g => g.ipart == outPart src && g.evdev == v && (g.w || !w) && decide (g.base ≤ va)
    && decide (va + n ≤ g.base + 65536 * g.npg))
/-- Whether a number names a root port or the upstream endpoint. -/
def outSrc (src : Nat) : Bool := decide (0x40 ≤ src) && decide (src ≤ 0x48)

/-- The bytes of an outside access. -/
def OutReq.len (q : OutReq) : Nat := if q.rd = 0 then q.data.length else q.rd
/-- An outside access that fails at a byte: a write is discarded, a read completes with an error; the violation is logged with that
byte as the kind that it is (R337), outside a mapping otherwise. (DESIGN CHOICE, log 71). -/
def State.outBad (s : State) (q : OutReq) (va : Nat) (inside : Bool) : State :=
  let st := if q.rd = 0 then 4 else 3
  let n := if q.rd = 0 then Need.write else Need.read
  match (if inside then s.violOf 4 q.vdev va n else none) with
  | some (phys, k, a) => (s.violate (if phys then paDie a.toNat else 0) phys k 0xFF q.src a).outAnswer q.src st []
  | none => (s.violate 0 false 7 0xFF q.src (BitVec.ofNat 64 va)).outAnswer q.src st []
/-- An outside access inside its mapping made now; none where its page has not come (R402) or its tokens are short (R333). -/
def State.outLand (s : State) (q : OutReq) : Option State :=
  let rq : Req := ⟨q.va, q.len, if q.rd = 0 then .write else .read⟩
  match s.charge 4 q.vdev [rq] with
  | .error _ => none
  | .ok s' =>
    match s'.outAccess q.vdev q.va (if q.rd = 0 then 1 else 0) q.rd q.data [] with
    | .ok (s, l) => some (if q.rd = 0 then s else s.outAnswer q.src 0 l)
    | .error e => if e.2 = 6 then none else some (s.outBad q e.1 (e.2 == 2))
/-- The held accesses of a source made in their order as far as they can be (R350). -/
def State.outFlush (s : State) (src : Nat) : State :=
  let r := s.fab.outHeld.foldl (fun (a : State × List OutReq) q =>
    if q.src ≠ src ∨ a.2.any (fun x => x.src == src) then (a.1, a.2 ++ [q])
    else match a.1.outLand q with
    | none => (a.1, a.2 ++ [q])
    | some s => (s, a.2)) (s, [])
  { r.1 with fab := { r.1.fab with outHeld := r.2 } }
/-- A held access made: one with Relaxed Ordering whenever its page is there, another behind those before it (R350). -/
def State.outRetry (s : State) (k : Nat) : State :=
  match s.fab.outHeld[k]? with
  | none => s
  | some q =>
    if !q.relaxed && (s.fab.outHeld.take k).any (fun x => x.src == q.src) then s
    else ({ s with fab := { s.fab with outHeld := s.fab.outHeld.eraseIdx k } }.outLand q).getD s
/-- An access from outside (R350): a relaxed write may land later; what carries no Relaxed Ordering lands behind every earlier
access of its source, and waits where one of them has to. -/
def State.outReq (s : State) (q : OutReq) : State :=
  let hold := fun (s : State) => { s with fab := { s.fab with outHeld := s.fab.outHeld ++ [q] } }
  if q.relaxed then hold s
  else
    let s := s.outFlush q.src
    if s.fab.outHeld.any (fun x => x.src == q.src) then hold s else (s.outLand q).getD (hold s)

/-- The first byte of an outside access that no grant of its requester covers. -/
def State.outBeyond (s : State) (q : OutReq) : Option Nat :=
  ((List.range q.len).find? (fun k => !s.outGranted q.src q.vdev (q.va + k) 1 (q.rd == 0))).map (fun k => q.va + k)
/-- An outside access of a root port or the host: one that leaves its mapping fails at the first byte outside (R337). -/
def State.outTry (s : State) (q : OutReq) : State :=
  if !outSrc q.src || q.len == 0 then s
  else match s.outBeyond q with
  | some va => s.outBad q va false
  | none => s.outReq q
/-- OUTSIDE_WRITE (R350, R337): a release at .sys in the link's order; outside its mapping it is discarded and logged. -/
def execOutsideWrite (src vdev : Nat) (va : DWord) (data : List Byte) (relaxed : Bool) (s : State) :
    Host.Outcome State Fault Refusal :=
  .next (s.outTry ⟨src, vdev, va.toNat, data, 0, relaxed⟩)
/-- OUTSIDE_READ (R337): performed, or answered with an error completion. -/
def execOutsideRead (src vdev : Nat) (va : DWord) (n : Nat) (s : State) : Host.Outcome State Fault Refusal :=
  .next (s.outTry ⟨src, vdev, va.toNat, [], n, false⟩)

/-- Whether a byte of the BAR2 window may be accessed (R397). -/
def State.bar2Ok (s : State) (a : Nat) (write : Bool) : Bool := s.fab.bar2.any (fun m => m.win == a / 65536 && (m.w || !write))
/-- BAR2_ACCESS (R397): an unmapped page, or a write to one mapped read-only, is a violation of source 0x48. A request of the
host lies within a page of 64 KiB, as PCIe has it. -/
def execBar2Access (win off n : Nat) (op : Bar2Op) (data : List Byte) (s : State) :
    Host.Outcome State Fault Refusal :=
  let a := 65536 * win + off
  let q : OutReq := ⟨0x48, s.fab.bar2Dev, a, data, if op.writes then 0 else n, op.relaxed⟩
  .next (if q.len = 0 then s
    else match (List.range q.len).find? (fun k => !s.bar2Ok (a + k) op.writes || decide ((a + k) / 65536 ≠ a / 65536)) with
    | some k => s.outBad q (a + k) false
    | none =>
      match s.fab.bar2.find? (fun m => m.win == a / 65536) with
      | none => s
      | some m => s.outReq { q with va := 65536 * m.page + a % 65536 })

/-- BAR2_MAPPING_CONFIGURATION (R397): window pages map pages of one device. -/
def execBar2MappingConfiguration (vdev : Nat) (m : Bar2) (s : State) : Host.Outcome State Fault Refusal :=
  let old := if s.fab.bar2Dev = vdev then s.fab.bar2.filter (fun x => x.win != m.win) else []
  .next (if (s.vdev vdev).isNone || decide (65536 ≤ m.win) then s
    else { s with fab := { s.fab with bar2Dev := vdev, bar2 := old ++ [m] } })

/-! ## Peer windows configured (R393, R396) -/

/-- Whether a grant's fields are in range (Table 20-2). -/
def grantOk (g : Grant) : Bool :=
  decide (g.base % 65536 = 0) && decide (1 ≤ g.npg) && decide (g.npg ≤ 262144) && decide (g.base + 65536 * g.npg ≤ 2 ^ 52)
  && decide (g.ivdev ≤ 63) && decide (1 ≤ g.evdev) && decide (g.evdev ≤ 63)
/-- A PEER leaf (Table 20-1). -/
def peerLeaf (part ppg : Nat) (w atm : Bool) : Nat :=
  part * 2 ^ 34 + ppg * 65536 + 32 + (if atm then 8 else 0) + (if w then 4 else 0) + 3
/-- PEER leaves written from a page on. -/
def State.peerLeaves (s : State) (v page : Nat) (g : Grant) (part : Nat) : List Nat → List Nat → Option State
  | [], _ => some s
  | k :: l, tables =>
    match s.putLeaf v (page + k) (peerLeaf part k g.w g.atm) false tables with
    | none => none
    | some (s, tables) => s.peerLeaves v page g part l tables

/-- PEER_WINDOW_CONFIGURATION (R393, R396): on the exporting part (`exp` its number) the grant of a pair, of which there is
at most one; on the importing part the leaves over `va`, and what the window reaches. -/
def execPeerWindowConfiguration (g : Grant) (exp va : Nat) (tables : Frames) (s : State) : Host.Outcome State Fault Refusal :=
  .next (if exp = s.fab.part then
      (if !grantOk g || (s.vdev g.evdev).isNone then s
       else { s with fab := { s.fab with
         grants := s.fab.grants.filter (fun x => !(x.ipart == g.ipart && x.ivdev == g.ivdev)) ++ [g] } })
    else if g.ipart ≠ s.fab.part ∨ va % 65536 ≠ 0 ∨ g.npg = 0 ∨ 262144 < g.npg ∨ 2 ^ 52 < va + 65536 * g.npg
        ∨ (s.vdev g.ivdev).isNone ∨ 63 < exp then s
    else if (s.mapped g.ivdev).any (overlaps (pageOf va) g.npg) then s
    else match s.peerLeaves g.ivdev (pageOf va) g exp (List.range g.npg) tables with
    | none => s
    | some s =>
      { s with fab := { s.fab with
        peers := s.fab.peers.filter (fun p => !(p.part == exp && p.vdev == g.ivdev))
          ++ [⟨exp, g.ivdev, g.npg, g.atm, g.w, g.base, [], [], [], [], true⟩] } })

/-! ## A route lost (R403, R410) -/

/-- The part that an access of a device waits for. -/
def State.farPart (s : State) (v va : Nat) : Option Nat :=
  if s.absentPage v (pageOf va) then (s.migTo v).map (fun m => m.src)
  else match s.walk v va with
  | .ok l => if entPeer l.1 then some (bitsOf l.1 39 34) else none
  | .error _ => none

/-- The fault sources of a workgroup that wait for a part. -/
def State.farSources (s : State) (g part : Nat) : List FaultSrc :=
  let x := s.grp g
  let far := fun (va : Nat) => s.farPart x.vdev va == some part
  let qs := (List.range x.warps.length).flatMap (fun w => (List.range 4).filterMap (fun q =>
    match s.cq ⟨g, w, q⟩, s.entryFault ⟨g, w, q⟩ with
    | e :: _, some (va, _, _) => if far va then some (FaultSrc.queue ⟨g, w, q⟩ e.id) else none
    | _, _ => none))
  let ts := x.liveIds.flatMap (fun u =>
    let t : TRef := ⟨g, u / 32, u % 32⟩
    match (s.thr g (u / 32) (u % 32)).sched with
    | .stalled (.fetch va _) => if far va then [FaultSrc.fetch t] else []
    | .blocked (.queue _) => if (s.slotWanted t).any (fun k => far k.2.2.1) then [FaultSrc.fetch t] else []
    | .stalled (.spanFill m k) => [FaultSrc.span t m k]
    | .stalled (.writeBack _) => (List.range 8).flatMap (fun m => match x.span m with
        | some sp => sp.secs.map (fun k => FaultSrc.span t m k.1)
        | none => [])
    | _ => [])
  qs ++ ts.filter (fun f => match f with
    | .span t m k => (match s.spanFault t m k with
      | some (va, _, _) => far va
      | none => false)
    | _ => true)

/-- Whether every link that could lead to a part has been down for 2,250,000 cc (R403). -/
def State.routeLost (s : State) (part : Nat) : Bool :=
  let n := FMap.get 64 s.fab.routes part
  !s.reachable part && s.fab.links.all (fun l =>
    (l.2.peer != part && l.2.peer != n) || (!l.2.up && decide (l.2.downAt + 2250000 ≤ s.clock)))
/-- Whether accesses of a device to a part take kind 3: the route is lost, or the exporter has not re-pointed its grant
(R409). -/
def State.cutOff (s : State) (v part : Nat) : Bool := s.routeLost part || (s.peer part v).any (fun p => !p.pointed)
/-- ROUTE_TIMEOUT (R403, R410): no route to a part for 2,250,000 cc; the commands that wait for it take kind 3, as do those
that wait for a window whose grant has not been re-pointed (R409). -/
def execRouteTimeout (part : Nat) (s : State) : Host.Outcome State Fault Refusal :=
  let fs := (List.range s.groups.length).flatMap (fun g =>
      if (s.grp g).alive && s.cutOff (s.grp g).vdev part then s.farSources g part else [])
    ++ (s.tasks.filter (fun k => s.cutOff k.vdev part && s.farPart k.vdev k.desc.toNat == some part)).map (fun k => FaultSrc.task k.id)
  let s' := fs.foldl (fun s f => s.engineFault f true) s
  .next (if s.routeLost part then s'.linkEvent 8 part else s')

/-! ## A device leaves (R399–R401, R404) -/

/-- A service request answered after its work is done. -/
def State.answerReq (s : State) (src : ReqSrc) (code : Nat) (res : DWord) : State :=
  match src with
  | .mgmt tag seq _ => s.mgmtReply tag seq res [] []
  | .host tag =>
    let reqs := s.pkg.reqs.filter (fun r => !(r.tag == tag && r.code == code))
    ({ s with pkg := { s.pkg with reqs := reqs } }).hostReply tag res [] []
/-- Whether a request can be answered now. -/
def State.canAnswer (s : State) (src : ReqSrc) : Bool :=
  match src with
  | .mgmt _ _ _ => true
  | .host _ => s.pkg.box.room 1

/-- Whether a device owns a root-port grant or a BAR2 mapping (R399). -/
def State.outsideBound (s : State) (v : Nat) : Bool :=
  s.fab.grants.any (fun g => g.evdev == v && decide (64 ≤ g.ipart)) || (s.fab.bar2Dev == v && !s.fab.bar2.isEmpty)

/-- MIGRATE (R399, phase 1): `accepted` is what the destination answers; the result comes when the move completes. -/
def execMigrate (src : ReqSrc) (vdev dest : Nat) (accepted : Bool) (s : State) : Host.Outcome State Fault Refusal :=
  let ok := fun (q : HostReq) => q.vdev == vdev && (q.words.headD 0).toNat == dest
  .next (s.service src 0x0105 ok (fun s =>
    if (s.migOf vdev).any (fun m => m.req.key == src.key) then .wait s
    else if (s.vdev vdev).isNone || !s.fab.links.any (fun l => l.2.up && l.2.peer == dest) then .done s (sysErr 2) [] []
    else
      let a := 3 + 16 * src.key
      let s := s.enqueue vdev a
      if s.outsideBound vdev || !s.isHead vdev a then .done (s.finishAct vdev a) (sysErr 5) [] []
      else if !accepted then .done (s.finishAct vdev a) (sysErr 3) [] []
      else
      let m : MigOut :=
        { vdev := vdev
          dest := dest
          phase := 1
          pages := []
          held := []
          fwd := []
          shipped := []
          switched := []
          sent := none
          cipher := []
          digest := []
          sig := []
          lost := false
          req := src }
      .wait { s with fab := { s.fab with migOut := s.fab.migOut ++ [m] } }))

/-- MIGRATION_QUIESCE (Table 20-4 phase 2): nothing is admitted, every workgroup is to be saved, every page is Owned. -/
def execMigrationQuiesce (vdev : Nat) (s : State) : Host.Outcome State Fault Refusal :=
  .next (match s.migOf vdev with
    | none => s
    | some m =>
      if 2 < m.phase then s
      else
        let pages := ((s.mapped vdev).filter (fun p => !entPeer p.2.1)).map (fun p => (p.1, PageSt.owned))
        ((s.modV vdev (fun x => { x with quiesced := true })).saveAll vdev).modOut vdev (fun m =>
          { m with phase := 2, pages := if m.phase = 1 then pages else m.pages }))

/-- Whether a call waits for a condition that may not hold yet when its device moves (R168, R389): its launch, its fault, its turn.
The resident system of the source completes every other call before the state is sent, and these when their condition holds
(R408). (DEDUCED, log 69). -/
def Call.mayWait (c : Call) : Bool := [0x001, 0x003, 0x00A, 0x00D].contains c.num
/-- The execution state as it is sent (R401): its outstanding calls are for the resident system of the source to complete (R408). -/
def State.stateSent (s : State) (v : Nat) : ExecState :=
  let st := s.execState v
  { st with calls := st.calls.map (fun c => if c.res.isNone then { c with away := true } else c) }
/-- MIGRATION_SEND (R400, R401, phase 3): the execution state is sent encrypted, with its digest and signature, once every workgroup
is saved and no call is outstanding but those that wait for a condition (R408). -/
def execMigrationSend (vdev : Nat) (s : State) : Host.Outcome State Fault Refusal :=
  .next (match s.migOf vdev with
    | none => s
    | some m =>
      if m.phase ≠ 2 ∨ !s.allSaved vdev ∨ s.calls.any (fun c => c.vdev == vdev && !c.fromHost && c.res.isNone && !c.mayWait) then s
      else
        let s := (s.flushQueues vdev).drainAll
        let st := s.stateSent vdev
        let plain := Config.stateBytes st
        let digest := Config.field 32 (Config.sm3 plain)
        s.modOut vdev (fun m => { m with
          phase := 3
          sent := some st
          cipher := Config.sm4Enc (Config.moveKey s.fab.part m.dest vdev) plain
          digest := digest
          sig := Config.field 64 (Config.sm2Sign digest) }))

/-- The migration of a device over, without the device having moved. -/
def State.stay (s : State) (v : Nat) : State :=
  let a := 3 + 16 * ((s.migOf v).map (fun m => m.req.key)).getD 0
  let s := { s with fab := { s.fab with migOut := s.fab.migOut.filter (fun m => m.vdev != v) } }
  (s.modV v (fun x => { x with quiesced := false })).finishAct v a

/-- A workgroup gone from this part with its device: what it held is free, and its open-span directory entries stay until
their pages leave (R402). -/
def State.depart1 (s : State) (g : Nat) : State :=
  let x := s.grp g
  (s.modG g (fun x => { x.quiet with
    alive := false
    spans := [] })).clearBanks x.vdev x.die x.core
/-- The work of a device gone from this part: it runs on at the destination; its outstanding calls are still to be completed here
(R408). -/
def State.leave (s : State) (v dest : Nat) : State :=
  let s := (s.groupsOf v).foldl (fun s g => s.depart1 g) s
  let owed := (s.calls.filter (fun c => !c.fromHost && c.vdev == v && c.res.isNone)).map (fun c => (dest, v, c))
  { s with
    queues := s.queues.filter (fun q => q.vdev != v)
    launches := s.launches.filter (fun l => l.vdev != v)
    tasks := s.tasks.filter (fun k => k.vdev != v)
    calls := s.calls.filter (fun c => c.fromHost || c.vdev != v)
    images := s.images.filter (fun i => i.vdev != v)
    pkg := { s.pkg with apps := s.pkg.apps.filter (fun a => a.vdev != v) }
    spinners := s.spinners.map (fun (x : Spinner) =>
      if x.vdev = v ∧ x.st = .running then { x with st := .aborted, frames := [], pending := [], lanes := [] } else x)
    dies := s.dies.map (fun (x : Die) => { x with faults := x.faults.filter (fun f => f.vdev != v) })
    fab := { s.fab with peers := s.fab.peers.filter (fun p => p.vdev != v), owed := s.fab.owed ++ owed } }
/-- The condition of an owed call holds at the device's new part: the resident system here completes it and sends its result there
(R408). -/
def State.payCall (s : State) (dest v id : Nat) (res : DWord) : State :=
  let mine := fun (x : Nat × Nat × Call) => x.1 == dest && x.2.1 == v && x.2.2.id == id
  if !s.fab.owed.any mine then s
  else { s with fab := { s.fab with
    owed := s.fab.owed.filter (fun x => !mine x)
    paid := s.fab.paid ++ [(dest, v, id, res)] } }
/-- The completion of an outstanding call comes from the part that its device has left: it is answered from now on like another
(R408, R169). -/
def State.callHome (s : State) (v id : Nat) : State :=
  { s with calls := s.calls.map (fun c => if c.vdev = v ∧ c.id = id then { c with away := false } else c) }

/-- MIGRATION_COMMIT (phase 4, R409): the destination acknowledges, or the device stays and the request fails with −3. On an
exporter, `exp` = (source, destination, new number) re-points the grant of a device that moves between other parts. -/
def execMigrationCommit (vdev : Nat) (ok : Bool) (exp : Option (Nat × Nat × Nat)) (s : State) : Host.Outcome State Fault Refusal :=
  .next (match exp with
    | some (src, dest, v) =>
      let point := fun (g : Grant) => if g.ipart = src ∧ g.ivdev = vdev then { g with ipart := dest, ivdev := v } else g
      if s.fab.grants.any (fun g => g.ipart == src && g.ivdev == vdev) then
        { s with fab := { s.fab with
          grants := (s.fab.grants.filter (fun g => !(g.ipart == dest && g.ivdev == v))).map point } }
      else s
    | none =>
      match s.migOf vdev with
      | none => s
      | some m =>
        if ok then (if m.phase = 3 then (s.leave vdev m.dest).modOut vdev (fun m => { m with phase := 6 }) else s)
        else if 3 < m.phase ∨ !s.canAnswer m.req then s
        else (s.stay vdev).answerReq m.req 0x0105 (sysErr 3))

/-- The image of a page that leaves: bytes as the device reads them, poison, shadow record, directory entries (R402). -/
def State.pageImg (s : State) (v : Nat) (m : Nat × Nat × Bool) : PageImg :=
  let n := pageFrames m.2.2
  let fr := entFrame m.2.1
  { page := m.1
    bytes := (List.range (65536 * n)).map (fun k => (s.readPa v (fr + k)).1)
    poison := (List.range (2048 * n)).filter (fun k => NSet.has s.poison (fr / 32 + k))
    shadow := FMap.get Shadow.zero (s.die (paDie fr)).shadow (fr / 65536)
    spans := (s.die (paDie fr)).spanDir.filter (fun x => x.vdev == v && decide (64 * m.1 ≤ x.sector)
      && decide (x.sector < 64 * (m.1 + n))) }

/-- A page selected by a demand or the push (Table 20-5): it is Leaving, and new writes to it are held.
(DEDUCED, log 69). -/
def State.ship (s : State) (v page : Nat) : State :=
  match s.migOf v with
  | none => s
  | some m =>
    if m.phase ≠ 6 ∨ m.pageSt page ≠ some .owned then s
    else s.modOut v (fun m => { m with pages := m.pages.map (fun p => if p.1 = page then (p.1, PageSt.leaving) else p) })
/-- A Leaving page goes (Table 20-5): every begun write has been performed, its replicas are collapsed and it is In
transit. -/
def State.depart (s : State) (v page : Nat) : State :=
  match s.migOf v, (s.mapped v).find? (fun m => m.1 == page) with
  | some m, some e =>
    if m.pageSt page ≠ some .leaving then s
    else
      let s := s.drainAll
      let img := s.pageImg v e
      (s.dropReplicas v page (pageFrames e.2.2) [0, 1, 2, 3]).modOut v (fun m =>
        { m with
          pages := m.pages.map (fun p => if p.1 = page then (p.1, PageSt.transit) else p)
          shipped := m.shipped ++ [img] })
  | _, _ => s

/-- DEMAND_REQUEST (R402): at the destination a die that waits for an absent page sends for it; at the source
(`arriving`) the page is selected. -/
def execDemandRequest (vdev page die : Nat) (arriving : Bool) (s : State) : Host.Outcome State Fault Refusal :=
  let p := s.pageHead vdev page
  .next (if arriving then s.ship vdev p
    else match s.migTo vdev with
    | none => s
    | some m =>
      if NSet.has m.absent p && decide (FMap.get 0 m.demanded p = 0) && decide (die < 4) then
        s.modIn vdev (fun m => { m with demanded := FMap.set 0 m.demanded p (die + 1) })
      else s)

/-- The next page to push: Owned, of the largest shadow total, the lowest first (R402). -/
def State.nextPush (s : State) (m : MigOut) : Option Nat :=
  let tot := fun (p : Nat) => match (s.mapped m.vdev).find? (fun e => e.1 == p) with
    | some e => (FMap.get Shadow.zero (s.die (paDie (entFrame e.2.1))).shadow (entFrame e.2.1 / 65536)).total
    | none => 0
  ((m.pages.filter (fun p => p.2 == .owned)).foldl (fun (best : Option Nat) p =>
    match best with
    | none => some p.1
    | some b => if tot b < tot p.1 ∨ (tot b = tot p.1 ∧ p.1 < b) then some p.1 else some b) none)
/-- PAGE_PUSH (R402): between demands, the source pushes the next page. -/
def execPagePush (vdev : Nat) (s : State) : Host.Outcome State Fault Refusal :=
  .next (match s.migOf vdev with
    | none => s
    | some m => match s.nextPush m with
      | none => s
      | some p => s.ship vdev p)

/-- The destination has failed after the commit (R409): every region of the device takes a region fault. -/
def State.destFailed (s : State) (v : Nat) : State :=
  match s.migOf v with
  | none => s
  | some m =>
    if m.phase ≠ 6 ∨ m.lost then s
    else
      let rs := (List.range s.regions.length).filter (fun r => (s.regions[r]?).any (fun x => x.vdev == v && x.alive))
      let s := { s with fab := { s.fab with owed := s.fab.owed.filter (fun x => !(x.1 == m.dest && x.2.1 == v)) } }
      (rs.foldl (fun s r => s.faultRegion r true) s).modOut v (fun m => { m with lost := true })
/-- MIGRATION_RELEASE (phase 7): every page has gone and every peer has switched, or the destination has failed (R409); the
device's frames are scrubbed and its resources freed. -/
def execMigrationRelease (vdev : Nat) (s : State) : Host.Outcome State Fault Refusal :=
  .next (match s.migOf vdev with
    | none => s
    | some m =>
      let done := m.pages.all (fun p => p.2 == .gone) && m.held.isEmpty
        && (s.fab.grants.filter (fun g => g.evdev == vdev)).all (fun g => NSet.has m.switched g.ipart)
      if m.phase ≠ 6 ∨ !(done || m.lost) ∨ !s.canAnswer m.req then s
      else
        let s := s.deleteDevice vdev
        let s := { s with fab := { s.fab with migOut := s.fab.migOut.filter (fun x => x.vdev != vdev) } }
        s.answerReq m.req 0x0105 (if m.lost then sysErr 3 else 0))

/-! ## A device arrives (R402, R404–R408) -/

/-- Whether the workgroups of an execution state could all stand in a device at once (R399): each on the first core that takes
it. -/
def State.canTake (s : State) (v : Nat) (l : List Group) : Bool :=
  let cores := (List.range 4).flatMap (fun d => (List.range 64).map (fun c => (d, c)))
  (l.foldl (fun (r : Option State) x =>
    r.bind (fun s => cores.findSome? (fun k => s.tryFit k.1 k.2 ({ x with
      vdev := v
      region := s.rootOf v }, x.warps.map (fun w => w.resumed s.clock))))) (some s)).isSome
/-- What the destination of a migration sets aside (R399): a device of the operator's record, where quadrants, bank groups, blocks
and tiles for every workgroup, a free frame in the same tier for every page, key slots, token settings and application cores can
be had; `frames` and `tables` are the resident system's choice of places. None where one of these cannot be had.
(DEDUCED, log 69). -/
def State.setAside (s : State) (src sdev : Nat) (st : ExecState) (r : List Byte) (root block : Nat) (check : Half)
    (slots frames tables : List Nat) : Option State :=
  let v := recV r
  let need := fun (shelf : Bool) =>
    ((st.maps.filter (fun m => m.peer.isNone && m.shelf == shelf)).map (fun m => pageFrames m.large)).sum
  if s.pkg.stage ≠ 5 ∨ recOp r ≠ 1 ∨ !recOk r ∨ (s.vdev v).isSome ∨ !s.recFits r ∨ !s.rootOk root ∨ !s.slotsOk v slots
      ∨ !s.blockFree v block check ∨ s.freeApps.length < st.apps.length ∨ numAt r 8 4 < need false ∨ numAt r 0xC 4 < need true
      ∨ !noRepeat frames then none
  else
    let s := s.createDevice r root block check slots
    if !s.canTake v (st.groups.map (fun g => g.2)) then none
    else (s.mapPages v 4 st.maps frames tables).map (fun s =>
      { s with fab := { s.fab with reserved := s.fab.reserved ++ [⟨src, sdev, v, none⟩] } })
/-- The destination's answer to a device that asks for a place (R399): it has set aside what it needs, or it refuses and nothing
else changes. -/
def State.reserveFor (s : State) (src sdev : Nat) (st : ExecState) (r : List Byte) (root block : Nat) (check : Half)
    (slots frames tables : List Nat) : State :=
  let o := s.setAside src sdev st r root block check slots frames tables
  let s := o.getD s
  { s with fab := { s.fab with roomAnswers := s.fab.roomAnswers ++ [(src, sdev, o.isSome)] } }
/-- What was reserved for a device given back. -/
def State.unreserve (s : State) (x : Reserved) : State :=
  let s := s.deleteDevice x.vdev
  { s with fab := { s.fab with reserved := s.fab.reserved.filter (fun y => y != x) } }
/-- What was reserved for the devices of a part given back where the commit has not come (R409): the link or the part has failed. -/
def State.discardFrom (s : State) (src : Nat) : State :=
  (s.fab.reserved.filter (fun x => x.src == src && x.state.isNone)).foldl State.unreserve s
/-- Phase 4 at the destination (R400, R409): what came is decrypted, its digest and signature are checked, and it is kept; where one
fails, what was received and reserved is discarded. -/
def State.stateCame (s : State) (src sdev : Nat) (cipher digest sig : List Byte) : State :=
  match s.fab.reserved.find? (fun x => x.src == src && x.sdev == sdev && x.state.isNone) with
  | none => s
  | some x =>
    let plain := Config.sm4Dec (Config.moveKey src s.fab.part sdev) cipher
    if digest = Config.field 32 (Config.sm3 plain) ∧ Config.sm2Valid digest sig then
      { s with fab := { s.fab with reserved := s.fab.reserved.map (fun y => if y = x then { y with state := some plain } else y) } }
    else s.unreserve x

/-- LINK_DOWN (R410): requests for its pages go over the links that remain, or by the route table, once what went over it has
been acknowledged; what was reserved for a device that comes from its peer is given back before the commit (R409). -/
def execLinkDown (link : Nat) (s : State) : Host.Outcome State Fault Refusal :=
  .next (if linkOk link && (s.link link).up then
      ((s.modLink link (fun l => { l with
        up := false
        held := false
        replays := 0
        downAt := s.clock })).linkEvent 7 link).discardFrom (s.link link).peer
    else s)

/-- MIGRATION_RESUME (phases 4 and 5 at the destination): the state whose bytes have passed the checks is put back into the device
reserved for it, with its grants; every page is absent. `marks` are the switch markers to come, `frames` and `tables` the
choice of places. -/
def execMigrationResume (vdev src : Nat) (st : ExecState) (marks : List (Nat × Nat)) (frames tables : Frames) (s : State) :
    Host.Outcome State Fault Refusal :=
  let s0 := (s.mapped vdev).foldl (fun s m => s.unmapPage vdev m) s
  .next (if !s.fab.reserved.any (fun x => x.vdev == vdev && x.src == src && x.state == some (Config.stateBytes st))
      || !noRepeat frames then s
    else match s0.mapPages vdev 4 st.maps frames tables with
    | none => s
    | some s1 =>
      let absent := (st.maps.filter (fun m => m.peer.isNone)).flatMap (fun m =>
        (List.range (pageFrames m.large)).map (fun k => m.page + k))
      let m : MigIn :=
        { vdev := vdev
          src := src
          absent := absent.foldl NSet.add []
          demanded := []
          markers := marks
          held := []
          ren := (List.range st.groups.length).map (fun k => ((st.groups.getD k (0, Group.void)).1, s1.groups.length + k)) }
      let old := s1.rootOf vdev
      let s1 := { s1 with regions := modAt s1.regions old (fun r => { r with alive := false }) }
      let s1 := (s1.restore vdev st).putRoot vdev
      let pair := fun (a b : Grant) => a.ipart == b.ipart && a.ivdev == b.ivdev
      { s1 with fab := { s1.fab with
        reserved := s1.fab.reserved.filter (fun x => x.vdev != vdev)
        grants := s1.fab.grants.filter (fun g => !st.grants.any (pair g)) ++ st.grants.map (fun g => { g with evdev := vdev })
        migIn := s1.fab.migIn ++ [m] } })

/-- A directory entry with the numbers that the workgroups have here; a mark covers those that it covered there, and takes in no
workgroup of this part that comes later (R328, R340). -/
def SpanEnt.moved (e : SpanEnt) (v : Nat) (ren : List (Nat × Nat)) : SpanEnt :=
  let new := fun (g : Nat) => (ren.find? (fun k => k.1 == g)).map (fun k => k.2)
  { e with
    vdev := v
    grp := (new e.grp).getD e.grp
    marks := e.marks.map (fun m => { m with
      by' := (new m.by').getD ((new e.grp).getD e.grp)
      die := 255
      cover := NSet.ofList (m.cover.filterMap new) })
    got := NSet.ofList (e.got.filterMap new) }
/-- The bytes, poison, record and directory entries of an arriving page put into its frame. -/
def State.putImg (s : State) (v fr : Nat) (img : PageImg) (ren : List (Nat × Nat)) : State :=
  let s := (List.range img.bytes.length).foldl (fun s k => s.writePa v (fr + k) (img.bytes.getD k 0) 0xFF .keep) s
  let s := img.poison.foldl (fun s k => s.setPsn (fr + 32 * k) true) s
  (s.modShadow fr (fun _ => img.shadow)).modD (paDie fr) (fun x =>
    (img.spans.filter (fun y => ren.any (fun k => k.1 == y.grp))).foldl (fun x y => x.addSpan (y.moved v ren)) x)
/-- The queues of a device whose descriptors lie in some pages, written with their homes on this part (R408). -/
def State.putDescs (s : State) (v page n : Nat) : State :=
  ((List.range s.queues.length).filter (fun q =>
    (s.queue q).vdev == v && decide (65536 * page ≤ (s.queue q).desc) && decide ((s.queue q).desc < 65536 * (page + n)))).foldl
    (fun s q => s.putDesc q) s

/-- A page that arrives (R402): on the die of its first demander, else on die (page mod 4), in the frame reserved for it or
in another of the tier; what waited for it goes on. -/
def State.arrive (s : State) (v page frame : Nat) (img : PageImg) : State :=
  match s.migTo v, (s.mapped v).find? (fun m => m.1 == page) with
  | some m, some e =>
    let n := pageFrames e.2.2
    let old := entFrame e.2.1
    let d := FMap.get 0 m.demanded page
    let die := if d = 0 then page % 4 else d - 1
    let same := frame == old && paDie old == die
    if !NSet.has m.absent page || decide (img.page ≠ page) || decide (img.bytes.length ≠ 65536 * n)
        || !(same || s.frameOk frame die e.2.2 (paShelf old)) then s
    else
      let s := if same then s
        else match s.leafAddr v page e.2.2 with
        | none => s
        | some la => ((((s.zeroPhys frame (65536 * n)).own frame n v).setEnt la (leafFrame e.2.1 frame)).tinv v page n).freeFrames old n
      let s := s.putImg v frame img m.ren
      let s := s.modIn v (fun m => { m with
        absent := m.absent.filter (fun p => decide (p < page) || decide (page + n ≤ p))
        demanded := FMap.set 0 m.demanded page 0 })
      ((s.putDescs v page n).serveHeld v).endMigIn v
  | _, _ => s

/-- PAGE_ARRIVAL (R404): the page and what came with it at the destination; at the source (no image) its acknowledgement:
the page is Gone and what was held is forwarded. -/
def execPageArrival (vdev page frame : Nat) (img : Option PageImg) (s : State) : Host.Outcome State Fault Refusal :=
  .next (match img with
    | some x => s.arrive vdev page frame x
    | none =>
      match s.migOf vdev with
      | none => s
      | some m =>
        if m.pageSt page ≠ some .transit then s
        else (s.modOut vdev (fun m => { m with
            pages := m.pages.map (fun p => if p.1 = page then (p.1, PageSt.gone) else p) })).forwardHeld vdev)

/-- PEER_SWITCH (R407): on a peer, a switch marker goes out behind the earlier requests on every link that they take to part `src`, direct or by
the route table's neighbour, and the leaves of a device's windows onto `src` name `dest` from now on; at the source, a peer has done so. -/
def execPeerSwitch (vdev peer src dest : Nat) (importer : Bool) (s : State) : Host.Outcome State Fault Refusal :=
  .next (if !importer then s.modOut vdev (fun m => { m with switched := NSet.add m.switched peer })
    else
      let ms := (s.mapped vdev).filter (fun m => entPeer m.2.1 && bitsOf m.2.1 39 34 == src)
      if ms.isEmpty ∨ 62 < dest then s
      else
        let direct := s.linksTo src
        let marks := (if direct.isEmpty then s.linksTo (FMap.get 64 s.fab.routes src) else direct).map (fun k => (k, vdev))
        let s := ms.foldl (fun s m =>
          match s.leafAddr vdev m.1 m.2.2 with
          | none => s
          | some la => (s.setEnt la (m.2.1 - src * 2 ^ 34 + dest * 2 ^ 34)).tinv vdev m.1 (pageFrames m.2.2)) s
        { s with fab := { s.fab with
          markersOut := s.fab.markersOut ++ marks
          peers := s.fab.peers.map (fun (p : Peer) =>
            if p.part = src ∧ p.vdev = vdev then { p with part := dest } else p) } })

/-- SWITCH_MARKER (R407): it comes behind every earlier request of its part on the link, those that wait for tokens among them. -/
def execSwitchMarker (vdev link peer : Nat) (s : State) : Host.Outcome State Fault Refusal :=
  .next (if s.fab.waiting.any (fun x => x.link == link) then
      { s with fab := { s.fab with waiting := s.fab.waiting ++ [⟨link, peer, vdev, 0, 0, 4, 0, [], []⟩] } }
    else s.takeMarker vdev link peer)

end Sys2Proof.Machine
end

