-- ==== Sys2Proof/Machine/Lane.lean ====
section
/-! DEFINITION. Tile operations (09_core_instructions.md R216–R223). The threads of the pack are active, whatever their
guards; every source is read before any destination is written (R201). -/
namespace Sys2Proof.Machine

/-- The tile index of a slot (R181). -/
def Warp.tix (w : Warp) (t : Nat) : Nat := t % w.part
/-- The active threads of a slot's tile, ascending (R181). (DEDUCED, log 16). -/
def Warp.mates (w : Warp) (act : List Nat) (t : Nat) : List Nat := act.filter (fun s => s / w.part == t / w.part)
/-- The mask, by tile index, of some of a tile's threads. -/
def Warp.tileMask (w : Warp) (ts : List Nat) : Nat := natOfBits (fun k => ts.any (fun s => w.tix s == k)) 32

/-- shfl (R216). -/
def laneShfl (i : Ins) (w : Warp) (act : List Nat) (t : Nat) : Res :=
  let x := w.thr t
  let b := x.reg i.b
  let mode := i.mb 0 2
  let pb := !i.imm && b.p
  let n : Int :=
    if i.imm then (if mode = 2 then i.immS else i.immZ)
    else if mode = 2 then b.v.toInt else b.v.toNat
  let k := w.tix t
  let j : Int := match mode with
    | 0 => n
    | 1 => (k + n) % w.part
    | 2 => k + n
    | _ => ((k ^^^ n.toNat : Nat) : Int)
  let j := if w.legacy ∧ 16 ≤ j ∧ j ≤ 31 then j - 16 else j
  let src := t / w.part * w.part + j.toNat
  let ok := decide (0 ≤ j) && decide (j < w.part) && act.contains src
  let v := (w.thr (if ok then src else t)).reg i.a
  let e := Eff.reg i.d ⟨v.v, v.p || pb⟩
  .ok (if i.imm then e else e.and (Eff.pred (i.c % 8) ⟨ok, pb⟩))

/-- vote (R217). -/
def laneVote (i : Ins) (w : Warp) (act : List Nat) (t : Nat) : Res :=
  let ts := w.mates act t
  let src := fun s => (w.thr s).pred (i.a % 8)
  let yes := fun s => (src s).v != i.f.m.getLsbD 2
  let p := ts.any (fun s => (src s).p)
  .ok (match i.mb 0 2 with
    | 0 => Eff.pred (i.d % 8) ⟨ts.all yes, p⟩
    | 1 => Eff.pred (i.d % 8) ⟨ts.any yes, p⟩
    | 2 => Eff.pred (i.d % 8) ⟨ts.all yes || ts.all (fun s => !yes s), p⟩
    | _ =>
      let on := ts.filter yes
      Eff.reg i.d ⟨BitVec.ofNat 32 (if i.f.m.getLsbD 3 then on.length else w.tileMask on), p⟩)

/-- match (R218). -/
def laneMatch (i : Ins) (w : Warp) (act : List Nat) (t : Nat) : Res :=
  let ts := w.mates act t
  let key := fun s => (w.thr s).raw i.w i.a
  let same := ts.filter (fun s => key s == key t)
  let m :=
    if i.f.m.getLsbD 0 then (if same.length = ts.length then w.tileMask ts else 0) else w.tileMask same
  .ok (Eff.reg i.d ⟨BitVec.ofNat 32 m, ts.any (fun s => i.psn (w.thr s))⟩)

/-- One combination of redux and scan (R219): M[10:8] is the type, or the rounding mode. -/
def reduceOp (op ty : Nat) (a b : Nat) : Nat × Exc :=
  let sg := decide (ty = 0)
  match op with
  | 0 => ((a + b) % 2 ^ 32, Exc.none)
  | 1 => (if valOf 32 sg a ≤ valOf 32 sg b then a else b, Exc.none)
  | 2 => (if valOf 32 sg a ≤ valOf 32 sg b then b else a, Exc.none)
  | 3 => (a &&& b, Exc.none)
  | 4 => (a ||| b, Exc.none)
  | 5 => (a ^^^ b, Exc.none)
  | 8 => fp32.sum ty [fp32.decode a, fp32.decode b] [fp32.decode a, fp32.decode b]
  | 9 => (fp32.pick false a b, sigExc [fp32.decode a, fp32.decode b])
  | _ => (fp32.pick true a b, sigExc [fp32.decode a, fp32.decode b])

/-- What an exclusive scan delivers with no predecessor (R221). -/
def reduceId (op ty : Nat) : Nat :=
  match op with
  | 1 => if ty = 0 then 0x7FFFFFFF else 0xFFFFFFFF
  | 2 => if ty = 0 then 0x80000000 else 0
  | 3 => 0xFFFFFFFF
  | 9 => 0x7F800000
  | 10 => 0xFF800000
  | _ => 0

/-- One level of the tree: positions 2k and 2k + 1 into k, an absent partner passes up unchanged (R219). -/
def treeLevel (f : Nat → Nat → Nat × Exc) : List (Option Nat) → List (Option Nat) × Exc
  | a :: b :: l =>
    let r := treeLevel f l
    match a, b with
    | some x, some y => let v := f x y; (some v.1 :: r.1, v.2.or r.2)
    | some x, none => (some x :: r.1, r.2)
    | none, y => (y :: r.1, r.2)
  | l => (l, Exc.none)
/-- The fixed tree of `n` levels. -/
def treeSum (f : Nat → Nat → Nat × Exc) : Nat → List (Option Nat) → Exc → Nat × Exc
  | 0, l, x => (((l.headD none).getD 0), x)
  | n + 1, l, x => let r := treeLevel f l; treeSum f n r.1 (x.or r.2)
/-- Values combined in ascending order. -/
def chain (f : Nat → Nat → Nat × Exc) : List Nat → Nat → Exc → Nat × Exc
  | [], v, x => (v, x)
  | b :: l, v, x => let r := f v b; chain f l r.1 (x.or r.2)
/-- The values of a set combined: fmin and fmax give the value of R130 over the whole set, so a set of one value
is combined with itself (a NaN becomes canonical, a signalling one raises invalid) (R219, R221). -/
def combineAll (op ty : Nat) (a : Nat) (l : List Nat) : Nat × Exc :=
  let r := if op = 9 ∨ op = 10 then reduceOp op ty a a else (a, Exc.none)
  chain (reduceOp op ty) l r.1 r.2

/-- A combined value delivered to one thread. -/
def Ins.deliver (i : Ins) (w : Warp) (t : Nat) (r : Nat × Exc) (p : Bool) : Res :=
  .ok ⟨[(i.d, ⟨BitVec.ofNat 32 r.1, p || r.2.poisons (w.thr t)⟩)], [], r.2.sticky⟩

/-- redux (R219). -/
def laneRedux (i : Ins) (w : Warp) (act : List Nat) (t : Nat) : Res :=
  let ts := w.mates act t
  let f := reduceOp (i.mb 0 4) (i.mb 8 3)
  let src := fun s => ((w.thr s).reg i.a).v.toNat
  let p := ts.any (fun s => i.psn (w.thr s))
  if i.mb 0 4 = 8 then
    let leaves := (List.range w.part).map (fun k => (ts.find? (fun s => w.tix s == k)).map src)
    i.deliver w t (treeSum f (Nat.log2 w.part) leaves Exc.none) p
  else match ts.map src with
    | [] => i.deliver w t (0, Exc.none) p
    | a :: l => i.deliver w t (combineAll (i.mb 0 4) (i.mb 8 3) a l) p

/-- The rank of a value for redix: NaN above every number for max, below for min; −0 below +0 (R220). -/
def redixKey (i : Ins) (x : Nat) : Int :=
  if i.f.m.getLsbD 0 then
    (if (fp32.decode x).isNan then (if i.f.m.getLsbD 1 then -(2 ^ 40 : Int) else 2 ^ 40)
     else if x ≥ 2 ^ 31 then -((x - 2 ^ 31 : Nat) : Int) - 1 else x)
  else valOf 32 (i.mb 8 3 == 0) x
/-- redix (R220). -/
def laneRedix (i : Ins) (w : Warp) (act : List Nat) (t : Nat) : Res :=
  let ts := w.mates act t
  let key := fun s => redixKey i ((w.thr s).reg i.a).v.toNat
  let better := fun (b s : Nat) => if i.f.m.getLsbD 1 then decide (key s < key b) else decide (key s > key b)
  let best := ts.foldl (fun b s => if better b s then s else b) (ts.headD t)
  let p := ts.any (fun s => i.psn (w.thr s))
  .ok ((Eff.reg i.d ⟨((w.thr best).reg i.a).v, p⟩).and (Eff.reg (i.d + 1) ⟨BitVec.ofNat 32 (w.tix best), p⟩))

/-- scan (R221). -/
def laneScan (i : Ins) (w : Warp) (act : List Nat) (t : Nat) : Res :=
  let excl := i.f.m.getLsbD 4
  let ts := (w.mates act t).filter (fun s => if excl then decide (s < t) else decide (s ≤ t))
  match ts.map (fun s => ((w.thr s).reg i.a).v.toNat) with
  | [] => i.deliver w t (reduceId (i.mb 0 4) (i.mb 8 3), Exc.none) false
  | a :: l => i.deliver w t (combineAll (i.mb 0 4) (i.mb 8 3) a l) (ts.any (fun s => i.psn (w.thr s)))

/-- actv (R223). -/
def laneActv (i : Ins) (w : Warp) (act : List Nat) (t : Nat) : Res :=
  let m := if i.f.m.getLsbD 0 then natOfBits (fun k => act.contains k) 32 else w.tileMask (w.mates act t)
  .ok (Eff.reg i.d ⟨BitVec.ofNat 32 m, false⟩)

/-- setpart (R222): the partition of the whole warp, from its next instruction. -/
def State.doSetpart (s : State) (i : Ins) : State :=
  s.once i false (fun s g w _ _ => .done (s.modW g w (fun x => { x with part := i.immZ })))

/-! ## The instructions -/

/-- shfl (R216). -/
def execShfl (f : Fields) (s : State) : Host.Outcome State Fault Refusal :=
  .next (s.lanes (nat .shfl f) (laneShfl (nat .shfl f)))
/-- shfl in Prerin code (R216, R85). -/
def execShflPrerin (p : PFields) (s : State) : Host.Outcome State Fault Refusal :=
  .next (s.lanes (pri .shfl p) (laneShfl (pri .shfl p)))
/-- vote (R217). -/
def execVote (f : Fields) (s : State) : Host.Outcome State Fault Refusal :=
  .next (s.lanes (nat .vote f) (laneVote (nat .vote f)))
/-- vote in Prerin code (R217, R85). -/
def execVotePrerin (p : PFields) (s : State) : Host.Outcome State Fault Refusal :=
  .next (s.lanes (pri .vote p) (laneVote (pri .vote p)))
/-- match (R218). -/
def execMatchk (f : Fields) (s : State) : Host.Outcome State Fault Refusal :=
  .next (s.lanes (nat .matchk f) (laneMatch (nat .matchk f)))
/-- match in Prerin code (R218, R85). -/
def execMatchkPrerin (p : PFields) (s : State) : Host.Outcome State Fault Refusal :=
  .next (s.lanes (pri .matchk p) (laneMatch (pri .matchk p)))
/-- redux (R219). -/
def execRedux (f : Fields) (s : State) : Host.Outcome State Fault Refusal :=
  .next (s.lanes (nat .redux f) (laneRedux (nat .redux f)))
/-- redux in Prerin code (R219, R85). -/
def execReduxPrerin (p : PFields) (s : State) : Host.Outcome State Fault Refusal :=
  .next (s.lanes (pri .redux p) (laneRedux (pri .redux p)))
/-- redix (R220). -/
def execRedix (f : Fields) (s : State) : Host.Outcome State Fault Refusal :=
  .next (s.lanes (nat .redix f) (laneRedix (nat .redix f)))
/-- redix in Prerin code (R220, R85). -/
def execRedixPrerin (p : PFields) (s : State) : Host.Outcome State Fault Refusal :=
  .next (s.lanes (pri .redix p) (laneRedix (pri .redix p)))
/-- scan (R221). -/
def execScan (f : Fields) (s : State) : Host.Outcome State Fault Refusal :=
  .next (s.lanes (nat .scan f) (laneScan (nat .scan f)))
/-- scan in Prerin code (R221, R85). -/
def execScanPrerin (p : PFields) (s : State) : Host.Outcome State Fault Refusal :=
  .next (s.lanes (pri .scan p) (laneScan (pri .scan p)))
/-- setpart (R222). -/
def execSetpart (f : Fields) (s : State) : Host.Outcome State Fault Refusal :=
  .next (s.doSetpart (nat .setpart f))
/-- setpart in Prerin code (R222, R85). -/
def execSetpartPrerin (p : PFields) (s : State) : Host.Outcome State Fault Refusal :=
  .next (s.doSetpart (pri .setpart p))
/-- actv (R223). -/
def execActv (f : Fields) (s : State) : Host.Outcome State Fault Refusal :=
  .next (s.lanes (nat .actv f) (laneActv (nat .actv f)))
/-- actv in Prerin code (R223, R85). -/
def execActvPrerin (p : PFields) (s : State) : Host.Outcome State Fault Refusal :=
  .next (s.lanes (pri .actv p) (laneActv (pri .actv p)))

end Sys2Proof.Machine
end

