-- ==== Sys2Proof/Machine/PackageUnit.lean ====
section
/-! DEFINITION. Boot, the mailbox registers, and the protection against heat (18_package.md R380, R386, 20_fabric.md R397,
R398). -/
namespace Sys2Proof.Machine

/-- The package changed. -/
def State.modPkg (s : State) (f : Package → Package) : State := { s with pkg := f s.pkg }

/-- Reserve mapped from fused and recorded failures (R380 stage 4, R22, R338). -/
def State.mapFused (s : State) : State := s.pkg.fused.foldl (fun s f => s.bringReserve f.1 f.2.kind f.2.num f.2.date) s
/-- A boot failure reported at the management port; BIRQ is set and raises an MSI-X message (R380, R397). -/
def State.bootFailed (s : State) (k : Nat) : State :=
  (s.modPkg (fun p => { p with
    bootFail := k
    box := { p.box with birq := true }
    msix := p.msix ++ [1] })).report (.bootFail k)
/-- Boot stage `k`, where the stage before it has been reached (Table 18-10). -/
def State.bootStage (s : State) (fails : List Nat) (k : Nat) : State :=
  let reach := fun (s : State) => s.modPkg (fun p => { p with stage := k })
  if s.pkg.stage + 1 ≠ k then s
  else if fails.contains k then (if k = 3 then reach (s.bootFailed k) else s.bootFailed k)
  else reach (if k = 4 then s.mapFused else s)
/-- BOOT (R380, Table 18-10): every stage in order; `fails` are the stages that fail. One that fails stops the boot, but for
stage 3, which leaves a link or a port down. -/
def execBoot (fails : List Nat) (s : State) : Host.Outcome State Fault Refusal :=
  .next (if s.pkg.stage ≠ 0 ∨ s.pkg.bootFail ≠ 0 then s else [1, 2, 3, 4, 5].foldl (fun s k => s.bootStage fails k) s)

/-- THERMAL_THROTTLE (R386): issue cycles are skipped; what programs compute is the same. -/
def execThermalThrottle (s : State) : Host.Outcome State Fault Refusal := .next (s.modPkg (fun p => { p with throttled := true }))

/-- THERMAL_SHUTDOWN (R386): every device is checkpointed where the safe tier is present, then the part stops and reports. -/
def execThermalShutdown (safe : Bool) (s : State) : Host.Outcome State Fault Refusal :=
  let r := if safe then s.ckptAll else (s, true)
  .next (if r.2 && !s.pkg.stopped then (r.1.modPkg (fun p => { p with stopped := true })).report .stopped else r.1)

/-- The low or the high word of a register replaced. -/
def putHalf (x : DWord) (high : Bool) (v : Word) : DWord :=
  if high then v ++ x.extractLsb' 0 32 else x.extractLsb' 32 32 ++ v
/-- A write to a mailbox register without behaviour of its own (Table 20-3); read-only and reserved ones discard it. -/
def Mailbox.write (b : Mailbox) (off : Nat) (v : Word) : Mailbox :=
  match off with
  | 0x08 => { b with qbase := putHalf b.qbase false v }
  | 0x0C => { b with qbase := putHalf b.qbase true v }
  | 0x10 => { b with qlog := v }
  | 0x20 => { b with pbase := putHalf b.pbase false v }
  | 0x24 => { b with pbase := putHalf b.pbase true v }
  | 0x28 => { b with plog := v }
  | 0x30 => { b with phead := v }
  | 0x34 => { b with birq := b.birq && !v.getLsbD 1, rirq := b.rirq && !v.getLsbD 0 }
  | _ => b
/-- REGISTER_WRITE (R397). -/
def execRegisterWrite (off : Nat) (v : Word) (s : State) : Host.Outcome State Fault Refusal :=
  .next (s.modPkg (fun p => { p with box := p.box.write off v }))

/-- What a mailbox register reads as (Table 20-3). -/
def Package.register (p : Package) (off : Nat) : Word :=
  let b := p.box
  match off with
  | 0x00 => 1
  | 0x04 => BitVec.ofNat 32 (p.bootFail * 256 + p.stage)
  | 0x08 => b.qbase.extractLsb' 0 32
  | 0x0C => b.qbase.extractLsb' 32 32
  | 0x10 => b.qlog
  | 0x14 => b.qtail
  | 0x18 => b.qhead
  | 0x20 => b.pbase.extractLsb' 0 32
  | 0x24 => b.pbase.extractLsb' 32 32
  | 0x28 => b.plog
  | 0x2C => b.ptail
  | 0x30 => b.phead
  | 0x34 => (if b.birq then 2 else 0) ||| (if b.rirq then 1 else 0)
  | _ => 0

/-- A word of the request at a ring index. -/
def State.reqWord (s : State) (ix : Word) (k : Nat) : Word :=
  let b := s.pkg.box
  let a := b.qbase.toNat + 64 * (ix.toNat % 2 ^ b.qlog.toNat) + 4 * k
  BitVec.ofNat 32 (leNat s.hostByte a 4)

/-- A request for a service action takes its place among the actions of the device it names (R375): a configuration record that
changes, resets or deletes one, or MIGRATE. -/
def State.reqAction (s : State) (tag code v : Nat) (args : List Word) : State :=
  let a := (args.getD 1 0 ++ args.getD 0 0 : DWord).toNat
  let kind := match (s.hostByte (a + 2)).toNat with
    | 2 => 4
    | 3 => 1
    | 4 => 6
    | _ => 0
  if code = 0x0105 then s.enqueue v (3 + 16 * (ReqSrc.host tag).key)
  else if code = 0x0100 ∧ kind ≠ 0 then s.enqueue (s.hostByte a).toNat (kind + 16 * (ReqSrc.host tag).key)
  else s

/-- One request read from the host's ring (R398): a system call begins; a service request waits for its service; an entry
that breaks R398 is answered −2. (DEDUCED, log 64). -/
def State.readReq (s : State) (ix : Word) : State :=
  let w := s.reqWord ix
  let code := (w 0).toNat % 65536
  let tag := (w 0).toNat / 65536
  let v := (w 1).toNat
  let args := (List.range 8).map (fun k => w (2 + k))
  let bad := v = 0 ∨ 63 < v ∨ (List.range 6).any (fun k => w (10 + k) != 0)
  if bad ∨ (code ≤ 0x00E ∧ (s.vdev v).isNone) then
    let (s, id) := s.newId
    s.addCall ⟨id, .host v tag, v, code, args, some (sysErr 2), false⟩
  else if code ≤ 0x00E then
    let (s, id) := s.newId
    s.addCall ⟨id, .host v tag, v, code, args, none, false⟩
  else (s.modPkg (fun p => { p with reqs := p.reqs ++ [⟨tag, code, v, args⟩] })).reqAction tag code v args

/-- Requests read from QHEAD on. -/
def State.readReqs (s : State) : Nat → State
  | 0 => s
  | n + 1 =>
    let b := s.pkg.box
    if b.qhead = b.qtail then s
    else ((s.readReq b.qhead).modPkg (fun p => { p with box := { p.box with qhead := b.qhead + 1 } })).readReqs n

/-- Whether the mailbox reads requests (R397). -/
def Mailbox.reads (b : Mailbox) : Bool :=
  decide (4 ≤ b.qlog.toNat) && decide (b.qlog.toNat ≤ 12) && decide (4 ≤ b.plog.toNat) && decide (b.plog.toNat ≤ 12)
/-- QTAIL (R397, R398): the resident system reads every request up to the new tail. -/
def execQtail (v : Word) (s : State) : Host.Outcome State Fault Refusal :=
  let s := s.modPkg (fun p => { p with box := { p.box with qtail := v } })
  .next (if s.pkg.stage = 5 && s.pkg.box.reads then s.readReqs 4096 else s)

end Sys2Proof.Machine
end

