-- ==== Sys2Proof/Machine/Dispatch.lean ====
section
/-! DEFINITION. The meaning of every instruction: one arm per constructor, each one direct call. -/
namespace Sys2Proof.Machine

def exec (i : Instr) (s : State) : Host.Outcome State Fault Refusal :=
  match i with
  | .ill w => Sys2Proof.Machine.execIll w s
  | .mov f => Sys2Proof.Machine.execMov f s
  | .movh f => Sys2Proof.Machine.execMovh f s
  | .add f => Sys2Proof.Machine.execAdd f s
  | .sub f => Sys2Proof.Machine.execSub f s
  | .addx f => Sys2Proof.Machine.execAddx f s
  | .subx f => Sys2Proof.Machine.execSubx f s
  | .mul f => Sys2Proof.Machine.execMul f s
  | .mulhi f => Sys2Proof.Machine.execMulhi f s
  | .mad f => Sys2Proof.Machine.execMad f s
  | .madhi f => Sys2Proof.Machine.execMadhi f s
  | .mulw f => Sys2Proof.Machine.execMulw f s
  | .madw f => Sys2Proof.Machine.execMadw f s
  | .min f => Sys2Proof.Machine.execMin f s
  | .max f => Sys2Proof.Machine.execMax f s
  | .abs f => Sys2Proof.Machine.execAbs f s
  | .and f => Sys2Proof.Machine.execAnd f s
  | .or f => Sys2Proof.Machine.execOr f s
  | .xor f => Sys2Proof.Machine.execXor f s
  | .andn f => Sys2Proof.Machine.execAndn f s
  | .lop3 f => Sys2Proof.Machine.execLop3 f s
  | .shl f => Sys2Proof.Machine.execShl f s
  | .shr f => Sys2Proof.Machine.execShr f s
  | .sar f => Sys2Proof.Machine.execSar f s
  | .rot f => Sys2Proof.Machine.execRot f s
  | .fsh f => Sys2Proof.Machine.execFsh f s
  | .bfx f => Sys2Proof.Machine.execBfx f s
  | .bfi f => Sys2Proof.Machine.execBfi f s
  | .popc f => Sys2Proof.Machine.execPopc f s
  | .clz f => Sys2Proof.Machine.execClz f s
  | .ctz f => Sys2Proof.Machine.execCtz f s
  | .brev f => Sys2Proof.Machine.execBrev f s
  | .bperm f => Sys2Proof.Machine.execBperm f s
  | .sel f => Sys2Proof.Machine.execSel f s
  | .cmp f => Sys2Proof.Machine.execCmp f s
  | .lea f => Sys2Proof.Machine.execLea f s
  | .sad f => Sys2Proof.Machine.execSad f s
  | .dot4 f => Sys2Proof.Machine.execDot4 f s
  | .dot2 f => Sys2Proof.Machine.execDot2 f s
  | .vadd2 f => Sys2Proof.Machine.execVadd2 f s
  | .vsub2 f => Sys2Proof.Machine.execVsub2 f s
  | .vmax2 f => Sys2Proof.Machine.execVmax2 f s
  | .vmin2 f => Sys2Proof.Machine.execVmin2 f s
  | .plop f => Sys2Proof.Machine.execPlop f s
  | .pmov f => Sys2Proof.Machine.execPmov f s
  | .fadd f => Sys2Proof.Machine.execFadd f s
  | .fsub f => Sys2Proof.Machine.execFsub f s
  | .fmul f => Sys2Proof.Machine.execFmul f s
  | .ffma f => Sys2Proof.Machine.execFfma f s
  | .fmin f => Sys2Proof.Machine.execFmin f s
  | .fmax f => Sys2Proof.Machine.execFmax f s
  | .fcmp f => Sys2Proof.Machine.execFcmp f s
  | .fclamp f => Sys2Proof.Machine.execFclamp f s
  | .frnd f => Sys2Proof.Machine.execFrnd f s
  | .hadd2 f => Sys2Proof.Machine.execHadd2 f s
  | .hmul2 f => Sys2Proof.Machine.execHmul2 f s
  | .hfma2 f => Sys2Proof.Machine.execHfma2 f s
  | .hmin2 f => Sys2Proof.Machine.execHmin2 f s
  | .hmax2 f => Sys2Proof.Machine.execHmax2 f s
  | .hcmp2 f => Sys2Proof.Machine.execHcmp2 f s
  | .fdot2 f => Sys2Proof.Machine.execFdot2 f s
  | .cvt f => Sys2Proof.Machine.execCvt f s
  | .cvtpk f => Sys2Proof.Machine.execCvtpk f s
  | .unpk f => Sys2Proof.Machine.execUnpk f s
  | .q4enc f => Sys2Proof.Machine.execQ4enc f s
  | .q4dec f => Sys2Proof.Machine.execQ4dec f s
  | .frcp f => Sys2Proof.Machine.execFrcp f s
  | .frsq f => Sys2Proof.Machine.execFrsq f s
  | .fsqrt f => Sys2Proof.Machine.execFsqrt f s
  | .fex2 f => Sys2Proof.Machine.execFex2 f s
  | .flg2 f => Sys2Proof.Machine.execFlg2 f s
  | .fsin f => Sys2Proof.Machine.execFsin f s
  | .fcos f => Sys2Proof.Machine.execFcos f s
  | .ftanh f => Sys2Proof.Machine.execFtanh f s
  | .fact f => Sys2Proof.Machine.execFact f s
  | .atld f => Sys2Proof.Machine.execAtld f s
  | .atsel f => Sys2Proof.Machine.execAtsel f s
  | .shfl f => Sys2Proof.Machine.execShfl f s
  | .vote f => Sys2Proof.Machine.execVote f s
  | .matchk f => Sys2Proof.Machine.execMatchk f s
  | .redux f => Sys2Proof.Machine.execRedux f s
  | .redix f => Sys2Proof.Machine.execRedix f s
  | .scan f => Sys2Proof.Machine.execScan f s
  | .setpart f => Sys2Proof.Machine.execSetpart f s
  | .actv f => Sys2Proof.Machine.execActv f s
  | .lds f => Sys2Proof.Machine.execLds f s
  | .sts f => Sys2Proof.Machine.execSts f s
  | .ldsa f => Sys2Proof.Machine.execLdsa f s
  | .stsr f => Sys2Proof.Machine.execStsr f s
  | .atms f => Sys2Proof.Machine.execAtms f s
  | .ldw f => Sys2Proof.Machine.execLdw f s
  | .fence f => Sys2Proof.Machine.execFence f s
  | .bar f => Sys2Proof.Machine.execBar f s
  | .xbarInit f => Sys2Proof.Machine.execXbarInit f s
  | .xbarArrive f => Sys2Proof.Machine.execXbarArrive f s
  | .xbarWait f => Sys2Proof.Machine.execXbarWait f s
  | .xbarInval f => Sys2Proof.Machine.execXbarInval f s
  | .cpy f => Sys2Proof.Machine.execCpy f s
  | .cpyg f => Sys2Proof.Machine.execCpyg f s
  | .cpys f => Sys2Proof.Machine.execCpys f s
  | .cpyr f => Sys2Proof.Machine.execCpyr f s
  | .ldg f => Sys2Proof.Machine.execLdg f s
  | .stg f => Sys2Proof.Machine.execStg f s
  | .atmg f => Sys2Proof.Machine.execAtmg f s
  | .cqjoin f => Sys2Proof.Machine.execCqjoin f s
  | .smap f => Sys2Proof.Machine.execSmap f s
  | .ssync f => Sys2Proof.Machine.execSsync f s
  | .sinv f => Sys2Proof.Machine.execSinv f s
  | .sclose f => Sys2Proof.Machine.execSclose f s
  | .pref f => Sys2Proof.Machine.execPref f s
  | .hld f => Sys2Proof.Machine.execHld f s
  | .hst f => Sys2Proof.Machine.execHst f s
  | .hset f => Sys2Proof.Machine.execHset f s
  | .hget f => Sys2Proof.Machine.execHget f s
  | .hcpy f => Sys2Proof.Machine.execHcpy f s
  | .hadv f => Sys2Proof.Machine.execHadv f s
  | .mclr f => Sys2Proof.Machine.execMclr f s
  | .mtile f => Sys2Proof.Machine.execMtile f s
  | .mcvt f => Sys2Proof.Machine.execMcvt f s
  | .mld f => Sys2Proof.Machine.execMld f s
  | .mexp f => Sys2Proof.Machine.execMexp f s
  | .mstat f => Sys2Proof.Machine.execMstat f s
  | .mfmt f => Sys2Proof.Machine.execMfmt f s
  | .tspawn f => Sys2Proof.Machine.execTspawn f s
  | .qrsv f => Sys2Proof.Machine.execQrsv f s
  | .qenq f => Sys2Proof.Machine.execQenq f s
  | .qdeq f => Sys2Proof.Machine.execQdeq f s
  | .qtry f => Sys2Proof.Machine.execQtry f s
  | .qsteal f => Sys2Proof.Machine.execQsteal f s
  | .qerr f => Sys2Proof.Machine.execQerr f s
  | .qrest f => Sys2Proof.Machine.execQrest f s
  | .qstat f => Sys2Proof.Machine.execQstat f s
  | .succ f => Sys2Proof.Machine.execSucc f s
  | .wvis f => Sys2Proof.Machine.execWvis f s
  | .rsurr f => Sys2Proof.Machine.execRsurr f s
  | .rclaim f => Sys2Proof.Machine.execRclaim f s
  | .rstart f => Sys2Proof.Machine.execRstart f s
  | .rchild f => Sys2Proof.Machine.execRchild f s
  | .rdone f => Sys2Proof.Machine.execRdone f s
  | .rret f => Sys2Proof.Machine.execRret f s
  | .rres f => Sys2Proof.Machine.execRres f s
  | .rinfo f => Sys2Proof.Machine.execRinfo f s
  | .rbase f => Sys2Proof.Machine.execRbase f s
  | .rabort f => Sys2Proof.Machine.execRabort f s
  | .bra f => Sys2Proof.Machine.execBra f s
  | .brx f => Sys2Proof.Machine.execBrx f s
  | .call f => Sys2Proof.Machine.execCall f s
  | .callx f => Sys2Proof.Machine.execCallx f s
  | .ret f => Sys2Proof.Machine.execRet f s
  | .exit f => Sys2Proof.Machine.execExit f s
  | .yield f => Sys2Proof.Machine.execYield f s
  | .nop f => Sys2Proof.Machine.execNop f s
  | .trap f => Sys2Proof.Machine.execTrap f s
  | .tret f => Sys2Proof.Machine.execTret f s
  | .sysc f => Sys2Proof.Machine.execSysc f s
  | .srd f => Sys2Proof.Machine.execSrd f s
  | .swr f => Sys2Proof.Machine.execSwr f s
  | .bkpt f => Sys2Proof.Machine.execBkpt f s
  | .ackn f => Sys2Proof.Machine.execAckn f s
  | .wflg f => Sys2Proof.Machine.execWflg f s
  | .pWord upper lower => Sys2Proof.Machine.execPWord upper lower s
  | .clauseBoundary h => Sys2Proof.Machine.execClauseBoundary h s
  | .demotionExpiry t => Sys2Proof.Machine.execDemotionExpiry t s
  | .starvationPromotion t => Sys2Proof.Machine.execStarvationPromotion t s
  | .queueEntryBegin q => Sys2Proof.Machine.execQueueEntryBegin q s
  | .commandRetire q => Sys2Proof.Machine.execCommandRetire q s
  | .copyCredit q n => Sys2Proof.Machine.execCopyCredit q n s
  | .barrierWake g => Sys2Proof.Machine.execBarrierWake g s
  | .spanFill g m sec => Sys2Proof.Machine.execSpanFill g m sec s
  | .spanWriteBack g who => Sys2Proof.Machine.execSpanWriteBack g who s
  | .bankWrite die core bank => Sys2Proof.Machine.execBankWrite die core bank s
  | .chaserStep die core quad => Sys2Proof.Machine.execChaserStep die core quad s
  | .preEmptionRequest die core region ls blocks sbg => Sys2Proof.Machine.execPreEmptionRequest die core region ls blocks sbg s
  | .foldComplete g w => Sys2Proof.Machine.execFoldComplete g w s
  | .expansion g => Sys2Proof.Machine.execExpansion g s
  | .expansionRefill g w => Sys2Proof.Machine.execExpansionRefill g w s
  | .reachBufferFill g w blk => Sys2Proof.Machine.execReachBufferFill g w blk s
  | .spilledUnitAccess g w => Sys2Proof.Machine.execSpilledUnitAccess g w s
  | .fullSaveRequest g => Sys2Proof.Machine.execFullSaveRequest g s
  | .draining g => Sys2Proof.Machine.execDraining g s
  | .forcedSave g => Sys2Proof.Machine.execForcedSave g s
  | .drainComplete g => Sys2Proof.Machine.execDrainComplete g s
  | .saveWritten g => Sys2Proof.Machine.execSaveWritten g s
  | .resume g die core units => Sys2Proof.Machine.execResume g die core units s
  | .engineFault src => Sys2Proof.Machine.execEngineFault src s
  | .softError e die core unc => Sys2Proof.Machine.execSoftError e die core unc s
  | .coreHardFailure die core => Sys2Proof.Machine.execCoreHardFailure die core s
  | .clusterFailure e => Sys2Proof.Machine.execClusterFailure e s
  | .dieSoftError die e unc => Sys2Proof.Machine.execDieSoftError die e unc s
  | .gangPlacement launch die core units => Sys2Proof.Machine.execGangPlacement launch die core units s
  | .waveFormation die cl core task units => Sys2Proof.Machine.execWaveFormation die cl core task units s
  | .slotHeaderWrite q => Sys2Proof.Machine.execSlotHeaderWrite q s
  | .queueService q => Sys2Proof.Machine.execQueueService q s
  | .laneWorkgroupPlacement n die core units => Sys2Proof.Machine.execLaneWorkgroupPlacement n die core units s
  | .icinv die w0 w1 w2 w3 => Sys2Proof.Machine.execIcinv die w0 w1 w2 w3 s
  | .icinvall die w0 w1 w2 w3 => Sys2Proof.Machine.execIcinvall die w0 w1 w2 w3 s
  | .tinv die w0 w1 w2 w3 => Sys2Proof.Machine.execTinv die w0 w1 w2 w3 s
  | .tinvall die w0 w1 w2 w3 => Sys2Proof.Machine.execTinvall die w0 w1 w2 w3 s
  | .keyload die w0 w1 w2 w3 => Sys2Proof.Machine.execKeyload die w0 w1 w2 w3 s
  | .keydisc die w0 w1 w2 w3 => Sys2Proof.Machine.execKeydisc die w0 w1 w2 w3 s
  | .scrub die w0 w1 w2 w3 => Sys2Proof.Machine.execScrub die w0 w1 w2 w3 s
  | .frestart die w0 w1 w2 w3 => Sys2Proof.Machine.execFrestart die w0 w1 w2 w3 s
  | .fkill die w0 w1 w2 w3 => Sys2Proof.Machine.execFkill die w0 w1 w2 w3 s
  | .unknownDieCommand die w0 w1 w2 w3 => Sys2Proof.Machine.execUnknownDieCommand die w0 w1 w2 w3 s
  | .epochEnd die vdev queued => Sys2Proof.Machine.execEpochEnd die vdev queued s
  | .pageMove die vdev page act target frame => Sys2Proof.Machine.execPageMove die vdev page act target frame s
  | .replicaCommit q => Sys2Proof.Machine.execReplicaCommit q s
  | .tokenPeriod die => Sys2Proof.Machine.execTokenPeriod die s
  | .version c => Sys2Proof.Machine.execVersion c s
  | .launch c => Sys2Proof.Machine.execLaunch c s
  | .lstat c => Sys2Proof.Machine.execLstat c s
  | .lwait c => Sys2Proof.Machine.execLwait c s
  | .qopen c check => Sys2Proof.Machine.execQopen c check s
  | .qclose c => Sys2Proof.Machine.execQclose c s
  | .mmap c frames tables => Sys2Proof.Machine.execMmap c frames tables s
  | .munmap c => Sys2Proof.Machine.execMunmap c s
  | .rcreate c addr check => Sys2Proof.Machine.execRcreate c addr check s
  | .rdestroy c => Sys2Proof.Machine.execRdestroy c s
  | .fwait c => Sys2Proof.Machine.execFwait c s
  | .fresolve c => Sys2Proof.Machine.execFresolve c s
  | .log c => Sys2Proof.Machine.execLog c s
  | .ckpt c => Sys2Proof.Machine.execCkpt c s
  | .resync c => Sys2Proof.Machine.execResync c s
  | .unassignedSyscall c => Sys2Proof.Machine.execUnassignedSyscall c s
  | .syscallReply c => Sys2Proof.Machine.execSyscallReply c s
  | .imageLoad vdev image place => Sys2Proof.Machine.execImageLoad vdev image place s
  | .functionSwap img func code => Sys2Proof.Machine.execFunctionSwap img func code s
  | .sliceEnd die core quad => Sys2Proof.Machine.execSliceEnd die core quad s
  | .vconfCreate src record root block check slots => Sys2Proof.Machine.execVconfCreate src record root block check slots s
  | .vconfChange src record => Sys2Proof.Machine.execVconfChange src record s
  | .vconfReset src record => Sys2Proof.Machine.execVconfReset src record s
  | .vconfDelete src record => Sys2Proof.Machine.execVconfDelete src record s
  | .resyncService src => Sys2Proof.Machine.execResyncService src s
  | .attest src vdev nonce => Sys2Proof.Machine.execAttest src vdev nonce s
  | .rstat src => Sys2Proof.Machine.execRstat src s
  | .pcap src w => Sys2Proof.Machine.execPcap src w s
  | .migrate src vdev dest accepted => Sys2Proof.Machine.execMigrate src vdev dest accepted s
  | .unknownServiceCode src code => Sys2Proof.Machine.execUnknownServiceCode src code s
  | .qtail v => Sys2Proof.Machine.execQtail v s
  | .registerWrite off v => Sys2Proof.Machine.execRegisterWrite off v s
  | .boot fails => Sys2Proof.Machine.execBoot fails s
  | .reserveBringIn die kind num date => Sys2Proof.Machine.execReserveBringIn die kind num date s
  | .thermalThrottle => Sys2Proof.Machine.execThermalThrottle s
  | .thermalShutdown safe => Sys2Proof.Machine.execThermalShutdown safe s
  | .peerRequest link ipart ivdev ppg off kind n data => Sys2Proof.Machine.execPeerRequest link ipart ivdev ppg off kind n data s
  | .outsideWrite src vdev va data relaxed => Sys2Proof.Machine.execOutsideWrite src vdev va data relaxed s
  | .bar2Access win off n op data => Sys2Proof.Machine.execBar2Access win off n op data s
  | .flitReplay link => Sys2Proof.Machine.execFlitReplay link s
  | .linkRetrain link => Sys2Proof.Machine.execLinkRetrain link s
  | .laneFailure link rx date => Sys2Proof.Machine.execLaneFailure link rx date s
  | .linkDown link => Sys2Proof.Machine.execLinkDown link s
  | .routeTimeout part => Sys2Proof.Machine.execRouteTimeout part s
  | .migrationQuiesce vdev => Sys2Proof.Machine.execMigrationQuiesce vdev s
  | .migrationSend vdev => Sys2Proof.Machine.execMigrationSend vdev s
  | .migrationCommit vdev ok exp => Sys2Proof.Machine.execMigrationCommit vdev ok exp s
  | .migrationResume vdev src st marks frames tables => Sys2Proof.Machine.execMigrationResume vdev src st marks frames tables s
  | .demandRequest vdev page die arriving => Sys2Proof.Machine.execDemandRequest vdev page die arriving s
  | .pagePush vdev => Sys2Proof.Machine.execPagePush vdev s
  | .pageArrival vdev page frame img => Sys2Proof.Machine.execPageArrival vdev page frame img s
  | .peerSwitch vdev peer src dest importer => Sys2Proof.Machine.execPeerSwitch vdev peer src dest importer s
  | .switchMarker vdev link peer => Sys2Proof.Machine.execSwitchMarker vdev link peer s
  | .migrationRelease vdev => Sys2Proof.Machine.execMigrationRelease vdev s
  | .linkTrained link peer own routes => Sys2Proof.Machine.execLinkTrained link peer own routes s
  | .outsideRead src vdev va n => Sys2Proof.Machine.execOutsideRead src vdev va n s
  | .peerWindowConfiguration g exp va tables => Sys2Proof.Machine.execPeerWindowConfiguration g exp va tables s
  | .bar2MappingConfiguration vdev m => Sys2Proof.Machine.execBar2MappingConfiguration vdev m s
  | .checkpointRestore id frames tables => Sys2Proof.Machine.execCheckpointRestore id frames tables s
  | .operatorCheckpoint => Sys2Proof.Machine.execOperatorCheckpoint s
  | .illPrerin w => Sys2Proof.Machine.execIllPrerin w s
  | .movPrerin f => Sys2Proof.Machine.execMovPrerin f s
  | .movhPrerin f => Sys2Proof.Machine.execMovhPrerin f s
  | .addPrerin f => Sys2Proof.Machine.execAddPrerin f s
  | .subPrerin f => Sys2Proof.Machine.execSubPrerin f s
  | .addxPrerin f => Sys2Proof.Machine.execAddxPrerin f s
  | .subxPrerin f => Sys2Proof.Machine.execSubxPrerin f s
  | .mulPrerin f => Sys2Proof.Machine.execMulPrerin f s
  | .mulhiPrerin f => Sys2Proof.Machine.execMulhiPrerin f s
  | .madPrerin f => Sys2Proof.Machine.execMadPrerin f s
  | .madhiPrerin f => Sys2Proof.Machine.execMadhiPrerin f s
  | .mulwPrerin f => Sys2Proof.Machine.execMulwPrerin f s
  | .madwPrerin f => Sys2Proof.Machine.execMadwPrerin f s
  | .minPrerin f => Sys2Proof.Machine.execMinPrerin f s
  | .maxPrerin f => Sys2Proof.Machine.execMaxPrerin f s
  | .absPrerin f => Sys2Proof.Machine.execAbsPrerin f s
  | .andPrerin f => Sys2Proof.Machine.execAndPrerin f s
  | .orPrerin f => Sys2Proof.Machine.execOrPrerin f s
  | .xorPrerin f => Sys2Proof.Machine.execXorPrerin f s
  | .andnPrerin f => Sys2Proof.Machine.execAndnPrerin f s
  | .lop3Prerin f => Sys2Proof.Machine.execLop3Prerin f s
  | .shlPrerin f => Sys2Proof.Machine.execShlPrerin f s
  | .shrPrerin f => Sys2Proof.Machine.execShrPrerin f s
  | .sarPrerin f => Sys2Proof.Machine.execSarPrerin f s
  | .rotPrerin f => Sys2Proof.Machine.execRotPrerin f s
  | .fshPrerin f => Sys2Proof.Machine.execFshPrerin f s
  | .bfxPrerin f => Sys2Proof.Machine.execBfxPrerin f s
  | .bfiPrerin f => Sys2Proof.Machine.execBfiPrerin f s
  | .popcPrerin f => Sys2Proof.Machine.execPopcPrerin f s
  | .clzPrerin f => Sys2Proof.Machine.execClzPrerin f s
  | .ctzPrerin f => Sys2Proof.Machine.execCtzPrerin f s
  | .brevPrerin f => Sys2Proof.Machine.execBrevPrerin f s
  | .bpermPrerin f => Sys2Proof.Machine.execBpermPrerin f s
  | .selPrerin f => Sys2Proof.Machine.execSelPrerin f s
  | .cmpPrerin f => Sys2Proof.Machine.execCmpPrerin f s
  | .leaPrerin f => Sys2Proof.Machine.execLeaPrerin f s
  | .sadPrerin f => Sys2Proof.Machine.execSadPrerin f s
  | .dot4Prerin f => Sys2Proof.Machine.execDot4Prerin f s
  | .dot2Prerin f => Sys2Proof.Machine.execDot2Prerin f s
  | .vadd2Prerin f => Sys2Proof.Machine.execVadd2Prerin f s
  | .vsub2Prerin f => Sys2Proof.Machine.execVsub2Prerin f s
  | .vmax2Prerin f => Sys2Proof.Machine.execVmax2Prerin f s
  | .vmin2Prerin f => Sys2Proof.Machine.execVmin2Prerin f s
  | .plopPrerin f => Sys2Proof.Machine.execPlopPrerin f s
  | .pmovPrerin f => Sys2Proof.Machine.execPmovPrerin f s
  | .faddPrerin f => Sys2Proof.Machine.execFaddPrerin f s
  | .fsubPrerin f => Sys2Proof.Machine.execFsubPrerin f s
  | .fmulPrerin f => Sys2Proof.Machine.execFmulPrerin f s
  | .ffmaPrerin f => Sys2Proof.Machine.execFfmaPrerin f s
  | .fminPrerin f => Sys2Proof.Machine.execFminPrerin f s
  | .fmaxPrerin f => Sys2Proof.Machine.execFmaxPrerin f s
  | .fcmpPrerin f => Sys2Proof.Machine.execFcmpPrerin f s
  | .fclampPrerin f => Sys2Proof.Machine.execFclampPrerin f s
  | .frndPrerin f => Sys2Proof.Machine.execFrndPrerin f s
  | .hadd2Prerin f => Sys2Proof.Machine.execHadd2Prerin f s
  | .hmul2Prerin f => Sys2Proof.Machine.execHmul2Prerin f s
  | .hfma2Prerin f => Sys2Proof.Machine.execHfma2Prerin f s
  | .hmin2Prerin f => Sys2Proof.Machine.execHmin2Prerin f s
  | .hmax2Prerin f => Sys2Proof.Machine.execHmax2Prerin f s
  | .hcmp2Prerin f => Sys2Proof.Machine.execHcmp2Prerin f s
  | .fdot2Prerin f => Sys2Proof.Machine.execFdot2Prerin f s
  | .cvtPrerin f => Sys2Proof.Machine.execCvtPrerin f s
  | .cvtpkPrerin f => Sys2Proof.Machine.execCvtpkPrerin f s
  | .unpkPrerin f => Sys2Proof.Machine.execUnpkPrerin f s
  | .q4encPrerin f => Sys2Proof.Machine.execQ4encPrerin f s
  | .q4decPrerin f => Sys2Proof.Machine.execQ4decPrerin f s
  | .frcpPrerin f => Sys2Proof.Machine.execFrcpPrerin f s
  | .frsqPrerin f => Sys2Proof.Machine.execFrsqPrerin f s
  | .fsqrtPrerin f => Sys2Proof.Machine.execFsqrtPrerin f s
  | .fex2Prerin f => Sys2Proof.Machine.execFex2Prerin f s
  | .flg2Prerin f => Sys2Proof.Machine.execFlg2Prerin f s
  | .fsinPrerin f => Sys2Proof.Machine.execFsinPrerin f s
  | .fcosPrerin f => Sys2Proof.Machine.execFcosPrerin f s
  | .ftanhPrerin f => Sys2Proof.Machine.execFtanhPrerin f s
  | .factPrerin f => Sys2Proof.Machine.execFactPrerin f s
  | .atldPrerin f => Sys2Proof.Machine.execAtldPrerin f s
  | .atselPrerin f => Sys2Proof.Machine.execAtselPrerin f s
  | .shflPrerin f => Sys2Proof.Machine.execShflPrerin f s
  | .votePrerin f => Sys2Proof.Machine.execVotePrerin f s
  | .matchkPrerin f => Sys2Proof.Machine.execMatchkPrerin f s
  | .reduxPrerin f => Sys2Proof.Machine.execReduxPrerin f s
  | .redixPrerin f => Sys2Proof.Machine.execRedixPrerin f s
  | .scanPrerin f => Sys2Proof.Machine.execScanPrerin f s
  | .setpartPrerin f => Sys2Proof.Machine.execSetpartPrerin f s
  | .actvPrerin f => Sys2Proof.Machine.execActvPrerin f s
  | .ldsPrerin f => Sys2Proof.Machine.execLdsPrerin f s
  | .stsPrerin f => Sys2Proof.Machine.execStsPrerin f s
  | .ldsaPrerin f => Sys2Proof.Machine.execLdsaPrerin f s
  | .stsrPrerin f => Sys2Proof.Machine.execStsrPrerin f s
  | .atmsPrerin f => Sys2Proof.Machine.execAtmsPrerin f s
  | .ldwPrerin f => Sys2Proof.Machine.execLdwPrerin f s
  | .fencePrerin f => Sys2Proof.Machine.execFencePrerin f s
  | .barPrerin f => Sys2Proof.Machine.execBarPrerin f s
  | .xbarInitPrerin f => Sys2Proof.Machine.execXbarInitPrerin f s
  | .xbarArrivePrerin f => Sys2Proof.Machine.execXbarArrivePrerin f s
  | .xbarWaitPrerin f => Sys2Proof.Machine.execXbarWaitPrerin f s
  | .xbarInvalPrerin f => Sys2Proof.Machine.execXbarInvalPrerin f s
  | .cpyPrerin f => Sys2Proof.Machine.execCpyPrerin f s
  | .cpygPrerin f => Sys2Proof.Machine.execCpygPrerin f s
  | .cpysPrerin f => Sys2Proof.Machine.execCpysPrerin f s
  | .cpyrPrerin f => Sys2Proof.Machine.execCpyrPrerin f s
  | .ldgPrerin f => Sys2Proof.Machine.execLdgPrerin f s
  | .stgPrerin f => Sys2Proof.Machine.execStgPrerin f s
  | .atmgPrerin f => Sys2Proof.Machine.execAtmgPrerin f s
  | .cqjoinPrerin f => Sys2Proof.Machine.execCqjoinPrerin f s
  | .smapPrerin f => Sys2Proof.Machine.execSmapPrerin f s
  | .ssyncPrerin f => Sys2Proof.Machine.execSsyncPrerin f s
  | .sinvPrerin f => Sys2Proof.Machine.execSinvPrerin f s
  | .sclosePrerin f => Sys2Proof.Machine.execSclosePrerin f s
  | .prefPrerin f => Sys2Proof.Machine.execPrefPrerin f s
  | .hldPrerin f => Sys2Proof.Machine.execHldPrerin f s
  | .hstPrerin f => Sys2Proof.Machine.execHstPrerin f s
  | .hsetPrerin f => Sys2Proof.Machine.execHsetPrerin f s
  | .hgetPrerin f => Sys2Proof.Machine.execHgetPrerin f s
  | .hcpyPrerin f => Sys2Proof.Machine.execHcpyPrerin f s
  | .hadvPrerin f => Sys2Proof.Machine.execHadvPrerin f s
  | .mclrPrerin f => Sys2Proof.Machine.execMclrPrerin f s
  | .mtilePrerin f => Sys2Proof.Machine.execMtilePrerin f s
  | .mcvtPrerin f => Sys2Proof.Machine.execMcvtPrerin f s
  | .mldPrerin f => Sys2Proof.Machine.execMldPrerin f s
  | .mexpPrerin f => Sys2Proof.Machine.execMexpPrerin f s
  | .mstatPrerin f => Sys2Proof.Machine.execMstatPrerin f s
  | .mfmtPrerin f => Sys2Proof.Machine.execMfmtPrerin f s
  | .tspawnPrerin f => Sys2Proof.Machine.execTspawnPrerin f s
  | .qrsvPrerin f => Sys2Proof.Machine.execQrsvPrerin f s
  | .qenqPrerin f => Sys2Proof.Machine.execQenqPrerin f s
  | .qdeqPrerin f => Sys2Proof.Machine.execQdeqPrerin f s
  | .qtryPrerin f => Sys2Proof.Machine.execQtryPrerin f s
  | .qstealPrerin f => Sys2Proof.Machine.execQstealPrerin f s
  | .qerrPrerin f => Sys2Proof.Machine.execQerrPrerin f s
  | .qrestPrerin f => Sys2Proof.Machine.execQrestPrerin f s
  | .qstatPrerin f => Sys2Proof.Machine.execQstatPrerin f s
  | .succPrerin f => Sys2Proof.Machine.execSuccPrerin f s
  | .wvisPrerin f => Sys2Proof.Machine.execWvisPrerin f s
  | .rsurrPrerin f => Sys2Proof.Machine.execRsurrPrerin f s
  | .rclaimPrerin f => Sys2Proof.Machine.execRclaimPrerin f s
  | .rstartPrerin f => Sys2Proof.Machine.execRstartPrerin f s
  | .rchildPrerin f => Sys2Proof.Machine.execRchildPrerin f s
  | .rdonePrerin f => Sys2Proof.Machine.execRdonePrerin f s
  | .rretPrerin f => Sys2Proof.Machine.execRretPrerin f s
  | .rresPrerin f => Sys2Proof.Machine.execRresPrerin f s
  | .rinfoPrerin f => Sys2Proof.Machine.execRinfoPrerin f s
  | .rbasePrerin f => Sys2Proof.Machine.execRbasePrerin f s
  | .rabortPrerin f => Sys2Proof.Machine.execRabortPrerin f s
  | .braPrerin f => Sys2Proof.Machine.execBraPrerin f s
  | .brxPrerin f => Sys2Proof.Machine.execBrxPrerin f s
  | .callPrerin f => Sys2Proof.Machine.execCallPrerin f s
  | .callxPrerin f => Sys2Proof.Machine.execCallxPrerin f s
  | .retPrerin f => Sys2Proof.Machine.execRetPrerin f s
  | .exitPrerin f => Sys2Proof.Machine.execExitPrerin f s
  | .yieldPrerin f => Sys2Proof.Machine.execYieldPrerin f s
  | .nopPrerin f => Sys2Proof.Machine.execNopPrerin f s
  | .trapPrerin f => Sys2Proof.Machine.execTrapPrerin f s
  | .tretPrerin f => Sys2Proof.Machine.execTretPrerin f s
  | .syscPrerin f => Sys2Proof.Machine.execSyscPrerin f s
  | .srdPrerin f => Sys2Proof.Machine.execSrdPrerin f s
  | .swrPrerin f => Sys2Proof.Machine.execSwrPrerin f s
  | .bkptPrerin f => Sys2Proof.Machine.execBkptPrerin f s
  | .acknPrerin f => Sys2Proof.Machine.execAcknPrerin f s
  | .wflgPrerin f => Sys2Proof.Machine.execWflgPrerin f s

end Sys2Proof.Machine
end

