-- ==== Sys2Proof/Machine/Inputs.lean ====
section
/-! DEFINITION. What comes from outside without an instruction or event of its own: control programs on application cores
(18_package.md R353, R354), the resident system's registers (16_die.md R323, R337, 18_package.md R377), the operator's windows,
and what other parts and links bring (20_fabric.md R391–R410). -/
namespace Sys2Proof.Machine

/-! ## Control programs (R353) -/

/-- The application core that runs a control program. -/
def State.app (s : State) (n : Nat) : Option AppCore := s.pkg.apps.find? (fun a => a.n == n)
/-- A control program's store to device memory in its device's address space (R353): none where the page has not come. One that
no page takes has no effect here. (DESIGN CHOICE, log 78). -/
def State.appWrite (s : State) (n va : Nat) (data : List Byte) : Option State :=
  match s.app n with
  | none => some s
  | some a =>
    match s.writeClean 4 a.vdev va data with
    | .ok s => some s
    | .error e => if e.2 = 6 then none else some s
/-- A control program's load from device memory (R353): what it brings stands in the core. (DESIGN CHOICE, log 78). -/
def State.appRead (s : State) (n va k : Nat) : Option State :=
  match s.app n with
  | none => some s
  | some a =>
    match s.readN 4 a.vdev va k with
    | .ok l => some (s.modApp n (fun a => { a with loaded := l.map (fun b => b.1) }))
    | .error e => if e.2 = 6 then none else some s

/-! ## The resident system's registers -/

/-- The assay words of a device (R323); words with a reserved bit set are not taken. -/
def assayOf (w0 w1 w2 : Word) : Option Assay :=
  let a := w0.toNat
  let b := w1.toNat
  let c := w2.toNat
  if bitsOf b 7 4 ≠ 0 ∨ bitsOf c 15 1 ≠ 0 then none
  else some
    { wh := bitsOf a 31 24
      wm := bitsOf a 23 16
      wr := bitsOf a 15 8
      wq := bitsOf a 7 0
      theta := bitsOf b 31 16
      nw := bitsOf b 15 8
      epl := bitsOf b 3 0
      fmin := bitsOf c 31 16
      en := bitsOf c 0 0 == 1 }
/-- The assay words of a device written, the same on every die (R323). -/
def State.setAssay (s : State) (v : Nat) (w0 w1 w2 : Word) : State :=
  match assayOf w0 w1 w2 with
  | none => s
  | some a => s.modV v (fun x => { x with assay := a })

/-! ## Other parts and the links -/

/-- Bytes of a peer's granted memory changed by that part (R395, R396). -/
def State.peerWrite (s : State) (part v pos : Nat) (p : Bool) : List Byte → State
  | [] => s
  | b :: l =>
    match s.peer part v with
    | none => s
    | some x => (s.setPeerByte x pos b (psnOf p)).peerWrite part v (pos + 1) p l
/-- A window changed. -/
def State.modPeer (s : State) (part v : Nat) (f : Peer → Peer) : State :=
  { s with fab := { s.fab with peers := modFirst (fun (x : Peer) => x.part == part && x.vdev == v) f s.fab.peers } }
/-- Bytes of host memory written by the host: requests among them, where its ring lies there (R398). -/
def State.hostWrite (s : State) (a : Nat) (data : List Byte) : State :=
  let put := fun (m : FMap (Option Byte)) (k : Nat) => FMap.set none m (a + k) (some (data.getD k 0))
  let clean := fun (l : NSet) => l.filter (fun x => !(decide ((a + 31) / 32 ≤ x) && decide (x < (a + data.length) / 32)))
  { s with fab := { s.fab with
    host := (List.range data.length).foldl put s.fab.host
    hostPsn := clean s.fab.hostPsn } }
/-- Traffic for another part passed on over the link that leads there, over at most 3 hops (R391). -/
def State.passOn (s : State) (dst hops : Nat) : State :=
  match s.linkFor dst 0 with
  | none => s
  | some k =>
    if 3 ≤ hops ∨ dst = s.fab.part then s
    else { s with fab := { s.fab with passed := s.fab.passed ++ [⟨dst, k, hops + 1⟩] } }

/-- A system call in a datagram at the management port, for a program of a device (R383, R398): it is accepted like every
datagram, once, and answered when the call is; none of a device that does not exist is made. -/
def State.portCall (s : State) (tag : Nat) (seq : DWord) (sound : Bool) (v code : Nat) (args : List Word) : State :=
  if s.pkg.stage ≠ 5 ∨ 0x00E < code ∨ v = 0 ∨ 63 < v ∨ s.pkg.mgmtOpen.contains (tag, seq) then s
  else match s.accept tag seq sound with
  | none => s
  | some s =>
    let (s, id) := s.newId
    s.addCall ⟨id, .port v tag seq, v, code, args.take 8, if (s.vdev v).isNone then some (sysErr 2) else none, false⟩

/-! ## Taking an input -/

/-- What an input does; none where it has to wait for a page and is made again. -/
def State.take (s : State) (i : Input) : Option State :=
  match i with
  | .pass => some s
  | .appCall n x17 x10 => s.appCall n x17 x10
  | .appWrite n va data => s.appWrite n va data
  | .appRead n va k => s.appRead n va k
  | .assay v w0 w1 w2 => some (s.setAssay v w0 w1 w2)
  | .clearViols d => some (s.modD d (fun x => { x with viols := [], violOver := 0 }))
  | .bar2Unmap win => some { s with fab := { s.fab with bar2 := s.fab.bar2.filter (fun m => m.win != win) } }
  | .peerWrite part v pos data p => some (s.peerWrite part v pos p data)
  | .peerUnmapped part v page off => some (s.modPeer part v (fun x => { x with unmapped := NSet.put x.unmapped page off }))
  | .peerRefused part v page off => some (s.modPeer part v (fun x => { x with refused := NSet.put x.refused page off }))
  | .hostWrite a data => some (s.hostWrite a data)
  | .sourceFailed src => some (s.discardFrom src)
  | .callCompleted v id => some (s.callHome v id)
  | .callCondition dest v id res => some (s.payCall dest v id res)
  | .windowPointed part v ok => some (s.modPeer part v (fun x => { x with pointed := ok }))
  | .goodFlit link => some (if linkOk link then s.modLink link (fun l => { l with replays := 0 }) else s)
  | .day => some { s with dies := s.dies.map (fun (x : Die) => { x with wear := [] }) }
  | .corrected d cl => some (if d < 4 ∧ cl < 16 then s.countErr d (80 + cl) false else s)
  | .portCall tag seq sound v code args => some (s.portCall tag seq sound v code args)
  | .transit dst hops => some (s.passOn dst hops)
  | .reserve src sdev st r root block check slots frames tables =>
    some (s.reserveFor src sdev st r root block check slots frames tables)
  | .stateCame src sdev cipher digest sig => some (s.stateCame src sdev cipher digest sig)
  | .destFailed v => some (s.destFailed v)
/-- The application core whose control program an input comes from. -/
def Input.core : Input → Option Nat
  | .appCall n _ _ => some n
  | .appWrite n _ _ => some n
  | .appRead n _ _ => some n
  | _ => none
/-- An input that has to wait is made again after a turn of the machine's own; those of its control program stay behind it (R343). -/
def State.putOff (s : State) (i : Input) : State :=
  let mine := fun (k : Input) => i.core.isSome && k.core == i.core
  { s with inputs := s.inputs.filter (fun k => !mine k) ++ .pass :: i :: s.inputs.filter mine }
/-- An input taken, or put off. -/
def State.input (s : State) (i : Input) : State := (s.take i).getD (s.putOff i)

end Sys2Proof.Machine
end

