-- ==== Sys2Proof/Machine/Packer.lean ====
section
/-! DEFINITION. The quadrant scheduler and the packer (R176–R180, R369), the fetch and decode of a pack's word (R65, R66, R77,
R78, R315), and what the hardware units may do next. -/
namespace Sys2Proof.Machine

/-! ## The packer (R177) -/

/-- The place of a thread in the packer's order: its key, at equal keys the handler first (R177), and there native code
first. (DESIGN CHOICE, log 31). -/
def Thread.rank (t : Thread) : Nat :=
  (t.pc.toNat * 64 + t.tix) * 4 + (if t.hnd then 0 else 2) + (match t.mode with
    | .native => 0
    | .prerin => 1)

/-- The Ready threads of a warp. -/
def Warp.readyTs (w : Warp) : List Nat := (List.range 32).filter (fun t => (w.thr t).ready)

/-- The thread whose key, HND and mode the packer takes (R177): the earliest promotion, else a thread that is not Demoted,
else any; among them the least key. -/
def Warp.lead (w : Warp) : Option Nat :=
  let r := w.readyTs
  let key := fun (t : Nat) => (w.thr t).rank
  let pro := r.filter (fun t => (w.thr t).promo.isSome)
  let free := r.filter (fun t => !(w.thr t).demoted)
  match minBy (fun t => ((w.thr t).promo).getD 0) pro with
  | some t => minBy key (pro.filter (fun u => (w.thr u).promo == (w.thr t).promo))
  | none => if free.isEmpty then minBy key r else minBy key free

/-- Whether two threads may stand in one pack: equal key, HND and mode. -/
def Thread.together (a b : Thread) : Bool := a.pc == b.pc && a.tix == b.tix && a.hnd == b.hnd && a.mode == b.mode

/-- The pack that a warp issues: every Ready thread that stands together with the one chosen. -/
def Warp.packOf (w : Warp) : List Nat :=
  match w.lead with
  | none => []
  | some t => w.readyTs.filter (fun u => (w.thr u).together (w.thr t))

/-! ## The scheduler (R176, R369) -/

/-- Whether a warp may be picked, but for its device's turn (R176): resident, issuing (Table 8-7), not at the boundary where
a fold takes it (R265), with a Ready thread. -/
def State.eligible (s : State) (g w : Nat) : Bool :=
  let x := s.grp g
  let y := x.wrp w
  x.alive && (x.save == .running || x.save == .pending) && y.fold.isNone && !(s.core x.die x.core).failed
  && (s.quad x.die x.core y.quad).mayIssue x.vdev && y.threads.any Thread.ready

/-- Every eligible warp. -/
def State.eligibles (s : State) : List (Nat × Nat) :=
  (List.range s.groups.length).flatMap (fun g =>
    ((List.range (s.grp g).warps.length).filter (fun w => s.eligible g w)).map (fun w => (g, w)))

/-- The quadrant that a warp stands in. -/
def State.quadOf (s : State) (v : Nat × Nat) : Nat × Nat × Nat := ((s.grp v.1).die, (s.grp v.1).core, (s.wrp v.1 v.2).quad)

/-- Those of a quadrant's eligible warps that may issue now: on a shared quadrant those of the slice holder where there are
any (R369), and not the warp that yielded where there is another (R160, R82). -/
def State.mayPick (s : State) (q : Quad) (l : List (Nat × Nat)) : List (Nat × Nat) :=
  let l := match q.own with
    | .shared _ h _ =>
      let mine := l.filter (fun v => (s.grp v.1).vdev == h)
      if mine.isEmpty then l else mine
    | _ => l
  let others := l.filter (fun v => q.avoid != some v)
  if others.isEmpty then l else others

/-- The warp that a quadrant picks (R176): the highest effective priority, the earliest last issue, the first slot after the
one picked last. -/
def State.pickWarp (s : State) (q : Quad) (l : List (Nat × Nat)) : Option (Nat × Nat) :=
  let l := s.mayPick q l
  let top := (l.map (fun v => s.prioOf v.1)).foldl max 0
  let l := l.filter (fun v => s.prioOf v.1 == top)
  match minBy (fun v => (s.wrp v.1 v.2).lastIssue) l with
  | none => none
  | some b =>
    minBy (fun v => ((s.wrp v.1 v.2).slot + 15 - q.lastSlot) % 16)
      (l.filter (fun v => (s.wrp v.1 v.2).lastIssue == (s.wrp b.1 b.2).lastIssue))

/-- A mark of the packer that is due in a warp (R179, R180). -/
def State.dueMark (s : State) (g w : Nat) : Option Instr :=
  let y := s.wrp g w
  let old := fun (t : Nat) => let x := y.thr t; x.live && x.demoted && decide (x.demAt + 1024 ≤ y.opps)
  let hungry := fun (t : Nat) => let x := y.thr t; x.live && decide (4096 ≤ x.opps) && x.promo == none
  match (List.range 32).find? old with
  | some t => some (.demotionExpiry ⟨g, w, t⟩)
  | none => ((List.range 32).find? hungry).map (fun t => .starvationPromotion ⟨g, w, t⟩)

/-- An issue opportunity of a warp begins (R176, R180): its count and its last issue, the slot picked last, the count of
each Ready thread left out, and the pack. (DESIGN CHOICE, log 109). -/
def State.opportunity (s : State) (g w : Nat) : State :=
  let x := s.grp g
  let y := x.wrp w
  let ts := y.packOf
  let left := y.readyTs.filter (fun t => !ts.contains t)
  let s := s.modW g w (fun y => { y with opps := y.opps + 1, lastIssue := s.clock })
  let s := left.foldl (fun s t => s.modT g w t (fun a => { a with opps := a.opps + 1 })) s
  let s := s.modQuad x.die x.core y.quad (fun q => { q with lastSlot := y.slot, avoid := none })
  { s with pack := ⟨g, w, ts⟩ }

/-! ## Fetch and decode -/

/-- What stands where a native pack is: the state with its line fetched, and the word; or the state in which the fetch waits,
and its address. -/
def State.fetchNative (s : State) (g : Nat) (t : Thread) : Except (State × Nat) (State × DWord) :=
  let x := s.grp g
  match s.fetchWord x.die x.core x.vdev t.at'.toNat with
  | .error s => .error (s, t.at'.toNat)
  | .ok r => .ok r

/-- Whether a Prerin word is a prefix (R86). -/
def isPrefix (w : Word) : Bool := w.extractLsb' 22 10 == 0x3FF

/-- The words of a Prerin instruction from an address on, as far as prefixes lead; with the address that could not be
fetched. -/
def State.fetchPrerin (s : State) (d c v va : Nat) : Nat → List Word × Option Nat
  | 0 => ([], none)
  | n + 1 =>
    match s.codeHalf d c v va with
    | .error _ => ([], some va)
    | .ok w =>
      if isPrefix w then
        let r := s.fetchPrerin d c v ((va + 4) % 2 ^ 64) n
        (w :: r.1, r.2)
      else ([w], none)

/-- The lines that `n` Prerin words lie in, fetched and paid for (R333); or the state in which the fetch waits. -/
def State.fillWords (s : State) (d c v va : Nat) : Nat → Except State State
  | 0 => .ok s
  | n + 1 =>
    match s.payLine d c v va with
    | .error s => .error s
    | .ok s => (s.fillLine d c v va).fillWords d c v ((va + 4) % 2 ^ 64) n

/-- The pick is over. -/
def State.endPick (s : State) : State := { s with pack := ⟨0, 0, []⟩ }

/-- A thread that has issued: the count since its last issue starts again, and in Prerin code a promotion ends (R180). -/
def Thread.issued (m : Mode) (t : Thread) : Thread :=
  match t.sched with
  | .stalled _ => t
  | _ => { t with opps := 0, promo := match m with
      | .prerin => none
      | .native => t.promo }

/-- What follows an issue: the threads of the pack have issued, and the pick is over. -/
def State.afterIssue (p : Pack) (m : Mode) (s : State) : State :=
  (p.ts.foldl (fun s t => s.modT p.g p.w t (Thread.issued m)) s).endPick

/-- An outcome with its next state changed. -/
def onNext (f : State → State) : Host.Outcome State Fault Refusal → Host.Outcome State Fault Refusal
  | .next s => .next (f s)
  | .fault r => .fault r
  | .refused r => .refused r

/-- An instruction issued by the pack. -/
def State.issue (i : Instr) (m : Mode) (s : State) : Host.Outcome State Fault Refusal :=
  onNext (State.afterIssue s.pack m) (exec i s)

/-- A word that decodes to no instruction traps 0x01 in every thread of the pack (R66). -/
def State.badWord (s : State) (v : DWord) : State := (s.trapAll s.pack.g s.pack.w s.pack.ts 0x01 v).endPick

/-- The pack waits at a fetch (R315). -/
def State.fetchWait (s : State) (va : Nat) : State := (s.stallAll s.pack.g s.pack.w s.pack.ts (.fetch va 0)).endPick

/-- The threads of the pack in which a residency notice is due take it (R171); the others stay in the pack. -/
def State.notices (s : State) : State :=
  let p := s.pack
  let due := p.ts.filter (fun t => (s.thr p.g p.w t).noticeDue)
  let s' := due.foldl (fun s t => s.trapT p.g p.w t 0x0E ((s.wrp p.g p.w).resl.setWidth 64)) s
  { s' with pack := { p with ts := p.ts.filter (fun t => !due.contains t) } }

/-- The threads of the pack that have passed the boundary: the pick goes on with them (R78, R84). -/
def State.passedHeader (s : State) : State :=
  let p := s.pack
  { s with pack := { p with ts := p.ts.filter (fun t => let x := s.thr p.g p.w t; x.ready && x.tix == 1) } }

/-- The YLD hint after the last word of a clause (R82). -/
def State.yieldHint (s : State) (g w : Nat) (t : Thread) : State :=
  if t.tix ≠ t.len then s
  else match s.codeWord (s.grp g).die (s.grp g).core (s.grp g).vdev t.pc.toNat with
    | .ok v => if (headerOfWord v).yld then s.yieldWarp g w else s
    | .error _ => s

/-- The native word `v` that the pack stands at, fetched (R65, R66, R77, R78). (DEDUCED, log 32). -/
def State.runNative (s : State) (t : Thread) (v : DWord) : Host.Outcome State Fault Refusal :=
  let p := s.pack
  match decodeNative v with
  | .ok (.clauseBoundary h) =>
    if t.tix = 0 then onNext State.passedHeader (exec (.clauseBoundary h) s) else .next (s.badWord v)
  | .ok i =>
    if t.tix = 0 then .next (s.badWord v) else onNext (fun s => s.yieldHint p.g p.w t) (s.issue i .native)
  | .error _ =>
    if t.tix = 0 ∧ v.extractLsb' 62 2 = 2 then .next (s.notices.badWord v) else .next (s.badWord v)

/-- The Prerin words `ws` that the pack stands at, fetched as far as `gap` (R86, R66): a due notice comes first (R171). -/
noncomputable def State.runPrerin (s : State) (t : Thread) (ws : List Word) (gap : Option Nat) :
    Host.Outcome State Fault Refusal :=
  match decodePrerin ws with
  | .ok (i, _) => s.issue i .prerin
  | .error (.noWord, _) => .next (s.fetchWait (gap.getD t.pc.toNat))
  | .error (_, w) => .next (s.badWord (w.setWidth 64))

/-- The meaning of a Prerin form, told from the form itself (for the compiler, which cannot build the constructors of a type
beyond the 245th). -/
def execForm (o : Op) (p : PFields) (s : State) : Host.Outcome State Fault Refusal :=
  match o with
  | .ill => execIllPrerin 0 s
  | .mov => execMovPrerin p s
  | .movh => execMovhPrerin p s
  | .add => execAddPrerin p s
  | .sub => execSubPrerin p s
  | .addx => execAddxPrerin p s
  | .subx => execSubxPrerin p s
  | .mul => execMulPrerin p s
  | .mulhi => execMulhiPrerin p s
  | .mad => execMadPrerin p s
  | .madhi => execMadhiPrerin p s
  | .mulw => execMulwPrerin p s
  | .madw => execMadwPrerin p s
  | .min => execMinPrerin p s
  | .max => execMaxPrerin p s
  | .abs => execAbsPrerin p s
  | .and => execAndPrerin p s
  | .or => execOrPrerin p s
  | .xor => execXorPrerin p s
  | .andn => execAndnPrerin p s
  | .lop3 => execLop3Prerin p s
  | .shl => execShlPrerin p s
  | .shr => execShrPrerin p s
  | .sar => execSarPrerin p s
  | .rot => execRotPrerin p s
  | .fsh => execFshPrerin p s
  | .bfx => execBfxPrerin p s
  | .bfi => execBfiPrerin p s
  | .popc => execPopcPrerin p s
  | .clz => execClzPrerin p s
  | .ctz => execCtzPrerin p s
  | .brev => execBrevPrerin p s
  | .bperm => execBpermPrerin p s
  | .sel => execSelPrerin p s
  | .cmp => execCmpPrerin p s
  | .lea => execLeaPrerin p s
  | .sad => execSadPrerin p s
  | .dot4 => execDot4Prerin p s
  | .dot2 => execDot2Prerin p s
  | .vadd2 => execVadd2Prerin p s
  | .vsub2 => execVsub2Prerin p s
  | .vmax2 => execVmax2Prerin p s
  | .vmin2 => execVmin2Prerin p s
  | .plop => execPlopPrerin p s
  | .pmov => execPmovPrerin p s
  | .fadd => execFaddPrerin p s
  | .fsub => execFsubPrerin p s
  | .fmul => execFmulPrerin p s
  | .ffma => execFfmaPrerin p s
  | .fmin => execFminPrerin p s
  | .fmax => execFmaxPrerin p s
  | .fcmp => execFcmpPrerin p s
  | .fclamp => execFclampPrerin p s
  | .frnd => execFrndPrerin p s
  | .hadd2 => execHadd2Prerin p s
  | .hmul2 => execHmul2Prerin p s
  | .hfma2 => execHfma2Prerin p s
  | .hmin2 => execHmin2Prerin p s
  | .hmax2 => execHmax2Prerin p s
  | .hcmp2 => execHcmp2Prerin p s
  | .fdot2 => execFdot2Prerin p s
  | .cvt => execCvtPrerin p s
  | .cvtpk => execCvtpkPrerin p s
  | .unpk => execUnpkPrerin p s
  | .q4enc => execQ4encPrerin p s
  | .q4dec => execQ4decPrerin p s
  | .frcp => execFrcpPrerin p s
  | .frsq => execFrsqPrerin p s
  | .fsqrt => execFsqrtPrerin p s
  | .fex2 => execFex2Prerin p s
  | .flg2 => execFlg2Prerin p s
  | .fsin => execFsinPrerin p s
  | .fcos => execFcosPrerin p s
  | .ftanh => execFtanhPrerin p s
  | .fact => execFactPrerin p s
  | .atld => execAtldPrerin p s
  | .atsel => execAtselPrerin p s
  | .shfl => execShflPrerin p s
  | .vote => execVotePrerin p s
  | .matchk => execMatchkPrerin p s
  | .redux => execReduxPrerin p s
  | .redix => execRedixPrerin p s
  | .scan => execScanPrerin p s
  | .setpart => execSetpartPrerin p s
  | .actv => execActvPrerin p s
  | .lds => execLdsPrerin p s
  | .sts => execStsPrerin p s
  | .ldsa => execLdsaPrerin p s
  | .stsr => execStsrPrerin p s
  | .atms => execAtmsPrerin p s
  | .ldw => execLdwPrerin p s
  | .fence => execFencePrerin p s
  | .bar => execBarPrerin p s
  | .xbarInit => execXbarInitPrerin p s
  | .xbarArrive => execXbarArrivePrerin p s
  | .xbarWait => execXbarWaitPrerin p s
  | .xbarInval => execXbarInvalPrerin p s
  | .cpy => execCpyPrerin p s
  | .cpyg => execCpygPrerin p s
  | .cpys => execCpysPrerin p s
  | .cpyr => execCpyrPrerin p s
  | .ldg => execLdgPrerin p s
  | .stg => execStgPrerin p s
  | .atmg => execAtmgPrerin p s
  | .cqjoin => execCqjoinPrerin p s
  | .smap => execSmapPrerin p s
  | .ssync => execSsyncPrerin p s
  | .sinv => execSinvPrerin p s
  | .sclose => execSclosePrerin p s
  | .pref => execPrefPrerin p s
  | .hld => execHldPrerin p s
  | .hst => execHstPrerin p s
  | .hset => execHsetPrerin p s
  | .hget => execHgetPrerin p s
  | .hcpy => execHcpyPrerin p s
  | .hadv => execHadvPrerin p s
  | .mclr => execMclrPrerin p s
  | .mtile => execMtilePrerin p s
  | .mcvt => execMcvtPrerin p s
  | .mld => execMldPrerin p s
  | .mexp => execMexpPrerin p s
  | .mstat => execMstatPrerin p s
  | .mfmt => execMfmtPrerin p s
  | .tspawn => execTspawnPrerin p s
  | .qrsv => execQrsvPrerin p s
  | .qenq => execQenqPrerin p s
  | .qdeq => execQdeqPrerin p s
  | .qtry => execQtryPrerin p s
  | .qsteal => execQstealPrerin p s
  | .qerr => execQerrPrerin p s
  | .qrest => execQrestPrerin p s
  | .qstat => execQstatPrerin p s
  | .succ => execSuccPrerin p s
  | .wvis => execWvisPrerin p s
  | .rsurr => execRsurrPrerin p s
  | .rclaim => execRclaimPrerin p s
  | .rstart => execRstartPrerin p s
  | .rchild => execRchildPrerin p s
  | .rdone => execRdonePrerin p s
  | .rret => execRretPrerin p s
  | .rres => execRresPrerin p s
  | .rinfo => execRinfoPrerin p s
  | .rbase => execRbasePrerin p s
  | .rabort => execRabortPrerin p s
  | .bra => execBraPrerin p s
  | .brx => execBrxPrerin p s
  | .call => execCallPrerin p s
  | .callx => execCallxPrerin p s
  | .ret => execRetPrerin p s
  | .exit => execExitPrerin p s
  | .yield => execYieldPrerin p s
  | .nop => execNopPrerin p s
  | .trap => execTrapPrerin p s
  | .tret => execTretPrerin p s
  | .sysc => execSyscPrerin p s
  | .srd => execSrdPrerin p s
  | .swr => execSwrPrerin p s
  | .bkpt => execBkptPrerin p s
  | .ackn => execAcknPrerin p s
  | .wflg => execWflgPrerin p s

/-- A Prerin form means what its instruction means. -/
theorem exec_prerinInstr (o : Op) (p : PFields) (s : State) : exec (prerinInstr o p) s = execForm o p s := by
  cases o <;> rfl

/-- The same as `runPrerin`, as it is compiled. -/
def State.runForm (s : State) (t : Thread) (ws : List Word) (gap : Option Nat) : Host.Outcome State Fault Refusal :=
  match decodePrerinForm ws with
  | .ok (.ill w, _) => onNext (State.afterIssue s.pack .prerin) (execIllPrerin w s)
  | .ok (.form o p, _) => onNext (State.afterIssue s.pack .prerin) (execForm o p s)
  | .error (.noWord, _) => .next (s.fetchWait (gap.getD t.pc.toNat))
  | .error (_, w) => .next (s.badWord (w.setWidth 64))

/-- The compiled form is the defined one. -/
@[csimp] theorem runPrerin_eq_runForm : @State.runPrerin = @State.runForm := by
  funext s t ws gap
  unfold State.runPrerin State.runForm decodePrerin
  cases h : decodePrerinForm ws with
  | error e => obtain ⟨r, w⟩ := e; cases r <;> rfl
  | ok x =>
    obtain ⟨f, n⟩ := x
    cases f with
    | ill w => rfl
    | form o p => simp only [PForm.instr, State.issue, exec_prerinInstr]

/-- The pick in progress goes on: its pack, as far as its threads still stand together, fetches and runs its word. It ends where
a fold has come to take its part of the warp (R265). -/
def State.runPack (s : State) : Host.Outcome State Fault Refusal :=
  let p := s.pack
  let w := s.wrp p.g p.w
  match p.ts.filter (fun t => (w.thr t).ready && w.fold.isNone) with
  | [] => .next s.endPick
  | t0 :: r =>
    let t := w.thr t0
    let s := { s with pack := ⟨p.g, p.w, t0 :: r.filter (fun u => (w.thr u).together t)⟩ }
    match t.mode with
    | .native =>
      (match s.fetchNative p.g t with
       | .error (s, va) => .next (s.fetchWait va)
       | .ok (s, v) => s.runNative t v)
    | .prerin =>
      let s := s.notices
      if s.pack.ts.isEmpty then .next s.endPick
      else
        let x := s.grp p.g
        let f := s.fetchPrerin x.die x.core x.vdev t.pc.toNat 4
        match s.fillWords x.die x.core x.vdev t.pc.toNat f.1.length with
        | .error s => .next (s.fetchWait t.pc.toNat)
        | .ok s => s.runPrerin t f.1 f.2

/-! ## The end of a wait (R28, Table 2-5) -/

/-- The threads of a warp that wait at the instruction of thread `t`, and it. -/
def Warp.waiting (w : Warp) (t : Nat) : List Nat :=
  (List.range 32).filter (fun u => (w.thr u).retries && (w.thr u).together (w.thr t))
/-- Thread `t` as it stands once its instruction has been tried, with those that wait at it; the rest of the machine stays as
it is. -/
def State.tried (s : State) (g w t : Nat) : Thread :=
  let ts := (s.wrp g w).waiting t
  let s := s.modW g w (fun y => { ts.foldl (fun y u => y.mod u (fun x => { x with sched := .ready })) y with fold := none })
  match { s with pack := ⟨g, w, ts⟩ }.runPack with
  | .next s => s.thr g w t
  | _ => s.thr g w t
/-- The state of a waiting thread after a step: Stalled or Blocked by what holds its instruction now, Ready where nothing does
(Table 2-5). A fetch that has a fault record waits for the fault handler (R336), a clause for its flags (R78). -/
def State.waitOf (s : State) (g w t : Nat) : Sched :=
  let x := s.thr g w t
  let after := fun (_ : Unit) =>
    let y := s.tried g w t
    match y.sched with
    | .stalled k => .stalled k
    | k => if k == x.sched then k else .ready
  match x.sched with
  | .stalled (.fetch _ _) => if s.fetchHeld ⟨g, w, t⟩ then x.sched else after ()
  | .stalled _ => after ()
  | .blocked (.flags m) => if x.flagsSet m then x.sched else .ready
  | k => if x.retries then after () else k
/-- Every wait of the workgroups that issue, evaluated at the end of a step (R28, Table 8-7). -/
def State.endWaits (s : State) : State :=
  let now := (List.range s.groups.length).flatMap (fun g =>
    let x := s.grp g
    if x.alive && (x.save == .running || x.save == .pending) then
      (List.range x.warps.length).flatMap (fun w => (List.range 32).filterMap (fun t =>
        let a := (s.thr g w t).sched
        let b := s.waitOf g w t
        if a == b then none else some (g, w, t, b)))
    else [])
  now.foldl (fun s k => s.modT k.1 k.2.1 k.2.2.1 (fun x => { x with sched := k.2.2.2 })) s

/-! ## What the hardware units may do next -/

/-- The cores that the state lists, of one die or of all. -/
def State.coresOf (s : State) : List (Nat × Nat) :=
  (List.range 4).flatMap (fun d => (s.die d).cores.map (fun c => (d, c.1)))

/-- The faults that may hold a write-back of a workgroup, for a thread. -/
def Group.spanFaults (x : Group) (t : TRef) : List Instr :=
  (List.range 8).flatMap (fun m => match x.span m with
    | some sp => sp.secs.map (fun k => .engineFault (.span t m k.1))
    | none => [])

/-- What the units that serve a warp may do. -/
def warpActs (x : Group) (g w : Nat) (y : Warp) : List Instr :=
  (List.range 4).flatMap (fun q =>
    match y.cqs.getD q [] with
    | [] => []
    | e :: _ =>
      let r : QRef := ⟨g, w, q⟩
      [.queueEntryBegin r, .copyCredit r (e.todo.length), .replicaCommit r, .commandRetire r, .engineFault (.queue r e.id)])
  ++ (if y.fold.isSome then [.foldComplete g (some w)] else [])
  ++ (if y.refill.isEmpty then [] else [.expansionRefill g (some w)])
  ++ (List.range 32).flatMap (fun t =>
    let r : TRef := ⟨g, w, t⟩
    match (y.thr t).sched with
    | .stalled (.spanFill m k) => [.spanFill g m k, .engineFault (.span r m k)]
    | .stalled (.writeBack _) => .spanWriteBack g (some r) :: x.spanFaults r
    | .stalled (.reach b) => [.reachBufferFill g w b]
    | .stalled .spilled => [.spilledUnitAccess g w]
    | .stalled (.fetch _ _) => [.engineFault (.fetch r)]
    | .blocked (.queue _) => [.engineFault (.fetch r)]
    | _ => [])

/-- Whether an expansion of a folded workgroup would give something back (R206). -/
def State.mayExpand (s : State) (g : Nat) : Bool :=
  let x := s.grp g
  x.foldU.isEmpty && x.refillU.isEmpty && x.warps.all (fun y => y.fold.isNone && y.refill.isEmpty)
  && (!x.spilledU.isEmpty || x.warps.any (fun y =>
    let ls := s.freeLs x.die x.core y.quad x.region
    !y.spilled.isEmpty || (y.ls ||| ls) != y.ls))

/-- What the units that serve a workgroup may do: a saved one resumes where it can. -/
def State.groupActs (s : State) (g : Nat) : List Instr :=
  let x := s.grp g
  if !x.alive then []
  else if x.save == .saved then
    s.coresOf.map (fun k => .resume g k.1 k.2 (s.someUnits k.1 k.2 x.vdev x.scrSize))
  else
    (List.range x.warps.length).flatMap (fun w => warpActs x g w (x.wrp w))
    ++ (if x.warps.any (fun y => y.threads.any Thread.blocked) then [.barrierWake g] else [])
    ++ (if x.foldU.isEmpty then [] else [.foldComplete g none])
    ++ (if x.refillU.isEmpty then [] else [.expansionRefill g none])
    ++ (if s.mayExpand g then [.expansion g] else [])
    ++ x.needs.flatMap (fun k => [.spanFill g k.1 k.2, .engineFault (.span ⟨g, 0, 0⟩ k.1 k.2)])
    ++ (if x.liveIds.isEmpty then .spanWriteBack g none :: x.spanFaults ⟨g, 0, 0⟩ else [])
    ++ (match x.save with
      | .pending => [.draining g, .forcedSave g]
      | .draining => [.drainComplete g]
      | .writing => [.saveWritten g]
      | _ => [])

/-- What the matrix units, the table loader and the slices of a core may do. -/
def State.coreActs (s : State) (d c : Nat) : List Instr :=
  (List.range 4).flatMap (fun q =>
    (if (s.residents d c).any (fun x => x.warps.any (fun w => w.quad == q && !w.mops.isEmpty)) then [.chaserStep d c q] else [])
    ++ (match (s.quad d c q).own with
      | .shared _ _ stop => if stop ≤ s.cycle d c then [.sliceEnd d c q] else []
      | _ => []))
  ++ (if (s.core d c).atlds.isEmpty then [] else [.bankWrite d c 0, .bankWrite d c 1])

/-- What the cluster units may do: queues, waves, gangs, lane workgroups. -/
def State.clusterActs (s : State) : List Instr :=
  (List.range s.queues.length).flatMap (fun q => [.slotHeaderWrite q, .queueService q])
  ++ s.tasks.flatMap (fun k =>
    .engineFault (.task k.id) :: (List.range 4).map (fun j =>
      let n := match s.readN k.die k.vdev k.desc.toNat 64 with
        | .ok l => 1024 * (kdOf (byteAt l)).scr
        | .error _ => 0
      .waveFormation k.die k.cl (4 * k.cl + j) k.id (s.someUnits k.die (4 * k.cl + j) k.vdev n)))
  ++ s.launches.flatMap (fun l =>
    if 2 ≤ l.st then []
    else s.coresOf.map (fun k =>
      .gangPlacement l.id k.1 k.2 (s.someUnits k.1 k.2 l.vdev (1024 * (l.roles.map (fun r => r.scr)).sum))))
  ++ (List.range s.spinners.length).flatMap (fun n =>
    let x := s.spin n
    if x.st ≠ .running ∨ x.grp ≠ none then []
    else (List.range 4).map (fun j =>
      .laneWorkgroupPlacement n x.die (4 * x.cl + j) (s.someUnits x.die (4 * x.cl + j) x.vdev (1024 * x.kdesc.scr))))

/-- What the resident system may do for a system call without a choice of its own. -/
def callAct (c : Call) : List Instr :=
  if c.away then []
  else if c.res.isSome then [.syscallReply c.id]
  else match c.num with
  | 0x000 => [.version c.id]
  | 0x001 => [.launch c.id]
  | 0x002 => [.lstat c.id]
  | 0x003 => [.lwait c.id]
  | 0x004 => [.qopen c.id (BitVec.ofNat 16 (c.id % 0xFFFF))]
  | 0x005 => [.qclose c.id]
  | 0x006 => []
  | 0x007 => [.munmap c.id]
  | 0x008 => []
  | 0x009 => [.rdestroy c.id]
  | 0x00A => [.fwait c.id]
  | 0x00B => [.fresolve c.id]
  | 0x00C => [.log c.id]
  | 0x00D => [.ckpt c.id]
  | 0x00E => [.resync c.id]
  | _ => [.unassignedSyscall c.id]

/-- What a unit of the part may do next on its own: an event of the opcode table, or one of the model's own: a scratch access
that waits in its bank queue is performed (R341), a write reaches the home at the end of its path (R344), a peer acknowledges a
write (R394), a Leaving page goes (R404), an access from outside or a peer's request that had to wait is tried again (R350,
R393, R407), a workgroup of a weight-0 device gives room to a slice holder (R369), old code returns to its heap (R360). -/
inductive Act where
  | ev (i : Instr)
  | bank (g id : Nat)
  | path (d h : Nat)
  | ack (k : Nat)
  | depart (v page : Nat)
  | outside (k : Nat)
  | peers
  | arrived (v : Nat)
  | holder (d c q : Nat)
  | heap (img : Nat)

/-- What an act does. -/
def runAct (a : Act) (s : State) : Host.Outcome State Fault Refusal :=
  match a with
  | .ev i => exec i s
  | .bank g id => .next (s.performBank g id)
  | .path d h => .next (s.arrivePath d h)
  | .ack k =>
    let s := { s with fab := { s.fab with unack := s.fab.unack.eraseIdx k } }
    .next ((List.range s.groups.length).foldl State.settle s)
  | .depart v page => .next (s.depart v page)
  | .outside k => .next (s.outRetry k)
  | .peers => .next s.serveWaiting
  | .arrived v => .next ((s.serveHeld v).endMigIn v)
  | .holder d c q => .next (s.holderNeed d c q)
  | .heap img => .next (s.reclaim img)

/-- The model's own acts on memory: what waits in bank queues and on paths. -/
def State.memoryActs (s : State) : List Act :=
  (List.range s.groups.length).flatMap (fun g => (s.grp g).bank.map (fun o => .bank g o.id))
  ++ (List.range 4).flatMap (fun d => (s.die d).paths.map (fun p => .path d p.1))
/-- The model's own acts on the fabric. -/
def State.fabricActs (s : State) : List Act :=
  (((List.range s.fab.unack.length).filter (fun k => (s.fab.unack[k]?).any (fun u => s.reachable u.part))).map (fun k => .ack k))
  ++ s.fab.migOut.flatMap (fun m => (m.pages.filter (fun p => p.2 == .leaving)).map (fun p => .depart m.vdev p.1))
  ++ (List.range s.fab.outHeld.length).map (fun k => .outside k)
  ++ (if s.fab.waiting.isEmpty then [] else [.peers])
  ++ (s.fab.migIn.filter (fun m => !m.held.isEmpty)).map (fun m => .arrived m.vdev)
/-- The model's own acts of the resident system. -/
def State.residentActs (s : State) : List Act :=
  s.coresOf.flatMap (fun k => ((List.range 4).filter (fun q => (s.quad k.1 k.2 q).isShared)).map (fun q => .holder k.1 k.2 q))
  ++ ((List.range s.images.length).filter (fun i => (s.images[i]?).any (fun x => !x.old.isEmpty))).map (fun i => .heap i)
  ++ s.pkg.due.map (fun k => .ev (.reserveBringIn k.1 k.2.1 k.2.2 (Config.today s.clock)))

/-- Every act that a unit of the part may do next on its own. -/
def State.acts (s : State) : List Act :=
  ((if s.pkg.stage = 0 ∧ s.pkg.bootFail = 0 then [Instr.boot []] else [])
    ++ (List.range s.groups.length).flatMap s.groupActs
    ++ s.coresOf.flatMap (fun (k : Nat × Nat) => s.coreActs k.1 k.2)
    ++ s.clusterActs
    ++ s.calls.flatMap callAct).map Act.ev
  ++ s.memoryActs ++ s.fabricActs ++ s.residentActs

/-- The flits of 64 bytes queued on the path from one die to another (R324): the lines that writes on their way lie in.
(DEDUCED, log 48). -/
def State.flits (s : State) (d h : Nat) : Nat := (((s.path d h).map (fun w => w.pa / 64)).eraseDups).length
/-- What the counters of the dies bring at this value of the clock: the token periods (R333) and the epochs of the devices'
assays (R324). -/
def State.timed (s : State) : List Instr :=
  (List.range 4).flatMap (fun d =>
    let n := s.clock + (s.die d).skew
    (if n % 8192 = 0 && !(s.die d).toks.isEmpty then [.tokenPeriod d] else [])
    ++ (s.vdevs.filter (fun v => decide (n % 2 ^ (16 + v.assay.epl) = 0))).map (fun v =>
        .epochEnd d v.num ((List.range 4).map (s.flits d))))

/-! ## The choice of a step -/

/-- An event of the agenda; what is no event has no place there and is passed over. -/
def runEvent (i : Instr) (s : State) : Host.Outcome State Fault Refusal :=
  match i.view with
  | .event => exec i s
  | _ => .next s

/-- The quadrants in which a warp may be picked. -/
def State.liveQuads (s : State) : List (Nat × Nat × Nat) := (s.eligibles.map s.quadOf).eraseDups

/-- The quadrant with the `k`-th number makes its pick: a due mark of the packer comes first. -/
def State.issueAt (s : State) (k : Nat) : Host.Outcome State Fault Refusal :=
  let qs := s.liveQuads
  let q := qs.getD (k % qs.length) (0, 0, 0)
  match s.pickWarp (s.quad q.1 q.2.1 q.2.2) (s.eligibles.filter (fun v => s.quadOf v == q)) with
  | none => .next s
  | some (g, w) =>
    match s.dueMark g w with
    | some i => exec i s
    | none => (s.opportunity g w).runPack

/-- The act with the `k`-th number. -/
def State.actAt (s : State) (k : Nat) : Host.Outcome State Fault Refusal :=
  let l := s.acts
  match l[k % l.length]? with
  | some a => runAct a s
  | none => .next s

/-- A step by its number: an even one issues where a warp can, an odd one lets a unit act. (DESIGN CHOICE, log 7). -/
def runTurn (n : Nat) (s : State) : Host.Outcome State Fault Refusal :=
  if n % 2 = 0 ∧ !s.eligibles.isEmpty then s.issueAt (n / 2)
  else if n % 2 = 1 ∧ !s.acts.isEmpty then s.actAt (n / 2)
  else if s.eligibles.isEmpty then s.actAt (n / 2)
  else s.issueAt (n / 2)

end Sys2Proof.Machine
end

