-- ==== Sys2Proof/Machine/Step.lean ====
section
/-! DEFINITION. One step of the machine, and a machine about to fetch a given instruction. -/
namespace Sys2Proof.Machine

/-- What a step does once nothing comes from outside: what stands on the agenda (what the counters bring, the acts of the resident
system and of the outside world, in the order in which the state lists them); then a pick in progress goes on (R84);
then the number that `turn` gives, or the clock, settles between the issue of a quadrant and an act of a hardware unit. -/
def State.turnOf (s : State) : Host.Outcome State Fault Refusal :=
  match s.agenda with
  | i :: r => runEvent i { s with agenda := r }
  | [] =>
    if s.pack.ts.isEmpty then
      let n := s.turn.headD (s.clock - 1)
      runTurn n { s with turn := s.turn.tail }
    else s.runPack

/-- What a step does to the rest of the machine once its act is done: what a queue publishes is delivered (R282), waits end
(R28), lane workgroups are placed where there is room (R301), and lane sets that nobody holds are handed back (R266). -/
def State.endOfStep (s : State) : State := s.deliverQueues.endWaits.placeRuns.reportAll.sweep

/-- One step. What the counters bring at the new value of the clock goes to the head of the agenda; an input comes first, unless
it passes. -/
def step (s : State) : Host.Outcome State Fault Refusal :=
  if s.pkg.stopped then .fault .stopped
  else
    let i := s.inputs.headD .pass
    let s := { s with
      clock := s.clock + 1
      inputs := s.inputs.tail }
    let s := { s with agenda := s.timed ++ s.agenda }
    onNext State.endOfStep (match i with
      | .pass => s.turnOf
      | _ => .next (s.input i))

/-- The words of a code line that starts with the low bits of a number: the header position and the words behind it. -/
def lineOf (head w : Nat) : List DWord := (BitVec.ofNat 64 head :: BitVec.ofNat 64 w :: List.replicate 6 0)

/-- The workgroup of one warp and one thread that stands where the word is fetched. -/
def fetchGroup (prerin header : Bool) : Group :=
  let kd := { KDesc.zero with blk := 16 }
  let th := { Thread.create kd (if prerin then 0 else 1) .launch 0 with
    tix := if prerin || header then 0 else 1
    len := if prerin || header then 0 else 1 }
  { Group.void with
    vdev := 1
    alive := true
    warps := [Warp.new kd 0 0 16 8 0xF (newThreads 1 (fun _ => th)) 0] }

/-- The machine with an instruction where `step` fetches its next one: in the instruction cache of die 0, at address 0 of
device 1 (a Prerin word, or a header) or behind a header of one word, with a thread picked there.
(DESIGN CHOICE, log 8). -/
def State.withFetchWord (s : State) (nbits w : Nat) : State :=
  let prerin := decide (nbits ≤ 32)
  let header := !prerin && decide (w / 2 ^ 62 % 4 = 2)
  let words := if prerin || header then lineOf w 0 else lineOf 0x803C002000000000 w
  let s := s.modD 0 (fun x => { x with icache := ⟨1, 0, words⟩ :: x.icache })
  { s with
    pkg := { s.pkg with stopped := false }
    inputs := []
    agenda := []
    groups := s.groups ++ [fetchGroup prerin header]
    pack := ⟨s.groups.length, 0, [0]⟩ }

end Sys2Proof.Machine
end

