-- ==== Sys2Proof/Safety.lean ====
section
/-! DEFINITION. The terms in which claims are stated: canonical memory, a pack that stands ready to issue an instruction,
and the machine with the threads of that pack changed and nothing else. -/
namespace Sys2Proof.Machine

/-- The canonical form of physical memory: addresses strictly rising, no entry equal to what an unlisted address reads as. -/
def Memory.wf (m : List Host.Cell) : Bool := FMap.wf memDefault m

/-- The invariant of every state: physical memory has its canonical form. -/
def State.wf (s : State) : Bool := Memory.wf s.mem

/-- A run is safe while its states keep the invariant and its steps answer a next state. -/
def State.safe (s : State) : Prop := s.wf = true ∧ s.pkg.stopped = false

/-- The register files of a thread in their canonical form: what reads as written rests on it. -/
def Thread.wf (t : Thread) : Bool := FMap.wf Val.zero t.g && FMap.wf PVal.zero t.p && FMap.wf 0 t.f

/-- The warp of the pack in issue. -/
abbrev State.pwrp (s : State) : Warp := s.wrp s.pack.g s.pack.w
/-- A thread of the warp of the pack in issue. -/
abbrev State.pthr (s : State) (u : Nat) : Thread := s.thr s.pack.g s.pack.w u
/-- The workgroup of the pack in issue. -/
abbrev State.pgrp (s : State) : Group := s.grp s.pack.g

/-- The pack in issue names different Ready threads that exist. -/
abbrev State.packReady (s : State) : Prop :=
  s.pack.g < s.groups.length ∧ s.pack.w < s.pgrp.warps.length ∧ s.pack.ts ≠ [] ∧ s.pack.ts.Nodup
  ∧ ∀ u ∈ s.pack.ts, u < s.pwrp.threads.length ∧ (s.pthr u).ready = true

/-- The pack in issue goes past the decode checks of an instruction: nothing in its word traps for this warp (R424, R15,
R16), no register it names lies in a spilled block (R202) or awaits a result (R81). -/
abbrev State.passes (s : State) (i : Ins) : Prop :=
  s.packReady ∧ gate s.pwrp i (s.pthr (s.pack.ts.headD 0)) = none ∧ s.pwrp.need i.use = []
  ∧ ∀ u ∈ s.pack.ts, (s.pthr u).waits i.use = false

/-- The guard of an instruction is poisoned in no thread of the pack (R68). -/
abbrev State.guardsClean (s : State) (i : Ins) : Prop :=
  ∀ u ∈ s.pack.ts, (s.pthr u).guard i.f.guard = .take ∨ (s.pthr u).guard i.f.guard = .skip

/-- The instruction has its effect in a thread: the guard is true and none of its own operands traps (R64). -/
abbrev Thread.takes (t : Thread) (i : Ins) : Prop := t.guard i.f.guard = .take ∧ poisonTrap t i = none

/-- A thread after an instruction that acts on it by registers alone: the effect where the guard is true, and the move past
the instruction. -/
def Thread.given (x : Thread) (i : Ins) (e : Thread → Eff) : Thread :=
  (x.apply (if x.guard i.f.guard = .take then e x else Eff.none)).advance i.words

/-- The machine with every thread `u` of one warp changed by `f u`, and nothing else. -/
def State.mapThr (s : State) (g w : Nat) (f : Nat → Thread → Thread) : State :=
  s.modW g w (fun y => { y with threads := y.threads.mapIdx f })

/-- The machine with the threads of the pack changed by `f`, and nothing else. -/
def State.mapPack (s : State) (f : Nat → Thread → Thread) : State :=
  s.mapThr s.pack.g s.pack.w (fun u x => if u ∈ s.pack.ts then f u x else x)

/-- A pack of one thread, in which the instruction has its effect: the thread is `u`. -/
abbrev State.alone (s : State) (i : Ins) (u : Nat) : Prop := s.pack.ts = [u] ∧ s.passes i ∧ (s.pthr u).takes i

/-- The flag that SF names has room in the thread for one operation more (R80). -/
abbrev Thread.flagRoom (t : Thread) (f : Option Nat) : Prop := f.all (fun n => decide (t.flagCount n < 255)) = true

/-- A pack in which a pack-once instruction has its effect: every thread takes it, and the flag that SF names in the thread
that supplies the operands has room in each (R80, R213). -/
abbrev State.together (s : State) (i : Ins) : Prop :=
  s.passes i ∧ ∀ u ∈ s.pack.ts, (s.pthr u).takes i ∧ (s.pthr u).flagRoom (i.flagOf (s.pthr (s.pack.ts.headD 0)))

/-- A thread after an instruction that its pack executed once: it moves on, and where the operation is still pending the
flag that SF names rises (R80, R213). -/
def Thread.onward (t : Thread) (i : Ins) (flag : Option Nat) (pending : Bool) : Thread :=
  (match flag with
   | some n => if pending then t.raiseFlag n else t
   | none => t).advance i.words

/-- A thread can take a trap: it is live, runs no handler, and its kernel descriptor names one (R34, R36). -/
abbrev State.trapsAt (s : State) (g w u : Nat) : Prop :=
  (s.thr g w u).live = true ∧ (s.thr g w u).hnd = false ∧ (s.wrp g w).kd.trap ≠ 0

/-- Two states of a thread agree on everything that an instruction of another thread must leave alone: registers,
predicates, %status and the registers of trap entry. -/
def Thread.sameFiles (x y : Thread) : Prop :=
  x.g = y.g ∧ x.p = y.p ∧ x.status = y.status ∧ x.tpc = y.tpc ∧ x.trix = y.trix ∧ x.tcause = y.tcause ∧ x.tval = y.tval

/-- From `s` to `t`, physical memory is unchanged, and so are the register files, %status and trap registers of every
thread but the threads `ts` of warp `w` of workgroup `g`. -/
def State.keepsElse (s t : State) (g w : Nat) (ts : List Nat) : Prop :=
  t.mem = s.mem ∧ ∀ a b u, ¬(a = g ∧ b = w ∧ u ∈ ts) → (t.thr a b u).sameFiles (s.thr a b u)

/-- A thread has moved past its instruction of `words` Prerin words and is otherwise, by its files, as `e` left it. -/
def Thread.movedOn (x y : Thread) (e : Eff) (words : Nat) : Prop :=
  y.sameFiles (x.apply e) ∧ y.pc = (x.advance words).pc ∧ y.tix = (x.advance words).tix ∧ y.mode = x.mode ∧ y.sched = x.sched

/-- The set of a thread, by its index, holds another thread, or is ALL, or the two are one (R195). -/
def Group.ordered (x : Group) (u v : Nat) : Bool := v == u || (x.byTid u).sAll || NSet.has (x.byTid u).sSet v

/-- A plain access of a scratch word by a thread, by its index, conflicts with the thread `v` (R196): with the writer that
its set does not hold; else, for a write, with a writer of less than a word where the access too is one, with the reader
named where there were several and its set is not ALL, or with the one reader that its set does not hold. -/
abbrev Group.tsMeets (x : Group) (u k : Nat) (write sub : Bool) (v : Nat) : Prop :=
  let a := x.tag k
  if (a.w.any (fun y => !x.ordered u y)) = true then a.w = some v
  else if write = false then False
  else if sub = true ∧ a.sub = true ∧ a.w.any (fun y => y != u) = true then a.w = some v
  else if a.mr = true then (x.byTid u).sAll = false ∧ a.rd = some v
  else a.rd = some v ∧ x.ordered u v = false

/-- A plain access of scratch by a thread conflicts at no word that it touches. -/
def Group.tsFree (x : Group) (u off n : Nat) (write sub : Bool) : Prop :=
  ∀ k ∈ wordsOf off n, ∀ v, ¬x.tsMeets u k write sub v

/-- From `s` to `t`, no file of any thread and no byte of memory is other than it was, and every thread of the pack has moved
past the instruction `i`; where the operation is `pending`, the flag that SF names in the first of them is one up (R80). -/
def State.packMoves (s t : State) (i : Ins) (pending : Bool) : Prop :=
  s.keepsElse t s.pack.g s.pack.w []
  ∧ ∀ u ∈ s.pack.ts, (s.pthr u).movedOn (t.pthr u) Eff.none i.words
      ∧ ∀ k, FMap.get 0 (t.pthr u).f k = FMap.get 0 (s.pthr u).f k
          + (if pending ∧ i.flagOf (s.pthr (s.pack.ts.headD 0)) = some k then 1 else 0)

/-- Registers of a thread, of `w` bytes each or in pairs, set to values with poison, from `d` on, the values extended to
the register by their signedness. -/
def loadsEff (d w n : Nat) (sg : Bool) (val : Nat → Nat × Bool) : Eff :=
  (List.range n).foldl (fun e k => e.and (loadEff (d + k) w sg (val k).1 (val k).2)) Eff.none

/-- The register and predicate files of a workgroup's threads, its scratch, spans and register pools in canonical form, and
no warp of more than 32 threads. -/
def Group.filesWf (g : Group) : Bool :=
  FMap.wf 0 g.scr && FMap.wf none g.spans && FMap.wf Pool.zero g.pools
  && g.warps.all (fun w => decide (w.threads.length ≤ 32) && w.threads.all Thread.wf)

/-- A core can take a saved workgroup (R209, R272, R152, R369): it has the resources and the region's budgets hold, no slice
holder needs them, the banks that its warps select can stand there, and a table loader is free for each pending load. -/
def State.canResume (s : State) (g d c : Nat) (units : List Nat) : Prop :=
  let x := s.grp g
  let y := { x with
    spilledU := []
    refillU := []
    foldU := []
    pools := x.pools.map (fun p => (p.1, (⟨p.2.n, 0⟩ : Pool)))
    forced := false }
  x.alive = true ∧ x.save = .saved
  ∧ (∃ z, s.fit d c units y (x.warps.map (fun w => w.resumed s.clock)) = some z ∧ s.holderNeeds z = false)
  ∧ ((s.resumeBanks g d c).bind (fun r => r.resumeLoads g d c)).isSome = true

/-- The form and operands of a native or Prerin instruction; none for ill, a P word, a header or an event. -/
def insOf (i : Instr) : Option Ins :=
  match i.view with
  | .native o f => some (nat o f)
  | .prerin o p => some (pri o p)
  | _ => none

/-! ## Exact values and their rounding, in terms of rational and real numbers (03_number_formats.md) -/

/-- The exact value of a finite decoded value (R39). -/
def FV.rat : FV → ℚ
  | .fin n m e => (if n then -1 else 1) * ((m : ℚ) * (2 : ℚ) ^ e)
  | _ => 0
/-- Whether a value is an infinity. -/
def FV.isInf : FV → Bool
  | .inf _ => true
  | _ => false

/-- `n` is `q` rounded to an integer: to nearest with ties to even (0), toward zero (1), toward −∞ (2) or toward +∞ (R44). -/
def isRounding (rnd : Nat) (q : ℝ) (n : Int) : Prop :=
  match rnd with
  | 0 => |q - n| ≤ 1 / 2 ∧ (|q - n| = 1 / 2 → n % 2 = 0)
  | 1 => |(n : ℝ)| ≤ |q| ∧ |q| < |(n : ℝ)| + 1 ∧ (0 ≤ q → 0 ≤ n) ∧ (q ≤ 0 → n ≤ 0)
  | 2 => (n : ℝ) ≤ q ∧ q < n + 1
  | _ => q ≤ n ∧ (n : ℝ) - 1 < q

/-- The spacing of a format's values at `v` is 2^u: that of the precision, never below the subnormal grid (R44). -/
def Fmt.spacing (f : Fmt) (v : ℝ) (u : Int) : Prop :=
  let low : Int := 1 - f.bias - f.fw
  (low ≤ u ∧ (2 : ℝ) ^ (u + f.fw) ≤ |v| ∧ |v| < (2 : ℝ) ^ (u + f.fw + 1)) ∨ (u = low ∧ |v| < (2 : ℝ) ^ (u + f.fw + 1))

/-- `x`, with the exceptions `e`, is the encoding that an exact value other than zero gives, rounded once (R44); where the
rounded magnitude exceeds the largest finite one, Table 3-2 (R45). -/
def Fmt.rounds (f : Fmt) (rnd : Nat) (sat : Bool) (v : ℝ) (x : Nat) (e : Exc) : Prop :=
  ∃ (u n : Int) (neg : Bool), f.spacing v u ∧ isRounding rnd (v / (2 : ℝ) ^ u) n ∧ (neg = true ↔ v < 0) ∧
    let r : ℚ := (n : ℚ) * (2 : ℚ) ^ u
    let away := match rnd with
      | 0 => true
      | 1 => false
      | 2 => neg
      | _ => !neg
    if (f.decode f.maxBits).rat < |r| then
      e = Exc.over ∧ x = (if sat = false ∧ away = true ∧ f ≠ e2m1 then (if f.inf then f.infBits neg else f.canon)
        else f.signBit neg + f.maxBits)
    else e = Exc.none ∧ x < 2 ^ f.width ∧ (f.decode x).isNan = false ∧ (f.decode x).isInf = false
      ∧ (f.decode x).rat = r ∧ (f.decode x).neg = neg

/-- A product of values, negated where `neg`. -/
structure Term where
  neg : Bool
  fs : List FV
/-- The sign of a product. -/
def Term.sign (t : Term) : Bool := t.fs.foldl (fun b x => b != x.neg) t.neg
/-- Whether a product holds an infinite factor. -/
def Term.isInf (t : Term) : Bool := t.fs.any FV.isInf
/-- Whether a product holds a zero factor. -/
def Term.isZero (t : Term) : Bool := t.fs.any FV.isZero
/-- The exact value of a product of finite factors. -/
def Term.rat (t : Term) : ℚ := (if t.neg then -1 else 1) * (t.fs.map FV.rat).prod

/-- A sum of products has no number as its value: 0 × ∞, or infinities of opposite signs (Table 3-5, R55). -/
def sumInvalid (ts : List Term) : Prop :=
  (∃ a ∈ ts, a.isInf = true ∧ a.isZero = true) ∨ ∃ a ∈ ts, ∃ b ∈ ts, a.isInf = true ∧ b.isInf = true ∧ a.sign ≠ b.sign

/-- `x`, with the exceptions `e`, is a sum of products computed exactly and rounded once (R42–R45, R60, R128). Where an
operand is a NaN, only a signalling one raises invalid (log 14). -/
def Fmt.sumsTo (f : Fmt) (rnd : Nat) (ts : List Term) (x : Nat) (e : Exc) : Prop :=
  let ops := ts.flatMap Term.fs
  let v : ℚ := (ts.map Term.rat).sum
  (ops.any FV.isNan = true → x = f.canon ∧ e = ⟨ops.any FV.isSig, false, false⟩)
  ∧ (ops.any FV.isNan = false →
    (sumInvalid ts → x = f.canon ∧ e = Exc.invalid)
    ∧ (¬sumInvalid ts →
      (∀ a ∈ ts, a.isInf = true → x = f.infBits a.sign ∧ e = Exc.none)
      ∧ (ts.any Term.isInf = false →
        (v ≠ 0 → f.rounds rnd false v x e)
        ∧ (v = 0 → e = Exc.none ∧ x = f.signBit
            (if ts.all Term.isZero && ts.all Term.sign then true
             else if ts.all Term.isZero && ts.all (fun a => !a.sign) then false else rnd == 2)))))

/-- The SAT01 clamp: a NaN and what has the sign bit give +0, what exceeds 1.0 gives 1.0 (R129). -/
def Fmt.clamp01 (f : Fmt) (on : Bool) (x : Nat) : Nat :=
  if on then (if (f.decode x).isNan || (f.decode x).neg then 0 else min x (f.bias * 2 ^ f.fw)) else x

/-- The sum of products on the encodings of one format, with the SAT01 clamp. -/
def Fmt.computes (f : Fmt) (rnd : Nat) (on : Bool) (ts : List Term) (x : Nat) (e : Exc) : Prop :=
  ∃ r, f.sumsTo rnd ts r e ∧ x = f.clamp01 on r

/-- A value converted to a floating-point format (R44–R46); `narrow` says that the format is narrower than an infinite
source. -/
def FV.floatsTo (v : FV) (narrow : Bool) (f : Fmt) (rnd : Nat) (sat : Bool) (x : Nat) (e : Exc) : Prop :=
  match v with
  | .nan s => x = f.canon ∧ e = ⟨s || f == e2m1, false, false⟩
  | .inf n =>
    if f.inf then e = Exc.none ∧ x = (if sat && narrow then f.signBit n + f.maxBits else f.infBits n)
    else e = Exc.invalid ∧ x = (if sat || f == e2m1 then f.signBit n + f.maxBits else f.canon)
  | .fin n m _ => if m = 0 then x = f.signBit n ∧ e = Exc.none else f.rounds rnd sat v.rat x e

/-- The range of an integer type. -/
def intRange (w : Nat) (sg : Bool) : Int × Int := if sg then (-(2 ^ (w - 1)), 2 ^ (w - 1) - 1) else (0, 2 ^ w - 1)

/-- A value converted to an integer type: rounded, then clamped (R46). -/
def FV.intsTo (v : FV) (w : Nat) (sg : Bool) (rnd : Nat) (r : Int) (e : Exc) : Prop :=
  let lim := intRange w sg
  match v with
  | .nan _ => r = 0 ∧ e = Exc.invalid
  | .inf n => r = (if n then lim.1 else lim.2) ∧ e = Exc.invalid
  | .fin _ _ _ => ∃ n : Int, isRounding rnd v.rat n ∧ r = max lim.1 (min n lim.2)
      ∧ e = if n < lim.1 ∨ lim.2 < n then Exc.invalid else Exc.none

/-- The number of bits of a conversion code (Table 6-3). -/
def codeWidth (c : Nat) : Nat :=
  match dstOf c with
  | .flt f => f.width
  | .int w _ => w

/-- An element of a tile as a value: a zero mantissa is +0 (R54, R59). -/
def Elem.value (x : Elem) (e : Int) : FV :=
  match x.c with
  | .fin => .fin (decide (x.m < 0)) x.m.natAbs e
  | .pinf => .inf false
  | .ninf => .inf true
  | .nan => .nan false

/-- A tile as the hardware can hold one (R54): a 16-bit exponent, mantissas of at most 2^47 − 1, none where the class is not
finite. -/
def Tile.sane (t : Tile) : Prop :=
  FMap.wf Elem.zero t.e = true ∧ -32768 ≤ t.x ∧ t.x ≤ 32767
  ∧ ∀ k, let y := FMap.get Elem.zero t.e k
    y.m.natAbs ≤ 2 ^ 47 - 1 ∧ (y.c ≠ .fin → y.m = 0)

/-- `v` is the exact sum of products of R55: NaN, an infinity, or a finite value. -/
def XV.isSum (v : XV) (ts : List Term) : Prop :=
  let bad := (ts.flatMap Term.fs).any FV.isNan = true ∨ sumInvalid ts
  (bad → v = .nan)
  ∧ (¬bad → (∀ a ∈ ts, a.isInf = true → v = .inf a.sign)
    ∧ (ts.any Term.isInf = false → ∃ d z, v = .fin d z ∧ (d.m : ℚ) * (2 : ℚ) ^ d.e = (ts.map Term.rat).sum))

/-- The tile `t'` is `t` after a step with the contributions `c` by element number, each with its poison (R56, R58, R63). -/
def Tile.stepped (t t' : Tile) (c : Nat → Option (XV × Bool)) : Prop :=
  ∃ (old inc : Nat → Nat → Int) (s : Nat),
    let el := fun (k : Nat) => FMap.get Elem.zero t.e k
    let el' := fun (k : Nat) => FMap.get Elem.zero t'.e k
    let sum := fun (z k : Nat) => old z k + inc z k
    let meets := fun (k : Nat) => (el k).c = .fin ∧ ∃ d n p, c k = some (.fin d n, p)
    let fits := fun (z : Nat) => ∀ k, meets k → |sum z k| ≤ 2 ^ 47 - 1
    (∀ z k, isRounding 0 (((el k).m : ℝ) / 2 ^ z) (old z k))
    ∧ (∀ (z k : Nat) d n p, c k = some (.fin d n, p) → isRounding 0 ((d.m : ℝ) * (2 : ℝ) ^ (d.e - t.x - (z : Int))) (inc z k))
    ∧ (s : Int) ≤ 32767 - t.x ∧ (∀ z < s, ¬fits z) ∧ ((s : Int) < 32767 - t.x → fits s) ∧ t'.x = t.x + s
    ∧ (∀ k, (el' k).p = ((el k).p || (c k).any (fun x => x.2)))
    ∧ (∀ k, (el k).c = .fin → c k = none → (el' k).c = .fin ∧ (el' k).m = old s k)
    ∧ (∀ k, meets k → if |sum s k| ≤ 2 ^ 47 - 1 then (el' k).c = .fin ∧ (el' k).m = sum s k
        else (el' k).c = (if sum s k < 0 then .ninf else .pinf) ∧ (el' k).m = 0)
    ∧ (∀ k, (el k).c ≠ .fin → (c k = none ∨ ∃ d n p, c k = some (.fin d n, p)) → (el' k).c = (el k).c ∧ (el' k).m = (el k).m)
    ∧ (∀ k v p, c k = some (v, p) → (∀ d n, v ≠ .fin d n) → (el' k).m = 0 ∧ (el' k).c =
        (if (el k).c = .fin then v.cls else if (el k).c = .nan ∨ v.cls = (el k).c then (el k).c else .nan))
    ∧ (t'.i = true ↔ t.i = true ∨ ∃ k, (el k).c ≠ .nan ∧ (el' k).c = .nan)
    ∧ (t'.o = true ↔ t.o = true ∨ ∃ k, meets k ∧ (el' k).c ≠ .fin)

/-- The bits that the conversion of an element, of `codeWidth` bits in the format of `src`, to the format of `dst` gives, and
its exceptions (R138): the bits are those of the destination's width. -/
def convertsTo (dst src rnd : Nat) (sat : Bool) (bits r : Nat) (e : Exc) : Prop :=
  match dstOf dst, dstOf src with
  | .int w sg, .int w' sg' =>
    let v := valOf w' sg' bits
    let lim := intRange w sg
    e = Exc.none ∧ r = ((if sat then max lim.1 (min v lim.2) else v) % 2 ^ w).toNat
  | .int w sg, .flt f => ∃ v, (f.decode bits).intsTo w sg rnd v e ∧ r = (v % 2 ^ w).toNat
  | .flt g, .int w' sg' => let v := valOf w' sg' bits
    (FV.fin (decide (v < 0)) v.natAbs 0).floatsTo true g rnd sat r e
  | .flt g, .flt f =>
    (f.decode bits).floatsTo (decide ((g.decode g.maxBits).rat < (f.decode f.maxBits).rat)) g rnd sat r e

end Sys2Proof.Machine
end

