-- ==== Sys2Proof/Certificates/Slice0/Obligations.lean ====
section
/-! DEFINITION. The statements for the provers. Each says of which rule of spec/ it is the form; where it rests on a choice
of the model, it names the log entry. -/
open Sys2Proof Sys2Proof.Machine

/-! ## Integer, logic and predicate instructions (05_integer_instructions.md)

An instruction of these families acts on each thread of its pack by the thread's registers alone: `Thread.given` is the
thread after it, `State.mapPack` says that nothing else of the machine changes. -/

/-- R105, R107, R108 with the helpers of R97: add, sub, the multiplies, min, max and abs, native and Prerin, write what the
rule gives into D, with the poison of their sources, in every thread of the pack whose guard is true; the others only move
on; nothing else of the machine changes.
The word operations in terms of bit vectors: for a 32-bit type, mov, and, or, xor, andn, add and sub without SAT, mul and
lea write the bit vector of the operation; an immediate is extended as the type says (R69, R104, R109, R118). -/
def Obligations.WordOperationsAndSums : Prop :=
  (∀ (i : Instr) (n : Ins) (s : State) (e : Thread → Eff), insOf i = some n → s.passes n → s.guardsClean n →
      (let sat := fun (v : Int) => if n.f.m.getLsbD 0 then satOf n.w n.sg v else v
       let wr := fun (v : Thread → Int) (x : Thread) => wrInt n.w n.sg n.d (v x) (n.psn x)
       let val64 := fun (x : Thread) => if n.sg then (x.reg64 n.c).toInt else ((x.reg64 n.c).toNat : Int)
       match n.op with
        | .add => e = wr (fun x => sat (n.valA x + n.valB x))
        | .sub => e = wr (fun x => sat (n.valA x - n.valB x))
        | .mul => e = wr (fun x => n.valA x * n.valB x)
        | .mulhi => e = wr (fun x => Int.fdiv (n.valA x * n.valB x) (2 ^ n.w))
        | .mad => e = wr (fun x => n.valA x * n.valB x + n.valC x)
        | .madhi => e = wr (fun x => Int.fdiv (n.valA x * n.valB x + n.valC x) (2 ^ n.w))
        | .mulw => e = fun x => Eff.pair n.d (BitVec.ofInt 64 (n.valA x * n.valB x)) (n.psn x)
        | .madw => e = fun x => Eff.pair n.d (BitVec.ofInt 64 (n.valA x * n.valB x + val64 x)) (n.psn x)
        | .min => e = wr (fun x => if n.valA x ≤ n.valB x then n.valA x else n.valB x)
        | .max => e = wr (fun x => if n.valA x ≤ n.valB x then n.valB x else n.valA x)
        | .abs => e = wr (fun x => sat |n.valB x|)
        | _ => False) →
      exec i s = .next (s.mapPack (fun _ x => x.given n e)))
  ∧ (∀ (i : Instr) (n : Ins) (s : State) (op : Word → Word → Word), insOf i = some n → s.passes n →
      s.guardsClean n → n.ty = 0 ∨ n.ty = 1 →
      (match n.op with
        | .mov => op = fun _ b => b
        | .and => op = fun a b => a &&& b
        | .or => op = fun a b => a ||| b
        | .xor => op = fun a b => a ^^^ b
        | .andn => op = fun a b => a &&& ~~~b
        | .add => n.f.m.getLsbD 0 = false ∧ op = fun a b => a + b
        | .sub => n.f.m.getLsbD 0 = false ∧ op = fun a b => a - b
        | .mul => op = fun a b => a * b
        | .lea => op = fun (a b : Word) => a + (b <<< n.mb 0 3)
        | _ => False) →
      exec i s = .next (s.mapPack (fun _ x => x.given n (fun x => Eff.reg n.d
        ⟨op (x.reg n.a).v
          (if n.imm then (if n.ty = 0 then (imm16 n.f).signExtend 32 else (imm16 n.f).setWidth 32) else (x.reg n.b).v),
         n.psn x⟩))))

/-- R106: addx and subx write the word and the carry or borrow of a 32-bit sum or difference with the carry predicate; both
are poisoned where a source or the carry-in is. -/
def Obligations.CarryForms : Prop :=
  ∀ (i : Instr) (n : Ins) (s : State), insOf i = some n → s.passes n → s.guardsClean n → n.ty = 0 ∨ n.ty = 1 →
    n.op = .addx ∨ n.op = .subx →
    exec i s = .next (s.mapPack (fun _ x => x.given n (fun x =>
      let k := n.mb 0 4
      let cin := x.pred (k % 8)
      let c := if cin.v != decide (8 ≤ k) then 1 else 0
      let a := (x.reg n.a).v
      let b := if n.imm then (if n.ty = 0 then (imm16 n.f).signExtend 32 else (imm16 n.f).setWidth 32) else (x.reg n.b).v
      let p := n.psn x || cin.p
      if n.op = .addx then
        (Eff.reg n.d ⟨a + b + BitVec.ofNat 32 c, p⟩).and
          (Eff.pred (n.mb 4 3) ⟨decide (2 ^ 32 ≤ a.toNat + b.toNat + c), p⟩)
      else
        (Eff.reg n.d ⟨a - b - BitVec.ofNat 32 c, p⟩).and (Eff.pred (n.mb 4 3) ⟨decide (a.toNat < b.toNat + c), p⟩))))

/-- R110, R122: every bit of lop3's result is the table bit that the bits of A, B and C select, A the least significant; plop
does the same with three predicates. -/
def Obligations.TableBitSelected : Prop :=
  ∀ (i : Instr) (n : Ins) (s : State), insOf i = some n → s.passes n → s.guardsClean n →
    (n.op = .lop3 → n.imm = false → ∃ v : Thread → Nat,
      (∀ x k, k < n.w → (v x).testBit k = n.f.m.getLsbD (((x.raw n.w n.a).testBit k).toNat
        + 2 * ((x.raw n.w n.b).testBit k).toNat + 4 * ((x.raw n.w n.c).testBit k).toNat))
      ∧ exec i s = .next (s.mapPack (fun _ x => x.given n (fun x => wrInt n.w n.sg n.d (v x) (n.psn x)))))
    ∧ (n.op = .plop → exec i s = .next (s.mapPack (fun _ x => x.given n (fun x =>
        let a := x.pred (n.a % 8)
        let b := x.pred (n.b % 8)
        let c := x.pred (n.c % 8)
        Eff.pred (n.d % 8) ⟨n.f.m.getLsbD (a.v.toNat + 2 * b.v.toNat + 4 * c.v.toNat), a.p || b.p || c.p⟩))))

/-- R111: shl, shr and sar shift A by the whole count, so that a count of the width or more leaves zeros (sar: copies of the
sign); rot moves the bit at position k of the result from position k − m (RIGHT: k + m) modulo the width. -/
def Obligations.ShiftsAndRotates : Prop :=
  ∀ (i : Instr) (n : Ins) (s : State), insOf i = some n → s.passes n → s.guardsClean n →
    let count := fun (x : Thread) =>
      let c := (if n.imm then (imm16 n.f).toNat else (x.reg n.b).v.toNat) % 256
      if n.f.m.getLsbD 0 then c % n.w else c
    let a := fun (x : Thread) => x.raw n.w n.a % 2 ^ n.w
    let out := fun (v : Thread → Int) => exec i s
      = .next (s.mapPack (fun _ x => x.given n (fun x => wrInt n.w n.sg n.d (v x) (n.psn x))))
    (n.op = .shl → out (fun x => (a x * 2 ^ count x % 2 ^ n.w : Nat)))
    ∧ (n.op = .shr → out (fun x => (a x / 2 ^ count x : Nat)))
    ∧ (n.op = .sar → out (fun x => Int.fdiv (valOf n.w true (a x)) (2 ^ count x)))
    ∧ (n.op = .rot → ∃ v : Thread → Nat,
        (∀ x k, k < n.w → (v x).testBit k = (a x).testBit
          (if n.f.m.getLsbD 1 then (k + count x % n.w) % n.w else (k + n.w - count x % n.w) % n.w))
        ∧ out (fun x => v x))

/-- R114: popc counts the one bits, clz the zero bits above the highest one bit, ctz those below the lowest (both the width
where there is no one bit), brev reverses the bits. -/
def Obligations.CountsOfBits : Prop :=
  ∀ (i : Instr) (n : Ins) (s : State), insOf i = some n → s.passes n → s.guardsClean n → ∃ v : Thread → Nat,
    let b := fun (x : Thread) => n.rawB x
    let one := fun (e : Thread → Eff) => exec i s = .next (s.mapPack (fun _ x => x.given n e))
    let word := fun (x : Thread) => Eff.reg n.d ⟨BitVec.ofNat 32 (v x), n.psn x⟩
    (n.op = .popc → one word ∧ ∀ x, v x = ((List.range n.w).filter (fun k => (b x).testBit k)).length)
    ∧ (n.op = .clz → one word ∧ ∀ x, v x ≤ n.w ∧ (∀ k, n.w - v x ≤ k → k < n.w → (b x).testBit k = false)
        ∧ (v x < n.w → (b x).testBit (n.w - 1 - v x) = true))
    ∧ (n.op = .ctz → one word ∧ ∀ x, v x ≤ n.w ∧ (∀ k, k < v x → (b x).testBit k = false)
        ∧ (v x < n.w → (b x).testBit (v x) = true))
    ∧ (n.op = .brev → one (fun x => wrInt n.w n.sg n.d (v x) (n.psn x))
        ∧ ∀ x k, k < n.w → (v x).testBit k = (b x).testBit (n.w - 1 - k))

/-- Every other integer, logic and predicate form, native and Prerin, completes with the effect of its entry (R104, R109,
R112, R113, R115–R121, R123) in each thread whose guard is true, and changes nothing else.
R104, R109, R112, R113, R115–R121, R123 with the helpers of R97: what mov, movh, and, or, xor, andn, fsh, bfx, bfi, bperm,
sel, cmp, lea, sad, dot4, dot2, vadd2, vsub2, vmax2, vmin2 and pmov write, in words, bits, bytes and lanes of their operands,
with the poison of every register and predicate that they read. -/
def Obligations.IntegerFormsAndValues : Prop :=
  (∀ (i : Instr) (n : Ins) (s : State) (sem : Ins → Thread → Eff), insOf i = some n → s.passes n → s.guardsClean n →
      (match n.op with
        | .mov => sem = aluMov | .movh => sem = aluMovh | .and => sem = aluAnd | .or => sem = aluOr | .xor => sem = aluXor
        | .andn => sem = aluAndn | .fsh => sem = aluFsh | .bfx => sem = aluBfx | .bfi => sem = aluBfi
        | .bperm => sem = aluBperm | .sel => sem = aluSel | .cmp => sem = aluCmp | .lea => sem = aluLea
        | .sad => sem = aluSad | .dot4 => sem = aluDot4 | .dot2 => sem = aluDot2 | .vadd2 => sem = aluVadd2
        | .vsub2 => sem = aluVsub2 | .vmax2 => sem = aluVmax2 | .vmin2 => sem = aluVmin2 | .pmov => sem = aluPmov
        | _ => False) →
      exec i s = .next (s.mapPack (fun _ x => x.given n (sem n))))
  ∧ (∀ (i : Instr) (n : Ins) (s : State), insOf i = some n → s.passes n → s.guardsClean n →
      let out := fun (e : Thread → Eff) => exec i s = .next (s.mapPack (fun _ x => x.given n e))
      let wr := fun (v : Thread → Int) => out (fun x => wrInt n.w n.sg n.d (v x) (n.psn x))
      let word := fun (v : Thread → Word) => out (fun x => Eff.reg n.d ⟨v x, n.psn x⟩)
      let A := fun (x : Thread) => (x.reg n.a).v
      let B := fun (x : Thread) => (x.reg n.b).v
      let C := fun (x : Thread) => (x.reg n.c).v
      let imm := (imm16 n.f).toNat
      let code := fun (x : Thread) => x.pred (n.mb 0 4 % 8)
      let sel := fun (x : Thread) => (code x).v != decide (8 ≤ n.mb 0 4)
      let lane := fun (w : Nat) (sg : Bool) (v k : Nat) => valOf w sg (v / 2 ^ (w * k) % 2 ^ w)
      let flag := fun (k : Nat) => n.f.m.getLsbD k
      (n.op = .mov → wr (fun x => n.valB x))
      ∧ (n.op = .movh → word (fun x =>
          (if n.imm then imm16 n.f else (B x).setWidth 16) ++ (A x).setWidth 16))
      ∧ (n.op = .and ∨ n.op = .or ∨ n.op = .xor ∨ n.op = .andn → ∃ v : Thread → Nat, wr (fun x => v x) ∧
          ∀ x k, k < n.w → let a := (n.rawA x).testBit k
            let b := (n.rawB x).testBit k
            (v x).testBit k = (match n.op with
              | .and => a && b
              | .or => a || b
              | .xor => a != b
              | _ => a && !b))
      ∧ (n.op = .fsh → word (fun x =>
          let c := (C x).toNat % 256
          let m := if flag 0 then c % 32 else min c 32
          let v : DWord := A x ++ B x
          if flag 1 then (v >>> m).setWidth 32 else (v <<< m).extractLsb' 32 32))
      ∧ (n.op = .bfx ∨ n.op = .bfi → ∃ v : Thread → Nat, wr (fun x => v x) ∧ ∀ x k, k < n.w →
          let c := if n.op = .bfi then (C x).toNat else if n.imm then imm else (B x).toNat
          let p := c % 256
          let l := if n.w ≤ p then 0 else min (c / 256 % 256) (n.w - p)
          let a := fun (j : Nat) => (n.rawA x).testBit j
          (v x).testBit k =
            if n.op = .bfi then (if p ≤ k ∧ k < p + l then (x.raw n.w n.b).testBit (k - p) else a k)
            else if l = 0 then false else if k < l then a (p + k) else n.sg && a (p + l - 1))
      ∧ (n.op = .bperm → ∃ v : Thread → Word, word v ∧ ∀ x k, k < 4 →
          let src := fun (j : Nat) => if j < 4 then (A x).toNat / 256 ^ j % 256
            else if n.imm then 0 else (B x).toNat / 256 ^ (j - 4) % 256
          let e := (if n.imm then imm else (C x).toNat) / 16 ^ k % 16
          let y := if 8 ≤ e then 0 else src e
          (v x).toNat / 256 ^ k % 256 = if flag k then (if 128 ≤ y then 255 else 0) else y)
      ∧ (n.op = .sel → out (fun x => wrInt n.w n.sg n.d (if sel x then n.valA x else n.valB x) (n.psn x || (code x).p)))
      ∧ (n.op = .cmp → out (fun x =>
          let a := n.valA x
          let b := n.valB x
          let c := match n.mb 0 3 with
            | 0 => decide (a = b)
            | 1 => decide (a ≠ b)
            | 2 => decide (a < b)
            | 3 => decide (a ≤ b)
            | 4 => decide (b < a)
            | _ => decide (b ≤ a)
          let q := x.pred (n.mb 5 3)
          Eff.pred (n.d % 8) (match n.mb 3 2 with
            | 0 => ⟨c, n.psn x⟩
            | 1 => ⟨c && q.v, n.psn x || q.p⟩
            | 2 => ⟨c || q.v, n.psn x || q.p⟩
            | _ => ⟨c != q.v, n.psn x || q.p⟩)))
      ∧ (n.op = .lea → wr (fun x =>
          let b := if n.imm then n.valB x else if n.sg then (B x).toInt else (B x).toNat
          n.rawA x + b * 2 ^ n.mb 0 3))
      ∧ (n.op = .sad → n.w ≤ 32 → word (fun x => C x + BitVec.ofInt 32 (((List.range (32 / n.w)).map (fun k =>
          |lane n.w n.sg (A x).toNat k - lane n.w n.sg (B x).toNat k|)).sum)))
      ∧ (n.op = .dot4 ∨ n.op = .dot2 → word (fun x =>
          let w := if n.op = .dot4 then 8 else 16
          let v := (C x).toInt + ((List.range (32 / w)).map (fun k =>
            lane w (flag 1) (A x).toNat k * lane w (flag 0) (B x).toNat k)).sum
          BitVec.ofInt 32 (if flag 2 then max (-(2 ^ 31)) (min v (2 ^ 31 - 1)) else v)))
      ∧ (n.op = .vadd2 ∨ n.op = .vsub2 ∨ n.op = .vmax2 ∨ n.op = .vmin2 → word (fun x =>
          let half := fun (k : Nat) =>
            let a := lane 16 n.sg (A x).toNat k
            let b := if n.imm then valOf 16 n.sg imm else lane 16 n.sg (B x).toNat k
            let lim := intRange 16 n.sg
            BitVec.ofInt 16 (match n.op with
              | .vadd2 => if flag 0 then max lim.1 (min (a + b) lim.2) else a + b
              | .vsub2 => if flag 0 then max lim.1 (min (a - b) lim.2) else a - b
              | .vmax2 => max a b
              | _ => min a b)
          half 1 ++ half 0))
      ∧ (n.op = .pmov → flag 0 = false → ∃ v : Thread → Word,
          out (fun x => Eff.reg n.d ⟨v x, (List.range 7).any (fun k => (x.pred k).p)⟩)
          ∧ ∀ x k, (v x).getLsbD k = (decide (k = 7) || (decide (k < 7) && (x.pred k).v)))
      ∧ (n.op = .pmov → flag 0 = true → out (fun x =>
          ⟨[], ((List.range 7).filter (fun k => flag (k + 1))).map (fun k => (k, ⟨(A x).getLsbD k, (x.reg n.a).p⟩)), 0⟩)))

/-! ## Floating-point, conversion and special-function instructions (06_float_instructions.md) -/

/-- Every floating-point, packed, conversion and special-function form that reads and writes registers alone, and nop, native
and Prerin, completes with the effect of its entry (R129–R145, R161) in each thread whose guard is true, and changes nothing
else.
R39, R43, Table 3-1: what every encoding of the six floating-point formats stands for.
R129, R134, R136, R142: fadd, fsub, fmul, ffma, fdot2, the packed hadd2, hmul2 and hfma2 (each lane on its own) and q4dec
compute their sum of products exactly and round it once, with the exceptions of Table 3-5 and the SAT01 clamp; an enabled
exception poisons D, and the sticky bits collect them.
R131–R133, R135, Table 6-2: fcmp and hcmp2 evaluate their condition, ±0 equal; fclamp takes the larger of A and the lower
bound, then the smaller of that and the upper; frnd gives the integral value of its mode with the sign of B; hmin2 and hmax2
act as R130 on each lane. A signalling NaN raises invalid. -/
def Obligations.FloatFormsAndValues : Prop :=
  (∀ (i : Instr) (n : Ins) (s : State) (sem : Ins → Thread → Eff), insOf i = some n → s.passes n → s.guardsClean n →
      (match n.op with
        | .fadd => sem = fluAdd | .fsub => sem = fluSub | .fmul => sem = fluMul | .ffma => sem = fluFma
        | .fcmp => sem = fluCmp | .fclamp => sem = fluClamp | .frnd => sem = fluRnd | .hadd2 => sem = fluAdd2
        | .hmul2 => sem = fluMul2 | .hfma2 => sem = fluFma2 | .hmin2 => sem = fluMin2 | .hmax2 => sem = fluMax2
        | .hcmp2 => sem = fluCmp2 | .fdot2 => sem = fluDot2 | .cvt => sem = fluCvt | .cvtpk => sem = fluCvtpk
        | .unpk => sem = fluUnpk | .q4enc => sem = fluQ4enc | .q4dec => sem = fluQ4dec | .frcp => sem = fluRcp
        | .frsq => sem = fluRsq | .fsqrt => sem = fluSqrt | .fex2 => sem = fluEx2 | .flg2 => sem = fluLg2
        | .fsin => sem = fluSin | .fcos => sem = fluCos | .ftanh => sem = fluTanh | .nop => sem = fun _ _ => Eff.none
        | _ => False) →
      exec i s = .next (s.mapPack (fun _ x => x.given n (sem n))))
  ∧ (∀ f ∈ [fp32, bf16, fp16, e4m3, e5m2, e2m1], ∀ x, x < 2 ^ f.width →
      let fr : Nat := x % 2 ^ f.fw
      let ex : Nat := x / 2 ^ f.fw % 2 ^ f.ew
      let neg := decide (2 ^ (f.width - 1) ≤ x)
      let top := ex = 2 ^ f.ew - 1
      let nan := top ∧ (if f = e4m3 then fr = 7 else f ≠ e2m1 ∧ fr ≠ 0)
      let inf := top ∧ fr = 0 ∧ f ≠ e4m3 ∧ f ≠ e2m1
      (nan → f.decode x = .nan (decide (f ≠ e4m3 ∧ f ≠ e5m2 ∧ fr < 2 ^ (f.fw - 1))))
      ∧ (inf → f.decode x = .inf neg)
      ∧ (¬nan → ¬inf → (f.decode x).isNan = false ∧ (f.decode x).isInf = false ∧ (f.decode x).neg = neg
          ∧ (f.decode x).rat = (if neg then -1 else 1) * (if ex = 0 then (fr : ℚ) / 2 ^ f.fw * 2 ^ (1 - f.bias : ℤ)
              else (1 + (fr : ℚ) / 2 ^ f.fw) * 2 ^ (ex - f.bias : ℤ))))
  ∧ (∀ (i : Instr) (n : Ins) (s : State), insOf i = some n → s.passes n → s.guardsClean n →
      let flag := fun (k : Nat) => n.f.m.getLsbD k
      let rnd := n.mb 8 3
      let A := fun (x : Thread) => (x.reg n.a).v.toNat
      let B := fun (x : Thread) => (x.reg n.b).v.toNat
      let C := fun (x : Thread) => (x.reg n.c).v.toNat
      let imm := (imm16 n.f).toNat
      let done := fun (p : Thread → Nat → Exc → Prop) => ∃ (v : Thread → Nat) (e : Thread → Exc), (∀ x, p x (v x) (e x))
        ∧ exec i s = .next (s.mapPack (fun _ x => x.given n (fun x =>
            ⟨[(n.d, ⟨BitVec.ofNat 32 (v x), n.psn x || (e x).poisons x⟩)], [], (e x).sticky⟩)))
      let a := fun (x : Thread) => fp32.decode (A x)
      let b := fun (x : Thread) => fp32.decode (if n.imm then imm * 2 ^ 16 else B x)
      let c := fun (x : Thread) => fp32.decode (C x)
      let h := if flag 0 then fp16 else bf16
      let half := fun (v k : Nat) => h.decode (v / 2 ^ (16 * k) % 2 ^ 16)
      let hb := fun (x : Thread) (k : Nat) => if n.imm then h.decode imm else half (B x) k
      let lanes := fun (ts : Thread → Nat → List Term) => done (fun x v e => ∃ (r0 r1 : Nat) (e0 e1 : Exc),
        h.computes rnd (flag 1) (ts x 0) r0 e0 ∧ h.computes rnd (flag 1) (ts x 1) r1 e1 ∧ v = r0 + 65536 * r1 ∧ e = e0.or e1)
      (n.op = .fadd → done (fun x => fp32.computes rnd (flag 0) [⟨false, [a x]⟩, ⟨false, [b x]⟩]))
      ∧ (n.op = .fsub → done (fun x => fp32.computes rnd (flag 0) [⟨false, [a x]⟩, ⟨true, [b x]⟩]))
      ∧ (n.op = .fmul → done (fun x => fp32.computes rnd (flag 0) [⟨false, [a x, b x]⟩]))
      ∧ (n.op = .ffma → n.imm = false → done (fun x =>
          fp32.computes rnd (flag 0) [⟨flag 1, [a x, b x]⟩, ⟨flag 2, [c x]⟩]))
      ∧ (n.op = .fdot2 → n.imm = false → done (fun x => fp32.computes rnd false
          [⟨false, [half (A x) 0, half (B x) 0]⟩, ⟨false, [half (A x) 1, half (B x) 1]⟩, ⟨false, [c x]⟩]))
      ∧ (n.op = .hadd2 → lanes (fun x k => [⟨false, [half (A x) k]⟩, ⟨false, [hb x k]⟩]))
      ∧ (n.op = .hmul2 → lanes (fun x k => [⟨false, [half (A x) k, hb x k]⟩]))
      ∧ (n.op = .hfma2 → lanes (fun x k => [⟨false, [half (A x) k, hb x k]⟩, ⟨false, [half (C x) k]⟩]))
      ∧ (n.op = .q4dec → done (fun x => fp32.computes rnd false
          [⟨false, [q4nVal (A x / 16 ^ n.mb 0 3 % 16), fp32.decode (B x)]⟩])))
  ∧ (∀ (i : Instr) (n : Ins) (s : State), insOf i = some n → s.passes n → s.guardsClean n →
      let A := fun (x : Thread) => (x.reg n.a).v.toNat
      let B := fun (x : Thread) => (x.reg n.b).v.toNat
      let C := fun (x : Thread) => (x.reg n.c).v.toNat
      let imm := (imm16 n.f).toNat
      let key := fun (w v : Nat) => if 2 ^ (w - 1) ≤ v then -((v % 2 ^ (w - 1) : Nat) : Int) else (v : Int)
      let key' := fun (w v : Nat) => if 2 ^ (w - 1) ≤ v then -((v % 2 ^ (w - 1) : Nat) : Int) - 1 else (v : Int)
      let cond := fun (f : Fmt) (c a b : Nat) =>
        let un := (f.decode a).isNan || (f.decode b).isNan
        let ka := key f.width a
        let kb := key f.width b
        match c with
        | 0 => !un && decide (ka = kb)
        | 1 => !un && decide (ka < kb)
        | 2 => !un && decide (ka ≤ kb)
        | 3 => !un && decide (kb < ka)
        | 4 => !un && decide (kb ≤ ka)
        | 5 => !un && decide (ka ≠ kb)
        | 6 => !un
        | 7 => un
        | 8 => un || decide (ka = kb)
        | 9 => un || decide (ka < kb)
        | 10 => un || decide (ka ≤ kb)
        | 11 => un || decide (kb < ka)
        | 12 => un || decide (kb ≤ ka)
        | _ => un || decide (ka ≠ kb)
      let pick := fun (f : Fmt) (mx : Bool) (a b : Nat) =>
        if (f.decode a).isNan && (f.decode b).isNan then f.canon else if (f.decode a).isNan then b
        else if (f.decode b).isNan then a
        else if (if mx then decide (key' f.width b ≤ key' f.width a) else decide (key' f.width a ≤ key' f.width b)) then a else b
      let sig := fun (f : Fmt) (l : List Nat) => l.any (fun a => (f.decode a).isSig)
      let out := fun (e : Thread → Eff) => exec i s = .next (s.mapPack (fun _ x => x.given n e))
      let res := fun (x : Thread) (v : Nat) (bad : Bool) =>
        (⟨[(n.d, ⟨BitVec.ofNat 32 v, n.psn x || (bad && x.enabled 0)⟩)], [], if bad then 1 else 0⟩ : Eff)
      let h := if n.f.m.getLsbD 0 then fp16 else bf16
      let half := fun (v k : Nat) => v / 2 ^ (16 * k) % 2 ^ 16
      let hb := fun (x : Thread) (k : Nat) => if n.imm then imm else half (B x) k
      (n.op = .fcmp → out (fun x =>
          let b := if n.imm then imm * 2 ^ 16 else B x
          let c := cond fp32 (n.mb 0 4) (A x) b
          let q := x.pred (n.mb 6 3)
          let bad := sig fp32 [A x, b]
          let p := n.psn x || (bad && x.enabled 0)
          ⟨[], [(n.d % 8, match n.mb 4 2 with
            | 0 => ⟨c, p⟩
            | 1 => ⟨c && q.v, p || q.p⟩
            | 2 => ⟨c || q.v, p || q.p⟩
            | _ => ⟨c != q.v, p || q.p⟩)], if bad then 1 else 0⟩))
      ∧ (n.op = .fclamp → n.imm = false → out (fun x =>
          res x (pick fp32 false (pick fp32 true (A x) (B x)) (C x)) (sig fp32 [A x, B x, C x])))
      ∧ (n.op = .hcmp2 → out (fun x =>
          let lane := fun (k : Nat) => if cond h (n.mb 1 4) (half (A x) k) (hb x k) then 0xFFFF else 0
          res x (lane 0 + 65536 * lane 1) (sig h [half (A x) 0, hb x 0, half (A x) 1, hb x 1])))
      ∧ (n.op = .hmin2 ∨ n.op = .hmax2 → out (fun x =>
          let lane := fun (k : Nat) => pick h (n.op == .hmax2) (half (A x) k) (hb x k)
          res x (lane 0 + 65536 * lane 1) (sig h [half (A x) 0, hb x 0, half (A x) 1, hb x 1])))
      ∧ (n.op = .frnd → ∃ v : Thread → Nat, out (fun x => res x (v x) (sig fp32 [B x])) ∧ ∀ x,
          let b := fp32.decode (B x)
          let r := fp32.decode (v x)
          (b.isNan = true → v x = fp32.canon) ∧ (b.isInf = true → v x = B x)
          ∧ (b.isNan = false → b.isInf = false → v x < 2 ^ 32 ∧ r.isNan = false ∧ r.isInf = false ∧ r.neg = b.neg
              ∧ ∃ k : Int, r.rat = k ∧ isRounding (n.mb 8 3) b.rat k)))

/-- R137–R141, R45–R48: cvt, cvtpk and unpk convert each element as the rules say, element by element; q4enc takes the code
whose value is nearest to A / B, the even one of two. A NaN of equal codes becomes canonical (model's choice). -/
def Obligations.ConversionsOfValues : Prop :=
  ∀ (i : Instr) (n : Ins) (s : State), insOf i = some n → s.passes n → s.guardsClean n →
    let rnd := n.mb 8 3
    let A := fun (x : Thread) => (x.reg n.a).v.toNat
    let B := fun (x : Thread) => (x.reg n.b).v.toNat
    let C := fun (x : Thread) => (x.reg n.c).v.toNat
    let field := fun (w v k : Nat) => v / 2 ^ (w * k) % 2 ^ w
    let out := fun (e : Thread → Eff) => exec i s = .next (s.mapPack (fun _ x => x.given n e))
    let put := fun (x : Thread) (v : Nat) (e : Exc) =>
      (⟨[(n.d, ⟨BitVec.ofNat 32 v, n.psn x || e.poisons x⟩)], [], e.sticky⟩ : Eff)
    let pair := fun (x : Thread) (v : Nat) (e : Exc) =>
      ({ Eff.pair n.d (BitVec.ofNat 64 v) (n.psn x || e.poisons x) with x := e.sticky } : Eff)
    (n.op = .cvt → ∃ (r : Thread → Nat) (e : Thread → Exc),
      let dst := n.mb 4 4
      let src := n.mb 0 4
      (∀ x, convertsTo dst src rnd (n.f.c.getLsbD 0)
        (field (codeWidth src) (if 14 ≤ src then (x.reg64 n.b).toNat else B x) (n.c / 2 % 8)) (r x) (e x))
      ∧ out (fun x => if 14 ≤ dst then pair x (r x) (e x)
          else put x (if dst = 10 ∨ dst = 12 then (valOf (codeWidth dst) true (r x) % 2 ^ 32).toNat else r x) (e x)))
    ∧ (n.op = .cvtpk → n.imm = false → n.mb 4 4 ≤ 6 → ∃ (a b v : Thread → Nat) (e e' : Thread → Exc),
      let dst := n.mb 4 4
      let w := codeWidth dst
      let k := 2 * n.mb 0 2
      (∀ x, convertsTo dst 7 rnd (n.f.m.getLsbD 3) (A x) (a x) (e x)
        ∧ convertsTo dst 7 rnd (n.f.m.getLsbD 3) (B x) (b x) (e' x))
      ∧ (∀ x j, j < 32 / w → field w (v x) j
          = if j = k then a x else if j = k + 1 then b x else if dst ≤ 1 then 0 else field w (C x) j)
      ∧ out (fun x => put x (v x) ((e x).or (e' x))))
    ∧ (n.op = .unpk → n.mb 0 4 ≤ 6 → ∃ (a b : Thread → Nat) (e e' : Thread → Exc),
      let src := n.mb 0 4
      let w := codeWidth src
      let k := 2 * n.mb 4 3
      (∀ x, convertsTo 7 src 0 false (field w (B x) k) (a x) (e x)
        ∧ convertsTo 7 src 0 false (field w (B x) (k + 1)) (b x) (e' x))
      ∧ out (fun x => pair x (b x * 2 ^ 32 + a x) ((e x).or (e' x))))
    ∧ (n.op = .q4enc → n.imm = false → ∃ (q v : Thread → Nat) (bad : Thread → Bool),
      (∀ x, q x < 16 ∧ let a := fp32.decode (A x)
        let b := fp32.decode (B x)
        let scale := b.isNan = false ∧ b.isInf = false ∧ 0 < b.rat
        let y := a.rat / b.rat
        let off := fun (c : Nat) => |y - (q4nVal c).rat|
        (¬scale → q x = 7 ∧ bad x = true)
        ∧ (scale → (a.isNan = true → q x = 7 ∧ bad x = true)
          ∧ (a.isInf = true → q x = (if a.neg then 0 else 15) ∧ bad x = false)
          ∧ (a.isNan = false → a.isInf = false → bad x = false
              ∧ ∀ c < 16, off (q x) ≤ off c ∧ (c ≠ q x → off c = off (q x) → q x % 2 = 0))))
      ∧ (∀ x j, j < 8 → field 4 (v x) j = if j = n.mb 0 3 then q x else field 4 (C x) j)
      ∧ out (fun x => put x (v x) ⟨bad x, false, false⟩))

/-- R143–R145, Tables 6-5 and 6-6: the special functions are fixed functions of their operand. frcp and fsqrt are correctly
rounded; special operands give Table 6-5, with its exceptions; the exact cases of Table 6-6 are exact. -/
def Obligations.SpecialOperandsAndExactCases : Prop :=
  ∀ (i : Instr) (n : Ins) (s : State), insOf i = some n → s.passes n → s.guardsClean n →
    n.op ∈ [Op.frcp, .frsq, .fsqrt, .fex2, .flg2, .fsin, .fcos, .ftanh] →
    ∃ (v : Word → Nat) (e : Word → Exc),
    exec i s = .next (s.mapPack (fun _ x => x.given n (fun x => let w := (x.reg n.b).v
      ⟨[(n.d, ⟨BitVec.ofNat 32 (v w), n.psn x || (e w).poisons x⟩)], [], (e w).sticky⟩)))
    ∧ ∀ w : Word,
      let b := fp32.decode w.toNat
      let fin := b.isNan = false ∧ b.isInf = false ∧ b.isZero = false
      let minus := b.isNan = false ∧ b.isZero = false ∧ b.neg = true
      let is := fun (k : Nat) (z : Exc) => v w = k ∧ e w = z
      let exact := fun (q : ℚ) => v w < 2 ^ 32 ∧ (fp32.decode (v w)).isNan = false ∧ (fp32.decode (v w)).isInf = false
        ∧ (fp32.decode (v w)).rat = q ∧ e w = Exc.none
      let x : ℝ := b.rat
      let signed := fun (k : Nat) => if b.neg then 2 ^ 31 + k else k
      (b.isNan = true → is 0x7FC00000 ⟨b.isSig, false, false⟩)
      ∧ (n.op = .frcp → (b.isInf = true → is (signed 0) Exc.none) ∧ (b.isZero = true → is (signed 0x7F800000) Exc.divZero)
          ∧ (fin → fp32.rounds (n.mb 8 3) false (1 / x) (v w) (e w)))
      ∧ (n.op = .fsqrt → (b.isZero = true → is w.toNat Exc.none) ∧ (w = 0x7F800000 → is w.toNat Exc.none)
          ∧ (minus → is 0x7FC00000 Exc.invalid)
          ∧ (fin → b.neg = false → fp32.rounds (n.mb 8 3) false (Real.sqrt x) (v w) (e w)))
      ∧ (n.op = .frsq → (b.isZero = true → is (signed 0x7F800000) Exc.divZero) ∧ (w = 0x7F800000 → is 0 Exc.none)
          ∧ (minus → is 0x7FC00000 Exc.invalid) ∧ (fin → ∀ k : Int, b.rat = (4 : ℚ) ^ k → exact ((2 : ℚ) ^ (-k))))
      ∧ (n.op = .fex2 → (w = 0xFF800000 → is 0 Exc.none) ∧ (w = 0x7F800000 → is 0x7F800000 Exc.none)
          ∧ (b.isZero = true → is 0x3F800000 Exc.none)
          ∧ (fin → (128 ≤ b.rat → is 0x7F800000 Exc.over) ∧ (b.rat ≤ -150 → is 0 Exc.none)
            ∧ ∀ k : Int, -150 < k → k < 128 → b.rat = k → exact ((2 : ℚ) ^ k)))
      ∧ (n.op = .flg2 → (b.isZero = true → is 0xFF800000 Exc.divZero) ∧ (w = 0x7F800000 → is w.toNat Exc.none)
          ∧ (minus → is 0x7FC00000 Exc.invalid) ∧ (w = 0x3F800000 → is 0 Exc.none)
          ∧ (fin → ∀ k : Int, b.rat = (2 : ℚ) ^ k → exact k))
      ∧ (n.op = .fsin → (b.isInf = true → is 0x7FC00000 Exc.none) ∧ (b.isZero = true → is w.toNat Exc.none)
          ∧ (fin → |b.rat| < (2 : ℚ) ^ (-12 : Int) → is w.toNat Exc.none))
      ∧ (n.op = .fcos → (b.isInf = true → is 0x7FC00000 Exc.none) ∧ (b.isZero = true → is 0x3F800000 Exc.none))
      ∧ (n.op = .ftanh → (b.isInf = true → is (signed 0x3F800000) Exc.none) ∧ (b.isZero = true → is w.toNat Exc.none)
          ∧ (fin → (|b.rat| < (2 : ℚ) ^ (-12 : Int) → is w.toNat Exc.none)
            ∧ (91 / 10 ≤ |b.rat| → is (signed 0x3F800000) Exc.none)))

/-- R144, Table 6-6: for finite operands other than zero frsq, fex2, flg2, fsin, fcos and ftanh deliver a finite value within
the bound of the exact one, without an exception. Which value within the bound is the part's own, a free value, and the bound is
stated with a margin of 2^−30 of itself (model's choice, log 10). -/
def Obligations.SpecialFunctionsWithinBounds : Prop :=
  ∀ (i : Instr) (n : Ins) (s : State), insOf i = some n → s.passes n → s.guardsClean n →
    n.op ∈ [Op.frsq, .fex2, .flg2, .fsin, .fcos, .ftanh] →
    ∃ (v : Word → Nat) (e : Word → Exc),
    exec i s = .next (s.mapPack (fun _ x => x.given n (fun x => let w := (x.reg n.b).v
      ⟨[(n.d, ⟨BitVec.ofNat 32 (v w), n.psn x || (e w).poisons x⟩)], [], (e w).sticky⟩)))
    ∧ ∀ w : Word,
      let b := fp32.decode w.toNat
      let r := fp32.decode (v w)
      let x : ℝ := b.rat
      let near := fun (y d : ℝ) => v w < 2 ^ 32 ∧ r.isNan = false ∧ r.isInf = false ∧ e w = Exc.none
        ∧ |(r.rat : ℝ) - y| ≤ d * (1 + (2 : ℝ) ^ (-30 : Int))
      let ulps := fun (k : ℝ) (y : ℝ) => ∃ u : Int, fp32.spacing y u ∧ near y (k * (2 : ℝ) ^ u)
      let y := Real.log x / Real.log 2
      b.isNan = false → b.isInf = false → b.isZero = false →
      (n.op = .frsq → b.neg = false → ulps 1 (1 / Real.sqrt x))
      ∧ (n.op = .fex2 → -150 < x → x < 128 → ulps 2 (Real.exp (x * Real.log 2)))
      ∧ (n.op = .flg2 → b.neg = false → (1 / 2 ≤ x → x ≤ 2 → near y ((2 : ℝ) ^ (-22 : Int)))
          ∧ (x < 1 / 2 ∨ 2 < x → ulps 2 y))
      ∧ (n.op = .fsin → near (Real.sin x) ((2 : ℝ) ^ (-21 : Int)))
      ∧ (n.op = .fcos → near (Real.cos x) ((2 : ℝ) ^ (-21 : Int)))
      ∧ (n.op = .ftanh → ulps 2 (Real.tanh x))

/-- R130: fmin and fmax write the smaller or the larger operand bit for bit, −0 below +0; one NaN operand gives the other
operand, two give the canonical NaN; a signalling NaN sets the invalid bit and, where invalid is enabled, poisons D. -/
def Obligations.MinimumAndMaximumOfFloats : Prop :=
  ∀ (i : Instr) (n : Ins) (s : State), insOf i = some n → s.passes n → s.guardsClean n → n.op = .fmin ∨ n.op = .fmax →
    exec i s = .next (s.mapPack (fun _ x => x.given n (fun x =>
      let a := (x.reg n.a).v
      let b := if n.imm then (imm16 n.f).setWidth 32 <<< 16 else (x.reg n.b).v
      let isNan := fun (w : Word) => decide (0x7F800000 < w.toNat % 2 ^ 31)
      let isSig := fun (w : Word) => isNan w && !w.getLsbD 22
      let key := fun (w : Word) => if w.getLsbD 31 then -((w.toNat % 2 ^ 31 : Nat) : Int) - 1 else (w.toNat : Int)
      let v := if isNan a && isNan b then 0x7FC00000#32 else if isNan a then b else if isNan b then a
        else if n.op = .fmin then (if key a ≤ key b then a else b) else (if key a ≤ key b then b else a)
      let bad := isSig a || isSig b
      ⟨[(n.d, ⟨v, n.psn x || (bad && x.enabled 0)⟩)], [], if bad then 1 else 0⟩)))

/-! ## Tile operations (09_core_instructions.md R216–R223) -/

/-- Every tile operation, native and Prerin, completes: each thread of the pack receives what the operation gives it from the
sources that the whole pack held before it, under its own guard; nothing else changes (R201, R216–R223).
R216, R218–R221: what shfl, match, redux, redix and scan deliver, from the sources that the whole pack held (the threads of
the pack in ascending order): the thread read, the masks of equal keys, the combination over the tile (fadd in the fixed tree of
R219), the extreme with its tile index, and the combination over the threads at or below the own one (fadd in turn).
R222: setpart sets the partition of the warp to imm16 in a pack whose threads all take it; the threads move on. -/
def Obligations.TileOperationsAndPartitions : Prop :=
  (∀ (i : Instr) (n : Ins) (s : State) (op : Ins → Warp → List Nat → Nat → Res), insOf i = some n → s.passes n →
      s.guardsClean n →
      (match n.op with
        | .shfl => op = laneShfl | .vote => op = laneVote | .matchk => op = laneMatch | .redux => op = laneRedux
        | .redix => op = laneRedix | .scan => op = laneScan | .actv => op = laneActv
        | _ => False) →
      ∃ e : Nat → Eff, (∀ u, op n s.pwrp s.pack.ts u = .ok (e u))
        ∧ exec i s = .next (s.mapPack (fun u x => x.given n (fun _ => e u))))
  ∧ (∀ (i : Instr) (n : Ins) (s : State), insOf i = some n → s.passes n → s.guardsClean n → s.pack.ts.Pairwise (· < ·) →
      s.pwrp.part ∈ [2, 4, 8, 16, 32] →
      let part := s.pwrp.part
      let flag := fun (k : Nat) => n.f.m.getLsbD k
      let tile := fun (u : Nat) => s.pack.ts.filter (fun v => v / part == u / part)
      let psn := fun (l : List Nat) => l.any (fun v => n.psn (s.pthr v))
      let A := fun (v : Nat) => ((s.pthr v).reg n.a).v
      let out := fun (e : Nat → Thread → Eff) => exec i s = .next (s.mapPack (fun u x => x.given n (e u)))
      let bits := fun (p : Nat → Bool) (w : Word) => ∀ k, k < 32 → w.getLsbD k = p k
      let op := n.mb 0 4
      let sg := decide (n.mb 8 3 = 0)
      let key := fun (w : Nat) => if 2 ^ 31 ≤ w then -((w - 2 ^ 31 : Nat) : Int) - 1 else (w : Int)
      let nan := fun (w : Word) => (fp32.decode w.toNat).isNan
      let sig := fun (l : List Word) => l.any (fun w => (fp32.decode w.toNat).isSig)
      let add := fun (a b : Word) (r : Word) (e : Exc) =>
        fp32.sumsTo (n.mb 8 3) [⟨false, [fp32.decode a.toNat]⟩, ⟨false, [fp32.decode b.toNat]⟩] r.toNat e
      let least := fun (l : List Word) (val : Word → Int) (r : Word) => r ∈ l ∧ ∀ w ∈ l, val r ≤ val w
      let most := fun (l : List Word) (val : Word → Int) (r : Word) => r ∈ l ∧ ∀ w ∈ l, val w ≤ val r
      let val := fun (w : Word) => if sg then w.toInt else (w.toNat : Int)
      let fkey := fun (w : Word) => key w.toNat
      let gives := fun (l : List Word) (r : Word) (e : Exc) => match op with
        | 0 => r = l.sum ∧ e = Exc.none
        | 1 => least l val r ∧ e = Exc.none
        | 2 => most l val r ∧ e = Exc.none
        | 3 => bits (fun k => l.all (fun w => w.getLsbD k)) r ∧ e = Exc.none
        | 4 => bits (fun k => l.any (fun w => w.getLsbD k)) r ∧ e = Exc.none
        | 5 => bits (fun k => decide ((l.filter (fun w => w.getLsbD k)).length % 2 = 1)) r ∧ e = Exc.none
        | _ => e = ⟨sig l, false, false⟩ ∧ let nums := l.filter (fun w => !nan w)
            (nums = [] → r = 0x7FC00000) ∧ (nums ≠ [] → if op = 9 then least nums fkey r else most nums fkey r)
      let res := fun (r : Nat → Word) (e : Nat → Exc) (p : Nat → Bool) =>
        out (fun u x => ⟨[(n.d, ⟨r u, p u || (e u).poisons x⟩)], [], (e u).sticky⟩)
      (n.op = .shfl → ∃ (ok : Nat → Bool) (src : Nat → Nat),
        (∀ u, let x := s.pthr u
          let z : Int := if n.imm then (imm16 n.f).toNat else (x.reg n.b).v.toNat
          let d : Int := if n.imm then (imm16 n.f).toInt else (x.reg n.b).v.toInt
          let k : Nat := u % part
          let j : Int := match n.mb 0 2 with
            | 0 => z
            | 1 => (k + z) % part
            | 2 => k + d
            | _ => (k ^^^ z.toNat : Nat)
          let j := if s.pwrp.legacy = true ∧ 16 ≤ j ∧ j ≤ 31 then j - 16 else j
          (ok u = true ↔ 0 ≤ j ∧ j < part ∧ u / part * part + j.toNat ∈ s.pack.ts)
          ∧ src u = if ok u then u / part * part + j.toNat else u)
        ∧ out (fun u x =>
            let p := !n.imm && (x.reg n.b).p
            let e := Eff.reg n.d ⟨A (src u), ((s.pthr (src u)).reg n.a).p || p⟩
            if n.imm then e else e.and (Eff.pred (n.c % 8) ⟨ok u, p⟩)))
      ∧ (n.op = .matchk → ∃ r : Nat → Word,
        (∀ u, let raw := fun (v : Nat) => (s.pthr v).raw n.w n.a
          let all := ∀ v ∈ tile u, raw v = raw u
          (flag 0 = false → bits (fun k => (tile u).any (fun v => raw v == raw u && v % part == k)) (r u))
          ∧ (flag 0 = true → all → bits (fun k => (tile u).any (fun v => v % part == k)) (r u))
          ∧ (flag 0 = true → ¬all → r u = 0))
        ∧ res r (fun _ => Exc.none) (fun u => psn (tile u)))
      ∧ (n.op = .redux → op ≤ 5 ∨ op = 9 ∨ op = 10 → ∃ (r : Nat → Word) (e : Nat → Exc),
        (∀ u ∈ s.pack.ts, gives ((tile u).map A) (r u) (e u)) ∧ res r e (fun u => psn (tile u)))
      ∧ (n.op = .redux → op = 8 → ∃ (r : Nat → Word) (e : Nat → Exc),
        (∀ u ∈ s.pack.ts, ∃ (t : Nat → Nat → Option Word) (z : Nat → Nat → Exc),
          (∀ k, k < part → t 0 k = ((tile u).find? (fun v => v % part == k)).map A)
          ∧ (∀ l k, match t l (2 * k), t l (2 * k + 1) with
              | some a, some b => ∃ c, t (l + 1) k = some c ∧ add a b c (z l k)
              | some a, none => t (l + 1) k = some a ∧ z l k = Exc.none
              | none, b => t (l + 1) k = b ∧ z l k = Exc.none)
          ∧ t (Nat.log2 part) 0 = some (r u)
          ∧ e u = ((List.range (Nat.log2 part)).flatMap (fun l => (List.range (part / 2 ^ (l + 1))).map (fun k => z l k))).foldl
              Exc.or Exc.none)
        ∧ res r e (fun u => psn (tile u)))
      ∧ (n.op = .redix → ∃ m : Nat → Nat,
        (∀ u ∈ s.pack.ts, m u ∈ tile u ∧ ∀ v ∈ tile u,
          let rank := fun (w : Word) => if flag 0 then
            (if nan w then (if flag 1 then -(2 ^ 32 : Int) else 2 ^ 32) else fkey w) else val w
          if flag 1 then rank (A (m u)) < rank (A v) ∨ (rank (A (m u)) = rank (A v) ∧ m u ≤ v)
          else rank (A v) < rank (A (m u)) ∨ (rank (A v) = rank (A (m u)) ∧ m u ≤ v))
        ∧ out (fun u _ => (Eff.reg n.d ⟨A (m u), psn (tile u)⟩).and
            (Eff.reg (n.d + 1) ⟨BitVec.ofNat 32 (m u % part), psn (tile u)⟩)))
      ∧ (n.op = .scan → ∃ (r : Nat → Word) (e : Nat → Exc),
        let from' := fun (u : Nat) => (tile u).filter (fun v => if flag 4 then decide (v < u) else decide (v ≤ u))
        (∀ u ∈ s.pack.ts, let l := (from' u).map A
          (l = [] → e u = Exc.none ∧ r u = (match op with
            | 1 => if sg then 0x7FFFFFFF else 0xFFFFFFFF
            | 2 => if sg then 0x80000000 else 0
            | 3 => 0xFFFFFFFF
            | 9 => 0x7F800000
            | 10 => 0xFF800000
            | _ => 0))
          ∧ (l ≠ [] → op ≤ 5 ∨ op = 9 ∨ op = 10 → gives l (r u) (e u))
          ∧ (l ≠ [] → op = 8 → ∃ (t : Nat → Word) (z : Nat → Exc), l[0]? = some (t 0)
            ∧ (∀ k w, l[k + 1]? = some w → add (t k) w (t (k + 1)) (z k)) ∧ r u = t (l.length - 1)
            ∧ e u = ((List.range (l.length - 1)).map z).foldl Exc.or Exc.none))
        ∧ res r e (fun u => psn (from' u))))
  ∧ (∀ (i : Instr) (n : Ins) (s : State), insOf i = some n → n.op = .setpart → s.passes n →
      (∀ u ∈ s.pack.ts, (s.pthr u).takes n ∧ (s.pthr u).flagRoom (n.flagOf (s.pthr (s.pack.ts.headD 0)))) →
      exec i s = .next ((s.modW s.pack.g s.pack.w (fun w => { w with part := (imm16 n.f).toNat })).mapThr s.pack.g s.pack.w
        (fun u x => if u ∈ s.pack.ts then x.advance n.words else x)))

/-- R217, R223: vote writes whether every, at least one, or either every or no source of the tile's active threads is true, or
their mask or number; actv writes the mask of the pack's threads of the tile, or of the warp. A vote is poisoned when a
source of the tile is. -/
def Obligations.VotesAndActiveMasks : Prop :=
  ∀ (i : Instr) (n : Ins) (s : State), insOf i = some n → s.passes n → s.guardsClean n →
    let part := s.pwrp.part
    let mates := fun (u : Nat) => s.pack.ts.filter (fun v => v / part == u / part)
    let yes := fun (v : Nat) => ((s.pthr v).pred (n.a % 8)).v != n.f.m.getLsbD 2
    let psn := fun (u : Nat) => (mates u).any (fun v => ((s.pthr v).pred (n.a % 8)).p)
    let bits := fun (p : Nat → Bool) (w : Word) => ∀ k, k < 32 → w.getLsbD k = p k
    (n.op = .vote → ∃ (b : Nat → Bool) (m : Nat → Word),
      (∀ u, match n.mb 0 2 with
        | 0 => b u = true ↔ ∀ v ∈ mates u, yes v = true
        | 1 => b u = true ↔ ∃ v ∈ mates u, yes v = true
        | 2 => b u = true ↔ (∀ v ∈ mates u, yes v = true) ∨ ∀ v ∈ mates u, yes v = false
        | _ => if n.f.m.getLsbD 3 then m u = BitVec.ofNat 32 ((mates u).filter yes).length
            else bits (fun k => (mates u).any (fun v => yes v && v % part == k)) (m u))
      ∧ exec i s = .next (s.mapPack (fun u x => x.given n (fun _ =>
          if n.mb 0 2 = 3 then Eff.reg n.d ⟨m u, psn u⟩ else Eff.pred (n.d % 8) ⟨b u, psn u⟩))))
    ∧ (n.op = .actv → ∃ m : Nat → Word,
      (∀ u, if n.f.m.getLsbD 0 then bits (fun k => s.pack.ts.contains k) (m u)
        else bits (fun k => (mates u).any (fun v => v % part == k)) (m u))
      ∧ exec i s = .next (s.mapPack (fun u x => x.given n (fun _ => Eff.reg n.d ⟨m u, false⟩))))

/-- R147: fact evaluates the bank that the warp selects: for a NaN the canonical NaN, with invalid where it is signalling; for −∞ and +∞ the limits that
the bank holds; else, under a header that R146 allows, t is (x − lo)·inv rounded once, a t below 0 gives lslope·x + lint and a t of nseg or
more rslope·x + rint, each rounded once, and a t between takes the coefficients of segment i, its floor, in three steps y·u + c with u = t − i,
each rounded once; the result has the exceptions of these steps and the poison of B and of every bank word that they read, and no other word
is read. On a bank that no device owns it returns +0 with poison.
R147: in a warp that selects no bank, fact traps 0x01 with its word in %tval. -/
def Obligations.ActivationsEvaluated : Prop :=
  (∀ (i : Instr) (n : Ins) (s : State) (k : Nat), insOf i = some n → n.op = .fact → s.passes n → s.guardsClean n →
    s.pwrp.bank = some k →
    let b := FMap.get ActBank.void (s.core s.pgrp.die s.pgrp.core).banks k
    let word := fun (off : Nat) => FMap.get Val.zero b.img (off / 4)
    let val := fun (off : Nat) => fp32.decode (word off).v.toNat
    let finite := fun (y : FV) => y.isNan = false ∧ y.isInf = false
    ∃ e : Thread → Eff, exec i s = .next (s.mapPack (fun _ x => x.given n e))
      ∧ (b.owner = none → ∀ x, e x = Eff.reg n.d ⟨0, true⟩)
      ∧ (b.owner ≠ none → ∀ x, let v := (x.reg n.b).v.toNat
          let bad := decide (v % 2 ^ 31 < 0x7FC00000)
          (0x7F800000 < v % 2 ^ 31 → e x = ⟨[(n.d, ⟨0x7FC00000, n.psn x || (bad && x.enabled 0)⟩)], [], if bad then 1 else 0⟩)
          ∧ (v = 0xFF800000 → e x = Eff.reg n.d ⟨(word 0x20).v, n.psn x || (word 0x20).p⟩)
          ∧ (v = 0x7F800000 → e x = Eff.reg n.d ⟨(word 0x24).v, n.psn x || (word 0x24).p⟩)
          ∧ (v % 2 ^ 31 < 0x7F800000 → finite (val 0) → finite (val 4) → (word 8).v.toNat ≤ 256 →
            ∃ (tb : Nat) (et : Exc) (r : Nat) (er : Exc) (read : List Nat),
              e x = ⟨[(n.d, ⟨BitVec.ofNat 32 r, n.psn x || read.any (fun o => (word o).p) || er.poisons x⟩)], [], er.sticky⟩
              ∧ let X := fp32.decode v
                let q : ℚ := (X.rat - (val 0).rat) * (val 4).rat
                let t := fp32.decode tb
                let low := if t.isInf then t.neg = true else t.rat < 0
                let high := if t.isInf then t.neg = false else ((word 8).v.toNat : ℚ) ≤ t.rat
                let sum := fun (a c d : FV) => fp32.sumsTo 0 [⟨false, [a, c]⟩, ⟨false, [d]⟩]
                (q ≠ 0 → fp32.rounds 0 false q tb et) ∧ (q = 0 → tb = 0 ∧ et = Exc.none)
                ∧ (low → read = [0, 4, 0x10, 0x14] ∧ ∃ e1, sum (val 0x10) X (val 0x14) r e1 ∧ er = et.or e1)
                ∧ (high → read = [0, 4, 8, 0x18, 0x1C] ∧ ∃ e1, sum (val 0x18) X (val 0x1C) r e1 ∧ er = et.or e1)
                ∧ (¬low → ¬high → ∃ (seg : Nat) (u : FV) (y2 y1 : Nat) (e2 e1 e0 : Exc),
                    let base := 0x40 + 16 * seg
                    (seg : ℚ) ≤ t.rat ∧ t.rat < seg + 1
                    ∧ finite u ∧ u.neg = false ∧ u.rat = t.rat - seg
                    ∧ sum (val (base + 12)) u (val (base + 8)) y2 e2
                    ∧ sum (fp32.decode y2) u (val (base + 4)) y1 e1
                    ∧ sum (fp32.decode y1) u (val base) r e0
                    ∧ er = ((et.or e2).or e1).or e0
                    ∧ read = [0, 4, 8, base, base + 4, base + 8, base + 12]))))
  ∧ (∀ (i : Instr) (n : Ins) (s : State), insOf i = some n → n.op = .fact → s.passes n → s.pwrp.bank = none →
      (∀ u ∈ s.pack.ts, (s.pthr u).guard n.f.guard = .take ∧ s.trapsAt s.pack.g s.pack.w u) →
      exec i s = .next (s.mapPack (fun _ x => x.takeTrap s.pwrp.kd.trap 0x01 n.word)))

/-! ## Words, clauses, guards and traps (02_thread.md, 04_instruction_words.md, 07_control_and_traps.md) -/

/-- R72, R75: each half of a P word has the effect that its instruction has alone, as a native or Prerin instruction of the same
fields; both halves read the thread before either writes, each half under its own guard, and the thread moves to the next word;
nothing else changes. -/
def Obligations.PairedHalvesReadBeforeWriting : Prop :=
  ∃ effect : Ins → Thread → Eff,
  (∀ (i : Instr) (n : Ins) (s : State) (h : HalfFields) (w : DWord) (k : Ins), insOf i = some n → halfIns h w = some k → k.op = n.op →
    s.passes n → s.guardsClean n → exec i s = .next (s.mapPack (fun _ x => x.given n (effect n))))
  ∧ ∀ (u l : HalfFields) (a b : Ins) (s : State), halfIns u (encodeP u l) = some a → halfIns l (encodeP u l) = some b →
    s.packReady → regTrap s.pwrp.blocks (a.regs ++ b.regs) none = none → s.pwrp.need (a.use.and b.use) = [] →
    (∀ t ∈ s.pack.ts, (s.pthr t).waits (a.use.and b.use) = false) → s.guardsClean a → s.guardsClean b →
    exec (.pWord u l) s = .next (s.mapPack (fun _ x =>
      let half := fun (i : Ins) => if x.guard i.f.guard = .take then effect (nat i.op i.f) x else Eff.none
      (x.apply ((half a).and (half b))).advance 0))

/-- R78: at a clause boundary without a due notice, each thread of the pack on its own is Blocked while a flag of WAIT is set
and else adopts FA and FB and stands at word 1; nothing else changes.
R78, R171: a residency notice that is due at a clause boundary is taken as trap 0x0E with %resl in %tval.
R176, R177, R179, R369: a pack is the Ready threads of a warp that stand together with one of them, and where none is promoted or demoted that
one has the least key; a quadrant picks, among the warps that may issue, one of the highest effective priority and, among those, of the
earliest last issue. -/
def Obligations.PacksAndClauseBoundaries : Prop :=
  (∀ (h : HFields) (s : State), s.packReady → (∀ u ∈ s.pack.ts, (s.pthr u).noticeDue = false) →
      exec (.clauseBoundary h) s = .next (s.mapPack (fun _ x =>
        if (List.range 12).any (fun k => h.wait.getLsbD k && decide (FMap.get 0 x.f k ≠ 0)) then
          { x with sched := .blocked (.flags h.wait) }
        else { x with fa := h.fa.toNat, fb := h.fb.toNat, len := h.len.toNat, tix := 1, promo := none })))
  ∧ (∀ (h : HFields) (s : State) (u : Nat), s.packReady → s.pack.ts = [u] → (s.pthr u).noticeDue = true → s.pwrp.kd.trap ≠ 0 →
      exec (.clauseBoundary h) s = .next (s.modT s.pack.g s.pack.w u (fun x =>
        x.takeTrap s.pwrp.kd.trap 0x0E (s.pwrp.resl.setWidth 64))))
  ∧ ((∀ (w : Warp) t, w.lead = some t →
      w.packOf.Pairwise (· < ·) ∧ t ∈ w.readyTs ∧ w.packOf = w.readyTs.filter (fun u => (w.thr u).together (w.thr t)) ∧ t ∈ w.packOf
      ∧ ((∀ u ∈ w.readyTs, (w.thr u).promo = none ∧ (w.thr u).demoted = false) → ∀ u ∈ w.readyTs, (w.thr t).rank ≤ (w.thr u).rank))
    ∧ (∀ (s : State) (q : Quad) l v, s.pickWarp q l = some v →
      v ∈ l ∧ v ∈ s.mayPick q l ∧ ∀ u ∈ s.mayPick q l, s.prioOf u.1 ≤ s.prioOf v.1
        ∧ (s.prioOf u.1 = s.prioOf v.1 → (s.wrp v.1 v.2).lastIssue ≤ (s.wrp u.1 u.2).lastIssue)))

/-- R17, R68, R79: where the guard of an instruction is false in every thread of the pack, the instruction, native or Prerin and
of whatever form, writes nothing: each thread moves on, past a branch, call, return, exit or tret to the header that follows
its clause, and nothing else changes (the warp holds no fetched slow access, and for rdone and rret the workgroup serves no
recursion run, whose phase would go on).
R64, R68: a poisoned guard traps 0x04, whatever the form, with 0x100 plus the number of the predicate in %tval. -/
def Obligations.GuardsDecide : Prop :=
  (∀ (i : Instr) (n : Ins) (s : State), insOf i = some n → s.passes n → s.pwrp.slow = false →
      (n.op = .rdone ∨ n.op = .rret → s.runOf s.pack.g = none) →
      (∀ u ∈ s.pack.ts, (s.pthr u).guard n.f.guard = .skip) →
      exec i s = .next (s.mapPack (fun _ x =>
        if n.op ∈ [Op.bra, .brx, .call, .callx, .ret, .exit, .tret] ∧ x.mode = .native then
          { x with pc := x.pc + 8 * BitVec.ofNat 64 (x.len + 1), tix := 0 }
        else x.advance n.words)))
  ∧ (∀ (i : Instr) (n : Ins) (s : State), insOf i = some n → s.passes n → s.pwrp.slow = false →
      (n.op = .rdone ∨ n.op = .rret → s.runOf s.pack.g = none) →
      (∀ u ∈ s.pack.ts, n.f.guard.toNat % 8 ≠ 7 ∧ ((s.pthr u).pred (n.f.guard.toNat % 8)).p = true
        ∧ s.trapsAt s.pack.g s.pack.w u) →
      exec i s = .next (s.mapPack (fun _ x =>
        x.takeTrap s.pwrp.kd.trap 0x04 (BitVec.ofNat 64 (0x100 + n.f.guard.toNat % 8)))))

/-- R15, R16: an instruction of whatever form that names an odd register where a pair stands, or a g-register outside the warp's
blocks, traps 0x01 in every thread of the pack, with the number of the register in %tval (the first odd one before the others:
model's choice, log 79).
R103: ill traps 0x01 in every thread of its pack with the word in %tval. -/
def Obligations.WordsThatTrapInEveryThread : Prop :=
  (∀ (i : Instr) (n : Ins) (s : State) (r : Nat), insOf i = some n → s.packReady → s.pwrp.slow = false →
      (n.op = .rdone ∨ n.op = .rret → s.runOf s.pack.g = none) →
      (∀ u ∈ s.pack.ts, s.trapsAt s.pack.g s.pack.w u) →
      warpTrap s.pwrp n (s.pthr (s.pack.ts.headD 0)) = none →
      (n.odd = some r
        ∨ (n.odd = none
            ∧ n.regs.find? (fun k => !(k == 255 || (decide (k < 16 * s.pwrp.blocks) && decide (k < 255)))) = some r)) →
      exec i s = .next (s.mapPack (fun _ x => x.takeTrap s.pwrp.kd.trap 0x01 (BitVec.ofNat 64 r))))
  ∧ (∀ (s : State) (w : DWord) (v : Word), s.packReady → (∀ u ∈ s.pack.ts, s.trapsAt s.pack.g s.pack.w u) →
      exec (.ill w) s = .next (s.mapPack (fun _ x => x.takeTrap s.pwrp.kd.trap 0x01 w))
      ∧ exec (.illPrerin v) s = .next (s.mapPack (fun _ x => x.takeTrap s.pwrp.kd.trap 0x01 (v.setWidth 64))))

/-- R64, R33: where nothing that comes before in the order of R33 is wrong, a poisoned register traps 0x03 with the lowest number among
those that the instruction reads: the data or address of sts, stsr and atms, the register operands of an engine command, and the
source of swr; a poisoned pair of brx or callx traps 0x04. What comes before is taken instead: 0x09 of the scratch address, 0x01 of
a TSM of 2 or 3 or of a write outside a handler, 0x02 of an illegal target. A poisoned shape register of a cpy traps 0x03 with
0x200 plus its number.
R52, R256, R264, R33: voters of an mtile or mcvt whose format words, or tensor scales, differ all trap 0x05, with their own
format word and a bit from 32 on for each operand that differs; a format word that R52 (for mcvt, R261) does not allow traps 0x06
with the word, in mfmt too; a poisoned one traps 0x04.
R146, R149: atld of an image whose header has a word that R146 does not allow traps 0x06 in every thread of the pack, with the
scratch offset of the first such word in %tval (that it counts within scratch is the model's choice, log 98).
R64: so do the address of hst, the object offset and count of xbar, and the register operands of a queue, task or recursion instruction
and of sysc, where none of their own checks fails first; a poisoned target of ret traps 0x04 as that of brx does. That %tval of a register
target holds the value with its mode bit is the model's choice (log 19). -/
def Obligations.OperandsThatTrap : Prop :=
  (∀ (i : Instr) (n : Ins) (s : State) (u : Nat), insOf i = some n → s.pack.ts = [u] → s.passes n → s.pwrp.slow = false →
      (s.pthr u).guard n.f.guard = .take → s.trapsAt s.pack.g s.pack.w u →
      let x := s.pthr u
      let trap := fun (c : Nat) (v : DWord) => exec i s = .next (s.modT s.pack.g s.pack.w u (fun y => y.takeTrap s.pwrp.kd.trap c v))
      let lowest := fun (r : Nat) => r ∈ n.srcs ∧ (x.reg r).p = true ∧ ∀ k ∈ n.srcs, (x.reg k).p = true → r ≤ k
      let f := if n.op = .stsr then n.formN
        else if n.op = .atms then ⟨n.w / 8, 1, n.w / 8, n.mb 6 2, n.mb 3 3⟩ else n.formV
      let off := if n.op = .atms then (x.reg n.a).v.toNat
        else ((x.reg n.a).v.toNat + (if n.imm then n.immZ else (x.reg n.b).v.toNat)) % 2 ^ 32
      let fits := off % f.al = 0 ∧ off + f.w * f.n ≤ s.pgrp.scrSize ∧ s.pgrp.xbHit off (f.w * f.n) = false
      let ptr := x.reg64 n.a
      let m : Mode := if ptr.getLsbD 0 then .native else .prerin
      let h := ptr &&& ~~~1#64
      let word := s.codeWord s.pgrp.die s.pgrp.core s.pgrp.vdev h.toNat
      let d := s.pwrp.shape n.d
      let a := s.pwrp.shape n.a
      (∀ r, n.op ∈ [Op.sts, .stsr, .atms] → lowest r →
        (fits → trap 0x03 (BitVec.ofNat 64 r)) ∧ (¬fits → trap 0x09 (BitVec.ofNat 64 off)))
      ∧ (∀ r, n.op ∈ [Op.cpy, .cpyg, .cpys, .cpyr, .ldg, .stg, .atmg, .pref, .smap] → lowest r → trap 0x03 (BitVec.ofNat 64 r))
      ∧ (n.op = .swr → lowest n.a →
        (n.mb 0 6 = 0x10 → 2 ≤ ((x.reg n.a).v.extractLsb' 6 2).toNat → trap 0x01 n.word)
        ∧ (n.mb 0 6 = 0x10 → ((x.reg n.a).v.extractLsb' 6 2).toNat < 2 → trap 0x03 (BitVec.ofNat 64 n.a))
        ∧ (n.mb 0 6 ≠ 0x10 → x.hnd = false → trap 0x01 n.word))
      ∧ (∀ r, n.op ∈ [Op.hst, .xbarInit, .xbarInval, .tspawn, .sysc] → lowest r → trap 0x03 (BitVec.ofNat 64 r))
      ∧ (∀ r, n.op = .xbarArrive ∨ n.op = .xbarWait → lowest r → let o := (x.reg n.a).v.toNat
        (o % 16 = 0 ∧ o + 16 ≤ s.pgrp.scrSize ∧ s.pgrp.xbValid o = true → trap 0x03 (BitVec.ofNat 64 r))
        ∧ (¬(o % 16 = 0 ∧ o + 16 ≤ s.pgrp.scrSize ∧ s.pgrp.xbValid o = true) → trap 0x09 (BitVec.ofNat 64 o)))
      ∧ (∀ r q, n.op ∈ [Op.qrsv, .qenq, .qdeq, .qtry, .qsteal, .qerr, .qrest, .qstat] → lowest r →
        s.queueOf s.pgrp.vdev ptr = some q → (s.queue q).waits = [] → chkQueue n s s.pack.g s.pack.w u = none →
        trap 0x03 (BitVec.ofNat 64 r))
      ∧ (∀ r, n.op = .rstart → lowest r → chkRstart n s s.pack.g s.pack.w u = none → trap 0x03 (BitVec.ofNat 64 r))
      ∧ (∀ r m l f, n.op = .rchild → lowest r → s.laneOf s.pack.g s.pack.w u = some (m, l, f, .divide) →
        ((s.spin m).frame f).nch ≠ (s.spin m).fan → ((s.spin m).frame f).depth ≠ (s.spin m).maxDepth → (s.spin m).free ≠ none →
        trap 0x03 (BitVec.ofNat 64 r))
      ∧ (∀ r m l f, n.op = .rres → lowest r → s.laneOf s.pack.g s.pack.w u = some (m, l, f, .combine) →
        (x.reg n.b).v.toNat < ((s.spin m).frame f).nch → trap 0x03 (BitVec.ofNat 64 r))
      ∧ (n.op = .brx ∨ n.op = .callx ∨ n.op = .ret → (x.reg n.a).p = true ∨ (x.reg (n.a + 1)).p = true →
        ((m = .prerin ∧ h.toNat % 4 ≠ 0) ∨ (m = .native ∧ (h.toNat % 8 ≠ 0 ∨ ∃ w, word = .ok w ∧ w.extractLsb' 62 2 ≠ 2)) →
          trap 0x02 ptr)
        ∧ ((m = .prerin ∧ h.toNat % 4 = 0) ∨ (m = .native ∧ h.toNat % 8 = 0 ∧ ∃ w, word = .ok w ∧ w.extractLsb' 62 2 = 2) →
          trap 0x04 (BitVec.ofNat 64 n.a)))
      ∧ (∀ r, n.op = .cpy → poisonTrap x n = none → x.flagRoom (n.flagOf x) → n.f.m.getLsbD 2 = false →
        d.valid = true → a.valid = true → d.sameBox a = true → d.width = a.width → d.space < 8 → a.space < 8 →
        s.pgrp.sideOut d false = none → s.pgrp.sideOut a false = none →
        (r = n.d ∨ r = n.a) → (s.pwrp.shape r).p = true → ((s.pwrp.shape n.d).p = true → r ≤ n.d) →
        ((s.pwrp.shape n.a).p = true → r ≤ n.a) → trap 0x03 (BitVec.ofNat 64 (0x200 + r))))
  ∧ (∀ (i : Instr) (n : Ins) (s : State), insOf i = some n → s.passes n →
      (∀ u ∈ s.pack.ts, (s.pthr u).guard n.f.guard = .take ∧ s.trapsAt s.pack.g s.pack.w u) →
      let y := s.pwrp
      let reg := fun (u k : Nat) => (s.pthr u).reg (n.c + k)
      let all := fun (c : Nat) (v : Nat → DWord) => exec i s = .next (s.mapPack (fun u x => x.takeTrap s.pwrp.kd.trap c (v u)))
      let acc := n.f.m.getLsbD 0
      let pairs := fun (code mode : Nat) => mode ≠ 3 ∧ (mode = 1 → code ∈ [2, 3, 4, 5]) ∧ (code = 7 ↔ mode = 2)
      let good := fun (w : Word) => let fw := w.toNat
        fw < 2 ^ 19 ∧ fw % 16 ≤ 7 ∧ fw / 16 % 16 ≤ 7 ∧ fw / 2 ^ 16 % 4 ≤ 1
        ∧ pairs (if acc then fw / 2 ^ 12 % 16 else fw % 16) (fw / 2 ^ 8 % 4) ∧ pairs (fw / 16 % 16) (fw / 2 ^ 10 % 4)
        ∧ (acc = true → fw / 2 ^ 12 % 16 ≤ 6 ∧ fw / 2 ^ 8 % 4 = 0)
      let goodC := fun (w : Word) => let fw := w.toNat
        fw < 2 ^ 19 ∧ fw / 2 ^ 16 % 4 ≤ 1 ∧ fw / 2 ^ 12 % 16 ≤ 6
      let own := fun (u : Nat) => if n.op = .mtile then (n.mtileChk s.pgrp y).own (s.pthr u) else (n.mcvtChk s.pgrp y).own (s.pthr u)
      let count := if n.op = .mtile then 3 else 1
      let differ := fun (k : Nat) => decide (k < count) && s.pack.ts.any (fun u => s.pack.ts.any (fun v => (reg u k).v != (reg v k).v))
      (n.op = .mtile ∨ n.op = .mcvt → (∀ u ∈ s.pack.ts, own u = none ∧ (reg u 0).p = false) →
        (∃ k, differ k = true) → all 0x05 (fun u => BitVec.ofNat 64 ((reg u 0).v.toNat
          + 2 ^ 32 * ((differ 0).toNat + 2 * (differ 1).toNat + 4 * (differ 2).toNat))))
      ∧ (n.op = .mtile → (∀ u ∈ s.pack.ts, (n.mtileCmd y (s.pthr u)).geoOk = true ∧ ¬good (reg u 0).v) →
        all 0x06 (fun u => (reg u 0).v.setWidth 64))
      ∧ (n.op = .mcvt → (y.shape n.d).valid = true → (y.shape n.d).space = 0 → (y.shape n.d).box 2 = 1 → (y.shape n.d).box 3 = 1 →
        (∀ u ∈ s.pack.ts, ¬goodC (reg u 0).v) → all 0x06 (fun u => (reg u 0).v.setWidth 64))
      ∧ (n.op = .mtile ∨ n.op = .mcvt → (∀ u ∈ s.pack.ts, own u = none ∧ (reg u 0).p = true) → count = 1 ∨ differ 1 = false →
        count = 1 ∨ differ 2 = false → differ 0 = false →
        (∀ u ∈ s.pack.ts, (if n.op = .mtile then (n.mtileChk s.pgrp y).pack (s.pthr u) else (n.mcvtChk s.pgrp y).pack (s.pthr u)) = none) →
        all 0x04 (fun _ => BitVec.ofNat 64 n.c))
      ∧ (∀ u, n.op = .mfmt → s.pack.ts = [u] → ¬good ((s.pthr u).reg n.a).v → all 0x06 (fun u => ((s.pthr u).reg n.a).v.setWidth 64))
      ∧ (∀ u, n.op = .mfmt → s.pack.ts = [u] → good ((s.pthr u).reg n.a).v → ((s.pthr u).reg n.a).p = true →
        all 0x04 (fun _ => BitVec.ofNat 64 n.a)))
  ∧ (∀ (i : Instr) (n : Ins) (s : State) (k : Nat), insOf i = some n → n.op = .atld → s.together n →
      (∀ u ∈ s.pack.ts, s.trapsAt s.pack.g s.pack.w u) →
      let x := s.pthr (s.pack.ts.headD 0)
      let off := ((x.reg n.a).v.toNat + n.immZ) % 2 ^ 32
      let word := fun (j : Nat) => leNat (fun a => FMap.get 0 s.pgrp.scr a) (off + 4 * j) 4
      let bad := fun (j : Nat) => if j = 2 then word j = 0 ∨ 256 < word j
        else if j = 3 ∨ 10 ≤ j then word j ≠ 0
        else if j = 8 ∨ j = 9 then 0x7F800000 < word j % 2 ^ 31
        else 0x7F800000 ≤ word j % 2 ^ 31
      s.pwrp.bank ≠ some (n.mb 0 1) → (x.reg n.a).p = false → off + 64 ≤ s.pgrp.scrSize →
      k < 16 → bad k → (∀ j < k, ¬bad j) →
      exec i s = .next (s.mapPack (fun _ y => y.takeTrap s.pwrp.kd.trap 0x06 (BitVec.ofNat 64 (off + 4 * k)))))

/-- R34, R90: what trap entry leaves: the location of the instruction with the mode in bit 0 of %tpc, the index in %tix, cause and
value, HND set and every other bit of %status kept, the thread Ready at the entry that its kernel descriptor names in the mode of
the entry's bit 0; registers, predicates, flags and their poison are kept. -/
def Obligations.TrapEntryState : Prop :=
  ∀ (x : Thread) (entry v : DWord) (c : Nat), c < 64 →
    let y := x.takeTrap entry c v
    (x.mode = .native → y.tpc = x.pc ||| 1 ∧ y.trix = BitVec.ofNat 32 x.tix)
    ∧ (x.mode = .prerin → y.tpc = x.pc &&& ~~~1 ∧ y.trix = 0)
    ∧ y.tcause.toNat = c ∧ y.tval = v ∧ (∀ k, y.status.getLsbD k = (x.status.getLsbD k || decide (k = 12)))
    ∧ y.pc = entry &&& ~~~1 ∧ y.tix = 0 ∧ y.mode = (if entry.getLsbD 0 then .native else .prerin) ∧ y.ready = true
    ∧ y.g = x.g ∧ y.p = x.p ∧ y.f = x.f

/-- R162: trap and bkpt take trap 0x10 or 0x0F with their code in %tval in a thread that can take a trap.
R36: a trap in a handler is a region fault: every thread of the workgroup ends, the fault is reported with its cause and
value, no copy command, matrix operation or scratch access of the workgroup is left, and memory is unchanged (for a workgroup
that serves no recursion run).
R163: so is a trap in a thread whose kernel descriptor holds trap entry 0. -/
def Obligations.TrapsTakenAndEscalated : Prop :=
  (∀ (i : Instr) (n : Ins) (s : State) (u : Nat), insOf i = some n → n.op = .trap ∨ n.op = .bkpt → s.alone n u →
      s.trapsAt s.pack.g s.pack.w u →
      exec i s = .next (s.modT s.pack.g s.pack.w u (fun x => x.takeTrap s.pwrp.kd.trap (if n.op = .trap then 0x10 else 0x0F)
        (if n.imm then (imm16 n.f).setWidth 64 else if n.op = .trap then ((s.pthr u).reg n.a).v.setWidth 64 else 0))))
  ∧ (∀ (i : Instr) (n : Ins) (s : State) (u : Nat), insOf i = some n → n.op = .trap ∨ n.op = .bkpt → s.alone n u →
      (s.pthr u).hnd = true ∨ s.pwrp.kd.trap = 0 → (s.pthr u).live = true → s.pgrp.alive = true → (∀ k, s.pgrp.kind ≠ .lanes k) →
      ∃ t, exec i s = .next t ∧ t.mem = s.mem ∧ (t.grp s.pack.g).alive = false ∧ (t.grp s.pack.g).faulted = true
        ∧ (∀ w k, (t.thr s.pack.g w k).live = false)
        ∧ (∀ w, (∀ k, (t.wrp s.pack.g w).cqs.getD k [] = []) ∧ (t.wrp s.pack.g w).mops = []) ∧ (t.grp s.pack.g).bank = []
        ∧ t.pkg.reports = s.pkg.reports ++ [.region s.pgrp.region (if n.op = .trap then 0x10 else 0x0F)
            (if n.imm then (imm16 n.f).setWidth 64 else if n.op = .trap then ((s.pthr u).reg n.a).v.setWidth 64 else 0)])

/-- R154, R155, R156, R90, R178: bra, call, brx, ret and callx put a thread whose target is legal at the header or word of the target,
in the mode of a jump through registers, and call and callx write the return address into the pair D; the target of bra and call lies
8 or, in Prerin code, 4 times their signed displacement from their word; the spin detector sees the branch; nothing else changes.
R166: tret outside a handler traps 0x01 with its word.
R35: tret in a handler resumes at the saved location in the saved mode with HND clear: in Prerin code at %tpc, in native code at
word %tix of the clause whose header stands there, or behind the clause, with the flags of that header, which a core that holds
its line fetches without any other effect. -/
def Obligations.BranchesCallsAndReturns : Prop :=
  (∀ (i : Instr) (n : Ins) (s : State) (u : Nat), insOf i = some n → s.alone n u →
      n.op ∈ [Op.bra, .call, .brx, .ret, .callx] →
      let x := s.pthr u
      let direct := decide (n.op = .bra ∨ n.op = .call)
      let ptr := x.reg64 n.a
      let hi := fun (r : Byte) => r.extractLsb' 6 2
      let lo := fun (r : Byte) => r.extractLsb' 0 6
      let disp : Int := if n.op = .bra then
          (hi n.f.d ++ hi n.f.a ++ hi n.f.b ++ n.f.c ++ lo n.f.d ++ lo n.f.a ++ lo n.f.b).toInt
        else (hi n.f.a ++ hi n.f.b ++ n.f.c ++ lo n.f.a ++ lo n.f.b).toInt
      let near := if x.mode = .native then x.pc + 8 * BitVec.ofNat 64 x.tix + 8 * BitVec.ofInt 64 disp
        else x.pc + 4 * BitVec.ofInt 64 disp
      let back := if x.mode = .native then x.pc + 8 * BitVec.ofNat 64 (x.len + 1) + 1 else x.pc + 4 * BitVec.ofNat 64 n.words
      let h := if direct then near else ptr &&& ~~~1#64
      let m := if direct then x.mode else if ptr.getLsbD 0 then .native else .prerin
      (m = .prerin ∧ h.toNat % 4 = 0) ∨ (m = .native ∧ h.toNat % 8 = 0
        ∧ ∃ w, s.codeWord s.pgrp.die s.pgrp.core s.pgrp.vdev h.toNat = .ok w ∧ w.extractLsb' 62 2 = 2) →
      exec i s = .next (s.modT s.pack.g s.pack.w u (fun x =>
        let y := if n.op = .call ∨ n.op = .callx then x.apply (Eff.pair n.d back false) else x
        { y.spin h s.pwrp.opps with pc := h, tix := 0, mode := m })))
  ∧ (∀ (i : Instr) (n : Ins) (s : State) (u : Nat), insOf i = some n → n.op = .tret → s.alone n u → (s.pthr u).hnd = true →
      let h := (s.pthr u).tpc &&& ~~~1#64
      let back := fun (x : Thread) => { x with status := setHnd x.status false, spinN := 0, sched := .ready }
      ((s.pthr u).tpc.getLsbD 0 = false → h.toNat % 4 = 0 →
        exec i s = .next (s.modT s.pack.g s.pack.w u (fun x => { back x with mode := .prerin, pc := h, tix := 0 })))
      ∧ (∀ l, lineIn (s.core s.pgrp.die s.pgrp.core).l1 s.pgrp.vdev h.toNat = some l →
        s.fetchWord s.pgrp.die s.pgrp.core s.pgrp.vdev h.toNat = .ok (s, l.words.getD (h.toNat / 8 % 8) 0))
      ∧ (∀ r v, (s.pthr u).tpc.getLsbD 0 = true → h.toNat % 8 = 0 →
        s.fetchWord s.pgrp.die s.pgrp.core s.pgrp.vdev h.toNat = .ok (r, v) → v.extractLsb' 62 2 = 2 →
        (s.pthr u).trix.toNat ≤ (headerOfWord v).len.toNat + 1 →
        exec i s = .next (r.modT s.pack.g s.pack.w u (fun _ =>
          let x := s.pthr u
          let y := { back x with mode := .native, fa := (headerOfWord v).fa.toNat, fb := (headerOfWord v).fb.toNat,
                                 len := (headerOfWord v).len.toNat }
          if x.trix.toNat = (headerOfWord v).len.toNat + 1 then
            { y with pc := h + 8 * BitVec.ofNat 64 ((headerOfWord v).len.toNat + 1), tix := 0 }
          else { y with pc := h, tix := x.trix.toNat }))))
  ∧ (∀ (i : Instr) (n : Ins) (s : State) (u : Nat), insOf i = some n → n.op = .tret → s.alone n u → s.trapsAt s.pack.g s.pack.w u →
      exec i s = .next (s.modT s.pack.g s.pack.w u (fun x => x.takeTrap s.pwrp.kd.trap 0x01 n.word)))

/-- R90, R91, R155: a branch, call or return whose target is illegal in the mode that it enters traps 0x02 with the target in %tval, and
takes no effect. (That %tval of a jump through a register pair holds the value with its mode bit is the model's reading, log 19.) -/
def Obligations.BadTargetsTrap : Prop :=
  ∀ (i : Instr) (n : Ins) (s : State) (u : Nat), insOf i = some n → s.alone n u →
    n.op ∈ [Op.bra, .call, .brx, .ret, .callx] → s.trapsAt s.pack.g s.pack.w u →
    let x := s.pthr u
    let ptr := x.reg64 n.a
    let v := if n.op = .bra then x.direct (dispBra n.f) else if n.op = .call then x.direct (dispCall n.f) else ptr
    let direct := decide (n.op = .bra ∨ n.op = .call)
    let m := if direct then x.mode else if ptr.getLsbD 0 then .native else .prerin
    let h := if direct then v else v &&& ~~~1#64
    (m = .prerin ∧ h.toNat % 4 ≠ 0) ∨ (m = .native ∧ (h.toNat % 8 ≠ 0
      ∨ ∃ w, s.codeWord s.pgrp.die s.pgrp.core s.pgrp.vdev h.toNat = .ok w ∧ w.extractLsb' 62 2 ≠ 2)) →
    exec i s = .next (s.modT s.pack.g s.pack.w u (fun x => x.takeTrap s.pwrp.kd.trap 0x02 v))

/-- R18, R21, R170: swr to %status sets the RW fields, clears the sticky bits written with 1 and keeps the rest; swr to %tpc and %tix
writes them in a handler.
R21, Table 2-4: srd writes the value of the special register into D, a pair where it is 64 bits wide (that the cycle counter of a core
runs with the machine's clock and the core's own offset is the model's choice, log 2). -/
def Obligations.SpecialRegisters : Prop :=
  ∀ (i : Instr) (n : Ins) (s : State) (u : Nat), insOf i = some n → s.alone n u →
    (n.op = .swr →
      let v := ((s.pthr u).reg n.a).v
      let put := fun (f : Thread → Thread) => exec i s = .next (s.modT s.pack.g s.pack.w u (fun x => (f x).advance n.words))
      (n.mb 0 6 = 0x10 → (v.extractLsb' 6 2).toNat ≤ 1 → ∃ st : Word, put (fun x => { x with status := st })
        ∧ ∀ k, st.getLsbD k = if k ∈ [0, 1, 2, 4, 6, 7] then v.getLsbD k
            else if k ∈ [8, 9, 10] then (s.pthr u).status.getLsbD k && !v.getLsbD k else (s.pthr u).status.getLsbD k)
      ∧ (n.mb 0 6 = 0x11 → (s.pthr u).hnd = true → put (fun x => { x with tpc := x.reg64 n.a }))
      ∧ (n.mb 0 6 = 0x12 → (s.pthr u).hnd = true → put (fun x => { x with trix := v &&& 0x3F })))
    ∧ (n.op = .srd →
      let x := s.pthr u
      let w := s.pwrp
      let g := s.pgrp
      let word : Word := match n.mb 0 6 with
        | 0x00 => BitVec.ofNat 32 (32 * s.pack.w + u)
        | 0x01 => BitVec.ofNat 32 (if w.legacy then u % 16 else u)
        | 0x02 => BitVec.ofNat 32 s.pack.w
        | 0x03 => BitVec.ofNat 32 g.wgx
        | 0x04 => BitVec.ofNat 32 g.wgy
        | 0x05 => BitVec.ofNat 32 g.wgz
        | 0x06 => BitVec.ofNat 32 g.nwgx
        | 0x07 => BitVec.ofNat 32 g.nwgy
        | 0x08 => BitVec.ofNat 32 g.nwgz
        | 0x09 => BitVec.ofNat 32 g.core
        | 0x0A => BitVec.ofNat 32 w.quad
        | 0x0B => BitVec.ofNat 32 g.die
        | 0x0C => BitVec.ofNat 32 w.part
        | 0x0D => if w.legacy then 1 else 0
        | 0x0E => w.resl
        | 0x10 => x.status
        | 0x12 => x.trix
        | _ => BitVec.ofNat 32 (x.tcause.toNat % 64)
      let long : DWord := if n.mb 0 6 = 0x0F then BitVec.ofNat 64 (s.clock + (s.core g.die g.core).skew)
        else if n.mb 0 6 = 0x11 then x.tpc else x.tval
      exec i s = .next (s.modT s.pack.g s.pack.w u (fun x => (x.apply
        (if n.mb 0 6 ∈ [0x0F, 0x11, 0x14] then Eff.pair n.d long false else Eff.reg n.d ⟨word, false⟩)).advance n.words)))

/-- R172, R173, R160: ackn acknowledges %resl and writes it into D; wflg moves on when no named flag is set and blocks the thread
otherwise; yield asks that its warp not be picked next and moves on.
R168: sysc sends the call with the eight words of the registers from A on; the thread goes on, and the pair D awaits the reply;
memory is unchanged where no write of the die is on its way to another (R345).
R30, R159: exit ends a thread that the Spinner did not create: it is live no more, its Demoted mark and its handler mark are gone,
every other thread keeps its registers, and memory is unchanged where no write of the die is on its way to another (R345).
R159: exit in a thread that the Spinner created traps 0x01 with its word. -/
def Obligations.NoticesFlagsYieldCallsAndExit : Prop :=
  (∀ (i : Instr) (n : Ins) (s : State) (u : Nat), insOf i = some n → s.alone n u →
      let out := fun (f : Thread → Thread) => exec i s = .next (s.modT s.pack.g s.pack.w u f)
      (n.op = .ackn → out (fun x => ({ x with notice := false, ackd := s.pwrp.resl }.apply
        (Eff.reg n.d ⟨s.pwrp.resl, false⟩)).advance n.words))
      ∧ (n.op = .wflg → if (s.pthr u).flagsSet (BitVec.ofNat 12 n.immZ) then
          out (fun x => { x with sched := .blocked (.flags (BitVec.ofNat 12 n.immZ)) })
        else out (fun x => x.advance n.words))
      ∧ (n.op = .yield → ∃ t, exec i s = .next t ∧ t.mem = s.mem ∧ t.groups = (s.modT s.pack.g s.pack.w u (fun x => x.advance n.words)).groups
        ∧ (s.pwrp.quad < (s.core s.pgrp.die s.pgrp.core).quads.length → s.pgrp.die < s.dies.length →
            (t.quad s.pgrp.die s.pgrp.core s.pwrp.quad).avoid = some (s.pack.g, s.pack.w))))
  ∧ (∀ (i : Instr) (n : Ins) (s : State) (u : Nat), insOf i = some n → n.op = .sysc → s.alone n u →
      (s.pthr u).sysc = false → s.pwrp.cmdBusy u = false → s.pgrp.bankBusy (tid s.pack.w u) = false → s.unsent s.pack.g 5 = false →
      ∃ t c, exec i s = .next t ∧ t.calls = s.calls ++ [c] ∧ c.num = (imm16 n.f).toNat ∧ c.vdev = s.pgrp.vdev
        ∧ c.res = none ∧ c.caller = .thread ⟨s.pack.g, s.pack.w, u⟩ n.d
        ∧ (∀ k, k < 8 → c.args.getD k 0 = ((s.pthr u).reg (n.a + k)).v)
        ∧ ((s.die s.pgrp.die).paths = [] → t.mem = s.mem)
        ∧ t.groups = ((s.modG s.pack.g (fun y => { y with rels := NSet.add y.rels (tid s.pack.w u) })).modT s.pack.g s.pack.w u (fun x =>
            { ((x.await n.d).await (n.d + 1)).advance n.words with sysc := true })).groups)
  ∧ (∀ (i : Instr) (n : Ins) (s : State) (u : Nat), insOf i = some n → n.op = .exit → s.alone n u →
      (s.pthr u).isLane = false →
      ∃ t, exec i s = .next t ∧ ((s.die s.pgrp.die).paths = [] → t.mem = s.mem)
        ∧ (t.thr s.pack.g s.pack.w u).sched = .exited
        ∧ (t.thr s.pack.g s.pack.w u).demoted = false ∧ (t.thr s.pack.g s.pack.w u).hnd = false
        ∧ ∀ w k, (w, k) ≠ (s.pack.w, u) → (t.thr s.pack.g w k).g = (s.thr s.pack.g w k).g
            ∧ (t.thr s.pack.g w k).p = (s.thr s.pack.g w k).p ∧ (t.thr s.pack.g w k).pc = (s.thr s.pack.g w k).pc)
  ∧ (∀ (i : Instr) (n : Ins) (s : State) (u k l : Nat), insOf i = some n → n.op = .exit → s.alone n u → (s.pthr u).kind = .lane k l →
      s.trapsAt s.pack.g s.pack.w u →
      exec i s = .next (s.modT s.pack.g s.pack.w u (fun x => x.takeTrap s.pwrp.kd.trap 0x01 n.word)))

/-! ## Scratch, fences and barriers (08_core.md, 09_core_instructions.md) -/

/-- R225, R62, R186, R224, R226: lds and ldsa write the little-endian values at A plus B or the constant, extended by the type's
signedness, with the poison of the words that they touch, into the registers from D on; a poisoned address poisons the
registers, and an acquire order fences all the same; scratch, memory and every other thread's files are as before. A load that
waits in its bank queue (model's choice, log 80) goes on, and its registers await the values.
R225, R62, R224, R345: sts and stsr write the low bytes of the registers from D on to scratch at A plus B or the constant,
least significant byte first, and clear the poison of the words they write whole; every other byte of scratch reads as before,
and registers are unchanged, and memory but for what a release performs. A store that waits in its bank queue (model's choice,
log 80) goes on, with scratch as before. -/
def Obligations.ScratchLoadsAndStores : Prop :=
  (∀ (i : Instr) (n : Ins) (s : State) (u : Nat), insOf i = some n → n.op = .lds ∨ n.op = .ldsa → s.alone n u →
      s.pwrp.slow = false → (s.pthr u).flagRoom (n.flagOf (s.pthr u)) → s.pgrp.filesWf = true →
      let f := if n.op = .lds then n.formV else n.formN
      let sg := if n.op = .lds then n.sg else false
      let x := s.pthr u
      let me := tid s.pack.w u
      let off := ((x.reg n.a).v.toNat + (if n.imm then n.immZ else (x.reg n.b).v.toNat)) % 2 ^ 32
      let psn := (x.reg n.a).p || (!n.imm && (x.reg n.b).p)
      let same := fun (t : State) => (t.grp s.pack.g).scr = s.pgrp.scr ∧ (t.grp s.pack.g).scrP = s.pgrp.scrP
      (f.ord = 1 → s.acqHold s.pack.g s.pack.w u = none) →
      (psn = true → ∃ t, exec i s = .next t ∧ s.keepsElse t s.pack.g s.pack.w [u] ∧ same t
        ∧ x.movedOn (t.pthr u) (loadsEff n.d f.w f.n sg (fun _ => (0, true))) n.words)
      ∧ (psn = false → off % f.al = 0 → off + f.w * f.n ≤ s.pgrp.scrSize →
        s.scrHold s.pack.g s.pack.w u off (f.w * f.n) false = none →
        x.tsm ≠ 1 ∨ f.ord = 1 ∨ s.pgrp.tsFree me off (f.w * f.n) false false →
        (f.ord = 1 → s.pgrp.bankHit me off (f.w * f.n) = false) →
        ∃ t, exec i s = .next t ∧ s.keepsElse t s.pack.g s.pack.w [u] ∧ same t
          ∧ (f.ord = 1 ∨ s.waitsBank s.pack.g s.pack.w u off (f.w * f.n) = false →
            x.movedOn (t.pthr u) (loadsEff n.d f.w f.n sg (fun k =>
              (leNat (fun a => FMap.get 0 s.pgrp.scr a) (off + f.w * k) f.w, s.pgrp.rdPsn (off + f.w * k) f.w))) n.words)
          ∧ (f.ord ≠ 1 → s.waitsBank s.pack.g s.pack.w u off (f.w * f.n) = true →
            x.movedOn (t.pthr u) Eff.none n.words ∧ (∀ k, k < f.n → n.d + k < 255 → NSet.has (t.pthr u).pend (n.d + k) = true)
            ∧ (t.grp s.pack.g).bank
              = s.pgrp.bank ++ [⟨s.pkg.nextId, me, off, f.w, f.n, .load n.d sg, n.flagOf x, s.clock⟩])))
  ∧ (∀ (i : Instr) (n : Ins) (s : State) (u : Nat), insOf i = some n → n.op = .sts ∨ n.op = .stsr → s.alone n u →
      s.pwrp.slow = false → (s.pthr u).flagRoom (n.flagOf (s.pthr u)) → s.pgrp.filesWf = true →
      let f := if n.op = .sts then n.formV else n.formN
      let x := s.pthr u
      let me := tid s.pack.w u
      let off := ((x.reg n.a).v.toNat + (if n.imm then n.immZ else (x.reg n.b).v.toNat)) % 2 ^ 32
      let val := fun (k : Nat) => if f.w = 8 then (x.reg64 (n.d + k)).toNat else (x.reg (n.d + k)).v.toNat
      f.n = 1 ∨ f.w = 4 → off % f.al = 0 → off + f.w * f.n ≤ s.pgrp.scrSize → s.pgrp.xbHit off (f.w * f.n) = false →
      s.scrHold s.pack.g s.pack.w u off (f.w * f.n) true = none →
      (f.ord = 2 → s.relHold s.pack.g s.pack.w u f.scope true = none) →
      x.tsm ≠ 1 ∨ f.ord = 2 ∨ s.pgrp.tsFree me off (f.w * f.n) true (decide (f.w < 4)) →
      ∃ t, exec i s = .next t ∧ x.movedOn (t.pthr u) Eff.none n.words
        ∧ (if f.ord = 2 then s.released s.pack.g f.scope else s).keepsElse t s.pack.g s.pack.w [u]
        ∧ (s.waitsBank s.pack.g s.pack.w u off (f.w * f.n) = false →
          (∀ k j, k < f.n → j < f.w → FMap.get 0 (t.grp s.pack.g).scr (off + f.w * k + j) = BitVec.ofNat 8 (val k / 256 ^ j))
          ∧ (∀ a, a < off ∨ off + f.w * f.n ≤ a → FMap.get 0 (t.grp s.pack.g).scr a = FMap.get 0 s.pgrp.scr a)
          ∧ (∀ k, NSet.has (t.grp s.pack.g).scrP k
            = (NSet.has s.pgrp.scrP k && !decide (off ≤ 4 * k ∧ 4 * k + 4 ≤ off + f.w * f.n))))
        ∧ (s.waitsBank s.pack.g s.pack.w u off (f.w * f.n) = true →
          (t.grp s.pack.g).scr = s.pgrp.scr ∧ (t.grp s.pack.g).scrP = s.pgrp.scrP
          ∧ (t.grp s.pack.g).bank = s.pgrp.bank ++ [⟨s.pkg.nextId, me, off, f.w, f.n,
            .store ((List.range f.n).map val) (f.ord == 2), n.flagOf x, s.clock⟩]))

/-- R26, R224, R192: a scratch access by a clean address that is misaligned or reaches past the workgroup's scratch, or a store or
atomic to an initialised transfer barrier, traps 0x09 with the address in %tval, and has no other effect.
R193, R196, R20: a plain scratch access of a thread whose TSM is 1 that conflicts traps 0x07, with the earlier thread and the
first word in conflict in %tval, and has no other effect. -/
def Obligations.ScratchAccessesTrap : Prop :=
  (∀ (i : Instr) (n : Ins) (s : State) (u : Nat), insOf i = some n → n.op ∈ [Op.lds, .ldsa, .sts, .stsr, .atms] → s.alone n u →
      s.pwrp.slow = false → s.trapsAt s.pack.g s.pack.w u → (s.pthr u).flagRoom (n.flagOf (s.pthr u)) →
      let f := if n.op = .ldsa ∨ n.op = .stsr then n.formN
        else if n.op = .atms then ⟨n.w / 8, 1, n.w / 8, n.mb 6 2, n.mb 3 3⟩ else n.formV
      let x := s.pthr u
      let off := if n.op = .atms then (x.reg n.a).v.toNat
        else ((x.reg n.a).v.toNat + (if n.imm then n.immZ else (x.reg n.b).v.toNat)) % 2 ^ 32
      (x.reg n.a).p = false → (n.op ≠ .atms → n.imm = false → (x.reg n.b).p = false) →
      (off % f.al ≠ 0 ∨ s.pgrp.scrSize < off + f.w * f.n ∨ (n.op ≠ .lds ∧ n.op ≠ .ldsa ∧ s.pgrp.xbHit off (f.w * f.n) = true)) →
      exec i s = .next (s.modT s.pack.g s.pack.w u (fun y => y.takeTrap s.pwrp.kd.trap 0x09 (BitVec.ofNat 64 off))))
  ∧ (∀ (i : Instr) (n : Ins) (s : State) (u k v : Nat), insOf i = some n → n.op ∈ [Op.lds, .ldsa, .sts, .stsr] → s.alone n u →
      s.pwrp.slow = false → s.trapsAt s.pack.g s.pack.w u → (s.pthr u).flagRoom (n.flagOf (s.pthr u)) →
      s.pwrp.threads.length ≤ 32 →
      let f := if n.op = .ldsa ∨ n.op = .stsr then n.formN else n.formV
      let st := decide (n.op = .sts ∨ n.op = .stsr)
      let x := s.pthr u
      let me := tid s.pack.w u
      let off := ((x.reg n.a).v.toNat + (if n.imm then n.immZ else (x.reg n.b).v.toNat)) % 2 ^ 32
      (x.reg n.a).p = false → (n.imm = false → (x.reg n.b).p = false) → x.tsm = 1 → f.ord = 0 →
      off % f.al = 0 → off + f.w * f.n ≤ s.pgrp.scrSize → (st = true → s.pgrp.xbHit off (f.w * f.n) = false) →
      s.scrHold s.pack.g s.pack.w u off (f.w * f.n) st = none →
      k ∈ wordsOf off (f.w * f.n) → s.pgrp.tsMeets me k st (decide (f.w < 4)) v →
      (∀ j ∈ wordsOf off (f.w * f.n), j < k → ∀ y, ¬s.pgrp.tsMeets me j st (decide (f.w < 4)) y) →
      exec i s = .next (s.modT s.pack.g s.pack.w u (fun y =>
        y.takeTrap s.pwrp.kd.trap 0x07 (BitVec.ofNat 64 (v * 2 ^ 32 + 4 * k)))))

/-- R227, R345: atms writes its operation's result over the word or pair at A and the old value into D; cas stores B only over a
value equal to C; a poisoned old word poisons D and is written poisoned; every other byte of scratch and its poison are as
before. One that waits in its bank queue (model's choice, log 80), or there behind an atomic of its pack to a common word, goes
on, with scratch as before. -/
def Obligations.ScratchAtomics : Prop :=
  ∀ (i : Instr) (n : Ins) (s : State) (u : Nat), insOf i = some n → n.op = .atms → s.alone n u →
    s.pwrp.slow = false → (s.pthr u).flagRoom (n.flagOf (s.pthr u)) → s.pgrp.filesWf = true →
    let x := s.pthr u
    let me := tid s.pack.w u
    let off := (x.reg n.a).v.toNat
    let w := n.w / 8
    let old := leNat (fun a => FMap.get 0 s.pgrp.scr a) off w
    let val := fun (r : Nat) => if n.w = 64 then (x.reg64 r).toNat else (x.reg r).v.toNat
    let ext := fun (v : Nat) => valOf n.w n.sg v
    let acq := decide ((n.mb 6 2) % 2 = 1)
    let rel := decide ((n.mb 6 2) / 2 % 2 = 1)
    n.w = 32 ∨ n.w = 64 → off % w = 0 → off + w ≤ s.pgrp.scrSize → s.pgrp.xbHit off w = false →
    s.scrHold s.pack.g s.pack.w u off w true = none →
    (rel = true → s.relHold s.pack.g s.pack.w u (n.mb 3 3) true = none) →
    (acq = true → s.acqHold s.pack.g s.pack.w u = none ∧ s.pgrp.bankHit me off w = false) →
    ∃ t, exec i s = .next t
      ∧ (if rel then s.released s.pack.g (n.mb 3 3) else s).keepsElse t s.pack.g s.pack.w [u]
      ∧ (acq = true ∨ (s.waitsBank s.pack.g s.pack.w u off w = false ∧ s.pgrp.packHit s.pack.w off w s.clock = false) → ∃ new,
        x.movedOn (t.pthr u) (loadEff n.d w false old (s.pgrp.rdPsn off w)) n.words
        ∧ (n.mb 0 3 = 0 → new = (old + val n.b) % 2 ^ n.w)
        ∧ (n.mb 0 3 = 1 → new = if ext old ≤ ext (val n.b) then old else val n.b)
        ∧ (n.mb 0 3 = 2 → new = if ext old ≤ ext (val n.b) then val n.b else old)
        ∧ (n.mb 0 3 = 3 → new = old &&& val n.b) ∧ (n.mb 0 3 = 4 → new = old ||| val n.b)
        ∧ (n.mb 0 3 = 5 → new = old ^^^ val n.b) ∧ (n.mb 0 3 = 6 → new = val n.b)
        ∧ (n.mb 0 3 = 7 → new = if old = val n.c then val n.b else old)
        ∧ (∀ j, j < w → FMap.get 0 (t.grp s.pack.g).scr (off + j) = BitVec.ofNat 8 (new / 256 ^ j))
        ∧ (∀ a, a < off ∨ off + w ≤ a → FMap.get 0 (t.grp s.pack.g).scr a = FMap.get 0 s.pgrp.scr a)
        ∧ (∀ k, NSet.has (t.grp s.pack.g).scrP k
          = if off ≤ 4 * k ∧ 4 * k + 4 ≤ off + w then s.pgrp.rdPsn off w else NSet.has s.pgrp.scrP k))
      ∧ (acq = false → s.waitsBank s.pack.g s.pack.w u off w = true ∨ s.pgrp.packHit s.pack.w off w s.clock = true →
        x.movedOn (t.pthr u) Eff.none n.words ∧ (t.grp s.pack.g).scr = s.pgrp.scr ∧ (t.grp s.pack.g).scrP = s.pgrp.scrP
        ∧ (t.grp s.pack.g).bank = s.pgrp.bank ++ [⟨s.pkg.nextId, me, off, w, 1,
          .atom n.d n.sg (n.mb 0 3) (val n.b) (val n.c), n.flagOf x, s.clock⟩])

/-- R228, R26: ldw writes the little-endian value at A plus the constant in the window into D, extended by the type's signedness,
behind what its die has sent to those pages; a byte beyond the bound size reads 0 and poisons the value; a poisoned A poisons
it; an unbound window traps 0x08. Its tokens are taken (R333); no register of another thread changes.
R229, R230: a fence that finds nothing outstanding lets its thread go on; bar.arrive of a thread that has not arrived in the
phase records it and goes on; bar.wait and bar.sync block the thread for the current phase, from where it goes on behind the
instruction; when every live thread has arrived the phase advances. No register changes, and no byte of memory but for the writes
that a release performs (R345).
R231, R192: xbar.init makes the object at A with EXPECTED the count, ARRIVED 0, phase 0 and VALID 1; xbar.arrive of a count that
does not complete the phase adds it to ARRIVED; xbar.wait blocks the thread for the current phase; xbar.inval clears VALID. No
register and no byte of memory changes, nor any byte of scratch outside the object's sixteen. -/
def Obligations.WindowReadsFencesAndBarriers : Prop :=
  (∀ (i : Instr) (n : Ins) (s : State) (u : Nat), insOf i = some n → n.op = .ldw → s.alone n u →
      (s.pthr u).flagRoom (n.flagOf (s.pthr u)) →
      let a := (s.pthr u).reg n.a
      let win := FMap.get (0, 0) s.pgrp.wins (n.mb 0 3)
      let off := a.v.toNat + n.immZ
      let m := min (n.w / 8) (win.2 - off)
      let r := (List.range m).foldl (fun r j => r.drainTo s.pgrp.die s.pgrp.vdev (win.1 + off + j)) s
      (a.p = true → exec i s = .next (s.modT s.pack.g s.pack.w u (fun y =>
        (y.apply (loadEff n.d (n.w / 8) n.sg 0 true)).advance n.words)))
      ∧ (a.p = false → win.2 = 0 → s.trapsAt s.pack.g s.pack.w u →
        exec i s = .next (s.modT s.pack.g s.pack.w u (fun y => y.takeTrap s.pwrp.kd.trap 0x08 (BitVec.ofNat 64 (n.mb 0 3)))))
      ∧ (∀ (l : List (Byte × Bool)) (c : State), a.p = false → win.2 ≠ 0 → l.length = n.w / 8 →
        (∀ k, k < n.w / 8 → off + k < win.2 → r.readB s.pgrp.die s.pgrp.vdev (win.1 + (off + k)) = .ok (l.getD k (0, false))) →
        (∀ k, k < n.w / 8 → win.2 ≤ off + k → l.getD k (0, false) = (0, true)) →
        r.charge s.pgrp.die s.pgrp.vdev (if m = 0 then [] else [⟨win.1 + off, m, .read⟩]) = .ok c →
        ∃ t, exec i s = .next t ∧ r.keepsElse t s.pack.g s.pack.w [u]
          ∧ (s.pthr u).movedOn (t.pthr u) (loadEff n.d (n.w / 8) n.sg (leNat (fun k => (l.getD k (0, false)).1) 0 (n.w / 8))
              (l.any (fun b => b.2))) n.words))
  ∧ (∀ (i : Instr) (n : Ins) (s : State) (u : Nat), insOf i = some n → s.alone n u → (s.pthr u).flagRoom (n.flagOf (s.pthr u)) →
      let id := n.mb 0 4
      let b := FMap.get Bar.zero s.pgrp.bars id
      let me := tid s.pack.w u
      let next := (s.pthr u).after n.words
      (n.op = .fence → ((n.mb 6 2) / 2 % 2 = 1 → s.relHold s.pack.g s.pack.w u (n.mb 3 3) true = none) →
        ((n.mb 6 2) % 2 = 1 → s.acqHold s.pack.g s.pack.w u = none) →
        ∃ t, exec i s = .next t ∧ (t.grp s.pack.g).scr = s.pgrp.scr
          ∧ (if n.mb 6 2 = 1 then s else s.released s.pack.g (n.mb 3 3)).keepsElse t s.pack.g s.pack.w []
          ∧ (s.pthr u).movedOn (t.pthr u) Eff.none n.words)
      ∧ (n.op = .bar → n.mb 4 2 = 2 → exec i s = .next (s.modT s.pack.g s.pack.w u (fun x =>
          { x with sched := .blocked (.bar id b.phase), npc := next.1, ntix := next.2 })))
      ∧ (n.op = .bar → n.mb 4 2 = 1 ∨ n.mb 4 2 = 3 → NSet.has b.arrived me = false → s.pgrp.bankBusy me = false →
        ∃ t, exec i s = .next t ∧ s.keepsElse t s.pack.g s.pack.w [] ∧ (t.grp s.pack.g).scr = s.pgrp.scr
          ∧ (n.mb 4 2 = 1 → (s.pthr u).movedOn (t.pthr u) Eff.none n.words)
          ∧ (n.mb 4 2 = 3 → (t.pthr u).sched = .blocked (.bar id b.phase) ∧ ((t.pthr u).npc, (t.pthr u).ntix) = next)
          ∧ ((∀ k ∈ s.pgrp.liveIds, k = me ∨ NSet.has b.arrived k = true) →
              b.phase < (FMap.get Bar.zero (t.grp s.pack.g).bars id).phase)))
  ∧ (∀ (i : Instr) (n : Ins) (s : State) (u : Nat), insOf i = some n → s.alone n u → (s.pthr u).flagRoom (n.flagOf (s.pthr u)) →
      s.pgrp.filesWf = true →
      let off := ((s.pthr u).reg n.a).v.toNat
      let cnt := if n.imm then n.immZ else ((s.pthr u).reg n.b).v.toNat
      let word := fun (x : Group) (k : Nat) => leNat (fun a => FMap.get 0 x.scr a) (off + 4 * k) 4
      let only := fun (t : State) => s.keepsElse t s.pack.g s.pack.w [] ∧
        ∀ a, a < off ∨ off + 16 ≤ a → FMap.get 0 (t.grp s.pack.g).scr a = FMap.get 0 s.pgrp.scr a
      off % 16 = 0 → off + 16 ≤ s.pgrp.scrSize → s.xbHold s.pack.g s.pack.w u off = none →
      (n.op = .xbarArrive → s.pgrp.bankBusy (tid s.pack.w u) = false) →
      (n.op = .xbarInit → cnt ≠ 0 → s.pgrp.xbWaiters off = 0 → s.pgrp.xbNamed off = false →
        ∃ t, exec i s = .next t ∧ only t ∧ (s.pthr u).movedOn (t.pthr u) Eff.none n.words
          ∧ word (t.grp s.pack.g) 0 = cnt ∧ word (t.grp s.pack.g) 1 = 0 ∧ word (t.grp s.pack.g) 2 = 4 ∧ word (t.grp s.pack.g) 3 = 0
          ∧ (t.grp s.pack.g).xbValid off = true)
      ∧ (n.op = .xbarArrive → s.pgrp.xbValid off = true → word s.pgrp 1 + cnt < word s.pgrp 0 →
        ∃ t, exec i s = .next t ∧ only t ∧ (s.pthr u).movedOn (t.pthr u) Eff.none n.words
          ∧ word (t.grp s.pack.g) 1 = word s.pgrp 1 + cnt ∧ word (t.grp s.pack.g) 0 = word s.pgrp 0
          ∧ word (t.grp s.pack.g) 2 = word s.pgrp 2)
      ∧ (n.op = .xbarArrive → s.pgrp.xbValid off = true → word s.pgrp 0 ≠ 0 → word s.pgrp 1 + cnt = word s.pgrp 0 →
        ∃ t, exec i s = .next t ∧ only t ∧ (s.pthr u).movedOn (t.pthr u) Eff.none n.words ∧ word (t.grp s.pack.g) 1 = 0
          ∧ word (t.grp s.pack.g) 2 % 2 = (word s.pgrp 2 + 1) % 2)
      ∧ (n.op = .xbarWait → s.pgrp.xbValid off = true →
        ∃ t, exec i s = .next t ∧ only t ∧ (t.pthr u).sched = .blocked (.xbar off (word s.pgrp 2 % 2))
          ∧ ((t.pthr u).npc, (t.pthr u).ntix) = (s.pthr u).after n.words)
      ∧ (n.op = .xbarInval → (s.pgrp.xbValid off = true → s.pgrp.xbWaiters off = 0 ∧ s.pgrp.xbNamed off = false) →
        ∃ t, exec i s = .next t ∧ only t ∧ (s.pthr u).movedOn (t.pthr u) Eff.none n.words
          ∧ (t.grp s.pack.g).xbValid off = false))

/-! ## Copy engines and spans (09_core_instructions.md) -/

/-- R235, R237, R238, R191: a copy whose operands pass its checks enters queue Q of its warp as one command of the pack with the
shapes, barrier and index list that its first thread supplies, records its destination interval and its sources on the
scoreboard, and raises the flag that SF names; nothing is copied yet: memory, scratch and registers are unchanged.
R240: cqjoin enters one join command in every queue that its mask names and in no other; the entry of the lowest queue named
carries the flag.
R241, R243, R81: ldg, stg, atmg and pref enter queue Q of their warp as one command with one access for each thread of the
pack, in ascending thread index, each at the thread's own address and with its own data; the registers that ldg and atmg will
write await them. -/
def Obligations.CopiesAndGlobalAccessesEnterTheirQueues : Prop :=
  (∀ (i : Instr) (n : Ins) (s : State), insOf i = some n → n.op ∈ [Op.cpy, .cpyg, .cpys, .cpyr] → s.together n →
      let x := s.pthr (s.pack.ts.headD 0)
      let q := n.mb 0 2
      let h := s.pwrp.shape
      let ix := decide (n.op = .cpyg ∨ n.op = .cpys)
      let iv := [(true, s.pgrp.sideHull (h n.d) (n.op == .cpys)), (false, s.pgrp.sideHull (h n.a) (n.op == .cpyg))]
        ++ (if ix then [(false, ((x.reg n.c).v.toNat, (x.reg n.c).v.toNat + 4 * (h n.a).box 1))] else [])
      let sb := (iv.filter (fun e => decide (e.2.1 < e.2.2))).map (fun e => (⟨s.pkg.nextId, e.2.1, e.2.2, e.1⟩ : SbEntry))
      s.pgrp.copyTrap s.pwrp n (n.copyOp s.pwrp x) = none → q < s.pwrp.cqs.length → (s.pwrp.cqs.getD q []).length < 16 →
      s.boardRoom s.pack.g sb.length = true →
      ∃ t, exec i s = .next t ∧ s.packMoves t n true
        ∧ (t.pwrp.cqs.getD q []) = s.pwrp.cqs.getD q [] ++ [⟨s.pkg.nextId,
            .copy n.op (h n.d) (h n.a) (if n.f.m.getLsbD 2 then some (x.reg n.b).v.toNat else none)
              (if ix then (x.reg n.c).v.toNat else 0) (n.mb 4 3) (n.mb 8 3),
            n.op.code, s.pack.ts, s.pack.ts, n.flagOf x, .queued, [], [], 0, []⟩]
        ∧ (∀ k, k ≠ q → t.pwrp.cqs.getD k [] = s.pwrp.cqs.getD k [])
        ∧ (t.grp s.pack.g).board = s.pgrp.board ++ sb ∧ (t.grp s.pack.g).scr = s.pgrp.scr)
  ∧ (∀ (i : Instr) (n : Ins) (s : State), insOf i = some n → n.op = .cqjoin → s.together n →
      s.pwrp.cqs.length = 4 → (∀ k, k < 4 → (n.mb 0 4) / 2 ^ k % 2 = 1 → (s.pwrp.cqs.getD k []).length < 16) → n.mb 0 4 ≠ 0 →
      ∃ t, exec i s = .next t ∧ s.packMoves t n true
        ∧ ∀ k, k < 4 → t.pwrp.cqs.getD k [] = s.pwrp.cqs.getD k [] ++
            (if (n.mb 0 4) / 2 ^ k % 2 = 1 then [⟨s.pkg.nextId, .join (BitVec.ofNat 4 (n.mb 0 4)), n.op.code, s.pack.ts, s.pack.ts,
              if (n.mb 0 4) % 2 ^ k = 0 then n.flagOf (s.pthr (s.pack.ts.headD 0)) else none, .queued, [], [], 0, []⟩] else []))
  ∧ (∀ (i : Instr) (n : Ins) (s : State), insOf i = some n → n.op ∈ [Op.ldg, .stg, .atmg, .pref] → s.together n →
      let q := n.mb 0 2
      let b := n.w / 8
      let data := fun (x : Thread) (r : Nat) => if n.w = 64 then x.reg64 r else ((x.reg r).v.setWidth 64 : DWord)
      let acc := fun (u : Nat) =>
        let x := s.pthr u
        let a := x.reg64 n.a
        let at' := if n.op = .ldg ∧ n.imm then a + BitVec.ofInt 64 (imm16 n.f).toInt
          else if n.op = .atmg then BitVec.ofNat 64 (a.toNat / b * b) else a
        (⟨u, at', if n.op = .stg ∨ n.op = .atmg then data x n.b else 0, if n.op = .atmg then data x n.c else 0, false⟩ : Acc)
      let l := s.pack.ts.map acc
      let cmd : Cmd := if n.op = .ldg then .ldg l n.d n.ty (n.mb 6 2) (n.mb 3 3)
        else if n.op = .stg then .stg l n.ty (n.mb 6 2) (n.mb 3 3)
        else if n.op = .atmg then .atmg l n.d n.ty (n.mb 5 3) (n.mb 2 3) else .pref l (imm16 n.f).toNat
      q < s.pwrp.cqs.length → (s.pwrp.cqs.getD q []).length < 16 →
      ∃ t, exec i s = .next t ∧ s.packMoves t n true
        ∧ (t.pwrp.cqs.getD q []) = s.pwrp.cqs.getD q [] ++ [⟨s.pkg.nextId, cmd, n.op.code, s.pack.ts, s.pack.ts,
            n.flagOf (s.pthr (s.pack.ts.headD 0)), .queued, [], [], 0, []⟩]
        ∧ (∀ k, k ≠ q → t.pwrp.cqs.getD k [] = s.pwrp.cqs.getD k [])
        ∧ (∀ u ∈ s.pack.ts, ∀ r, NSet.has (t.pthr u).pend r = (NSet.has (s.pthr u).pend r
            || (decide (n.op = .ldg ∨ n.op = .atmg) && decide (r < 255)
                && (r == n.d || (decide (n.w = 64) && r == n.d + 1))))))

/-- R187, R244: smap binds an unbound span to scratch and a range of addresses, with every sector invalid, and traps 0x09 with the
scratch offset where the rules of a binding are broken; ssync passes when no sector is dirty and no scratch access of its threads
to the span waits; sclose then unbinds the span; sinv makes every valid sector stale. An unbound span makes the last three pass without effect. -/
def Obligations.SpansAreBoundAndUnbound : Prop :=
  ∀ (i : Instr) (n : Ins) (s : State), insOf i = some n → s.together n →
    let x := s.pthr (s.pack.ts.headD 0)
    let so := (x.reg n.a).v.toNat
    let va := (x.reg64 n.b).toNat
    let len := (x.reg n.c).v.toNat
    let span := fun (t : State) (m : Nat) => FMap.get none (t.grp s.pack.g).spans m
    let others := fun (t : State) => ∀ m, m ≠ n.d → span t m = span s m
    let meets := (List.range 8).any (fun k => (span s k).any (fun p =>
      decide (0 < len) && decide (0 < p.len) && decide (so < p.so + p.len) && decide (p.so < so + len)))
    let bad := (span s n.d).isSome || so % 1024 != 0 || va % 1024 != 0 || len % 1024 != 0
      || decide (s.pgrp.scrSize < so + len) || meets
    let clean := ((span s n.d).all (fun p => p.secs.all (fun k => k.2.dirty.isEmpty))) = true
    let idle := fun (lo len : Nat) => ∀ u ∈ s.pack.ts, s.pgrp.bankHit (tid s.pack.w u) lo len = false
    let still := ∀ p, span s n.d = some p → idle p.so p.len
    s.pgrp.filesWf = true →
    (n.op = .smap → bad = false → idle so len → ∃ t, exec i s = .next t ∧ s.packMoves t n false ∧ others t ∧ span t n.d = some ⟨so, va, len, [], []⟩)
    ∧ (n.op = .smap → bad = true → (∀ u ∈ s.pack.ts, s.trapsAt s.pack.g s.pack.w u) →
        exec i s = .next (s.mapPack (fun _ y => y.takeTrap s.pwrp.kd.trap 0x09 (BitVec.ofNat 64 so))))
    ∧ (n.op = .ssync → clean → still → exec i s = .next (s.mapPack (fun _ y => { y with spinCh := true }.advance n.words)))
    ∧ (n.op = .sclose → clean → still → ∃ t, exec i s = .next t ∧ s.packMoves t n false ∧ others t ∧ span t n.d = none)
    ∧ (n.op = .sinv → ∃ t, exec i s = .next t ∧ s.packMoves t n false ∧ others t
        ∧ span t n.d = (span s n.d).map (fun p => { p with secs := p.secs.map (fun k =>
            (k.1, { k.2 with stale := k.2.stale || k.2.valid, filled := 0 })) }))

/-! ## Shapes, tiles and activation banks (06_float_instructions.md, 09_core_instructions.md, 10_matrix.md) -/

/-- R245, Table 9-2: hset writes a word of a shape register and adds the poison of A to it, hcpy copies a shape register, hadv adds
its step to an origin mod 2^16, and hget writes a word of one with its poison into D; no other register, shape register or byte
of memory changes.
R245, R62, R64: hld sets a shape register from sixteen words of scratch, with the poison of the words, or of a window, where a byte
beyond the bound poisons it; by a poisoned address it makes no access, and leaves zeros, poisoned (the model's reading, log 18:
R245 speaks of poisoned words, R26 of a load's poisoned address); hst stores the sixteen words of a clean shape register, least significant
byte first, and every other byte of scratch reads as before; a poisoned shape register traps 0x03 with 0x200 + its number (the
model's reading of R64, log 17). -/
def Obligations.ShapesMove : Prop :=
  (∀ (i : Instr) (n : Ins) (s : State), insOf i = some n →
      let x := s.pthr (s.pack.ts.headD 0)
      let h := fun (k : Nat) => FMap.get Shape.zero s.pwrp.shapes k
      let out := fun (v : Shape) => exec i s = .next ((s.modW s.pack.g s.pack.w (fun y =>
        { y with shapes := FMap.set Shape.zero y.shapes n.d v })).mapPack (fun _ y => y.advance n.words))
      (n.op = .hset → s.together n →
        out ⟨FMap.set 0 (h n.d).w (n.mb 0 4) (x.reg n.a).v, (h n.d).p || (x.reg n.a).p⟩)
      ∧ (n.op = .hcpy → s.together n → out (h n.a))
      ∧ (n.op = .hadv → s.together n → ∃ w : Word,
          out ⟨FMap.set 0 (h n.d).w (13 + n.mb 0 2 / 2) w, (h n.d).p || (!n.imm && (x.reg n.a).p)⟩
          ∧ ∀ k : Nat, k < 2 → ((w.toNat / 65536 ^ k) % 65536 : Int) =
              if n.mb 0 2 % 2 = k then ((FMap.get 0 (h n.d).w (13 + n.mb 0 2 / 2)).toNat / 65536 ^ k
                + (if n.imm then n.immZ else (x.reg n.a).v.toNat)) % 65536
              else ((FMap.get 0 (h n.d).w (13 + n.mb 0 2 / 2)).toNat / 65536 ^ k) % 65536)
      ∧ (n.op = .hget → s.passes n → s.guardsClean n → exec i s = .next (s.mapPack (fun _ y => y.given n (fun _ =>
          Eff.reg n.d ⟨FMap.get 0 (h n.a).w (n.mb 0 4), (h n.a).p⟩)))))
  ∧ (∀ (i : Instr) (n : Ins) (s : State), insOf i = some n → s.together n → s.pwrp.slow = false →
      s.pgrp.filesWf = true →
      let x := s.pthr (s.pack.ts.headD 0)
      let off := ((x.reg n.a).v.toNat + n.immZ) % 2 ^ 32
      let win := FMap.get (0, 0) s.pgrp.wins (n.mb 0 3)
      let le := fun (b : Nat → Byte) => (List.range 16).foldl (fun m k => FMap.set 0 m k (BitVec.ofNat 32 (leNat b (4 * k) 4))) []
      let held := fun (w : Bool) => s.packHold s.pack.g s.pack.w s.pack.ts off 64 w = none
      let free := fun (w : Bool) => x.tsm ≠ 1 ∨ s.pgrp.tsFree (tid s.pack.w (s.pack.ts.headD 0)) off 64 w false
      let m := min 64 (win.2 - off)
      let r := (List.range m).foldl (fun r j => r.drainTo s.pgrp.die s.pgrp.vdev (win.1 + off + j)) s
      (n.op = .hld → (x.reg n.a).p = true → exec i s = .next ((s.modW s.pack.g s.pack.w (fun y =>
        { y with shapes := FMap.set Shape.zero y.shapes n.d ⟨[], true⟩ })).mapPack (fun _ y => y.advance n.words)))
      ∧ (n.op = .hld → (x.reg n.a).p = false → n.f.m.getLsbD 3 = false → off % 16 = 0 → off + 64 ≤ s.pgrp.scrSize → held false → free false →
        ∃ t, exec i s = .next t ∧ s.packMoves t n false ∧ (t.grp s.pack.g).scr = s.pgrp.scr
          ∧ t.pwrp.shapes = FMap.set Shape.zero s.pwrp.shapes n.d
              ⟨le (fun k => FMap.get 0 s.pgrp.scr (off + k)), s.pgrp.rdPsn off 64⟩)
      ∧ (∀ (l : List (Byte × Bool)) (c : State), n.op = .hld → (x.reg n.a).p = false → n.f.m.getLsbD 3 = true → win.2 ≠ 0 → l.length = 64 →
        (∀ k, k < 64 → off + k < win.2 → r.readB s.pgrp.die s.pgrp.vdev (win.1 + (off + k)) = .ok (l.getD k (0, false))) →
        (∀ k, k < 64 → win.2 ≤ off + k → l.getD k (0, false) = (0, true)) →
        r.charge s.pgrp.die s.pgrp.vdev (if m = 0 then [] else [⟨win.1 + off, m, .read⟩]) = .ok c →
        ∃ t, exec i s = .next t ∧ r.packMoves t n false ∧ t.pwrp.shapes = FMap.set Shape.zero s.pwrp.shapes n.d
              ⟨le (fun k => (l.getD k (0, false)).1), l.any (fun b => b.2)⟩)
      ∧ (n.op = .hst → off % 16 = 0 → off + 64 ≤ s.pgrp.scrSize → s.pgrp.xbHit off 64 = false → held true → free true →
        (FMap.get Shape.zero s.pwrp.shapes n.d).p = false →
        ∃ t, exec i s = .next t ∧ s.packMoves t n false
          ∧ (∀ k j, k < 16 → j < 4 → FMap.get 0 (t.grp s.pack.g).scr (off + 4 * k + j)
              = ((FMap.get 0 (FMap.get Shape.zero s.pwrp.shapes n.d).w k).extractLsb' (8 * j) 8))
          ∧ (∀ a, a < off ∨ off + 64 ≤ a → FMap.get 0 (t.grp s.pack.g).scr a = FMap.get 0 s.pgrp.scr a)
          ∧ (∀ k, NSet.has (t.grp s.pack.g).scrP k
            = (NSet.has s.pgrp.scrP k && !decide (off ≤ 4 * k ∧ 4 * k + 4 ≤ off + 64))))
      ∧ (n.op = .hst → off % 16 = 0 → off + 64 ≤ s.pgrp.scrSize → s.pgrp.xbHit off 64 = false →
        (FMap.get Shape.zero s.pwrp.shapes n.d).p = true → (∀ u ∈ s.pack.ts, s.trapsAt s.pack.g s.pack.w u) →
        exec i s = .next (s.mapPack (fun _ y => y.takeTrap s.pwrp.kd.trap 0x03 (BitVec.ofNat 64 (0x200 + n.d))))))

/-- R256, R251, R260, R261, R262: mtile, mcvt, mld and mexp whose checks pass enter the pending list of the quadrant's matrix unit as
one operation of the pack, with the values of its first thread, record what they read and write on the scoreboard, and raise the
flag that SF names; no tile, register or byte of scratch or memory changes yet. -/
def Obligations.MatrixOperationsAreListed : Prop :=
  ∀ (i : Instr) (n : Ins) (s : State), insOf i = some n → s.passes n →
    let v := s.pack.ts.headD 0
    let x := s.pthr v
    let y := s.pwrp
    let a := x.reg n.a
    let off := (a.v.toNat + n.immZ) % 2 ^ 32
    let listed := fun (cmd : MCmd) (ivs : List (Bool × Nat × Nat)) (scl : Option (Nat × Nat)) =>
      let sb := ivs.filterMap (fun e => if e.2.1 < e.2.2 then some (⟨s.pkg.nextId, e.2.1, e.2.2, e.1⟩ : SbEntry) else none)
      s.unitFull s.pack.g s.pack.w = false → s.boardRoom s.pack.g sb.length = true →
      ∃ t, exec i s = .next t ∧ s.packMoves t n true ∧ (t.grp s.pack.g).board = s.pgrp.board ++ sb
        ∧ (t.grp s.pack.g).scr = s.pgrp.scr ∧ t.pwrp.tiles = y.tiles
        ∧ t.pwrp.mops = y.mops ++ [⟨s.pkg.nextId, cmd, tid s.pack.w v, s.pack.ts, n.flagOf x, 0, scl⟩]
    let votes := fun (k : MChk) => (∀ u ∈ s.pack.ts, (s.pthr u).guard n.f.guard = .take ∧ (s.pthr u).lowestPoison [n.c] = none
        ∧ k.own (s.pthr u) = none ∧ (s.pthr u).flagRoom (n.flagOf x)
        ∧ ∀ j, j < k.n → ((s.pthr u).reg (n.c + j)).v = (x.reg (n.c + j)).v) ∧ k.pack x = none
    (n.op = .mtile → votes (n.mtileChk s.pgrp y) →
      let asrc := n.f.m.getLsbD 0
      let c := n.mtileCmd y x
      listed c ((if asrc then [] else [(false, (y.shape n.a).hull (y.shape n.a).elems)])
        ++ [(false, (y.shape n.b).hull (y.shape n.b).elems)]) (if c.scales.1 = c.scales.2 then none else some c.scales))
    ∧ (n.op = .mcvt → votes (n.mcvtChk s.pgrp y) →
      listed (.cvt (y.shape n.d) n.a (n.mb 2 2) (n.mb 0 2) (x.reg n.c).v) [(true, (y.shape n.d).hull (y.shape n.d).elems)] none)
    ∧ (n.op = .mld → s.together n → n.d < y.accs → off % 16 = 0 → off + 32784 ≤ s.pgrp.scrSize →
      listed (.ld n.d off a.p) [(false, off, off + 32784)] none)
    ∧ (n.op = .mexp → s.together n → n.d < y.accs → off % 16 = 0 → off + 32784 ≤ s.pgrp.scrSize → s.pgrp.xbHit off 32784 = false →
      listed (.ex n.d off a.p) [(true, off, off + 32784)] none)

/-- R53–R58, R249, R254, R255: one step of an mtile changes its destination tile by the exact contributions of one K-chunk to one
16 × 16 block, each the sum of a × σA × tA × b × σB × tB over the chunk, in the order of R57 (K-chunk, block row, block column); a
source tile gives its elements converted, and takes the O and I of their conversion.
R59, R261: one step of an mcvt writes the elements of one 16 × 16 block, converted, into the elements of its destination
shape that lie within its dims, poisoned ones into poisoned words; no byte outside those elements changes, and the tile takes
the O and I of the conversions (destination elements that do not overlap).
R262, Table 10-4: one step of an mld loads one block of elements from the image, malformed ones as poisoned NaN with I set,
and with its first step E, O and I from the header (that the header goes with the first of the sixteen steps is the model's reading, log
30); one step of an mexp writes one block of elements, and with its first step the
header; and the sixteen steps of an mexp followed by those of an mld restore a tile exactly. -/
def Obligations.MatrixStepsAreExact : Prop :=
  (∀ (s : State) (d c q g w : Nat) (o : MOp) (dst : Nat) (asrc : Bool) (src rows : Nat) (tb : Bool) (sa sb : Shape) (fmt : Word)
      (ta tb' : Val), s.chaserPick d c q = some (g, w, o) → o.cmd = .tile dst asrc src rows tb sa sb fmt ta tb' →
      let old := s.wrp g w
      let fw := fmt.toNat
      let ca := if asrc then fw / 2 ^ 12 % 16 else fw % 16
      let cb := fw / 16 % 16
      let bitsOfCode := fun (k : Nat) => if k ≤ 1 then 16 else if k = 2 ∨ k = 3 ∨ k = 5 then 8 else 4
      let wide := max (bitsOfCode ca) (bitsOfCode cb)
      let ch := if wide = 16 then 16 else if wide = 8 then 32 else 64
      let M := if asrc then rows else sa.box 1
      let N := if tb then sb.box 1 else sb.box 0
      let per := M / 16 * (N / 16)
      let kk := fun (m : Nat) => o.step / per * ch + m
      let row := fun (i : Nat) => 16 * (o.step % per / (N / 16)) + i
      let col := fun (j : Nat) => 16 * (o.step % per % (N / 16)) + j
      let up := fun (a b : Nat) => (a + b - 1) / b
      let opnd := fun (h : Shape) (code mode : Nat) (x : FV) (tr : Bool) (k line : Nat) =>
        (h.at' (if tr then ⟨k, line, 0, 0⟩ else ⟨line, k, 0, 0⟩)).map (fun i =>
          let e := match s.elem g old.quad h i with
            | .ok r => r
            | .error _ => (0, false)
          let ka := if tr then i.s0 else i.s1
          let la := if tr then i.s1 else i.s0
          let dk := if tr then h.dim 0 else h.dim 1
          let dl := if tr then h.dim 1 else h.dim 0
          let n := la * up dk 64 + ka / 64
          let byte := (s.grp g).scaleRead old.quad (h.sofs + la * up dk 32 + ka / 32) 1
          let scl := (s.grp g).scaleRead old.quad (h.sofs + n) 1
          let sup := (s.grp g).scaleRead old.quad (h.sofs + 4 * up (dl * up dk 64) 4 + 4 * (n / 256)) 4
          match mode with
          | 0 => ([elemVal code e.1, x], e.2)
          | 1 => ([elemVal code e.1, e4m3.decode byte.1, x], e.2 || byte.2)
          | _ => ([elemVal code e.1, fp32.decode sup.1, .fin false scl.1 (-8), x], e.2 || (scl.2 || sup.2)))
      M ∈ [16, 32, 48, 64] → N ∈ [16, 32, 48, 64] → FMap.wf Tile.zero old.tiles = true → (old.tile dst).sane → (asrc = true → dst ≠ src) →
      ∃ (t : State) (con : Nat → Option (XV × Bool)) (cv : Nat → Nat → Nat) (ex : Nat → Nat → Exc),
        exec (.chaserStep d c q) s = .next t ∧ (old.tile dst).stepped ((t.wrp g w).tile dst) con
        ∧ (∀ k, (con k).isSome = true ↔ ∃ i < 16, ∃ j < 16, k = 64 * row i + col j)
        ∧ (asrc = true → ∀ i < 16, ∀ m < ch, let v := ((old.tile src).at' (row i) (kk m)).value (old.tile src).x
            match dstOf ca with
            | .flt f => v.floatsTo true f (fw / 2 ^ 16 % 4) (fmt.getLsbD 18) (cv i m) (ex i m)
            | .int wd sg => ∃ r, v.intsTo wd sg (fw / 2 ^ 16 % 4) r (ex i m) ∧ cv i m = (r % 2 ^ wd).toNat)
        ∧ (asrc = true → let z := (t.wrp g w).tile src
            z.e = (old.tile src).e ∧ z.x = (old.tile src).x
            ∧ (z.i = true ↔ (old.tile src).i = true ∨ ∃ i < 16, ∃ m < ch, (ex i m).inv = true)
            ∧ (z.o = true ↔ (old.tile src).o = true ∨ ∃ i < 16, ∃ m < ch, (ex i m).ovf = true))
        ∧ ∀ i < 16, ∀ j < 16, ∃ v p, con (64 * row i + col j) = some (v, p) ∧
            let ts := (List.range ch).filterMap (fun m =>
              match (if asrc then some ([elemVal ca (cv i m), fp32.decode ta.v.toNat], ((old.tile src).at' (row i) (kk m)).p)
                  else opnd sa ca (fw / 2 ^ 8 % 4) (fp32.decode ta.v.toNat) true (kk m) (row i)),
                opnd sb cb (fw / 2 ^ 10 % 4) (fp32.decode tb'.v.toNat) tb (kk m) (col j) with
              | some a, some b => some ((⟨false, a.1 ++ b.1⟩ : Term), a.2 || b.2)
              | _, _ => none)
            v.isSum (ts.map (fun x => x.1)) ∧ p = (ta.p || tb'.p || ts.any (fun x => x.2)))
  ∧ (∀ (s : State) (d c q g w : Nat) (o : MOp) (dst : Shape) (src rb cb : Nat) (fmt : Word),
      s.chaserPick d c q = some (g, w, o) → o.cmd = .cvt dst src rb cb fmt → (s.grp g).filesWf = true →
      let T := (s.wrp g w).tile src
      let fw := fmt.toNat
      let code := fw / 2 ^ 12 % 16
      let across := (dst.box 0 + 15) / 16
      let mine := fun (j : Ix) => j ∈ dst.boxIx ∧ j.s1 / 16 = o.step / across ∧ j.s0 / 16 = o.step % across
      let el := fun (j : Ix) => T.at' (16 * rb + j.s1) (16 * cb + j.s0)
      let cell := fun (i : Ix) => 2 * (dst.addr i).1 + (if dst.width = 4 then (dst.addr i).2 else 0)
      let size := if dst.width = 4 then 1 else 2 * dst.nbytes
      FMap.wf Tile.zero (s.wrp g w).tiles = true → dst.space = 0 → code ≤ 6 → dst.width = codeWidth code →
      (∀ j ∈ dst.boxIx, ∀ j' ∈ dst.boxIx, ∀ i i', dst.at' j = some i → dst.at' j' = some i' → j ≠ j' →
        cell i + size ≤ cell i' ∨ cell i' + size ≤ cell i) →
      ∃ (t : State) (cv : Ix → Nat) (ex : Ix → Exc), exec (.chaserStep d c q) s = .next t
        ∧ (∀ j, match dstOf code with
          | .flt f => ((el j).value T.x).floatsTo true f (fw / 2 ^ 16 % 4) (fmt.getLsbD 18) (cv j) (ex j)
          | .int wd sg => ∃ r, ((el j).value T.x).intsTo wd sg (fw / 2 ^ 16 % 4) r (ex j) ∧ cv j = (r % 2 ^ wd).toNat)
        ∧ (∀ j i, mine j → dst.at' j = some i → ∃ p, t.elem g (s.wrp g w).quad dst i = .ok (cv j, p) ∧ ((el j).p = true → p = true))
        ∧ (∀ a, (∀ j i, mine j → dst.at' j = some i → a < (dst.addr i).1 ∨ (dst.addr i).1 + dst.nbytes ≤ a) →
            FMap.get 0 (t.grp g).scr a = FMap.get 0 (s.grp g).scr a)
        ∧ let z := (t.wrp g w).tile src
          z.e = T.e ∧ z.x = T.x ∧ (z.i = true ↔ T.i = true ∨ ∃ j, mine j ∧ (ex j).inv = true)
          ∧ (z.o = true ↔ T.o = true ∨ ∃ j, mine j ∧ (ex j).ovf = true))
  ∧ (let inBlock := fun (b n : Nat) => ∃ i < 16, ∃ j < 16, n = 64 * (16 * (b / 4) + i) + 16 * (b % 4) + j
    (∀ (s : State) (d c q g w : Nat) (o : MOp) (dst off : Nat) (p : Bool), s.chaserPick d c q = some (g, w, o) →
      o.cmd = .ld dst off p → o.step < 16 → FMap.wf Tile.zero (s.wrp g w).tiles = true → FMap.wf Elem.zero ((s.wrp g w).tile dst).e = true →
      let T := (s.wrp g w).tile dst
      let x := s.grp g
      let v := fun (n : Nat) => x.rd (off + 16 + 8 * n) 8
      let kind := fun (n : Nat) => v n / 2 ^ 48 % 4
      let bad := fun (n : Nat) => 2 ^ 50 ≤ v n ∨ (kind n = 0 ∧ v n % 2 ^ 48 = 2 ^ 47) ∨ (kind n ≠ 0 ∧ v n % 2 ^ 48 ≠ 0)
      let psn := fun (n : Nat) => p || x.rdPsn off 4 || x.rdPsn (off + 16 + 8 * n) 8
      ∃ t, exec (.chaserStep d c q) s = .next t ∧
        let z := (t.wrp g w).tile dst
        let el := fun (n : Nat) => FMap.get Elem.zero z.e n
        z.x = (if o.step = 0 then valOf 16 true (x.rd off 2) else T.x)
        ∧ (z.i = true ↔ (if o.step = 0 then (x.rd off 4).testBit 16 else T.i) = true ∨ ∃ n, inBlock o.step n ∧ bad n)
        ∧ z.o = (if o.step = 0 then (x.rd off 4).testBit 17 else T.o)
        ∧ ∀ n, (inBlock o.step n → bad n → el n = ⟨.nan, 0, true⟩)
          ∧ (inBlock o.step n → ¬bad n → el n = ⟨match kind n with
              | 0 => .fin
              | 1 => .pinf
              | 2 => .ninf
              | _ => .nan, valOf 48 true (v n), psn n⟩)
          ∧ (¬inBlock o.step n → el n = FMap.get Elem.zero T.e n))
    ∧ (∀ (s : State) (d c q g w : Nat) (o : MOp) (src off : Nat) (p : Bool), s.chaserPick d c q = some (g, w, o) →
      o.cmd = .ex src off p → o.step < 16 → (s.grp g).filesWf = true → off % 16 = 0 →
      let T := (s.wrp g w).tile src
      let el := fun (n : Nat) => FMap.get Elem.zero T.e n
      ∃ t, exec (.chaserStep d c q) s = .next t ∧
        (∀ n, inBlock o.step n → (t.grp g).rd (off + 16 + 8 * n) 8 = (match (el n).c with
            | .fin => 0
            | .pinf => 2 ^ 48
            | .ninf => 2 * 2 ^ 48
            | .nan => 3 * 2 ^ 48) + ((el n).m % 2 ^ 48).toNat
          ∧ (t.grp g).rdPsn (off + 16 + 8 * n) 4 = (p || (el n).p) ∧ (t.grp g).rdPsn (off + 20 + 8 * n) 4 = (p || (el n).p))
        ∧ (o.step = 0 → (t.grp g).rd off 4 = (T.x % 2 ^ 16).toNat + (if T.i then 2 ^ 16 else 0) + (if T.o then 2 ^ 17 else 0)
            ∧ (t.grp g).rd (off + 4) 12 = 0 ∧ (t.grp g).rdPsn off 16 = p)
        ∧ ∀ a, (∀ n, inBlock o.step n → a < off + 16 + 8 * n ∨ off + 24 + 8 * n ≤ a) →
            (o.step = 0 → a < off ∨ off + 16 ≤ a) → FMap.get 0 (t.grp g).scr a = FMap.get 0 (s.grp g).scr a)
    ∧ (∀ (x : Group) (t t' : Tile) (off : Nat), x.filesWf = true → off % 16 = 0 → t.sane → FMap.wf Elem.zero t'.e = true →
      let y := (List.range 16).foldl (fun y k => y.exStep t off k false) x
      let z := (List.range 16).foldl (fun z k => y.ldStep z off k false) t'
      z.x = t.x ∧ z.i = t.i ∧ z.o = t.o ∧ ∀ n < 4096, FMap.get Elem.zero z.e n = FMap.get Elem.zero t.e n))

/-- R259, R263, R264: mclr sets every element of a tile to zero and its exponent to the constant or the low half of A, with clear
status, every element poisoned where A is; mstat writes exponent, status and poison of a tile into D; mfmt writes the figures of
a valid format word into D. They change nothing else.
R148, R149, R150: atsel of 2 deselects a warp's activation bank; atsel of a bank that no other device owns and no atld is pending
for selects it; atld of an image that passes its checks is pending for its bank with the words of the image as they stand, and
writes no bank yet; a poisoned address poisons the image. No register and no byte of scratch or memory changes. -/
def Obligations.TilesAndActivationBanks : Prop :=
  (∀ (i : Instr) (n : Ins) (s : State), insOf i = some n →
      let x := s.pthr (s.pack.ts.headD 0)
      (n.op = .mclr → s.together n → n.d < s.pwrp.accs → s.pwrp.tileBusy n.d = false →
        ∃ c : Tile, exec i s = .next ((s.modW s.pack.g s.pack.w (fun y =>
            { y with tiles := FMap.set Tile.zero y.tiles n.d c })).mapPack (fun _ y => y.advance n.words))
          ∧ c.i = false ∧ c.o = false
          ∧ c.x = (if n.imm then (imm16 n.f).toInt else ((x.reg n.a).v.setWidth 16).toInt)
          ∧ ∀ k, k < 4096 → FMap.get Elem.zero c.e k = ⟨.fin, 0, !n.imm && (x.reg n.a).p⟩)
      ∧ (n.op = .mstat → s.passes n → s.guardsClean n → n.a < s.pwrp.accs → s.pwrp.tileBusy n.a = false →
        let c := FMap.get Tile.zero s.pwrp.tiles n.a
        ∃ w : Word, exec i s = .next (s.mapPack (fun _ y => y.given n (fun _ => Eff.reg n.d ⟨w, false⟩)))
          ∧ w.extractLsb' 0 16 = BitVec.ofInt 16 c.x ∧ w.getLsbD 16 = c.i ∧ w.getLsbD 17 = c.o
          ∧ w.getLsbD 18 = c.e.any (fun k => k.2.p) ∧ w.extractLsb' 19 13 = 0)
      ∧ (∀ u, n.op = .mfmt → s.alone n u → (s.pthr u).flagRoom (n.flagOf (s.pthr u)) →
        let fw := ((s.pthr u).reg n.a).v.toNat
        let acc := n.f.m.getLsbD 0
        let wid := fun (code : Nat) => if code ≤ 1 then 16 else if code = 2 ∨ code = 3 ∨ code = 5 then 8 else 4
        let ca := if acc then fw / 2 ^ 12 % 16 else fw % 16
        let cb := fw / 2 ^ 4 % 16
        fwOk fw acc = true → ∃ w : Word, exec i s = .next (s.modT s.pack.g s.pack.w u (fun y =>
            (y.apply (Eff.reg n.d ⟨w, false⟩)).advance n.words))
          ∧ (w.extractLsb' 16 8).toNat = wid cb ∧ (w.extractLsb' 8 8).toNat = wid ca))
  ∧ (∀ (i : Instr) (n : Ins) (s : State), insOf i = some n → s.together n →
      let x := s.pthr (s.pack.ts.headD 0)
      let c := s.core s.pgrp.die s.pgrp.core
      let mine := fun (k : Nat) => (FMap.get ActBank.void c.banks k).owner.all (fun v => v == s.pgrp.vdev) = true
      let idle := fun (k : Nat) => ∀ e ∈ c.atlds, e.bank ≠ k
      let off := ((x.reg n.a).v.toNat + n.immZ) % 2 ^ 32
      let size := 64 + 16 * leNat (fun a => FMap.get 0 s.pgrp.scr a) (off + 8) 4
      (n.op = .atsel → n.mb 0 2 = 2 ∨ (mine (n.mb 0 2) ∧ idle (n.mb 0 2)) →
        exec i s = .next ((s.modW s.pack.g s.pack.w (fun y => { y with bank := if n.mb 0 2 = 2 then none else some (n.mb 0 2) })).mapPack
          (fun _ y => y.advance n.words)))
      ∧ (n.op = .atld → s.pgrp.die < s.dies.length →
        s.pwrp.bank ≠ some (n.mb 0 1) → mine (n.mb 0 1) → idle (n.mb 0 1) → (x.reg n.a).p = false →
        off % 16 = 0 → off + 64 ≤ s.pgrp.scrSize → off + size ≤ s.pgrp.scrSize → s.pgrp.headerBad off = none →
        s.packHold s.pack.g s.pack.w s.pack.ts off size false = none → s.boardRoom s.pack.g 1 = true →
        ∃ t e, exec i s = .next t ∧ s.packMoves t n true ∧ (t.grp s.pack.g).scr = s.pgrp.scr
          ∧ (t.core s.pgrp.die s.pgrp.core).atlds = c.atlds ++ [e] ∧ (t.core s.pgrp.die s.pgrp.core).banks = c.banks
          ∧ e.bank = n.mb 0 1 ∧ e.ts = s.pack.ts ∧ (∀ k, 4 * k < size → FMap.get Val.zero e.img k
              = ⟨BitVec.ofNat 32 (leNat (fun a => FMap.get 0 s.pgrp.scr a) (off + 4 * k) 4), s.pgrp.rdPsn (off + 4 * k) 4⟩))
      ∧ (n.op = .atld → s.pgrp.die < s.dies.length →
        s.pwrp.bank ≠ some (n.mb 0 1) → mine (n.mb 0 1) → idle (n.mb 0 1) → (x.reg n.a).p = true → s.boardRoom s.pack.g 0 = true →
        ∃ t e, exec i s = .next t ∧ s.packMoves t n true ∧ (t.grp s.pack.g).scr = s.pgrp.scr
          ∧ (t.core s.pgrp.die s.pgrp.core).atlds = c.atlds ++ [e] ∧ (t.core s.pgrp.die s.pgrp.core).banks = c.banks
          ∧ e.bank = n.mb 0 1 ∧ e.ts = s.pack.ts ∧ ∀ k, k < 16 → (FMap.get Val.zero e.img k).p = true))

/-! ## Hardware queues, tasks and register pools (13_cluster.md) -/

/-- R295, R281: qrsv of an open queue with room takes the next ticket and writes its slot address, its number and its tag in the
upper half of a word into D to D+3; with TRY and no room it writes zeros; without TRY the thread waits at the queue. qenq releases
at .dev (R345), writes
the sixteen registers from B on into the slot with the tag in the header, clears their poison, takes the ticket, and with TRY
writes true into PD; with TRY and no room it writes false. No other register changes, and qrsv changes no memory.
R296, R283: qdeq, qtry and qsteal of a queue whose next ticket is published deliver the sixteen words of its slot into D to D+15 and
take the ticket, and qtry and qsteal write true into the predicate of C; where it is not published, qdeq waits at the queue, and
the other two write false and leave D unchanged. No memory changes. -/
def Obligations.QueueTickets : Prop :=
  (∀ (i : Instr) (n : Ins) (s : State) (u q : Nat), insOf i = some n → s.alone n u →
      let x := s.pthr u
      let h := x.reg64 n.a
      let y := s.queue q
      let me : TRef := ⟨s.pack.g, s.pack.w, u⟩
      let tag : Nat := (y.wrx.toNat / 2 ^ y.log2 + 1) % 65536
      let slot : Nat := y.ring + 64 * (y.wrx.toNat % 2 ^ y.log2)
      let full := (y.wrx - y.rdx).toNat = 2 ^ y.log2
      let try' := n.f.m.getLsbD 0
      let s1 := ((s.releasedBy s.pack.g (tid s.pack.w u) 4).modT s.pack.g s.pack.w u (fun z => { z with spinCh := true })).modT
        s.pack.g s.pack.w u (fun z => z.block (.queue h) n.words)
      let more := fun (t : State) => t.queues = modAt s.queues q (fun z => { z with wrx := y.wrx + 1 })
      s.queueOf s.pgrp.vdev h = some q → h.getLsbD 47 = true → y.st = .opened → y.waits = [] →
      (n.op = .qrsv → ¬full → ∃ t, exec i s = .next t ∧ s.keepsElse t s.pack.g s.pack.w [u] ∧ more t
          ∧ x.movedOn (t.pthr u) ⟨[(n.d, ⟨BitVec.ofNat 32 slot, false⟩), (n.d + 1, ⟨BitVec.ofNat 32 (slot / 2 ^ 32), false⟩),
              (n.d + 2, ⟨y.wrx, false⟩), (n.d + 3, ⟨BitVec.ofNat 32 (tag * 65536), false⟩)], [], 0⟩ n.words)
      ∧ (n.op = .qrsv → full → try' = true → exec i s = .next (s.modT s.pack.g s.pack.w u (fun z =>
          (z.apply ⟨(List.range 4).map (fun k => (n.d + k, ⟨0, false⟩)), [], 0⟩).advance n.words)))
      ∧ (n.op = .qrsv → full → try' = false → ∃ t, exec i s = .next t ∧ s.keepsElse t s.pack.g s.pack.w []
          ∧ (t.pthr u).sched = .blocked (.queue h) ∧ t.queues = modAt s.queues q (fun z =>
              { z with waits := z.waits ++ [⟨me, .rsv n.d, s.atHome q s.pack.g⟩] }))
      ∧ (∀ r s', n.op = .qenq → ¬full → s.relHold s.pack.g s.pack.w u 4 false = none →
          (∀ d ∈ s.dies, ∀ z ∈ d.faults, z.src ≠ .fetch me) → s1.charge y.hdie y.vdev [⟨slot, 64, .write⟩] = .ok r →
          r.writeN y.hdie y.vdev slot false ((List.range 16).flatMap (fun k =>
            let v := (x.reg (n.b + k)).v.toNat
            leBytes (if k = 0 then v % 65536 + tag * 65536 else v) 4)) = .ok s' →
          ∃ t, exec i s = .next t ∧ more t ∧ t.mem = (s'.clearPsn y.hdie y.vdev slot 64).mem
            ∧ x.movedOn (t.pthr u) (if try' then Eff.pred n.d ⟨true, false⟩ else Eff.none) n.words)
      ∧ (n.op = .qenq → full → try' = true → s.relHold s.pack.g s.pack.w u 4 false = none →
          exec i s = .next (s.modT s.pack.g s.pack.w u (fun z => (z.apply (Eff.pred n.d ⟨false, false⟩)).advance n.words))))
  ∧ (∀ (i : Instr) (n : Ins) (s : State) (u q : Nat), insOf i = some n → s.alone n u →
      let x := s.pthr u
      let h := x.reg64 n.a
      let y := s.queue q
      n.op ∈ [Op.qdeq, .qtry, .qsteal] → s.queueOf s.pgrp.vdev h = some q → h.getLsbD (if n.op = .qsteal then 45 else 46) = true →
      y.st = .opened → y.waits = [] → s.acqHold s.pack.g s.pack.w u = none →
      (∀ l r, s.published q = .ok true → s.slotWords q = .ok l → (∀ d ∈ s.dies, ∀ z ∈ d.faults, z.src ≠ .fetch ⟨s.pack.g, s.pack.w, u⟩) →
        s.charge y.hdie y.vdev [⟨y.ring + 64 * (y.rdx.toNat % 2 ^ y.log2), 64, .read⟩] = .ok r →
        ∃ t, exec i s = .next t ∧ s.keepsElse t s.pack.g s.pack.w [u]
        ∧ t.queues = modAt s.queues q (fun z => { z with rdx := y.rdx + 1 })
        ∧ x.movedOn (t.pthr u) (Eff.and ⟨(List.range 16).map (fun k => (n.d + k, l.getD k Val.zero)), [], 0⟩
            (if n.op = .qdeq then Eff.none else Eff.pred (n.c % 8) ⟨true, false⟩)) n.words)
      ∧ (s.published q = .ok false → n.op = .qdeq → ∃ t, exec i s = .next t ∧ s.keepsElse t s.pack.g s.pack.w []
          ∧ (t.pthr u).sched = .blocked (.queue h) ∧ t.queues = modAt s.queues q (fun z =>
              { z with waits := z.waits ++ [⟨⟨s.pack.g, s.pack.w, u⟩, .deq n.d, s.atHome q s.pack.g⟩] }))
      ∧ (s.published q = .ok false → n.op ≠ .qdeq → exec i s = .next (s.modT s.pack.g s.pack.w u (fun z =>
          (z.apply (Eff.pred (n.c % 8) ⟨false, false⟩)).advance n.words))))

/-- R297, R298, R280: qerr puts an open queue into the error state with its code, and qrest opens one in the error state with RDX moved
to B, where B lies between RDX and WRX, and both write the descriptor's copy in memory; qrest of an open queue changes nothing;
qstat writes RDX, WRX and the descriptor words 0x10 and 0x14 into D to D+3.
R279, R284: a queue instruction whose handle names no queue of its device, or lacks the right, traps 0x0A with the handle in %tval;
one that its queue's state refuses traps 0x0B with it. Neither has any other effect at a queue that has no delivery left to make,
as every step leaves it (R282). -/
def Obligations.QueueStatesAndHandles : Prop :=
  (∀ (i : Instr) (n : Ins) (s : State) (u q : Nat), insOf i = some n → s.alone n u →
      let x := s.pthr u
      let h := x.reg64 n.a
      let y := s.queue q
      let b := (x.reg n.b).v
      let moved := s.modT s.pack.g s.pack.w u (fun z => z.advance n.words)
      s.queueOf s.pgrp.vdev h = some q → y.waits = [] →
      (n.op = .qerr → h.getLsbD 46 = true ∨ h.getLsbD 44 = true → y.st = .opened → exec i s = .next
          ((moved.modQ q (fun z => { z with st := .error, err := BitVec.ofNat 16 n.immZ })).putDesc q))
      ∧ (n.op = .qrest → h.getLsbD 44 = true → y.st = .error → (b - y.rdx).toNat ≤ (y.wrx - y.rdx).toNat → exec i s = .next
          ((moved.modQ q (fun z => { z with st := .opened, err := 0, rdx := b })).putDesc q))
      ∧ (n.op = .qrest → h.getLsbD 44 = true → y.st = .opened → exec i s = .next moved)
      ∧ (n.op = .qstat → exec i s = .next (s.modT s.pack.g s.pack.w u (fun z => (z.apply ⟨[(n.d, ⟨y.rdx, false⟩),
          (n.d + 1, ⟨y.wrx, false⟩), (n.d + 2, ⟨BitVec.ofNat 32 (y.err.toNat * 65536 + y.st.code * 256 + y.log2), false⟩),
          (n.d + 3, ⟨BitVec.ofNat 32 (y.hdie * 2 ^ 22 + y.hcl * 65536 + y.check.toNat), false⟩)], [], 0⟩).advance n.words))))
  ∧ (∀ (i : Instr) (n : Ins) (s : State) (u : Nat), insOf i = some n → s.alone n u →
      n.op ∈ [Op.qrsv, .qenq, .qdeq, .qtry, .qsteal, .qerr, .qrest, .qstat] → s.trapsAt s.pack.g s.pack.w u →
      let h := (s.pthr u).reg64 n.a
      let traps := fun (c : Nat) => exec i s = .next (s.modT s.pack.g s.pack.w u (fun x => x.takeTrap s.pwrp.kd.trap c h))
      let may := match n.op with
        | .qrsv | .qenq => h.getLsbD 47
        | .qdeq | .qtry => h.getLsbD 46
        | .qsteal => h.getLsbD 45
        | .qerr => h.getLsbD 46 || h.getLsbD 44
        | .qrest => h.getLsbD 44
        | _ => true
      (s.queueOf s.pgrp.vdev h = none → traps 0x0A)
      ∧ ∀ q, s.queueOf s.pgrp.vdev h = some q → s.settleQ q = s →
        (may = false → traps 0x0A)
        ∧ (may = true → n.op = .qrsv ∨ n.op = .qenq → (s.queue q).st ≠ .opened → traps 0x0B)
        ∧ (may = true → n.op ∈ [Op.qdeq, .qtry, .qsteal] → (s.queue q).st = .error ∨ (s.queue q).st = .closed → traps 0x0B)
        ∧ (may = true → n.op = .qerr ∨ n.op = .qrest → (s.queue q).st = .closed → traps 0x0B)
        ∧ (may = true → n.op = .qrest → (s.queue q).st = .error →
            ((s.queue q).wrx - (s.queue q).rdx).toNat < (((s.pthr u).reg n.b).v - (s.queue q).rdx).toNat → traps 0x0B))

/-- R294, R274, R275, R299: tspawn with room at its cluster's former hands over one task with the descriptor address and the eight
registers from B on, and with TRY writes true into PD; succ marks the workgroup; wvis of a workgroup whose predecessors have all
ended passes, and else blocks the thread. No other register and no byte of memory changes.
R300, R273: rsurr takes its count of blocks from the warp into the pool of its quadrant, and the registers of those blocks are gone;
rclaim takes its count from the pool into the warp, whose new registers read zero, and with TRY writes true into PD, or false
where the pool holds too few, and without TRY the pack then blocks. No other register and no byte of memory changes. -/
def Obligations.TasksSuccessorsAndPools : Prop :=
  (∀ (i : Instr) (n : Ins) (s : State) (u : Nat), insOf i = some n → s.alone n u → (s.pthr u).flagRoom (n.flagOf (s.pthr u)) →
      let x := s.pthr u
      let mine := s.tasks.filter (fun k => k.die == s.pgrp.die && k.cl == s.pgrp.core / 4)
      let ended := ∀ p ∈ s.predsOf s.pack.g, ∀ l, s.launch p = some l → l.st = 2 ∨ l.nx * l.ny * l.nz ≤ (l.exited.map (fun e => e.2)).sum
      (n.op = .tspawn → s.relHold s.pack.g s.pack.w u 2 false = none → mine.length < 1024 → s.quiesced s.pgrp.vdev = false →
        ∃ t k, exec i s = .next t ∧ s.keepsElse t s.pack.g s.pack.w [u] ∧ t.tasks = s.tasks ++ [k]
          ∧ x.movedOn (t.pthr u) (if n.f.m.getLsbD 0 then Eff.pred n.d ⟨true, false⟩ else Eff.none) n.words
          ∧ k.die = s.pgrp.die ∧ k.cl = s.pgrp.core / 4 ∧ k.vdev = s.pgrp.vdev ∧ k.region = s.pgrp.region
          ∧ k.desc = x.reg64 n.a ∧ k.args = (List.range 8).map (fun j => x.reg (n.b + j)))
      ∧ (n.op = .tspawn → s.relHold s.pack.g s.pack.w u 2 false = none → 1024 ≤ mine.length →
        exec i s = .next (s.modT s.pack.g s.pack.w u (fun y =>
          if n.f.m.getLsbD 0 then (y.apply (Eff.pred n.d ⟨false, false⟩)).advance n.words
          else { y with sched := .blocked .former })))
      ∧ (n.op = .succ → exec i s = .next ((s.modG s.pack.g (fun y => { y with succMark := true })).mapPack
          (fun _ y => y.advance n.words)))
      ∧ (n.op = .wvis → ¬ended → exec i s = .next (s.modT s.pack.g s.pack.w u (fun y => { y with sched := .blocked .wvis })))
      ∧ (n.op = .wvis → ended → s.acqHold s.pack.g s.pack.w u = none →
        ∃ t, exec i s = .next t ∧ s.keepsElse t s.pack.g s.pack.w [] ∧ x.movedOn (t.pthr u) Eff.none n.words))
  ∧ (∀ (i : Instr) (n : Ins) (s : State), insOf i = some n → s.together n → s.pgrp.filesWf = true →
      let y := s.pwrp
      let pool := FMap.get Pool.zero s.pgrp.pools y.quad
      let try' := n.f.m.getLsbD 0
      let eff := fun (v : Bool) => if try' then Eff.pred n.d ⟨v, false⟩ else Eff.none
      (n.op = .rsurr → (∀ t ∈ y.threads, ∀ k ∈ t.pend, k < 16 * (y.blocks - n.immZ)) →
        s.queueWrites s.pack.g s.pack.w (16 * (y.blocks - n.immZ)) = false →
        ∃ t, exec i s = .next t ∧ t.mem = s.mem ∧ t.pwrp.blocks = y.blocks - n.immZ
          ∧ (∀ a b u, ¬(a = s.pack.g ∧ b = s.pack.w) → (t.thr a b u).sameFiles (s.thr a b u))
          ∧ (FMap.get Pool.zero (t.grp s.pack.g).pools y.quad).n = pool.n + n.immZ
          ∧ (∀ u k, (t.pthr u).reg k = if k < 16 * (y.blocks - n.immZ) then (s.pthr u).reg k else Val.zero)
          ∧ ∀ u ∈ s.pack.ts, (t.pthr u).p = (s.pthr u).p
              ∧ (t.pthr u).pc = ((s.pthr u).advance n.words).pc ∧ (t.pthr u).tix = ((s.pthr u).advance n.words).tix)
      ∧ (n.op = .rclaim → n.immZ ≤ pool.n →
        ∃ t, exec i s = .next t ∧ t.mem = s.mem ∧ t.pwrp.blocks = y.blocks + n.immZ
          ∧ (∀ a b u, ¬(a = s.pack.g ∧ b = s.pack.w) → (t.thr a b u).sameFiles (s.thr a b u))
          ∧ (FMap.get Pool.zero (t.grp s.pack.g).pools y.quad).n = pool.n - n.immZ
          ∧ (∀ u k, (t.pthr u).reg k = if k < 16 * y.blocks then (s.pthr u).reg k else Val.zero)
          ∧ ∀ u ∈ s.pack.ts, (t.pthr u).p = ((s.pthr u).apply (eff true)).p
              ∧ (t.pthr u).pc = ((s.pthr u).advance n.words).pc ∧ (t.pthr u).tix = ((s.pthr u).advance n.words).tix)
      ∧ (n.op = .rclaim → pool.n < n.immZ → try' = true →
        exec i s = .next (s.mapPack (fun _ z => (z.apply (eff false)).advance n.words)))
      ∧ (n.op = .rclaim → pool.n < n.immZ → try' = false →
        exec i s = .next (s.mapPack (fun _ z => { z with sched := .blocked .pool }))))

/-! ## Program recursion (13_cluster.md, 14_program_recursion.md) -/

/-- R301, Table 13-6: rstart of a well-formed object starts a run of it: STATUS and ABC of the object become 1 and 0, the run holds
the object's fields and one frame, the root, pending with the object's argument, and the thread goes on; a misaligned object traps
0x01, one with too small a pool 0x0D with its address, and where the cluster runs eight the thread is Blocked.
R304, R305, R288, R287: rres in a combine routine writes the result of a child, from its frame's record, into D to D+3; rinfo writes the kind of routine, the counts,
the depth and the frame's index into the pair D; rbase starts the base routine of the same frame in the same thread, with the frame's
argument in g0 to g7 and its result in g8 to g11 as its record holds them, outside any handler; rabort ends the run. -/
def Obligations.RunsStartAndRoutinesAsk : Prop :=
  (∀ (i : Instr) (n : Ins) (s : State) (u : Nat), insOf i = some n → n.op = .rstart → s.alone n u →
      let obj := ((s.pthr u).reg64 n.a).toNat
      let d := s.pgrp.die
      let v := s.pgrp.vdev
      (obj % 128 ≠ 0 → s.trapsAt s.pack.g s.pack.w u →
        exec i s = .next (s.modT s.pack.g s.pack.w u (fun x => x.takeTrap s.pwrp.kd.trap 0x01 n.word)))
      ∧ ∀ l k, obj % 128 = 0 → s.readN d v obj 128 = .ok l → objectOk (byteAt l) = true →
        s.readN d v (leNat (byteAt l) 0x18 8) 64 = .ok k → kdOk (byteAt k) = true → leNat (byteAt l) 0x38 8 = 0 →
        (leNat (byteAt l) 0x28 4 < 64 → s.trapsAt s.pack.g s.pack.w u → exec i s = .next (s.modT s.pack.g s.pack.w u (fun x =>
          x.takeTrap s.pwrp.kd.trap 0x0D (BitVec.ofNat 64 obj))))
        ∧ (64 ≤ leNat (byteAt l) 0x28 4 → 8 ≤ s.running d (s.pgrp.core / 4) →
          exec i s = .next (s.modT s.pack.g s.pack.w u (fun x => { x with sched := .blocked .spinner })))
        ∧ (∀ s', 64 ≤ leNat (byteAt l) 0x28 4 → s.running d (s.pgrp.core / 4) < 8 → s.quiesced v = false →
          s.writeN d v (obj + 0x60) false (leBytes 1 8) = .ok s' →
          ∃ t, exec i s = .next t ∧ (s.pthr u).movedOn (t.pthr u) Eff.none n.words
            ∧ t.spinners.length = s.spinners.length + 1
            ∧ let r := t.spin s.spinners.length
              r.obj = obj ∧ r.die = d ∧ r.cl = s.pgrp.core / 4 ∧ r.vdev = v ∧ r.region = s.pgrp.region ∧ r.st = .running
              ∧ r.divE.toNat = leNat (byteAt l) 0 8 ∧ r.baseE.toNat = leNat (byteAt l) 8 8 ∧ r.combE.toNat = leNat (byteAt l) 16 8
              ∧ r.lanesN = leNat (byteAt l) 0x2C 4 / 2 ^ 16 ∧ r.maxDepth = leNat (byteAt l) 0x2C 4 / 2 ^ 8 % 2 ^ 7
              ∧ r.fan = leNat (byteAt l) 0x2C 4 % 16
              ∧ r.frames = [⟨0, none, 0, 0, .pending, 0, 0, 0, (List.range 8).map (fun j =>
                  ⟨BitVec.ofNat 32 (leNat (byteAt l) (0x40 + 4 * j) 4),
                    (List.range 4).any (fun q => (l.getD (0x40 + 4 * j + q) (0, false)).2)⟩), List.replicate 4 Val.zero⟩]))
  ∧ (∀ (i : Instr) (n : Ins) (s : State) (u m l f : Nat) (r : Routine), insOf i = some n → s.alone n u →
      s.laneOf s.pack.g s.pack.w u = some (m, l, f, r) →
      let x := s.spin m
      let y := x.frame f
      let ix := if n.imm then n.immZ else ((s.pthr u).reg n.b).v.toNat
      let out := fun (e : Eff) => exec i s = .next (s.modT s.pack.g s.pack.w u (fun z => (z.apply e).advance n.words))
      let word := fun (l : List (Byte × Bool)) (k : Nat) => (⟨BitVec.ofNat 32 (leNat (byteAt l) (4 * k) 4),
        (List.range 4).any (fun j => (l.getD (4 * k + j) (0, false)).2)⟩ : Val)
      (∀ c z, n.op = .rres → r = .combine → ix < y.nch → (x.children f)[ix]? = some c →
        s.readN x.die x.vdev (x.pool + 64 * c.ix + 0x10) 48 = .ok z →
          out ⟨(List.range 4).map (fun k => (n.d + k, word z (8 + k))), [], 0⟩)
      ∧ (n.op = .rres → r ≠ .combine ∨ y.nch ≤ ix → s.trapsAt s.pack.g s.pack.w u →
          exec i s = .next (s.modT s.pack.g s.pack.w u (fun z => z.takeTrap s.pwrp.kd.trap 0x01 n.word)))
      ∧ (n.op = .rinfo → let kind : Nat := match r with
            | .divide => 0
            | .base => 1
            | .combine => 2
          out (Eff.pair n.d (BitVec.ofNat 64 (kind * 2 ^ 24 + (if x.bfs = false ∧ x.level ≤ y.depth then 2 ^ 16 else 0)
            + y.nch * 2 ^ 12 + y.cix * 2 ^ 8 + y.depth + f * 2 ^ 32)) false))
      ∧ (∀ z, n.op = .rbase → r = .divide → y.nch = 0 → x.grp = some s.pack.g → l = tid s.pack.w u → u < 32 →
          s.readN x.die x.vdev (x.pool + 64 * f + 0x10) 48 = .ok z →
          ∃ t, exec i s = .next t ∧ t.mem = s.mem ∧ ((t.spin m).lanes.getD l ⟨[], none⟩).cur = some (f, .base)
            ∧ (t.pthr u).g = ((s.pthr u).setRegs ((List.range 12).map (fun k => (k, word z k)))).g
            ∧ (t.pthr u).pc = x.baseE &&& ~~~1 ∧ (t.pthr u).mode = (if x.baseE.getLsbD 0 then .native else .prerin)
            ∧ (t.pthr u).tix = 0 ∧ (t.pthr u).hnd = false ∧ (t.pthr u).ready = true)
      ∧ (n.op = .rabort → x.st = .running → ∃ t, exec i s = .next t ∧ (t.spin m).st = .aborted ∧ (t.spin m).frames = []
            ∧ (t.spin m).lanes = [] ∧ t.spinners.length = s.spinners.length))

/-- R302, R292: rchild in a divide routine appends a pending child of the current frame one deeper, with the next child index and the
eight registers from B on, and counts it in the parent, whose other fields are kept; past FAN it traps 0x01, past the depth 0x0C with the
frame's address, and without a free frame 0x0D with the object's.
R303, R291: in a task rdone and rret end the thread as exit does. In a lane, while another lane of an expanding level still runs,
rdone of a frame with children leaves it waiting, and rret of a routine that may end completes the frame with g8 to g11 and counts it in
its parent; the lane's thread is then Blocked until a routine is assigned to it. An illegal rdone or rret traps 0x01. -/
def Obligations.ChildrenAndRoutineEnds : Prop :=
  (∀ (i : Instr) (n : Ins) (s : State) (u m l f : Nat), insOf i = some n → n.op = .rchild → s.alone n u →
      s.laneOf s.pack.g s.pack.w u = some (m, l, f, .divide) →
      let x := s.spin m
      let y := x.frame f
      let traps := fun (c : Nat) (v : DWord) => s.trapsAt s.pack.g s.pack.w u →
        exec i s = .next (s.modT s.pack.g s.pack.w u (fun z => z.takeTrap s.pwrp.kd.trap c v))
      (y.nch = x.fan → traps 0x01 n.word)
      ∧ (y.nch ≠ x.fan → y.depth = x.maxDepth → traps 0x0C (BitVec.ofNat 64 (x.pool + 64 * f)))
      ∧ (y.nch ≠ x.fan → y.depth ≠ x.maxDepth → x.free = none → traps 0x0D (BitVec.ofNat 64 x.obj))
      ∧ (∀ k, y.nch ≠ x.fan → y.depth ≠ x.maxDepth → x.free = some k → x.frame? f = some y →
          ∃ t, exec i s = .next t ∧ (s.pthr u).movedOn (t.pthr u) Eff.none n.words
            ∧ (t.spin m).frames = modFirst (fun z => z.ix == f) (fun z => { z with nch := z.nch + 1 })
                (x.frames ++ [⟨k, some f, 0, 0, .pending, y.depth + 1, y.nch, 0,
                  (List.range 8).map (fun j => (s.pthr u).reg (n.b + j)), List.replicate 4 Val.zero⟩])
            ∧ (t.spin m).lanes = x.lanes))
  ∧ (∀ (i : Instr) (n : Ins) (s : State) (u : Nat), insOf i = some n → n.op = .rdone ∨ n.op = .rret → s.alone n u →
      ((s.pthr u).kind = .wave → s.runOf s.pack.g = none → s.relHold s.pack.g s.pack.w u 4 false = none →
        ∃ t, exec i s = .next t ∧ ((s.die s.pgrp.die).paths = [] → t.mem = s.mem) ∧ (t.pthr u).sched = .exited)
      ∧ (∀ m l f r, s.laneOf s.pack.g s.pack.w u = some (m, l, f, r) → s.runOf s.pack.g = some m →
        s.relHold s.pack.g s.pack.w u 4 false = none → (s.spin m).st = .running → (s.spin m).bfs = true →
        (s.spin m).grp = some s.pack.g → l = tid s.pack.w u → u < 32 →
        (∃ (k : Nat) (o : Lane), k ≠ l ∧ (s.spin m).lanes[k]? = some o ∧ o.cur ≠ none) →
        (∀ z ∈ (s.spin m).frames, z.parent = none → z.st ≠ .done) →
        let y := (s.spin m).frame f
        (s.spin m).frame? f = some y →
        (n.op = .rdone → r = .divide → y.nch ≠ 0 → ∃ t, exec i s = .next t ∧ (t.pthr u).sched = .blocked .lane
            ∧ ((t.spin m).frame f) = { y with st := .waiting } ∧ ((t.spin m).lanes.getD l ⟨[], none⟩).cur = none)
        ∧ (∀ p yp, n.op = .rret → ¬(r = .divide ∧ y.nch ≠ 0) → y.parent = some p → p ≠ f → (s.spin m).frame? p = some yp →
            yp.parent ≠ some f → yp.st ≠ .done →
            ∃ t, exec i s = .next t ∧ (t.pthr u).sched = .blocked .lane
            ∧ ((t.spin m).frame f) = { y with st := .done, res := (List.range 4).map (fun k => (s.pthr u).reg (8 + k)) }
            ∧ ((t.spin m).frame p) = { yp with ndone := yp.ndone + 1 }
            ∧ ((t.spin m).lanes.getD l ⟨[], none⟩).cur = none))
      ∧ (∀ m l f r, s.laneOf s.pack.g s.pack.w u = some (m, l, f, r) → s.runOf s.pack.g = some m → (s.spin m).bfs = true →
        (∀ z ∈ (s.spin m).frames, z.parent = none → z.st ≠ .done) → s.trapsAt s.pack.g s.pack.w u →
        (n.op = .rdone ∧ r ≠ .divide) ∨ (n.op = .rret ∧ r = .divide ∧ ((s.spin m).frame f).nch ≠ 0) →
        exec i s = .next (s.modT s.pack.g s.pack.w u (fun x => x.takeTrap s.pwrp.kd.trap 0x01 n.word))))

/-! ## Events of the copy engines, barriers and clusters (08_core.md, 09_core_instructions.md, 13_cluster.md) -/

/-- R239, R240, R192, R326, R335: the head of a copy queue begins, is written and credited, retires or faults, one event at a time. A
copy that begins reads all its sources, behind what its die has sent to their homes, and plans its writes, a join begins at once;
COPY_CREDIT performs a planned write and credits the barrier with its bytes, REPLICA_COMMIT one on a replicated page; a command that has written everything retires: its results reach their
registers, its flag sinks; an engine fault stops it with a fault record.
R188, R189, R190, R230, R231, R328: SPAN_FILL brings every byte of a wanted sector that is not dirty and makes it valid; SPAN_WRITE_BACK
of a sector without conflict writes exactly its dirty bytes, each with its byte of scratch, and the sector is dirty no more; of several it
traps the threads that wait for it 0x11 with the first byte in conflict; a dirty byte that an
entry of another workgroup holds conflicts where its mark does not cover the workgroup, and traps every thread that stands at the ssync
(log 29); BARRIER_WAKE makes a thread whose wait is over
Ready behind its instruction and leaves one whose wait is not over Blocked. -/
def Obligations.CommandsRunAndSpansFill : Prop :=
  (∀ (s : State) (q : QRef) (e : Entry) (tl : List Entry), q.g < s.groups.length → q.w < (s.grp q.g).warps.length →
      s.cq q = e :: tl → q.q < (s.wrp q.g q.w).cqs.length →
      let x := s.grp q.g
      let after := fun (t : State) (y : Entry) => t.cq q = y :: tl
      (∀ mask, e.cmd = .join mask → e.st = .queued → x.mayBegin e = true →
        exec (.queueEntryBegin q) s = .next (s.modHead q (fun y => { y with st := .begun })))
      ∧ (∀ op d a xb idx rop rty vals, e.cmd = .copy op d a xb idx rop rty → e.st = .queued → x.mayBegin e = true →
        x.behindBank q.w e = false → x.entryNeed e = none →
        (∀ y ∈ s.dies, y.toks = []) → s.entryAbsent x.vdev (s.entryReqs q.g e) = none →
        let r := (s.entryReqs q.g e).foldl (fun z y => if y.need = .read then z.drainBytes x.die x.vdev y.va y.n else z) s
        r.moveVals q.g (x.wrp q.w).quad a (copyMoves op d a (x.indexList op idx (a.box 1))) = .ok vals →
        ∃ t l, exec (.queueEntryBegin q) s = .next t ∧ t.mem = r.mem ∧ (t.grp q.g).scr = x.scr
          ∧ after t { e with st := .begun, seen := l, todo := if op = .cpyr then redWrites d rop rty vals else byteWrites d vals })
      ∧ (∀ w l s', e.st = .begun → e.todo = w :: l → (∀ z ∈ l.head?, z.word ≠ w.word) → s.performWr q.g w = .ok s' →
        (w.space = .glob → s.onRepl x.die x.vdev w.addr = false ∧ s.absentPage x.vdev (pageOf w.addr) = false) →
        (w.space = .scr → x.spanNeed w.addr w.size = none) → x.behindMatrix e.id w = false →
        ∃ t, exec (.copyCredit q 1) s = .next t ∧ t.mem = s'.mem ∧ after t { e with todo := l, prog := e.prog + w.size }
          ∧ (t.grp q.g).scr = (match e.xb with
            | some (o, true) => (s'.grp q.g).xbCredit o w.size
            | _ => s'.grp q.g).scr)
      ∧ (∀ w s', e.st = .begun → e.todo = [w] → w.space = .glob → s.onRepl x.die x.vdev w.addr = true →
        s.absentPage x.vdev (pageOf w.addr) = false → s.performWr q.g w = .ok s' →
        ∃ t, exec (.replicaCommit q) s = .next t ∧ t.mem = s'.mem ∧ after t { e with todo := [], prog := e.prog + w.size })
      ∧ (∀ u r v k, (∀ m, e.cmd ≠ .join m) → e.st = .begun → e.todo = [] → e.regs = [(u, r, v)] → e.ts = [u] → e.flag = some k →
        e.xb = none → (∀ z ∈ s.fab.unack, z.id ≠ e.id) → x.filesWf = true → r < 255 → u < (s.wrp q.g q.w).threads.length → (s.thr q.g q.w u).live = true →
        ∃ t, exec (.commandRetire q) s = .next t ∧ t.mem = s.mem ∧ t.cq q = tl ∧ (t.thr q.g q.w u).reg r = v
          ∧ NSet.has (t.thr q.g q.w u).pend r = false
          ∧ FMap.get 0 (t.thr q.g q.w u).f k = FMap.get 0 (s.thr q.g q.w u).f k - 1)
      ∧ (∀ va k n, s.entryFault q = some (va, k, n) → farKind k = false → k ≠ 2 → x.die < s.dies.length →
        (s.die x.die).faults.length < 256 →
        ∃ t r, exec (.engineFault (.queue q e.id)) s = .next t ∧ t.mem = s.mem
          ∧ (t.die x.die).faults = (s.die x.die).faults ++ [r] ∧ r.va = BitVec.ofNat 64 va ∧ r.kind = k ∧ r.vdev = x.vdev
          ∧ r.tag = s.pkg.nextId ∧ after t { e with st := .faulted s.pkg.nextId }))
  ∧ ((∀ (s : State) (g m k : Nat) (sp : Span) (l : List (Byte × Bool)), g < s.groups.length → (s.grp g).filesWf = true →
      (s.grp g).alive = true → (s.grp g).span m = some sp → k < sp.len / 1024 → (s.grp g).waitsFill m k = true →
      ((sp.sec k).valid = false ∨ (sp.sec k).stale = true) → (sp.sec k).filled = 0 → s.late.headD 0 < 2 → (∀ y ∈ s.dies, y.toks = []) →
      s.spanHeld g m k = false →
      s.entryAbsent (s.grp g).vdev [⟨sp.va + 1024 * k, 1024, .read⟩] = none →
      let r := s.drainBytes (s.grp g).die (s.grp g).vdev (sp.va + 1024 * k) 1024
      r.readN (s.grp g).die (s.grp g).vdev (sp.va + 1024 * k) 1024 = .ok l →
      ∃ t, exec (.spanFill g m k) s = .next t ∧ t.mem = r.mem
        ∧ (∀ j, j < 1024 → FMap.get 0 (t.grp g).scr (sp.so + 1024 * k + j) =
            if NSet.has (sp.sec k).dirty j then FMap.get 0 (s.grp g).scr (sp.so + 1024 * k + j) else (l.getD j (0, false)).1)
        ∧ (∀ a, a < sp.so + 1024 * k ∨ sp.so + 1024 * k + 1024 ≤ a → FMap.get 0 (t.grp g).scr a = FMap.get 0 (s.grp g).scr a)
        ∧ ∃ z, (t.grp g).span m = some z ∧ (z.sec k).valid = true ∧ (z.sec k).stale = false ∧ (z.sec k).dirty = (sp.sec k).dirty)
    ∧ (∀ (s r : State) (u : TRef) (m c : Option Nat) (part : Bool), (s.thr u.g u.w u.t).sched = .stalled (.writeBack m) →
      s.writeBack u.g m = (r, c, part) → exec (.spanWriteBack u.g (some u)) s = .next (if part then r else match c with
        | none => r
        | some a => r.trapAll u.g u.w (s.wbThreads u) 0x11 (BitVec.ofNat 64 a)))
    ∧ (∀ (s : State) (u : TRef) (m b h : Nat) (l : NSet) (sp : Span) (e : SpanEnt), (s.thr u.g u.w u.t).sched = .stalled (.writeBack (some m)) →
      (s.grp u.g).span m = some sp → sp.len = 1024 → (sp.sec 0).dirty = b :: l → s.homeDie (s.grp u.g).vdev sp.va = some h →
      e ∈ (s.die h).spanDir → e.vdev = (s.grp u.g).vdev → e.sector = sp.va / 1024 → e.grp ≠ u.g → NSet.has e.bytes b = true →
      e.covers u.g = false →
      exec (.spanWriteBack u.g (some u)) s = .next (s.trapAll u.g u.w (s.wbThreads u) 0x11 (BitVec.ofNat 64 (sp.va + b))))
    ∧ (∀ (s s' : State) (u : TRef) (m : Nat) (sp : Span), (s.thr u.g u.w u.t).sched = .stalled (.writeBack (some m)) →
      u.g < s.groups.length → (s.grp u.g).filesWf = true → (s.grp u.g).span m = some sp → sp.len = 1024 → (sp.sec 0).dirty ≠ [] →
      let x := s.grp u.g
      let l := (sp.sec 0).dirty
      (∀ h, s.homeDie x.vdev sp.va = some h → ∀ e ∈ (s.die h).spanDir, e.vdev = x.vdev → e.sector = sp.va / 1024 → e.grp ≠ u.g →
        e.covers u.g = false → ∀ b ∈ l, NSet.has e.bytes b = false) →
      s.late.headD 0 = 0 → (∀ y ∈ s.dies, y.toks = []) → s.spanHeld u.g m 0 = false →
      s.entryAbsent x.vdev [⟨sp.va + l.headD 0, l.length, .write⟩] = none →
      l.foldl (fun (r : Except Nat State) b => r.bind (fun z =>
        z.writeB x.die x.vdev (sp.va + b) (FMap.get 0 x.scr (sp.so + b)) 0xFF .keep .write false)) (.ok s) = .ok s' →
      ∃ t, exec (.spanWriteBack u.g (some u)) s = .next t ∧ t.mem = s'.mem ∧ (t.grp u.g).scr = x.scr
        ∧ ∃ z, (t.grp u.g).span m = some z ∧ (z.sec 0).dirty = [] ∧ (z.sec 0).valid = (sp.sec 0).valid)
    ∧ (∀ (s : State) (g w u : Nat), g < s.groups.length → w < (s.grp g).warps.length → u < (s.wrp g w).threads.length → u < 32 →
      ∃ t, exec (.barrierWake g) s = .next t ∧ t.mem = s.mem ∧ (t.thr g w u).sameFiles (s.thr g w u)
        ∧ (∀ id ph, (s.thr g w u).sched = .blocked (.bar id ph) →
            if ph < (FMap.get Bar.zero (s.grp g).bars id).phase then
              (t.thr g w u).sched = .ready ∧ (t.thr g w u).pc = (s.thr g w u).npc ∧ (t.thr g w u).tix = (s.thr g w u).ntix
            else (t.thr g w u).sched = (s.thr g w u).sched)
        ∧ (∀ o ph, (s.thr g w u).sched = .blocked (.xbar o ph) → if ph = 2 then (t.thr g w u).sched = .ready
            else (t.thr g w u).sched = (s.thr g w u).sched)))

/-- R281, R282, R277, R313, R301, R150, R250, R306: a published ticket reaches the thread blocked for it at SLOT_HEADER_WRITE; QUEUE_SERVICE gives a
free ticket to the thread that waits for one; WAVE_FORMATION, GANG_PLACEMENT and LANE_WORKGROUP_PLACEMENT place one workgroup of their kind
where a core can take it; BANK_WRITE writes a pending image into its bank; CHASER_STEP performs one step of an operation, and with its
last retires it; CLUSTER_FAILURE takes a lost task, a queue or a run out of use: a queue whose descriptor is lost enters the error state
with code 0xFFFF and a thread blocked at it takes 0x0B, a lost run is aborted, with 0xFFFE in its object and state 3 behind it. -/
def Obligations.ClusterEventsAct : Prop :=
  (∀ (s : State) (q : Nat) (w : QWait) (l : List Val), q < s.queues.length → (s.queue q).waits = [w] → (s.queue q).st = .opened →
    w.t.g < s.groups.length → w.t.w < (s.grp w.t.g).warps.length → w.t.t < (s.wrp w.t.g w.t.w).threads.length →
    (∀ y ∈ s.dies, y.toks = [] ∧ ∀ f ∈ y.faults, f.src ≠ .fetch w.t) →
    let x := s.thr w.t.g w.t.w w.t.t
    (∀ d, w.ask = .deq d → s.published q = .ok true → s.slotWords q = .ok l →
      ∃ t, exec (.slotHeaderWrite q) s = .next t ∧ t.mem = s.mem ∧ (t.queue q).waits = [] ∧ (t.queue q).rdx = (s.queue q).rdx + 1
        ∧ (t.thr w.t.g w.t.w w.t.t).g = (x.apply ⟨(List.range 16).map (fun k => (d + k, l.getD k Val.zero)), [], 0⟩).g
        ∧ (t.thr w.t.g w.t.w w.t.t).sched = .ready ∧ (t.thr w.t.g w.t.w w.t.t).pc = x.npc)
    ∧ (∀ d, w.ask = .rsv d → (s.queue q).isFull = false →
      ∃ t, exec (.queueService q) s = .next t ∧ t.mem = s.mem ∧ (t.queue q).waits = [] ∧ (t.queue q).wrx = (s.queue q).wrx + 1
        ∧ (t.thr w.t.g w.t.w w.t.t).sched = .ready ∧ (t.thr w.t.g w.t.w w.t.t).pc = x.npc))
  ∧ (∀ (s t : State) (core id : Nat) (k : Task) (units : List Nat), s.tasks.find? (fun y => y.id == id) = some k →
    s.formWave core id units = some t → exec (.waveFormation k.die k.cl core id units) s = .next t ∧ t.mem = s.mem
      ∧ t.groups.length = s.groups.length + 1 ∧ (t.grp s.groups.length).kind = .wave ∧ (∀ y ∈ t.tasks, y ∈ s.tasks)
      ∧ t.tasks.length < s.tasks.length)
  ∧ (∀ (s t : State) (id d c : Nat) (units : List Nat), s.placeGang id d c units = some t →
    exec (.gangPlacement id d c units) s = .next t ∧ t.mem = s.mem ∧ t.groups.length = s.groups.length + 1
      ∧ ∃ n, (t.grp s.groups.length).kind = .gang id n)
  ∧ (∀ (s t : State) (n d c : Nat) (units : List Nat), n < s.spinners.length → s.placeLanes n d c units = some t →
    exec (.laneWorkgroupPlacement n d c units) s = .next t ∧ t.groups.length = s.groups.length + 1
      ∧ (t.grp s.groups.length).kind = .lanes n ∧ (t.spin n).grp = some s.groups.length)
  ∧ (∀ (s : State) (d c k : Nat) (e : AtldPend), d < s.dies.length → (s.core d c).atlds.find? (fun y => y.bank == k) = some e →
    s.bankSelected d c k = false → (s.grp e.grp).liveIds ≠ [] →
    ∃ t, exec (.bankWrite d c k) s = .next t ∧ t.mem = s.mem
      ∧ FMap.get ActBank.void (t.core d c).banks k = ⟨some (s.grp e.grp).vdev, e.img⟩
      ∧ (∀ y ∈ (t.core d c).atlds, y.id ≠ e.id))
  ∧ (∀ (s : State) (d c q g w : Nat) (o : MOp), s.chaserPick d c q = some (g, w, o) →
    ∃ t, exec (.chaserStep d c q) s = .next t ∧ ((s.grp g).liveIds ≠ [] → t.mem = s.mem) ∧ (t.wrp g w).mops =
      (if o.cmd.steps ≤ o.step + 1 then (s.wrp g w).mops.filter (fun y => y.id != o.id)
       else modFirst (fun y => y.id == o.id) (fun y => { y with step := y.step + 1 }) (s.wrp g w).mops))
  ∧ (∀ (s : State) (id : Nat) (k : Task), s.tasks.find? (fun y => y.id == id) = some k →
    ∃ t, exec (.clusterFailure (.task id)) s = .next t ∧ t.mem = s.mem ∧ t.tasks = s.tasks.filter (fun y => y.id != id))
  ∧ (∀ (s : State) (n : Nat), n < s.spinners.length → (s.spin n).st = .running →
    ∃ t, exec (.clusterFailure (.spinner n)) s = .next t ∧ (t.spin n).st = .aborted ∧ (t.spin n).frames = []
      ∧ let x := s.spin n
        let r := x.frames.foldl (fun (z : State) f => z.vput x.vdev (x.pool + 64 * f.ix + 6) [0]) s
        (x.grp = none → t.mem = ((r.vput x.vdev (x.obj + 0x64) (leBytes 0xFFFE 4)).vput x.vdev (x.obj + 0x60) (leBytes 3 4)).mem))
  ∧ (∀ (s : State) (q : Nat), q < s.queues.length → (s.queue q).st ≠ .closed →
    ∃ t, exec (.clusterFailure (.queue q)) s = .next t ∧ (t.queue q).st = .error ∧ (t.queue q).err = 0xFFFF
      ∧ ∀ w h, (s.queue q).waits = [w] → (s.thr w.t.g w.t.w w.t.t).sched = .blocked (.queue h) → s.trapsAt w.t.g w.t.w w.t.t →
        w.t.g < s.groups.length → w.t.w < (s.grp w.t.g).warps.length → w.t.t < (s.wrp w.t.g w.t.w).threads.length →
        t.thr w.t.g w.t.w w.t.t = (s.thr w.t.g w.t.w w.t.t).takeTrap (s.wrp w.t.g w.t.w).kd.trap 0x0B h ∧ (t.queue q).waits = [])

/-! ## Events of folding, saving and core errors (08_core.md, 11_program_fold.md) -/

/-- R179, R180, R198, R265, R206, R267, R202, R203: the marks of the packer fall due; a pre-emption request that names lane sets of a core on which no
fold is pending schedules those of its one victim and leaves its other state alone (on a core where a fold is pending it leaves everything as it is,
the model's choice, log 77); a completed fold takes the lane sets and spills the
blocks; an expansion gives lane sets and schedules spilled blocks and units, each refill brings the next one back; the reach buffer and
the slow path fetch what a thread waits for, which is then Ready. No register, predicate or byte of scratch or memory changes. -/
def Obligations.FoldsAndExpansions : Prop :=
  ∀ (s : State) (g w : Nat), g < s.groups.length → w < (s.grp g).warps.length →
    let x := s.grp g
    let y := s.wrp g w
    let keeps := fun (t : State) => s.keepsElse t g w [] ∧ (t.grp g).scr = x.scr
    (∀ u, u < y.threads.length → (y.thr u).live = true → (y.thr u).demoted = true → (y.thr u).demAt + 1024 ≤ y.opps →
      ∃ t, exec (.demotionExpiry ⟨g, w, u⟩) s = .next t ∧ keeps t ∧ (t.thr g w u).demoted = false)
    ∧ (∀ u, u < y.threads.length → (y.thr u).live = true → 4096 ≤ (y.thr u).opps → (y.thr u).promo = none →
      ∃ t, exec (.starvationPromotion ⟨g, w, u⟩) s = .next t ∧ keeps t ∧ (t.thr g w u).promo = some y.opps
        ∧ (t.thr g w u).demoted = false)
    ∧ (∀ d c region ls blocks sbg, s.foldBusy d c = true → exec (.preEmptionRequest d c region ls blocks sbg) s = .next s)
    ∧ (∀ region ls, s.foldBusy x.die x.core = false → s.candidates x.die x.core region = [g] → x.warps = [y] → y.quad < 4 →
      y.threads.any Thread.live = true → y.fold = none → y.ls &&& ~~~(ls.getD y.quad 0) ≠ 0 → y.ls &&& (ls.getD y.quad 0) ≠ 0 →
      ∃ t, exec (.preEmptionRequest x.die x.core region ls [] 0) s = .next t ∧ keeps t
        ∧ (t.wrp g w).fold = some ⟨region, y.ls &&& ls.getD y.quad 0, []⟩ ∧ (t.wrp g w).ls = y.ls)
    ∧ (∀ f, y.fold = some f → ∃ t, exec (.foldComplete g (some w)) s = .next t ∧ keeps t ∧ (t.wrp g w).fold = none
        ∧ (t.wrp g w).ls = y.ls &&& ~~~f.ls ∧ ∀ b, NSet.has (t.wrp g w).spilled b = (NSet.has y.spilled b || NSet.has f.blocks b))
    ∧ (x.foldU ≠ [] → ∃ t, exec (.foldComplete g none) s = .next t ∧ keeps t ∧ (t.grp g).foldU = []
        ∧ ∀ b, NSet.has (t.grp g).spilledU b = (NSet.has x.spilledU b || NSet.has x.foldU b))
    ∧ (x.alive = true → x.save = .running → s.foldBusy x.die x.core = false →
      ∃ t, exec (.expansion g) s = .next t ∧ keeps t ∧ (t.grp g).refillU = s.unitsBack g ∧ (t.wrp g w).ls &&& y.ls = y.ls
        ∧ ∃ k, (t.wrp g w).refill = y.spilled.take k)
    ∧ (∀ b l, y.refill = b :: l → y.spillBad = [] → ∃ t, exec (.expansionRefill g (some w)) s = .next t ∧ keeps t ∧ (t.wrp g w).refill = l
        ∧ (t.wrp g w).spilled = y.spilled.filter (fun k => k != b))
    ∧ (∀ b l, x.refillU = b :: l → ∃ t, exec (.expansionRefill g none) s = .next t ∧ keeps t ∧ (t.grp g).refillU = l
        ∧ (t.grp g).spilledU = x.spilledU.filter (fun k => k != b))
    ∧ (∀ u b, u < y.threads.length → (y.thr u).sched = .stalled (.reach b) → y.spillBad = [] →
      ∃ t, exec (.reachBufferFill g w b) s = .next t ∧ keeps t ∧ (t.wrp g w).reach = some b ∧ (t.thr g w u).ready = true)
    ∧ (∀ u, u < y.threads.length → (y.thr u).sched = .stalled .spilled →
      ∃ t, exec (.spilledUnitAccess g w) s = .next t ∧ keeps t ∧ (t.wrp g w).slow = true ∧ (t.thr g w u).ready = true)

/-- R207, R208, R209, R210, R390: a running workgroup asked to save is Pending with the time of the request, unless the resident system keeps
it beside a successor; it is Draining once every warp stands at a save point, or after 65,536 cc; it is written when its commands have
drained and its scratch accesses are performed, and then saved, and holds no resource of its core; a saved one that a core can take with
its banks and pending loads resumes there with the registers, predicates, trap registers and scratch it had. No byte of memory changes, but that
the end of a save performs what the die has sent to others (R345).
R211, R212, R377: a corrected error of a core is counted, reported and seen by its wear monitor, which reports an ageing core, and
changes nothing else (the number that names a core to the wear monitors is log 89); an uncorrectable one in a register or a predicate poisons
it and keeps its value, one in scratch poisons the word, but in a transfer barrier it is a region fault, as in the state that a thread's control
needs (log 76) or a control structure; a core that fails hard has every workgroup resident on it end in a
region fault, and is used no more. -/
def Obligations.SavesAndCoreErrors : Prop :=
  (∀ (s : State) (g : Nat), g < s.groups.length → (s.grp g).alive = true →
      let x := s.grp g
      let now := s.clock + (s.core x.die x.core).skew
      (x.save = .running → s.keeps g = false →
        exec (.fullSaveRequest g) s = .next (s.modG g (fun z => { z with save := .pending, saveAt := now, forced := false })))
      ∧ (s.keeps g = true → exec (.fullSaveRequest g) s = .next s)
      ∧ (x.save = .pending → x.warps.all Warp.savePoint = true →
        exec (.draining g) s = .next (s.modG g (fun z => { z with save := .draining, forced := false })))
      ∧ (x.save = .pending → x.warps.all Warp.savePoint = false → exec (.draining g) s = .next s)
      ∧ (x.save = .pending → x.saveAt + 65536 ≤ now →
        exec (.forcedSave g) s = .next (s.modG g (fun z => { z with save := .draining, forced := true })))
      ∧ (x.save = .pending → now < x.saveAt + 65536 → exec (.forcedSave g) s = .next s)
      ∧ (x.save = .draining → x.drainDone = true → ∃ t, exec (.drainComplete g) s = .next t ∧ s.keepsElse t g 0 []
        ∧ (t.grp g).scr = x.scr ∧ (t.grp g).save = .writing ∧ (t.grp g).warps = x.warps)
      ∧ (x.save = .draining → x.drainDone = false → exec (.drainComplete g) s = .next s)
      ∧ (x.save = .writing → s.unsent g 5 = true → exec (.saveWritten g) s = .next s)
      ∧ (x.save = .writing → s.unsent g 5 = false → (∀ y ∈ x.warps, y.spillBad = []) → ∃ t, exec (.saveWritten g) s = .next t
        ∧ t.mem = (s.drainDie x.die).mem ∧ (∀ a b u, (t.thr a b u).sameFiles (s.thr a b u)) ∧ (t.grp g).scr = x.scr ∧ (t.grp g).save = .saved ∧ (t.grp g).holds = false)
      ∧ (∀ d c units, s.canResume g d c units → ∃ t, exec (.resume g d c units) s = .next t ∧ s.keepsElse t g 0 []
        ∧ (t.grp g).scr = x.scr ∧ (t.grp g).save = .running ∧ (t.grp g).die = d ∧ (t.grp g).core = c))
  ∧ ((∀ (s : State) (e : SoftErr) (d c : Nat), d < 4 → d < s.dies.length →
      (∀ g, e.grp = some g → (s.grp g).holds = true ∧ (s.grp g).die = d ∧ (s.grp g).core = c) →
      let n := FMap.get 0 (s.die d).wear c + 1
      ∃ t, exec (.softError e d c false) s = .next t ∧ t.groups = s.groups ∧ t.mem = s.mem ∧ t.poison = s.poison
        ∧ (t.die d).corrected = (s.die d).corrected + 1 ∧ (t.die d).uncorrected = (s.die d).uncorrected
        ∧ t.pkg.reports = s.pkg.reports ++ [.corrected d c] ++ (if n = 16 * Config.wearBase d c + 1 then [Report.ageing d c] else []))
    ∧ (∀ (s : State) (u : TRef) (r off : Nat), u.g < s.groups.length → u.w < (s.grp u.g).warps.length →
      u.t < (s.wrp u.g u.w).threads.length → (s.grp u.g).alive = true → (s.grp u.g).save ≠ .saved → (s.grp u.g).die < 4 → r < 255 →
      let d := (s.grp u.g).die
      let c := (s.grp u.g).core
      (∃ t, exec (.softError (.reg u r) d c true) s = .next t ∧ t.mem = s.mem
        ∧ (t.thr u.g u.w u.t).reg r = ⟨((s.thr u.g u.w u.t).reg r).v, true⟩ ∧ (t.thr u.g u.w u.t).p = (s.thr u.g u.w u.t).p)
      ∧ ((s.grp u.g).xbHit (off / 4 * 4) 4 = false →
        ∃ t, exec (.softError (.scratch u.g off) d c true) s = .next t ∧ s.keepsElse t u.g u.w [] ∧ (t.grp u.g).scr = (s.grp u.g).scr
          ∧ NSet.has (t.grp u.g).scrP (off / 4) = true)
      ∧ ((s.grp u.g).xbHit (off / 4 * 4) 4 = true → ∃ t, exec (.softError (.scratch u.g off) d c true) s = .next t ∧ (t.grp u.g).alive = false)
      ∧ (r < 7 → ∃ t, exec (.softError (.pred u r) d c true) s = .next t ∧ t.mem = s.mem
        ∧ (t.thr u.g u.w u.t).pred r = ⟨((s.thr u.g u.w u.t).pred r).v, true⟩ ∧ (t.thr u.g u.w u.t).g = (s.thr u.g u.w u.t).g)
      ∧ (∃ t, exec (.softError (.threadState u) d c true) s = .next t ∧ (t.grp u.g).alive = false)
      ∧ (∃ t, exec (.softError (.control u.g) d c true) s = .next t ∧ (t.grp u.g).alive = false))
    ∧ (∀ (s : State) (d c : Nat), d < s.dies.length → ∃ t, exec (.coreHardFailure d c) s = .next t ∧ (t.core d c).failed = true
      ∧ ∀ g, g < s.groups.length → (s.grp g).alive = true → (s.grp g).save ≠ .saved → (s.grp g).die = d → (s.grp g).core = c →
          (t.grp g).alive = false))

/-! ## System calls and dies (16_die.md, 18_package.md) -/

/-- R362, R168: the calls that ask and wait. VERSION, LSTAT, LWAIT and LOG with an argument word beyond their own that is not 0 get −2; VERSION gets the configuration's
version, LSTAT the state of a launch of the device or −2, LWAIT the state once the launch has ended and waits before, LOG appends the bytes,
an unassigned number −1; the reply reaches the pair D of a live thread, which may call again. Nothing else changes. -/
def Obligations.CallsAskAndWait : Prop :=
  ∀ (s : State) (c : Nat) (x : Call), s.call c = some x →
    let ans := fun (i : Instr) (v : DWord) => exec i s = .next { s with calls := (modFirst (fun y => y.id == c)
      (fun y => { y with res := some v }) s.calls) }
    let rest := fun (k : Nat) => ∀ w ∈ x.args.drop k, w = 0
    let la := s.launches.find? (fun l => l.id == (x.dword 0).toNat && l.vdev == x.vdev)
    (x.res = none →
      (∀ n i, (n, x.num, i) ∈ [(0, 0, Instr.version c), (2, 2, Instr.lstat c), (2, 3, Instr.lwait c), (3, 0xC, Instr.log c)] →
        ¬rest n → ans i (-2))
      ∧ (x.num = 0 → rest 0 → ∃ v : DWord, ans (.version c) v ∧ v.extractLsb' 0 8 = BitVec.ofNat 8 Config.isaLevel)
      ∧ (x.num = 2 → rest 2 → la = none → ans (.lstat c) (-2))
      ∧ (∀ l, x.num = 2 → rest 2 → la = some l → ans (.lstat c) (BitVec.ofNat 64 l.st))
      ∧ (∀ l, x.num = 3 → rest 2 → la = some l → l.st = 2 → ans (.lwait c) 2)
      ∧ (∀ l, x.num = 3 → rest 2 → la = some l → l.st < 2 → exec (.lwait c) s = .next s)
      ∧ (x.num = 0xC → rest 3 → 4096 < (x.word 2).toNat → ans (.log c) (-2))
      ∧ (∀ l, x.num = 0xC → rest 3 → (x.word 2).toNat ≤ 4096 → s.readN 4 x.vdev (x.dword 0).toNat (x.word 2).toNat = .ok l →
          ∃ t, exec (.log c) s = .next t ∧ t.mem = s.mem ∧ t.pkg.log = s.pkg.log ++ [.bytes x.vdev (l.map (fun b => b.1))]
            ∧ (t.call c).bind (fun y => y.res) = some ((x.word 2).setWidth 64))
      ∧ (0xE < x.num → ans (.unassignedSyscall c) (-1)))
    ∧ (∀ v u d, x.res = some v → x.caller = .thread u d → u.g < s.groups.length → u.w < (s.grp u.g).warps.length →
        u.t < (s.wrp u.g u.w).threads.length → (s.thr u.g u.w u.t).live = true →
        ∃ t, exec (.syscallReply c) s = .next t ∧ t.mem = s.mem ∧ t.calls = s.calls.filter (fun y => y.id != c)
          ∧ (t.thr u.g u.w u.t).g = ((s.thr u.g u.w u.t).apply (Eff.pair d v false)).g ∧ (t.thr u.g u.w u.t).sysc = false
          ∧ NSet.has (t.thr u.g u.w u.t).pend d = false ∧ NSet.has (t.thr u.g u.w u.t).pend (d + 1) = false)

/-- R362, R363, R279, R280, R284, R371, R335, R336: the calls that change something. LAUNCH of an admitted block appends a launch and gets its
identifier; QOPEN of a new queue appends it, open and empty, and QCLOSE has an open queue drain; MMAP of a base page writes a leaf with the
frame and the rights asked for and gives the device the frame, which reads zero; MUNMAP removes the leaf of a page and every die's
translation of it and frees its frame, and changes nothing where nothing is mapped; RCREATE appends a region below the one its handle names and RDESTROY ends one that is not busy;
FWAIT delivers the oldest fault of its domain and FRESOLVE restarts one. (The rights
that RCREATE, RDESTROY and FRESOLVE ask of a handle are the model's reading, log 58; that a fault of a task is delivered a second time, with its
task's record, is its choice, log 84.) Bad operands get −2, bad handles −4, busy objects −5. -/
def Obligations.CallsChangeTheMachine : Prop :=
  ∀ (s : State) (c : Nat) (x : Call), s.call c = some x → x.res = none →
    let is := fun (i : Instr) (num k : Nat) (t : State) (v : DWord) => x.num = num → (∀ w ∈ x.args.drop k, w = 0) →
      exec i s = .next { t with calls := (modFirst (fun y => y.id == c)
        (fun y => { y with res := some v }) t.calls) }
    let a := (x.dword 0).toNat
    let len := (x.dword 2).toNat
    (∀ l, s.quiesced x.vdev = false → a % 64 = 0 → s.readN 4 x.vdev a 256 = .ok l → ∀ t v, s.takeBlock x (byteAt l) = .done t v →
      is (.launch c) 1 2 t v ∧ t.mem = s.mem ∧ ∃ y, t.launches = s.launches ++ [y] ∧ v = BitVec.ofNat 64 y.id ∧ y.vdev = x.vdev)
    ∧ (s.quiesced x.vdev = false → a % 64 ≠ 0 → is (.launch c) 1 2 s (-2))
    ∧ (∀ (check : Half) t v, s.qopen x check = .done t v → s.queues.findIdx? (fun q => q.vdev == x.vdev && q.desc == a) = none →
      is (.qopen c check) 4 7 t v ∧ v.extractLsb' 48 16 = check ∧ ∃ q, t.queues = s.queues ++ [q] ∧ q.st = .opened ∧ q.waits = []
        ∧ q.rdx = 0 ∧ q.wrx = 0 ∧ q.desc = a ∧ q.ring = len ∧ q.vdev = x.vdev)
    ∧ (∀ check, a % 64 ≠ 0 → is (.qopen c check) 4 7 s (-2))
    ∧ (s.queueOf x.vdev (x.dword 0) = none → is (.qclose c) 5 2 s (-4))
    ∧ (∀ q, s.queueOf x.vdev (x.dword 0) = some q → (x.dword 0).getLsbD 44 = false → is (.qclose c) 5 2 s (-4))
    ∧ (∀ q, s.queueOf x.vdev (x.dword 0) = some q → (x.dword 0).getLsbD 44 = true → (s.queue q).st = .opened →
      (s.queue q).rdx ≠ (s.queue q).wrx → is (.qclose c) 5 2 ((s.modQ q (fun y => { y with st := .draining })).putDesc q) 0)
    ∧ (∀ fr tb, 63 < (x.word 4).toNat ∨ 4 < (x.word 5).toNat ∨ 2 ^ 52 < a + len → is (.mmap c fr tb) 6 6 s (-2))
    ∧ (∀ fr tb t v, s.mmap x fr tb = .done t v → is (.mmap c fr tb) 6 6 t 0 ∧ v = 0)
    ∧ (∀ f dv la t v, s.wf = true → s.dies.length = 4 → s.vdev x.vdev = some dv → 0 < x.vdev → dv.root % 65536 = 0 → s.drainAll = s →
      len = 65536 → (x.word 4).getLsbD 2 = false → s.leafAddr x.vdev (pageOf a) false = some la → s.mmap x [f] [] = .done t v →
      let bit := fun (k : Nat) => (x.word 4).getLsbD k
      t.pword la = BitVec.ofNat 64 (mkLeaf f (bit 0) (bit 1) false false (bit 3)) ∧ t.owner f = x.vdev ∧ s.owner f = 0
      ∧ ∀ k, k < 65536 → (f + k < la ∨ la + 8 ≤ f + k) → t.pbyte (f + k) = 0)
    ∧ (a % 65536 ≠ 0 ∨ len % 65536 ≠ 0 → is (.munmap c) 7 4 s (-2))
    ∧ (a % 65536 = 0 → len % 65536 = 0 → a + len ≤ 2 ^ 52 → s.windowBusy x.vdev a len = true → is (.munmap c) 7 4 s (-5))
    ∧ (a % 65536 = 0 → len % 65536 = 0 → a + len ≤ 2 ^ 52 → s.windowBusy x.vdev a len = false →
      (s.userPages x.vdev).filter (overlaps (pageOf a) (len / 65536)) = [] → is (.munmap c) 7 4 s 0)
    ∧ (∀ m, a % 65536 = 0 → len % 65536 = 0 → a + len ≤ 2 ^ 52 → s.windowBusy x.vdev a len = false → s.wf = true → s.dies.length = 4 →
      s.drainAll = s → (s.userPages x.vdev).filter (overlaps (pageOf a) (len / 65536)) = [m] → pageOf a ≤ m.1 →
      m.1 + pageFrames m.2.2 ≤ pageOf a + len / 65536 → ∃ t, is (.munmap c) 7 4 t 0
        ∧ (∀ d, ∀ e ∈ (t.die d).tlb, ¬(e.vdev = x.vdev ∧ e.page < m.1 + pageFrames m.2.2 ∧ m.1 < e.page + pageFrames e.large))
        ∧ (∀ la, s.leafAddr x.vdev m.1 m.2.2 = some la → t.pword la = 0)
        ∧ (entPeer m.2.1 = false → FMap.wf 0 (s.die (paDie (entFrame m.2.1))).owners = true → t.owner (entFrame m.2.1) = 0))
    ∧ (∀ ad ck, s.regionOf x.vdev (x.dword 0) 46 = none → is (.rcreate c ad ck) 8 4 s (-4))
    ∧ (∀ ad ck p t v, s.regionOf x.vdev (x.dword 0) 46 = some p → s.rcreate x ad ck = .done t v → is (.rcreate c ad ck) 8 4 t v
      ∧ ∃ r, t.regions = s.regions ++ [r] ∧ r.parent = some p ∧ r.alive = true ∧ r.addr = ad ∧ r.check = ck ∧ r.vdev = x.vdev)
    ∧ (s.regionOf x.vdev (x.dword 0) 44 = none → is (.rdestroy c) 9 2 s (-4))
    ∧ (∀ r p y, s.regionOf x.vdev (x.dword 0) 44 = some r → s.regions[r]? = some y → y.parent = some p →
      (s.regionBusy r = true → is (.rdestroy c) 9 2 s (-5))
      ∧ (s.regionBusy r = false → is (.rdestroy c) 9 2 { s with regions := modAt s.regions r (fun y => { y with alive := false }) } 0))
    ∧ (∀ r d f t, s.regionOf x.vdev (x.dword 0) 45 = some r → s.nextFault r = some (d, f) →
      s.writeClean 4 x.vdev len (if f.told then f.task else f.bytes) = .ok t → is (.fwait c) 10 4 (t.modD d (fun y => { y with
        faults := y.faults.map (fun g =>
          if g.tag = f.tag then (if g.told then { g with task := [] } else { g with told := true }) else g) })) 0)
    ∧ (∀ r, s.regionOf x.vdev (x.dword 0) 45 = some r → s.faultOf (x.word 2).toNat = none → is (.fresolve c) 11 4 s (-2))
    ∧ (∀ r d f, s.regionOf x.vdev (x.dword 0) 45 = some r → s.faultOf (x.word 2).toNat = some (d, f) → s.domainOfRec f = some r →
      x.word 3 = 0 → is (.fresolve c) 11 4 (s.frestart d f) 0)

/-- R316, R317, R331, R335, R336: a die command is answered with its tag and a status, 0 where it had its effect, 1 for a code that Table 16-2 does not
list, 2 for a bad operand, 3 for a key slot of another device. ICINV leaves no line of the range in either level of the instruction caches, ICINVALL none at all; TINV and TINVALL
leave no translation of the range or the device; KEYLOAD fills a slot and raises its generation, KEYDISC empties it; SCRUB zeroes the range;
FRESTART and FKILL take the record away, and FKILL of one whose command still stands ends every workgroup of its fault domain. (The status of
a code that is not listed, the tag, and what a kill takes are the model's reading, log 46; so is that ICINV keeps the lines of devices other
than its VDEV.)
R324, R325, R334, R339: an epoch that ends for a device without an enabled assay moves no page and clears the hit counts of its translations; a
page move that drops every replica leaves none; a token period sets each account's balance to its share less the repayment of its debt plus
a negative rest; an error of a die is counted and reported, and in a translation drops it. -/
def Obligations.DieCommandsAndEvents : Prop :=
  (∀ (s : State) (d : Nat) (w0 w1 w2 w3 : DWord), d < 4 → s.dies.length = 4 →
      let tag := w0.extractLsb' 32 32
      let v := (w0.extractLsb' 8 8).toNat
      let k := (w0.extractLsb' 16 6).toNat
      let code := (w0.extractLsb' 0 8).toNat
      let fine := w0.extractLsb' 22 10 = 0 ∧ v ≤ 63
      let said := fun (t : State) (st : Nat) => (t.die d).replies = (s.die d).replies ++ [(tag, st)]
      let just := fun (i : Instr) (st : Nat) => ∃ t, exec i s = .next t ∧ said t st ∧ t.mem = s.mem ∧ t.groups = s.groups
      let inR := fun (lo hi : Nat) => lo < w1.toNat + w2.toNat ∧ w1.toNat < hi
      (9 < code ∨ code = 0 → just (.unknownDieCommand d w0 w1 w2 w3) 1)
      ∧ (code = 1 → fine → w1.toNat + w2.toNat ≤ 2 ^ 52 → ∃ t, exec (.icinv d w0 w1 w2 w3) s = .next t ∧ said t 0 ∧ t.mem = s.mem
        ∧ (∀ l, l ∈ (t.die d).icache ↔ l ∈ (s.die d).icache ∧ ¬(l.vdev = v ∧ inR (64 * l.line) (64 * l.line + 64)))
        ∧ ∀ c l, l ∈ (t.core d c).l1 ↔ l ∈ (s.core d c).l1 ∧ ¬(l.vdev = v ∧ inR (64 * l.line) (64 * l.line + 64)))
      ∧ (code = 1 → fine → 2 ^ 52 < w1.toNat + w2.toNat → just (.icinv d w0 w1 w2 w3) 2)
      ∧ (code = 1 → ¬fine → just (.icinv d w0 w1 w2 w3) 2)
      ∧ (code = 2 → fine → ∃ t, exec (.icinvall d w0 w1 w2 w3) s = .next t ∧ said t 0 ∧ t.mem = s.mem ∧ (t.die d).icache = []
        ∧ ∀ c, (t.core d c).l1 = [])
      ∧ (code = 3 → fine → w1.toNat + w2.toNat ≤ 2 ^ 52 → ∃ t, exec (.tinv d w0 w1 w2 w3) s = .next t ∧ said t 0 ∧ t.mem = s.mem
        ∧ ∀ e ∈ (t.die d).tlb, ¬(e.vdev = v ∧ inR (e.page * 65536) ((e.page + pageFrames e.large) * 65536)))
      ∧ (code = 4 → fine → ∃ t, exec (.tinvall d w0 w1 w2 w3) s = .next t ∧ said t 0 ∧ t.mem = s.mem ∧ ∀ e ∈ (t.die d).tlb, e.vdev ≠ v)
      ∧ (code = 5 → fine → let o := FMap.get KeySlot.zero (s.die d).keys k
          (o.vdev = some v ∨ (o.vdev = none ∧ (s.vdev v).isSome = true) → ∃ t, exec (.keyload d w0 w1 w2 w3) s = .next t ∧ said t 0
            ∧ t.mem = s.mem ∧ ∃ k1 k2, FMap.get KeySlot.zero (t.die d).keys k = ⟨some v, k1, k2, (o.gen + 1) % 1024, o.loads + 1⟩)
          ∧ (∀ u, o.vdev = some u → u ≠ v → just (.keyload d w0 w1 w2 w3) 3)
          ∧ (o.vdev = none → s.vdev v = none → just (.keyload d w0 w1 w2 w3) 2))
      ∧ (code = 6 → fine → FMap.wf KeySlot.zero (s.die d).keys = true → ∃ t, exec (.keydisc d w0 w1 w2 w3) s = .next t ∧ said t 0
        ∧ t.mem = s.drainAll.mem ∧ (FMap.get KeySlot.zero (t.die d).keys k).vdev = none
        ∧ ∀ j, j ≠ k → FMap.get KeySlot.zero (t.die d).keys j = FMap.get KeySlot.zero (s.die d).keys j)
      ∧ (code = 7 → fine → w1.toNat % 65536 = 0 → w2.toNat % 65536 = 0 →
        (∀ j, j < w2.toNat / 65536 → paOk (w1.toNat + 65536 * j) = true ∧ paDie (w1.toNat + 65536 * j) = d) →
        ∃ t, exec (.scrub d w0 w1 w2 w3) s = .next t ∧ said t 0 ∧ t.mem = (s.zeroPhys w1.toNat w2.toNat).mem)
      ∧ (code = 7 → fine → w1.toNat % 65536 ≠ 0 → just (.scrub d w0 w1 w2 w3) 2)
      ∧ (∀ f, code = 8 → fine → (s.die d).faults.find? (fun y => y.tag == (w1.extractLsb' 0 32).toNat) = some f →
        ∃ t, exec (.frestart d w0 w1 w2 w3) s = .next t ∧ said t 0 ∧ t.mem = s.mem
          ∧ (t.die d).faults = (s.die d).faults.filter (fun y => y.tag != f.tag))
      ∧ (code = 8 → fine → (s.die d).faults.find? (fun y => y.tag == (w1.extractLsb' 0 32).toNat) = none →
        just (.frestart d w0 w1 w2 w3) 2)
      ∧ (∀ f, code = 9 → fine → (s.die d).faults.find? (fun y => y.tag == (w1.extractLsb' 0 32).toNat) = some f →
        ∃ t, exec (.fkill d w0 w1 w2 w3) s = .next t ∧ said t 0 ∧ (t.die d).faults = (s.die d).faults.filter (fun y => y.tag != f.tag)
          ∧ (s.faultLives f = true → ∀ dom g, s.domainOfRec f = some dom → g < s.groups.length → s.domainOf (s.grp g).region = dom →
              (t.grp g).alive = false)))
  ∧ (∀ (s : State) (d : Nat), d < 4 → s.dies.length = 4 →
      (∀ v dv q, s.vdev v = some dv → dv.assay.en = false → ∃ t, exec (.epochEnd d v q) s = .next t ∧ t.mem = s.mem
        ∧ (t.die d).moves = (s.die d).moves ∧ ∀ e ∈ (t.die d).tlb, e.vdev = v → e.hits = 0)
      ∧ (∀ v page tg fr e large la, (⟨v, page, 3, tg⟩ : AssayMove) ∈ (s.die d).moves →
        (s.mapped v).find? (fun p => p.1 == page) = some (page, e, large) → paDie (entFrame e) = d → entPeer e = false →
        s.leafAddr v page large = some la → ∃ t, exec (.pageMove d v page 3 tg fr) s = .next t
          ∧ ∀ k, k < 4 → ∀ r ∈ (t.die k).replicas, ¬(r.vdev = v ∧ page ≤ r.page ∧ r.page < page + pageFrames large))
      ∧ (∀ v page act tg fr, (⟨v, page, act, tg⟩ : AssayMove) ∉ (s.die d).moves → exec (.pageMove d v page act tg fr) s = .next s)
      ∧ (∃ t, exec (.tokenPeriod d) s = .next t ∧ t.mem = s.mem ∧ (t.die d).toks = (s.die d).toks.map (fun a =>
          let r := tokCap a.cls * a.share / 1024
          let x := min a.debt (r / 2)
          { a with debt := a.debt - x, bal := (r : Int) - (x : Int) + min a.bal 0, waiting := false }))
      ∧ (∀ e, ∃ t, exec (.dieSoftError d e false) s = .next t ∧ t.mem = s.mem ∧ t.groups = s.groups
        ∧ (t.die d).corrected = (s.die d).corrected + 1 ∧ t.pkg.reports = s.pkg.reports ++ [.corrected d e.unit]
          ++ (if FMap.get 0 (s.die d).wear e.unit + 1 = 16 * Config.wearBase d e.unit + 1 then [Report.ageing d e.unit] else []))
      ∧ (∀ v page, ∃ t, exec (.dieSoftError d (.tlb v page) true) s = .next t ∧ t.mem = s.mem
        ∧ (t.die d).uncorrected = (s.die d).uncorrected + 1 ∧ ∀ e ∈ (t.die d).tlb, e.has v page = false))

/-! ## The part, its services and its mailbox (18_package.md, 20_fabric.md) -/

/-- R378, R382, R383, R385, R386, R398, R384: a sound datagram at the management port with a sequence number above the last is answered with
its number and tag, in datagrams of at most 1,024 bytes of data: RSTAT and the summary with their bytes, ATTEST with a report for a nonce of
32 bytes and a device that exists, PCAP with the cap it sets, −2 outside 1000 to 2000, a code that is not listed with −1; another is
discarded. RSTAT of the mailbox is answered in the host's ring, taken off and raises RIRQ; without the mailbox right the entry tells −4.
VCONF answers −2 for a record that breaks its format or names no device, −5 for one that exists, −3 for what the pools do not hold, and else
does what it asks. (The model's choices: the result words and slots of replies, logs 64 and 92; the layout of a summary, log 59; which VCONF
records get which code, log 62; the budgets of a root region, log 61.) -/
def Obligations.ServicesAnswered : Prop :=
  ∀ (s : State) (tag : Nat) (seq : DWord), s.pkg.stage = 5 → s.pkg.mgmtSeq < seq → (tag, seq) ∉ s.pkg.mgmtOpen →
    let src := ReqSrc.mgmt tag seq true
    let told := fun (t : State) (res : DWord) (extra data : List Byte) => ({ t with pkg := { t.pkg with
      mgmtSeq := seq
      reports := t.pkg.reports ++ datagrams tag seq res extra data } } : State)
    let heard : State := { s with pkg := { s.pkg with mgmtSeq := seq, mgmtOpen := s.pkg.mgmtOpen ++ [(tag, seq)] } }
    let sum := summaryOf [sectionBytes 6 (s.reserveRecs ++ s.eventRecs)]
    (∀ n sq ok, (n, sq) ∉ s.pkg.mgmtOpen → ok = false ∨ sq ≤ s.pkg.mgmtSeq → exec (.rstat (.mgmt n sq ok)) s = .next s)
    ∧ (∀ res data, let part := fun (r : Report) => (match r with
        | .reply _ _ _ _ l _ => l
        | _ => [] : List Byte)
      (datagrams tag seq res [] data).flatMap part = data ∧ ∀ r ∈ datagrams tag seq res [] data, (part r).length ≤ 1024
        ∧ ∃ e l, r = .reply tag seq res e l (Config.field 64 (Config.sm2Sign (Config.sm3 (replyEntry tag res e seq ++ l)))))
    ∧ exec (.rstat src) s = .next (told s (BitVec.ofNat 64 sum.length) [] sum)
    ∧ exec (.resyncService src) s = .next (told s (BitVec.ofNat 64 (heard.summary none).length) [] (heard.summary none))
    ∧ (∀ v nonce, nonce.length = 32 → v = 0 ∨ (s.vdev v).isSome = true → exec (.attest src v nonce) s = .next
        (told s (BitVec.ofNat 64 (s.attestation v nonce).length) [] (s.attestation v nonce)))
    ∧ (∀ v nonce, nonce.length ≠ 32 ∨ (v ≠ 0 ∧ s.vdev v = none) → exec (.attest src v nonce) s = .next (told s (-2) [] []))
    ∧ (∀ w : Word, 1000 ≤ w.toNat → w.toNat ≤ 2000 → exec (.pcap src w) s = .next
        (told { s with pkg := { s.pkg with cap := w.toNat } } (w.setWidth 64) [] []))
    ∧ (∀ w : Word, w.toNat < 1000 ∨ 2000 < w.toNat → exec (.pcap src w) s = .next (told s (-2) [] []))
    ∧ (∀ code : Half, 0x0105 < code.toNat ∨ (0x00E < code.toNat ∧ code.toNat < 0x0100) →
        exec (.unknownServiceCode src code) s = .next (told s (-1) [] []))
    ∧ (∀ h r, s.pkg.reqs.find? (fun q => q.tag == h && q.code == 0x0103) = some r →
        (s.boxed r.vdev = true → s.pkg.box.room (replySlots sum) = true → ∃ t, exec (.rstat (.host h)) s = .next t ∧ t.mem = s.mem
          ∧ t.pkg.reqs = s.pkg.reqs.erase r ∧ t.pkg.box.ptail = s.pkg.box.ptail + BitVec.ofNat 32 (replySlots sum)
          ∧ t.pkg.box.rirq = true ∧ t.pkg.msix = s.pkg.msix ++ [0])
        ∧ (s.boxed r.vdev = false → s.pkg.box.room 1 = true → ∃ t, exec (.rstat (.host h)) s = .next t ∧ t.mem = s.mem
          ∧ t.pkg.reqs = s.pkg.reqs.erase r ∧ t.pkg.box.ptail = s.pkg.box.ptail + 1
          ∧ ∀ k, k < 64 → t.hostByte (s.pkg.box.pbase.toNat + 64 * (s.pkg.box.ptail.toNat % 2 ^ s.pkg.box.plog.toNat) + k)
              = (leBytes h 4 ++ leBytes 0 4 ++ leBytes (-4 : DWord).toNat 8 ++ List.replicate 48 0).getD k 0))
    ∧ (∀ (r : List Byte) root block check slots, let v := recV r
      let go := fun (t : State) (res : DWord) (e : List Byte) => recOp r = 1 →
        exec (.vconfCreate src r root block check slots) s = .next (told t res e [])
      (recOp r = 0 ∨ 4 < recOp r → exec (.vconfCreate src r root block check slots) s = .next (told s (-2) [] []))
      ∧ (recOk r = false → go s (-2) [])
      ∧ (recOk r = true → (s.vdev v).isSome = true → go s (-5) [])
      ∧ (recOk r = true → s.vdev v = none → s.recFits r = false → go s (-3) [])
      ∧ (recOk r = true → s.vdev v = none → s.recFits r = true → s.rootOk root = true → s.slotsOk v slots = true →
          s.blockFree v block check = true → ∃ t, go t 0 (clampWords r) ∧ t.groups = s.groups
            ∧ (∃ d, t.vdevs = s.vdevs ++ [d] ∧ d.num = v ∧ d.dfr = numAt r 8 4 ∧ d.sfr = numAt r 0xC 4 ∧ d.root = root
              ∧ d.rootReg = s.regions.length)
            ∧ ∃ y, t.regions = s.regions ++ [y] ∧ y.vdev = v ∧ y.parent = none ∧ y.rb = 128 * recNq r ∧ y.ls = 4 * recNq r
              ∧ y.acc = 8 * recNq r ∧ y.alive = true))
    ∧ (∀ (r : List Byte), let v := recV r
      let go := fun (t : State) (res : DWord) (e : List Byte) => recOp r = 2 → exec (.vconfChange src r) s = .next (told t res e [])
      (recOk r = false ∨ s.vdev v = none → s.actions v = [] → ∃ t, go t (-2) [] ∧ t.groups = s.groups ∧ t.mem = s.mem)
      ∧ (∀ d, s.vdev v = some d → recOk r = true → s.recFits r = true → d.actions = [] → d.keySlot ≠ [] → s.outside r = [] →
          ∃ t, go t 0 (clampWords r) ∧ t.groups = s.groups ∧ ∃ e, t.vdev v = some e ∧ e.dfr = numAt r 8 4
            ∧ e.sfr = numAt r 0xC 4 ∧ e.actions = [] ∧ e.root = d.root ∧ e.keySlot = d.keySlot))
    ∧ (∀ (r : List Byte), let v := recV r
      (recOp r = 3 → headOk r = false ∨ s.vdev v = none → exec (.vconfReset src r) s = .next (told s (-2) [] []))
      ∧ (recOp r = 4 → s.vdev v = none → exec (.vconfDelete src r) s = .next (told s (-2) [] []))
      ∧ (∀ d, recOp r = 3 → headOk r = true → s.vdev v = some d → d.actions = [] →
        ∃ t, exec (.vconfReset src r) s = .next (told t 0 (clampWords []) [])
        ∧ (∀ g, g < s.groups.length → (s.grp g).vdev = v → (t.grp g).alive = false) ∧ (∀ i ∈ t.images, i.vdev ≠ v)
        ∧ (∀ c ∈ t.calls, c.fromHost = true ∨ c.vdev ≠ v) ∧ ∃ e, t.vdev v = some e ∧ e.keySlot = [] ∧ e.actions = [])
      ∧ (∀ d, recOp r = 4 → headOk r = true → s.vdev v = some d → d.actions = [] →
        ∃ t, exec (.vconfDelete src r) s = .next (told t 0 (clampWords []) [])
        ∧ t.vdev v = none ∧ (∀ g, g < s.groups.length → (s.grp g).vdev = v → (t.grp g).alive = false)
        ∧ (∀ y ∈ t.regions, y.vdev = v → y.alive = false) ∧ ∀ x ∈ t.fab.grants, x.evdev ≠ v))

/-- R356, R359, R369, R378, R379, R338: a checkpoint of a device whose workgroups are saved is kept with its identifier, and a restore puts its
work back; a summary goes to the caller's buffer, −3 where that is too short; an image is loaded and its control program started on a free application
core, or its error answered; the first function of the translator's queue is swapped in at the heap, or logged where it has no code or the
heap no room for it; a shared quadrant goes to the next holder; a reserve core takes a
number where no workgroup stands. -/
def Obligations.ServiceActionsDone : Prop :=
  ∀ (s : State),
    (∀ c (x : Call), s.call c = some x → x.res = none →
      let is := fun (i : Instr) (num k : Nat) (t : State) (v : DWord) => x.num = num → (∀ w ∈ x.args.drop k, w = 0) →
        exec i s = .next { t with calls := (modFirst (fun y => y.id == c) (fun y => { y with res := some v }) t.calls) }
      let b := s.summary (some x.vdev)
      ((x.word 2).toNat < b.length → is (.resync c) 0xE 3 s (-3))
      ∧ (∀ t, b.length ≤ (x.word 2).toNat → s.writeClean 4 x.vdev (x.dword 0).toNat b = .ok t →
          is (.resync c) 0xE 3 t (BitVec.ofNat 64 b.length))
      ∧ ((s.vdev x.vdev).isSome = true → s.actions x.vdev = [] → s.allSaved x.vdev = true →
          ∃ t, is (.ckpt c) 0xD 0 t (BitVec.ofNat 64 s.pkg.nextId) ∧ t.groups = s.groups ∧ t.ckpts.length = s.ckpts.length + 1
            ∧ ∃ k ∈ t.ckpts, k.id = s.pkg.nextId ∧ k.vdev = x.vdev))
    ∧ ((∀ d ∈ s.vdevs, d.actions = [] ∧ s.allSaved d.num = true) → (s.vdevs.map (fun d => d.num)).Nodup →
      ∃ t, exec .operatorCheckpoint s = .next t ∧ t.groups = s.groups
        ∧ t.ckpts.map (fun k => k.vdev) = s.ckpts.map (fun k => k.vdev) ++ s.vdevs.map (fun d => d.num))
    ∧ (∀ k d, s.ckpts.find? (fun y => y.id == k.id) = some k → s.vdev k.vdev = some d → d.actions = [] → k.st.maps = [] → k.st.apps = [] →
      ∃ t, exec (.checkpointRestore k.id [] []) s = .next t ∧ t.groups.length = s.groups.length + k.st.groups.length
        ∧ (t.launches.filter (fun l => l.vdev == k.vdev)).map (fun l => l.id) = k.st.launches.map (fun l => l.id)
        ∧ (t.queues.filter (fun q => q.vdev == k.vdev)).map (fun q => (q.desc, q.rdx, q.wrx, q.st))
          = k.st.queues.map (fun q => (q.desc, q.rdx, q.wrx, q.st)))
    ∧ (∀ v l base frames tables t e, s.loadImage v l base frames tables = some (t, e) →
      ∃ u, exec (.imageLoad v l ⟨base, frames, tables⟩) s = .next u ∧ u.mem = t.mem
      ∧ u.images = t.images ∧ u.pkg.answers = t.pkg.answers ++ [(t.pkg.nextId, 0 - BitVec.ofNat 64 e)]
      ∧ (e = 0 → ∃ a ∈ u.pkg.apps, a.n ∈ s.freeApps ∧ a.vdev = v ∧ a.pc = BitVec.ofNat 64 base))
    ∧ (∀ v l base frames tables e, (s.vdev v).isSome = true → manifestErr l = some e → s.loadImage v l base frames tables = some (s, e))
    ∧ (∀ m f i ea p (code : List DWord), s.images[m]? = some i → i.funcs[f]? = some (ea, p) → i.ready = true →
      i.hot.head? = some f → NSet.has i.swapped f = false → NSet.has i.failedF f = false → p % 2 = 0 →
      let n := (8 * code.length + 63) / 64 * 64
      (code = [] ∨ (i.free = [] ∧ i.heapEnd < i.heap + n) → ∃ t, exec (.functionSwap m f code) s = .next t ∧ t.mem = s.mem
        ∧ t.pkg.log = s.pkg.log ++ [.event i.vdev 0x21 (BitVec.ofNat 64 p)])
      ∧ (code ≠ [] → i.free = [] → i.heap + n ≤ i.heapEnd → ∃ t, exec (.functionSwap m f code) s = .next t ∧ t.groups = s.groups
        ∧ ∃ j, t.images[m]? = some j ∧ NSet.has j.swapped f = true ∧ j.heap = i.heap + n))
    ∧ (∀ d c q l u stop v quant w, (s.quad d c q).own = .shared l u stop → stop ≤ s.cycle d c → nextHolder l u = some (v, quant, w) →
      let t := s.modQuad d c q (fun x => { x with own := .shared l v (s.cycle d c + w * quant) })
      t.waiting v d c = [] → exec (.sliceEnd d c q) s = .next t)
    ∧ (∀ d num date, d < 4 → s.dies.length = 4 →
      (∃ t, exec (.reserveBringIn d 3 num date) s = .next t ∧ t.mem = s.mem ∧ (t.die d).reserves = (s.die d).reserves ++ [⟨3, num, date⟩])
      ∧ (∀ p l, num < 64 → s.freeReserve d = p :: l → (∀ g, g < s.groups.length → (s.grp g).holds = true →
          ¬((s.grp g).die = d ∧ (s.grp g).core = num)) → ∃ t, exec (.reserveBringIn d 1 num date) s = .next t ∧ t.mem = s.mem
            ∧ (t.core d num).phys = p ∧ (t.core d num).failed = false ∧ (t.die d).reserves = (s.die d).reserves ++ [⟨1, num, date⟩]))

/-- R380, R386, R397, R398: the part boots to stage 5, with the reserve that fused and recorded failures call for, or reports the stage
that failed and raises BIRQ with its MSI-X message, and goes no further but for stage 3; throttling changes nothing that a program computes; the
shutdown stops the part; a register of the mailbox takes what the host writes, a read-only one nothing; QTAIL has each request up to it read,
and a request of a system call becomes a call whose reply goes to the host.
R391, R394, R403, R410, R411: a replay is counted, and at 16 in succession the link retrains and holds its traffic; a first lane failure of
a direction takes the spare lane as reserve, a second leaves the link 4 lanes, which is counted and reported, as is a link that is down;
training brings a link up with its peer, the part's number and the routes. Nothing else of the machine changes but what waits, which tries
again; a link that is down takes what was reserved for a device of its peer before the commit (R409). A part to which every link has been
down for 2,250,000 cc is a lost route, before that it is not. (Reserve kind 5 in die 0's list with number 2n + direction, and the event
kinds 6, 7 and 8, are the model's choice, log 63.) -/
def Obligations.PartAndLinkEventsAct : Prop :=
  (∀ (s : State),
      (s.pkg.stage = 0 → s.pkg.bootFail = 0 → s.pkg.fused = [] → exec (.boot []) s = .next { s with pkg := { s.pkg with stage := 5 } })
      ∧ (∀ d n date, s.pkg.stage = 0 → s.pkg.bootFail = 0 → s.pkg.fused = [(d, ⟨3, n, date⟩)] → d < 4 → d < s.dies.length →
        ∃ t, exec (.boot []) s = .next t ∧ t.mem = s.mem ∧ t.pkg.stage = 5 ∧ (t.die d).reserves = (s.die d).reserves ++ [⟨3, n, date⟩])
      ∧ (s.pkg.stage = 0 → s.pkg.bootFail = 0 → s.pkg.fused = [] → ∀ k, 1 ≤ k → k ≤ 5 →
        exec (.boot [k]) s = .next { s with pkg := { s.pkg with
          stage := if k = 3 then 5 else k - 1
          bootFail := k
          box := { s.pkg.box with birq := true }
          msix := s.pkg.msix ++ [1]
          reports := s.pkg.reports ++ [.bootFail k] } })
      ∧ exec .thermalThrottle s = .next { s with pkg := { s.pkg with throttled := true } }
      ∧ (s.pkg.stopped = false → exec (.thermalShutdown false) s = .next
          { s with pkg := { s.pkg with stopped := true, reports := s.pkg.reports ++ [.stopped] } })
      ∧ (∀ (off : Nat) (w : Word), ∃ b, exec (.registerWrite off w) s = .next { s with pkg := { s.pkg with box := b } }
        ∧ (off = 0x08 → b = { s.pkg.box with qbase := s.pkg.box.qbase.extractLsb' 32 32 ++ w })
        ∧ (off = 0x0C → b = { s.pkg.box with qbase := w ++ s.pkg.box.qbase.extractLsb' 0 32 })
        ∧ (off = 0x10 → b = { s.pkg.box with qlog := w })
        ∧ (off = 0x20 → b = { s.pkg.box with pbase := s.pkg.box.pbase.extractLsb' 32 32 ++ w })
        ∧ (off = 0x24 → b = { s.pkg.box with pbase := w ++ s.pkg.box.pbase.extractLsb' 0 32 })
        ∧ (off = 0x28 → b = { s.pkg.box with plog := w })
        ∧ (off = 0x30 → b = { s.pkg.box with phead := w })
        ∧ (off = 0x34 → b = { s.pkg.box with birq := s.pkg.box.birq && !w.getLsbD 1, rirq := s.pkg.box.rirq && !w.getLsbD 0 })
        ∧ (off ∈ [0x00, 0x04, 0x18, 0x2C] → b = s.pkg.box))
      ∧ (∀ w, s.pkg.stage ≠ 5 ∨ w = s.pkg.box.qhead → exec (.qtail w) s = .next
          { s with pkg := { s.pkg with box := { s.pkg.box with qtail := w } } })
      ∧ (s.pkg.stage = 5 → s.pkg.box.reads = true →
        let a := s.pkg.box.qbase.toNat + 64 * (s.pkg.box.qhead.toNat % 2 ^ s.pkg.box.qlog.toNat)
        let w := fun (k : Nat) => leNat s.hostByte (a + 4 * k) 4
        let v := w 1
        (w 0 % 65536 ≤ 0x00E → (s.vdev v).isSome = true → 1 ≤ v → v ≤ 63 → (∀ k, k < 6 → w (10 + k) = 0) →
          ∃ t, exec (.qtail (s.pkg.box.qhead + 1)) s = .next t ∧ t.mem = s.mem ∧ t.groups = s.groups
            ∧ t.pkg.box.qhead = s.pkg.box.qhead + 1 ∧ t.calls = s.calls ++ [⟨s.pkg.nextId, .host v (w 0 / 65536), v, w 0 % 65536,
              (List.range 8).map (fun k => BitVec.ofNat 32 (w (2 + k))), none, false⟩])))
  ∧ (∀ (s : State) (n : Nat), n < 12 →
      let l := FMap.get Link.zero s.fab.links n
      let put := fun (k : Link) => ({ s with fab := { s.fab with links := FMap.set Link.zero s.fab.links n k } } : State)
      let tell := fun (t : State) (r : Report) => ({ t with pkg := { t.pkg with reports := t.pkg.reports ++ [r] } } : State)
      let more := fun (e : FMap Nat) (k : Nat) => FMap.set 0 e k (FMap.get 0 e k + 1)
      let event := fun (t : State) (kind m : Nat) =>
        tell { t with fab := { t.fab with linkEvents := more t.fab.linkEvents (64 * kind + m) } } (.link m (kind - 4))
      let leads := fun (k : Nat × Link) (part : Nat) => k.2.peer = part ∨ k.2.peer = FMap.get 64 s.fab.routes part
      (l.up = true → exec (.flitReplay n) s = .next (put { l with replays := l.replays + 1 }))
      ∧ (16 ≤ l.replays → exec (.linkRetrain n) s = .next (put { l with replays := 0, held := true }))
      ∧ (l.replays < 16 → exec (.linkRetrain n) s = .next s)
      ∧ (s.take (.goodFlit n) = some (put { l with replays := 0 }))
      ∧ (l.up = true → (∀ x ∈ s.fab.reserved, x.src = l.peer → x.state ≠ none) → exec (.linkDown n) s = .next
          (event (put { l with up := false, held := false, replays := 0, downAt := s.clock }) 7 n))
      ∧ (l.up = true → ∃ t, exec (.linkDown n) s = .next t ∧ ∀ x ∈ t.fab.reserved, ¬(x.src = l.peer ∧ x.state = none))
      ∧ (∀ (rx : Bool) date, let dir := if rx then 1 else 0
          (l.spare.getLsbD dir = true → exec (.laneFailure n rx date) s = .next (event (put { l with lanes := 4 }) 6 n))
          ∧ (l.spare.getLsbD dir = false → 0 < s.dies.length → ∃ t, exec (.laneFailure n rx date) s = .next t ∧ t.mem = s.mem ∧ t.groups = s.groups
            ∧ t.fab = (put { l with spare := l.spare ||| (1#2 <<< dir), held := true }).fab
            ∧ (t.die 0).reserves = (s.die 0).reserves ++ [⟨5, 2 * n + dir, date⟩]
            ∧ t.pkg.reports = s.pkg.reports ++ [.reserve 0 ⟨5, 2 * n + dir, date⟩, .link n 1]))
      ∧ (∀ peer own routes, peer ≤ 62 → own ≤ 62 → peer ≠ own → ∃ t, exec (.linkTrained n peer own routes) s = .next t ∧ t.mem = s.mem
        ∧ t.fab = { (put { l with up := true, peer := peer, held := false, replays := 0 }).fab with
            part := own, routes := FMap.setAll 64 s.fab.routes routes }
        ∧ t.reachable peer = true)
      ∧ (∀ part, s.reachable part = true → (∀ p ∈ s.fab.peers, p.pointed = true) → exec (.routeTimeout part) s = .next s)
      ∧ (∀ part, (∃ k ∈ s.fab.links, leads k part ∧ s.clock < k.2.downAt + 2250000) → (∀ p ∈ s.fab.peers, p.pointed = true) →
        exec (.routeTimeout part) s = .next s)
      ∧ (∀ part, s.reachable part = false → (∀ k ∈ s.fab.links, leads k part → k.2.up = false ∧ k.2.downAt + 2250000 ≤ s.clock) →
        (∃ t, exec (.routeTimeout part) s = .next t ∧ t.pkg.reports.getLast? = some (.link part 4))
        ∧ ((∀ g ∈ s.groups, g.alive = false) → s.tasks = [] → exec (.routeTimeout part) s = .next (event s 8 part))))

/-! ## Links, requests from outside and migration (20_fabric.md) -/

/-- R393, R396, R397, R350, R337, R404, R405: a request of a peer runs under the grant of its part and device, within its pages and rights, charged to
the device's link tokens on the die that holds its bytes and to its memory there, for which it waits, or is held or forwarded where the page
is; outside it, or past the end of its page, it is refused and logged; an unmapped byte is answered so; what is read is answered with its
poison, and poison that comes with the data is kept. A write of an outside requester in its grant stores its bytes, with Relaxed Ordering at
some later time, and waits for tokens and for a page that has not come; one that leaves its grant is discarded and logged with its first byte
outside, one to a page that it may not write logged as the violation it is; a read is answered with the bytes, or an error completion. BAR2
reaches the page that a window page maps, and no byte beyond it. A window's grant is of a device that exists, one for each importing device;
window pages map one device. (The die that logs a violation of a link or of a requester outside, and the device number 0xFF, are the model's
choice, log 71.) -/
def Obligations.OutsideRequestsServed : Prop :=
  ∀ (s : State),
    let out := fun (t : State) (src st : Nat) (l : List (Byte × Bool)) => ({ t with fab := { t.fab with
      outAnswers := t.fab.outAnswers ++ [(src, st, l)] } } : State)
    let bad := fun (src st a : Nat) => out (s.violate 0 false 7 0xFF src (BitVec.ofNat 64 a)) src st []
    (∀ link ipart ivdev ppg off kind n data psn, link < 12 → (s.link link).up = true → kind % 16 ≤ 3 → kind < 4096 →
      (∀ q ∈ s.fab.waiting, q.link ≠ link) →
      let deny := fun (a : Nat) => out (s.violate (link / 3) false 7 ivdev (0x50 + link) (BitVec.ofNat 64 (65536 * ppg + a))) (0x50 + link) 2 []
      let og := s.fab.grants.find? (fun g => g.ipart == ipart && g.ivdev == ivdev)
      let ty := kind / 256 % 16
      let len := if kind % 16 = 0 then n else if kind % 16 = 1 then data.length else if kind % 16 = 2 then tyWidth ty / 8 else redWidth ty / 8
      let ans := fun (k : Nat) (t : State) => exec (.peerRequest link ipart ivdev ppg off k n ⟨data, psn⟩) s = .next t
      (og = none → ans kind (deny off))
      ∧ (∀ g, og = some g → g.npg ≤ ppg ∨ (kind % 16 ≠ 0 ∧ g.w = false) ∨ (2 ≤ kind % 16 ∧ g.atm = false) → ans kind (deny off))
      ∧ (∀ g, og = some g → ppg < g.npg → (kind % 16 ≠ 0 → g.w = true) → (2 ≤ kind % 16 → g.atm = true) →
        (65536 < off + len → ans kind (deny (max off 65536)))
        ∧ (off + len ≤ 65536 →
        let va := g.base + 65536 * ppg + off
        let r : HeldReq := ⟨pageOf va, link + 16 * ipart, va % 65536, kind, n, data, psn, false⟩
        let c := (s.die (s.homeOf g.evdev va)).charge g.evdev 2 ((len + 63) / 64)
        let sent := modFirst (fun (m : MigOut) => m.vdev == g.evdev) (fun m => { m with fwd := m.fwd ++ [r] }) s.fab.migOut
        let kept := modFirst (fun (m : MigIn) => m.vdev == g.evdev) (fun m => { m with held := m.held ++ [r] }) s.fab.migIn
        let wait := ({ s with fab := { s.fab with waiting := s.fab.waiting ++ [⟨link, ipart, ivdev, ppg, off, kind, n, data, psn⟩] } } : State)
        (s.routeOf g.evdev r = .forward → ans kind { s with fab := { s.fab with migOut := sent } })
        ∧ (s.routeOf g.evdev r = .hold → s.migOf g.evdev = none → ans kind { s with fab := { s.fab with migIn := kept } })
        ∧ (s.routeOf g.evdev r = .perform → c = none → ans kind wait)
        ∧ (∀ x, s.routeOf g.evdev r = .perform → c = some x →
          let paid := (s.modD (s.homeOf g.evdev va) (fun _ => x)).charge 4 g.evdev
            [⟨65536 * pageOf va + va % 65536, len, if kind % 16 = 0 then .read else if kind % 16 = 1 then .write else .atomic⟩]
          (∀ e, paid = .error e → ans kind wait)
          ∧ (∀ t, paid = .ok t → let va := 65536 * pageOf va + va % 65536
            (∀ l, kind = 0 → t.readN 4 g.evdev va n = .ok l → ans 0 (out t (0x50 + link) 0 l))
            ∧ (∀ e, kind = 0 → t.readN 4 g.evdev va n = .error e → ans 0 (out t (0x50 + link) 1 []))
            ∧ (∀ u, kind = 1 → t.land 4 g.evdev va data psn = .ok u → ans 1 (out u (0x50 + link) 0 []))
            ∧ (∀ l u b, kind % 16 = 2 → let w := tyWidth ty / 8
              let num := fun (l : List Byte) => leNat (fun j => l.getD j 0) 0 w
              t.locate 4 g.evdev va .atomic = .ok b → t.readN 4 g.evdev va w = .ok l →
              t.writeN 4 g.evdev va (l.any (fun b => b.2) || !psn.isEmpty) (leBytes (atomOp (kind / 16 % 16) (8 * w) (tySigned ty)
                (num (l.map (fun b => b.1))) (num data) (num (data.drop w))) w) = .ok u → ans kind (out u (0x50 + link) 0 l)))))))
    ∧ (∀ d v va (data : List Byte) t, s.land d v va data [] = .ok t ↔ ∃ u, s.writeN d v va false data = .ok u ∧ t = u.clearPsn d v va data.length)
    ∧ (∀ src v (va : DWord) data rl, 0x40 ≤ src → src ≤ 0x48 → data ≠ [] →
      let put := fun (t : State) => exec (.outsideWrite src v va data rl) s = .next t
      let may := fun (k : Nat) => s.outGranted src v (va.toNat + k) 1 true = true
      let held := ({ s with fab := { s.fab with outHeld := s.fab.outHeld ++ [⟨src, v, va.toNat, data, 0, rl⟩] } } : State)
      (∀ k, k < data.length → (∀ j, j < k → may j) → ¬may k → put (bad src 4 (va.toNat + k)))
      ∧ ((∀ k, k < data.length → may k) →
        (rl = true → put held)
        ∧ (rl = false → s.fab.outHeld = [] → let paid := s.charge 4 v [⟨va.toNat, data.length, .write⟩]
          (∀ e, paid = .error e → put held)
          ∧ (∀ c t, paid = .ok c → c.land 4 v va.toNat data [] = .ok t → put t)
          ∧ (∀ c a, paid = .ok c → c.land 4 v va.toNat data [] = .error (a, 6) → put held)
          ∧ (∀ c a k, paid = .ok c → c.land 4 v va.toNat data [] = .error (a, k) → k ≠ 2 → k ≠ 6 → put (bad src 4 a))
          ∧ (∀ c a p, paid = .ok c → c.land 4 v va.toNat data [] = .error (a, 2) → s.violOf 4 v a .write = some (false, 2, p) →
            put (out (s.violate 0 false 2 0xFF src p) src 4 [])))))
    ∧ (∀ src v (va : DWord) n, 0x40 ≤ src → src ≤ 0x48 → n ≠ 0 →
      let may := fun (k : Nat) => s.outGranted src v (va.toNat + k) 1 false = true
      (∀ k, k < n → (∀ j, j < k → may j) → ¬may k → exec (.outsideRead src v va n) s = .next (bad src 3 (va.toNat + k)))
      ∧ (∀ c l, (∀ k, k < n → may k) → s.fab.outHeld = [] → s.charge 4 v [⟨va.toNat, n, .read⟩] = .ok c → c.readN 4 v va.toNat n = .ok l →
        exec (.outsideRead src v va n) s = .next (out c src 0 l)))
    ∧ (∀ win off n data rl, n ≠ 0 → data ≠ [] → off < 65536 → let om := s.fab.bar2.find? (fun m => m.win == win)
      let at' := 65536 * win + off
      (om = none → exec (.bar2Access win off n .read data) s = .next (bad 0x48 3 at')
        ∧ exec (.bar2Access win off n (.write rl) data) s = .next (bad 0x48 4 at'))
      ∧ ((∀ m ∈ s.fab.bar2, m.win = win → m.w = false) → exec (.bar2Access win off n (.write rl) data) s = .next (bad 0x48 4 at'))
      ∧ (∀ m, om = some m → 65536 < off + n → exec (.bar2Access win off n .read data) s = .next (bad 0x48 3 (65536 * (win + 1))))
      ∧ (∀ m c l, om = some m → off + n ≤ 65536 → s.fab.outHeld = [] → let va := 65536 * m.page + off
        s.charge 4 s.fab.bar2Dev [⟨va, n, .read⟩] = .ok c → c.readN 4 s.fab.bar2Dev va n = .ok l →
        exec (.bar2Access win off n .read data) s = .next (out c 0x48 0 l))
      ∧ (∀ m, om = some m → m.w = true → off + data.length ≤ 65536 → let va := 65536 * m.page + off
        (rl = true → exec (.bar2Access win off n (.write rl) data) s = .next { s with fab := { s.fab with
          outHeld := s.fab.outHeld ++ [⟨0x48, s.fab.bar2Dev, va, data, 0, true⟩] } })
        ∧ (∀ c t, rl = false → s.fab.outHeld = [] → s.charge 4 s.fab.bar2Dev [⟨va, data.length, .write⟩] = .ok c →
          c.land 4 s.fab.bar2Dev va data [] = .ok t → exec (.bar2Access win off n (.write rl) data) s = .next t)))
    ∧ (∀ v (m : Bar2), (s.vdev v).isSome = true → m.win < 65536 → ∃ t, exec (.bar2MappingConfiguration v m) s = .next t ∧ t.mem = s.mem
      ∧ t.fab.bar2Dev = v ∧ t.fab.bar2.find? (fun x => x.win == m.win) = some m
      ∧ (s.fab.bar2Dev ≠ v → t.fab.bar2 = [m]))
    ∧ (∀ (g : Grant) va tb, grantOk g = true → (s.vdev g.evdev).isSome = true →
      ∃ t, exec (.peerWindowConfiguration g s.fab.part va tb) s = .next t ∧ t.mem = s.mem
        ∧ t.fab.grants.find? (fun x => x.ipart == g.ipart && x.ivdev == g.ivdev) = some g)

/-- R399, R400, R401, R402, R404, R407, R409: the phases of a device that leaves. A request that the destination accepts begins the move;
quiescing admits nothing more and makes each page Owned; the state is sent encrypted, with a signature over its digest, once every workgroup
is saved and no call is left but those that wait for a condition; the commit ends the device's work here and leaves the calls outstanding
to be completed (R408), a refusal keeps it and answers −3; a page demanded or pushed is
Leaving, then in transit with its image behind every begun write, and Gone with its acknowledgement, when what it held is forwarded, each
part's requests in their order; the release answers 0 (−3 where the destination was lost) and the device is no longer here.
R402, R404, R407, R408: a device that arrives. Its state is put back into the device reserved for it, with the grants of its memory, and
its own pages are absent; a demand is kept with the die that waits; a page that arrives in the frame reserved for it is absent no more; with
the last marker of a peer the requests that it held are performed, at the source the marker goes on behind that peer's requests, and behind
those of its link that wait for tokens. On a peer, the markers go out on every link that leads to the source, and the leaves onto the source
name the destination. (When a Leaving page goes into transit, and which outstanding calls move with the device, is the model's reading, log
69.) -/
def Obligations.DevicesMigrate : Prop :=
  (∀ (s : State) (v : Nat),
      let mv := fun (i : Instr) (t : State) => exec i s = .next t
      (∀ tag seq dest d, s.pkg.stage = 5 → s.pkg.mgmtSeq < seq → (tag, seq) ∉ s.pkg.mgmtOpen → s.migOf v = none → s.vdev v = some d →
        let src := ReqSrc.mgmt tag seq true
        let told := fun (res : DWord) => ({ s with pkg := { s.pkg with
          mgmtSeq := seq
          reports := s.pkg.reports ++ datagrams tag seq res [] [] } } : State)
        let near := s.fab.links.any (fun l => l.2.up && l.2.peer == dest)
        let a := 3 + 16 * (2 * seq.toNat + 1)
        let heard : State := { s with pkg := { s.pkg with mgmtSeq := seq, mgmtOpen := s.pkg.mgmtOpen ++ [(tag, seq)] } }
        let fails := fun (ok : Bool) (res : DWord) => ∃ t, mv (.migrate src v dest ok) t ∧ t.mem = s.mem ∧ t.groups = s.groups ∧ t.fab = s.fab
          ∧ t.pkg = (told res).pkg
        (∀ ok, near = false → mv (.migrate src v dest ok) (told (-2)))
        ∧ (∀ ok, near = true → (∃ x l, heard.actions v = x :: l ∧ x ≠ a) ∨ s.outsideBound v = true → fails ok (-5))
        ∧ (near = true → d.actions = [] → s.outsideBound v = false → fails false (-3))
        ∧ (near = true → d.actions = [] → s.outsideBound v = false → ∃ t, mv (.migrate src v dest true) t ∧ t.mem = s.mem
          ∧ t.groups = s.groups ∧ t.migOf v = some ⟨v, dest, 1, [], [], [], [], [], none, [], [], [], false, src⟩ ∧ t.actions v = [a]
          ∧ t.pkg.mgmtSeq = seq ∧ t.pkg.mgmtOpen = s.pkg.mgmtOpen ++ [(tag, seq)]))
      ∧ (∀ m d, s.migOf v = some m → s.vdev v = some d → m.phase = 1 → ∃ t k, mv (.migrationQuiesce v) t ∧ t.quiesced v = true
        ∧ t.migOf v = some k ∧ k.phase = 2 ∧ k.dest = m.dest ∧ (∀ p ∈ k.pages, p.2 = .owned)
        ∧ k.pages.map (fun p => p.1) = ((s.mapped v).filter (fun p => !entPeer p.2.1)).map (fun p => p.1))
      ∧ (∀ m, s.migOf v = some m → m.phase = 2 → s.allSaved v = true →
        (∀ c ∈ s.calls, c.vdev = v → c.fromHost = true ∨ c.res.isSome = true ∨ c.num ∈ [1, 3, 0xA, 0xD]) →
        ∃ t k, mv (.migrationSend v) t ∧ t.groups = s.groups ∧ t.migOf v = some k ∧ k.phase = 3 ∧ k.pages = m.pages
          ∧ k.digest.length = 32 ∧ k.sig = Config.field 64 (Config.sm2Sign k.digest) ∧ ∃ st, k.sent = some st
          ∧ (∀ c ∈ st.calls, c.res = none → c.away = true) ∧ k.digest = Config.field 32 (Config.sm3 (Config.stateBytes st))
          ∧ k.cipher = Config.sm4Enc (Config.moveKey s.fab.part m.dest v) (Config.stateBytes st))
      ∧ (∀ m, s.migOf v = some m → m.phase = 3 → ∃ t k, mv (.migrationCommit v true none) t ∧ t.migOf v = some k ∧ k.phase = 6
        ∧ k.pages = m.pages ∧ (∀ g, g < s.groups.length → (s.grp g).vdev = v → (t.grp g).alive = false)
        ∧ (∀ q ∈ t.queues, q.vdev ≠ v) ∧ (∀ l ∈ t.launches, l.vdev ≠ v) ∧ (∀ a ∈ t.pkg.apps, a.vdev ≠ v)
        ∧ ∀ c ∈ s.calls, c.vdev = v → c.fromHost = false → c.res = none → (m.dest, v, c) ∈ t.fab.owed)
      ∧ (∀ m tag seq ok, s.migOf v = some m → m.phase ≤ 3 → m.req = .mgmt tag seq ok → ∃ t, mv (.migrationCommit v false none) t
        ∧ t.migOf v = none ∧ t.quiesced v = false ∧ t.pkg.reports = s.pkg.reports ++ datagrams tag seq (-3) [] [])
      ∧ (∀ m p, s.migOf v = some m → m.phase = 6 → m.pageSt p = some .owned →
        let gone := fun (t : State) => t.mem = s.mem ∧ t.groups = s.groups ∧ ∃ k, t.migOf v = some k ∧ k.pageSt p = some .leaving
          ∧ (∀ q, q ≠ p → k.pageSt q = m.pageSt q) ∧ k.shipped = m.shipped ∧ k.held = m.held
        (s.pageHead v p = p → ∀ die, ∃ t, mv (.demandRequest v p die true) t ∧ gone t)
        ∧ (s.nextPush m = some p → ∃ t, mv (.pagePush v) t ∧ gone t))
      ∧ (∀ m p e, s.migOf v = some m → m.pageSt p = some .leaving → (s.mapped v).find? (fun y => y.1 == p) = some e →
        runAct (.depart v p) s = .next (s.depart v p) ∧ ∃ k, (s.depart v p).migOf v = some k ∧ k.pageSt p = some .transit
          ∧ k.shipped = m.shipped ++ [s.drainAll.pageImg v e])
      ∧ (∀ m p fr, s.migOf v = some m → m.pageSt p = some .transit → ∃ t k l, mv (.pageArrival v p fr none) t ∧ t.mem = s.mem
        ∧ t.migOf v = some k ∧ k.pageSt p = some .gone ∧ k.fwd = m.fwd ++ l
        ∧ (∀ part, m.held.filter (fun r => r.part == part) = l.filter (fun r => r.part == part) ++ k.held.filter (fun r => r.part == part))
        ∧ ((∀ r ∈ m.held, s.pageHead v r.page = p) → k.held = []))
      ∧ (∀ m peer a b, s.migOf v = some m → ∃ t k, mv (.peerSwitch v peer a b false) t ∧ t.mem = s.mem ∧ t.migOf v = some k
        ∧ NSet.has k.switched peer = true ∧ k.pages = m.pages)
      ∧ (∀ m tag seq ok, s.migOf v = some m → m.phase = 6 → m.req = .mgmt tag seq ok →
        m.lost = true ∨ ((∀ p ∈ m.pages, p.2 = .gone) ∧ m.held = []
          ∧ ∀ g ∈ s.fab.grants, g.evdev = v → NSet.has m.switched g.ipart = true) → ∃ t, mv (.migrationRelease v) t ∧ t.migOf v = none
        ∧ t.vdev v = none ∧ t.pkg.reports = s.pkg.reports ++ datagrams tag seq (if m.lost then -3 else 0) [] []))
  ∧ (∀ (s : State) (v : Nat),
      (∀ src sdev (st : ExecState) marks d, (⟨src, sdev, v, some (Config.stateBytes st)⟩ : Reserved) ∈ s.fab.reserved → s.vdev v = some d → st.maps = [] →
        s.migTo v = none →
        ∃ t m, exec (.migrationResume v src st marks [] []) s = .next t ∧ t.groups.length = s.groups.length + st.groups.length
          ∧ t.migTo v = some m ∧ m.src = src ∧ m.absent = [] ∧ m.markers = marks ∧ m.held = []
          ∧ t.launches.map (fun l => l.id) = (s.launches ++ st.launches).map (fun l => l.id)
          ∧ (∀ g ∈ st.grants, { g with evdev := v } ∈ t.fab.grants) ∧ ∀ x ∈ t.fab.reserved, x.vdev ≠ v)
      ∧ (∀ m p die, s.migTo v = some m → s.pageHead v p = p → NSet.has m.absent p = true → FMap.get 0 m.demanded p = 0 → die < 4 →
        ∃ t, exec (.demandRequest v p die false) s = .next t ∧ t.mem = s.mem
          ∧ t.migTo v = some { m with demanded := FMap.set 0 m.demanded p (die + 1) })
      ∧ (∀ m p e (img : PageImg), s.fab.migIn.filter (fun k => k.vdev == v) = [m] → (s.mapped v).find? (fun y => y.1 == p) = some e → NSet.has m.absent p = true →
        img.page = p → img.bytes.length = 65536 * pageFrames e.2.2 →
        paDie (entFrame e.2.1) = (if FMap.get 0 m.demanded p = 0 then p % 4 else FMap.get 0 m.demanded p - 1) →
        ∃ t, exec (.pageArrival v p (entFrame e.2.1) (some img)) s = .next t ∧ t.absentPage v p = false)
      ∧ (∀ m link peer, s.migOf v = none → s.fab.migIn.filter (fun k => k.vdev == v) = [m] → (∀ q ∈ s.fab.waiting, q.link ≠ link) →
        ∃ t, exec (.switchMarker v link peer) s = .next t
          ∧ (∀ k, t.migTo v = some k → (peer, link) ∉ k.markers) ∧ (m.held = [] → t.mem = s.mem))
      ∧ (∀ m link peer, s.migOf v = some m → link < 12 → (∀ h ∈ m.held, h.part ≠ peer) → (∀ q ∈ s.fab.waiting, q.link ≠ link) →
        ∃ t k, exec (.switchMarker v link peer) s = .next t ∧ t.mem = s.mem ∧ t.migOf v = some k
          ∧ k.fwd = m.fwd ++ [⟨0, link + 16 * peer, 0, 4, 0, [], [], true⟩] ∧ k.held = m.held)
      ∧ (∀ link peer, (∃ q ∈ s.fab.waiting, q.link = link) → exec (.switchMarker v link peer) s = .next { s with fab := { s.fab with
          waiting := s.fab.waiting ++ [⟨link, peer, v, 0, 0, 4, 0, [], []⟩] } })
      ∧ (∀ peer src dest, ((s.mapped v).filter (fun m => entPeer m.2.1 && bitsOf m.2.1 39 34 == src)) ≠ [] → dest ≤ 62 → src ≠ dest →
        ∃ t, exec (.peerSwitch v peer src dest true) s = .next t ∧ t.groups = s.groups ∧ (∀ p ∈ t.fab.peers, ¬(p.part = src ∧ p.vdev = v))
          ∧ t.fab.markersOut = s.fab.markersOut ++ (if s.linksTo src = [] then s.linksTo (FMap.get 64 s.fab.routes src) else s.linksTo src).map
            (fun k => (k, v))))

/-! ## The machine as a whole -/

/-- After reset the part is at boot stage 0 with failure code 0 (Table 20-3) and runs; its four dies (R2) list no translation, cached code or
error; there is no workgroup, device, region, launch, queue, run or link; memory lists nothing, so every byte reads 0, without poison.
No core holds a line of code, an owned bank group or an activation bank; nothing is on its way between dies, nothing comes from outside.
(What memory and the empty structures read as is the model's choice, log entries 1, 3, 4 and 5.) -/
def Obligations.ResetLeaves : Prop :=
  let s := State.reset
  s.wf = true ∧ s.pkg.stage = 0 ∧ s.pkg.bootFail = 0 ∧ s.pkg.stopped = false ∧ s.dies.length = 4
  ∧ (∀ a, s.pbyte a = 0 ∧ s.psn a = false)
  ∧ s.groups = [] ∧ s.vdevs = [] ∧ s.regions = [] ∧ s.launches = [] ∧ s.queues = [] ∧ s.spinners = [] ∧ s.fab.links = []
  ∧ (∀ d, (s.die d).icache = [] ∧ (s.die d).tlb = [] ∧ (s.die d).faults = [] ∧ (s.die d).reserves = [] ∧ (s.die d).paths = []
    ∧ (s.die d).moves = [] ∧ ∀ c, (s.core d c).l1 = [] ∧ (s.core d c).groups = [] ∧ (s.core d c).banks = [])
  ∧ s.inputs = [] ∧ s.agenda = [] ∧ s.pkg.apps = [] ∧ s.fab.unack = [] ∧ s.pack.ts = []

/-- A step runs what is decoded (R65, R66, R77, R78, R86, R171, R265, R282). An input is taken. Where nothing of the inputs, the counters or the
agenda comes first and a pack in issue stands ready and together, in a warp that no fold is taking: a native word behind a header that
decodes to i runs as exec of i after its code line is fetched, then the issue ends (and the YLD hint of the clause applies after its last
word); a header runs as the clause boundary, after which the pick goes on with the threads that have passed; a Prerin run of words that
decodes to i runs as exec of i; a word that does not decode traps 0x01; a word that cannot be fetched is waited for. An event on the agenda
runs as exec of it. Without a pack the step takes its turn by its number. In every case what a queue then publishes is delivered,
waits whose condition has ended end, and what the units then have room for is placed and reported.
R386: once the part has stopped, no step has a next state.
In every state every instruction of every form has a next state: what it cannot do now it waits for, and what it must not do
traps. -/
def Obligations.StepRunsTheDecodedInstruction : Prop :=
  (∀ (s : State), s.pkg.stopped = false →
      let s0 := { s with clock := s.clock + 1, inputs := s.inputs.tail }
      let with' := fun (o : Host.Outcome State Fault Refusal) (f : State → State) => (match o with
        | .next t => .next (f t).endOfStep
        | .fault r => .fault r
        | .refused r => .refused r : Host.Outcome State Fault Refusal)
      (∀ i l, s.inputs = i :: l → i ≠ .pass → step s = .next ({ s0 with agenda := s0.timed ++ s.agenda }.input i).endOfStep)
      ∧ (∀ e l, s.inputs.headD .pass = .pass → s0.timed ++ s.agenda = e :: l → e.view = .event →
        step s = with' (exec e { s0 with agenda := l }) id)
      ∧ (s.inputs.headD .pass = .pass → s0.timed = [] → s.agenda = [] → s.pack.ts = [] →
        step s = with' (runTurn (s.turn.headD s.clock) { s0 with turn := s.turn.tail }) id)
      ∧ (∀ t0 r, s.inputs.headD .pass = .pass → s0.timed = [] → s.agenda = [] → s.pack.ts = t0 :: r → s.pwrp.fold = none →
        (∀ u ∈ s.pack.ts, (s.pthr u).ready = true ∧ (s.pthr u).together (s.pthr t0) = true) →
        let x := s.pthr t0
        let d := s.pgrp.die
        let c := s.pgrp.core
        let v := s.pgrp.vdev
        let at' := if x.tix = 0 then x.pc.toNat else x.pc.toNat + 8 * x.tix
        (x.mode = .native → x.pc.toNat + 8 * x.tix < 2 ^ 64 →
          (∀ s1 w, s0.fetchWord d c v at' = .ok (s1, w) →
            (∀ i, decodeNative w = .ok i → x.tix ≠ 0 → (∀ h, i ≠ .clauseBoundary h) →
              step s = with' (exec i s1) (fun t => (State.afterIssue s.pack .native t).yieldHint s.pack.g s.pack.w x))
            ∧ (∀ h, decodeNative w = .ok (.clauseBoundary h) → x.tix = 0 →
              step s = with' (exec (.clauseBoundary h) s1) (fun t => t.passedHeader))
            ∧ (∀ e, decodeNative w = .error e → x.tix ≠ 0 → step s = .next (s1.badWord w).endOfStep))
          ∧ (∀ s1, s0.fetchWord d c v at' = .error s1 → step s = .next (s1.fetchWait at').endOfStep))
        ∧ (∀ ws gap s1, x.mode = .prerin → (∀ u ∈ s.pack.ts, (s.pthr u).noticeDue = false) →
          s0.fetchPrerin d c v x.pc.toNat 4 = (ws, gap) → s0.fillWords d c v x.pc.toNat ws.length = .ok s1 →
          (∀ i k, decodePrerin ws = .ok (i, k) → step s = with' (exec i s1) (State.afterIssue s.pack .prerin))
          ∧ (∀ e w, decodePrerin ws = .error (e, w) → e ≠ .noWord → step s = .next (s1.badWord (w.setWidth 64)).endOfStep))))
  ∧ (∀ s : State, s.pkg.stopped = true → step s = .fault .stopped)
  ∧ (∀ (i : Instr) (s : State), ∃ t, exec i s = .next t)

/-- Words that the spec writes out (Tables 4-5, 5-3, 7-5, 8-11, 10-9, 11-3 and R87) decode to the instructions they stand for. -/
def Obligations.WordsDecodeAsWritten : Prop :=
  decodeNative 0x0077_0200_0000_0000 = .ok (.mul ⟨7, 2, 0, 0, 0, 0, false, false⟩)
  ∧ decodeNative 0x0157_0100_0002_0800 = .ok (.shl ⟨7, 1, 0, 0, 2, 0x800, false, false⟩)
  ∧ decodeNative 0x0057_0501_0300_0073 = .ok (.addx ⟨7, 5, 1, 3, 0, 0x073, false, false⟩)
  ∧ decodeNative 0x0817_0503_0405_0029 = .ok (.cvtpk ⟨7, 5, 3, 4, 5, 0x029, false, false⟩)
  ∧ decodeNative 0x0C07_2414_0607_0003 = .ok (.shfl ⟨7, 0x24, 0x14, 6, 7, 3, false, false⟩)
  ∧ decodeNative 0x1087_0002_0000_0002 = .ok (.xbarWait ⟨7, 0, 2, 0, 0, 2, false, false⟩)
  ∧ decodeNative 0x1807_0302_0200_0005 = .ok (.cpy ⟨7, 3, 2, 2, 0, 5, false, false⟩)
  ∧ decodeNative 0x2417_0004_050A_0002 = .ok (.mtile ⟨7, 0, 4, 5, 10, 2, false, false⟩)
  ∧ decodeNative 0x2427_0701_0014_8000 = .ok (.mcvt ⟨7, 7, 1, 0, 20, 0, true, false⟩)
  ∧ decodeNative 0x2837_1002_0000_0000 = .ok (.qdeq ⟨7, 16, 2, 0, 0, 0, false, false⟩)
  ∧ decodeNative 0x2C47_1000_0000_0800 = .ok (.rres ⟨7, 16, 0, 0, 0, 0x800, false, false⟩)
  ∧ decodeNative 0x3000_FFFF_FBFF_0000 = .ok (.bra ⟨0, 0xFF, 0xFF, 0xFB, 0xFF, 0, false, false⟩)
  ∧ decodeNative 0x3437_0700_0000_000E = .ok (.srd ⟨7, 7, 0, 0, 0, 0xE, false, false⟩)
  ∧ decodeNative 0x41F0_4050_42E1_20C0 = .ok (.pWord ⟨3, 7, 4, 5, 0⟩ ⟨0x42, 7, 9, 6, 0⟩)
  ∧ decodeNative 0x8010_3C40_0000_0000 = .ok (.clauseBoundary ⟨4, 0, 15, 2, false⟩)
  ∧ decodePrerin [0xFFE0_0001, 0x00C7_1007] = .ok (.addPrerin ⟨false, false, ⟨7, 7, 4, 0, 1, 0x800, false, false⟩, 0⟩, 2)

/-- Decoding and encoding agree on native words: every well-formed native instruction, P word and header has a word that decodes to it. -/
def Obligations.NativeEncodingRoundTrip : Prop :=
  ∀ i : Instr, i.wellFormed = true → (∀ o p, i.view ≠ .prerin o p) → (∀ w, i.view ≠ .illP w) → i.view ≠ .event →
    ∃ w, encodeNative i = some w ∧ decodeNative w = .ok i

/-- Decoding and encoding agree on Prerin: the words of a well-formed Prerin instruction, with any words behind them, decode to it, and all of
them are read. -/
def Obligations.PrerinEncodingRoundTrip : Prop :=
  ∀ (i : Instr) (rest : List Word), i.wellFormed = true → (∃ o p, i.view = .prerin o p) ∨ (∃ w, i.view = .illP w) →
    decodePrerin (encode i ++ rest) = .ok (i, (encode i).length)

/-- A native word that decodes gives a well-formed instruction whose word it is, so that no two words decode to one instruction. -/
def Obligations.NativeDecodingIsExact : Prop :=
  ∀ (w : DWord) (i : Instr), decodeNative w = .ok i → i.wellFormed = true ∧ encodeNative i = some w

/-- Every step keeps physical memory in its canonical form: addresses strictly rising, no entry equal to what an unlisted address reads as.
Every step leaves the part its four compute dies (R2). -/
def Obligations.StepsKeepMemoryCanonical : Prop :=
  (∀ s t : State, s.wf = true → step s = .next t → t.wf = true)
  ∧ (∀ s t : State, s.dies.length = 4 → step s = .next t → t.dies.length = 4)

/-- Physical memory keeps what is written: a byte reads as it was last written and no other changes (R320); a range that is zeroed reads 0 with
poison clear (R316, R376), and a copied one reads as its source (R325), each behind the writes that were on their way. -/
def Obligations.PhysicalMemoryKeepsBytes : Prop :=
  ∀ (s : State), s.wf = true →
    (∀ pa (l : List Byte) a, (s.setPbytes pa l).pbyte a = if pa ≤ a ∧ a < pa + l.length then l.getD (a - pa) 0 else s.pbyte a)
    ∧ (∀ pa n a, (s.zeroPhys pa n).pbyte a = if pa ≤ a ∧ a < pa + n then 0 else s.drainAll.pbyte a)
    ∧ (∀ pa n a, pa % 32 = 0 → n % 32 = 0 →
      (s.zeroPhys pa n).psn a = if pa ≤ a ∧ a < pa + n then false else s.drainAll.psn a)
    ∧ (∀ a b n k, (s.copyPhys a b n).pbyte k = if b ≤ k ∧ k < b + n then s.drainAll.pbyte (k - b + a) else s.drainAll.pbyte k)
end

