-- ==== Sys2Proof/Laws/Map.lean ====
section
/-! SUPPORT. Laws of sparse maps and of lists changed at one place: read after write, and that every operation keeps the
canonical form. -/
namespace Sys2Proof.Machine

/-! ## Lists changed at one position -/

@[simp] theorem modAt_length {α : Type} (l : List α) (n : Nat) (f : α → α) : (modAt l n f).length = l.length := by
  induction l generalizing n with
  | nil => rfl
  | cons x l ih => cases n with
    | zero => rfl
    | succ n => simp [modAt, ih]

theorem modAt_getD_same {α : Type} (l : List α) (n : Nat) (f : α → α) (d : α) (h : n < l.length) :
    (modAt l n f).getD n d = f (l.getD n d) := by
  induction l generalizing n with
  | nil => simp at h
  | cons x l ih => cases n with
    | zero => rfl
    | succ n => simpa [modAt] using ih n (by simpa using h)

theorem modAt_getD_other {α : Type} (l : List α) (n k : Nat) (f : α → α) (d : α) (h : k ≠ n) :
    (modAt l n f).getD k d = l.getD k d := by
  induction l generalizing n k with
  | nil => rfl
  | cons x l ih => cases n with
    | zero => cases k with
      | zero => exact absurd rfl h
      | succ k => rfl
    | succ n => cases k with
      | zero => rfl
      | succ k => simpa [modAt] using ih n k (by simpa using h)

theorem modAt_modAt {α : Type} (l : List α) (n : Nat) (f g : α → α) : modAt (modAt l n f) n g = modAt l n (g ∘ f) := by
  induction l generalizing n with
  | nil => rfl
  | cons x l ih => cases n with
    | zero => rfl
    | succ n => simp [modAt, ih]

/-- A change that changes nothing at its place changes nothing. -/
theorem modAt_id {α : Type} (l : List α) (n : Nat) : modAt l n (fun x => x) = l := by
  induction l generalizing n with
  | nil => rfl
  | cons x l ih => cases n with
    | zero => rfl
    | succ n => simp [modAt, ih]

/-- Two changes that agree on the element that stands there are one. -/
theorem modAt_congr {α : Type} (l : List α) (n : Nat) (f g : α → α) (d : α) (h : f (l.getD n d) = g (l.getD n d)) :
    modAt l n f = modAt l n g := by
  induction l generalizing n with
  | nil => rfl
  | cons x l ih => cases n with
    | zero => simpa [modAt] using h
    | succ n => simpa [modAt] using ih n (by simpa using h)

/-! ## Sparse maps -/

theorem FMap.wfFrom_mono {α : Type} [DecidableEq α] (d : α) {lo hi : Nat} (h : lo ≤ hi) (m : FMap α)
    (hm : FMap.wfFrom d hi m = true) : FMap.wfFrom d lo m = true := by
  cases m with
  | nil => rfl
  | cons e m =>
    simp only [FMap.wfFrom, Bool.and_eq_true, decide_eq_true_eq] at hm ⊢
    exact ⟨⟨le_trans h hm.1.1, hm.1.2⟩, hm.2⟩

/-- Below its least key a canonical map reads as the default. -/
theorem FMap.get_below {α : Type} [DecidableEq α] (d : α) {lo k : Nat} (m : FMap α) (hm : FMap.wfFrom d lo m = true)
    (h : k < lo) : FMap.get d m k = d := by
  cases m with
  | nil => rfl
  | cons e m =>
    simp only [FMap.wfFrom, Bool.and_eq_true, decide_eq_true_eq] at hm
    have : k < e.1 := lt_of_lt_of_le h hm.1.1
    simp [FMap.get, Nat.ne_of_lt this, this]

/-- A write keeps the canonical form. -/
theorem FMap.set_wfFrom {α : Type} [DecidableEq α] (d : α) (lo : Nat) (m : FMap α) (k : Nat) (v : α) (hk : lo ≤ k)
    (hm : FMap.wfFrom d lo m = true) : FMap.wfFrom d lo (FMap.set d m k v) = true := by
  induction m generalizing lo with
  | nil =>
    by_cases hv : v = d <;> simp [FMap.set, hv, FMap.wfFrom, hk]
  | cons e m ih =>
    obtain ⟨k', v'⟩ := e
    simp only [FMap.wfFrom, Bool.and_eq_true, decide_eq_true_eq] at hm
    obtain ⟨⟨h1, h2⟩, h3⟩ := hm
    by_cases hkk : k = k'
    · subst hkk
      by_cases hv : v = d
      · simpa [FMap.set, hv] using FMap.wfFrom_mono d (by omega) m h3
      · simp [FMap.set, hv, FMap.wfFrom, h1, h3]
    · by_cases hlt : k < k'
      · by_cases hv : v = d
        · simp [FMap.set, hkk, hlt, hv, FMap.wfFrom, h1, h2, h3]
        · simp [FMap.set, hkk, hlt, hv, FMap.wfFrom, hk, h2, h3]
      · simp only [FMap.set, if_neg hkk, if_neg hlt, FMap.wfFrom, Bool.and_eq_true, decide_eq_true_eq]
        exact ⟨⟨h1, h2⟩, ih (k' + 1) (by omega) h3⟩

theorem FMap.set_wf {α : Type} [DecidableEq α] (d : α) (m : FMap α) (k : Nat) (v : α) (hm : FMap.wf d m = true) :
    FMap.wf d (FMap.set d m k v) = true := FMap.set_wfFrom d 0 m k v (Nat.zero_le k) hm

theorem FMap.setAll_wf {α : Type} [DecidableEq α] (d : α) (m : FMap α) (l : List (Nat × α)) (hm : FMap.wf d m = true) :
    FMap.wf d (FMap.setAll d m l) = true := by
  induction l generalizing m with
  | nil => exact hm
  | cons e l ih => exact ih _ (FMap.set_wf d m e.1 e.2 hm)

/-- A read after a write to the same key gives the value written. -/
theorem FMap.get_set_same {α : Type} [DecidableEq α] (d : α) (lo : Nat) (m : FMap α) (k : Nat) (v : α)
    (hm : FMap.wfFrom d lo m = true) : FMap.get d (FMap.set d m k v) k = v := by
  induction m generalizing lo with
  | nil => by_cases hv : v = d <;> simp [FMap.set, hv, FMap.get]
  | cons e m ih =>
    obtain ⟨k', v'⟩ := e
    simp only [FMap.wfFrom, Bool.and_eq_true, decide_eq_true_eq] at hm
    by_cases hkk : k = k'
    · subst hkk
      by_cases hv : v = d
      · simpa [FMap.set, hv] using FMap.get_below d m hm.2 (Nat.lt_succ_self k)
      · simp [FMap.set, hv, FMap.get]
    · by_cases hlt : k < k'
      · by_cases hv : v = d <;> simp [FMap.set, hkk, hlt, hv, FMap.get]
      · simpa [FMap.set, hkk, hlt, FMap.get] using ih (k' + 1) hm.2

/-- A write leaves every other key alone. -/
theorem FMap.get_set_other {α : Type} [DecidableEq α] (d : α) (lo : Nat) (m : FMap α) (k j : Nat) (v : α) (h : j ≠ k)
    (hm : FMap.wfFrom d lo m = true) : FMap.get d (FMap.set d m k v) j = FMap.get d m j := by
  induction m generalizing lo with
  | nil => by_cases hv : v = d <;> simp [FMap.set, hv, FMap.get, h]
  | cons e m ih =>
    obtain ⟨k', v'⟩ := e
    simp only [FMap.wfFrom, Bool.and_eq_true, decide_eq_true_eq] at hm
    by_cases hkk : k = k'
    · subst hkk
      by_cases hv : v = d
      · by_cases hlt : j < k
        · simpa [FMap.set, hv, FMap.get, h, hlt] using FMap.get_below d m hm.2 (by omega)
        · simp [FMap.set, hv, FMap.get, h, hlt]
      · simp [FMap.set, hv, FMap.get, h]
    · by_cases hlt : k < k'
      · by_cases hv : v = d
        · simp [FMap.set, hkk, hlt, hv, FMap.get]
        · by_cases hj : j < k
          · have h1 : j ≠ k' := by omega
            have h2 : j < k' := by omega
            simp [FMap.set, hkk, hlt, hv, FMap.get, h, hj, h1, h2]
          · simp [FMap.set, hkk, hlt, hv, FMap.get, h, hj]
      · simp only [FMap.set, if_neg hkk, if_neg hlt, FMap.get, ih (k' + 1) hm.2]

/-- A filter on keys keeps the canonical form. -/
theorem FMap.filter_wfFrom {α : Type} [DecidableEq α] (d : α) (lo : Nat) (m : FMap α) (p : Nat × α → Bool)
    (hm : FMap.wfFrom d lo m = true) : FMap.wfFrom d lo (m.filter p) = true := by
  induction m generalizing lo with
  | nil => rfl
  | cons e m ih =>
    simp only [FMap.wfFrom, Bool.and_eq_true, decide_eq_true_eq] at hm
    by_cases hp : p e = true
    · simp only [List.filter_cons, hp, if_true, FMap.wfFrom, Bool.and_eq_true, decide_eq_true_eq]
      exact ⟨hm.1, ih _ hm.2⟩
    · simp only [List.filter_cons, hp]
      exact ih lo (FMap.wfFrom_mono d (by omega) m hm.2)

/-- Two canonical maps, the second wholly above the first, make one. -/
theorem FMap.append_wfFrom {α : Type} [DecidableEq α] (d : α) (lo hi : Nat) (m n : FMap α) (hm : FMap.wfFrom d lo m = true)
    (hb : ∀ e ∈ m, e.1 < hi) (hlo : lo ≤ hi) (hn : FMap.wfFrom d hi n = true) : FMap.wfFrom d lo (m ++ n) = true := by
  induction m generalizing lo with
  | nil => exact FMap.wfFrom_mono d hlo n hn
  | cons e m ih =>
    simp only [FMap.wfFrom, Bool.and_eq_true, decide_eq_true_eq] at hm
    simp only [List.cons_append, FMap.wfFrom, Bool.and_eq_true, decide_eq_true_eq]
    have := hb e (by simp)
    exact ⟨hm.1, ih (e.1 + 1) hm.2 (fun x hx => hb x (by simp [hx])) (by omega)⟩

end Sys2Proof.Machine
end

