-- ==== Sys2Proof/Laws/Ops.lean ====
section
/-! SUPPORT. What the shared operations can do, said once each: the front of an instruction, and the ways an instruction
acts on the threads of its pack. -/
namespace Sys2Proof.Machine

/-! ## Reads after changes -/

theorem State.grp_modG_same (s : State) (g : Nat) (f : Group → Group) (h : g < s.groups.length) :
    (s.modG g f).grp g = f (s.grp g) := modAt_getD_same _ _ _ _ h

theorem State.grp_modG_other (s : State) (g k : Nat) (f : Group → Group) (h : k ≠ g) : (s.modG g f).grp k = s.grp k :=
  modAt_getD_other _ _ _ _ _ h

@[simp] theorem State.modG_modG (s : State) (g : Nat) (f k : Group → Group) : (s.modG g f).modG g k = s.modG g (k ∘ f) := by
  simp [State.modG, modAt_modAt]

theorem State.modW_modW (s : State) (g w : Nat) (f k : Warp → Warp) : (s.modW g w f).modW g w k = s.modW g w (k ∘ f) := by
  simp [State.modW, State.modG, modAt_modAt, Function.comp_def, Group.modW]

/-- A change at one position of a list, as a map over all. -/
theorem modAt_eq_mapIdx {α : Type} (l : List α) (n : Nat) (f : α → α) :
    modAt l n f = l.mapIdx (fun k x => if k = n then f x else x) := by
  induction l generalizing n with
  | nil => rfl
  | cons x l ih => cases n with
    | zero => simp [modAt, List.mapIdx_eq_ofFn]
    | succ n => simp [modAt, List.mapIdx_cons, ih]

theorem State.modT_eq_mapThr (s : State) (g w t : Nat) (f : Thread → Thread) :
    s.modT g w t f = s.mapThr g w (fun u x => if u = t then f x else x) := by
  simp [State.modT, State.mapThr, State.modW, Group.modT, Warp.mod, modAt_eq_mapIdx]

theorem State.mapThr_mapThr (s : State) (g w : Nat) (f k : Nat → Thread → Thread) :
    (s.mapThr g w f).mapThr g w k = s.mapThr g w (fun u x => k u (f u x)) := by
  simp [State.mapThr, State.modW_modW, Function.comp_def, List.mapIdx_mapIdx]

theorem State.mapThr_self (s : State) (g w : Nat) : s.mapThr g w (fun _ x => x) = s := by
  have hw : ∀ y : Warp, { y with threads := y.threads.mapIdx (fun _ x => x) } = y := fun y => by
    have : y.threads.mapIdx (fun _ x => x) = y.threads := List.ext_getElem (by simp) (by simp)
    simp [this]
  have hg : ∀ x : Group, x.modW w (fun y => { y with threads := y.threads.mapIdx (fun _ x => x) }) = x := fun x => by
    simp [Group.modW, hw, modAt_id]
  simp [State.mapThr, State.modW, State.modG, hg, modAt_id]

/-- Changes of different threads, one after the other, are one change of the warp. -/
theorem State.foldl_modT (ts : List Nat) (hd : ts.Nodup) (s : State) (g w : Nat) (f : Nat → Thread → Thread) :
    ts.foldl (fun s t => s.modT g w t (f t)) s = s.mapThr g w (fun u x => if u ∈ ts then f u x else x) := by
  induction ts generalizing s with
  | nil => simpa using (s.mapThr_self g w).symm
  | cons t ts ih =>
    rw [List.foldl_cons, ih (List.nodup_cons.mp hd).2, State.modT_eq_mapThr, State.mapThr_mapThr]
    congr 1
    funext u x
    by_cases hu : u = t
    · subst hu
      simp [(List.nodup_cons.mp hd).1]
    · simp [hu]

/-! ## A warp and its threads after a change of the warp's threads -/

theorem State.modG_out (s : State) (g : Nat) (f : Group → Group) (h : s.groups.length ≤ g) : s.modG g f = s := by
  have : ∀ (l : List Group) (n : Nat), l.length ≤ n → modAt l n f = l := by
    intro l
    induction l with
    | nil => intros; rfl
    | cons x l ih => intro n hn; cases n with
      | zero => simp at hn
      | succ n => simp [modAt, ih n (by simpa using hn)]
  simp [State.modG, this _ _ h]

theorem State.wrp_mapThr (s : State) (g w : Nat) (f : Nat → Thread → Thread) (hg : g < s.groups.length)
    (hw : w < (s.grp g).warps.length) :
    (s.mapThr g w f).wrp g w = { s.wrp g w with threads := (s.wrp g w).threads.mapIdx f } := by
  unfold State.wrp State.mapThr State.modW
  rw [State.grp_modG_same _ _ _ hg]
  exact modAt_getD_same _ _ _ _ hw

/-- A thread after a change of its warp's threads. -/
theorem State.thr_mapThr (s : State) (g w : Nat) (f : Nat → Thread → Thread) (u : Nat) (hg : g < s.groups.length)
    (hw : w < (s.grp g).warps.length) (hu : u < (s.wrp g w).threads.length) :
    (s.mapThr g w f).thr g w u = f u (s.thr g w u) := by
  simp [State.thr, State.wrp_mapThr s g w f hg hw, Warp.thr, hu]

/-! ## Traps taken by a pack -/

theorem State.trapT_of (s : State) (g w u c : Nat) (v : DWord) (h : s.trapsAt g w u) :
    s.trapT g w u c v = s.modT g w u (fun x => x.takeTrap (s.wrp g w).kd.trap c v) := by
  simp only [State.trapT, h.1, h.2.1, Bool.not_true, Bool.false_or, Bool.false_eq_true, if_false, decide_eq_true_eq]
  rw [if_neg h.2.2]

/-- Where every thread of a list can take a trap, each does, and nothing else changes (R34). -/
theorem State.trapAll_of (ts : List Nat) (s : State) (g w c : Nat) (v : DWord) (hg : g < s.groups.length)
    (hw : w < (s.grp g).warps.length) (hd : ts.Nodup) (hu : ∀ u ∈ ts, u < (s.wrp g w).threads.length ∧ s.trapsAt g w u) :
    s.trapAll g w ts c v = s.mapThr g w (fun u x => if u ∈ ts then x.takeTrap (s.wrp g w).kd.trap c v else x) := by
  rw [← State.foldl_modT ts hd]
  unfold State.trapAll
  have key : ∀ (l : List Nat) (r : State), l.Nodup → g < r.groups.length → w < (r.grp g).warps.length →
      (r.wrp g w).kd = (s.wrp g w).kd → (∀ u ∈ l, u < (r.wrp g w).threads.length ∧ r.trapsAt g w u) →
      l.foldl (fun s t => s.trapT g w t c v) r
        = l.foldl (fun r t => r.modT g w t (fun x => x.takeTrap (s.wrp g w).kd.trap c v)) r := by
    intro l
    induction l with
    | nil => intros; rfl
    | cons t l ih =>
      intro r hn hg hw hk hu
      rw [List.foldl_cons, List.foldl_cons, State.trapT_of r g w t c v (hu t (by simp)).2, hk]
      have hl := List.nodup_cons.mp hn
      have hm := State.modT_eq_mapThr r g w t (fun x => x.takeTrap (s.wrp g w).kd.trap c v)
      have hwr := State.wrp_mapThr r g w (fun u x => if u = t then x.takeTrap (s.wrp g w).kd.trap c v else x) hg hw
      refine ih _ hl.2 ?_ ?_ ?_ ?_
      · simpa [State.modT, State.modG] using hg
      · rw [State.modT, State.grp_modG_same _ _ _ hg]
        simpa [Group.modT, Group.modW] using hw
      · rw [hm, hwr, ← hk]
      · intro u hul
        have hne : u ≠ t := fun h => hl.1 (h ▸ hul)
        have h1 := hu u (by simp [hul])
        have ht : (r.modT g w t (fun x => x.takeTrap (s.wrp g w).kd.trap c v)).thr g w u = r.thr g w u := by
          rw [hm, State.thr_mapThr r g w _ u hg hw h1.1]
          simp [hne]
        refine ⟨?_, ?_⟩
        · rw [hm, hwr]
          simpa using h1.1
        · unfold State.trapsAt
          rw [ht, hm, hwr]
          exact h1.2
  exact key ts s hd hg hw rfl hu

/-! ## The front of an instruction -/

theorem partition_all {α : Type} (l : List α) (p : α → Bool) (h : ∀ x ∈ l, p x = false) : l.partition p = ([], l) := by
  rw [List.partition_eq_filter_filter]
  simp only [Prod.mk.injEq, List.filter_eq_nil_iff, List.filter_eq_self, Function.comp_apply]
  exact ⟨fun x hx => by simp [h x hx], fun x hx => by simp [h x hx]⟩

theorem reachPast_nil (o : Option Nat) : reachPast o [] = [] := rfl

/-- Where nothing that a word names is spilled, nothing is to be filled. -/
theorem Warp.toFill_of_need (w : Warp) (u : Use) (ts : List Nat) (h : w.need u = []) : w.toFill u ts = [] := by
  simp [Warp.toFill, h, reachPast_nil]

/-- Where a word named no spilled block, no pass ends behind its body. -/
theorem State.afterPasses_nil (s : State) (u : Use) (w : Warp) (ts : List Nat) (h : w.need u = []) :
    s.afterPasses u w ts = s := by
  unfold State.afterPasses
  simp [h]

/-- A pack that passes the front comes to the instruction's body with every thread of it. -/
theorem State.front_of (s : State) (u : Use) (bad : Warp → Thread → Option DWord) (body : State → List Nat → State)
    (hne : s.pack.ts ≠ []) (hbad : bad s.pwrp (s.pthr (s.pack.ts.headD 0)) = none) (hneed : s.pwrp.need u = [])
    (hw : ∀ t ∈ s.pack.ts, (s.pthr t).waits u = false) : s.front u bad body = body s s.pack.ts := by
  unfold State.front
  obtain ⟨t0, l, hts⟩ := List.exists_cons_of_ne_nil hne
  have hp : s.pack.ts.partition (fun t => ((s.wrp s.pack.g s.pack.w).thr t).waits u) = ([], s.pack.ts) :=
    partition_all _ _ hw
  have hb : bad (s.wrp s.pack.g s.pack.w) ((s.wrp s.pack.g s.pack.w).thr t0) = none := by rw [hts] at hbad; exact hbad
  rw [hts] at hp
  simp only [hts, hb, Warp.toFill_of_need _ u _ hneed, hp, State.stallAll, List.foldl_nil]
  exact State.afterPasses_nil _ u _ _ hneed

/-- A pack whose word fails a decode check traps 0x01 in every thread (R66, R424). -/
theorem State.front_bad (s : State) (u : Use) (bad : Warp → Thread → Option DWord) (body : State → List Nat → State)
    (v : DWord) (hne : s.pack.ts ≠ []) (hbad : bad s.pwrp (s.pthr (s.pack.ts.headD 0)) = some v) :
    s.front u bad body = s.trapAll s.pack.g s.pack.w s.pack.ts 0x01 v := by
  unfold State.front
  obtain ⟨t0, l, hts⟩ := List.exists_cons_of_ne_nil hne
  have hb : bad (s.wrp s.pack.g s.pack.w) ((s.wrp s.pack.g s.pack.w).thr t0) = some v := by rw [hts] at hbad; exact hbad
  simp only [hts, hb]

/-! ## The three ways an instruction acts -/

/-- An instruction that acts on each thread by registers alone changes the threads of its pack, each by its own effect. -/
theorem State.lanes_of (s : State) (i : Ins) (body : Warp → List Nat → Nat → Res) (e : Nat → Eff) (h : s.passes i)
    (hb : ∀ u ∈ s.pack.ts, (before i none (s.pthr u)).getD (body s.pwrp s.pack.ts u) = .ok (e u)) :
    s.lanes i body = s.mapPack (fun u x => (x.apply (e u)).advance i.words) := by
  unfold State.lanes
  rw [State.front_of s i.use _ _ h.1.2.2.1 h.2.1 h.2.2.1 h.2.2.2]
  simp only [List.foldl_map]
  have : ∀ (l : List Nat) (r : State), (∀ u ∈ l, u ∈ s.pack.ts) →
      l.foldl (fun r u => r.finish s.pack.g s.pack.w u i.words
        ((before i none ((s.wrp s.pack.g s.pack.w).thr u)).getD (body (s.wrp s.pack.g s.pack.w) s.pack.ts u))) r
      = l.foldl (fun r u => r.modT s.pack.g s.pack.w u (fun x => (x.apply (e u)).advance i.words)) r := by
    intro l
    induction l with
    | nil => intros; rfl
    | cons u l ih =>
      intro r hl
      have hu := hb u (hl u (by simp))
      simp only [List.foldl_cons]
      rw [show (before i none ((s.wrp s.pack.g s.pack.w).thr u)).getD (body (s.wrp s.pack.g s.pack.w) s.pack.ts u)
        = .ok (e u) from hu]
      exact ih _ (fun v hv => hl v (by simp [hv]))
  rw [this _ _ (fun _ h => h), State.foldl_modT _ h.1.2.2.2.1]
  rfl

theorem before_takes (i : Ins) (t : Thread) (h : t.takes i) : before i none t = none := by
  simp [before, h.1, h.2, firstOf]

theorem before_skip (i : Ins) (c : Cause) (t : Thread) (h : t.guard i.f.guard = .skip) :
    before i c t = some (.ok Eff.none) := by
  simp [before, h]

theorem before_poisoned (i : Ins) (c : Cause) (t : Thread) (v : DWord) (h : t.guard i.f.guard = .trap v) :
    before i c t = some (.trap 0x04 v) := by
  simp [before, h]

/-- An instruction that moves threads, in a pack of one: its body acts. -/
theorem State.control_alone (s : State) (i : Ins) (ends : Bool) (chk : State → Nat → Nat → Nat → Cause)
    (body : State → Nat → Nat → Nat → State) (u : Nat) (h : s.alone i u) (hc : chk s s.pack.g s.pack.w u = none) :
    s.control i ends chk body = body s s.pack.g s.pack.w u := by
  obtain ⟨hts, hp, ht⟩ := h
  unfold State.control
  rw [State.front_of s i.use _ _ hp.1.2.2.1 hp.2.1 hp.2.2.1 hp.2.2.2]
  have hr : (s.thr s.pack.g s.pack.w u).ready = true := (hp.1.2.2.2.2 u (by simp [hts])).2
  simp [State.move1, hts, hr, hc, before_takes i _ ht]

/-- An instruction that acts on each thread in turn, in a pack of one. -/
theorem State.inTurn_alone (s : State) (i : Ins) (chk : State → Nat → Nat → Nat → Cause)
    (body : State → Nat → Nat → Nat → State × Res) (u : Nat) (h : s.alone i u) (hc : chk s s.pack.g s.pack.w u = none)
    (hf : (s.pthr u).flagRoom (i.flagOf (s.pthr u))) :
    s.inTurn i chk body = (body s s.pack.g s.pack.w u).1.finish s.pack.g s.pack.w u i.words (body s s.pack.g s.pack.w u).2 := by
  obtain ⟨hts, hp, ht⟩ := h
  unfold State.inTurn
  rw [State.front_of s i.use _ _ hp.1.2.2.1 hp.2.1 hp.2.2.1 hp.2.2.2]
  have hr : (s.thr s.pack.g s.pack.w u).ready = true := (hp.1.2.2.2.2 u (by simp [hts])).2
  have hn : (i.flagOf (s.thr s.pack.g s.pack.w u)).any
      (fun n => decide (255 ≤ (s.thr s.pack.g s.pack.w u).flagCount n)) = false := by
    revert hf
    cases i.flagOf (s.thr s.pack.g s.pack.w u) <;> simp [Thread.flagRoom, State.pthr]
  simp [hts, hr, hc, before_takes i _ ht, hn]

/-- No thread of a list traps on its own values where each takes the instruction. -/
theorem State.ownTraps_takes (r : State) (i : Ins) (w : Warp) (act : List Nat) (cv : Cause)
    (h : ∀ u ∈ act, (w.thr u).takes i) : r.ownTraps i w act cv = r := by
  unfold State.ownTraps
  induction act with
  | nil => rfl
  | cons u l ih =>
    rw [List.foldl_cons]
    simp only [before_takes i _ (h u (by simp))]
    exact ih (fun v hv => h v (by simp [hv]))

/-- A fold of steps none of which changes anything. -/
theorem foldl_fixed {α β : Type} (f : β → α → β) (l : List α) (b : β) (h : ∀ r, ∀ x ∈ l, f r x = r) : l.foldl f b = b := by
  induction l generalizing b with
  | nil => rfl
  | cons x l ih =>
    rw [List.foldl_cons, h b x (by simp)]
    exact ih b (fun r y hy => h r y (by simp [hy]))

/-- What a pack-once instruction does with the outcome of its body when every thread of the pack takes it (R213). -/
theorem State.once_of (s : State) (i : Ins) (pending : Bool) (body : State → Nat → Nat → Nat → List Nat → Once)
    (h : s.passes i) (ht : ∀ u ∈ s.pack.ts, (s.pthr u).takes i)
    (hf : ∀ u ∈ s.pack.ts, (s.pthr u).flagRoom (i.flagOf (s.pthr (s.pack.ts.headD 0)))) :
    s.once i pending body = match body s s.pack.g s.pack.w (s.pack.ts.headD 0) s.pack.ts with
      | .done s' => s'.mapThr s.pack.g s.pack.w (fun u x =>
          if u ∈ s.pack.ts then x.onward i (i.flagOf (s.pthr (s.pack.ts.headD 0))) pending else x)
      | .trap c v => s.trapAll s.pack.g s.pack.w s.pack.ts c v
      | .stall y => s.stallAll s.pack.g s.pack.w s.pack.ts y
      | .block b => s.mapPack (fun _ x => { x with sched := .blocked b }) := by
  unfold State.once
  rw [State.front_of s i.use _ _ h.1.2.2.1 h.2.1 h.2.2.1 h.2.2.2]
  obtain ⟨t0, l, hts⟩ := List.exists_cons_of_ne_nil h.1.2.2.1
  have hgo : s.pack.ts.filter (fun t => (before i none ((s.wrp s.pack.g s.pack.w).thr t)).isNone) = s.pack.ts := by
    rw [List.filter_eq_self]
    intro u hu
    simp [before_takes i ((s.wrp s.pack.g s.pack.w).thr u) (ht u hu)]
  have hfl : (i.flagOf ((s.wrp s.pack.g s.pack.w).thr t0)).any
      (fun n => s.pack.ts.any (fun t => decide (255 ≤ ((s.wrp s.pack.g s.pack.w).thr t).flagCount n))) = false := by
    have hf' : ∀ u ∈ s.pack.ts, ((s.wrp s.pack.g s.pack.w).thr u).flagRoom (i.flagOf ((s.wrp s.pack.g s.pack.w).thr t0)) := by
      intro u hu
      have := hf u hu
      rw [hts] at this
      exact this
    revert hf'
    cases i.flagOf ((s.wrp s.pack.g s.pack.w).thr t0) with
    | none => intro _; rfl
    | some n => simp [Thread.flagRoom]
  have how := fun (r : State) (cv : Cause) => State.ownTraps_takes r i (s.wrp s.pack.g s.pack.w) s.pack.ts cv ht
  simp only [hgo]
  rw [foldl_fixed _ _ _ (fun r u hu => by simp [before_takes i ((s.wrp s.pack.g s.pack.w).thr u) (ht u hu)])]
  rw [hts] at hfl how
  simp only [hts, hfl, how, List.headD_cons, State.pthr, State.thr]
  have hn : (t0 :: l).Nodup := hts ▸ h.1.2.2.2.1
  cases hb : body s s.pack.g s.pack.w t0 (t0 :: l) with
  | done s' =>
    simp only [Bool.false_eq_true, if_false]
    rw [State.foldl_modT _ hn]
    rfl
  | trap c v => simp
  | stall y => simp
  | block b =>
    simp only [Bool.false_eq_true, if_false, State.mapPack, hts]
    rw [State.foldl_modT _ hn]

theorem mapIdx_congr {α β : Type} (l : List α) (f k : Nat → α → β) (d : α)
    (h : ∀ u, u < l.length → f u (l.getD u d) = k u (l.getD u d)) : l.mapIdx f = l.mapIdx k := by
  apply List.ext_getElem (by simp)
  intro u h1 h2
  have hu : u < l.length := by simpa using h1
  simpa [List.getD_eq_getElem?_getD, List.getElem?_eq_getElem hu] using h u hu

/-- Two changes of a warp's threads that agree on the threads it has are one. -/
theorem State.mapThr_congr (s : State) (g w : Nat) (f k : Nat → Thread → Thread)
    (h : ∀ u, u < (s.wrp g w).threads.length → f u (s.thr g w u) = k u (s.thr g w u)) : s.mapThr g w f = s.mapThr g w k := by
  unfold State.mapThr State.modW State.modG
  congr 1
  apply modAt_congr (d := Group.void)
  unfold Group.modW
  congr 1
  apply modAt_congr (d := Warp.void)
  congr 1
  exact mapIdx_congr _ f k Thread.absent h

/-- The register forms: an instruction whose body in each thread is an effect of the thread alone. -/
theorem State.lanes_given (s : State) (i : Ins) (body : Warp → List Nat → Nat → Res) (e : Thread → Eff) (h : s.passes i)
    (hg : s.guardsClean i) (hp : ∀ u ∈ s.pack.ts, poisonTrap (s.pthr u) i = none)
    (hb : ∀ u ∈ s.pack.ts, body s.pwrp s.pack.ts u = .ok (e (s.pthr u))) :
    s.lanes i body = s.mapPack (fun _ x => x.given i e) := by
  rw [State.lanes_of s i body (fun u => if (s.pthr u).guard i.f.guard = .take then e (s.pthr u) else Eff.none) h]
  · apply State.mapThr_congr
    intro u _
    by_cases hu : u ∈ s.pack.ts <;> simp [hu, Thread.given, State.pthr]
  · intro u hu
    rcases hg u hu with hk | hk
    · rw [before_takes i _ ⟨hk, hp u hu⟩, hk]
      simpa using hb u hu
    · rw [before_skip i none _ hk, hk]
      rfl

/-! ## An instruction whose guard is false, or poisoned, in every thread of its pack -/

theorem Eff.none_apply (x : Thread) : x.apply Eff.none = x := by
  simp [Thread.apply, Eff.none, Thread.setRegs, Thread.setPreds, Eff.changes]

/-- A fold whose steps change one thread each, as long as that thread stands as it did, is one change of the warp. -/
theorem State.foldl_thread (s : State) (g w : Nat) (ts : List Nat) (step : State → Nat → State) (f : Nat → Thread → Thread)
    (hd : ts.Nodup) (hg : g < s.groups.length) (hw : w < (s.grp g).warps.length)
    (hu : ∀ u ∈ ts, u < (s.wrp g w).threads.length)
    (hs : ∀ (r : State) (k : Nat → Thread → Thread), r = s.mapThr g w k → ∀ u ∈ ts, r.thr g w u = s.thr g w u →
      step r u = r.modT g w u (f u)) :
    ts.foldl step s = s.mapThr g w (fun u x => if u ∈ ts then f u x else x) := by
  have key : ∀ (l done : List Nat), (∀ u ∈ l, u ∈ ts) → l.Nodup → (∀ u ∈ l, u ∉ done) →
      l.foldl step (s.mapThr g w (fun u x => if u ∈ done then f u x else x))
        = s.mapThr g w (fun u x => if u ∈ done ∨ u ∈ l then f u x else x) := by
    intro l
    induction l with
    | nil => intros; simp
    | cons u l ih =>
      intro done hl hn hdone
      have hn' := List.nodup_cons.mp hn
      have hth : (s.mapThr g w (fun u x => if u ∈ done then f u x else x)).thr g w u = s.thr g w u := by
        rw [State.thr_mapThr s g w _ u hg hw (hu u (hl u (by simp)))]
        simp [hdone u (by simp)]
      rw [List.foldl_cons, hs _ _ rfl u (hl u (by simp)) hth, State.modT_eq_mapThr, State.mapThr_mapThr]
      have hfun : (fun (v : Nat) (x : Thread) => if v = u then f u (if v ∈ done then f v x else x)
          else if v ∈ done then f v x else x) = fun v x => if v ∈ u :: done then f v x else x := by
        funext v x
        by_cases hv : v = u
        · subst hv
          simp [hdone v (by simp)]
        · simp [hv]
      rw [hfun, ih (u :: done) (fun v hv => hl v (by simp [hv])) hn'.2 (fun v hv => by
        simp only [List.mem_cons, not_or]
        exact ⟨fun h => hn'.1 (h ▸ hv), hdone v (by simp [hv])⟩)]
      congr 1
      funext v x
      by_cases h1 : v = u <;> by_cases h2 : v ∈ done <;> by_cases h3 : v ∈ l <;> simp [h1, h2, h3]
  have := key ts [] (fun _ h => h) hd (by simp)
  simpa [State.mapThr_self] using this

/-- Each thread of a list its own trap. -/
theorem State.trapEach_of (s : State) (g w : Nat) (ts : List Nat) (step : State → Nat → State) (c : Nat → Nat) (v : Nat → DWord)
    (hd : ts.Nodup) (hg : g < s.groups.length) (hw : w < (s.grp g).warps.length)
    (hu : ∀ u ∈ ts, u < (s.wrp g w).threads.length) (ht : ∀ u ∈ ts, s.trapsAt g w u)
    (hs : ∀ (r : State) (k : Nat → Thread → Thread), r = s.mapThr g w k → ∀ u ∈ ts, r.thr g w u = s.thr g w u →
      step r u = r.trapT g w u (c u) (v u)) :
    ts.foldl step s = s.mapThr g w (fun u x => if u ∈ ts then x.takeTrap (s.wrp g w).kd.trap (c u) (v u) else x) := by
  refine State.foldl_thread s g w ts step (fun u x => x.takeTrap (s.wrp g w).kd.trap (c u) (v u)) hd hg hw hu ?_
  intro r k hr u hu' hth
  rw [hs r k hr u hu' hth]
  have hkd : (r.wrp g w).kd = (s.wrp g w).kd := by rw [hr, State.wrp_mapThr s g w k hg hw]
  rw [State.trapT_of r g w u _ _ (by unfold State.trapsAt; rw [hth, hkd]; exact ht u hu'), hkd]

/-- The one outcome that an instruction has in every thread before its body, in each of the ways an instruction acts. -/
structure AllBefore (s : State) (i : Ins) (r : Nat → Res) : Prop where
  passes : s.passes i
  res : ∀ u ∈ s.pack.ts, ∀ c, before i c (s.pthr u) = some (r u)

theorem AllBefore.lanes {s : State} {i : Ins} {r : Nat → Res} (h : AllBefore s i r) (body : Warp → List Nat → Nat → Res) :
    s.lanes i body = s.pack.ts.foldl (fun s' u => s'.finish s.pack.g s.pack.w u i.words (r u)) s := by
  unfold State.lanes
  rw [State.front_of s i.use _ _ h.passes.1.2.2.1 h.passes.2.1 h.passes.2.2.1 h.passes.2.2.2]
  simp only [List.foldl_map]
  have : ∀ (l : List Nat) (q : State), (∀ u ∈ l, u ∈ s.pack.ts) →
      l.foldl (fun q u => q.finish s.pack.g s.pack.w u i.words
        ((before i none ((s.wrp s.pack.g s.pack.w).thr u)).getD (body (s.wrp s.pack.g s.pack.w) s.pack.ts u))) q
      = l.foldl (fun q u => q.finish s.pack.g s.pack.w u i.words (r u)) q := by
    intro l
    induction l with
    | nil => intros; rfl
    | cons u l ih =>
      intro q hl
      rw [List.foldl_cons, List.foldl_cons, ih _ (fun v hv => hl v (by simp [hv]))]
      rw [show before i none ((s.wrp s.pack.g s.pack.w).thr u) = some (r u) from h.res u (hl u (by simp)) none]
      rfl
  exact this _ _ (fun _ h => h)

theorem AllBefore.ready {s : State} {i : Ins} {r : Nat → Res} (h : AllBefore s i r) (u : Nat) (hu : u ∈ s.pack.ts) :
    (s.pthr u).ready = true := (h.passes.1.2.2.2.2 u hu).2

/-- What all the ways have in common where the guard is false in every thread: each thread moves on by `f`. -/
theorem AllBefore.skip {s : State} {i : Ins} (h : AllBefore s i (fun _ => .ok Eff.none)) (step : State → Nat → State)
    (f : Thread → Thread)
    (hs : ∀ (r : State) (u : Nat), u ∈ s.pack.ts → r.thr s.pack.g s.pack.w u = s.pthr u →
      step r u = r.modT s.pack.g s.pack.w u f) :
    s.pack.ts.foldl step s = s.mapPack (fun _ x => f x) :=
  State.foldl_thread s s.pack.g s.pack.w s.pack.ts step (fun _ => f) h.passes.1.2.2.2.1 h.passes.1.1 h.passes.1.2.1
    (fun u hu => (h.passes.1.2.2.2.2 u hu).1) (fun r _ _ u hu ht => hs r u hu ht)

/-- What all the ways have in common where the guard is poisoned in every thread: each thread takes the trap. -/
theorem AllBefore.poison {s : State} {i : Ins} {c : Nat} {v : DWord} (h : AllBefore s i (fun _ => .trap c v))
    (step : State → Nat → State) (ht : ∀ u ∈ s.pack.ts, s.trapsAt s.pack.g s.pack.w u)
    (hs : ∀ (r : State) (u : Nat), u ∈ s.pack.ts → r.pack = s.pack → r.thr s.pack.g s.pack.w u = s.pthr u →
      step r u = r.trapT s.pack.g s.pack.w u c v) :
    s.pack.ts.foldl step s = s.mapPack (fun _ x => x.takeTrap s.pwrp.kd.trap c v) :=
  State.trapEach_of s s.pack.g s.pack.w s.pack.ts step (fun _ => c) (fun _ => v) h.passes.1.2.2.2.1 h.passes.1.1
    h.passes.1.2.1 (fun u hu => (h.passes.1.2.2.2.2 u hu).1) ht (fun r k hr u hu hth => hs r u hu (by rw [hr]; rfl) hth)

theorem allBefore_skip (s : State) (i : Ins) (h : s.passes i) (hk : ∀ u ∈ s.pack.ts, (s.pthr u).guard i.f.guard = .skip) :
    AllBefore s i (fun _ => .ok Eff.none) := ⟨h, fun u hu c => before_skip i c _ (hk u hu)⟩

theorem allBefore_poison (s : State) (i : Ins) (v : DWord) (h : s.passes i)
    (hk : ∀ u ∈ s.pack.ts, (s.pthr u).guard i.f.guard = .trap v) : AllBefore s i (fun _ => .trap 0x04 v) :=
  ⟨h, fun u hu c => before_poisoned i c _ v (hk u hu)⟩

/-- A false guard, for a register form. -/
theorem State.lanes_skip (s : State) (i : Ins) (body : Warp → List Nat → Nat → Res)
    (h : AllBefore s i (fun _ => .ok Eff.none)) : s.lanes i body = s.mapPack (fun _ x => x.advance i.words) := by
  rw [h.lanes]
  exact h.skip _ _ (fun r u _ _ => by simp [State.finish, Eff.none_apply])

/-- A poisoned guard, for a register form. -/
theorem State.lanes_poison (s : State) (i : Ins) (body : Warp → List Nat → Nat → Res) (c : Nat) (v : DWord)
    (h : AllBefore s i (fun _ => .trap c v)) (ht : ∀ u ∈ s.pack.ts, s.trapsAt s.pack.g s.pack.w u) :
    s.lanes i body = s.mapPack (fun _ x => x.takeTrap s.pwrp.kd.trap c v) := by
  rw [h.lanes]
  exact h.poison _ ht (fun r u _ _ _ => rfl)

/-- A false guard, for an instruction that acts on each thread in turn. -/
theorem State.inTurn_skip (s : State) (i : Ins) (chk : State → Nat → Nat → Nat → Cause)
    (body : State → Nat → Nat → Nat → State × Res) (h : AllBefore s i (fun _ => .ok Eff.none)) :
    s.inTurn i chk body = s.mapPack (fun _ x => x.advance i.words) := by
  unfold State.inTurn
  rw [State.front_of s i.use _ _ h.passes.1.2.2.1 h.passes.2.1 h.passes.2.2.1 h.passes.2.2.2]
  refine h.skip _ _ (fun r u hu ht => ?_)
  simp only [ht, h.ready u hu, h.res u hu, Bool.not_true, Bool.false_eq_true, if_false]
  simp [State.finish, Eff.none_apply]

/-- A poisoned guard, for an instruction that acts on each thread in turn. -/
theorem State.inTurn_poison (s : State) (i : Ins) (chk : State → Nat → Nat → Nat → Cause)
    (body : State → Nat → Nat → Nat → State × Res) (c : Nat) (v : DWord) (h : AllBefore s i (fun _ => .trap c v))
    (ht : ∀ u ∈ s.pack.ts, s.trapsAt s.pack.g s.pack.w u) :
    s.inTurn i chk body = s.mapPack (fun _ x => x.takeTrap s.pwrp.kd.trap c v) := by
  unfold State.inTurn
  rw [State.front_of s i.use _ _ h.passes.1.2.2.1 h.passes.2.1 h.passes.2.2.1 h.passes.2.2.2]
  refine h.poison _ ht (fun r u hu _ hth => ?_)
  simp only [hth, h.ready u hu, h.res u hu, Bool.not_true, Bool.false_eq_true, if_false]
  rfl

/-- A false guard, for an instruction that moves threads. -/
theorem State.control_skip (s : State) (i : Ins) (ends : Bool) (chk : State → Nat → Nat → Nat → Cause)
    (body : State → Nat → Nat → Nat → State) (h : AllBefore s i (fun _ => .ok Eff.none)) :
    s.control i ends chk body = s.mapPack (fun _ x => if ends then x.skipClause i.words else x.advance i.words) := by
  unfold State.control
  rw [State.front_of s i.use _ _ h.passes.1.2.2.1 h.passes.2.1 h.passes.2.2.1 h.passes.2.2.2]
  refine h.skip _ _ (fun r u hu ht => ?_)
  simp only [State.move1, ht, h.ready u hu, h.res u hu, Bool.not_true, Bool.false_eq_true, if_false]

/-- A poisoned guard, for an instruction that moves threads. -/
theorem State.control_poison (s : State) (i : Ins) (ends : Bool) (chk : State → Nat → Nat → Nat → Cause)
    (body : State → Nat → Nat → Nat → State) (c : Nat) (v : DWord) (h : AllBefore s i (fun _ => .trap c v))
    (ht : ∀ u ∈ s.pack.ts, s.trapsAt s.pack.g s.pack.w u) :
    s.control i ends chk body = s.mapPack (fun _ x => x.takeTrap s.pwrp.kd.trap c v) := by
  unfold State.control
  rw [State.front_of s i.use _ _ h.passes.1.2.2.1 h.passes.2.1 h.passes.2.2.1 h.passes.2.2.2]
  refine h.poison _ ht (fun r u hu _ hth => ?_)
  simp only [State.move1, hth, h.ready u hu, h.res u hu, Bool.not_true, Bool.false_eq_true, if_false]
  rfl

theorem filter_none {α : Type} (l : List α) (p : α → Bool) (h : ∀ x ∈ l, p x = false) : l.filter p = [] := by
  simp only [List.filter_eq_nil_iff]
  exact fun x hx => by simp [h x hx]

/-- A false guard, for a pack-once instruction. -/
theorem State.once_skip (s : State) (i : Ins) (pending : Bool) (body : State → Nat → Nat → Nat → List Nat → Once)
    (h : AllBefore s i (fun _ => .ok Eff.none)) : s.once i pending body = s.mapPack (fun _ x => x.advance i.words) := by
  unfold State.once
  rw [State.front_of s i.use _ _ h.passes.1.2.2.1 h.passes.2.1 h.passes.2.2.1 h.passes.2.2.2]
  have hr : ∀ u ∈ s.pack.ts, before i none ((s.wrp s.pack.g s.pack.w).thr u) = some (.ok Eff.none) :=
    fun u hu => h.res u hu none
  have hgo : s.pack.ts.filter (fun t => (before i none ((s.wrp s.pack.g s.pack.w).thr t)).isNone) = [] :=
    filter_none _ _ (fun u hu => by simp [hr u hu])
  simp only [hgo]
  simp only [State.ownTraps]
  rw [foldl_fixed _ _ _ (fun r u hu => by simp [hr u hu])]
  exact h.skip _ _ (fun r u hu _ => by simp [hr u hu, State.finish, Eff.none_apply])

/-- A poisoned guard, for a pack-once instruction. -/
theorem State.once_poison (s : State) (i : Ins) (pending : Bool) (body : State → Nat → Nat → Nat → List Nat → Once)
    (c : Nat) (v : DWord) (h : AllBefore s i (fun _ => .trap c v)) (ht : ∀ u ∈ s.pack.ts, s.trapsAt s.pack.g s.pack.w u) :
    s.once i pending body = s.mapPack (fun _ x => x.takeTrap s.pwrp.kd.trap c v) := by
  unfold State.once
  rw [State.front_of s i.use _ _ h.passes.1.2.2.1 h.passes.2.1 h.passes.2.2.1 h.passes.2.2.2]
  have hr : ∀ u ∈ s.pack.ts, before i none ((s.wrp s.pack.g s.pack.w).thr u) = some (.trap c v) :=
    fun u hu => h.res u hu none
  have hgo : s.pack.ts.filter (fun t => (before i none ((s.wrp s.pack.g s.pack.w).thr t)).isNone) = [] :=
    filter_none _ _ (fun u hu => by simp [hr u hu])
  simp only [hgo]
  rw [foldl_fixed _ _ s (fun r u hu => by simp [hr u hu])]
  exact h.poison _ ht (fun r u hu hp _ => by
    simp only [hr u hu, hp]
    cases ((s.wrp s.pack.g s.pack.w).thr u).guard i.f.guard <;> rfl)

/-- A false guard, for a form that votes (R256). -/
theorem State.collective_skip (s : State) (i : Ins) (k : Warp → MChk) (body : State → Nat → Nat → Nat → List Nat → Once)
    (hk : ∀ u ∈ s.pack.ts, (s.pthr u).guard i.f.guard = .skip) (h : AllBefore s i (fun _ => .ok Eff.none)) :
    s.collective i k body = s.mapPack (fun _ x => x.advance i.words) := by
  unfold State.collective
  rw [State.front_of s i.use _ _ h.passes.1.2.2.1 h.passes.2.1 h.passes.2.2.1 h.passes.2.2.2]
  have hr : ∀ u ∈ s.pack.ts, ((s.wrp s.pack.g s.pack.w).thr u).guard i.f.guard = .skip := hk
  have ht : s.pack.ts.filter (fun t => ((s.wrp s.pack.g s.pack.w).thr t).guard i.f.guard == .take) = [] :=
    filter_none _ _ (fun u hu => by rw [hr u hu]; rfl)
  simp only [ht, List.filter_nil, List.foldl_nil]
  exact h.skip _ _ (fun r u hu _ => by simp [hr u hu, State.finish, Eff.none_apply])

/-- A poisoned guard, for a form that votes (R256). -/
theorem State.collective_poison (s : State) (i : Ins) (k : Warp → MChk) (body : State → Nat → Nat → Nat → List Nat → Once)
    (v : DWord) (hk : ∀ u ∈ s.pack.ts, (s.pthr u).guard i.f.guard = .trap v)
    (h : AllBefore s i (fun _ => .trap 0x04 v)) (ht : ∀ u ∈ s.pack.ts, s.trapsAt s.pack.g s.pack.w u) :
    s.collective i k body = s.mapPack (fun _ x => x.takeTrap s.pwrp.kd.trap 0x04 v) := by
  unfold State.collective
  rw [State.front_of s i.use _ _ h.passes.1.2.2.1 h.passes.2.1 h.passes.2.2.1 h.passes.2.2.2]
  have hr : ∀ u ∈ s.pack.ts, ((s.wrp s.pack.g s.pack.w).thr u).guard i.f.guard = .trap v := hk
  have hf : s.pack.ts.filter (fun t => ((s.wrp s.pack.g s.pack.w).thr t).guard i.f.guard == .take) = [] :=
    filter_none _ _ (fun u hu => by rw [hr u hu]; rfl)
  simp only [hf, List.filter_nil, List.foldl_nil]
  exact h.poison _ ht (fun r u hu hp _ => by simp [hr u hu])

end Sys2Proof.Machine
end

