-- ==== Sys2Proof/Laws/Forms.lean ====
section
/-! SUPPORT. One view of the 318 arms of the native and Prerin forms: what an instruction does is a function of its form and
fields as it issues (`insOf`). -/
namespace Sys2Proof.Machine

/-- What a form does, native or Prerin. -/
def State.run (s : State) (n : Ins) : State :=
  match n.op with
  | .ill => s
  | .mov => s.alu n aluMov
  | .movh => s.alu n aluMovh
  | .add => s.alu n aluAdd
  | .sub => s.alu n aluSub
  | .addx => s.alu n aluAddx
  | .subx => s.alu n aluSubx
  | .mul => s.alu n aluMul
  | .mulhi => s.alu n aluMulhi
  | .mad => s.alu n aluMad
  | .madhi => s.alu n aluMadhi
  | .mulw => s.alu n aluMulw
  | .madw => s.alu n aluMadw
  | .min => s.alu n aluMin
  | .max => s.alu n aluMax
  | .abs => s.alu n aluAbs
  | .and => s.alu n aluAnd
  | .or => s.alu n aluOr
  | .xor => s.alu n aluXor
  | .andn => s.alu n aluAndn
  | .lop3 => s.alu n aluLop3
  | .shl => s.alu n aluShl
  | .shr => s.alu n aluShr
  | .sar => s.alu n aluSar
  | .rot => s.alu n aluRot
  | .fsh => s.alu n aluFsh
  | .bfx => s.alu n aluBfx
  | .bfi => s.alu n aluBfi
  | .popc => s.alu n aluPopc
  | .clz => s.alu n aluClz
  | .ctz => s.alu n aluCtz
  | .brev => s.alu n aluBrev
  | .bperm => s.alu n aluBperm
  | .sel => s.alu n aluSel
  | .cmp => s.alu n aluCmp
  | .lea => s.alu n aluLea
  | .sad => s.alu n aluSad
  | .dot4 => s.alu n aluDot4
  | .dot2 => s.alu n aluDot2
  | .vadd2 => s.alu n aluVadd2
  | .vsub2 => s.alu n aluVsub2
  | .vmax2 => s.alu n aluVmax2
  | .vmin2 => s.alu n aluVmin2
  | .plop => s.alu n aluPlop
  | .pmov => s.alu n aluPmov
  | .fadd => s.alu n fluAdd
  | .fsub => s.alu n fluSub
  | .fmul => s.alu n fluMul
  | .ffma => s.alu n fluFma
  | .fmin => s.alu n fluMin
  | .fmax => s.alu n fluMax
  | .fcmp => s.alu n fluCmp
  | .fclamp => s.alu n fluClamp
  | .frnd => s.alu n fluRnd
  | .hadd2 => s.alu n fluAdd2
  | .hmul2 => s.alu n fluMul2
  | .hfma2 => s.alu n fluFma2
  | .hmin2 => s.alu n fluMin2
  | .hmax2 => s.alu n fluMax2
  | .hcmp2 => s.alu n fluCmp2
  | .fdot2 => s.alu n fluDot2
  | .cvt => s.alu n fluCvt
  | .cvtpk => s.alu n fluCvtpk
  | .unpk => s.alu n fluUnpk
  | .q4enc => s.alu n fluQ4enc
  | .q4dec => s.alu n fluQ4dec
  | .frcp => s.alu n fluRcp
  | .frsq => s.alu n fluRsq
  | .fsqrt => s.alu n fluSqrt
  | .fex2 => s.alu n fluEx2
  | .flg2 => s.alu n fluLg2
  | .fsin => s.alu n fluSin
  | .fcos => s.alu n fluCos
  | .ftanh => s.alu n fluTanh
  | .fact => s.lanes n (fun w _ t => fluAct s.packBanks n w (w.thr t))
  | .atld => s.doAtld n
  | .atsel => s.doAtsel n
  | .shfl => s.lanes n (laneShfl n)
  | .vote => s.lanes n (laneVote n)
  | .matchk => s.lanes n (laneMatch n)
  | .redux => s.lanes n (laneRedux n)
  | .redix => s.lanes n (laneRedix n)
  | .scan => s.lanes n (laneScan n)
  | .setpart => s.doSetpart n
  | .actv => s.lanes n (laneActv n)
  | .lds => s.doLoad n (Ins.formV n) (Ins.sg n)
  | .sts => s.doStore n (Ins.formV n)
  | .ldsa => s.doLoad n (Ins.formN n) false
  | .stsr => s.doStore n (Ins.formN n)
  | .atms => s.doAtms n
  | .ldw => s.doLdw n
  | .fence => s.doFence n
  | .bar => s.doBar n
  | .xbarInit => s.doXbarInit n
  | .xbarArrive => s.doXbarArrive n
  | .xbarWait => s.doXbarWait n
  | .xbarInval => s.doXbarInval n
  | .cpy => s.doCopy n
  | .cpyg => s.doCopy n
  | .cpys => s.doCopy n
  | .cpyr => s.doCopy n
  | .ldg => s.doLdg n
  | .stg => s.doStg n
  | .atmg => s.doAtmg n
  | .cqjoin => s.doCqjoin n
  | .smap => s.doSmap n
  | .ssync => s.doSsync n
  | .sinv => s.doSinv n
  | .sclose => s.doSclose n
  | .pref => s.doPref n
  | .hld => s.doHld n
  | .hst => s.doHst n
  | .hset => s.doHset n
  | .hget => s.lanes n (fun w _ _ => laneHget n w)
  | .hcpy => s.doHcpy n
  | .hadv => s.doHadv n
  | .mclr => s.doMclr n
  | .mtile => s.doMtile n
  | .mcvt => s.doMcvt n
  | .mld => s.doImage n true
  | .mexp => s.doImage n false
  | .mstat => s.lanes n (fun w _ _ => laneMstat n w)
  | .mfmt => s.doMfmt n
  | .tspawn => s.doTspawn n
  | .qrsv => s.doQrsv n
  | .qenq => s.doQenq n
  | .qdeq => s.doQdeq n
  | .qtry => s.doQtry n
  | .qsteal => s.doQtry n
  | .qerr => s.doQerr n
  | .qrest => s.doQrest n
  | .qstat => s.doQstat n
  | .succ => s.doSucc n
  | .wvis => s.doWvis n
  | .rsurr => s.doRsurr n
  | .rclaim => s.doRclaim n
  | .rstart => s.doRstart n
  | .rchild => s.doChild n
  | .rdone => s.doEnd n
  | .rret => s.doEnd n
  | .rres => s.doRres n
  | .rinfo => s.doRinfo n
  | .rbase => s.doRbase n
  | .rabort => s.doRabort n
  | .bra => s.doBra n
  | .brx => s.doBrx n
  | .call => s.doCall n
  | .callx => s.doCallx n
  | .ret => s.doBrx n
  | .exit => s.doExit n
  | .yield => s.doYield n
  | .nop => s.alu n (fun _ _ => Eff.none)
  | .trap => s.doTrap n
  | .tret => s.doTret n
  | .sysc => s.doSysc n
  | .srd => s.doSrd n
  | .swr => s.doSwr n
  | .bkpt => s.doBkpt n
  | .ackn => s.doAckn n
  | .wflg => s.doWflg n

/-- The meaning of a native or Prerin form, told from its form and fields. -/
theorem exec_of_insOf (i : Instr) (n : Ins) (s : State) (h : insOf i = some n) : exec i s = .next (s.run n) := by
  cases i <;> simp only [insOf, Instr.view, Option.some.injEq, reduceCtorEq] at h <;> subst h <;> rfl

/-- The forms that continue at the next header where they have no effect (R79). -/
def endsClause : Op → Bool
  | .bra | .brx | .call | .callx | .ret | .exit | .tret => true
  | _ => false

/-- The slow path of a warp that holds none (R203). -/
theorem State.slowDone_mapPack (s : State) (f : Nat → Thread → Thread) (hs : s.pwrp.slow = false) :
    (s.mapPack f).slowDone = s.mapPack f := by
  simp only [State.slowDone]
  split
  · rfl
  · rw [show (s.mapPack f).pack = s.pack from rfl]
    simp only [State.mapPack, State.mapThr]
    rw [State.modW_modW]
    unfold State.modW State.modG
    congr 1
    apply modAt_congr (d := Group.void)
    unfold Group.modW
    congr 1
    apply modAt_congr (d := Warp.void)
    have : (s.wrp s.pack.g s.pack.w).slow = false := hs
    simp only [State.wrp, Group.wrp, State.grp] at this
    simpa using this

/-- Where no thread takes a queue instruction, no queue is settled for it. -/
theorem State.settleNamed_skips (s : State) (n : Ins) (hk : ∀ u ∈ s.pack.ts, (s.pthr u).guard n.f.guard ≠ .take) :
    s.settleNamed n s.pack.ts = s := by
  unfold State.settleNamed
  have : ∀ l : List Nat, (∀ u ∈ l, u ∈ s.pack.ts) → l.foldl (fun s' t => s'.settleFor n s.pack.g s.pack.w t) s = s := by
    intro l
    induction l with
    | nil => intro _; rfl
    | cons u l ih =>
      intro hl
      rw [List.foldl_cons, show s.settleFor n s.pack.g s.pack.w u = s from if_neg (hk u (hl u (by simp)))]
      exact ih (fun v hv => hl v (by simp [hv]))
  exact this _ (fun _ h => h)

/-- A false guard, for a queue instruction. -/
theorem State.queueIns_skip (s : State) (n : Ins) (body : State → Nat → Nat → Nat → Nat → State)
    (hk : ∀ u ∈ s.pack.ts, (s.pthr u).guard n.f.guard = .skip) (h : AllBefore s n (fun _ => .ok Eff.none)) :
    s.queueIns n body = s.mapPack (fun _ x => x.advance n.words) := by
  unfold State.queueIns
  rw [State.front_of s n.use _ _ h.passes.1.2.2.1 h.passes.2.1 h.passes.2.2.1 h.passes.2.2.2,
    s.settleNamed_skips n (fun u hu => by rw [hk u hu]; simp)]
  refine h.skip _ _ (fun r u hu ht => ?_)
  simp only [State.move1, ht, h.ready u hu, h.res u hu, Bool.not_true, Bool.false_eq_true, if_false]

/-- A poisoned guard, for a queue instruction. -/
theorem State.queueIns_poison (s : State) (n : Ins) (body : State → Nat → Nat → Nat → Nat → State) (c : Nat) (v : DWord)
    (hk : ∀ u ∈ s.pack.ts, (s.pthr u).guard n.f.guard = .trap v) (h : AllBefore s n (fun _ => .trap c v))
    (ht : ∀ u ∈ s.pack.ts, s.trapsAt s.pack.g s.pack.w u) :
    s.queueIns n body = s.mapPack (fun _ x => x.takeTrap s.pwrp.kd.trap c v) := by
  unfold State.queueIns
  rw [State.front_of s n.use _ _ h.passes.1.2.2.1 h.passes.2.1 h.passes.2.2.1 h.passes.2.2.2,
    s.settleNamed_skips n (fun u hu => by rw [hk u hu]; simp)]
  refine h.poison _ ht (fun r u hu _ hth => ?_)
  simp only [State.move1, hth, h.ready u hu, h.res u hu, Bool.not_true, Bool.false_eq_true, if_false]
  rfl

/-- What a form does where its guard is false in every thread of its pack. -/
theorem State.run_skip (s : State) (n : Ins) (hk : ∀ u ∈ s.pack.ts, (s.pthr u).guard n.f.guard = .skip) (h : AllBefore s n (fun _ => .ok Eff.none)) (hop : n.op ≠ .ill)
    (hs : s.pwrp.slow = false) (he : n.op = .rdone ∨ n.op = .rret → s.runOf s.pack.g = none) :
    s.run n = s.mapPack (fun _ x => if endsClause n.op then x.skipClause n.words else x.advance n.words) := by
  cases ho : n.op with
  | ill => exact absurd ho hop
  | mov => simp only [State.run, ho, endsClause]; unfold State.alu; exact State.lanes_skip _ _ _ h
  | movh => simp only [State.run, ho, endsClause]; unfold State.alu; exact State.lanes_skip _ _ _ h
  | add => simp only [State.run, ho, endsClause]; unfold State.alu; exact State.lanes_skip _ _ _ h
  | sub => simp only [State.run, ho, endsClause]; unfold State.alu; exact State.lanes_skip _ _ _ h
  | addx => simp only [State.run, ho, endsClause]; unfold State.alu; exact State.lanes_skip _ _ _ h
  | subx => simp only [State.run, ho, endsClause]; unfold State.alu; exact State.lanes_skip _ _ _ h
  | mul => simp only [State.run, ho, endsClause]; unfold State.alu; exact State.lanes_skip _ _ _ h
  | mulhi => simp only [State.run, ho, endsClause]; unfold State.alu; exact State.lanes_skip _ _ _ h
  | mad => simp only [State.run, ho, endsClause]; unfold State.alu; exact State.lanes_skip _ _ _ h
  | madhi => simp only [State.run, ho, endsClause]; unfold State.alu; exact State.lanes_skip _ _ _ h
  | mulw => simp only [State.run, ho, endsClause]; unfold State.alu; exact State.lanes_skip _ _ _ h
  | madw => simp only [State.run, ho, endsClause]; unfold State.alu; exact State.lanes_skip _ _ _ h
  | min => simp only [State.run, ho, endsClause]; unfold State.alu; exact State.lanes_skip _ _ _ h
  | max => simp only [State.run, ho, endsClause]; unfold State.alu; exact State.lanes_skip _ _ _ h
  | abs => simp only [State.run, ho, endsClause]; unfold State.alu; exact State.lanes_skip _ _ _ h
  | and => simp only [State.run, ho, endsClause]; unfold State.alu; exact State.lanes_skip _ _ _ h
  | or => simp only [State.run, ho, endsClause]; unfold State.alu; exact State.lanes_skip _ _ _ h
  | xor => simp only [State.run, ho, endsClause]; unfold State.alu; exact State.lanes_skip _ _ _ h
  | andn => simp only [State.run, ho, endsClause]; unfold State.alu; exact State.lanes_skip _ _ _ h
  | lop3 => simp only [State.run, ho, endsClause]; unfold State.alu; exact State.lanes_skip _ _ _ h
  | shl => simp only [State.run, ho, endsClause]; unfold State.alu; exact State.lanes_skip _ _ _ h
  | shr => simp only [State.run, ho, endsClause]; unfold State.alu; exact State.lanes_skip _ _ _ h
  | sar => simp only [State.run, ho, endsClause]; unfold State.alu; exact State.lanes_skip _ _ _ h
  | rot => simp only [State.run, ho, endsClause]; unfold State.alu; exact State.lanes_skip _ _ _ h
  | fsh => simp only [State.run, ho, endsClause]; unfold State.alu; exact State.lanes_skip _ _ _ h
  | bfx => simp only [State.run, ho, endsClause]; unfold State.alu; exact State.lanes_skip _ _ _ h
  | bfi => simp only [State.run, ho, endsClause]; unfold State.alu; exact State.lanes_skip _ _ _ h
  | popc => simp only [State.run, ho, endsClause]; unfold State.alu; exact State.lanes_skip _ _ _ h
  | clz => simp only [State.run, ho, endsClause]; unfold State.alu; exact State.lanes_skip _ _ _ h
  | ctz => simp only [State.run, ho, endsClause]; unfold State.alu; exact State.lanes_skip _ _ _ h
  | brev => simp only [State.run, ho, endsClause]; unfold State.alu; exact State.lanes_skip _ _ _ h
  | bperm => simp only [State.run, ho, endsClause]; unfold State.alu; exact State.lanes_skip _ _ _ h
  | sel => simp only [State.run, ho, endsClause]; unfold State.alu; exact State.lanes_skip _ _ _ h
  | cmp => simp only [State.run, ho, endsClause]; unfold State.alu; exact State.lanes_skip _ _ _ h
  | lea => simp only [State.run, ho, endsClause]; unfold State.alu; exact State.lanes_skip _ _ _ h
  | sad => simp only [State.run, ho, endsClause]; unfold State.alu; exact State.lanes_skip _ _ _ h
  | dot4 => simp only [State.run, ho, endsClause]; unfold State.alu; exact State.lanes_skip _ _ _ h
  | dot2 => simp only [State.run, ho, endsClause]; unfold State.alu; exact State.lanes_skip _ _ _ h
  | vadd2 => simp only [State.run, ho, endsClause]; unfold State.alu; exact State.lanes_skip _ _ _ h
  | vsub2 => simp only [State.run, ho, endsClause]; unfold State.alu; exact State.lanes_skip _ _ _ h
  | vmax2 => simp only [State.run, ho, endsClause]; unfold State.alu; exact State.lanes_skip _ _ _ h
  | vmin2 => simp only [State.run, ho, endsClause]; unfold State.alu; exact State.lanes_skip _ _ _ h
  | plop => simp only [State.run, ho, endsClause]; unfold State.alu; exact State.lanes_skip _ _ _ h
  | pmov => simp only [State.run, ho, endsClause]; unfold State.alu; exact State.lanes_skip _ _ _ h
  | fadd => simp only [State.run, ho, endsClause]; unfold State.alu; exact State.lanes_skip _ _ _ h
  | fsub => simp only [State.run, ho, endsClause]; unfold State.alu; exact State.lanes_skip _ _ _ h
  | fmul => simp only [State.run, ho, endsClause]; unfold State.alu; exact State.lanes_skip _ _ _ h
  | ffma => simp only [State.run, ho, endsClause]; unfold State.alu; exact State.lanes_skip _ _ _ h
  | fmin => simp only [State.run, ho, endsClause]; unfold State.alu; exact State.lanes_skip _ _ _ h
  | fmax => simp only [State.run, ho, endsClause]; unfold State.alu; exact State.lanes_skip _ _ _ h
  | fcmp => simp only [State.run, ho, endsClause]; unfold State.alu; exact State.lanes_skip _ _ _ h
  | fclamp => simp only [State.run, ho, endsClause]; unfold State.alu; exact State.lanes_skip _ _ _ h
  | frnd => simp only [State.run, ho, endsClause]; unfold State.alu; exact State.lanes_skip _ _ _ h
  | hadd2 => simp only [State.run, ho, endsClause]; unfold State.alu; exact State.lanes_skip _ _ _ h
  | hmul2 => simp only [State.run, ho, endsClause]; unfold State.alu; exact State.lanes_skip _ _ _ h
  | hfma2 => simp only [State.run, ho, endsClause]; unfold State.alu; exact State.lanes_skip _ _ _ h
  | hmin2 => simp only [State.run, ho, endsClause]; unfold State.alu; exact State.lanes_skip _ _ _ h
  | hmax2 => simp only [State.run, ho, endsClause]; unfold State.alu; exact State.lanes_skip _ _ _ h
  | hcmp2 => simp only [State.run, ho, endsClause]; unfold State.alu; exact State.lanes_skip _ _ _ h
  | fdot2 => simp only [State.run, ho, endsClause]; unfold State.alu; exact State.lanes_skip _ _ _ h
  | cvt => simp only [State.run, ho, endsClause]; unfold State.alu; exact State.lanes_skip _ _ _ h
  | cvtpk => simp only [State.run, ho, endsClause]; unfold State.alu; exact State.lanes_skip _ _ _ h
  | unpk => simp only [State.run, ho, endsClause]; unfold State.alu; exact State.lanes_skip _ _ _ h
  | q4enc => simp only [State.run, ho, endsClause]; unfold State.alu; exact State.lanes_skip _ _ _ h
  | q4dec => simp only [State.run, ho, endsClause]; unfold State.alu; exact State.lanes_skip _ _ _ h
  | frcp => simp only [State.run, ho, endsClause]; unfold State.alu; exact State.lanes_skip _ _ _ h
  | frsq => simp only [State.run, ho, endsClause]; unfold State.alu; exact State.lanes_skip _ _ _ h
  | fsqrt => simp only [State.run, ho, endsClause]; unfold State.alu; exact State.lanes_skip _ _ _ h
  | fex2 => simp only [State.run, ho, endsClause]; unfold State.alu; exact State.lanes_skip _ _ _ h
  | flg2 => simp only [State.run, ho, endsClause]; unfold State.alu; exact State.lanes_skip _ _ _ h
  | fsin => simp only [State.run, ho, endsClause]; unfold State.alu; exact State.lanes_skip _ _ _ h
  | fcos => simp only [State.run, ho, endsClause]; unfold State.alu; exact State.lanes_skip _ _ _ h
  | ftanh => simp only [State.run, ho, endsClause]; unfold State.alu; exact State.lanes_skip _ _ _ h
  | fact => simp only [State.run, ho, endsClause]; exact State.lanes_skip _ _ _ h
  | atld => simp only [State.run, ho, endsClause]; unfold State.doAtld; exact State.once_skip _ _ _ _ h
  | atsel => simp only [State.run, ho, endsClause]; unfold State.doAtsel; exact State.once_skip _ _ _ _ h
  | shfl => simp only [State.run, ho, endsClause]; exact State.lanes_skip _ _ _ h
  | vote => simp only [State.run, ho, endsClause]; exact State.lanes_skip _ _ _ h
  | matchk => simp only [State.run, ho, endsClause]; exact State.lanes_skip _ _ _ h
  | redux => simp only [State.run, ho, endsClause]; exact State.lanes_skip _ _ _ h
  | redix => simp only [State.run, ho, endsClause]; exact State.lanes_skip _ _ _ h
  | scan => simp only [State.run, ho, endsClause]; exact State.lanes_skip _ _ _ h
  | setpart => simp only [State.run, ho, endsClause]; unfold State.doSetpart; exact State.once_skip _ _ _ _ h
  | actv => simp only [State.run, ho, endsClause]; exact State.lanes_skip _ _ _ h
  | lds => simp only [State.run, ho, endsClause]; unfold State.doLoad; rw [State.inTurn_skip _ _ _ _ h]; exact State.slowDone_mapPack s _ hs
  | sts => simp only [State.run, ho, endsClause]; unfold State.doStore; rw [State.inTurn_skip _ _ _ _ h]; exact State.slowDone_mapPack s _ hs
  | ldsa => simp only [State.run, ho, endsClause]; unfold State.doLoad; rw [State.inTurn_skip _ _ _ _ h]; exact State.slowDone_mapPack s _ hs
  | stsr => simp only [State.run, ho, endsClause]; unfold State.doStore; rw [State.inTurn_skip _ _ _ _ h]; exact State.slowDone_mapPack s _ hs
  | atms => simp only [State.run, ho, endsClause]; unfold State.doAtms; rw [State.inTurn_skip _ _ _ _ h]; exact State.slowDone_mapPack s _ hs
  | ldw => simp only [State.run, ho, endsClause]; unfold State.doLdw; exact State.inTurn_skip _ _ _ _ h
  | fence => simp only [State.run, ho, endsClause]; unfold State.doFence; exact State.inTurn_skip _ _ _ _ h
  | bar => simp only [State.run, ho, endsClause]; unfold State.doBar; exact State.control_skip _ _ _ _ _ h
  | xbarInit => simp only [State.run, ho, endsClause]; unfold State.doXbarInit; exact State.once_skip _ _ _ _ h
  | xbarArrive => simp only [State.run, ho, endsClause]; unfold State.doXbarArrive; rw [State.inTurn_skip _ _ _ _ h]; exact State.slowDone_mapPack s _ hs
  | xbarWait => simp only [State.run, ho, endsClause]; unfold State.doXbarWait; rw [State.control_skip _ _ _ _ _ h]; exact State.slowDone_mapPack s _ hs
  | xbarInval => simp only [State.run, ho, endsClause]; unfold State.doXbarInval; exact State.once_skip _ _ _ _ h
  | cpy => simp only [State.run, ho, endsClause]; unfold State.doCopy; exact State.once_skip _ _ _ _ h
  | cpyg => simp only [State.run, ho, endsClause]; unfold State.doCopy; exact State.once_skip _ _ _ _ h
  | cpys => simp only [State.run, ho, endsClause]; unfold State.doCopy; exact State.once_skip _ _ _ _ h
  | cpyr => simp only [State.run, ho, endsClause]; unfold State.doCopy; exact State.once_skip _ _ _ _ h
  | ldg => simp only [State.run, ho, endsClause]; unfold State.doLdg; unfold State.doAccs; exact State.once_skip _ _ _ _ h
  | stg => simp only [State.run, ho, endsClause]; unfold State.doStg; unfold State.doAccs; exact State.once_skip _ _ _ _ h
  | atmg => simp only [State.run, ho, endsClause]; unfold State.doAtmg; unfold State.doAccs; exact State.once_skip _ _ _ _ h
  | cqjoin => simp only [State.run, ho, endsClause]; unfold State.doCqjoin; exact State.once_skip _ _ _ _ h
  | smap => simp only [State.run, ho, endsClause]; unfold State.doSmap; exact State.once_skip _ _ _ _ h
  | ssync => simp only [State.run, ho, endsClause]; unfold State.doSsync; exact State.once_skip _ _ _ _ h
  | sinv => simp only [State.run, ho, endsClause]; unfold State.doSinv; exact State.once_skip _ _ _ _ h
  | sclose => simp only [State.run, ho, endsClause]; unfold State.doSclose; exact State.once_skip _ _ _ _ h
  | pref => simp only [State.run, ho, endsClause]; unfold State.doPref; unfold State.doAccs; exact State.once_skip _ _ _ _ h
  | hld => simp only [State.run, ho, endsClause]; unfold State.doHld; rw [State.once_skip _ _ _ _ h]; exact State.slowDone_mapPack s _ hs
  | hst => simp only [State.run, ho, endsClause]; unfold State.doHst; rw [State.once_skip _ _ _ _ h]; exact State.slowDone_mapPack s _ hs
  | hset => simp only [State.run, ho, endsClause]; unfold State.doHset; exact State.once_skip _ _ _ _ h
  | hget => simp only [State.run, ho, endsClause]; exact State.lanes_skip _ _ _ h
  | hcpy => simp only [State.run, ho, endsClause]; unfold State.doHcpy; exact State.once_skip _ _ _ _ h
  | hadv => simp only [State.run, ho, endsClause]; unfold State.doHadv; exact State.once_skip _ _ _ _ h
  | mclr => simp only [State.run, ho, endsClause]; unfold State.doMclr; exact State.once_skip _ _ _ _ h
  | mtile => simp only [State.run, ho, endsClause]; unfold State.doMtile; exact State.collective_skip _ _ _ _ hk h
  | mcvt => simp only [State.run, ho, endsClause]; unfold State.doMcvt; exact State.collective_skip _ _ _ _ hk h
  | mld => simp only [State.run, ho, endsClause]; unfold State.doImage; exact State.once_skip _ _ _ _ h
  | mexp => simp only [State.run, ho, endsClause]; unfold State.doImage; exact State.once_skip _ _ _ _ h
  | mstat => simp only [State.run, ho, endsClause]; exact State.lanes_skip _ _ _ h
  | mfmt => simp only [State.run, ho, endsClause]; unfold State.doMfmt; exact State.inTurn_skip _ _ _ _ h
  | tspawn => simp only [State.run, ho, endsClause]; unfold State.doTspawn; exact State.control_skip _ _ _ _ _ h
  | qrsv => simp only [State.run, ho, endsClause]; unfold State.doQrsv; exact State.queueIns_skip _ _ _ hk h
  | qenq => simp only [State.run, ho, endsClause]; unfold State.doQenq; exact State.queueIns_skip _ _ _ hk h
  | qdeq => simp only [State.run, ho, endsClause]; unfold State.doQdeq; exact State.queueIns_skip _ _ _ hk h
  | qtry => simp only [State.run, ho, endsClause]; unfold State.doQtry; exact State.queueIns_skip _ _ _ hk h
  | qsteal => simp only [State.run, ho, endsClause]; unfold State.doQtry; exact State.queueIns_skip _ _ _ hk h
  | qerr => simp only [State.run, ho, endsClause]; unfold State.doQerr; exact State.queueIns_skip _ _ _ hk h
  | qrest => simp only [State.run, ho, endsClause]; unfold State.doQrest; exact State.queueIns_skip _ _ _ hk h
  | qstat => simp only [State.run, ho, endsClause]; unfold State.doQstat; exact State.queueIns_skip _ _ _ hk h
  | succ => simp only [State.run, ho, endsClause]; unfold State.doSucc; exact State.once_skip _ _ _ _ h
  | wvis => simp only [State.run, ho, endsClause]; unfold State.doWvis; exact State.control_skip _ _ _ _ _ h
  | rsurr => simp only [State.run, ho, endsClause]; unfold State.doRsurr; exact State.once_skip _ _ _ _ h
  | rclaim => simp only [State.run, ho, endsClause]; unfold State.doRclaim; exact State.once_skip _ _ _ _ h
  | rstart => simp only [State.run, ho, endsClause]; unfold State.doRstart; exact State.control_skip _ _ _ _ _ h
  | rchild => simp only [State.run, ho, endsClause]; unfold State.doChild; exact State.control_skip _ _ _ _ _ h
  | rdone => simp only [State.run, ho, endsClause]; unfold State.doEnd; simp only [show s.runOf s.pack.g = none from he (by simp [ho])]; exact State.control_skip _ _ _ _ _ h
  | rret => simp only [State.run, ho, endsClause]; unfold State.doEnd; simp only [show s.runOf s.pack.g = none from he (by simp [ho])]; exact State.control_skip _ _ _ _ _ h
  | rres => simp only [State.run, ho, endsClause]; unfold State.doRres; exact State.control_skip _ _ _ _ _ h
  | rinfo => simp only [State.run, ho, endsClause]; unfold State.doRinfo; exact State.control_skip _ _ _ _ _ h
  | rbase => simp only [State.run, ho, endsClause]; unfold State.doRbase; exact State.control_skip _ _ _ _ _ h
  | rabort => simp only [State.run, ho, endsClause]; unfold State.doRabort; exact State.control_skip _ _ _ _ _ h
  | bra => simp only [State.run, ho, endsClause]; unfold State.doBra; exact State.control_skip _ _ _ _ _ h
  | brx => simp only [State.run, ho, endsClause]; unfold State.doBrx; exact State.control_skip _ _ _ _ _ h
  | call => simp only [State.run, ho, endsClause]; unfold State.doCall; exact State.control_skip _ _ _ _ _ h
  | callx => simp only [State.run, ho, endsClause]; unfold State.doCallx; exact State.control_skip _ _ _ _ _ h
  | ret => simp only [State.run, ho, endsClause]; unfold State.doBrx; exact State.control_skip _ _ _ _ _ h
  | exit => simp only [State.run, ho, endsClause]; unfold State.doExit; exact State.control_skip _ _ _ _ _ h
  | yield => simp only [State.run, ho, endsClause]; unfold State.doYield; exact State.control_skip _ _ _ _ _ h
  | nop => simp only [State.run, ho, endsClause]; unfold State.alu; exact State.lanes_skip _ _ _ h
  | trap => simp only [State.run, ho, endsClause]; unfold State.doTrap; exact State.control_skip _ _ _ _ _ h
  | tret => simp only [State.run, ho, endsClause]; unfold State.doTret; exact State.control_skip _ _ _ _ _ h
  | sysc => simp only [State.run, ho, endsClause]; unfold State.doSysc; exact State.control_skip _ _ _ _ _ h
  | srd => simp only [State.run, ho, endsClause]; unfold State.doSrd; exact State.lanes_skip _ _ _ h
  | swr => simp only [State.run, ho, endsClause]; unfold State.doSwr; exact State.control_skip _ _ _ _ _ h
  | bkpt => simp only [State.run, ho, endsClause]; unfold State.doBkpt; exact State.control_skip _ _ _ _ _ h
  | ackn => simp only [State.run, ho, endsClause]; unfold State.doAckn; exact State.control_skip _ _ _ _ _ h
  | wflg => simp only [State.run, ho, endsClause]; unfold State.doWflg; exact State.control_skip _ _ _ _ _ h

/-- What a form does where its guard is poisoned in every thread of its pack. -/
theorem State.run_poison (s : State) (n : Ins) (v : DWord) (hk : ∀ u ∈ s.pack.ts, (s.pthr u).guard n.f.guard = .trap v) (h : AllBefore s n (fun _ => .trap 0x04 v)) (hop : n.op ≠ .ill)
    (hs : s.pwrp.slow = false) (he : n.op = .rdone ∨ n.op = .rret → s.runOf s.pack.g = none)
    (ht : ∀ u ∈ s.pack.ts, s.trapsAt s.pack.g s.pack.w u) :
    s.run n = s.mapPack (fun _ x => x.takeTrap s.pwrp.kd.trap 0x04 v) := by
  cases ho : n.op with
  | ill => exact absurd ho hop
  | mov => simp only [State.run, ho]; unfold State.alu; exact State.lanes_poison _ _ _ _ _ h ht
  | movh => simp only [State.run, ho]; unfold State.alu; exact State.lanes_poison _ _ _ _ _ h ht
  | add => simp only [State.run, ho]; unfold State.alu; exact State.lanes_poison _ _ _ _ _ h ht
  | sub => simp only [State.run, ho]; unfold State.alu; exact State.lanes_poison _ _ _ _ _ h ht
  | addx => simp only [State.run, ho]; unfold State.alu; exact State.lanes_poison _ _ _ _ _ h ht
  | subx => simp only [State.run, ho]; unfold State.alu; exact State.lanes_poison _ _ _ _ _ h ht
  | mul => simp only [State.run, ho]; unfold State.alu; exact State.lanes_poison _ _ _ _ _ h ht
  | mulhi => simp only [State.run, ho]; unfold State.alu; exact State.lanes_poison _ _ _ _ _ h ht
  | mad => simp only [State.run, ho]; unfold State.alu; exact State.lanes_poison _ _ _ _ _ h ht
  | madhi => simp only [State.run, ho]; unfold State.alu; exact State.lanes_poison _ _ _ _ _ h ht
  | mulw => simp only [State.run, ho]; unfold State.alu; exact State.lanes_poison _ _ _ _ _ h ht
  | madw => simp only [State.run, ho]; unfold State.alu; exact State.lanes_poison _ _ _ _ _ h ht
  | min => simp only [State.run, ho]; unfold State.alu; exact State.lanes_poison _ _ _ _ _ h ht
  | max => simp only [State.run, ho]; unfold State.alu; exact State.lanes_poison _ _ _ _ _ h ht
  | abs => simp only [State.run, ho]; unfold State.alu; exact State.lanes_poison _ _ _ _ _ h ht
  | and => simp only [State.run, ho]; unfold State.alu; exact State.lanes_poison _ _ _ _ _ h ht
  | or => simp only [State.run, ho]; unfold State.alu; exact State.lanes_poison _ _ _ _ _ h ht
  | xor => simp only [State.run, ho]; unfold State.alu; exact State.lanes_poison _ _ _ _ _ h ht
  | andn => simp only [State.run, ho]; unfold State.alu; exact State.lanes_poison _ _ _ _ _ h ht
  | lop3 => simp only [State.run, ho]; unfold State.alu; exact State.lanes_poison _ _ _ _ _ h ht
  | shl => simp only [State.run, ho]; unfold State.alu; exact State.lanes_poison _ _ _ _ _ h ht
  | shr => simp only [State.run, ho]; unfold State.alu; exact State.lanes_poison _ _ _ _ _ h ht
  | sar => simp only [State.run, ho]; unfold State.alu; exact State.lanes_poison _ _ _ _ _ h ht
  | rot => simp only [State.run, ho]; unfold State.alu; exact State.lanes_poison _ _ _ _ _ h ht
  | fsh => simp only [State.run, ho]; unfold State.alu; exact State.lanes_poison _ _ _ _ _ h ht
  | bfx => simp only [State.run, ho]; unfold State.alu; exact State.lanes_poison _ _ _ _ _ h ht
  | bfi => simp only [State.run, ho]; unfold State.alu; exact State.lanes_poison _ _ _ _ _ h ht
  | popc => simp only [State.run, ho]; unfold State.alu; exact State.lanes_poison _ _ _ _ _ h ht
  | clz => simp only [State.run, ho]; unfold State.alu; exact State.lanes_poison _ _ _ _ _ h ht
  | ctz => simp only [State.run, ho]; unfold State.alu; exact State.lanes_poison _ _ _ _ _ h ht
  | brev => simp only [State.run, ho]; unfold State.alu; exact State.lanes_poison _ _ _ _ _ h ht
  | bperm => simp only [State.run, ho]; unfold State.alu; exact State.lanes_poison _ _ _ _ _ h ht
  | sel => simp only [State.run, ho]; unfold State.alu; exact State.lanes_poison _ _ _ _ _ h ht
  | cmp => simp only [State.run, ho]; unfold State.alu; exact State.lanes_poison _ _ _ _ _ h ht
  | lea => simp only [State.run, ho]; unfold State.alu; exact State.lanes_poison _ _ _ _ _ h ht
  | sad => simp only [State.run, ho]; unfold State.alu; exact State.lanes_poison _ _ _ _ _ h ht
  | dot4 => simp only [State.run, ho]; unfold State.alu; exact State.lanes_poison _ _ _ _ _ h ht
  | dot2 => simp only [State.run, ho]; unfold State.alu; exact State.lanes_poison _ _ _ _ _ h ht
  | vadd2 => simp only [State.run, ho]; unfold State.alu; exact State.lanes_poison _ _ _ _ _ h ht
  | vsub2 => simp only [State.run, ho]; unfold State.alu; exact State.lanes_poison _ _ _ _ _ h ht
  | vmax2 => simp only [State.run, ho]; unfold State.alu; exact State.lanes_poison _ _ _ _ _ h ht
  | vmin2 => simp only [State.run, ho]; unfold State.alu; exact State.lanes_poison _ _ _ _ _ h ht
  | plop => simp only [State.run, ho]; unfold State.alu; exact State.lanes_poison _ _ _ _ _ h ht
  | pmov => simp only [State.run, ho]; unfold State.alu; exact State.lanes_poison _ _ _ _ _ h ht
  | fadd => simp only [State.run, ho]; unfold State.alu; exact State.lanes_poison _ _ _ _ _ h ht
  | fsub => simp only [State.run, ho]; unfold State.alu; exact State.lanes_poison _ _ _ _ _ h ht
  | fmul => simp only [State.run, ho]; unfold State.alu; exact State.lanes_poison _ _ _ _ _ h ht
  | ffma => simp only [State.run, ho]; unfold State.alu; exact State.lanes_poison _ _ _ _ _ h ht
  | fmin => simp only [State.run, ho]; unfold State.alu; exact State.lanes_poison _ _ _ _ _ h ht
  | fmax => simp only [State.run, ho]; unfold State.alu; exact State.lanes_poison _ _ _ _ _ h ht
  | fcmp => simp only [State.run, ho]; unfold State.alu; exact State.lanes_poison _ _ _ _ _ h ht
  | fclamp => simp only [State.run, ho]; unfold State.alu; exact State.lanes_poison _ _ _ _ _ h ht
  | frnd => simp only [State.run, ho]; unfold State.alu; exact State.lanes_poison _ _ _ _ _ h ht
  | hadd2 => simp only [State.run, ho]; unfold State.alu; exact State.lanes_poison _ _ _ _ _ h ht
  | hmul2 => simp only [State.run, ho]; unfold State.alu; exact State.lanes_poison _ _ _ _ _ h ht
  | hfma2 => simp only [State.run, ho]; unfold State.alu; exact State.lanes_poison _ _ _ _ _ h ht
  | hmin2 => simp only [State.run, ho]; unfold State.alu; exact State.lanes_poison _ _ _ _ _ h ht
  | hmax2 => simp only [State.run, ho]; unfold State.alu; exact State.lanes_poison _ _ _ _ _ h ht
  | hcmp2 => simp only [State.run, ho]; unfold State.alu; exact State.lanes_poison _ _ _ _ _ h ht
  | fdot2 => simp only [State.run, ho]; unfold State.alu; exact State.lanes_poison _ _ _ _ _ h ht
  | cvt => simp only [State.run, ho]; unfold State.alu; exact State.lanes_poison _ _ _ _ _ h ht
  | cvtpk => simp only [State.run, ho]; unfold State.alu; exact State.lanes_poison _ _ _ _ _ h ht
  | unpk => simp only [State.run, ho]; unfold State.alu; exact State.lanes_poison _ _ _ _ _ h ht
  | q4enc => simp only [State.run, ho]; unfold State.alu; exact State.lanes_poison _ _ _ _ _ h ht
  | q4dec => simp only [State.run, ho]; unfold State.alu; exact State.lanes_poison _ _ _ _ _ h ht
  | frcp => simp only [State.run, ho]; unfold State.alu; exact State.lanes_poison _ _ _ _ _ h ht
  | frsq => simp only [State.run, ho]; unfold State.alu; exact State.lanes_poison _ _ _ _ _ h ht
  | fsqrt => simp only [State.run, ho]; unfold State.alu; exact State.lanes_poison _ _ _ _ _ h ht
  | fex2 => simp only [State.run, ho]; unfold State.alu; exact State.lanes_poison _ _ _ _ _ h ht
  | flg2 => simp only [State.run, ho]; unfold State.alu; exact State.lanes_poison _ _ _ _ _ h ht
  | fsin => simp only [State.run, ho]; unfold State.alu; exact State.lanes_poison _ _ _ _ _ h ht
  | fcos => simp only [State.run, ho]; unfold State.alu; exact State.lanes_poison _ _ _ _ _ h ht
  | ftanh => simp only [State.run, ho]; unfold State.alu; exact State.lanes_poison _ _ _ _ _ h ht
  | fact => simp only [State.run, ho]; exact State.lanes_poison _ _ _ _ _ h ht
  | atld => simp only [State.run, ho]; unfold State.doAtld; exact State.once_poison _ _ _ _ _ _ h ht
  | atsel => simp only [State.run, ho]; unfold State.doAtsel; exact State.once_poison _ _ _ _ _ _ h ht
  | shfl => simp only [State.run, ho]; exact State.lanes_poison _ _ _ _ _ h ht
  | vote => simp only [State.run, ho]; exact State.lanes_poison _ _ _ _ _ h ht
  | matchk => simp only [State.run, ho]; exact State.lanes_poison _ _ _ _ _ h ht
  | redux => simp only [State.run, ho]; exact State.lanes_poison _ _ _ _ _ h ht
  | redix => simp only [State.run, ho]; exact State.lanes_poison _ _ _ _ _ h ht
  | scan => simp only [State.run, ho]; exact State.lanes_poison _ _ _ _ _ h ht
  | setpart => simp only [State.run, ho]; unfold State.doSetpart; exact State.once_poison _ _ _ _ _ _ h ht
  | actv => simp only [State.run, ho]; exact State.lanes_poison _ _ _ _ _ h ht
  | lds => simp only [State.run, ho]; unfold State.doLoad; rw [State.inTurn_poison _ _ _ _ _ _ h ht]; exact State.slowDone_mapPack s _ hs
  | sts => simp only [State.run, ho]; unfold State.doStore; rw [State.inTurn_poison _ _ _ _ _ _ h ht]; exact State.slowDone_mapPack s _ hs
  | ldsa => simp only [State.run, ho]; unfold State.doLoad; rw [State.inTurn_poison _ _ _ _ _ _ h ht]; exact State.slowDone_mapPack s _ hs
  | stsr => simp only [State.run, ho]; unfold State.doStore; rw [State.inTurn_poison _ _ _ _ _ _ h ht]; exact State.slowDone_mapPack s _ hs
  | atms => simp only [State.run, ho]; unfold State.doAtms; rw [State.inTurn_poison _ _ _ _ _ _ h ht]; exact State.slowDone_mapPack s _ hs
  | ldw => simp only [State.run, ho]; unfold State.doLdw; exact State.inTurn_poison _ _ _ _ _ _ h ht
  | fence => simp only [State.run, ho]; unfold State.doFence; exact State.inTurn_poison _ _ _ _ _ _ h ht
  | bar => simp only [State.run, ho]; unfold State.doBar; exact State.control_poison _ _ _ _ _ _ _ h ht
  | xbarInit => simp only [State.run, ho]; unfold State.doXbarInit; exact State.once_poison _ _ _ _ _ _ h ht
  | xbarArrive => simp only [State.run, ho]; unfold State.doXbarArrive; rw [State.inTurn_poison _ _ _ _ _ _ h ht]; exact State.slowDone_mapPack s _ hs
  | xbarWait => simp only [State.run, ho]; unfold State.doXbarWait; rw [State.control_poison _ _ _ _ _ _ _ h ht]; exact State.slowDone_mapPack s _ hs
  | xbarInval => simp only [State.run, ho]; unfold State.doXbarInval; exact State.once_poison _ _ _ _ _ _ h ht
  | cpy => simp only [State.run, ho]; unfold State.doCopy; exact State.once_poison _ _ _ _ _ _ h ht
  | cpyg => simp only [State.run, ho]; unfold State.doCopy; exact State.once_poison _ _ _ _ _ _ h ht
  | cpys => simp only [State.run, ho]; unfold State.doCopy; exact State.once_poison _ _ _ _ _ _ h ht
  | cpyr => simp only [State.run, ho]; unfold State.doCopy; exact State.once_poison _ _ _ _ _ _ h ht
  | ldg => simp only [State.run, ho]; unfold State.doLdg; unfold State.doAccs; exact State.once_poison _ _ _ _ _ _ h ht
  | stg => simp only [State.run, ho]; unfold State.doStg; unfold State.doAccs; exact State.once_poison _ _ _ _ _ _ h ht
  | atmg => simp only [State.run, ho]; unfold State.doAtmg; unfold State.doAccs; exact State.once_poison _ _ _ _ _ _ h ht
  | cqjoin => simp only [State.run, ho]; unfold State.doCqjoin; exact State.once_poison _ _ _ _ _ _ h ht
  | smap => simp only [State.run, ho]; unfold State.doSmap; exact State.once_poison _ _ _ _ _ _ h ht
  | ssync => simp only [State.run, ho]; unfold State.doSsync; exact State.once_poison _ _ _ _ _ _ h ht
  | sinv => simp only [State.run, ho]; unfold State.doSinv; exact State.once_poison _ _ _ _ _ _ h ht
  | sclose => simp only [State.run, ho]; unfold State.doSclose; exact State.once_poison _ _ _ _ _ _ h ht
  | pref => simp only [State.run, ho]; unfold State.doPref; unfold State.doAccs; exact State.once_poison _ _ _ _ _ _ h ht
  | hld => simp only [State.run, ho]; unfold State.doHld; rw [State.once_poison _ _ _ _ _ _ h ht]; exact State.slowDone_mapPack s _ hs
  | hst => simp only [State.run, ho]; unfold State.doHst; rw [State.once_poison _ _ _ _ _ _ h ht]; exact State.slowDone_mapPack s _ hs
  | hset => simp only [State.run, ho]; unfold State.doHset; exact State.once_poison _ _ _ _ _ _ h ht
  | hget => simp only [State.run, ho]; exact State.lanes_poison _ _ _ _ _ h ht
  | hcpy => simp only [State.run, ho]; unfold State.doHcpy; exact State.once_poison _ _ _ _ _ _ h ht
  | hadv => simp only [State.run, ho]; unfold State.doHadv; exact State.once_poison _ _ _ _ _ _ h ht
  | mclr => simp only [State.run, ho]; unfold State.doMclr; exact State.once_poison _ _ _ _ _ _ h ht
  | mtile => simp only [State.run, ho]; unfold State.doMtile; exact State.collective_poison _ _ _ _ _ hk h ht
  | mcvt => simp only [State.run, ho]; unfold State.doMcvt; exact State.collective_poison _ _ _ _ _ hk h ht
  | mld => simp only [State.run, ho]; unfold State.doImage; exact State.once_poison _ _ _ _ _ _ h ht
  | mexp => simp only [State.run, ho]; unfold State.doImage; exact State.once_poison _ _ _ _ _ _ h ht
  | mstat => simp only [State.run, ho]; exact State.lanes_poison _ _ _ _ _ h ht
  | mfmt => simp only [State.run, ho]; unfold State.doMfmt; exact State.inTurn_poison _ _ _ _ _ _ h ht
  | tspawn => simp only [State.run, ho]; unfold State.doTspawn; exact State.control_poison _ _ _ _ _ _ _ h ht
  | qrsv => simp only [State.run, ho]; unfold State.doQrsv; exact State.queueIns_poison _ _ _ _ _ hk h ht
  | qenq => simp only [State.run, ho]; unfold State.doQenq; exact State.queueIns_poison _ _ _ _ _ hk h ht
  | qdeq => simp only [State.run, ho]; unfold State.doQdeq; exact State.queueIns_poison _ _ _ _ _ hk h ht
  | qtry => simp only [State.run, ho]; unfold State.doQtry; exact State.queueIns_poison _ _ _ _ _ hk h ht
  | qsteal => simp only [State.run, ho]; unfold State.doQtry; exact State.queueIns_poison _ _ _ _ _ hk h ht
  | qerr => simp only [State.run, ho]; unfold State.doQerr; exact State.queueIns_poison _ _ _ _ _ hk h ht
  | qrest => simp only [State.run, ho]; unfold State.doQrest; exact State.queueIns_poison _ _ _ _ _ hk h ht
  | qstat => simp only [State.run, ho]; unfold State.doQstat; exact State.queueIns_poison _ _ _ _ _ hk h ht
  | succ => simp only [State.run, ho]; unfold State.doSucc; exact State.once_poison _ _ _ _ _ _ h ht
  | wvis => simp only [State.run, ho]; unfold State.doWvis; exact State.control_poison _ _ _ _ _ _ _ h ht
  | rsurr => simp only [State.run, ho]; unfold State.doRsurr; exact State.once_poison _ _ _ _ _ _ h ht
  | rclaim => simp only [State.run, ho]; unfold State.doRclaim; exact State.once_poison _ _ _ _ _ _ h ht
  | rstart => simp only [State.run, ho]; unfold State.doRstart; exact State.control_poison _ _ _ _ _ _ _ h ht
  | rchild => simp only [State.run, ho]; unfold State.doChild; exact State.control_poison _ _ _ _ _ _ _ h ht
  | rdone => simp only [State.run, ho]; unfold State.doEnd; simp only [show s.runOf s.pack.g = none from he (by simp [ho])]; exact State.control_poison _ _ _ _ _ _ _ h ht
  | rret => simp only [State.run, ho]; unfold State.doEnd; simp only [show s.runOf s.pack.g = none from he (by simp [ho])]; exact State.control_poison _ _ _ _ _ _ _ h ht
  | rres => simp only [State.run, ho]; unfold State.doRres; exact State.control_poison _ _ _ _ _ _ _ h ht
  | rinfo => simp only [State.run, ho]; unfold State.doRinfo; exact State.control_poison _ _ _ _ _ _ _ h ht
  | rbase => simp only [State.run, ho]; unfold State.doRbase; exact State.control_poison _ _ _ _ _ _ _ h ht
  | rabort => simp only [State.run, ho]; unfold State.doRabort; exact State.control_poison _ _ _ _ _ _ _ h ht
  | bra => simp only [State.run, ho]; unfold State.doBra; exact State.control_poison _ _ _ _ _ _ _ h ht
  | brx => simp only [State.run, ho]; unfold State.doBrx; exact State.control_poison _ _ _ _ _ _ _ h ht
  | call => simp only [State.run, ho]; unfold State.doCall; exact State.control_poison _ _ _ _ _ _ _ h ht
  | callx => simp only [State.run, ho]; unfold State.doCallx; exact State.control_poison _ _ _ _ _ _ _ h ht
  | ret => simp only [State.run, ho]; unfold State.doBrx; exact State.control_poison _ _ _ _ _ _ _ h ht
  | exit => simp only [State.run, ho]; unfold State.doExit; exact State.control_poison _ _ _ _ _ _ _ h ht
  | yield => simp only [State.run, ho]; unfold State.doYield; exact State.control_poison _ _ _ _ _ _ _ h ht
  | nop => simp only [State.run, ho]; unfold State.alu; exact State.lanes_poison _ _ _ _ _ h ht
  | trap => simp only [State.run, ho]; unfold State.doTrap; exact State.control_poison _ _ _ _ _ _ _ h ht
  | tret => simp only [State.run, ho]; unfold State.doTret; exact State.control_poison _ _ _ _ _ _ _ h ht
  | sysc => simp only [State.run, ho]; unfold State.doSysc; exact State.control_poison _ _ _ _ _ _ _ h ht
  | srd => simp only [State.run, ho]; unfold State.doSrd; exact State.lanes_poison _ _ _ _ _ h ht
  | swr => simp only [State.run, ho]; unfold State.doSwr; exact State.control_poison _ _ _ _ _ _ _ h ht
  | bkpt => simp only [State.run, ho]; unfold State.doBkpt; exact State.control_poison _ _ _ _ _ _ _ h ht
  | ackn => simp only [State.run, ho]; unfold State.doAckn; exact State.control_poison _ _ _ _ _ _ _ h ht
  | wflg => simp only [State.run, ho]; unfold State.doWflg; exact State.control_poison _ _ _ _ _ _ _ h ht

/-- A trap in every thread of a pack that can take it. -/
theorem State.trapPack_of (s : State) (c : Nat) (v : DWord) (h : s.packReady)
    (ht : ∀ u ∈ s.pack.ts, s.trapsAt s.pack.g s.pack.w u) :
    s.trapAll s.pack.g s.pack.w s.pack.ts c v = s.mapPack (fun _ x => x.takeTrap s.pwrp.kd.trap c v) :=
  State.trapAll_of _ _ _ _ _ _ h.1 h.2.1 h.2.2.2.1 (fun u hu => ⟨(h.2.2.2.2 u hu).1, ht u hu⟩)

/-- What a form does where its word fails a decode check (R424). -/
theorem State.run_bad (s : State) (n : Ins) (v : DWord) (h : s.packReady)
    (hb : gate s.pwrp n (s.pthr (s.pack.ts.headD 0)) = some v) (hop : n.op ≠ .ill)
    (hs : s.pwrp.slow = false) (he : n.op = .rdone ∨ n.op = .rret → s.runOf s.pack.g = none)
    (ht : ∀ u ∈ s.pack.ts, s.trapsAt s.pack.g s.pack.w u) :
    s.run n = s.mapPack (fun _ x => x.takeTrap s.pwrp.kd.trap 0x01 v) := by
  cases ho : n.op with
  | ill => exact absurd ho hop
  | mov => simp only [State.run, ho]; unfold State.alu; unfold State.lanes; rw [State.front_bad s _ _ _ v h.2.2.1 hb]; exact State.trapPack_of s 0x01 v h ht
  | movh => simp only [State.run, ho]; unfold State.alu; unfold State.lanes; rw [State.front_bad s _ _ _ v h.2.2.1 hb]; exact State.trapPack_of s 0x01 v h ht
  | add => simp only [State.run, ho]; unfold State.alu; unfold State.lanes; rw [State.front_bad s _ _ _ v h.2.2.1 hb]; exact State.trapPack_of s 0x01 v h ht
  | sub => simp only [State.run, ho]; unfold State.alu; unfold State.lanes; rw [State.front_bad s _ _ _ v h.2.2.1 hb]; exact State.trapPack_of s 0x01 v h ht
  | addx => simp only [State.run, ho]; unfold State.alu; unfold State.lanes; rw [State.front_bad s _ _ _ v h.2.2.1 hb]; exact State.trapPack_of s 0x01 v h ht
  | subx => simp only [State.run, ho]; unfold State.alu; unfold State.lanes; rw [State.front_bad s _ _ _ v h.2.2.1 hb]; exact State.trapPack_of s 0x01 v h ht
  | mul => simp only [State.run, ho]; unfold State.alu; unfold State.lanes; rw [State.front_bad s _ _ _ v h.2.2.1 hb]; exact State.trapPack_of s 0x01 v h ht
  | mulhi => simp only [State.run, ho]; unfold State.alu; unfold State.lanes; rw [State.front_bad s _ _ _ v h.2.2.1 hb]; exact State.trapPack_of s 0x01 v h ht
  | mad => simp only [State.run, ho]; unfold State.alu; unfold State.lanes; rw [State.front_bad s _ _ _ v h.2.2.1 hb]; exact State.trapPack_of s 0x01 v h ht
  | madhi => simp only [State.run, ho]; unfold State.alu; unfold State.lanes; rw [State.front_bad s _ _ _ v h.2.2.1 hb]; exact State.trapPack_of s 0x01 v h ht
  | mulw => simp only [State.run, ho]; unfold State.alu; unfold State.lanes; rw [State.front_bad s _ _ _ v h.2.2.1 hb]; exact State.trapPack_of s 0x01 v h ht
  | madw => simp only [State.run, ho]; unfold State.alu; unfold State.lanes; rw [State.front_bad s _ _ _ v h.2.2.1 hb]; exact State.trapPack_of s 0x01 v h ht
  | min => simp only [State.run, ho]; unfold State.alu; unfold State.lanes; rw [State.front_bad s _ _ _ v h.2.2.1 hb]; exact State.trapPack_of s 0x01 v h ht
  | max => simp only [State.run, ho]; unfold State.alu; unfold State.lanes; rw [State.front_bad s _ _ _ v h.2.2.1 hb]; exact State.trapPack_of s 0x01 v h ht
  | abs => simp only [State.run, ho]; unfold State.alu; unfold State.lanes; rw [State.front_bad s _ _ _ v h.2.2.1 hb]; exact State.trapPack_of s 0x01 v h ht
  | and => simp only [State.run, ho]; unfold State.alu; unfold State.lanes; rw [State.front_bad s _ _ _ v h.2.2.1 hb]; exact State.trapPack_of s 0x01 v h ht
  | or => simp only [State.run, ho]; unfold State.alu; unfold State.lanes; rw [State.front_bad s _ _ _ v h.2.2.1 hb]; exact State.trapPack_of s 0x01 v h ht
  | xor => simp only [State.run, ho]; unfold State.alu; unfold State.lanes; rw [State.front_bad s _ _ _ v h.2.2.1 hb]; exact State.trapPack_of s 0x01 v h ht
  | andn => simp only [State.run, ho]; unfold State.alu; unfold State.lanes; rw [State.front_bad s _ _ _ v h.2.2.1 hb]; exact State.trapPack_of s 0x01 v h ht
  | lop3 => simp only [State.run, ho]; unfold State.alu; unfold State.lanes; rw [State.front_bad s _ _ _ v h.2.2.1 hb]; exact State.trapPack_of s 0x01 v h ht
  | shl => simp only [State.run, ho]; unfold State.alu; unfold State.lanes; rw [State.front_bad s _ _ _ v h.2.2.1 hb]; exact State.trapPack_of s 0x01 v h ht
  | shr => simp only [State.run, ho]; unfold State.alu; unfold State.lanes; rw [State.front_bad s _ _ _ v h.2.2.1 hb]; exact State.trapPack_of s 0x01 v h ht
  | sar => simp only [State.run, ho]; unfold State.alu; unfold State.lanes; rw [State.front_bad s _ _ _ v h.2.2.1 hb]; exact State.trapPack_of s 0x01 v h ht
  | rot => simp only [State.run, ho]; unfold State.alu; unfold State.lanes; rw [State.front_bad s _ _ _ v h.2.2.1 hb]; exact State.trapPack_of s 0x01 v h ht
  | fsh => simp only [State.run, ho]; unfold State.alu; unfold State.lanes; rw [State.front_bad s _ _ _ v h.2.2.1 hb]; exact State.trapPack_of s 0x01 v h ht
  | bfx => simp only [State.run, ho]; unfold State.alu; unfold State.lanes; rw [State.front_bad s _ _ _ v h.2.2.1 hb]; exact State.trapPack_of s 0x01 v h ht
  | bfi => simp only [State.run, ho]; unfold State.alu; unfold State.lanes; rw [State.front_bad s _ _ _ v h.2.2.1 hb]; exact State.trapPack_of s 0x01 v h ht
  | popc => simp only [State.run, ho]; unfold State.alu; unfold State.lanes; rw [State.front_bad s _ _ _ v h.2.2.1 hb]; exact State.trapPack_of s 0x01 v h ht
  | clz => simp only [State.run, ho]; unfold State.alu; unfold State.lanes; rw [State.front_bad s _ _ _ v h.2.2.1 hb]; exact State.trapPack_of s 0x01 v h ht
  | ctz => simp only [State.run, ho]; unfold State.alu; unfold State.lanes; rw [State.front_bad s _ _ _ v h.2.2.1 hb]; exact State.trapPack_of s 0x01 v h ht
  | brev => simp only [State.run, ho]; unfold State.alu; unfold State.lanes; rw [State.front_bad s _ _ _ v h.2.2.1 hb]; exact State.trapPack_of s 0x01 v h ht
  | bperm => simp only [State.run, ho]; unfold State.alu; unfold State.lanes; rw [State.front_bad s _ _ _ v h.2.2.1 hb]; exact State.trapPack_of s 0x01 v h ht
  | sel => simp only [State.run, ho]; unfold State.alu; unfold State.lanes; rw [State.front_bad s _ _ _ v h.2.2.1 hb]; exact State.trapPack_of s 0x01 v h ht
  | cmp => simp only [State.run, ho]; unfold State.alu; unfold State.lanes; rw [State.front_bad s _ _ _ v h.2.2.1 hb]; exact State.trapPack_of s 0x01 v h ht
  | lea => simp only [State.run, ho]; unfold State.alu; unfold State.lanes; rw [State.front_bad s _ _ _ v h.2.2.1 hb]; exact State.trapPack_of s 0x01 v h ht
  | sad => simp only [State.run, ho]; unfold State.alu; unfold State.lanes; rw [State.front_bad s _ _ _ v h.2.2.1 hb]; exact State.trapPack_of s 0x01 v h ht
  | dot4 => simp only [State.run, ho]; unfold State.alu; unfold State.lanes; rw [State.front_bad s _ _ _ v h.2.2.1 hb]; exact State.trapPack_of s 0x01 v h ht
  | dot2 => simp only [State.run, ho]; unfold State.alu; unfold State.lanes; rw [State.front_bad s _ _ _ v h.2.2.1 hb]; exact State.trapPack_of s 0x01 v h ht
  | vadd2 => simp only [State.run, ho]; unfold State.alu; unfold State.lanes; rw [State.front_bad s _ _ _ v h.2.2.1 hb]; exact State.trapPack_of s 0x01 v h ht
  | vsub2 => simp only [State.run, ho]; unfold State.alu; unfold State.lanes; rw [State.front_bad s _ _ _ v h.2.2.1 hb]; exact State.trapPack_of s 0x01 v h ht
  | vmax2 => simp only [State.run, ho]; unfold State.alu; unfold State.lanes; rw [State.front_bad s _ _ _ v h.2.2.1 hb]; exact State.trapPack_of s 0x01 v h ht
  | vmin2 => simp only [State.run, ho]; unfold State.alu; unfold State.lanes; rw [State.front_bad s _ _ _ v h.2.2.1 hb]; exact State.trapPack_of s 0x01 v h ht
  | plop => simp only [State.run, ho]; unfold State.alu; unfold State.lanes; rw [State.front_bad s _ _ _ v h.2.2.1 hb]; exact State.trapPack_of s 0x01 v h ht
  | pmov => simp only [State.run, ho]; unfold State.alu; unfold State.lanes; rw [State.front_bad s _ _ _ v h.2.2.1 hb]; exact State.trapPack_of s 0x01 v h ht
  | fadd => simp only [State.run, ho]; unfold State.alu; unfold State.lanes; rw [State.front_bad s _ _ _ v h.2.2.1 hb]; exact State.trapPack_of s 0x01 v h ht
  | fsub => simp only [State.run, ho]; unfold State.alu; unfold State.lanes; rw [State.front_bad s _ _ _ v h.2.2.1 hb]; exact State.trapPack_of s 0x01 v h ht
  | fmul => simp only [State.run, ho]; unfold State.alu; unfold State.lanes; rw [State.front_bad s _ _ _ v h.2.2.1 hb]; exact State.trapPack_of s 0x01 v h ht
  | ffma => simp only [State.run, ho]; unfold State.alu; unfold State.lanes; rw [State.front_bad s _ _ _ v h.2.2.1 hb]; exact State.trapPack_of s 0x01 v h ht
  | fmin => simp only [State.run, ho]; unfold State.alu; unfold State.lanes; rw [State.front_bad s _ _ _ v h.2.2.1 hb]; exact State.trapPack_of s 0x01 v h ht
  | fmax => simp only [State.run, ho]; unfold State.alu; unfold State.lanes; rw [State.front_bad s _ _ _ v h.2.2.1 hb]; exact State.trapPack_of s 0x01 v h ht
  | fcmp => simp only [State.run, ho]; unfold State.alu; unfold State.lanes; rw [State.front_bad s _ _ _ v h.2.2.1 hb]; exact State.trapPack_of s 0x01 v h ht
  | fclamp => simp only [State.run, ho]; unfold State.alu; unfold State.lanes; rw [State.front_bad s _ _ _ v h.2.2.1 hb]; exact State.trapPack_of s 0x01 v h ht
  | frnd => simp only [State.run, ho]; unfold State.alu; unfold State.lanes; rw [State.front_bad s _ _ _ v h.2.2.1 hb]; exact State.trapPack_of s 0x01 v h ht
  | hadd2 => simp only [State.run, ho]; unfold State.alu; unfold State.lanes; rw [State.front_bad s _ _ _ v h.2.2.1 hb]; exact State.trapPack_of s 0x01 v h ht
  | hmul2 => simp only [State.run, ho]; unfold State.alu; unfold State.lanes; rw [State.front_bad s _ _ _ v h.2.2.1 hb]; exact State.trapPack_of s 0x01 v h ht
  | hfma2 => simp only [State.run, ho]; unfold State.alu; unfold State.lanes; rw [State.front_bad s _ _ _ v h.2.2.1 hb]; exact State.trapPack_of s 0x01 v h ht
  | hmin2 => simp only [State.run, ho]; unfold State.alu; unfold State.lanes; rw [State.front_bad s _ _ _ v h.2.2.1 hb]; exact State.trapPack_of s 0x01 v h ht
  | hmax2 => simp only [State.run, ho]; unfold State.alu; unfold State.lanes; rw [State.front_bad s _ _ _ v h.2.2.1 hb]; exact State.trapPack_of s 0x01 v h ht
  | hcmp2 => simp only [State.run, ho]; unfold State.alu; unfold State.lanes; rw [State.front_bad s _ _ _ v h.2.2.1 hb]; exact State.trapPack_of s 0x01 v h ht
  | fdot2 => simp only [State.run, ho]; unfold State.alu; unfold State.lanes; rw [State.front_bad s _ _ _ v h.2.2.1 hb]; exact State.trapPack_of s 0x01 v h ht
  | cvt => simp only [State.run, ho]; unfold State.alu; unfold State.lanes; rw [State.front_bad s _ _ _ v h.2.2.1 hb]; exact State.trapPack_of s 0x01 v h ht
  | cvtpk => simp only [State.run, ho]; unfold State.alu; unfold State.lanes; rw [State.front_bad s _ _ _ v h.2.2.1 hb]; exact State.trapPack_of s 0x01 v h ht
  | unpk => simp only [State.run, ho]; unfold State.alu; unfold State.lanes; rw [State.front_bad s _ _ _ v h.2.2.1 hb]; exact State.trapPack_of s 0x01 v h ht
  | q4enc => simp only [State.run, ho]; unfold State.alu; unfold State.lanes; rw [State.front_bad s _ _ _ v h.2.2.1 hb]; exact State.trapPack_of s 0x01 v h ht
  | q4dec => simp only [State.run, ho]; unfold State.alu; unfold State.lanes; rw [State.front_bad s _ _ _ v h.2.2.1 hb]; exact State.trapPack_of s 0x01 v h ht
  | frcp => simp only [State.run, ho]; unfold State.alu; unfold State.lanes; rw [State.front_bad s _ _ _ v h.2.2.1 hb]; exact State.trapPack_of s 0x01 v h ht
  | frsq => simp only [State.run, ho]; unfold State.alu; unfold State.lanes; rw [State.front_bad s _ _ _ v h.2.2.1 hb]; exact State.trapPack_of s 0x01 v h ht
  | fsqrt => simp only [State.run, ho]; unfold State.alu; unfold State.lanes; rw [State.front_bad s _ _ _ v h.2.2.1 hb]; exact State.trapPack_of s 0x01 v h ht
  | fex2 => simp only [State.run, ho]; unfold State.alu; unfold State.lanes; rw [State.front_bad s _ _ _ v h.2.2.1 hb]; exact State.trapPack_of s 0x01 v h ht
  | flg2 => simp only [State.run, ho]; unfold State.alu; unfold State.lanes; rw [State.front_bad s _ _ _ v h.2.2.1 hb]; exact State.trapPack_of s 0x01 v h ht
  | fsin => simp only [State.run, ho]; unfold State.alu; unfold State.lanes; rw [State.front_bad s _ _ _ v h.2.2.1 hb]; exact State.trapPack_of s 0x01 v h ht
  | fcos => simp only [State.run, ho]; unfold State.alu; unfold State.lanes; rw [State.front_bad s _ _ _ v h.2.2.1 hb]; exact State.trapPack_of s 0x01 v h ht
  | ftanh => simp only [State.run, ho]; unfold State.alu; unfold State.lanes; rw [State.front_bad s _ _ _ v h.2.2.1 hb]; exact State.trapPack_of s 0x01 v h ht
  | fact => simp only [State.run, ho]; unfold State.lanes; rw [State.front_bad s _ _ _ v h.2.2.1 hb]; exact State.trapPack_of s 0x01 v h ht
  | atld => simp only [State.run, ho]; unfold State.doAtld; unfold State.once; rw [State.front_bad s _ _ _ v h.2.2.1 hb]; exact State.trapPack_of s 0x01 v h ht
  | atsel => simp only [State.run, ho]; unfold State.doAtsel; unfold State.once; rw [State.front_bad s _ _ _ v h.2.2.1 hb]; exact State.trapPack_of s 0x01 v h ht
  | shfl => simp only [State.run, ho]; unfold State.lanes; rw [State.front_bad s _ _ _ v h.2.2.1 hb]; exact State.trapPack_of s 0x01 v h ht
  | vote => simp only [State.run, ho]; unfold State.lanes; rw [State.front_bad s _ _ _ v h.2.2.1 hb]; exact State.trapPack_of s 0x01 v h ht
  | matchk => simp only [State.run, ho]; unfold State.lanes; rw [State.front_bad s _ _ _ v h.2.2.1 hb]; exact State.trapPack_of s 0x01 v h ht
  | redux => simp only [State.run, ho]; unfold State.lanes; rw [State.front_bad s _ _ _ v h.2.2.1 hb]; exact State.trapPack_of s 0x01 v h ht
  | redix => simp only [State.run, ho]; unfold State.lanes; rw [State.front_bad s _ _ _ v h.2.2.1 hb]; exact State.trapPack_of s 0x01 v h ht
  | scan => simp only [State.run, ho]; unfold State.lanes; rw [State.front_bad s _ _ _ v h.2.2.1 hb]; exact State.trapPack_of s 0x01 v h ht
  | setpart => simp only [State.run, ho]; unfold State.doSetpart; unfold State.once; rw [State.front_bad s _ _ _ v h.2.2.1 hb]; exact State.trapPack_of s 0x01 v h ht
  | actv => simp only [State.run, ho]; unfold State.lanes; rw [State.front_bad s _ _ _ v h.2.2.1 hb]; exact State.trapPack_of s 0x01 v h ht
  | lds => simp only [State.run, ho]; unfold State.doLoad; unfold State.inTurn; rw [State.front_bad s _ _ _ v h.2.2.1 hb, State.trapPack_of s 0x01 v h ht]; exact State.slowDone_mapPack s _ hs
  | sts => simp only [State.run, ho]; unfold State.doStore; unfold State.inTurn; rw [State.front_bad s _ _ _ v h.2.2.1 hb, State.trapPack_of s 0x01 v h ht]; exact State.slowDone_mapPack s _ hs
  | ldsa => simp only [State.run, ho]; unfold State.doLoad; unfold State.inTurn; rw [State.front_bad s _ _ _ v h.2.2.1 hb, State.trapPack_of s 0x01 v h ht]; exact State.slowDone_mapPack s _ hs
  | stsr => simp only [State.run, ho]; unfold State.doStore; unfold State.inTurn; rw [State.front_bad s _ _ _ v h.2.2.1 hb, State.trapPack_of s 0x01 v h ht]; exact State.slowDone_mapPack s _ hs
  | atms => simp only [State.run, ho]; unfold State.doAtms; unfold State.inTurn; rw [State.front_bad s _ _ _ v h.2.2.1 hb, State.trapPack_of s 0x01 v h ht]; exact State.slowDone_mapPack s _ hs
  | ldw => simp only [State.run, ho]; unfold State.doLdw; unfold State.inTurn; rw [State.front_bad s _ _ _ v h.2.2.1 hb]; exact State.trapPack_of s 0x01 v h ht
  | fence => simp only [State.run, ho]; unfold State.doFence; unfold State.inTurn; rw [State.front_bad s _ _ _ v h.2.2.1 hb]; exact State.trapPack_of s 0x01 v h ht
  | bar => simp only [State.run, ho]; unfold State.doBar; unfold State.control; rw [State.front_bad s _ _ _ v h.2.2.1 hb]; exact State.trapPack_of s 0x01 v h ht
  | xbarInit => simp only [State.run, ho]; unfold State.doXbarInit; unfold State.once; rw [State.front_bad s _ _ _ v h.2.2.1 hb]; exact State.trapPack_of s 0x01 v h ht
  | xbarArrive => simp only [State.run, ho]; unfold State.doXbarArrive; unfold State.inTurn; rw [State.front_bad s _ _ _ v h.2.2.1 hb, State.trapPack_of s 0x01 v h ht]; exact State.slowDone_mapPack s _ hs
  | xbarWait => simp only [State.run, ho]; unfold State.doXbarWait; unfold State.control; rw [State.front_bad s _ _ _ v h.2.2.1 hb, State.trapPack_of s 0x01 v h ht]; exact State.slowDone_mapPack s _ hs
  | xbarInval => simp only [State.run, ho]; unfold State.doXbarInval; unfold State.once; rw [State.front_bad s _ _ _ v h.2.2.1 hb]; exact State.trapPack_of s 0x01 v h ht
  | cpy => simp only [State.run, ho]; unfold State.doCopy; unfold State.once; rw [State.front_bad s _ _ _ v h.2.2.1 hb]; exact State.trapPack_of s 0x01 v h ht
  | cpyg => simp only [State.run, ho]; unfold State.doCopy; unfold State.once; rw [State.front_bad s _ _ _ v h.2.2.1 hb]; exact State.trapPack_of s 0x01 v h ht
  | cpys => simp only [State.run, ho]; unfold State.doCopy; unfold State.once; rw [State.front_bad s _ _ _ v h.2.2.1 hb]; exact State.trapPack_of s 0x01 v h ht
  | cpyr => simp only [State.run, ho]; unfold State.doCopy; unfold State.once; rw [State.front_bad s _ _ _ v h.2.2.1 hb]; exact State.trapPack_of s 0x01 v h ht
  | ldg => simp only [State.run, ho]; unfold State.doLdg; unfold State.doAccs; unfold State.once; rw [State.front_bad s _ _ _ v h.2.2.1 hb]; exact State.trapPack_of s 0x01 v h ht
  | stg => simp only [State.run, ho]; unfold State.doStg; unfold State.doAccs; unfold State.once; rw [State.front_bad s _ _ _ v h.2.2.1 hb]; exact State.trapPack_of s 0x01 v h ht
  | atmg => simp only [State.run, ho]; unfold State.doAtmg; unfold State.doAccs; unfold State.once; rw [State.front_bad s _ _ _ v h.2.2.1 hb]; exact State.trapPack_of s 0x01 v h ht
  | cqjoin => simp only [State.run, ho]; unfold State.doCqjoin; unfold State.once; rw [State.front_bad s _ _ _ v h.2.2.1 hb]; exact State.trapPack_of s 0x01 v h ht
  | smap => simp only [State.run, ho]; unfold State.doSmap; unfold State.once; rw [State.front_bad s _ _ _ v h.2.2.1 hb]; exact State.trapPack_of s 0x01 v h ht
  | ssync => simp only [State.run, ho]; unfold State.doSsync; unfold State.once; rw [State.front_bad s _ _ _ v h.2.2.1 hb]; exact State.trapPack_of s 0x01 v h ht
  | sinv => simp only [State.run, ho]; unfold State.doSinv; unfold State.once; rw [State.front_bad s _ _ _ v h.2.2.1 hb]; exact State.trapPack_of s 0x01 v h ht
  | sclose => simp only [State.run, ho]; unfold State.doSclose; unfold State.once; rw [State.front_bad s _ _ _ v h.2.2.1 hb]; exact State.trapPack_of s 0x01 v h ht
  | pref => simp only [State.run, ho]; unfold State.doPref; unfold State.doAccs; unfold State.once; rw [State.front_bad s _ _ _ v h.2.2.1 hb]; exact State.trapPack_of s 0x01 v h ht
  | hld => simp only [State.run, ho]; unfold State.doHld; unfold State.once; rw [State.front_bad s _ _ _ v h.2.2.1 hb, State.trapPack_of s 0x01 v h ht]; exact State.slowDone_mapPack s _ hs
  | hst => simp only [State.run, ho]; unfold State.doHst; unfold State.once; rw [State.front_bad s _ _ _ v h.2.2.1 hb, State.trapPack_of s 0x01 v h ht]; exact State.slowDone_mapPack s _ hs
  | hset => simp only [State.run, ho]; unfold State.doHset; unfold State.once; rw [State.front_bad s _ _ _ v h.2.2.1 hb]; exact State.trapPack_of s 0x01 v h ht
  | hget => simp only [State.run, ho]; unfold State.lanes; rw [State.front_bad s _ _ _ v h.2.2.1 hb]; exact State.trapPack_of s 0x01 v h ht
  | hcpy => simp only [State.run, ho]; unfold State.doHcpy; unfold State.once; rw [State.front_bad s _ _ _ v h.2.2.1 hb]; exact State.trapPack_of s 0x01 v h ht
  | hadv => simp only [State.run, ho]; unfold State.doHadv; unfold State.once; rw [State.front_bad s _ _ _ v h.2.2.1 hb]; exact State.trapPack_of s 0x01 v h ht
  | mclr => simp only [State.run, ho]; unfold State.doMclr; unfold State.once; rw [State.front_bad s _ _ _ v h.2.2.1 hb]; exact State.trapPack_of s 0x01 v h ht
  | mtile => simp only [State.run, ho]; unfold State.doMtile; unfold State.collective; rw [State.front_bad s _ _ _ v h.2.2.1 hb]; exact State.trapPack_of s 0x01 v h ht
  | mcvt => simp only [State.run, ho]; unfold State.doMcvt; unfold State.collective; rw [State.front_bad s _ _ _ v h.2.2.1 hb]; exact State.trapPack_of s 0x01 v h ht
  | mld => simp only [State.run, ho]; unfold State.doImage; unfold State.once; rw [State.front_bad s _ _ _ v h.2.2.1 hb]; exact State.trapPack_of s 0x01 v h ht
  | mexp => simp only [State.run, ho]; unfold State.doImage; unfold State.once; rw [State.front_bad s _ _ _ v h.2.2.1 hb]; exact State.trapPack_of s 0x01 v h ht
  | mstat => simp only [State.run, ho]; unfold State.lanes; rw [State.front_bad s _ _ _ v h.2.2.1 hb]; exact State.trapPack_of s 0x01 v h ht
  | mfmt => simp only [State.run, ho]; unfold State.doMfmt; unfold State.inTurn; rw [State.front_bad s _ _ _ v h.2.2.1 hb]; exact State.trapPack_of s 0x01 v h ht
  | tspawn => simp only [State.run, ho]; unfold State.doTspawn; unfold State.control; rw [State.front_bad s _ _ _ v h.2.2.1 hb]; exact State.trapPack_of s 0x01 v h ht
  | qrsv => simp only [State.run, ho]; unfold State.doQrsv; unfold State.queueIns; rw [State.front_bad s _ _ _ v h.2.2.1 hb]; exact State.trapPack_of s 0x01 v h ht
  | qenq => simp only [State.run, ho]; unfold State.doQenq; unfold State.queueIns; rw [State.front_bad s _ _ _ v h.2.2.1 hb]; exact State.trapPack_of s 0x01 v h ht
  | qdeq => simp only [State.run, ho]; unfold State.doQdeq; unfold State.queueIns; rw [State.front_bad s _ _ _ v h.2.2.1 hb]; exact State.trapPack_of s 0x01 v h ht
  | qtry => simp only [State.run, ho]; unfold State.doQtry; unfold State.queueIns; rw [State.front_bad s _ _ _ v h.2.2.1 hb]; exact State.trapPack_of s 0x01 v h ht
  | qsteal => simp only [State.run, ho]; unfold State.doQtry; unfold State.queueIns; rw [State.front_bad s _ _ _ v h.2.2.1 hb]; exact State.trapPack_of s 0x01 v h ht
  | qerr => simp only [State.run, ho]; unfold State.doQerr; unfold State.queueIns; rw [State.front_bad s _ _ _ v h.2.2.1 hb]; exact State.trapPack_of s 0x01 v h ht
  | qrest => simp only [State.run, ho]; unfold State.doQrest; unfold State.queueIns; rw [State.front_bad s _ _ _ v h.2.2.1 hb]; exact State.trapPack_of s 0x01 v h ht
  | qstat => simp only [State.run, ho]; unfold State.doQstat; unfold State.queueIns; rw [State.front_bad s _ _ _ v h.2.2.1 hb]; exact State.trapPack_of s 0x01 v h ht
  | succ => simp only [State.run, ho]; unfold State.doSucc; unfold State.once; rw [State.front_bad s _ _ _ v h.2.2.1 hb]; exact State.trapPack_of s 0x01 v h ht
  | wvis => simp only [State.run, ho]; unfold State.doWvis; unfold State.control; rw [State.front_bad s _ _ _ v h.2.2.1 hb]; exact State.trapPack_of s 0x01 v h ht
  | rsurr => simp only [State.run, ho]; unfold State.doRsurr; unfold State.once; rw [State.front_bad s _ _ _ v h.2.2.1 hb]; exact State.trapPack_of s 0x01 v h ht
  | rclaim => simp only [State.run, ho]; unfold State.doRclaim; unfold State.once; rw [State.front_bad s _ _ _ v h.2.2.1 hb]; exact State.trapPack_of s 0x01 v h ht
  | rstart => simp only [State.run, ho]; unfold State.doRstart; unfold State.control; rw [State.front_bad s _ _ _ v h.2.2.1 hb]; exact State.trapPack_of s 0x01 v h ht
  | rchild => simp only [State.run, ho]; unfold State.doChild; unfold State.control; rw [State.front_bad s _ _ _ v h.2.2.1 hb]; exact State.trapPack_of s 0x01 v h ht
  | rdone => simp only [State.run, ho]; unfold State.doEnd; unfold State.control; simp only [show s.runOf s.pack.g = none from he (by simp [ho])]; rw [State.front_bad s _ _ _ v h.2.2.1 hb]; exact State.trapPack_of s 0x01 v h ht
  | rret => simp only [State.run, ho]; unfold State.doEnd; unfold State.control; simp only [show s.runOf s.pack.g = none from he (by simp [ho])]; rw [State.front_bad s _ _ _ v h.2.2.1 hb]; exact State.trapPack_of s 0x01 v h ht
  | rres => simp only [State.run, ho]; unfold State.doRres; unfold State.control; rw [State.front_bad s _ _ _ v h.2.2.1 hb]; exact State.trapPack_of s 0x01 v h ht
  | rinfo => simp only [State.run, ho]; unfold State.doRinfo; unfold State.control; rw [State.front_bad s _ _ _ v h.2.2.1 hb]; exact State.trapPack_of s 0x01 v h ht
  | rbase => simp only [State.run, ho]; unfold State.doRbase; unfold State.control; rw [State.front_bad s _ _ _ v h.2.2.1 hb]; exact State.trapPack_of s 0x01 v h ht
  | rabort => simp only [State.run, ho]; unfold State.doRabort; unfold State.control; rw [State.front_bad s _ _ _ v h.2.2.1 hb]; exact State.trapPack_of s 0x01 v h ht
  | bra => simp only [State.run, ho]; unfold State.doBra; unfold State.control; rw [State.front_bad s _ _ _ v h.2.2.1 hb]; exact State.trapPack_of s 0x01 v h ht
  | brx => simp only [State.run, ho]; unfold State.doBrx; unfold State.control; rw [State.front_bad s _ _ _ v h.2.2.1 hb]; exact State.trapPack_of s 0x01 v h ht
  | call => simp only [State.run, ho]; unfold State.doCall; unfold State.control; rw [State.front_bad s _ _ _ v h.2.2.1 hb]; exact State.trapPack_of s 0x01 v h ht
  | callx => simp only [State.run, ho]; unfold State.doCallx; unfold State.control; rw [State.front_bad s _ _ _ v h.2.2.1 hb]; exact State.trapPack_of s 0x01 v h ht
  | ret => simp only [State.run, ho]; unfold State.doBrx; unfold State.control; rw [State.front_bad s _ _ _ v h.2.2.1 hb]; exact State.trapPack_of s 0x01 v h ht
  | exit => simp only [State.run, ho]; unfold State.doExit; unfold State.control; rw [State.front_bad s _ _ _ v h.2.2.1 hb]; exact State.trapPack_of s 0x01 v h ht
  | yield => simp only [State.run, ho]; unfold State.doYield; unfold State.control; rw [State.front_bad s _ _ _ v h.2.2.1 hb]; exact State.trapPack_of s 0x01 v h ht
  | nop => simp only [State.run, ho]; unfold State.alu; unfold State.lanes; rw [State.front_bad s _ _ _ v h.2.2.1 hb]; exact State.trapPack_of s 0x01 v h ht
  | trap => simp only [State.run, ho]; unfold State.doTrap; unfold State.control; rw [State.front_bad s _ _ _ v h.2.2.1 hb]; exact State.trapPack_of s 0x01 v h ht
  | tret => simp only [State.run, ho]; unfold State.doTret; unfold State.control; rw [State.front_bad s _ _ _ v h.2.2.1 hb]; exact State.trapPack_of s 0x01 v h ht
  | sysc => simp only [State.run, ho]; unfold State.doSysc; unfold State.control; rw [State.front_bad s _ _ _ v h.2.2.1 hb]; exact State.trapPack_of s 0x01 v h ht
  | srd => simp only [State.run, ho]; unfold State.doSrd; unfold State.lanes; rw [State.front_bad s _ _ _ v h.2.2.1 hb]; exact State.trapPack_of s 0x01 v h ht
  | swr => simp only [State.run, ho]; unfold State.doSwr; unfold State.control; rw [State.front_bad s _ _ _ v h.2.2.1 hb]; exact State.trapPack_of s 0x01 v h ht
  | bkpt => simp only [State.run, ho]; unfold State.doBkpt; unfold State.control; rw [State.front_bad s _ _ _ v h.2.2.1 hb]; exact State.trapPack_of s 0x01 v h ht
  | ackn => simp only [State.run, ho]; unfold State.doAckn; unfold State.control; rw [State.front_bad s _ _ _ v h.2.2.1 hb]; exact State.trapPack_of s 0x01 v h ht
  | wflg => simp only [State.run, ho]; unfold State.doWflg; unfold State.control; rw [State.front_bad s _ _ _ v h.2.2.1 hb]; exact State.trapPack_of s 0x01 v h ht

theorem insOf_op (i : Instr) (n : Ins) (h : insOf i = some n) : n.op ≠ .ill := by
  cases i <;> simp only [insOf, Instr.view, Option.some.injEq, reduceCtorEq] at h <;> subst h <;> simp [nat, pri]

/-- The forms with an operand whose poison is a poison at control (R64). -/
def poisonControls : Op → Bool
  | .brx | .callx | .ret | .mtile | .mcvt | .mfmt => true
  | _ => false

/-- A form that neither stores nor controls by its operands traps on no poison of theirs (R64). -/
theorem poisonTrap_none (n : Ins) (t : Thread) (h : (storesPoison n.op || poisonControls n.op) = false) :
    poisonTrap t n = none := by
  have h1 : storesPoison n.op = false := by cases hs : storesPoison n.op <;> simp_all
  have h2 : n.controlReg = [] := by
    have : poisonControls n.op = false := by simpa [h1] using h
    revert this
    unfold Ins.controlReg poisonControls
    cases n.op <;> simp
  simp [poisonTrap, h2, h1, Thread.lowestPoison, minBy]

/-- A register form whose effect is a function of the thread alone. -/
theorem State.alu_given (s : State) (n : Ins) (sem : Ins → Thread → Eff) (e : Thread → Eff) (h : s.passes n)
    (hg : s.guardsClean n) (hp : (storesPoison n.op || poisonControls n.op) = false) (he : ∀ t, sem n t = e t) :
    s.alu n sem = s.mapPack (fun _ x => x.given n e) :=
  State.lanes_given s n _ e h hg (fun _ _ => poisonTrap_none n _ hp) (fun u _ => by simp only [he]; rfl)

end Sys2Proof.Machine
end

