-- ==== Sys2Proof/Laws/State.lean ====
section
/-! SUPPORT. What each update of the state leaves alone, field by field, so that no proof unfolds a record update. -/
namespace Sys2Proof.Machine

@[simp] theorem State.modD_clock (s : State) (d : Nat) (f : Die → Die) : (s.modD d f).clock = s.clock := rfl
@[simp] theorem State.modD_mem (s : State) (d : Nat) (f : Die → Die) : (s.modD d f).mem = s.mem := rfl
@[simp] theorem State.modD_poison (s : State) (d : Nat) (f : Die → Die) : (s.modD d f).poison = s.poison := rfl
@[simp] theorem State.modD_groups (s : State) (d : Nat) (f : Die → Die) : (s.modD d f).groups = s.groups := rfl
@[simp] theorem State.modD_vdevs (s : State) (d : Nat) (f : Die → Die) : (s.modD d f).vdevs = s.vdevs := rfl
@[simp] theorem State.modD_regions (s : State) (d : Nat) (f : Die → Die) : (s.modD d f).regions = s.regions := rfl
@[simp] theorem State.modD_launches (s : State) (d : Nat) (f : Die → Die) : (s.modD d f).launches = s.launches := rfl
@[simp] theorem State.modD_queues (s : State) (d : Nat) (f : Die → Die) : (s.modD d f).queues = s.queues := rfl
@[simp] theorem State.modD_spinners (s : State) (d : Nat) (f : Die → Die) : (s.modD d f).spinners = s.spinners := rfl
@[simp] theorem State.modD_tasks (s : State) (d : Nat) (f : Die → Die) : (s.modD d f).tasks = s.tasks := rfl
@[simp] theorem State.modD_calls (s : State) (d : Nat) (f : Die → Die) : (s.modD d f).calls = s.calls := rfl
@[simp] theorem State.modD_images (s : State) (d : Nat) (f : Die → Die) : (s.modD d f).images = s.images := rfl
@[simp] theorem State.modD_ckpts (s : State) (d : Nat) (f : Die → Die) : (s.modD d f).ckpts = s.ckpts := rfl
@[simp] theorem State.modD_pkg (s : State) (d : Nat) (f : Die → Die) : (s.modD d f).pkg = s.pkg := rfl
@[simp] theorem State.modD_fab (s : State) (d : Nat) (f : Die → Die) : (s.modD d f).fab = s.fab := rfl
@[simp] theorem State.modD_inputs (s : State) (d : Nat) (f : Die → Die) : (s.modD d f).inputs = s.inputs := rfl
@[simp] theorem State.modD_agenda (s : State) (d : Nat) (f : Die → Die) : (s.modD d f).agenda = s.agenda := rfl
@[simp] theorem State.modD_turn (s : State) (d : Nat) (f : Die → Die) : (s.modD d f).turn = s.turn := rfl
@[simp] theorem State.modD_late (s : State) (d : Nat) (f : Die → Die) : (s.modD d f).late = s.late := rfl
@[simp] theorem State.modD_pack (s : State) (d : Nat) (f : Die → Die) : (s.modD d f).pack = s.pack := rfl

@[simp] theorem State.modC_clock (s : State) (d c : Nat) (f : Core → Core) : (s.modC d c f).clock = s.clock := rfl
@[simp] theorem State.modC_mem (s : State) (d c : Nat) (f : Core → Core) : (s.modC d c f).mem = s.mem := rfl
@[simp] theorem State.modC_poison (s : State) (d c : Nat) (f : Core → Core) : (s.modC d c f).poison = s.poison := rfl
@[simp] theorem State.modC_groups (s : State) (d c : Nat) (f : Core → Core) : (s.modC d c f).groups = s.groups := rfl
@[simp] theorem State.modC_vdevs (s : State) (d c : Nat) (f : Core → Core) : (s.modC d c f).vdevs = s.vdevs := rfl
@[simp] theorem State.modC_regions (s : State) (d c : Nat) (f : Core → Core) : (s.modC d c f).regions = s.regions := rfl
@[simp] theorem State.modC_launches (s : State) (d c : Nat) (f : Core → Core) : (s.modC d c f).launches = s.launches := rfl
@[simp] theorem State.modC_queues (s : State) (d c : Nat) (f : Core → Core) : (s.modC d c f).queues = s.queues := rfl
@[simp] theorem State.modC_spinners (s : State) (d c : Nat) (f : Core → Core) : (s.modC d c f).spinners = s.spinners := rfl
@[simp] theorem State.modC_tasks (s : State) (d c : Nat) (f : Core → Core) : (s.modC d c f).tasks = s.tasks := rfl
@[simp] theorem State.modC_calls (s : State) (d c : Nat) (f : Core → Core) : (s.modC d c f).calls = s.calls := rfl
@[simp] theorem State.modC_images (s : State) (d c : Nat) (f : Core → Core) : (s.modC d c f).images = s.images := rfl
@[simp] theorem State.modC_ckpts (s : State) (d c : Nat) (f : Core → Core) : (s.modC d c f).ckpts = s.ckpts := rfl
@[simp] theorem State.modC_pkg (s : State) (d c : Nat) (f : Core → Core) : (s.modC d c f).pkg = s.pkg := rfl
@[simp] theorem State.modC_fab (s : State) (d c : Nat) (f : Core → Core) : (s.modC d c f).fab = s.fab := rfl
@[simp] theorem State.modC_inputs (s : State) (d c : Nat) (f : Core → Core) : (s.modC d c f).inputs = s.inputs := rfl
@[simp] theorem State.modC_agenda (s : State) (d c : Nat) (f : Core → Core) : (s.modC d c f).agenda = s.agenda := rfl
@[simp] theorem State.modC_turn (s : State) (d c : Nat) (f : Core → Core) : (s.modC d c f).turn = s.turn := rfl
@[simp] theorem State.modC_late (s : State) (d c : Nat) (f : Core → Core) : (s.modC d c f).late = s.late := rfl
@[simp] theorem State.modC_pack (s : State) (d c : Nat) (f : Core → Core) : (s.modC d c f).pack = s.pack := rfl

@[simp] theorem State.modQuad_clock (s : State) (d c q : Nat) (f : Quad → Quad) : (s.modQuad d c q f).clock = s.clock := rfl
@[simp] theorem State.modQuad_mem (s : State) (d c q : Nat) (f : Quad → Quad) : (s.modQuad d c q f).mem = s.mem := rfl
@[simp] theorem State.modQuad_poison (s : State) (d c q : Nat) (f : Quad → Quad) : (s.modQuad d c q f).poison = s.poison := rfl
@[simp] theorem State.modQuad_groups (s : State) (d c q : Nat) (f : Quad → Quad) : (s.modQuad d c q f).groups = s.groups := rfl
@[simp] theorem State.modQuad_vdevs (s : State) (d c q : Nat) (f : Quad → Quad) : (s.modQuad d c q f).vdevs = s.vdevs := rfl
@[simp] theorem State.modQuad_regions (s : State) (d c q : Nat) (f : Quad → Quad) : (s.modQuad d c q f).regions = s.regions := rfl
@[simp] theorem State.modQuad_launches (s : State) (d c q : Nat) (f : Quad → Quad) : (s.modQuad d c q f).launches = s.launches := rfl
@[simp] theorem State.modQuad_queues (s : State) (d c q : Nat) (f : Quad → Quad) : (s.modQuad d c q f).queues = s.queues := rfl
@[simp] theorem State.modQuad_spinners (s : State) (d c q : Nat) (f : Quad → Quad) : (s.modQuad d c q f).spinners = s.spinners := rfl
@[simp] theorem State.modQuad_tasks (s : State) (d c q : Nat) (f : Quad → Quad) : (s.modQuad d c q f).tasks = s.tasks := rfl
@[simp] theorem State.modQuad_calls (s : State) (d c q : Nat) (f : Quad → Quad) : (s.modQuad d c q f).calls = s.calls := rfl
@[simp] theorem State.modQuad_images (s : State) (d c q : Nat) (f : Quad → Quad) : (s.modQuad d c q f).images = s.images := rfl
@[simp] theorem State.modQuad_ckpts (s : State) (d c q : Nat) (f : Quad → Quad) : (s.modQuad d c q f).ckpts = s.ckpts := rfl
@[simp] theorem State.modQuad_pkg (s : State) (d c q : Nat) (f : Quad → Quad) : (s.modQuad d c q f).pkg = s.pkg := rfl
@[simp] theorem State.modQuad_fab (s : State) (d c q : Nat) (f : Quad → Quad) : (s.modQuad d c q f).fab = s.fab := rfl
@[simp] theorem State.modQuad_inputs (s : State) (d c q : Nat) (f : Quad → Quad) : (s.modQuad d c q f).inputs = s.inputs := rfl
@[simp] theorem State.modQuad_agenda (s : State) (d c q : Nat) (f : Quad → Quad) : (s.modQuad d c q f).agenda = s.agenda := rfl
@[simp] theorem State.modQuad_turn (s : State) (d c q : Nat) (f : Quad → Quad) : (s.modQuad d c q f).turn = s.turn := rfl
@[simp] theorem State.modQuad_late (s : State) (d c q : Nat) (f : Quad → Quad) : (s.modQuad d c q f).late = s.late := rfl
@[simp] theorem State.modQuad_pack (s : State) (d c q : Nat) (f : Quad → Quad) : (s.modQuad d c q f).pack = s.pack := rfl

@[simp] theorem State.modG_clock (s : State) (g : Nat) (f : Group → Group) : (s.modG g f).clock = s.clock := rfl
@[simp] theorem State.modG_mem (s : State) (g : Nat) (f : Group → Group) : (s.modG g f).mem = s.mem := rfl
@[simp] theorem State.modG_poison (s : State) (g : Nat) (f : Group → Group) : (s.modG g f).poison = s.poison := rfl
@[simp] theorem State.modG_dies (s : State) (g : Nat) (f : Group → Group) : (s.modG g f).dies = s.dies := rfl
@[simp] theorem State.modG_vdevs (s : State) (g : Nat) (f : Group → Group) : (s.modG g f).vdevs = s.vdevs := rfl
@[simp] theorem State.modG_regions (s : State) (g : Nat) (f : Group → Group) : (s.modG g f).regions = s.regions := rfl
@[simp] theorem State.modG_launches (s : State) (g : Nat) (f : Group → Group) : (s.modG g f).launches = s.launches := rfl
@[simp] theorem State.modG_queues (s : State) (g : Nat) (f : Group → Group) : (s.modG g f).queues = s.queues := rfl
@[simp] theorem State.modG_spinners (s : State) (g : Nat) (f : Group → Group) : (s.modG g f).spinners = s.spinners := rfl
@[simp] theorem State.modG_tasks (s : State) (g : Nat) (f : Group → Group) : (s.modG g f).tasks = s.tasks := rfl
@[simp] theorem State.modG_calls (s : State) (g : Nat) (f : Group → Group) : (s.modG g f).calls = s.calls := rfl
@[simp] theorem State.modG_images (s : State) (g : Nat) (f : Group → Group) : (s.modG g f).images = s.images := rfl
@[simp] theorem State.modG_ckpts (s : State) (g : Nat) (f : Group → Group) : (s.modG g f).ckpts = s.ckpts := rfl
@[simp] theorem State.modG_pkg (s : State) (g : Nat) (f : Group → Group) : (s.modG g f).pkg = s.pkg := rfl
@[simp] theorem State.modG_fab (s : State) (g : Nat) (f : Group → Group) : (s.modG g f).fab = s.fab := rfl
@[simp] theorem State.modG_inputs (s : State) (g : Nat) (f : Group → Group) : (s.modG g f).inputs = s.inputs := rfl
@[simp] theorem State.modG_agenda (s : State) (g : Nat) (f : Group → Group) : (s.modG g f).agenda = s.agenda := rfl
@[simp] theorem State.modG_turn (s : State) (g : Nat) (f : Group → Group) : (s.modG g f).turn = s.turn := rfl
@[simp] theorem State.modG_late (s : State) (g : Nat) (f : Group → Group) : (s.modG g f).late = s.late := rfl
@[simp] theorem State.modG_pack (s : State) (g : Nat) (f : Group → Group) : (s.modG g f).pack = s.pack := rfl

@[simp] theorem State.modW_clock (s : State) (g w : Nat) (f : Warp → Warp) : (s.modW g w f).clock = s.clock := rfl
@[simp] theorem State.modW_mem (s : State) (g w : Nat) (f : Warp → Warp) : (s.modW g w f).mem = s.mem := rfl
@[simp] theorem State.modW_poison (s : State) (g w : Nat) (f : Warp → Warp) : (s.modW g w f).poison = s.poison := rfl
@[simp] theorem State.modW_dies (s : State) (g w : Nat) (f : Warp → Warp) : (s.modW g w f).dies = s.dies := rfl
@[simp] theorem State.modW_vdevs (s : State) (g w : Nat) (f : Warp → Warp) : (s.modW g w f).vdevs = s.vdevs := rfl
@[simp] theorem State.modW_regions (s : State) (g w : Nat) (f : Warp → Warp) : (s.modW g w f).regions = s.regions := rfl
@[simp] theorem State.modW_launches (s : State) (g w : Nat) (f : Warp → Warp) : (s.modW g w f).launches = s.launches := rfl
@[simp] theorem State.modW_queues (s : State) (g w : Nat) (f : Warp → Warp) : (s.modW g w f).queues = s.queues := rfl
@[simp] theorem State.modW_spinners (s : State) (g w : Nat) (f : Warp → Warp) : (s.modW g w f).spinners = s.spinners := rfl
@[simp] theorem State.modW_tasks (s : State) (g w : Nat) (f : Warp → Warp) : (s.modW g w f).tasks = s.tasks := rfl
@[simp] theorem State.modW_calls (s : State) (g w : Nat) (f : Warp → Warp) : (s.modW g w f).calls = s.calls := rfl
@[simp] theorem State.modW_images (s : State) (g w : Nat) (f : Warp → Warp) : (s.modW g w f).images = s.images := rfl
@[simp] theorem State.modW_ckpts (s : State) (g w : Nat) (f : Warp → Warp) : (s.modW g w f).ckpts = s.ckpts := rfl
@[simp] theorem State.modW_pkg (s : State) (g w : Nat) (f : Warp → Warp) : (s.modW g w f).pkg = s.pkg := rfl
@[simp] theorem State.modW_fab (s : State) (g w : Nat) (f : Warp → Warp) : (s.modW g w f).fab = s.fab := rfl
@[simp] theorem State.modW_inputs (s : State) (g w : Nat) (f : Warp → Warp) : (s.modW g w f).inputs = s.inputs := rfl
@[simp] theorem State.modW_agenda (s : State) (g w : Nat) (f : Warp → Warp) : (s.modW g w f).agenda = s.agenda := rfl
@[simp] theorem State.modW_turn (s : State) (g w : Nat) (f : Warp → Warp) : (s.modW g w f).turn = s.turn := rfl
@[simp] theorem State.modW_late (s : State) (g w : Nat) (f : Warp → Warp) : (s.modW g w f).late = s.late := rfl
@[simp] theorem State.modW_pack (s : State) (g w : Nat) (f : Warp → Warp) : (s.modW g w f).pack = s.pack := rfl

@[simp] theorem State.modT_clock (s : State) (g w t : Nat) (f : Thread → Thread) : (s.modT g w t f).clock = s.clock := rfl
@[simp] theorem State.modT_mem (s : State) (g w t : Nat) (f : Thread → Thread) : (s.modT g w t f).mem = s.mem := rfl
@[simp] theorem State.modT_poison (s : State) (g w t : Nat) (f : Thread → Thread) : (s.modT g w t f).poison = s.poison := rfl
@[simp] theorem State.modT_dies (s : State) (g w t : Nat) (f : Thread → Thread) : (s.modT g w t f).dies = s.dies := rfl
@[simp] theorem State.modT_vdevs (s : State) (g w t : Nat) (f : Thread → Thread) : (s.modT g w t f).vdevs = s.vdevs := rfl
@[simp] theorem State.modT_regions (s : State) (g w t : Nat) (f : Thread → Thread) : (s.modT g w t f).regions = s.regions := rfl
@[simp] theorem State.modT_launches (s : State) (g w t : Nat) (f : Thread → Thread) : (s.modT g w t f).launches = s.launches := rfl
@[simp] theorem State.modT_queues (s : State) (g w t : Nat) (f : Thread → Thread) : (s.modT g w t f).queues = s.queues := rfl
@[simp] theorem State.modT_spinners (s : State) (g w t : Nat) (f : Thread → Thread) : (s.modT g w t f).spinners = s.spinners := rfl
@[simp] theorem State.modT_tasks (s : State) (g w t : Nat) (f : Thread → Thread) : (s.modT g w t f).tasks = s.tasks := rfl
@[simp] theorem State.modT_calls (s : State) (g w t : Nat) (f : Thread → Thread) : (s.modT g w t f).calls = s.calls := rfl
@[simp] theorem State.modT_images (s : State) (g w t : Nat) (f : Thread → Thread) : (s.modT g w t f).images = s.images := rfl
@[simp] theorem State.modT_ckpts (s : State) (g w t : Nat) (f : Thread → Thread) : (s.modT g w t f).ckpts = s.ckpts := rfl
@[simp] theorem State.modT_pkg (s : State) (g w t : Nat) (f : Thread → Thread) : (s.modT g w t f).pkg = s.pkg := rfl
@[simp] theorem State.modT_fab (s : State) (g w t : Nat) (f : Thread → Thread) : (s.modT g w t f).fab = s.fab := rfl
@[simp] theorem State.modT_inputs (s : State) (g w t : Nat) (f : Thread → Thread) : (s.modT g w t f).inputs = s.inputs := rfl
@[simp] theorem State.modT_agenda (s : State) (g w t : Nat) (f : Thread → Thread) : (s.modT g w t f).agenda = s.agenda := rfl
@[simp] theorem State.modT_turn (s : State) (g w t : Nat) (f : Thread → Thread) : (s.modT g w t f).turn = s.turn := rfl
@[simp] theorem State.modT_late (s : State) (g w t : Nat) (f : Thread → Thread) : (s.modT g w t f).late = s.late := rfl
@[simp] theorem State.modT_pack (s : State) (g w t : Nat) (f : Thread → Thread) : (s.modT g w t f).pack = s.pack := rfl

@[simp] theorem State.modQ_clock (s : State) (q : Nat) (f : HwQueue → HwQueue) : (s.modQ q f).clock = s.clock := rfl
@[simp] theorem State.modQ_mem (s : State) (q : Nat) (f : HwQueue → HwQueue) : (s.modQ q f).mem = s.mem := rfl
@[simp] theorem State.modQ_poison (s : State) (q : Nat) (f : HwQueue → HwQueue) : (s.modQ q f).poison = s.poison := rfl
@[simp] theorem State.modQ_dies (s : State) (q : Nat) (f : HwQueue → HwQueue) : (s.modQ q f).dies = s.dies := rfl
@[simp] theorem State.modQ_groups (s : State) (q : Nat) (f : HwQueue → HwQueue) : (s.modQ q f).groups = s.groups := rfl
@[simp] theorem State.modQ_vdevs (s : State) (q : Nat) (f : HwQueue → HwQueue) : (s.modQ q f).vdevs = s.vdevs := rfl
@[simp] theorem State.modQ_regions (s : State) (q : Nat) (f : HwQueue → HwQueue) : (s.modQ q f).regions = s.regions := rfl
@[simp] theorem State.modQ_launches (s : State) (q : Nat) (f : HwQueue → HwQueue) : (s.modQ q f).launches = s.launches := rfl
@[simp] theorem State.modQ_spinners (s : State) (q : Nat) (f : HwQueue → HwQueue) : (s.modQ q f).spinners = s.spinners := rfl
@[simp] theorem State.modQ_tasks (s : State) (q : Nat) (f : HwQueue → HwQueue) : (s.modQ q f).tasks = s.tasks := rfl
@[simp] theorem State.modQ_calls (s : State) (q : Nat) (f : HwQueue → HwQueue) : (s.modQ q f).calls = s.calls := rfl
@[simp] theorem State.modQ_images (s : State) (q : Nat) (f : HwQueue → HwQueue) : (s.modQ q f).images = s.images := rfl
@[simp] theorem State.modQ_ckpts (s : State) (q : Nat) (f : HwQueue → HwQueue) : (s.modQ q f).ckpts = s.ckpts := rfl
@[simp] theorem State.modQ_pkg (s : State) (q : Nat) (f : HwQueue → HwQueue) : (s.modQ q f).pkg = s.pkg := rfl
@[simp] theorem State.modQ_fab (s : State) (q : Nat) (f : HwQueue → HwQueue) : (s.modQ q f).fab = s.fab := rfl
@[simp] theorem State.modQ_inputs (s : State) (q : Nat) (f : HwQueue → HwQueue) : (s.modQ q f).inputs = s.inputs := rfl
@[simp] theorem State.modQ_agenda (s : State) (q : Nat) (f : HwQueue → HwQueue) : (s.modQ q f).agenda = s.agenda := rfl
@[simp] theorem State.modQ_turn (s : State) (q : Nat) (f : HwQueue → HwQueue) : (s.modQ q f).turn = s.turn := rfl
@[simp] theorem State.modQ_late (s : State) (q : Nat) (f : HwQueue → HwQueue) : (s.modQ q f).late = s.late := rfl
@[simp] theorem State.modQ_pack (s : State) (q : Nat) (f : HwQueue → HwQueue) : (s.modQ q f).pack = s.pack := rfl

@[simp] theorem State.modV_clock (s : State) (v : Nat) (f : VDev → VDev) : (s.modV v f).clock = s.clock := rfl
@[simp] theorem State.modV_mem (s : State) (v : Nat) (f : VDev → VDev) : (s.modV v f).mem = s.mem := rfl
@[simp] theorem State.modV_poison (s : State) (v : Nat) (f : VDev → VDev) : (s.modV v f).poison = s.poison := rfl
@[simp] theorem State.modV_dies (s : State) (v : Nat) (f : VDev → VDev) : (s.modV v f).dies = s.dies := rfl
@[simp] theorem State.modV_groups (s : State) (v : Nat) (f : VDev → VDev) : (s.modV v f).groups = s.groups := rfl
@[simp] theorem State.modV_regions (s : State) (v : Nat) (f : VDev → VDev) : (s.modV v f).regions = s.regions := rfl
@[simp] theorem State.modV_launches (s : State) (v : Nat) (f : VDev → VDev) : (s.modV v f).launches = s.launches := rfl
@[simp] theorem State.modV_queues (s : State) (v : Nat) (f : VDev → VDev) : (s.modV v f).queues = s.queues := rfl
@[simp] theorem State.modV_spinners (s : State) (v : Nat) (f : VDev → VDev) : (s.modV v f).spinners = s.spinners := rfl
@[simp] theorem State.modV_tasks (s : State) (v : Nat) (f : VDev → VDev) : (s.modV v f).tasks = s.tasks := rfl
@[simp] theorem State.modV_calls (s : State) (v : Nat) (f : VDev → VDev) : (s.modV v f).calls = s.calls := rfl
@[simp] theorem State.modV_images (s : State) (v : Nat) (f : VDev → VDev) : (s.modV v f).images = s.images := rfl
@[simp] theorem State.modV_ckpts (s : State) (v : Nat) (f : VDev → VDev) : (s.modV v f).ckpts = s.ckpts := rfl
@[simp] theorem State.modV_pkg (s : State) (v : Nat) (f : VDev → VDev) : (s.modV v f).pkg = s.pkg := rfl
@[simp] theorem State.modV_fab (s : State) (v : Nat) (f : VDev → VDev) : (s.modV v f).fab = s.fab := rfl
@[simp] theorem State.modV_inputs (s : State) (v : Nat) (f : VDev → VDev) : (s.modV v f).inputs = s.inputs := rfl
@[simp] theorem State.modV_agenda (s : State) (v : Nat) (f : VDev → VDev) : (s.modV v f).agenda = s.agenda := rfl
@[simp] theorem State.modV_turn (s : State) (v : Nat) (f : VDev → VDev) : (s.modV v f).turn = s.turn := rfl
@[simp] theorem State.modV_late (s : State) (v : Nat) (f : VDev → VDev) : (s.modV v f).late = s.late := rfl
@[simp] theorem State.modV_pack (s : State) (v : Nat) (f : VDev → VDev) : (s.modV v f).pack = s.pack := rfl

@[simp] theorem State.modPkg_clock (s : State) (f : Package → Package) : (s.modPkg f).clock = s.clock := rfl
@[simp] theorem State.modPkg_mem (s : State) (f : Package → Package) : (s.modPkg f).mem = s.mem := rfl
@[simp] theorem State.modPkg_poison (s : State) (f : Package → Package) : (s.modPkg f).poison = s.poison := rfl
@[simp] theorem State.modPkg_dies (s : State) (f : Package → Package) : (s.modPkg f).dies = s.dies := rfl
@[simp] theorem State.modPkg_groups (s : State) (f : Package → Package) : (s.modPkg f).groups = s.groups := rfl
@[simp] theorem State.modPkg_vdevs (s : State) (f : Package → Package) : (s.modPkg f).vdevs = s.vdevs := rfl
@[simp] theorem State.modPkg_regions (s : State) (f : Package → Package) : (s.modPkg f).regions = s.regions := rfl
@[simp] theorem State.modPkg_launches (s : State) (f : Package → Package) : (s.modPkg f).launches = s.launches := rfl
@[simp] theorem State.modPkg_queues (s : State) (f : Package → Package) : (s.modPkg f).queues = s.queues := rfl
@[simp] theorem State.modPkg_spinners (s : State) (f : Package → Package) : (s.modPkg f).spinners = s.spinners := rfl
@[simp] theorem State.modPkg_tasks (s : State) (f : Package → Package) : (s.modPkg f).tasks = s.tasks := rfl
@[simp] theorem State.modPkg_calls (s : State) (f : Package → Package) : (s.modPkg f).calls = s.calls := rfl
@[simp] theorem State.modPkg_images (s : State) (f : Package → Package) : (s.modPkg f).images = s.images := rfl
@[simp] theorem State.modPkg_ckpts (s : State) (f : Package → Package) : (s.modPkg f).ckpts = s.ckpts := rfl
@[simp] theorem State.modPkg_fab (s : State) (f : Package → Package) : (s.modPkg f).fab = s.fab := rfl
@[simp] theorem State.modPkg_inputs (s : State) (f : Package → Package) : (s.modPkg f).inputs = s.inputs := rfl
@[simp] theorem State.modPkg_agenda (s : State) (f : Package → Package) : (s.modPkg f).agenda = s.agenda := rfl
@[simp] theorem State.modPkg_turn (s : State) (f : Package → Package) : (s.modPkg f).turn = s.turn := rfl
@[simp] theorem State.modPkg_late (s : State) (f : Package → Package) : (s.modPkg f).late = s.late := rfl
@[simp] theorem State.modPkg_pack (s : State) (f : Package → Package) : (s.modPkg f).pack = s.pack := rfl

@[simp] theorem State.modLink_clock (s : State) (n : Nat) (f : Link → Link) : (s.modLink n f).clock = s.clock := rfl
@[simp] theorem State.modLink_mem (s : State) (n : Nat) (f : Link → Link) : (s.modLink n f).mem = s.mem := rfl
@[simp] theorem State.modLink_poison (s : State) (n : Nat) (f : Link → Link) : (s.modLink n f).poison = s.poison := rfl
@[simp] theorem State.modLink_dies (s : State) (n : Nat) (f : Link → Link) : (s.modLink n f).dies = s.dies := rfl
@[simp] theorem State.modLink_groups (s : State) (n : Nat) (f : Link → Link) : (s.modLink n f).groups = s.groups := rfl
@[simp] theorem State.modLink_vdevs (s : State) (n : Nat) (f : Link → Link) : (s.modLink n f).vdevs = s.vdevs := rfl
@[simp] theorem State.modLink_regions (s : State) (n : Nat) (f : Link → Link) : (s.modLink n f).regions = s.regions := rfl
@[simp] theorem State.modLink_launches (s : State) (n : Nat) (f : Link → Link) : (s.modLink n f).launches = s.launches := rfl
@[simp] theorem State.modLink_queues (s : State) (n : Nat) (f : Link → Link) : (s.modLink n f).queues = s.queues := rfl
@[simp] theorem State.modLink_spinners (s : State) (n : Nat) (f : Link → Link) : (s.modLink n f).spinners = s.spinners := rfl
@[simp] theorem State.modLink_tasks (s : State) (n : Nat) (f : Link → Link) : (s.modLink n f).tasks = s.tasks := rfl
@[simp] theorem State.modLink_calls (s : State) (n : Nat) (f : Link → Link) : (s.modLink n f).calls = s.calls := rfl
@[simp] theorem State.modLink_images (s : State) (n : Nat) (f : Link → Link) : (s.modLink n f).images = s.images := rfl
@[simp] theorem State.modLink_ckpts (s : State) (n : Nat) (f : Link → Link) : (s.modLink n f).ckpts = s.ckpts := rfl
@[simp] theorem State.modLink_pkg (s : State) (n : Nat) (f : Link → Link) : (s.modLink n f).pkg = s.pkg := rfl
@[simp] theorem State.modLink_inputs (s : State) (n : Nat) (f : Link → Link) : (s.modLink n f).inputs = s.inputs := rfl
@[simp] theorem State.modLink_agenda (s : State) (n : Nat) (f : Link → Link) : (s.modLink n f).agenda = s.agenda := rfl
@[simp] theorem State.modLink_turn (s : State) (n : Nat) (f : Link → Link) : (s.modLink n f).turn = s.turn := rfl
@[simp] theorem State.modLink_late (s : State) (n : Nat) (f : Link → Link) : (s.modLink n f).late = s.late := rfl
@[simp] theorem State.modLink_pack (s : State) (n : Nat) (f : Link → Link) : (s.modLink n f).pack = s.pack := rfl

@[simp] theorem State.report_clock (s : State) (r : Report) : (s.report r).clock = s.clock := rfl
@[simp] theorem State.report_mem (s : State) (r : Report) : (s.report r).mem = s.mem := rfl
@[simp] theorem State.report_poison (s : State) (r : Report) : (s.report r).poison = s.poison := rfl
@[simp] theorem State.report_dies (s : State) (r : Report) : (s.report r).dies = s.dies := rfl
@[simp] theorem State.report_groups (s : State) (r : Report) : (s.report r).groups = s.groups := rfl
@[simp] theorem State.report_vdevs (s : State) (r : Report) : (s.report r).vdevs = s.vdevs := rfl
@[simp] theorem State.report_regions (s : State) (r : Report) : (s.report r).regions = s.regions := rfl
@[simp] theorem State.report_launches (s : State) (r : Report) : (s.report r).launches = s.launches := rfl
@[simp] theorem State.report_queues (s : State) (r : Report) : (s.report r).queues = s.queues := rfl
@[simp] theorem State.report_spinners (s : State) (r : Report) : (s.report r).spinners = s.spinners := rfl
@[simp] theorem State.report_tasks (s : State) (r : Report) : (s.report r).tasks = s.tasks := rfl
@[simp] theorem State.report_calls (s : State) (r : Report) : (s.report r).calls = s.calls := rfl
@[simp] theorem State.report_images (s : State) (r : Report) : (s.report r).images = s.images := rfl
@[simp] theorem State.report_ckpts (s : State) (r : Report) : (s.report r).ckpts = s.ckpts := rfl
@[simp] theorem State.report_fab (s : State) (r : Report) : (s.report r).fab = s.fab := rfl
@[simp] theorem State.report_inputs (s : State) (r : Report) : (s.report r).inputs = s.inputs := rfl
@[simp] theorem State.report_agenda (s : State) (r : Report) : (s.report r).agenda = s.agenda := rfl
@[simp] theorem State.report_turn (s : State) (r : Report) : (s.report r).turn = s.turn := rfl
@[simp] theorem State.report_late (s : State) (r : Report) : (s.report r).late = s.late := rfl
@[simp] theorem State.report_pack (s : State) (r : Report) : (s.report r).pack = s.pack := rfl

@[simp] theorem State.newId_clock (s : State) : (s.newId.1).clock = s.clock := rfl
@[simp] theorem State.newId_mem (s : State) : (s.newId.1).mem = s.mem := rfl
@[simp] theorem State.newId_poison (s : State) : (s.newId.1).poison = s.poison := rfl
@[simp] theorem State.newId_dies (s : State) : (s.newId.1).dies = s.dies := rfl
@[simp] theorem State.newId_groups (s : State) : (s.newId.1).groups = s.groups := rfl
@[simp] theorem State.newId_vdevs (s : State) : (s.newId.1).vdevs = s.vdevs := rfl
@[simp] theorem State.newId_regions (s : State) : (s.newId.1).regions = s.regions := rfl
@[simp] theorem State.newId_launches (s : State) : (s.newId.1).launches = s.launches := rfl
@[simp] theorem State.newId_queues (s : State) : (s.newId.1).queues = s.queues := rfl
@[simp] theorem State.newId_spinners (s : State) : (s.newId.1).spinners = s.spinners := rfl
@[simp] theorem State.newId_tasks (s : State) : (s.newId.1).tasks = s.tasks := rfl
@[simp] theorem State.newId_calls (s : State) : (s.newId.1).calls = s.calls := rfl
@[simp] theorem State.newId_images (s : State) : (s.newId.1).images = s.images := rfl
@[simp] theorem State.newId_ckpts (s : State) : (s.newId.1).ckpts = s.ckpts := rfl
@[simp] theorem State.newId_fab (s : State) : (s.newId.1).fab = s.fab := rfl
@[simp] theorem State.newId_inputs (s : State) : (s.newId.1).inputs = s.inputs := rfl
@[simp] theorem State.newId_agenda (s : State) : (s.newId.1).agenda = s.agenda := rfl
@[simp] theorem State.newId_turn (s : State) : (s.newId.1).turn = s.turn := rfl
@[simp] theorem State.newId_late (s : State) : (s.newId.1).late = s.late := rfl
@[simp] theorem State.newId_pack (s : State) : (s.newId.1).pack = s.pack := rfl

@[simp] theorem State.setPbyte_clock (s : State) (pa : Nat) (b : Byte) : (s.setPbyte pa b).clock = s.clock := rfl
@[simp] theorem State.setPbyte_poison (s : State) (pa : Nat) (b : Byte) : (s.setPbyte pa b).poison = s.poison := rfl
@[simp] theorem State.setPbyte_dies (s : State) (pa : Nat) (b : Byte) : (s.setPbyte pa b).dies = s.dies := rfl
@[simp] theorem State.setPbyte_groups (s : State) (pa : Nat) (b : Byte) : (s.setPbyte pa b).groups = s.groups := rfl
@[simp] theorem State.setPbyte_vdevs (s : State) (pa : Nat) (b : Byte) : (s.setPbyte pa b).vdevs = s.vdevs := rfl
@[simp] theorem State.setPbyte_regions (s : State) (pa : Nat) (b : Byte) : (s.setPbyte pa b).regions = s.regions := rfl
@[simp] theorem State.setPbyte_launches (s : State) (pa : Nat) (b : Byte) : (s.setPbyte pa b).launches = s.launches := rfl
@[simp] theorem State.setPbyte_queues (s : State) (pa : Nat) (b : Byte) : (s.setPbyte pa b).queues = s.queues := rfl
@[simp] theorem State.setPbyte_spinners (s : State) (pa : Nat) (b : Byte) : (s.setPbyte pa b).spinners = s.spinners := rfl
@[simp] theorem State.setPbyte_tasks (s : State) (pa : Nat) (b : Byte) : (s.setPbyte pa b).tasks = s.tasks := rfl
@[simp] theorem State.setPbyte_calls (s : State) (pa : Nat) (b : Byte) : (s.setPbyte pa b).calls = s.calls := rfl
@[simp] theorem State.setPbyte_images (s : State) (pa : Nat) (b : Byte) : (s.setPbyte pa b).images = s.images := rfl
@[simp] theorem State.setPbyte_ckpts (s : State) (pa : Nat) (b : Byte) : (s.setPbyte pa b).ckpts = s.ckpts := rfl
@[simp] theorem State.setPbyte_pkg (s : State) (pa : Nat) (b : Byte) : (s.setPbyte pa b).pkg = s.pkg := rfl
@[simp] theorem State.setPbyte_fab (s : State) (pa : Nat) (b : Byte) : (s.setPbyte pa b).fab = s.fab := rfl
@[simp] theorem State.setPbyte_inputs (s : State) (pa : Nat) (b : Byte) : (s.setPbyte pa b).inputs = s.inputs := rfl
@[simp] theorem State.setPbyte_agenda (s : State) (pa : Nat) (b : Byte) : (s.setPbyte pa b).agenda = s.agenda := rfl
@[simp] theorem State.setPbyte_turn (s : State) (pa : Nat) (b : Byte) : (s.setPbyte pa b).turn = s.turn := rfl
@[simp] theorem State.setPbyte_late (s : State) (pa : Nat) (b : Byte) : (s.setPbyte pa b).late = s.late := rfl
@[simp] theorem State.setPbyte_pack (s : State) (pa : Nat) (b : Byte) : (s.setPbyte pa b).pack = s.pack := rfl

@[simp] theorem State.setPsn_clock (s : State) (pa : Nat) (p : Bool) : (s.setPsn pa p).clock = s.clock := rfl
@[simp] theorem State.setPsn_mem (s : State) (pa : Nat) (p : Bool) : (s.setPsn pa p).mem = s.mem := rfl
@[simp] theorem State.setPsn_dies (s : State) (pa : Nat) (p : Bool) : (s.setPsn pa p).dies = s.dies := rfl
@[simp] theorem State.setPsn_groups (s : State) (pa : Nat) (p : Bool) : (s.setPsn pa p).groups = s.groups := rfl
@[simp] theorem State.setPsn_vdevs (s : State) (pa : Nat) (p : Bool) : (s.setPsn pa p).vdevs = s.vdevs := rfl
@[simp] theorem State.setPsn_regions (s : State) (pa : Nat) (p : Bool) : (s.setPsn pa p).regions = s.regions := rfl
@[simp] theorem State.setPsn_launches (s : State) (pa : Nat) (p : Bool) : (s.setPsn pa p).launches = s.launches := rfl
@[simp] theorem State.setPsn_queues (s : State) (pa : Nat) (p : Bool) : (s.setPsn pa p).queues = s.queues := rfl
@[simp] theorem State.setPsn_spinners (s : State) (pa : Nat) (p : Bool) : (s.setPsn pa p).spinners = s.spinners := rfl
@[simp] theorem State.setPsn_tasks (s : State) (pa : Nat) (p : Bool) : (s.setPsn pa p).tasks = s.tasks := rfl
@[simp] theorem State.setPsn_calls (s : State) (pa : Nat) (p : Bool) : (s.setPsn pa p).calls = s.calls := rfl
@[simp] theorem State.setPsn_images (s : State) (pa : Nat) (p : Bool) : (s.setPsn pa p).images = s.images := rfl
@[simp] theorem State.setPsn_ckpts (s : State) (pa : Nat) (p : Bool) : (s.setPsn pa p).ckpts = s.ckpts := rfl
@[simp] theorem State.setPsn_pkg (s : State) (pa : Nat) (p : Bool) : (s.setPsn pa p).pkg = s.pkg := rfl
@[simp] theorem State.setPsn_fab (s : State) (pa : Nat) (p : Bool) : (s.setPsn pa p).fab = s.fab := rfl
@[simp] theorem State.setPsn_inputs (s : State) (pa : Nat) (p : Bool) : (s.setPsn pa p).inputs = s.inputs := rfl
@[simp] theorem State.setPsn_agenda (s : State) (pa : Nat) (p : Bool) : (s.setPsn pa p).agenda = s.agenda := rfl
@[simp] theorem State.setPsn_turn (s : State) (pa : Nat) (p : Bool) : (s.setPsn pa p).turn = s.turn := rfl
@[simp] theorem State.setPsn_late (s : State) (pa : Nat) (p : Bool) : (s.setPsn pa p).late = s.late := rfl
@[simp] theorem State.setPsn_pack (s : State) (pa : Nat) (p : Bool) : (s.setPsn pa p).pack = s.pack := rfl

@[simp] theorem State.own_clock (s : State) (pa n v : Nat) : (s.own pa n v).clock = s.clock := rfl
@[simp] theorem State.own_mem (s : State) (pa n v : Nat) : (s.own pa n v).mem = s.mem := rfl
@[simp] theorem State.own_poison (s : State) (pa n v : Nat) : (s.own pa n v).poison = s.poison := rfl
@[simp] theorem State.own_groups (s : State) (pa n v : Nat) : (s.own pa n v).groups = s.groups := rfl
@[simp] theorem State.own_vdevs (s : State) (pa n v : Nat) : (s.own pa n v).vdevs = s.vdevs := rfl
@[simp] theorem State.own_regions (s : State) (pa n v : Nat) : (s.own pa n v).regions = s.regions := rfl
@[simp] theorem State.own_launches (s : State) (pa n v : Nat) : (s.own pa n v).launches = s.launches := rfl
@[simp] theorem State.own_queues (s : State) (pa n v : Nat) : (s.own pa n v).queues = s.queues := rfl
@[simp] theorem State.own_spinners (s : State) (pa n v : Nat) : (s.own pa n v).spinners = s.spinners := rfl
@[simp] theorem State.own_tasks (s : State) (pa n v : Nat) : (s.own pa n v).tasks = s.tasks := rfl
@[simp] theorem State.own_calls (s : State) (pa n v : Nat) : (s.own pa n v).calls = s.calls := rfl
@[simp] theorem State.own_images (s : State) (pa n v : Nat) : (s.own pa n v).images = s.images := rfl
@[simp] theorem State.own_ckpts (s : State) (pa n v : Nat) : (s.own pa n v).ckpts = s.ckpts := rfl
@[simp] theorem State.own_pkg (s : State) (pa n v : Nat) : (s.own pa n v).pkg = s.pkg := rfl
@[simp] theorem State.own_fab (s : State) (pa n v : Nat) : (s.own pa n v).fab = s.fab := rfl
@[simp] theorem State.own_inputs (s : State) (pa n v : Nat) : (s.own pa n v).inputs = s.inputs := rfl
@[simp] theorem State.own_agenda (s : State) (pa n v : Nat) : (s.own pa n v).agenda = s.agenda := rfl
@[simp] theorem State.own_turn (s : State) (pa n v : Nat) : (s.own pa n v).turn = s.turn := rfl
@[simp] theorem State.own_late (s : State) (pa n v : Nat) : (s.own pa n v).late = s.late := rfl
@[simp] theorem State.own_pack (s : State) (pa n v : Nat) : (s.own pa n v).pack = s.pack := rfl

@[simp] theorem State.endPick_clock (s : State) : (s.endPick).clock = s.clock := rfl
@[simp] theorem State.endPick_mem (s : State) : (s.endPick).mem = s.mem := rfl
@[simp] theorem State.endPick_poison (s : State) : (s.endPick).poison = s.poison := rfl
@[simp] theorem State.endPick_dies (s : State) : (s.endPick).dies = s.dies := rfl
@[simp] theorem State.endPick_groups (s : State) : (s.endPick).groups = s.groups := rfl
@[simp] theorem State.endPick_vdevs (s : State) : (s.endPick).vdevs = s.vdevs := rfl
@[simp] theorem State.endPick_regions (s : State) : (s.endPick).regions = s.regions := rfl
@[simp] theorem State.endPick_launches (s : State) : (s.endPick).launches = s.launches := rfl
@[simp] theorem State.endPick_queues (s : State) : (s.endPick).queues = s.queues := rfl
@[simp] theorem State.endPick_spinners (s : State) : (s.endPick).spinners = s.spinners := rfl
@[simp] theorem State.endPick_tasks (s : State) : (s.endPick).tasks = s.tasks := rfl
@[simp] theorem State.endPick_calls (s : State) : (s.endPick).calls = s.calls := rfl
@[simp] theorem State.endPick_images (s : State) : (s.endPick).images = s.images := rfl
@[simp] theorem State.endPick_ckpts (s : State) : (s.endPick).ckpts = s.ckpts := rfl
@[simp] theorem State.endPick_pkg (s : State) : (s.endPick).pkg = s.pkg := rfl
@[simp] theorem State.endPick_fab (s : State) : (s.endPick).fab = s.fab := rfl
@[simp] theorem State.endPick_inputs (s : State) : (s.endPick).inputs = s.inputs := rfl
@[simp] theorem State.endPick_agenda (s : State) : (s.endPick).agenda = s.agenda := rfl
@[simp] theorem State.endPick_turn (s : State) : (s.endPick).turn = s.turn := rfl
@[simp] theorem State.endPick_late (s : State) : (s.endPick).late = s.late := rfl

theorem State.modD_dies' (s : State) (d : Nat) (f : Die → Die) : (s.modD d f).dies = modAt s.dies d f := rfl
theorem State.modG_groups' (s : State) (g : Nat) (f : Group → Group) : (s.modG g f).groups = modAt s.groups g f := rfl
theorem State.modQ_queues' (s : State) (q : Nat) (f : HwQueue → HwQueue) : (s.modQ q f).queues = modAt s.queues q f := rfl
theorem State.modPkg_pkg' (s : State) (f : Package → Package) : (s.modPkg f).pkg = f s.pkg := rfl
theorem State.report_pkg' (s : State) (r : Report) : (s.report r).pkg = { s.pkg with reports := s.pkg.reports ++ [r] } := rfl
theorem State.setPbyte_mem' (s : State) (pa : Nat) (b : Byte) : (s.setPbyte pa b).mem = FMap.set memDefault s.mem pa b := rfl
theorem State.setPsn_poison' (s : State) (pa : Nat) (p : Bool) : (s.setPsn pa p).poison = NSet.put s.poison (pa / 32) p := rfl
theorem State.endPick_pack' (s : State) : (s.endPick).pack = ⟨0, 0, []⟩ := rfl

end Sys2Proof.Machine
end

