-- ==== Sys2Proof/Laws/Memory.lean ====
section
/-! SUPPORT. Every operation on physical memory keeps its canonical form. -/
namespace Sys2Proof.Machine

theorem State.wf_of_mem {s t : State} (h : t.mem = s.mem) : t.wf = s.wf := by simp only [State.wf, h]

theorem State.reset_wf : State.reset.wf = true := rfl

theorem State.setPbyte_wf (s : State) (pa : Nat) (b : Byte) (h : s.wf = true) : (s.setPbyte pa b).wf = true :=
  FMap.set_wf memDefault s.mem pa b h

theorem State.setPbytes_wf (l : List Byte) (s : State) (pa : Nat) (h : s.wf = true) : (s.setPbytes pa l).wf = true := by
  induction l generalizing s pa with
  | nil => exact h
  | cons b l ih => exact ih _ _ (s.setPbyte_wf pa b h)

theorem State.setEnt_wf (s : State) (pa e : Nat) (h : s.wf = true) : (s.setEnt pa e).wf = true :=
  State.setPbytes_wf _ s pa h

/-- A map shifted from `a` to `b` keeps its form. -/
theorem FMap.shift_wfFrom {α : Type} [DecidableEq α] (d : α) (a b : Nat) :
    ∀ (m : FMap α) (lo : Nat), a ≤ lo → FMap.wfFrom d lo m = true →
      FMap.wfFrom d (lo - a + b) (m.map (fun x => (x.1 - a + b, x.2))) = true := by
  intro m
  induction m with
  | nil => intro lo _ _; rfl
  | cons x m ih =>
    intro lo hlo h
    obtain ⟨k, v⟩ := x
    simp only [FMap.wfFrom, Bool.and_eq_true, decide_eq_true_eq] at h
    obtain ⟨⟨h1, h2⟩, h3⟩ := h
    have := ih (k + 1) (by omega) h3
    simp only [List.map_cons, FMap.wfFrom, Bool.and_eq_true, decide_eq_true_eq]
    refine ⟨⟨by omega, h2⟩, ?_⟩
    rwa [show k - a + b + 1 = k + 1 - a + b by omega]

/-- The entries below a bound, then a map from there on. -/
theorem FMap.below_append {α : Type} [DecidableEq α] (d : α) (hi : Nat) (n : FMap α) (hn : FMap.wfFrom d hi n = true) :
    ∀ (m : FMap α) (lo : Nat), lo ≤ hi → FMap.wfFrom d lo m = true →
      FMap.wfFrom d lo (m.filter (fun x => decide (x.1 < hi)) ++ n) = true := by
  intro m
  induction m with
  | nil => intro lo hlo _; exact FMap.wfFrom_mono d hlo n hn
  | cons x m ih =>
    intro lo hlo h
    obtain ⟨k, v⟩ := x
    simp only [FMap.wfFrom, Bool.and_eq_true, decide_eq_true_eq] at h
    obtain ⟨⟨h1, h2⟩, h3⟩ := h
    by_cases hk : k < hi
    · simp only [List.filter_cons, hk, decide_true, ↓reduceIte, List.cons_append, FMap.wfFrom, Bool.and_eq_true,
        decide_eq_true_eq]
      exact ⟨⟨h1, h2⟩, ih (k + 1) (by omega) h3⟩
    · simp only [List.filter_cons, hk, decide_false, Bool.false_eq_true, ↓reduceIte]
      exact ih lo hlo (FMap.wfFrom_mono d (by omega) m h3)

/-- The entries from a bound on, of a map in its form, are in the form from there on. -/
theorem FMap.above_wfFrom {α : Type} [DecidableEq α] (d : α) (lo : Nat) (q : Nat × α → Bool)
    (hq : ∀ x, q x = true → lo ≤ x.1) : ∀ (m : FMap α) (k : Nat), FMap.wfFrom d k m = true →
      FMap.wfFrom d lo (m.filter q) = true := by
  intro m
  induction m with
  | nil => intro k _; rfl
  | cons x m ih =>
    intro k h
    obtain ⟨j, v⟩ := x
    simp only [FMap.wfFrom, Bool.and_eq_true, decide_eq_true_eq] at h
    obtain ⟨⟨h1, h2⟩, h3⟩ := h
    cases hx : q (j, v) with
    | false => simp only [List.filter_cons, hx, Bool.false_eq_true, ↓reduceIte]; exact ih _ h3
    | true =>
      simp only [List.filter_cons, hx, ↓reduceIte, FMap.wfFrom, Bool.and_eq_true, decide_eq_true_eq]
      exact ⟨⟨hq _ hx, h2⟩, FMap.filter_wfFrom d (j + 1) m q h3⟩

theorem FMap.copy_wf {α : Type} [DecidableEq α] (d : α) (m : FMap α) (a b n : Nat) (h : FMap.wf d m = true) :
    FMap.wf d (FMap.copy m a b n) = true := by
  unfold FMap.wf FMap.copy FMap.range
  refine FMap.below_append d b _ ?_ m 0 (by omega) h
  have hr : FMap.wfFrom d a (m.filter (fun x => decide (a ≤ x.1) && decide (x.1 < a + n))) = true :=
    FMap.above_wfFrom d a _ (by simp; omega) m 0 h
  have hs := FMap.shift_wfFrom d a b _ a (le_refl a) hr
  rw [show a - a + b = b by omega] at hs
  have he : FMap.wfFrom d (b + n) (m.filter (fun x => decide (b + n ≤ x.1))) = true :=
    FMap.above_wfFrom d (b + n) _ (by simp) m 0 h
  have hf := FMap.below_append d (b + n) _ he _ b (by omega) hs
  rwa [List.filter_eq_self.mpr] at hf
  intro x hx
  simp only [List.mem_map, List.mem_filter, Bool.and_eq_true, decide_eq_true_eq] at hx ⊢
  obtain ⟨y, ⟨_, h1, h2⟩, rfl⟩ := hx
  simp only
  omega

theorem State.zeroP_wf (n : Nat) (s : State) (a : Nat) (h : s.wf = true) : (s.zeroP a n).wf = true := by
  induction n generalizing s a with
  | zero => exact h
  | succ n ih => exact ih _ _ (s.setPbyte_wf a 0 h)

theorem State.claimLine_wf (s : State) (v pa : Nat) (h : s.wf = true) : (s.claimLine v pa).wf = true := by
  unfold State.claimLine
  split
  · exact h
  · split
    · exact h
    · have h0 := State.zeroP_wf 64 s (pa / 64 * 64) h
      simp only [State.wf, State.modD_mem, State.setPsn_mem] at h0 ⊢
      exact h0

theorem State.setPsn_wf (s : State) (pa : Nat) (p : Bool) : (s.setPsn pa p).wf = s.wf := rfl

theorem State.markPsn_wf (s : State) (pa : Nat) (p : Psn) : (s.markPsn pa p).wf = s.wf := by cases p <;> rfl

theorem State.writePa_wf (s : State) (v pa : Nat) (b mask : Byte) (p : Psn) (h : s.wf = true) :
    (s.writePa v pa b mask p).wf = true := by
  unfold State.writePa
  rw [State.markPsn_wf]
  exact State.setPbyte_wf _ pa _ (s.claimLine_wf v pa h)

theorem State.setPeerByte_wf (s : State) (p : Peer) (pos : Nat) (b : Byte) (ps : Psn) :
    (s.setPeerByte p pos b ps).wf = s.wf := by
  unfold State.setPeerByte
  split <;> rfl

/-- What each step of a fold keeps, the fold keeps. -/
theorem foldl_keeps {α β : Type} (P : β → Prop) (f : β → α → β) (hf : ∀ b a, P b → P (f b a)) :
    ∀ (l : List α) (b : β), P b → P (l.foldl f b) := by
  intro l
  induction l with
  | nil => intro b h; exact h
  | cons a l ih => intro b h; exact ih _ (hf b a h)

theorem State.performPath_wf (s : State) (l : List PathWr) (h : s.wf = true) : (s.performPath l).wf = true :=
  foldl_keeps (fun s => State.wf s = true) _ (fun _ _ hr => State.writePa_wf _ _ _ _ _ _ hr) _ _ h

theorem State.drainPath_wf (s : State) (d k : Nat) (h : s.wf = true) : (s.drainPath d k).wf = true := by
  unfold State.drainPath
  split
  · exact h
  · exact State.performPath_wf _ _ h

theorem State.arrivePath_wf (s : State) (d k : Nat) (h : s.wf = true) : (s.arrivePath d k).wf = true := by
  unfold State.arrivePath
  split
  · exact h
  · exact State.performPath_wf _ _ h

theorem State.drainDie_wf (s : State) (d : Nat) (h : s.wf = true) : (s.drainDie d).wf = true :=
  foldl_keeps (fun s => State.wf s = true) _ (fun _ _ hr => State.drainPath_wf _ _ _ hr) _ _ h

theorem State.drainAll_wf (s : State) (h : s.wf = true) : s.drainAll.wf = true :=
  foldl_keeps (fun s => State.wf s = true) _ (fun _ _ hr => State.drainDie_wf _ _ hr) _ _ h

theorem State.homeWrite_wf (s : State) (d v pa : Nat) (b mask : Byte) (p : Psn) (late : Bool) (h : s.wf = true) :
    (s.homeWrite d v pa b mask p late).wf = true := by
  unfold State.homeWrite
  simp only
  split
  · exact h
  · exact State.writePa_wf _ _ _ _ _ _ (s.drainPath_wf _ _ h)

theorem State.copyPhys_wf (s : State) (a b n : Nat) (h : s.wf = true) : (s.copyPhys a b n).wf = true := by
  have h1 := s.drainAll_wf h
  simp only [State.wf, Memory.wf, State.copyPhys] at h1 ⊢
  exact FMap.copy_wf memDefault _ a b n h1

theorem State.zeroPhys_wf (s : State) (a n : Nat) (h : s.wf = true) : (s.zeroPhys a n).wf = true := by
  have h1 := s.drainAll_wf h
  simp only [State.wf, Memory.wf, State.zeroPhys] at h1 ⊢
  exact FMap.filter_wfFrom memDefault 0 _ _ h1

theorem State.freeFrames_wf (s : State) (pa n : Nat) (h : s.wf = true) : (s.freeFrames pa n).wf = true := by
  have h1 := s.zeroPhys_wf pa (65536 * n) h
  simp only [State.wf, State.freeFrames, State.own_mem] at h1 ⊢
  exact h1

theorem State.writeB_wf (s t : State) (d v va : Nat) (b mask : Byte) (p : Psn) (n : Need) (late : Bool) (h : s.wf = true)
    (ht : s.writeB d v va b mask p n late = .ok t) : t.wf = true := by
  unfold State.writeB at ht
  cases hl : s.locate d v va n with
  | error k => rw [hl] at ht; simp [bind, Except.bind] at ht
  | ok w =>
    rw [hl] at ht
    cases w with
    | here pa =>
      simp only [bind, Except.bind] at ht
      split at ht
      · simp only [Except.ok.injEq] at ht
        subst ht
        exact s.homeWrite_wf _ _ _ _ _ _ _ h
      · simp only [Except.ok.injEq] at ht
        subst ht
        exact foldl_keeps (fun s => State.wf s = true) _ (fun _ _ hr => State.writePa_wf _ _ _ _ _ _ hr) _ _ h
    | peer part pos =>
      simp only [bind, Except.bind] at ht
      split at ht
      · simp only [Except.ok.injEq] at ht
        subst ht
        rw [State.setPeerByte_wf]; exact h
      · simp at ht

theorem State.writeN_wf (l : List Byte) (s t : State) (d v va : Nat) (p : Bool) (h : s.wf = true)
    (ht : s.writeN d v va p l = .ok t) : t.wf = true := by
  induction l generalizing s va with
  | nil => simp only [State.writeN, Except.ok.injEq] at ht; subst ht; exact h
  | cons b l ih =>
    simp only [State.writeN] at ht
    split at ht
    · simp at ht
    · next r hr => exact ih r _ (State.writeB_wf s r d v va b 0xFF (psnOf p) .write false h hr) ht

theorem State.clearPsn_wf (s : State) (d v va n : Nat) (h : s.wf = true) : (s.clearPsn d v va n).wf = true := by
  unfold State.clearPsn
  split
  · exact h
  · refine foldl_keeps (fun s => State.wf s = true) _ ?_ _ _ h
    intro r k hr
    refine foldl_keeps (fun s => State.wf s = true) _ ?_ _ _ hr
    intro r e hr
    split <;> exact hr

theorem State.writeClean_wf (s t : State) (d v va : Nat) (l : List Byte) (h : s.wf = true)
    (ht : s.writeClean d v va l = .ok t) : t.wf = true := by
  unfold State.writeClean at ht
  split at ht
  · simp at ht
  · next r hr =>
    simp only [Except.ok.injEq] at ht
    subst ht
    exact State.clearPsn_wf _ _ _ _ _ (State.writeN_wf l s r d v va false h hr)

theorem State.vput_wf (s : State) (v va : Nat) (l : List Byte) (h : s.wf = true) : (s.vput v va l).wf = true := by
  unfold State.vput
  split
  · next t ht => exact State.writeClean_wf s t 4 v va l h ht
  · exact h

theorem State.putVals_wf (s : State) (d v va : Nat) (l : List Val) (h : s.wf = true) : (s.putVals d v va l).wf = true := by
  refine foldl_keeps (fun s => State.wf s = true) _ ?_ _ _ (State.vput_wf s v va _ h)
  intro r x hr
  split
  · split
    · next t ht => exact State.writeN_wf _ _ _ _ _ _ _ hr ht
    · exact hr
  · exact hr

theorem State.land_wf (s t : State) (d v va : Nat) (l : List Byte) (psn : NSet) (h : s.wf = true)
    (ht : s.land d v va l psn = .ok t) : t.wf = true := by
  unfold State.land at ht
  split at ht
  · simp at ht
  · next r hr =>
    simp only [Except.ok.injEq] at ht
    subst ht
    refine foldl_keeps (fun s => State.wf s = true) _ ?_ _ _ (State.writeClean_wf s r d v va l h hr)
    intro r k hr
    split
    · next u hu => exact State.writeB_wf _ _ _ _ _ _ _ _ _ _ hr hu
    · exact hr

theorem State.putCells_wf (l : FMap Byte) (s : State) (v : Nat) (h : s.wf = true) : (s.putCells v l).wf = true := by
  refine foldl_keeps (fun s => State.wf s = true) _ ?_ _ _ h
  intro r x hr
  split
  · exact State.writePa_wf _ _ _ _ _ _ hr
  · exact hr

theorem State.loadKey_wf (s : State) (d k v : Nat) (h : s.wf = true) : (s.loadKey d k v).wf = true := by
  have key : ∀ (r : State), r.wf = true → (r.keyload d k v).wf = true := fun r hr => hr
  unfold State.loadKey
  refine key _ ?_
  split
  · refine foldl_keeps (fun s => State.wf s = true) _ ?_ _ _ (s.drainAll_wf h)
    intro r l hr
    rw [State.setPsn_wf, State.setPsn_wf]
    exact State.zeroP_wf 64 r _ hr
  · exact h

/-- A byte reads as it was last written, every other one as before. -/
theorem State.pbyte_setPbyte (s : State) (pa a : Nat) (b : Byte) (h : s.wf = true) :
    (s.setPbyte pa b).pbyte a = if a = pa then b else s.pbyte a := by
  split
  · next e => subst e; exact FMap.get_set_same memDefault 0 s.mem a b h
  · next e => exact FMap.get_set_other memDefault 0 s.mem pa a b e h

end Sys2Proof.Machine
end

