-- ==== Sys2Proof/Laws/PerInstr.lean ====
section
/-! SUPPORT. An instruction is rebuilt from its view; no family of statements is made per instruction. -/
namespace Sys2Proof

/-- The instruction that a view stands for is the one viewed; an event has no fields in its view. -/
theorem Instr.view_rebuild (i : Instr) :
    (match i.view with
     | .native o f => nativeInstr o f = i
     | .prerin o p => prerinInstr o p = i
     | .illN w => Instr.ill w = i
     | .illP w => Instr.illPrerin w = i
     | .pair u l => Instr.pWord u l = i
     | .header h => Instr.clauseBoundary h = i
     | .event => True) := by
  cases i <;> first | rfl | trivial

end Sys2Proof
end

