-- ==== Sys2Proof/Tests/Slice0.lean ====
section
/-! SUPPORT. The model's own tests: words of the spec decoded, ill-formed terms refused, single steps with the results the spec
gives, and for each statement states and operands that meet its hypotheses. -/
namespace Sys2Proof.Tests
open Sys2Proof Sys2Proof.Machine
-- One declaration at a time: the kernel evaluates these tests, and many at once need too much memory.
set_option Elab.async false

/-! ## Small states -/

/-- A kernel descriptor with a trap entry at 0x1000 in native mode. -/
def kd0 : KDesc := { KDesc.zero with trap := 0x1001, blk := 16, accs := 8 }
/-- A thread in native code at word 1 of a clause of 5 at 0x400. -/
def th0 : Thread := { Thread.create kd0 0x401 .launch 0 with tix := 1, len := 5 }
/-- A thread with words in its registers. -/
def thr (l : List (Nat × Word)) : Thread := { th0 with g := FMap.setAll Val.zero [] (l.map (fun x => (x.1, ⟨x.2, false⟩))) }
/-- A warp of threads. -/
def warp0 (ts : List Thread) : Warp := Warp.new kd0 0 0 16 8 0xF ts 0
/-- A workgroup of one warp with 16 KiB of scratch on die 0, core 0, of device 1. -/
def group0 (ts : List Thread) : Group :=
  { Group.void with vdev := 1, alive := true, scrSize := 16384, scaleSize := 4096, warps := [warp0 ts] }
/-- The machine with that workgroup, all of its threads in the pack in issue. -/
def box (ts : List Thread) : State := { State.reset with groups := [group0 ts], pack := ⟨0, 0, List.range ts.length⟩ }
/-- What a step answers, as an option. -/
def out (o : Host.Outcome State Fault Refusal) : Option State :=
  match o with
  | .next s => some s
  | _ => none
/-- A register of thread `t` after an instruction. -/
def after (i : Instr) (s : State) (t r : Nat) : Option Val := (out (exec i s)).map (fun s => (s.thr 0 0 t).reg r)
/-- An instruction word's fields under the guard pt, without a flag. -/
def fw (d a b c : Byte) (m : BitVec 12) : Fields := ⟨7, d, a, b, c, m, false, false⟩
/-- A shape register with its words. -/
def shape (l : List (Nat × Word)) : Shape := ⟨FMap.setAll 0 [] l, false⟩
/-- An Except value as an option. -/
def okOf {α β : Type} (e : Except α β) : Option β :=
  match e with
  | .ok b => some b
  | .error _ => none
/-- Whether an Except value is a value with a property. -/
def okAll {α β : Type} (e : Except α β) (p : β → Bool) : Bool :=
  match e with
  | .ok b => p b
  | .error _ => false

/-! ## Decoding: one word of every instruction, its bits set by Tables 4-1, 4-7, 4-7a and 4-8 -/

theorem test_decode_native_int_1 :
    decodeNative 0x0010_2700_2B00_0400 = .ok (.mov ⟨0, 0x27, 0, 0x2B, 0, 0x400, false, false⟩)
    ∧ decodeNative 0x0029_2715_2B00_0000 = .ok (.movh ⟨9, 0x27, 0x15, 0x2B, 0, 0x000, false, false⟩)
    ∧ decodeNative 0x003E_2715_2B00_0101 = .ok (.add ⟨14, 0x27, 0x15, 0x2B, 0, 0x101, false, false⟩)
    ∧ decodeNative 0x0043_2715_2B00_0300 = .ok (.sub ⟨3, 0x27, 0x15, 0x2B, 0, 0x300, false, false⟩)
    ∧ decodeNative 0x0057_2715_2B00_003F = .ok (.addx ⟨7, 0x27, 0x15, 0x2B, 0, 0x03F, false, false⟩)
    ∧ decodeNative 0x0060_2715_2B00_0074 = .ok (.subx ⟨0, 0x27, 0x15, 0x2B, 0, 0x074, false, false⟩)
    ∧ decodeNative 0x0079_2715_2B00_0000 = .ok (.mul ⟨9, 0x27, 0x15, 0x2B, 0, 0x000, false, false⟩)
    ∧ decodeNative 0x008E_2715_2B00_0100 = .ok (.mulhi ⟨14, 0x27, 0x15, 0x2B, 0, 0x100, false, false⟩)
    ∧ decodeNative 0x0093_2715_2B0D_0000 = .ok (.mad ⟨3, 0x27, 0x15, 0x2B, 0x0D, 0x000, false, false⟩)
    ∧ decodeNative 0x00A7_2715_2B0D_0000 = .ok (.madhi ⟨7, 0x27, 0x15, 0x2B, 0x0D, 0x000, false, false⟩)
    ∧ decodeNative 0x00B0_2615_2B00_0100 = .ok (.mulw ⟨0, 0x26, 0x15, 0x2B, 0, 0x100, false, false⟩)
    ∧ decodeNative 0x00C9_2615_2B0E_0000 = .ok (.madw ⟨9, 0x26, 0x15, 0x2B, 0x0E, 0x000, false, false⟩)
    ∧ decodeNative 0x00DE_2715_2B00_0500 = .ok (.min ⟨14, 0x27, 0x15, 0x2B, 0, 0x500, false, false⟩)
    ∧ decodeNative 0x00E3_2715_2B00_0000 = .ok (.max ⟨3, 0x27, 0x15, 0x2B, 0, 0x000, false, false⟩)
    ∧ decodeNative 0x00F7_2700_2B00_0401 = .ok (.abs ⟨7, 0x27, 0, 0x2B, 0, 0x401, false, false⟩) :=
  ⟨rfl, rfl, rfl, rfl, rfl, rfl, rfl, rfl, rfl, rfl, rfl, rfl, rfl, rfl, rfl⟩
theorem test_decode_native_int_2 :
    decodeNative 0x0100_2715_2B00_0000 = .ok (.and ⟨0, 0x27, 0x15, 0x2B, 0, 0x000, false, false⟩)
    ∧ decodeNative 0x0119_2715_2B00_0000 = .ok (.or ⟨9, 0x27, 0x15, 0x2B, 0, 0x000, false, false⟩)
    ∧ decodeNative 0x012E_2715_2B00_0000 = .ok (.xor ⟨14, 0x27, 0x15, 0x2B, 0, 0x000, false, false⟩)
    ∧ decodeNative 0x0133_2715_2B00_0000 = .ok (.andn ⟨3, 0x27, 0x15, 0x2B, 0, 0x000, false, false⟩)
    ∧ decodeNative 0x0147_2715_2B0D_0096 = .ok (.lop3 ⟨7, 0x27, 0x15, 0x2B, 0x0D, 0x096, false, false⟩)
    ∧ decodeNative 0x0150_2715_2B00_0001 = .ok (.shl ⟨0, 0x27, 0x15, 0x2B, 0, 0x001, false, false⟩)
    ∧ decodeNative 0x0169_2715_2B00_0000 = .ok (.shr ⟨9, 0x27, 0x15, 0x2B, 0, 0x000, false, false⟩)
    ∧ decodeNative 0x017E_2715_2B00_0000 = .ok (.sar ⟨14, 0x27, 0x15, 0x2B, 0, 0x000, false, false⟩)
    ∧ decodeNative 0x0183_2715_2B00_0002 = .ok (.rot ⟨3, 0x27, 0x15, 0x2B, 0, 0x002, false, false⟩)
    ∧ decodeNative 0x0197_2715_2B0D_0003 = .ok (.fsh ⟨7, 0x27, 0x15, 0x2B, 0x0D, 0x003, false, false⟩)
    ∧ decodeNative 0x01A0_2715_2B00_0000 = .ok (.bfx ⟨0, 0x27, 0x15, 0x2B, 0, 0x000, false, false⟩)
    ∧ decodeNative 0x01B9_2715_2B0D_0000 = .ok (.bfi ⟨9, 0x27, 0x15, 0x2B, 0x0D, 0x000, false, false⟩)
    ∧ decodeNative 0x01CE_2700_2B00_0000 = .ok (.popc ⟨14, 0x27, 0, 0x2B, 0, 0x000, false, false⟩)
    ∧ decodeNative 0x01D3_2700_2B00_0000 = .ok (.clz ⟨3, 0x27, 0, 0x2B, 0, 0x000, false, false⟩)
    ∧ decodeNative 0x01E7_2700_2B00_0000 = .ok (.ctz ⟨7, 0x27, 0, 0x2B, 0, 0x000, false, false⟩) :=
  ⟨rfl, rfl, rfl, rfl, rfl, rfl, rfl, rfl, rfl, rfl, rfl, rfl, rfl, rfl, rfl⟩
theorem test_decode_native_int_3 :
    decodeNative 0x01F0_2700_2B00_0000 = .ok (.brev ⟨0, 0x27, 0, 0x2B, 0, 0x000, false, false⟩)
    ∧ decodeNative 0x0209_2715_2B0D_0005 = .ok (.bperm ⟨9, 0x27, 0x15, 0x2B, 0x0D, 0x005, false, false⟩)
    ∧ decodeNative 0x021E_2715_2B00_000B = .ok (.sel ⟨14, 0x27, 0x15, 0x2B, 0, 0x00B, false, false⟩)
    ∧ decodeNative 0x0223_0515_2B00_010A = .ok (.cmp ⟨3, 5, 0x15, 0x2B, 0, 0x10A, false, false⟩)
    ∧ decodeNative 0x0237_2715_2B00_0002 = .ok (.lea ⟨7, 0x27, 0x15, 0x2B, 0, 0x002, false, false⟩)
    ∧ decodeNative 0x0240_2715_2B0D_0500 = .ok (.sad ⟨0, 0x27, 0x15, 0x2B, 0x0D, 0x500, false, false⟩)
    ∧ decodeNative 0x0259_2715_2B0D_0007 = .ok (.dot4 ⟨9, 0x27, 0x15, 0x2B, 0x0D, 0x007, false, false⟩)
    ∧ decodeNative 0x026E_2715_2B0D_0002 = .ok (.dot2 ⟨14, 0x27, 0x15, 0x2B, 0x0D, 0x002, false, false⟩)
    ∧ decodeNative 0x0273_2715_2B00_0201 = .ok (.vadd2 ⟨3, 0x27, 0x15, 0x2B, 0, 0x201, false, false⟩)
    ∧ decodeNative 0x0287_2715_2B00_0301 = .ok (.vsub2 ⟨7, 0x27, 0x15, 0x2B, 0, 0x301, false, false⟩)
    ∧ decodeNative 0x0290_2715_2B00_0200 = .ok (.vmax2 ⟨0, 0x27, 0x15, 0x2B, 0, 0x200, false, false⟩)
    ∧ decodeNative 0x02A9_2715_2B00_0300 = .ok (.vmin2 ⟨9, 0x27, 0x15, 0x2B, 0, 0x300, false, false⟩)
    ∧ decodeNative 0x02BE_0502_0304_00E8 = .ok (.plop ⟨14, 5, 2, 3, 4, 0x0E8, false, false⟩)
    ∧ decodeNative 0x02C3_2700_0000_0000 = .ok (.pmov ⟨3, 0x27, 0, 0, 0, 0x000, false, false⟩) :=
  ⟨rfl, rfl, rfl, rfl, rfl, rfl, rfl, rfl, rfl, rfl, rfl, rfl, rfl, rfl⟩
theorem test_decode_prerin_int_1 :
    decodePrerin [0xFFD4_0000, 0x0067_02B0] = .ok (.movPrerin ⟨false, true, ⟨0, 0x27, 0, 0x2B, 0, 0x400, false, false⟩, 0⟩, 2)
    ∧ decodePrerin [0x00A7_56B9] = .ok (.movhPrerin ⟨false, false, ⟨9, 0x27, 0x15, 0x2B, 0, 0x000, false, false⟩, 0⟩, 1)
    ∧ decodePrerin [0xFFC4_0000, 0xFFD1_0100, 0x00E7_56BE] = .ok (.addPrerin ⟨true, true, ⟨14, 0x67, 0x15, 0x2B, 0, 0x101, false, false⟩, 0⟩, 3)
    ∧ decodePrerin [0xFFD3_0000, 0x0127_56B3] = .ok (.subPrerin ⟨false, true, ⟨3, 0x27, 0x15, 0x2B, 0, 0x300, false, false⟩, 0⟩, 2)
    ∧ decodePrerin [0xFFD0_3F00, 0x0167_56B7] = .ok (.addxPrerin ⟨false, true, ⟨7, 0x27, 0x15, 0x2B, 0, 0x03F, false, false⟩, 0⟩, 2)
    ∧ decodePrerin [0xFFD0_7400, 0x01A7_56B0] = .ok (.subxPrerin ⟨false, true, ⟨0, 0x27, 0x15, 0x2B, 0, 0x074, false, false⟩, 0⟩, 2)
    ∧ decodePrerin [0x01E7_56B9] = .ok (.mulPrerin ⟨false, false, ⟨9, 0x27, 0x15, 0x2B, 0, 0x000, false, false⟩, 0⟩, 1)
    ∧ decodePrerin [0xFFD1_0000, 0x0227_56BE] = .ok (.mulhiPrerin ⟨false, true, ⟨14, 0x27, 0x15, 0x2B, 0, 0x100, false, false⟩, 0⟩, 2)
    ∧ decodePrerin [0xFFC0_0340, 0x0267_56B3] = .ok (.madPrerin ⟨true, false, ⟨3, 0x27, 0x15, 0x2B, 0x0D, 0x000, false, false⟩, 0⟩, 2)
    ∧ decodePrerin [0xFFC4_0340, 0x02A7_56B7] = .ok (.madhiPrerin ⟨true, false, ⟨7, 0x67, 0x15, 0x2B, 0x0D, 0x000, false, false⟩, 0⟩, 2)
    ∧ decodePrerin [0xFFD1_0000, 0x02E6_56B0] = .ok (.mulwPrerin ⟨false, true, ⟨0, 0x26, 0x15, 0x2B, 0, 0x100, false, false⟩, 0⟩, 2)
    ∧ decodePrerin [0xFFC0_0380, 0x0326_56B9] = .ok (.madwPrerin ⟨true, false, ⟨9, 0x26, 0x15, 0x2B, 0x0E, 0x000, false, false⟩, 0⟩, 2)
    ∧ decodePrerin [0xFFD5_0000, 0x0367_56BE] = .ok (.minPrerin ⟨false, true, ⟨14, 0x27, 0x15, 0x2B, 0, 0x500, false, false⟩, 0⟩, 2)
    ∧ decodePrerin [0x03A7_56B3] = .ok (.maxPrerin ⟨false, false, ⟨3, 0x27, 0x15, 0x2B, 0, 0x000, false, false⟩, 0⟩, 1)
    ∧ decodePrerin [0xFFD4_0100, 0x03E7_02B7] = .ok (.absPrerin ⟨false, true, ⟨7, 0x27, 0, 0x2B, 0, 0x401, false, false⟩, 0⟩, 2) :=
  ⟨rfl, rfl, rfl, rfl, rfl, rfl, rfl, rfl, rfl, rfl, rfl, rfl, rfl, rfl, rfl⟩
theorem test_decode_prerin_int_2 :
    decodePrerin [0x0427_56B0] = .ok (.andPrerin ⟨false, false, ⟨0, 0x27, 0x15, 0x2B, 0, 0x000, false, false⟩, 0⟩, 1)
    ∧ decodePrerin [0xFFC4_0000, 0x0467_56B9] = .ok (.orPrerin ⟨true, false, ⟨9, 0x67, 0x15, 0x2B, 0, 0x000, false, false⟩, 0⟩, 2)
    ∧ decodePrerin [0x04A7_56BE] = .ok (.xorPrerin ⟨false, false, ⟨14, 0x27, 0x15, 0x2B, 0, 0x000, false, false⟩, 0⟩, 1)
    ∧ decodePrerin [0x04E7_56B3] = .ok (.andnPrerin ⟨false, false, ⟨3, 0x27, 0x15, 0x2B, 0, 0x000, false, false⟩, 0⟩, 1)
    ∧ decodePrerin [0xFFC0_0340, 0xFFD0_9600, 0x0527_56B7] = .ok (.lop3Prerin ⟨true, true, ⟨7, 0x27, 0x15, 0x2B, 0x0D, 0x096, false, false⟩, 0⟩, 3)
    ∧ decodePrerin [0xFFD0_0100, 0x0567_56B0] = .ok (.shlPrerin ⟨false, true, ⟨0, 0x27, 0x15, 0x2B, 0, 0x001, false, false⟩, 0⟩, 2)
    ∧ decodePrerin [0x05A7_56B9] = .ok (.shrPrerin ⟨false, false, ⟨9, 0x27, 0x15, 0x2B, 0, 0x000, false, false⟩, 0⟩, 1)
    ∧ decodePrerin [0x05E7_56BE] = .ok (.sarPrerin ⟨false, false, ⟨14, 0x27, 0x15, 0x2B, 0, 0x000, false, false⟩, 0⟩, 1)
    ∧ decodePrerin [0xFFC4_0000, 0xFFD0_0200, 0x0627_56B3] = .ok (.rotPrerin ⟨true, true, ⟨3, 0x67, 0x15, 0x2B, 0, 0x002, false, false⟩, 0⟩, 3)
    ∧ decodePrerin [0xFFC0_0340, 0xFFD0_0300, 0x0667_56B7] = .ok (.fshPrerin ⟨true, true, ⟨7, 0x27, 0x15, 0x2B, 0x0D, 0x003, false, false⟩, 0⟩, 3)
    ∧ decodePrerin [0x06A7_56B0] = .ok (.bfxPrerin ⟨false, false, ⟨0, 0x27, 0x15, 0x2B, 0, 0x000, false, false⟩, 0⟩, 1)
    ∧ decodePrerin [0xFFC0_0340, 0x06E7_56B9] = .ok (.bfiPrerin ⟨true, false, ⟨9, 0x27, 0x15, 0x2B, 0x0D, 0x000, false, false⟩, 0⟩, 2)
    ∧ decodePrerin [0x0727_02BE] = .ok (.popcPrerin ⟨false, false, ⟨14, 0x27, 0, 0x2B, 0, 0x000, false, false⟩, 0⟩, 1)
    ∧ decodePrerin [0x0767_02B3] = .ok (.clzPrerin ⟨false, false, ⟨3, 0x27, 0, 0x2B, 0, 0x000, false, false⟩, 0⟩, 1)
    ∧ decodePrerin [0x07A7_02B7] = .ok (.ctzPrerin ⟨false, false, ⟨7, 0x27, 0, 0x2B, 0, 0x000, false, false⟩, 0⟩, 1) :=
  ⟨rfl, rfl, rfl, rfl, rfl, rfl, rfl, rfl, rfl, rfl, rfl, rfl, rfl, rfl, rfl⟩
theorem test_decode_prerin_int_3 :
    decodePrerin [0xFFC4_0000, 0x07E7_02B0] = .ok (.brevPrerin ⟨true, false, ⟨0, 0x67, 0, 0x2B, 0, 0x000, false, false⟩, 0⟩, 2)
    ∧ decodePrerin [0xFFC0_0340, 0xFFD0_0500, 0x0827_56B9] = .ok (.bpermPrerin ⟨true, true, ⟨9, 0x27, 0x15, 0x2B, 0x0D, 0x005, false, false⟩, 0⟩, 3)
    ∧ decodePrerin [0xFFD0_0B00, 0x0867_56BE] = .ok (.selPrerin ⟨false, true, ⟨14, 0x27, 0x15, 0x2B, 0, 0x00B, false, false⟩, 0⟩, 2)
    ∧ decodePrerin [0xFFD1_0A00, 0x0885_56B3] = .ok (.cmpPrerin ⟨false, true, ⟨3, 5, 0x15, 0x2B, 0, 0x10A, false, false⟩, 0⟩, 2)
    ∧ decodePrerin [0xFFD0_0200, 0x08E7_56B7] = .ok (.leaPrerin ⟨false, true, ⟨7, 0x27, 0x15, 0x2B, 0, 0x002, false, false⟩, 0⟩, 2)
    ∧ decodePrerin [0xFFC0_0340, 0xFFD5_0000, 0x0927_56B0] = .ok (.sadPrerin ⟨true, true, ⟨0, 0x27, 0x15, 0x2B, 0x0D, 0x500, false, false⟩, 0⟩, 3)
    ∧ decodePrerin [0xFFC0_0340, 0xFFD0_0700, 0x0967_56B9] = .ok (.dot4Prerin ⟨true, true, ⟨9, 0x27, 0x15, 0x2B, 0x0D, 0x007, false, false⟩, 0⟩, 3)
    ∧ decodePrerin [0xFFC4_0340, 0xFFD0_0200, 0x09A7_56BE] = .ok (.dot2Prerin ⟨true, true, ⟨14, 0x67, 0x15, 0x2B, 0x0D, 0x002, false, false⟩, 0⟩, 3)
    ∧ decodePrerin [0xFFD2_0100, 0x09E7_56B3] = .ok (.vadd2Prerin ⟨false, true, ⟨3, 0x27, 0x15, 0x2B, 0, 0x201, false, false⟩, 0⟩, 2)
    ∧ decodePrerin [0xFFD3_0100, 0x0A27_56B7] = .ok (.vsub2Prerin ⟨false, true, ⟨7, 0x27, 0x15, 0x2B, 0, 0x301, false, false⟩, 0⟩, 2)
    ∧ decodePrerin [0xFFD2_0000, 0x0A67_56B0] = .ok (.vmax2Prerin ⟨false, true, ⟨0, 0x27, 0x15, 0x2B, 0, 0x200, false, false⟩, 0⟩, 2)
    ∧ decodePrerin [0xFFD3_0000, 0x0AA7_56B9] = .ok (.vmin2Prerin ⟨false, true, ⟨9, 0x27, 0x15, 0x2B, 0, 0x300, false, false⟩, 0⟩, 2)
    ∧ decodePrerin [0xFFC0_0100, 0xFFD0_E800, 0x0AC5_083E] = .ok (.plopPrerin ⟨true, true, ⟨14, 5, 2, 3, 4, 0x0E8, false, false⟩, 0⟩, 3)
    ∧ decodePrerin [0x0B27_0003] = .ok (.pmovPrerin ⟨false, false, ⟨3, 0x27, 0, 0, 0, 0x000, false, false⟩, 0⟩, 1) :=
  ⟨rfl, rfl, rfl, rfl, rfl, rfl, rfl, rfl, rfl, rfl, rfl, rfl, rfl, rfl⟩
theorem test_decode_native_float_1 :
    decodeNative 0x0407_2715_2B00_0201 = .ok (.fadd ⟨7, 0x27, 0x15, 0x2B, 0, 0x201, false, false⟩)
    ∧ decodeNative 0x0410_2715_2B00_0300 = .ok (.fsub ⟨0, 0x27, 0x15, 0x2B, 0, 0x300, false, false⟩)
    ∧ decodeNative 0x0429_2715_2B00_0101 = .ok (.fmul ⟨9, 0x27, 0x15, 0x2B, 0, 0x101, false, false⟩)
    ∧ decodeNative 0x043E_2715_2B0D_0307 = .ok (.ffma ⟨14, 0x27, 0x15, 0x2B, 0x0D, 0x307, false, false⟩)
    ∧ decodeNative 0x0443_2715_2B00_0000 = .ok (.fmin ⟨3, 0x27, 0x15, 0x2B, 0, 0x000, false, false⟩)
    ∧ decodeNative 0x0457_2715_2B00_0000 = .ok (.fmax ⟨7, 0x27, 0x15, 0x2B, 0, 0x000, false, false⟩)
    ∧ decodeNative 0x0460_0515_2B00_001B = .ok (.fcmp ⟨0, 5, 0x15, 0x2B, 0, 0x01B, false, false⟩)
    ∧ decodeNative 0x0479_2715_2B0D_0000 = .ok (.fclamp ⟨9, 0x27, 0x15, 0x2B, 0x0D, 0x000, false, false⟩)
    ∧ decodeNative 0x048E_2700_2B00_0100 = .ok (.frnd ⟨14, 0x27, 0, 0x2B, 0, 0x100, false, false⟩)
    ∧ decodeNative 0x0493_2715_2B00_0002 = .ok (.hadd2 ⟨3, 0x27, 0x15, 0x2B, 0, 0x002, false, false⟩)
    ∧ decodeNative 0x04A7_2715_2B00_0003 = .ok (.hmul2 ⟨7, 0x27, 0x15, 0x2B, 0, 0x003, false, false⟩)
    ∧ decodeNative 0x04B0_2715_2B0D_0101 = .ok (.hfma2 ⟨0, 0x27, 0x15, 0x2B, 0x0D, 0x101, false, false⟩)
    ∧ decodeNative 0x04C9_2715_2B00_0001 = .ok (.hmin2 ⟨9, 0x27, 0x15, 0x2B, 0, 0x001, false, false⟩)
    ∧ decodeNative 0x04DE_2715_2B00_0000 = .ok (.hmax2 ⟨14, 0x27, 0x15, 0x2B, 0, 0x000, false, false⟩)
    ∧ decodeNative 0x04E3_2715_2B00_000B = .ok (.hcmp2 ⟨3, 0x27, 0x15, 0x2B, 0, 0x00B, false, false⟩) :=
  ⟨rfl, rfl, rfl, rfl, rfl, rfl, rfl, rfl, rfl, rfl, rfl, rfl, rfl, rfl, rfl⟩
theorem test_decode_native_float_2 :
    decodeNative 0x04F7_2715_2B0D_0301 = .ok (.fdot2 ⟨7, 0x27, 0x15, 0x2B, 0x0D, 0x301, false, false⟩) :=
  rfl
theorem test_decode_prerin_float_1 :
    decodePrerin [0xFFC4_0000, 0xFFD2_0100, 0x1027_56B7] = .ok (.faddPrerin ⟨true, true, ⟨7, 0x67, 0x15, 0x2B, 0, 0x201, false, false⟩, 0⟩, 3)
    ∧ decodePrerin [0xFFD3_0000, 0x1067_56B0] = .ok (.fsubPrerin ⟨false, true, ⟨0, 0x27, 0x15, 0x2B, 0, 0x300, false, false⟩, 0⟩, 2)
    ∧ decodePrerin [0xFFD1_0100, 0x10A7_56B9] = .ok (.fmulPrerin ⟨false, true, ⟨9, 0x27, 0x15, 0x2B, 0, 0x101, false, false⟩, 0⟩, 2)
    ∧ decodePrerin [0xFFC0_0340, 0xFFD3_0700, 0x10E7_56BE] = .ok (.ffmaPrerin ⟨true, true, ⟨14, 0x27, 0x15, 0x2B, 0x0D, 0x307, false, false⟩, 0⟩, 3)
    ∧ decodePrerin [0x1127_56B3] = .ok (.fminPrerin ⟨false, false, ⟨3, 0x27, 0x15, 0x2B, 0, 0x000, false, false⟩, 0⟩, 1)
    ∧ decodePrerin [0x1167_56B7] = .ok (.fmaxPrerin ⟨false, false, ⟨7, 0x27, 0x15, 0x2B, 0, 0x000, false, false⟩, 0⟩, 1)
    ∧ decodePrerin [0xFFD0_1B00, 0x1185_56B0] = .ok (.fcmpPrerin ⟨false, true, ⟨0, 5, 0x15, 0x2B, 0, 0x01B, false, false⟩, 0⟩, 2)
    ∧ decodePrerin [0xFFC4_0340, 0x11E7_56B9] = .ok (.fclampPrerin ⟨true, false, ⟨9, 0x67, 0x15, 0x2B, 0x0D, 0x000, false, false⟩, 0⟩, 2)
    ∧ decodePrerin [0xFFD1_0000, 0x1227_02BE] = .ok (.frndPrerin ⟨false, true, ⟨14, 0x27, 0, 0x2B, 0, 0x100, false, false⟩, 0⟩, 2)
    ∧ decodePrerin [0xFFD0_0200, 0x1267_56B3] = .ok (.hadd2Prerin ⟨false, true, ⟨3, 0x27, 0x15, 0x2B, 0, 0x002, false, false⟩, 0⟩, 2)
    ∧ decodePrerin [0xFFD0_0300, 0x12A7_56B7] = .ok (.hmul2Prerin ⟨false, true, ⟨7, 0x27, 0x15, 0x2B, 0, 0x003, false, false⟩, 0⟩, 2)
    ∧ decodePrerin [0xFFC0_0340, 0xFFD1_0100, 0x12E7_56B0] = .ok (.hfma2Prerin ⟨true, true, ⟨0, 0x27, 0x15, 0x2B, 0x0D, 0x101, false, false⟩, 0⟩, 3)
    ∧ decodePrerin [0xFFD0_0100, 0x1327_56B9] = .ok (.hmin2Prerin ⟨false, true, ⟨9, 0x27, 0x15, 0x2B, 0, 0x001, false, false⟩, 0⟩, 2)
    ∧ decodePrerin [0x1367_56BE] = .ok (.hmax2Prerin ⟨false, false, ⟨14, 0x27, 0x15, 0x2B, 0, 0x000, false, false⟩, 0⟩, 1)
    ∧ decodePrerin [0xFFC4_0000, 0xFFD0_0B00, 0x13A7_56B3] = .ok (.hcmp2Prerin ⟨true, true, ⟨3, 0x67, 0x15, 0x2B, 0, 0x00B, false, false⟩, 0⟩, 3) :=
  ⟨rfl, rfl, rfl, rfl, rfl, rfl, rfl, rfl, rfl, rfl, rfl, rfl, rfl, rfl, rfl⟩
theorem test_decode_prerin_float_2 :
    decodePrerin [0xFFC0_0340, 0xFFD3_0100, 0x13E7_56B7] = .ok (.fdot2Prerin ⟨true, true, ⟨7, 0x27, 0x15, 0x2B, 0x0D, 0x301, false, false⟩, 0⟩, 3) :=
  rfl
theorem test_decode_native_convert_1 :
    decodeNative 0x0800_2700_2B02_0310 = .ok (.cvt ⟨0, 0x27, 0, 0x2B, 2, 0x310, false, false⟩)
    ∧ decodeNative 0x0819_2715_2B0D_0021 = .ok (.cvtpk ⟨9, 0x27, 0x15, 0x2B, 0x0D, 0x021, false, false⟩)
    ∧ decodeNative 0x082E_2600_2B00_0013 = .ok (.unpk ⟨14, 0x26, 0, 0x2B, 0, 0x013, false, false⟩)
    ∧ decodeNative 0x0833_2715_2B0D_0005 = .ok (.q4enc ⟨3, 0x27, 0x15, 0x2B, 0x0D, 0x005, false, false⟩)
    ∧ decodeNative 0x0847_2715_2B00_0103 = .ok (.q4dec ⟨7, 0x27, 0x15, 0x2B, 0, 0x103, false, false⟩)
    ∧ decodeNative 0x0850_2700_2B00_0200 = .ok (.frcp ⟨0, 0x27, 0, 0x2B, 0, 0x200, false, false⟩)
    ∧ decodeNative 0x0869_2700_2B00_0000 = .ok (.frsq ⟨9, 0x27, 0, 0x2B, 0, 0x000, false, false⟩)
    ∧ decodeNative 0x087E_2700_2B00_0100 = .ok (.fsqrt ⟨14, 0x27, 0, 0x2B, 0, 0x100, false, false⟩)
    ∧ decodeNative 0x0883_2700_2B00_0000 = .ok (.fex2 ⟨3, 0x27, 0, 0x2B, 0, 0x000, false, false⟩)
    ∧ decodeNative 0x0897_2700_2B00_0000 = .ok (.flg2 ⟨7, 0x27, 0, 0x2B, 0, 0x000, false, false⟩)
    ∧ decodeNative 0x08A0_2700_2B00_0000 = .ok (.fsin ⟨0, 0x27, 0, 0x2B, 0, 0x000, false, false⟩)
    ∧ decodeNative 0x08B9_2700_2B00_0000 = .ok (.fcos ⟨9, 0x27, 0, 0x2B, 0, 0x000, false, false⟩)
    ∧ decodeNative 0x08CE_2700_2B00_0000 = .ok (.ftanh ⟨14, 0x27, 0, 0x2B, 0, 0x000, false, false⟩)
    ∧ decodeNative 0x08D3_2700_2B00_0000 = .ok (.fact ⟨3, 0x27, 0, 0x2B, 0, 0x000, false, false⟩)
    ∧ decodeNative 0x08E7_0015_0010_0801 = .ok (.atld ⟨7, 0, 0x15, 0, 0x10, 0x801, false, false⟩) :=
  ⟨rfl, rfl, rfl, rfl, rfl, rfl, rfl, rfl, rfl, rfl, rfl, rfl, rfl, rfl, rfl⟩
theorem test_decode_native_convert_2 :
    decodeNative 0x08F0_0000_0000_0002 = .ok (.atsel ⟨0, 0, 0, 0, 0, 0x002, false, false⟩) :=
  rfl
theorem test_decode_prerin_convert_1 :
    decodePrerin [0xFFC0_0080, 0xFFD3_1000, 0x2027_02B0] = .ok (.cvtPrerin ⟨true, true, ⟨0, 0x27, 0, 0x2B, 2, 0x310, false, false⟩, 0⟩, 3)
    ∧ decodePrerin [0xFFC0_0340, 0xFFD0_2100, 0x2067_56B9] = .ok (.cvtpkPrerin ⟨true, true, ⟨9, 0x27, 0x15, 0x2B, 0x0D, 0x021, false, false⟩, 0⟩, 3)
    ∧ decodePrerin [0xFFD0_1300, 0x20A6_02BE] = .ok (.unpkPrerin ⟨false, true, ⟨14, 0x26, 0, 0x2B, 0, 0x013, false, false⟩, 0⟩, 2)
    ∧ decodePrerin [0xFFC0_0340, 0xFFD0_0500, 0x20E7_56B3] = .ok (.q4encPrerin ⟨true, true, ⟨3, 0x27, 0x15, 0x2B, 0x0D, 0x005, false, false⟩, 0⟩, 3)
    ∧ decodePrerin [0xFFD1_0300, 0x2127_56B7] = .ok (.q4decPrerin ⟨false, true, ⟨7, 0x27, 0x15, 0x2B, 0, 0x103, false, false⟩, 0⟩, 2)
    ∧ decodePrerin [0xFFC4_0000, 0xFFD2_0000, 0x2167_02B0] = .ok (.frcpPrerin ⟨true, true, ⟨0, 0x67, 0, 0x2B, 0, 0x200, false, false⟩, 0⟩, 3)
    ∧ decodePrerin [0x21A7_02B9] = .ok (.frsqPrerin ⟨false, false, ⟨9, 0x27, 0, 0x2B, 0, 0x000, false, false⟩, 0⟩, 1)
    ∧ decodePrerin [0xFFD1_0000, 0x21E7_02BE] = .ok (.fsqrtPrerin ⟨false, true, ⟨14, 0x27, 0, 0x2B, 0, 0x100, false, false⟩, 0⟩, 2)
    ∧ decodePrerin [0x2227_02B3] = .ok (.fex2Prerin ⟨false, false, ⟨3, 0x27, 0, 0x2B, 0, 0x000, false, false⟩, 0⟩, 1)
    ∧ decodePrerin [0x2267_02B7] = .ok (.flg2Prerin ⟨false, false, ⟨7, 0x27, 0, 0x2B, 0, 0x000, false, false⟩, 0⟩, 1)
    ∧ decodePrerin [0x22A7_02B0] = .ok (.fsinPrerin ⟨false, false, ⟨0, 0x27, 0, 0x2B, 0, 0x000, false, false⟩, 0⟩, 1)
    ∧ decodePrerin [0x22E7_02B9] = .ok (.fcosPrerin ⟨false, false, ⟨9, 0x27, 0, 0x2B, 0, 0x000, false, false⟩, 0⟩, 1)
    ∧ decodePrerin [0xFFC4_0000, 0x2327_02BE] = .ok (.ftanhPrerin ⟨true, false, ⟨14, 0x67, 0, 0x2B, 0, 0x000, false, false⟩, 0⟩, 2)
    ∧ decodePrerin [0x2367_02B3] = .ok (.factPrerin ⟨false, false, ⟨3, 0x27, 0, 0x2B, 0, 0x000, false, false⟩, 0⟩, 1)
    ∧ decodePrerin [0xFFD0_0100, 0xFFE0_0010, 0x2380_5407] = .ok (.atldPrerin ⟨false, true, ⟨7, 0, 0x15, 0, 0x10, 0x801, false, false⟩, 0⟩, 3) :=
  ⟨rfl, rfl, rfl, rfl, rfl, rfl, rfl, rfl, rfl, rfl, rfl, rfl, rfl, rfl, rfl⟩
theorem test_decode_prerin_convert_2 :
    decodePrerin [0xFFD0_0200, 0x23C0_0000] = .ok (.atselPrerin ⟨false, true, ⟨0, 0, 0, 0, 0, 0x002, false, false⟩, 0⟩, 2) :=
  rfl
theorem test_decode_native_lane :
    decodeNative 0x0C09_2715_2B06_0002 = .ok (.shfl ⟨9, 0x27, 0x15, 0x2B, 6, 0x002, false, false⟩)
    ∧ decodeNative 0x0C1E_0502_0000_0001 = .ok (.vote ⟨14, 5, 2, 0, 0, 0x001, false, false⟩)
    ∧ decodeNative 0x0C23_2715_0000_0001 = .ok (.matchk ⟨3, 0x27, 0x15, 0, 0, 0x001, false, false⟩)
    ∧ decodeNative 0x0C37_2715_0000_0105 = .ok (.redux ⟨7, 0x27, 0x15, 0, 0, 0x105, false, false⟩)
    ∧ decodeNative 0x0C40_2615_0000_0100 = .ok (.redix ⟨0, 0x26, 0x15, 0, 0, 0x100, false, false⟩)
    ∧ decodeNative 0x0C59_2715_0000_0018 = .ok (.scan ⟨9, 0x27, 0x15, 0, 0, 0x018, false, false⟩)
    ∧ decodeNative 0x0C6E_0000_0010_0800 = .ok (.setpart ⟨14, 0, 0, 0, 0x10, 0x800, false, false⟩)
    ∧ decodeNative 0x0C73_2700_0000_0001 = .ok (.actv ⟨3, 0x27, 0, 0, 0, 0x001, false, false⟩) :=
  ⟨rfl, rfl, rfl, rfl, rfl, rfl, rfl, rfl⟩
theorem test_decode_prerin_lane :
    decodePrerin [0xFFC0_0180, 0xFFD0_0200, 0x3027_56B9] = .ok (.shflPrerin ⟨true, true, ⟨9, 0x27, 0x15, 0x2B, 6, 0x002, false, false⟩, 0⟩, 3)
    ∧ decodePrerin [0xFFD0_0100, 0x3045_080E] = .ok (.votePrerin ⟨false, true, ⟨14, 5, 2, 0, 0, 0x001, false, false⟩, 0⟩, 2)
    ∧ decodePrerin [0xFFD0_0100, 0x30A7_5403] = .ok (.matchkPrerin ⟨false, true, ⟨3, 0x27, 0x15, 0, 0, 0x001, false, false⟩, 0⟩, 2)
    ∧ decodePrerin [0xFFC4_0000, 0xFFD1_0500, 0x30E7_5407] = .ok (.reduxPrerin ⟨true, true, ⟨7, 0x67, 0x15, 0, 0, 0x105, false, false⟩, 0⟩, 3)
    ∧ decodePrerin [0xFFD1_0000, 0x3126_5400] = .ok (.redixPrerin ⟨false, true, ⟨0, 0x26, 0x15, 0, 0, 0x100, false, false⟩, 0⟩, 2)
    ∧ decodePrerin [0xFFD0_1800, 0x3167_5409] = .ok (.scanPrerin ⟨false, true, ⟨9, 0x27, 0x15, 0, 0, 0x018, false, false⟩, 0⟩, 2)
    ∧ decodePrerin [0xFFE0_0010, 0x3180_000E] = .ok (.setpartPrerin ⟨false, false, ⟨14, 0, 0, 0, 0x10, 0x800, false, false⟩, 0⟩, 2)
    ∧ decodePrerin [0xFFD0_0100, 0x31E7_0003] = .ok (.actvPrerin ⟨false, true, ⟨3, 0x27, 0, 0, 0, 0x001, false, false⟩, 0⟩, 2) :=
  ⟨rfl, rfl, rfl, rfl, rfl, rfl, rfl, rfl⟩
theorem test_decode_native_scratch :
    decodeNative 0x1007_2815_2B00_0048 = .ok (.lds ⟨7, 0x28, 0x15, 0x2B, 0, 0x048, false, false⟩)
    ∧ decodeNative 0x1010_2815_2B00_80A9 = .ok (.sts ⟨0, 0x28, 0x15, 0x2B, 0, 0x0A9, true, false⟩)
    ∧ decodeNative 0x1029_2715_2B00_0003 = .ok (.ldsa ⟨9, 0x27, 0x15, 0x2B, 0, 0x003, false, false⟩)
    ∧ decodeNative 0x103E_2715_2B00_8002 = .ok (.stsr ⟨14, 0x27, 0x15, 0x2B, 0, 0x002, true, false⟩)
    ∧ decodeNative 0x1043_2715_2B00_00CB = .ok (.atms ⟨3, 0x27, 0x15, 0x2B, 0, 0x0CB, false, false⟩)
    ∧ decodeNative 0x1057_2715_0010_8D00 = .ok (.ldw ⟨7, 0x27, 0x15, 0, 0x10, 0xD00, true, false⟩)
    ∧ decodeNative 0x1060_0000_0000_00E8 = .ok (.fence ⟨0, 0, 0, 0, 0, 0x0E8, false, false⟩)
    ∧ decodeNative 0x1079_0000_0000_0013 = .ok (.bar ⟨9, 0, 0, 0, 0, 0x013, false, false⟩)
    ∧ decodeNative 0x108E_0015_2B00_0000 = .ok (.xbarInit ⟨14, 0, 0x15, 0x2B, 0, 0x000, false, false⟩)
    ∧ decodeNative 0x1083_0015_2B00_0001 = .ok (.xbarArrive ⟨3, 0, 0x15, 0x2B, 0, 0x001, false, false⟩)
    ∧ decodeNative 0x1087_0015_0000_0002 = .ok (.xbarWait ⟨7, 0, 0x15, 0, 0, 0x002, false, false⟩)
    ∧ decodeNative 0x1080_0015_0000_0003 = .ok (.xbarInval ⟨0, 0, 0x15, 0, 0, 0x003, false, false⟩) :=
  ⟨rfl, rfl, rfl, rfl, rfl, rfl, rfl, rfl, rfl, rfl, rfl, rfl⟩
theorem test_decode_prerin_scratch :
    decodePrerin [0xFFD0_4800, 0x4028_56B7] = .ok (.ldsPrerin ⟨false, true, ⟨7, 0x28, 0x15, 0x2B, 0, 0x048, false, false⟩, 0⟩, 2)
    ∧ decodePrerin [0xFFD0_A990, 0x4068_56B0] = .ok (.stsPrerin ⟨false, true, ⟨0, 0x28, 0x15, 0x2B, 0, 0x0A9, true, false⟩, 2⟩, 2)
    ∧ decodePrerin [0xFFC4_0000, 0xFFD0_0300, 0x40A7_56B9] = .ok (.ldsaPrerin ⟨true, true, ⟨9, 0x67, 0x15, 0x2B, 0, 0x003, false, false⟩, 0⟩, 3)
    ∧ decodePrerin [0xFFD0_02A0, 0x40E7_56BE] = .ok (.stsrPrerin ⟨false, true, ⟨14, 0x27, 0x15, 0x2B, 0, 0x002, true, false⟩, 4⟩, 2)
    ∧ decodePrerin [0xFFD0_CB00, 0x4127_56B3] = .ok (.atmsPrerin ⟨false, true, ⟨3, 0x27, 0x15, 0x2B, 0, 0x0CB, false, false⟩, 0⟩, 2)
    ∧ decodePrerin [0xFFD5_00B0, 0xFFE0_0010, 0x4167_5407] = .ok (.ldwPrerin ⟨false, true, ⟨7, 0x27, 0x15, 0, 0x10, 0xD00, true, false⟩, 6⟩, 3)
    ∧ decodePrerin [0xFFD0_E800, 0x4180_0000] = .ok (.fencePrerin ⟨false, true, ⟨0, 0, 0, 0, 0, 0x0E8, false, false⟩, 0⟩, 2)
    ∧ decodePrerin [0xFFD0_1300, 0x41C0_0009] = .ok (.barPrerin ⟨false, true, ⟨9, 0, 0, 0, 0, 0x013, false, false⟩, 0⟩, 2)
    ∧ decodePrerin [0x4200_56BE] = .ok (.xbarInitPrerin ⟨false, false, ⟨14, 0, 0x15, 0x2B, 0, 0x000, false, false⟩, 0⟩, 1)
    ∧ decodePrerin [0xFFD0_0100, 0x4200_56B3] = .ok (.xbarArrivePrerin ⟨false, true, ⟨3, 0, 0x15, 0x2B, 0, 0x001, false, false⟩, 0⟩, 2)
    ∧ decodePrerin [0xFFD0_0200, 0x4200_5407] = .ok (.xbarWaitPrerin ⟨false, true, ⟨7, 0, 0x15, 0, 0, 0x002, false, false⟩, 0⟩, 2)
    ∧ decodePrerin [0xFFD0_0300, 0x4200_5400] = .ok (.xbarInvalPrerin ⟨false, true, ⟨0, 0, 0x15, 0, 0, 0x003, false, false⟩, 0⟩, 2) :=
  ⟨rfl, rfl, rfl, rfl, rfl, rfl, rfl, rfl, rfl, rfl, rfl, rfl⟩
theorem test_decode_native_copy :
    decodeNative 0x1809_090A_FF00_0003 = .ok (.cpy ⟨9, 9, 0x0A, 0xFF, 0, 0x003, false, false⟩)
    ∧ decodeNative 0x181E_090A_FF0D_8001 = .ok (.cpyg ⟨14, 9, 0x0A, 0xFF, 0x0D, 0x001, true, false⟩)
    ∧ decodeNative 0x1823_090A_FF0D_0002 = .ok (.cpys ⟨3, 9, 0x0A, 0xFF, 0x0D, 0x002, false, false⟩)
    ∧ decodeNative 0x1837_090A_FF00_8120 = .ok (.cpyr ⟨7, 9, 0x0A, 0xFF, 0, 0x120, true, false⟩)
    ∧ decodeNative 0x1840_2716_0000_0368 = .ok (.ldg ⟨0, 0x27, 0x16, 0, 0, 0x368, false, false⟩)
    ∧ decodeNative 0x1859_0016_2B00_8090 = .ok (.stg ⟨9, 0, 0x16, 0x2B, 0, 0x090, true, false⟩)
    ∧ decodeNative 0x186E_2716_2B00_004C = .ok (.atmg ⟨14, 0x27, 0x16, 0x2B, 0, 0x04C, false, false⟩)
    ∧ decodeNative 0x1873_0000_0000_8005 = .ok (.cqjoin ⟨3, 0, 0, 0, 0, 0x005, true, false⟩)
    ∧ decodeNative 0x1887_0315_2A0D_0000 = .ok (.smap ⟨7, 3, 0x15, 0x2A, 0x0D, 0x000, false, false⟩)
    ∧ decodeNative 0x1890_0300_0000_8000 = .ok (.ssync ⟨0, 3, 0, 0, 0, 0x000, true, false⟩)
    ∧ decodeNative 0x18A9_0300_0000_0000 = .ok (.sinv ⟨9, 3, 0, 0, 0, 0x000, false, false⟩)
    ∧ decodeNative 0x18BE_0300_0000_8000 = .ok (.sclose ⟨14, 3, 0, 0, 0, 0x000, true, false⟩)
    ∧ decodeNative 0x18C3_0016_0010_0802 = .ok (.pref ⟨3, 0, 0x16, 0, 0x10, 0x802, false, false⟩) :=
  ⟨rfl, rfl, rfl, rfl, rfl, rfl, rfl, rfl, rfl, rfl, rfl, rfl, rfl⟩
theorem test_decode_prerin_copy :
    decodePrerin [0xFFC0_C000, 0xFFD0_0300, 0x6009_2BF9] = .ok (.cpyPrerin ⟨true, true, ⟨9, 9, 0x0A, 0xFF, 0, 0x003, false, false⟩, 0⟩, 3)
    ∧ decodePrerin [0xFFC0_C340, 0xFFD0_0190, 0x6049_2BFE] = .ok (.cpygPrerin ⟨true, true, ⟨14, 9, 0x0A, 0xFF, 0x0D, 0x001, true, false⟩, 2⟩, 3)
    ∧ decodePrerin [0xFFC0_C340, 0xFFD0_0200, 0x6089_2BF3] = .ok (.cpysPrerin ⟨true, true, ⟨3, 9, 0x0A, 0xFF, 0x0D, 0x002, false, false⟩, 0⟩, 3)
    ∧ decodePrerin [0xFFC0_C000, 0xFFD1_20A0, 0x60C9_2BF7] = .ok (.cpyrPrerin ⟨true, true, ⟨7, 9, 0x0A, 0xFF, 0, 0x120, true, false⟩, 4⟩, 3)
    ∧ decodePrerin [0xFFC4_0000, 0xFFD3_6800, 0x6127_5800] = .ok (.ldgPrerin ⟨true, true, ⟨0, 0x67, 0x16, 0, 0, 0x368, false, false⟩, 0⟩, 3)
    ∧ decodePrerin [0xFFD0_90B0, 0x6140_5AB9] = .ok (.stgPrerin ⟨false, true, ⟨9, 0, 0x16, 0x2B, 0, 0x090, true, false⟩, 6⟩, 2)
    ∧ decodePrerin [0xFFD0_4C00, 0x61A7_5ABE] = .ok (.atmgPrerin ⟨false, true, ⟨14, 0x27, 0x16, 0x2B, 0, 0x04C, false, false⟩, 0⟩, 2)
    ∧ decodePrerin [0xFFD0_05C0, 0x61C0_0003] = .ok (.cqjoinPrerin ⟨false, true, ⟨3, 0, 0, 0, 0, 0x005, true, false⟩, 8⟩, 2)
    ∧ decodePrerin [0xFFC0_0340, 0x6203_56A7] = .ok (.smapPrerin ⟨true, false, ⟨7, 3, 0x15, 0x2A, 0x0D, 0x000, false, false⟩, 0⟩, 2)
    ∧ decodePrerin [0xFFD0_00D0, 0x6243_0000] = .ok (.ssyncPrerin ⟨false, true, ⟨0, 3, 0, 0, 0, 0x000, true, false⟩, 10⟩, 2)
    ∧ decodePrerin [0x6283_0009] = .ok (.sinvPrerin ⟨false, false, ⟨9, 3, 0, 0, 0, 0x000, false, false⟩, 0⟩, 1)
    ∧ decodePrerin [0xFFD0_0080, 0x62C3_000E] = .ok (.sclosePrerin ⟨false, true, ⟨14, 3, 0, 0, 0, 0x000, true, false⟩, 0⟩, 2)
    ∧ decodePrerin [0xFFD0_0200, 0xFFE0_0010, 0x6300_5803] = .ok (.prefPrerin ⟨false, true, ⟨3, 0, 0x16, 0, 0x10, 0x802, false, false⟩, 0⟩, 3) :=
  ⟨rfl, rfl, rfl, rfl, rfl, rfl, rfl, rfl, rfl, rfl, rfl, rfl, rfl⟩
theorem test_decode_native_shape :
    decodeNative 0x2007_0915_0010_8809 = .ok (.hld ⟨7, 9, 0x15, 0, 0x10, 0x809, true, false⟩)
    ∧ decodeNative 0x2010_0915_0010_0800 = .ok (.hst ⟨0, 9, 0x15, 0, 0x10, 0x800, false, false⟩)
    ∧ decodeNative 0x2029_0915_0000_0006 = .ok (.hset ⟨9, 9, 0x15, 0, 0, 0x006, false, false⟩)
    ∧ decodeNative 0x203E_270A_0000_0007 = .ok (.hget ⟨14, 0x27, 0x0A, 0, 0, 0x007, false, false⟩)
    ∧ decodeNative 0x2043_090A_0000_0000 = .ok (.hcpy ⟨3, 9, 0x0A, 0, 0, 0x000, false, false⟩)
    ∧ decodeNative 0x2057_0915_0000_0002 = .ok (.hadv ⟨7, 9, 0x15, 0, 0, 0x002, false, false⟩) :=
  ⟨rfl, rfl, rfl, rfl, rfl, rfl⟩
theorem test_decode_prerin_shape :
    decodePrerin [0xFFD0_0990, 0xFFE0_0010, 0x8009_5407] = .ok (.hldPrerin ⟨false, true, ⟨7, 9, 0x15, 0, 0x10, 0x809, true, false⟩, 2⟩, 3)
    ∧ decodePrerin [0xFFE0_0010, 0x8049_5400] = .ok (.hstPrerin ⟨false, false, ⟨0, 9, 0x15, 0, 0x10, 0x800, false, false⟩, 0⟩, 2)
    ∧ decodePrerin [0xFFD0_0600, 0x8089_5409] = .ok (.hsetPrerin ⟨false, true, ⟨9, 9, 0x15, 0, 0, 0x006, false, false⟩, 0⟩, 2)
    ∧ decodePrerin [0xFFD0_0700, 0x80E7_280E] = .ok (.hgetPrerin ⟨false, true, ⟨14, 0x27, 0x0A, 0, 0, 0x007, false, false⟩, 0⟩, 2)
    ∧ decodePrerin [0x8109_2803] = .ok (.hcpyPrerin ⟨false, false, ⟨3, 9, 0x0A, 0, 0, 0x000, false, false⟩, 0⟩, 1)
    ∧ decodePrerin [0xFFD0_0200, 0x8149_5407] = .ok (.hadvPrerin ⟨false, true, ⟨7, 9, 0x15, 0, 0, 0x002, false, false⟩, 0⟩, 2) :=
  ⟨rfl, rfl, rfl, rfl, rfl, rfl⟩
theorem test_decode_native_matrix :
    decodeNative 0x2400_0615_0000_0000 = .ok (.mclr ⟨0, 6, 0x15, 0, 0, 0x000, false, false⟩)
    ∧ decodeNative 0x2419_060A_0B0D_0002 = .ok (.mtile ⟨9, 6, 0x0A, 0x0B, 0x0D, 0x002, false, false⟩)
    ∧ decodeNative 0x242E_0905_000D_8009 = .ok (.mcvt ⟨14, 9, 5, 0, 0x0D, 0x009, true, false⟩)
    ∧ decodeNative 0x2433_0615_0010_0800 = .ok (.mld ⟨3, 6, 0x15, 0, 0x10, 0x800, false, false⟩)
    ∧ decodeNative 0x2447_0615_0010_8800 = .ok (.mexp ⟨7, 6, 0x15, 0, 0x10, 0x800, true, false⟩)
    ∧ decodeNative 0x2450_2705_0000_0000 = .ok (.mstat ⟨0, 0x27, 5, 0, 0, 0x000, false, false⟩)
    ∧ decodeNative 0x2469_2715_0000_0001 = .ok (.mfmt ⟨9, 0x27, 0x15, 0, 0, 0x001, false, false⟩) :=
  ⟨rfl, rfl, rfl, rfl, rfl, rfl, rfl⟩
theorem test_decode_prerin_matrix :
    decodePrerin [0x9006_5400] = .ok (.mclrPrerin ⟨false, false, ⟨0, 6, 0x15, 0, 0, 0x000, false, false⟩, 0⟩, 1)
    ∧ decodePrerin [0xFFC0_0340, 0xFFD0_0200, 0x9046_28B9] = .ok (.mtilePrerin ⟨true, true, ⟨9, 6, 0x0A, 0x0B, 0x0D, 0x002, false, false⟩, 0⟩, 3)
    ∧ decodePrerin [0xFFC0_0340, 0xFFD0_09D0, 0x9089_140E] = .ok (.mcvtPrerin ⟨true, true, ⟨14, 9, 5, 0, 0x0D, 0x009, true, false⟩, 10⟩, 3)
    ∧ decodePrerin [0xFFE0_0010, 0x90C6_5403] = .ok (.mldPrerin ⟨false, false, ⟨3, 6, 0x15, 0, 0x10, 0x800, false, false⟩, 0⟩, 2)
    ∧ decodePrerin [0xFFD0_0080, 0xFFE0_0010, 0x9106_5407] = .ok (.mexpPrerin ⟨false, true, ⟨7, 6, 0x15, 0, 0x10, 0x800, true, false⟩, 0⟩, 3)
    ∧ decodePrerin [0x9167_1400] = .ok (.mstatPrerin ⟨false, false, ⟨0, 0x27, 5, 0, 0, 0x000, false, false⟩, 0⟩, 1)
    ∧ decodePrerin [0xFFC4_0000, 0xFFD0_0100, 0x91A7_5409] = .ok (.mfmtPrerin ⟨true, true, ⟨9, 0x67, 0x15, 0, 0, 0x001, false, false⟩, 0⟩, 3) :=
  ⟨rfl, rfl, rfl, rfl, rfl, rfl, rfl⟩
theorem test_decode_native_queue :
    decodeNative 0x280E_0016_2800_0000 = .ok (.tspawn ⟨14, 0, 0x16, 0x28, 0, 0x000, false, false⟩)
    ∧ decodeNative 0x2813_2416_0000_0001 = .ok (.qrsv ⟨3, 0x24, 0x16, 0, 0, 0x001, false, false⟩)
    ∧ decodeNative 0x2827_0016_2000_0000 = .ok (.qenq ⟨7, 0, 0x16, 0x20, 0, 0x000, false, false⟩)
    ∧ decodeNative 0x2830_3016_0000_0000 = .ok (.qdeq ⟨0, 0x30, 0x16, 0, 0, 0x000, false, false⟩)
    ∧ decodeNative 0x2849_3016_0006_0000 = .ok (.qtry ⟨9, 0x30, 0x16, 0, 6, 0x000, false, false⟩)
    ∧ decodeNative 0x285E_3016_0006_0000 = .ok (.qsteal ⟨14, 0x30, 0x16, 0, 6, 0x000, false, false⟩)
    ∧ decodeNative 0x2863_0016_0010_0800 = .ok (.qerr ⟨3, 0, 0x16, 0, 0x10, 0x800, false, false⟩)
    ∧ decodeNative 0x2877_0016_2B00_0000 = .ok (.qrest ⟨7, 0, 0x16, 0x2B, 0, 0x000, false, false⟩)
    ∧ decodeNative 0x2880_2416_0000_0000 = .ok (.qstat ⟨0, 0x24, 0x16, 0, 0, 0x000, false, false⟩)
    ∧ decodeNative 0x2899_0000_0000_0000 = .ok (.succ ⟨9, 0, 0, 0, 0, 0x000, false, false⟩)
    ∧ decodeNative 0x28AE_0000_0000_0000 = .ok (.wvis ⟨14, 0, 0, 0, 0, 0x000, false, false⟩)
    ∧ decodeNative 0x28B3_0000_0002_0800 = .ok (.rsurr ⟨3, 0, 0, 0, 2, 0x800, false, false⟩)
    ∧ decodeNative 0x28C7_0000_0002_0800 = .ok (.rclaim ⟨7, 0, 0, 0, 2, 0x800, false, false⟩) :=
  ⟨rfl, rfl, rfl, rfl, rfl, rfl, rfl, rfl, rfl, rfl, rfl, rfl, rfl⟩
theorem test_decode_prerin_queue :
    decodePrerin [0xA000_5A8E] = .ok (.tspawnPrerin ⟨false, false, ⟨14, 0, 0x16, 0x28, 0, 0x000, false, false⟩, 0⟩, 1)
    ∧ decodePrerin [0xFFD0_0100, 0xA064_5803] = .ok (.qrsvPrerin ⟨false, true, ⟨3, 0x24, 0x16, 0, 0, 0x001, false, false⟩, 0⟩, 2)
    ∧ decodePrerin [0xA080_5A07] = .ok (.qenqPrerin ⟨false, false, ⟨7, 0, 0x16, 0x20, 0, 0x000, false, false⟩, 0⟩, 1)
    ∧ decodePrerin [0xA0F0_5800] = .ok (.qdeqPrerin ⟨false, false, ⟨0, 0x30, 0x16, 0, 0, 0x000, false, false⟩, 0⟩, 1)
    ∧ decodePrerin [0xFFC0_0180, 0xA130_5809] = .ok (.qtryPrerin ⟨true, false, ⟨9, 0x30, 0x16, 0, 6, 0x000, false, false⟩, 0⟩, 2)
    ∧ decodePrerin [0xFFC0_0180, 0xA170_580E] = .ok (.qstealPrerin ⟨true, false, ⟨14, 0x30, 0x16, 0, 6, 0x000, false, false⟩, 0⟩, 2)
    ∧ decodePrerin [0xFFE0_0010, 0xA180_5803] = .ok (.qerrPrerin ⟨false, false, ⟨3, 0, 0x16, 0, 0x10, 0x800, false, false⟩, 0⟩, 2)
    ∧ decodePrerin [0xA1C0_5AB7] = .ok (.qrestPrerin ⟨false, false, ⟨7, 0, 0x16, 0x2B, 0, 0x000, false, false⟩, 0⟩, 1)
    ∧ decodePrerin [0xA224_5800] = .ok (.qstatPrerin ⟨false, false, ⟨0, 0x24, 0x16, 0, 0, 0x000, false, false⟩, 0⟩, 1)
    ∧ decodePrerin [0xA240_0009] = .ok (.succPrerin ⟨false, false, ⟨9, 0, 0, 0, 0, 0x000, false, false⟩, 0⟩, 1)
    ∧ decodePrerin [0xA280_000E] = .ok (.wvisPrerin ⟨false, false, ⟨14, 0, 0, 0, 0, 0x000, false, false⟩, 0⟩, 1)
    ∧ decodePrerin [0xFFE0_0002, 0xA2C0_0003] = .ok (.rsurrPrerin ⟨false, false, ⟨3, 0, 0, 0, 2, 0x800, false, false⟩, 0⟩, 2)
    ∧ decodePrerin [0xFFE0_0002, 0xA300_0007] = .ok (.rclaimPrerin ⟨false, false, ⟨7, 0, 0, 0, 2, 0x800, false, false⟩, 0⟩, 2) :=
  ⟨rfl, rfl, rfl, rfl, rfl, rfl, rfl, rfl, rfl, rfl, rfl, rfl, rfl⟩
theorem test_decode_native_run :
    decodeNative 0x2C00_0016_0000_0000 = .ok (.rstart ⟨0, 0, 0x16, 0, 0, 0x000, false, false⟩)
    ∧ decodeNative 0x2C19_0000_2800_0000 = .ok (.rchild ⟨9, 0, 0, 0x28, 0, 0x000, false, false⟩)
    ∧ decodeNative 0x2C2E_0000_0000_0000 = .ok (.rdone ⟨14, 0, 0, 0, 0, 0x000, false, false⟩)
    ∧ decodeNative 0x2C33_0000_0000_0000 = .ok (.rret ⟨3, 0, 0, 0, 0, 0x000, false, false⟩)
    ∧ decodeNative 0x2C47_2400_2B00_0000 = .ok (.rres ⟨7, 0x24, 0, 0x2B, 0, 0x000, false, false⟩)
    ∧ decodeNative 0x2C50_2600_0000_0000 = .ok (.rinfo ⟨0, 0x26, 0, 0, 0, 0x000, false, false⟩)
    ∧ decodeNative 0x2C69_0000_0000_0000 = .ok (.rbase ⟨9, 0, 0, 0, 0, 0x000, false, false⟩)
    ∧ decodeNative 0x2C7E_0000_0000_0000 = .ok (.rabort ⟨14, 0, 0, 0, 0, 0x000, false, false⟩) :=
  ⟨rfl, rfl, rfl, rfl, rfl, rfl, rfl, rfl⟩
theorem test_decode_prerin_run :
    decodePrerin [0xB000_5800] = .ok (.rstartPrerin ⟨false, false, ⟨0, 0, 0x16, 0, 0, 0x000, false, false⟩, 0⟩, 1)
    ∧ decodePrerin [0xB040_0289] = .ok (.rchildPrerin ⟨false, false, ⟨9, 0, 0, 0x28, 0, 0x000, false, false⟩, 0⟩, 1)
    ∧ decodePrerin [0xB080_000E] = .ok (.rdonePrerin ⟨false, false, ⟨14, 0, 0, 0, 0, 0x000, false, false⟩, 0⟩, 1)
    ∧ decodePrerin [0xB0C0_0003] = .ok (.rretPrerin ⟨false, false, ⟨3, 0, 0, 0, 0, 0x000, false, false⟩, 0⟩, 1)
    ∧ decodePrerin [0xB124_02B7] = .ok (.rresPrerin ⟨false, false, ⟨7, 0x24, 0, 0x2B, 0, 0x000, false, false⟩, 0⟩, 1)
    ∧ decodePrerin [0xB166_0000] = .ok (.rinfoPrerin ⟨false, false, ⟨0, 0x26, 0, 0, 0, 0x000, false, false⟩, 0⟩, 1)
    ∧ decodePrerin [0xB180_0009] = .ok (.rbasePrerin ⟨false, false, ⟨9, 0, 0, 0, 0, 0x000, false, false⟩, 0⟩, 1)
    ∧ decodePrerin [0xB1C0_000E] = .ok (.rabortPrerin ⟨false, false, ⟨14, 0, 0, 0, 0, 0x000, false, false⟩, 0⟩, 1) :=
  ⟨rfl, rfl, rfl, rfl, rfl, rfl, rfl, rfl⟩
theorem test_decode_native_control :
    decodeNative 0x3003_2415_2B0D_0000 = .ok (.bra ⟨3, 0x24, 0x15, 0x2B, 0x0D, 0x000, false, false⟩)
    ∧ decodeNative 0x3017_0016_0000_0000 = .ok (.brx ⟨7, 0, 0x16, 0, 0, 0x000, false, false⟩)
    ∧ decodeNative 0x3020_2615_2B0D_0000 = .ok (.call ⟨0, 0x26, 0x15, 0x2B, 0x0D, 0x000, false, false⟩)
    ∧ decodeNative 0x3039_2616_0000_0000 = .ok (.callx ⟨9, 0x26, 0x16, 0, 0, 0x000, false, false⟩)
    ∧ decodeNative 0x304E_0016_0000_0000 = .ok (.ret ⟨14, 0, 0x16, 0, 0, 0x000, false, false⟩)
    ∧ decodeNative 0x3053_0000_0000_0000 = .ok (.exit ⟨3, 0, 0, 0, 0, 0x000, false, false⟩)
    ∧ decodeNative 0x3067_0000_0000_0000 = .ok (.yield ⟨7, 0, 0, 0, 0, 0x000, false, false⟩)
    ∧ decodeNative 0x3070_0000_0000_0000 = .ok (.nop ⟨0, 0, 0, 0, 0, 0x000, false, false⟩) :=
  ⟨rfl, rfl, rfl, rfl, rfl, rfl, rfl, rfl⟩
theorem test_decode_prerin_control :
    decodePrerin [0xFFC0_0340, 0xC024_56B3] = .ok (.braPrerin ⟨true, false, ⟨3, 0x24, 0x15, 0x2B, 0x0D, 0x000, false, false⟩, 0⟩, 2)
    ∧ decodePrerin [0xC040_5807] = .ok (.brxPrerin ⟨false, false, ⟨7, 0, 0x16, 0, 0, 0x000, false, false⟩, 0⟩, 1)
    ∧ decodePrerin [0xFFC0_0340, 0xC0A6_56B0] = .ok (.callPrerin ⟨true, false, ⟨0, 0x26, 0x15, 0x2B, 0x0D, 0x000, false, false⟩, 0⟩, 2)
    ∧ decodePrerin [0xC0E6_5809] = .ok (.callxPrerin ⟨false, false, ⟨9, 0x26, 0x16, 0, 0, 0x000, false, false⟩, 0⟩, 1)
    ∧ decodePrerin [0xC100_580E] = .ok (.retPrerin ⟨false, false, ⟨14, 0, 0x16, 0, 0, 0x000, false, false⟩, 0⟩, 1)
    ∧ decodePrerin [0xC140_0003] = .ok (.exitPrerin ⟨false, false, ⟨3, 0, 0, 0, 0, 0x000, false, false⟩, 0⟩, 1)
    ∧ decodePrerin [0xC180_0007] = .ok (.yieldPrerin ⟨false, false, ⟨7, 0, 0, 0, 0, 0x000, false, false⟩, 0⟩, 1)
    ∧ decodePrerin [0xC1C0_0000] = .ok (.nopPrerin ⟨false, false, ⟨0, 0, 0, 0, 0, 0x000, false, false⟩, 0⟩, 1) :=
  ⟨rfl, rfl, rfl, rfl, rfl, rfl, rfl, rfl⟩
theorem test_decode_native_system :
    decodeNative 0x3409_0015_0000_0000 = .ok (.trap ⟨9, 0, 0x15, 0, 0, 0x000, false, false⟩)
    ∧ decodeNative 0x341E_0000_0000_0000 = .ok (.tret ⟨14, 0, 0, 0, 0, 0x000, false, false⟩)
    ∧ decodeNative 0x3423_2618_0010_0800 = .ok (.sysc ⟨3, 0x26, 0x18, 0, 0x10, 0x800, false, false⟩)
    ∧ decodeNative 0x3437_2700_0000_000E = .ok (.srd ⟨7, 0x27, 0, 0, 0, 0x00E, false, false⟩)
    ∧ decodeNative 0x3440_0015_0000_0010 = .ok (.swr ⟨0, 0, 0x15, 0, 0, 0x010, false, false⟩)
    ∧ decodeNative 0x3459_0000_0000_0000 = .ok (.bkpt ⟨9, 0, 0, 0, 0, 0x000, false, false⟩)
    ∧ decodeNative 0x346E_2700_0000_0000 = .ok (.ackn ⟨14, 0x27, 0, 0, 0, 0x000, false, false⟩)
    ∧ decodeNative 0x3473_0000_0010_0800 = .ok (.wflg ⟨3, 0, 0, 0, 0x10, 0x800, false, false⟩) :=
  ⟨rfl, rfl, rfl, rfl, rfl, rfl, rfl, rfl⟩
theorem test_decode_prerin_system :
    decodePrerin [0xD000_5409] = .ok (.trapPrerin ⟨false, false, ⟨9, 0, 0x15, 0, 0, 0x000, false, false⟩, 0⟩, 1)
    ∧ decodePrerin [0xD040_000E] = .ok (.tretPrerin ⟨false, false, ⟨14, 0, 0, 0, 0, 0x000, false, false⟩, 0⟩, 1)
    ∧ decodePrerin [0xFFE0_0010, 0xD0A6_6003] = .ok (.syscPrerin ⟨false, false, ⟨3, 0x26, 0x18, 0, 0x10, 0x800, false, false⟩, 0⟩, 2)
    ∧ decodePrerin [0xFFD0_0E00, 0xD0E7_0007] = .ok (.srdPrerin ⟨false, true, ⟨7, 0x27, 0, 0, 0, 0x00E, false, false⟩, 0⟩, 2)
    ∧ decodePrerin [0xFFD0_1000, 0xD100_5400] = .ok (.swrPrerin ⟨false, true, ⟨0, 0, 0x15, 0, 0, 0x010, false, false⟩, 0⟩, 2)
    ∧ decodePrerin [0xD140_0009] = .ok (.bkptPrerin ⟨false, false, ⟨9, 0, 0, 0, 0, 0x000, false, false⟩, 0⟩, 1)
    ∧ decodePrerin [0xD1A7_000E] = .ok (.acknPrerin ⟨false, false, ⟨14, 0x27, 0, 0, 0, 0x000, false, false⟩, 0⟩, 1)
    ∧ decodePrerin [0xFFE0_0010, 0xD1C0_0003] = .ok (.wflgPrerin ⟨false, false, ⟨3, 0, 0, 0, 0x10, 0x800, false, false⟩, 0⟩, 2) :=
  ⟨rfl, rfl, rfl, rfl, rfl, rfl, rfl, rfl⟩

/-! The words the spec works out itself (the tables and listings of its examples). -/

theorem test_worked_words_1 :
    decodeNative 0x0057_0400_0200_003F = .ok (.addx ⟨7, 4, 0, 2, 0, 0x03F, false, false⟩)
    ∧ decodeNative 0x0037_0704_0001_0800 = .ok (.add ⟨7, 7, 4, 0, 1, 0x800, false, false⟩)
    ∧ decodeNative 0x0227_0003_0003_0803 = .ok (.cmp ⟨7, 0, 3, 0, 3, 0x803, false, false⟩)
    ∧ decodeNative 0x0027_0BFF_3F80_0800 = .ok (.movh ⟨7, 0x0B, 0xFF, 0x3F, 0x80, 0x800, false, false⟩)
    ∧ decodeNative 0x0157_0810_0E00_0700 = .ok (.shl ⟨7, 8, 0x10, 0x0E, 0, 0x700, false, false⟩)
    ∧ decodeNative 0x3007_FFFF_FEFF_0000 = .ok (.bra ⟨7, 0xFF, 0xFF, 0xFE, 0xFF, 0, false, false⟩)
    ∧ decodeNative 0x3008_0000_0400_0000 = .ok (.bra ⟨8, 0, 0, 4, 0, 0, false, false⟩)
    ∧ decodeNative 0x3400_0000_0042_0800 = .ok (.trap ⟨0, 0, 0, 0, 0x42, 0x800, false, false⟩)
    ∧ decodeNative 0x1087_0002_0080_0800 = .ok (.xbarInit ⟨7, 0, 2, 0, 0x80, 0x800, false, false⟩)
    ∧ decodeNative 0x1807_0100_0200_0004 = .ok (.cpy ⟨7, 1, 0, 2, 0, 4, false, false⟩) :=
  ⟨rfl, rfl, rfl, rfl, rfl, rfl, rfl, rfl, rfl, rfl⟩

theorem test_worked_words_2 :
    decodeNative 0x1877_0000_0000_0003 = .ok (.cqjoin ⟨7, 0, 0, 0, 0, 3, false, false⟩)
    ∧ decodeNative 0x2407_0000_0000_0800 = .ok (.mclr ⟨7, 0, 0, 0, 0, 0x800, false, false⟩)
    ∧ decodeNative 0x2417_0100_0414_0005 = .ok (.mtile ⟨7, 1, 0, 4, 20, 5, false, false⟩)
    ∧ decodeNative 0x2467_030A_0000_0000 = .ok (.mfmt ⟨7, 3, 10, 0, 0, 0, false, false⟩)
    ∧ decodeNative 0x2007_00FF_0000_0808 = .ok (.hld ⟨7, 0, 0xFF, 0, 0, 0x808, false, false⟩)
    ∧ decodeNative 0x3467_0F00_0000_0000 = .ok (.ackn ⟨7, 15, 0, 0, 0, 0, false, false⟩)
    ∧ decodeNative 0x2867_0004_0005_0800 = .ok (.qerr ⟨7, 0, 4, 0, 5, 0x800, false, false⟩)
    ∧ decodeNative 0x2C60_0000_0000_0000 = .ok (.rbase ⟨0, 0, 0, 0, 0, 0, false, false⟩)
    ∧ decodeNative 0x2C17_0000_1000_0000 = .ok (.rchild ⟨7, 0, 0, 16, 0, 0, false, false⟩)
    ∧ decodeNative 0x2C07_0002_0000_0000 = .ok (.rstart ⟨7, 0, 2, 0, 0, 0, false, false⟩) :=
  ⟨rfl, rfl, rfl, rfl, rfl, rfl, rfl, rfl, rfl, rfl⟩

/-- The headers that the spec works out: LEN 12 and LEN 31 without flags, and a wait for f0 before two words (R76). -/
theorem test_worked_headers :
    decodeNative 0x8003_FD80_0000_0000 = .ok (.clauseBoundary ⟨0, 15, 15, 12, false⟩)
    ∧ decodeNative 0x8007_FC40_0000_0000 = .ok (.clauseBoundary ⟨1, 15, 15, 2, false⟩) := ⟨rfl, rfl⟩

/-- ill of both modes (R103): any word with opcode 0. -/
theorem test_decode_ill : decodeNative 0x000F_FFFF_FFFF_FFFF = .ok (.ill 0x000F_FFFF_FFFF_FFFF)
    ∧ decodePrerin [0x003F_FFFF] = .ok (.illPrerin 0x003F_FFFF, 1) := ⟨rfl, rfl⟩

/-! Words that are no instruction, each refused by its rule (R424, Table 4-9). -/

theorem test_rejects : decodeNative 0xC000_0000_0000_0000 = .error .reservedClass
    ∧ decodeNative 0x03F7_0000_0000_0000 = .error .reservedOpcode
    ∧ decodeNative 0x0037_0704_0500_1000 = .error .reservedBits
    ∧ decodeNative 0x003F_0704_0500_0000 = .error .badOperand
    ∧ decodeNative 0x8003_FC00_0000_0000 = .error .badHeader
    ∧ decodeNative 0x8003_FC40_0000_0001 = .error .badHeader := ⟨rfl, rfl, rfl, rfl, rfl, rfl⟩

/-- Prefixes out of order, twice, or with a flag where the form has none (R86). -/
theorem test_rejects_prefixes : decodePrerinForm [0xFFF0_0000, 0xFFC0_0000, 0x00C7_1007] = .error (.badPrefix, 0xFFF0_0000)
    ∧ decodePrerinForm [0xFFC0_0000, 0xFFC0_0000, 0x00C7_1007] = .error (.badPrefix, 0xFFC0_0000)
    ∧ decodePrerinForm [0xFFD0_0080, 0x00C7_1007] = .error (.badPrefix, 0xFFD0_0080) := ⟨rfl, rfl, rfl⟩

/-! ## Ill-formed terms: one for each check -/

theorem test_illformed_guard : (Instr.add ⟨15, 6, 4, 5, 0, 0, false, false⟩).wellFormed = false := by decide
theorem test_illformed_no_immediate : (Instr.mad ⟨7, 6, 4, 0, 5, 0x800, false, false⟩).wellFormed = false := by decide
theorem test_illformed_needs_immediate : (Instr.atld ⟨7, 0, 4, 0, 0, 0, false, false⟩).wellFormed = false := by decide
theorem test_illformed_mbits : (Instr.movh ⟨7, 6, 4, 5, 0, 1, false, false⟩).wellFormed = false := by decide
theorem test_illformed_type : (Instr.addx ⟨7, 6, 4, 5, 0, 0x400, false, false⟩).wellFormed = false := by decide
theorem test_illformed_rounding : (Instr.fadd ⟨7, 6, 4, 5, 0, 0x400, false, false⟩).wellFormed = false := by decide
theorem test_illformed_nonzero_field : (Instr.add ⟨7, 6, 4, 5, 1, 0, false, false⟩).wellFormed = false := by decide
theorem test_illformed_alignment : (Instr.rres ⟨7, 6, 0, 1, 0, 0, false, false⟩).wellFormed = false := by decide
theorem test_illformed_predicate : (Instr.plop ⟨7, 8, 1, 2, 3, 0, false, false⟩).wellFormed = false := by decide
theorem test_illformed_shape : (Instr.hcpy ⟨7, 16, 1, 0, 0, 0, false, false⟩).wellFormed = false := by decide
theorem test_illformed_tile : (Instr.mstat ⟨7, 1, 8, 0, 0, 0, false, false⟩).wellFormed = false := by decide
theorem test_illformed_span : (Instr.ssync ⟨7, 8, 0, 0, 0, 0, false, false⟩).wellFormed = false := by decide
theorem test_illformed_flag : (Instr.add ⟨7, 6, 4, 5, 0, 0, true, false⟩).wellFormed = false
    ∧ (Instr.lds ⟨7, 6, 4, 5, 0, 0, false, true⟩).wellFormed = false := by decide
theorem test_illformed_entries_1 : (Instr.shl ⟨7, 1, 2, 1, 0, 0x800, false, false⟩).wellFormed = false
    ∧ (Instr.cmp ⟨7, 1, 2, 3, 0, 6, false, false⟩).wellFormed = false
    ∧ (Instr.pmov ⟨7, 1, 0, 0, 0, 2, false, false⟩).wellFormed = false
    ∧ (Instr.fcmp ⟨7, 1, 2, 3, 0, 14, false, false⟩).wellFormed = false
    ∧ (Instr.hcmp2 ⟨7, 1, 2, 3, 0, 0x1C, false, false⟩).wellFormed = false
    ∧ (Instr.cvt ⟨7, 1, 0, 3, 16, 0, false, false⟩).wellFormed = false
    ∧ (Instr.cvtpk ⟨7, 1, 2, 3, 0, 2, false, false⟩).wellFormed = false
    ∧ (Instr.unpk ⟨7, 2, 0, 3, 0, 7, false, false⟩).wellFormed = false
    ∧ (Instr.atsel ⟨7, 0, 0, 0, 0, 3, false, false⟩).wellFormed = false := by decide
theorem test_illformed_entries_2 : (Instr.vote ⟨7, 1, 2, 0, 0, 8, false, false⟩).wellFormed = false
    ∧ (Instr.redux ⟨7, 1, 2, 0, 0, 6, false, false⟩).wellFormed = false
    ∧ (Instr.scan ⟨7, 1, 2, 0, 0, 7, false, false⟩).wellFormed = false
    ∧ (Instr.redix ⟨7, 2, 2, 0, 0, 0x101, false, false⟩).wellFormed = false
    ∧ (Instr.setpart ⟨7, 0, 0, 0, 3, 0x800, false, false⟩).wellFormed = false
    ∧ (Instr.lds ⟨7, 1, 2, 3, 0, 3, false, false⟩).wellFormed = false
    ∧ (Instr.sts ⟨7, 1, 2, 3, 0, 1, false, false⟩).wellFormed = false
    ∧ (Instr.ldg ⟨7, 1, 2, 0, 0, 0x080, false, false⟩).wellFormed = false
    ∧ (Instr.stg ⟨7, 0, 2, 3, 0, 0x048, false, false⟩).wellFormed = false
    ∧ (Instr.atms ⟨7, 1, 2, 3, 0, 8, false, false⟩).wellFormed = false
    ∧ (Instr.fence ⟨7, 0, 0, 0, 0, 0, false, false⟩).wellFormed = false
    ∧ (Instr.atmg ⟨7, 1, 2, 3, 0, 0x018, false, false⟩).wellFormed = false := by decide
theorem test_illformed_entries_3 : (Instr.bar ⟨7, 0, 0, 0, 0, 0, false, false⟩).wellFormed = false
    ∧ (Instr.xbarInit ⟨7, 0, 2, 3, 0, 1, false, false⟩).wellFormed = false
    ∧ (Instr.xbarArrive ⟨7, 0, 2, 3, 0, 0, false, false⟩).wellFormed = false
    ∧ (Instr.xbarWait ⟨7, 0, 2, 0, 0, 3, false, false⟩).wellFormed = false
    ∧ (Instr.xbarInval ⟨7, 0, 2, 0, 0, 2, false, false⟩).wellFormed = false
    ∧ (Instr.cpyr ⟨7, 1, 2, 255, 0, 0x500, false, false⟩).wellFormed = false
    ∧ (Instr.cqjoin ⟨7, 0, 0, 0, 0, 0, false, false⟩).wellFormed = false
    ∧ (Instr.hld ⟨7, 1, 2, 0, 0, 0x801, false, false⟩).wellFormed = false
    ∧ (Instr.mtile ⟨7, 1, 2, 3, 4, 4, false, false⟩).wellFormed = false
    ∧ (Instr.call ⟨7, 254, 0, 0, 0, 0, false, false⟩).wellFormed = false
    ∧ (Instr.srd ⟨7, 1, 0, 0, 0, 0x15, false, false⟩).wellFormed = false
    ∧ (Instr.swr ⟨7, 0, 1, 0, 0, 0x0E, false, false⟩).wellFormed = false
    ∧ (Instr.wflg ⟨7, 0, 0, 0x10, 0, 0x800, false, false⟩).wellFormed = false := by decide
/-- The prefixes that a Prerin term's fields need (R86). -/
theorem test_illformed_prefixes : (Instr.addPrerin ⟨false, false, ⟨7, 64, 4, 5, 0, 0, false, false⟩, 0⟩).wellFormed = false
    ∧ (Instr.addPrerin ⟨false, false, ⟨7, 6, 4, 5, 0, 1, false, false⟩, 0⟩).wellFormed = false
    ∧ (Instr.ldsPrerin ⟨false, true, ⟨7, 6, 4, 5, 0, 0, true, false⟩, 12⟩).wellFormed = false
    ∧ (Instr.ldsPrerin ⟨false, true, ⟨7, 6, 4, 5, 0, 0, true, true⟩, 1⟩).wellFormed = false := by decide
theorem test_illformed_ill : (Instr.ill 0x0010_0000_0000_0000).wellFormed = false ∧ (Instr.illPrerin 0x0040_0000).wellFormed = false := by
  decide
theorem test_illformed_headers : (Instr.clauseBoundary ⟨0, 15, 15, 0, false⟩).wellFormed = false
    ∧ (Instr.clauseBoundary ⟨0, 12, 15, 2, false⟩).wellFormed = false
    ∧ (Instr.clauseBoundary ⟨0, 15, 13, 2, false⟩).wellFormed = false
    ∧ (Instr.clauseBoundary ⟨0, 3, 3, 2, false⟩).wellFormed = false := by decide
/-- P words (R72–R74): a form that does not pair, two Y halves, one destination bank, a bank read three times, a half that
reads the other's destination. -/
theorem test_illformed_pairs : (Instr.pWord ⟨2, 7, 4, 5, 0⟩ ⟨3, 7, 9, 6, 0⟩).wellFormed = false
    ∧ (Instr.pWord ⟨7, 7, 4, 5, 0⟩ ⟨7, 7, 9, 6, 0⟩).wellFormed = false
    ∧ (Instr.pWord ⟨3, 7, 4, 5, 0⟩ ⟨3, 7, 8, 6, 0⟩).wellFormed = false
    ∧ (Instr.pWord ⟨3, 7, 4, 8, 0⟩ ⟨3, 7, 9, 12, 0⟩).wellFormed = false
    ∧ (Instr.pWord ⟨3, 7, 4, 9, 0⟩ ⟨3, 7, 9, 6, 0⟩).wellFormed = false
    ∧ (Instr.pWord ⟨3, 7, 4, 5, 24⟩ ⟨3, 7, 9, 6, 0⟩).wellFormed = false := by decide

/-! ## Single steps: the spec's own examples -/

/-- The value that thread 0 of one thread with registers `l` has in register `r` after an instruction. -/
def val (i : Instr) (l : List (Nat × Word)) (r : Nat) : Option Word := (after i (box [thr l]) 0 r).map (fun x => x.v)
/-- A predicate of thread 0 afterwards. -/
def prd (i : Instr) (s : State) (k : Nat) : Option Bool := (out (exec i s)).map (fun s => ((s.thr 0 0 0).pred k).v)

-- R104: mov.i8 and mov.n8 of 0x1F0.
theorem test_mov_i8 : val (.mov (fw 3 0 4 0 0x400)) [(4, 0x1F0)] 3 = some 0xFFFFFFF0 := by decide
theorem test_mov_n8 : val (.mov (fw 3 0 4 0 0x500)) [(4, 0x1F0)] 3 = some 0xF0 := by decide
-- R105 (after Table 5-2): add and sub of 100 and 100, and of 0 and 100, in 8 bits.
theorem test_add_i8 : val (.add (fw 6 4 5 0 0x400)) [(4, 100), (5, 100)] 6 = some 0xFFFFFFC8 := by decide
theorem test_add_i8_sat : val (.add (fw 6 4 5 0 0x401)) [(4, 100), (5, 100)] 6 = some 0x7F := by decide
theorem test_add_n8_sat : val (.add (fw 6 4 5 0 0x501)) [(4, 100), (5, 100)] 6 = some 0xC8 := by decide
theorem test_sub_n8_sat : val (.sub (fw 6 4 5 0 0x501)) [(4, 0), (5, 100)] 6 = some 0 := by decide
-- Table 5-3: the carry chain through p3.
theorem test_addx_low : val (.addx (fw 4 0 2 0 0x03F)) [(0, 0xFFFFFFFF), (2, 1)] 4 = some 0
    ∧ prd (.addx (fw 4 0 2 0 0x03F)) (box [thr [(0, 0xFFFFFFFF), (2, 1)]]) 3 = some true := by decide
theorem test_addx_high : after (.addx (fw 5 1 3 0 0x073)) (box [{ thr [(1, 1)] with p := [(3, ⟨true, false⟩)] }]) 0 5
    = some ⟨2, false⟩ := by decide
-- R107: mulhi of 0x80000000 by 2, signed and unsigned.
theorem test_mulhi_i32 : val (.mulhi (fw 6 4 5 0 0)) [(4, 0x80000000), (5, 2)] 6 = some 0xFFFFFFFF := by decide
theorem test_mulhi_n32 : val (.mulhi (fw 6 4 5 0 0x100)) [(4, 0x80000000), (5, 2)] 6 = some 1 := by decide
-- R108: abs of the most negative number, with and without SAT.
theorem test_abs : val (.abs (fw 6 0 5 0 0)) [(5, 0x80000000)] 6 = some 0x80000000 := by decide
theorem test_abs_sat : val (.abs (fw 6 0 5 0 1)) [(5, 0x80000000)] 6 = some 0x7FFFFFFF := by decide
-- R110: table 0xAA copies A, 0x96 is the exclusive-or of all three.
theorem test_lop3_copies : val (.lop3 (fw 8 1 2 3 0xAA)) [(1, 0x1234), (2, 7), (3, 9)] 8 = some 0x1234 := by decide
theorem test_lop3_xor : val (.lop3 (fw 8 1 2 3 0x96)) [(1, 0x1234), (2, 0xFF00), (3, 0xF)] 8 = some 0xED3B := by decide
-- R111: shr by 40 gives 0.
theorem test_shr_40 : val (.shr (fw 1 2 0 40 0x800)) [(2, 0xFFFFFFFF)] 1 = some 0 := by decide
-- R113: bfx of 4 bits at position 4 of 0xA5, signed and unsigned.
theorem test_bfx_i32 : val (.bfx (fw 3 4 4 4 0x800)) [(4, 0xA5)] 3 = some 0xFFFFFFFA := by decide
theorem test_bfx_n32 : val (.bfx (fw 3 4 4 4 0x900)) [(4, 0xA5)] 3 = some 0xA := by decide
-- R115: bperm 0x0123 reverses the bytes; 0x8810 zero-extends from 16 bits.
theorem test_bperm_reverses : val (.bperm (fw 1 2 0x01 0x23 0x800)) [(2, 0x11223344)] 1 = some 0x44332211 := by decide
theorem test_bperm_clears : val (.bperm (fw 1 2 0x88 0x10 0x800)) [(2, 0xF1F2F3F4)] 1 = some 0xF3F4 := by decide
-- R118: the address of element −1 from 0x12_0000_0100.
theorem test_lea_i64 : val (.lea (fw 4 4 9 0 0x602)) [(4, 0x100), (5, 0x12), (9, 0xFFFFFFFF)] 4 = some 0xFC
    ∧ val (.lea (fw 4 4 9 0 0x602)) [(4, 0x100), (5, 0x12), (9, 0xFFFFFFFF)] 5 = some 0x12 := by decide
-- R119, R120, R121: the examples of sad, dot4 and vadd2.
theorem test_sad_n8 : val (.sad (fw 1 2 3 4 0x500)) [(2, 0x0A141E28), (3, 0x05142832), (4, 7)] 1 = some 32 := by decide
theorem test_dot4 : val (.dot4 (fw 1 2 3 4 0)) [(2, 0xFF020304), (3, 0x01010101)] 1 = some 264 := by decide
theorem test_vadd2_sat : val (.vadd2 (fw 1 2 0x70 0 0xA01)) [(2, 0x10002000)] 1 = some 0x7FFF7FFF := by decide
-- R123: pmov.get with p0 and p2 true.
theorem test_pmov_get : after (.pmov (fw 3 0 0 0 0)) (box [{ th0 with p := [(0, ⟨true, false⟩), (2, ⟨true, false⟩)] }]) 0 3
    = some ⟨0x85, false⟩ := by decide
-- R133: frnd.rd of −0.5 is −1.0, frnd.rne of 2.5 is 2.0.
theorem test_frnd_rd : val (.frnd (fw 1 0 2 0 0x200)) [(2, 0xBF000000)] 1 = some 0xBF800000 := by decide
theorem test_frnd_rne : val (.frnd (fw 1 0 2 0 0)) [(2, 0x40200000)] 1 = some 0x40000000 := by decide
-- R126: the immediate 0x4000 is 2.0.
theorem test_fmul_two : val (.fmul (fw 2 3 0x40 0 0x800)) [(3, 0x3FC00000)] 2 = some 0x40400000 := by decide

/-! Of the other families. -/

/-- A machine after an instruction. -/
def st (i : Instr) (s : State) : State := (out (exec i s)).getD State.reset
-- Table 6-4: packing and unpacking E4M3.
theorem test_cvtpk_1 : val (.cvtpk (fw 5 1 2 255 0x028)) [(1, 0xC0300000), (2, 0x3FC00000)] 5 = some 0x00003CC3 := by decide +kernel
theorem test_cvtpk_2 : val (.cvtpk (fw 5 3 4 5 0x029)) [(3, 0x447A0000), (4, 0x3A83126F), (5, 0x3CC3)] 5 = some 0x017E3CC3 := by decide +kernel
theorem test_unpk : val (.unpk (fw 6 0 5 0 0x012)) [(5, 0x017E3CC3)] 6 = some 0x43E00000
    ∧ val (.unpk (fw 6 0 5 0 0x012)) [(5, 0x017E3CC3)] 7 = some 0x3B000000 := by decide +kernel
-- Table 6-5: frcp of +0 is +∞, fsqrt of −0 is −0, flg2 of 1.0 is +0.
theorem test_frcp_zero : val (.frcp (fw 1 0 2 0 0)) [] 1 = some 0x7F800000 := by decide +kernel
theorem test_fsqrt_zero : val (.fsqrt (fw 1 0 2 0 0)) [(2, 0x80000000)] 1 = some 0x80000000 := by decide +kernel
theorem test_flg2_one : val (.flg2 (fw 1 0 2 0 0)) [(2, 0x3F800000)] 1 = some 0 := by decide +kernel
-- R129, R130: 1.5 + 2.25 = 3.75; fmin of −0 and +0 is −0.
theorem test_fadd : val (.fadd (fw 1 2 3 0 0)) [(2, 0x3FC00000), (3, 0x40100000)] 1 = some 0x40700000 := by decide +kernel
theorem test_fmin_zeros : val (.fmin (fw 1 2 3 0 0)) [(2, 0), (3, 0x80000000)] 1 = some 0x80000000 := by decide +kernel
-- R216: shfl.xor 1 of two threads exchanges; R219: redux.add of 5 and 7; R217: a vote mask; R223: actv.
theorem test_shfl_xor : after (.shfl (fw 1 2 0 1 0x803)) (box [thr [(2, 5)], thr [(2, 7)]]) 0 1 = some ⟨7, false⟩ := by decide +kernel
theorem test_redux_add : after (.redux (fw 1 2 0 0 0)) (box [thr [(2, 5)], thr [(2, 7)]]) 1 1 = some ⟨12, false⟩ := by decide +kernel
theorem test_scan_excl : after (.scan (fw 1 2 0 0 0x010)) (box [thr [(2, 5)], thr [(2, 7)]]) 1 1 = some ⟨5, false⟩ := by decide +kernel
theorem test_vote_mask : after (.vote (fw 1 0 0 0 3)) (box [th0, { th0 with p := [(0, ⟨true, false⟩)] }]) 0 1 = some ⟨2, false⟩ := by decide +kernel
-- R225: a byte and a halfword, signed and unsigned, of scratch; R225: a word stored low byte first; R227: add of 3 to 5 in scratch.
def scr0 : State := { box [thr [(2, 0x40), (3, 0x11223344), (5, 3)]] with
  groups := [{ group0 [thr [(2, 0x40), (3, 0x11223344), (5, 3)]] with scr := [(0x40, 5), (0x44, 0x80), (0x45, 0x7F)] }] }
theorem test_lds_i8 : after (.lds (fw 6 2 0 4 0xC00)) scr0 0 6 = some ⟨0xFFFFFF80, false⟩ := by decide +kernel
theorem test_lds_n16 : after (.lds (fw 6 2 0 4 0xB00)) scr0 0 6 = some ⟨0x7F80, false⟩ := by decide +kernel
theorem test_sts : (List.range 4).map (fun k => FMap.get 0 ((st (.sts (fw 3 2 0 8 0x800)) scr0).grp 0).scr (0x48 + k)) = [0x44, 0x33, 0x22, 0x11] := by
  decide +kernel
theorem test_atms_add : after (.atms (fw 6 2 5 0 0)) scr0 0 6 = some ⟨5, false⟩ ∧ FMap.get 0 ((st (.atms (fw 6 2 5 0 0)) scr0).grp 0).scr 0x40 = 8 := by
  decide +kernel
theorem test_lds_out_of_bounds : (let t := (st (.lds (fw 6 2 0 4 0xC00)) (box [thr [(2, 0x3FFC)]])).thr 0 0 0
    (t.tcause, t.tval, t.pc, t.tpc)) = (0x09, 0x4000, 0x1000, 0x401) := by decide +kernel
-- R231: xbar.init of 128; R230: bar.arrive of the only thread ends the phase.
theorem test_xbar_init : leNat (fun a => FMap.get 0 ((st (.xbarInit (fw 0 2 0 0x80 0x800)) scr0).grp 0).scr a) 0x40 4 = 128 := by decide +kernel
theorem test_bar_arrive : (FMap.get Bar.zero ((st (.bar (fw 0 0 0 0 0x013)) (box [th0])).grp 0).bars 3).phase = 1 := by decide +kernel
-- R162: trap 0x42 takes trap 0x10; R36: a poisoned guard takes trap 0x04 with 0x100 in %tval.
theorem test_trap : (let t := (st (.trap (fw 0 0 0 0x42 0x800)) (box [th0])).thr 0 0 0
    (t.tcause, t.tval, t.pc, t.mode, t.tpc, t.trix)) = (0x10, 0x42, 0x1000, .native, 0x401, 1) := by decide +kernel
theorem test_poisoned_guard : (let t := (st (.add ⟨0, 6, 4, 5, 0, 0, false, false⟩) (box [{ th0 with p := [(0, ⟨false, true⟩)] }])).thr 0 0 0
    (t.tcause, t.tval)) = (0x04, 0x100) := by decide +kernel
-- R30: exit ends the thread; R156: the return address of a native call is the header behind its clause.
theorem test_exit : ((st (.exit (fw 0 0 0 0 0)) (box [th0, th0])).thr 0 0 1).sched = .exited := by decide +kernel
theorem test_call_link : (let s := { box [th0] with dies := [{ Die.zero with icache := [⟨1, 0x10, [0x8003_FC40_0000_0000]⟩] }, Die.zero, Die.zero, Die.zero] }
    ((st (.call (fw 8 0xFF 0xFF 0xFF 0)) s).thr 0 0 0).reg 8) = ⟨0x431, false⟩ := by decide +kernel
-- Table 2-3: swr to %status sets the enables and clears sticky bits written with 1.
theorem test_swr_status : ((st (.swr (fw 0 4 0 0 0x10)) (box [{ thr [(4, 0x103)] with status := 0x701 }])).thr 0 0 0).status = 0x603 := by decide +kernel
-- R245: hset and hget of the width word; R259: mclr sets the exponent.
theorem test_hset : (((st (.hset (fw 2 4 0 0 3)) (box [thr [(4, 0x20)]])).wrp 0 0).shape 2).width = 32 := by decide +kernel
theorem test_mclr : (((st (.mclr (fw 1 0 0xFF 0xDA 0x800)) (box [th0])).wrp 0 0).tile 1).x = -38 := by decide +kernel
-- R75, Table 4-5: both halves read before either writes.
theorem test_p_word : (let s := st (.pWord ⟨3, 7, 4, 5, 0⟩ ⟨0x11, 7, 9, 6, 0⟩) (box [thr [(4, 1), (5, 2), (6, 8), (9, 1)]])
    ((s.thr 0 0 0).reg 4, (s.thr 0 0 0).reg 9)) = (⟨3, false⟩, ⟨9, false⟩) := by decide +kernel
-- R386: throttling changes the mark alone.
theorem test_throttle : (st .thermalThrottle State.reset).pkg.throttled = true := by decide +kernel
-- R219, R130, R43: fmin of a tile's one signalling NaN is the canonical NaN, and invalid is set.
theorem test_redux_fmin_nan : after (.redux (fw 1 2 0 0 9)) (box [{ thr [(2, 0xFF800001)] with status := 0 }]) 0 1 = some ⟨0x7FC00000, false⟩
    ∧ (((st (.redux (fw 1 2 0 0 9)) (box [{ thr [(2, 0xFF800001)] with status := 0 }])).thr 0 0 0).status.getLsbD 8) = true := by decide +kernel
-- R15, R99: the pair at gz is odd, so its number is the value of trap 0x01.
theorem test_mulw_gz : (let t := (st (.mulw (fw 255 4 5 0 0)) (box [th0])).thr 0 0 0; (t.tcause, t.tval)) = (0x01, 255) := by decide +kernel
-- R33: a misaligned store of poisoned data traps 0x09, not 0x03.
theorem test_sts_order : (let t := (st (.sts (fw 3 2 0 0 0x800)) (box [{ th0 with g := [(2, ⟨0x41, false⟩), (3, ⟨0, true⟩)] }])).thr 0 0 0
    (t.tcause, t.tval)) = (0x09, 0x41) := by decide +kernel

/-! ## Witnesses: for every statement, states and operands that meet its hypotheses -/

/-- A word of every form. -/
def formsA1 : List (Op × Fields) :=
  [(.mov, ⟨7, 0x27, 0, 0x2B, 0, 0x400, false, false⟩), (.movh, ⟨7, 0x27, 0x15, 0x2B, 0, 0x000, false, false⟩),
   (.add, ⟨7, 0x27, 0x15, 0x2B, 0, 0x101, false, false⟩), (.sub, ⟨7, 0x27, 0x15, 0x2B, 0, 0x300, false, false⟩),
   (.addx, ⟨7, 0x27, 0x15, 0x2B, 0, 0x03F, false, false⟩), (.subx, ⟨7, 0x27, 0x15, 0x2B, 0, 0x074, false, false⟩),
   (.mul, ⟨7, 0x27, 0x15, 0x2B, 0, 0x000, false, false⟩), (.mulhi, ⟨7, 0x27, 0x15, 0x2B, 0, 0x100, false, false⟩),
   (.mad, ⟨7, 0x27, 0x15, 0x2B, 0x0D, 0x000, false, false⟩), (.madhi, ⟨7, 0x27, 0x15, 0x2B, 0x0D, 0x000, false, false⟩),
   (.mulw, ⟨7, 0x26, 0x15, 0x2B, 0, 0x100, false, false⟩), (.madw, ⟨7, 0x26, 0x15, 0x2B, 0x0E, 0x000, false, false⟩),
   (.min, ⟨7, 0x27, 0x15, 0x2B, 0, 0x500, false, false⟩), (.max, ⟨7, 0x27, 0x15, 0x2B, 0, 0x000, false, false⟩),
   (.abs, ⟨7, 0x27, 0, 0x2B, 0, 0x401, false, false⟩), (.and, ⟨7, 0x27, 0x15, 0x2B, 0, 0x000, false, false⟩),
   (.or, ⟨7, 0x27, 0x15, 0x2B, 0, 0x000, false, false⟩), (.xor, ⟨7, 0x27, 0x15, 0x2B, 0, 0x000, false, false⟩),
   (.andn, ⟨7, 0x27, 0x15, 0x2B, 0, 0x000, false, false⟩), (.lop3, ⟨7, 0x27, 0x15, 0x2B, 0x0D, 0x096, false, false⟩),
   (.shl, ⟨7, 0x27, 0x15, 0x2B, 0, 0x001, false, false⟩), (.shr, ⟨7, 0x27, 0x15, 0x2B, 0, 0x000, false, false⟩),
   (.sar, ⟨7, 0x27, 0x15, 0x2B, 0, 0x000, false, false⟩), (.rot, ⟨7, 0x27, 0x15, 0x2B, 0, 0x002, false, false⟩),
   (.fsh, ⟨7, 0x27, 0x15, 0x2B, 0x0D, 0x003, false, false⟩), (.bfx, ⟨7, 0x27, 0x15, 0x2B, 0, 0x000, false, false⟩),
   (.bfi, ⟨7, 0x27, 0x15, 0x2B, 0x0D, 0x000, false, false⟩), (.popc, ⟨7, 0x27, 0, 0x2B, 0, 0x000, false, false⟩),
   (.clz, ⟨7, 0x27, 0, 0x2B, 0, 0x000, false, false⟩), (.ctz, ⟨7, 0x27, 0, 0x2B, 0, 0x000, false, false⟩)]
/-- A word of every form. -/
def formsA2 : List (Op × Fields) :=
  [(.brev, ⟨7, 0x27, 0, 0x2B, 0, 0x000, false, false⟩), (.bperm, ⟨7, 0x27, 0x15, 0x2B, 0x0D, 0x005, false, false⟩),
   (.sel, ⟨7, 0x27, 0x15, 0x2B, 0, 0x00B, false, false⟩), (.cmp, ⟨7, 5, 0x15, 0x2B, 0, 0x10A, false, false⟩),
   (.lea, ⟨7, 0x27, 0x15, 0x2B, 0, 0x002, false, false⟩), (.sad, ⟨7, 0x27, 0x15, 0x2B, 0x0D, 0x500, false, false⟩),
   (.dot4, ⟨7, 0x27, 0x15, 0x2B, 0x0D, 0x007, false, false⟩), (.dot2, ⟨7, 0x27, 0x15, 0x2B, 0x0D, 0x002, false, false⟩),
   (.vadd2, ⟨7, 0x27, 0x15, 0x2B, 0, 0x201, false, false⟩), (.vsub2, ⟨7, 0x27, 0x15, 0x2B, 0, 0x301, false, false⟩),
   (.vmax2, ⟨7, 0x27, 0x15, 0x2B, 0, 0x200, false, false⟩), (.vmin2, ⟨7, 0x27, 0x15, 0x2B, 0, 0x300, false, false⟩),
   (.plop, ⟨7, 5, 2, 3, 4, 0x0E8, false, false⟩), (.pmov, ⟨7, 0x27, 0, 0, 0, 0x000, false, false⟩),
   (.fadd, ⟨7, 0x27, 0x15, 0x2B, 0, 0x201, false, false⟩), (.fsub, ⟨7, 0x27, 0x15, 0x2B, 0, 0x300, false, false⟩),
   (.fmul, ⟨7, 0x27, 0x15, 0x2B, 0, 0x101, false, false⟩), (.ffma, ⟨7, 0x27, 0x15, 0x2B, 0x0D, 0x307, false, false⟩),
   (.fmin, ⟨7, 0x27, 0x15, 0x2B, 0, 0x000, false, false⟩), (.fmax, ⟨7, 0x27, 0x15, 0x2B, 0, 0x000, false, false⟩),
   (.fcmp, ⟨7, 5, 0x15, 0x2B, 0, 0x01B, false, false⟩), (.fclamp, ⟨7, 0x27, 0x15, 0x2B, 0x0D, 0x000, false, false⟩),
   (.frnd, ⟨7, 0x27, 0, 0x2B, 0, 0x100, false, false⟩), (.hadd2, ⟨7, 0x27, 0x15, 0x2B, 0, 0x002, false, false⟩),
   (.hmul2, ⟨7, 0x27, 0x15, 0x2B, 0, 0x003, false, false⟩), (.hfma2, ⟨7, 0x27, 0x15, 0x2B, 0x0D, 0x101, false, false⟩),
   (.hmin2, ⟨7, 0x27, 0x15, 0x2B, 0, 0x001, false, false⟩), (.hmax2, ⟨7, 0x27, 0x15, 0x2B, 0, 0x000, false, false⟩),
   (.hcmp2, ⟨7, 0x27, 0x15, 0x2B, 0, 0x00B, false, false⟩), (.fdot2, ⟨7, 0x27, 0x15, 0x2B, 0x0D, 0x301, false, false⟩)]
/-- A word of every form. -/
def formsA3 : List (Op × Fields) :=
  [(.cvt, ⟨7, 0x27, 0, 0x2B, 2, 0x310, false, false⟩), (.cvtpk, ⟨7, 0x27, 0x15, 0x2B, 0x0D, 0x021, false, false⟩),
   (.unpk, ⟨7, 0x26, 0, 0x2B, 0, 0x013, false, false⟩), (.q4enc, ⟨7, 0x27, 0x15, 0x2B, 0x0D, 0x005, false, false⟩),
   (.q4dec, ⟨7, 0x27, 0x15, 0x2B, 0, 0x103, false, false⟩), (.frcp, ⟨7, 0x27, 0, 0x2B, 0, 0x200, false, false⟩),
   (.frsq, ⟨7, 0x27, 0, 0x2B, 0, 0x000, false, false⟩), (.fsqrt, ⟨7, 0x27, 0, 0x2B, 0, 0x100, false, false⟩),
   (.fex2, ⟨7, 0x27, 0, 0x2B, 0, 0x000, false, false⟩), (.flg2, ⟨7, 0x27, 0, 0x2B, 0, 0x000, false, false⟩),
   (.fsin, ⟨7, 0x27, 0, 0x2B, 0, 0x000, false, false⟩), (.fcos, ⟨7, 0x27, 0, 0x2B, 0, 0x000, false, false⟩),
   (.ftanh, ⟨7, 0x27, 0, 0x2B, 0, 0x000, false, false⟩), (.fact, ⟨7, 0x27, 0, 0x2B, 0, 0x000, false, false⟩),
   (.atld, ⟨7, 0, 0x15, 0, 0x10, 0x801, false, false⟩), (.atsel, ⟨7, 0, 0, 0, 0, 0x002, false, false⟩),
   (.shfl, ⟨7, 0x27, 0x15, 0x2B, 6, 0x002, false, false⟩), (.vote, ⟨7, 5, 2, 0, 0, 0x001, false, false⟩),
   (.matchk, ⟨7, 0x27, 0x15, 0, 0, 0x001, false, false⟩), (.redux, ⟨7, 0x27, 0x15, 0, 0, 0x105, false, false⟩),
   (.redix, ⟨7, 0x26, 0x15, 0, 0, 0x100, false, false⟩), (.scan, ⟨7, 0x27, 0x15, 0, 0, 0x018, false, false⟩),
   (.setpart, ⟨7, 0, 0, 0, 0x10, 0x800, false, false⟩), (.actv, ⟨7, 0x27, 0, 0, 0, 0x001, false, false⟩),
   (.lds, ⟨7, 0x28, 0x15, 0x2B, 0, 0x048, false, false⟩), (.sts, ⟨7, 0x28, 0x15, 0x2B, 0, 0x0A9, false, false⟩),
   (.ldsa, ⟨7, 0x27, 0x15, 0x2B, 0, 0x003, false, false⟩), (.stsr, ⟨7, 0x27, 0x15, 0x2B, 0, 0x002, false, false⟩),
   (.atms, ⟨7, 0x27, 0x15, 0x2B, 0, 0x0CB, false, false⟩), (.ldw, ⟨7, 0x27, 0x15, 0, 0x10, 0xD00, false, false⟩)]
/-- A word of every form. -/
def formsA4 : List (Op × Fields) :=
  [(.fence, ⟨7, 0, 0, 0, 0, 0x0E8, false, false⟩), (.bar, ⟨7, 0, 0, 0, 0, 0x013, false, false⟩),
   (.xbarInit, ⟨7, 0, 0x15, 0x2B, 0, 0x000, false, false⟩), (.xbarArrive, ⟨7, 0, 0x15, 0x2B, 0, 0x001, false, false⟩),
   (.xbarWait, ⟨7, 0, 0x15, 0, 0, 0x002, false, false⟩), (.xbarInval, ⟨7, 0, 0x15, 0, 0, 0x003, false, false⟩),
   (.cpy, ⟨7, 9, 0x0A, 0xFF, 0, 0x003, false, false⟩), (.cpyg, ⟨7, 9, 0x0A, 0xFF, 0x0D, 0x001, false, false⟩),
   (.cpys, ⟨7, 9, 0x0A, 0xFF, 0x0D, 0x002, false, false⟩), (.cpyr, ⟨7, 9, 0x0A, 0xFF, 0, 0x120, false, false⟩),
   (.ldg, ⟨7, 0x27, 0x16, 0, 0, 0x368, false, false⟩), (.stg, ⟨7, 0, 0x16, 0x2B, 0, 0x090, false, false⟩),
   (.atmg, ⟨7, 0x27, 0x16, 0x2B, 0, 0x04C, false, false⟩), (.cqjoin, ⟨7, 0, 0, 0, 0, 0x005, false, false⟩),
   (.smap, ⟨7, 3, 0x15, 0x2A, 0x0D, 0x000, false, false⟩), (.ssync, ⟨7, 3, 0, 0, 0, 0x000, false, false⟩),
   (.sinv, ⟨7, 3, 0, 0, 0, 0x000, false, false⟩), (.sclose, ⟨7, 3, 0, 0, 0, 0x000, false, false⟩),
   (.pref, ⟨7, 0, 0x16, 0, 0x10, 0x802, false, false⟩), (.hld, ⟨7, 9, 0x15, 0, 0x10, 0x809, false, false⟩),
   (.hst, ⟨7, 9, 0x15, 0, 0x10, 0x800, false, false⟩), (.hset, ⟨7, 9, 0x15, 0, 0, 0x006, false, false⟩),
   (.hget, ⟨7, 0x27, 0x0A, 0, 0, 0x007, false, false⟩), (.hcpy, ⟨7, 9, 0x0A, 0, 0, 0x000, false, false⟩),
   (.hadv, ⟨7, 9, 0x15, 0, 0, 0x002, false, false⟩), (.mclr, ⟨7, 6, 0x15, 0, 0, 0x000, false, false⟩),
   (.mtile, ⟨7, 6, 0x0A, 0x0B, 0x0D, 0x002, false, false⟩), (.mcvt, ⟨7, 9, 5, 0, 0x0D, 0x009, false, false⟩),
   (.mld, ⟨7, 6, 0x15, 0, 0x10, 0x800, false, false⟩), (.mexp, ⟨7, 6, 0x15, 0, 0x10, 0x800, false, false⟩)]
/-- A word of every form. -/
def formsA5 : List (Op × Fields) :=
  [(.mstat, ⟨7, 0x27, 5, 0, 0, 0x000, false, false⟩), (.mfmt, ⟨7, 0x27, 0x15, 0, 0, 0x001, false, false⟩),
   (.tspawn, ⟨7, 0, 0x16, 0x28, 0, 0x000, false, false⟩), (.qrsv, ⟨7, 0x24, 0x16, 0, 0, 0x001, false, false⟩),
   (.qenq, ⟨7, 0, 0x16, 0x20, 0, 0x000, false, false⟩), (.qdeq, ⟨7, 0x30, 0x16, 0, 0, 0x000, false, false⟩),
   (.qtry, ⟨7, 0x30, 0x16, 0, 6, 0x000, false, false⟩), (.qsteal, ⟨7, 0x30, 0x16, 0, 6, 0x000, false, false⟩),
   (.qerr, ⟨7, 0, 0x16, 0, 0x10, 0x800, false, false⟩), (.qrest, ⟨7, 0, 0x16, 0x2B, 0, 0x000, false, false⟩),
   (.qstat, ⟨7, 0x24, 0x16, 0, 0, 0x000, false, false⟩), (.succ, ⟨7, 0, 0, 0, 0, 0x000, false, false⟩),
   (.wvis, ⟨7, 0, 0, 0, 0, 0x000, false, false⟩), (.rsurr, ⟨7, 0, 0, 0, 2, 0x800, false, false⟩),
   (.rclaim, ⟨7, 0, 0, 0, 2, 0x800, false, false⟩), (.rstart, ⟨7, 0, 0x16, 0, 0, 0x000, false, false⟩),
   (.rchild, ⟨7, 0, 0, 0x28, 0, 0x000, false, false⟩), (.rdone, ⟨7, 0, 0, 0, 0, 0x000, false, false⟩),
   (.rret, ⟨7, 0, 0, 0, 0, 0x000, false, false⟩), (.rres, ⟨7, 0x24, 0, 0x2B, 0, 0x000, false, false⟩),
   (.rinfo, ⟨7, 0x26, 0, 0, 0, 0x000, false, false⟩), (.rbase, ⟨7, 0, 0, 0, 0, 0x000, false, false⟩),
   (.rabort, ⟨7, 0, 0, 0, 0, 0x000, false, false⟩), (.bra, ⟨7, 0x24, 0x15, 0x2B, 0x0D, 0x000, false, false⟩),
   (.brx, ⟨7, 0, 0x16, 0, 0, 0x000, false, false⟩), (.call, ⟨7, 0x26, 0x15, 0x2B, 0x0D, 0x000, false, false⟩),
   (.callx, ⟨7, 0x26, 0x16, 0, 0, 0x000, false, false⟩), (.ret, ⟨7, 0, 0x16, 0, 0, 0x000, false, false⟩),
   (.exit, ⟨7, 0, 0, 0, 0, 0x000, false, false⟩), (.yield, ⟨7, 0, 0, 0, 0, 0x000, false, false⟩)]
/-- A word of every form. -/
def formsA6 : List (Op × Fields) :=
  [(.nop, ⟨7, 0, 0, 0, 0, 0x000, false, false⟩), (.trap, ⟨7, 0, 0x15, 0, 0, 0x000, false, false⟩),
   (.tret, ⟨7, 0, 0, 0, 0, 0x000, false, false⟩), (.sysc, ⟨7, 0x26, 0x18, 0, 0x10, 0x800, false, false⟩),
   (.srd, ⟨7, 0x27, 0, 0, 0, 0x00E, false, false⟩), (.swr, ⟨7, 0, 0x15, 0, 0, 0x010, false, false⟩),
   (.bkpt, ⟨7, 0, 0, 0, 0, 0x000, false, false⟩), (.ackn, ⟨7, 0x27, 0, 0, 0, 0x000, false, false⟩),
   (.wflg, ⟨7, 0, 0, 0, 0x10, 0x800, false, false⟩)]
/-- A machine of one thread whose registers are all 0, in a warp of 8 blocks. -/
def one : State := (box [th0]).modW 0 0 (fun w => { w with blocks := 8 })
/-- The instruction of a form and its words have their parts, and the pack of one thread goes past its checks, in both modes. -/
noncomputable def meets (s : State) (x : Op × Fields) : Bool :=
  decide (insOf (nativeInstr x.1 x.2) = some (nat x.1 x.2) ∧ s.passes (nat x.1 x.2) ∧ s.guardsClean (nat x.1 x.2)
    ∧ insOf (prerinInstr x.1 ⟨true, true, x.2, 0⟩) = some (pri x.1 ⟨true, true, x.2, 0⟩) ∧ s.passes (pri x.1 ⟨true, true, x.2, 0⟩))

/-! Every form passes its checks somewhere, native and Prerin, so that WordOperationsAndSums, CarryForms, TableBitSelected,
ShiftsAndRotates, CountsOfBits, IntegerFormsAndValues, FloatFormsAndValues, ConversionsOfValues, SpecialOperandsAndExactCases,
SpecialFunctionsWithinBounds, MinimumAndMaximumOfFloats, TileOperationsAndPartitions and VotesAndActiveMasks speak of each of their forms. -/
theorem meets_every_form_1 : formsA1.all (meets one) = true := by decide
theorem meets_every_form_2 : formsA2.all (meets one) = true := by decide
theorem meets_every_form_3 : formsA3.all (meets one) = true := by decide
theorem meets_every_form_4 : formsA4.all (meets one) = true := by decide
theorem meets_every_form_5 : formsA5.all (meets one) = true := by decide
theorem meets_every_form_6 : formsA6.all (meets one) = true := by decide

/-! The machine of the other witnesses: device 1 with page 0 in frame 5 of die 0, its code at 0x400 (a header of two words, then
nop) cached, one region, activation bank 3 of core 0 its own, core 1 and its banks nobody's. -/

/-- The header at 0x400. -/
def hdr0 : DWord := 0x8003_FC40_0000_0000
/-- The line of code there. -/
def line0 : ICLine := ⟨1, 0x10, [hdr0, 0x3077_0000_0000_0000, 0x3077_0000_0000_0000, 0x3077_0000_0000_0000]⟩
/-- A resident core. -/
def core0 : Core := { Core.zero 0 with l1 := [line0], quads := List.replicate 4 ⟨.hard 1, [], 0, none⟩, banks := [(3, ⟨some 1, [(8, ⟨7, false⟩)]⟩), (4, ActBank.void)] }
/-- Die 0 of the witnesses. -/
def die0 : Die :=
  { Die.zero with
      cores := [(0, core0)]
      tlb := [⟨1, 0, 0x5000F, false, 0, false⟩]
      icache := [line0]
      owners := [(5, 1)] }
/-- A region of device 1. -/
def reg0 : Region := ⟨1, 0x200, 0, none, 0x7FF, true, 4, 512, 32, 64, 15, 4, 32, 64, 64, 64, true⟩
/-- Device 1. -/
def dev1 : VDev := ⟨1, 0, 100, 0, false, true, [(0, 5)], ⟨4, 4, 4, 4, 64, 64, 20, 4, true⟩, 0, [], false⟩
/-- The machine with a workgroup changed by `f`, in which the threads `ts` make the pack. -/
def site (ts : List Thread) (f : Group → Group) : State :=
  { State.reset with
      dies := [die0, Die.zero, Die.zero, Die.zero], vdevs := [dev1], regions := [reg0], groups := [f (group0 ts)]
      pack := ⟨0, 0, List.range ts.length⟩ }
/-- Thread 0 alone of the machine. -/
def solo (l : List (Nat × Word)) : State := site [thr l] id
/-- The warp of a group changed. -/
def inWarp (f : Warp → Warp) (g : Group) : Group := g.modW 0 f
/-- A form's instruction has its parts and is alone in thread 0 of a machine. -/
noncomputable def aloneIn (s : State) (o : Op) (f : Fields) : Bool := decide (insOf (nativeInstr o f) = some (nat o f) ∧ s.alone (nat o f) 0)
/-- A form's instruction has its parts and its pack executes it once. -/
noncomputable def onceIn (s : State) (o : Op) (f : Fields) : Bool := decide (insOf (nativeInstr o f) = some (nat o f) ∧ s.together (nat o f))

/-- ActivationsEvaluated: on an owned bank for a signalling NaN, the infinities and a number, and on a bank nobody owns. -/

theorem meets_ActivationsEvaluated : (∀ v ∈ [0x7F800001, 0xFF800000, 0x7F800000, 0x3F800000], ∀ k ∈ [3, 4],
    let s := site [thr [(2, BitVec.ofNat 32 v)]] (inWarp (fun w => { w with bank := some k }))
    meets s (.fact, fw 1 0 2 0 0) = true ∧ s.pwrp.bank = some k
      ∧ (k = 3 ↔ (FMap.get ActBank.void (s.core s.pgrp.die s.pgrp.core).banks k).owner ≠ none)) := by decide
/-- PartitionIsSet (of TileOperationsAndPartitions). -/
theorem meets_PartitionIsSet : onceIn (site [th0, th0] id) .setpart (fw 0 0 0 8 0x800) = true := by decide
/-- PairedHalvesReadBeforeWriting: the P word of Table 4-5. -/
theorem meets_PairedHalvesReadBeforeWriting :
    let u : HalfFields := ⟨3, 7, 4, 5, 0⟩
    let l : HalfFields := ⟨0x42, 7, 9, 6, 0⟩
    let s := solo [(5, 1)]
    ∃ a b, halfIns u (encodeP u l) = some a ∧ halfIns l (encodeP u l) = some b ∧ s.packReady
      ∧ regTrap s.pwrp.blocks (a.regs ++ b.regs) none = none ∧ s.pwrp.need (a.use.and b.use) = []
      ∧ (∀ t ∈ s.pack.ts, (s.pthr t).waits (a.use.and b.use) = false) ∧ s.guardsClean a ∧ s.guardsClean b :=
  ⟨_, _, rfl, rfl, by decide⟩
/-- ClauseBoundaries: no notice due; one due. -/
theorem meets_ClauseBoundaries : ((solo []).packReady ∧ ∀ u ∈ (solo []).pack.ts, ((solo []).pthr u).noticeDue = false)
    ∧ (let s := site [{ th0 with notice := true, status := 0x11 }] id
       s.packReady ∧ s.pack.ts = [0] ∧ (s.pthr 0).noticeDue = true ∧ s.pwrp.kd.trap ≠ 0) := by decide
/-- GuardsDecide: an add under a false p0, a branch under it, an add under a poisoned p0. -/
theorem meets_GuardsDecide :
    (∀ x ∈ [(Op.add, (⟨0, 6, 4, 5, 0, 0, false, false⟩ : Fields)), (.bra, ⟨0, 0, 0, 4, 0, 0, false, false⟩)],
      insOf (nativeInstr x.1 x.2) = some (nat x.1 x.2) ∧ (solo []).passes (nat x.1 x.2) ∧ (solo []).pwrp.slow = false
        ∧ ∀ u ∈ (solo []).pack.ts, ((solo []).pthr u).guard x.2.guard = .skip)
    ∧ (let s := site [{ th0 with p := [(0, ⟨false, true⟩)] }] id
       s.passes (nat .add ⟨0, 6, 4, 5, 0, 0, false, false⟩) ∧ s.pwrp.slow = false ∧ ((s.pthr 0).pred 0).p = true ∧ s.trapsAt 0 0 0) := by
  decide
/-- WordsThatTrapInEveryThread: g255's neighbour outside 16 blocks of a warp of 2, an odd pair, and ill. -/
theorem meets_WordsThatTrapInEveryThread :
    let s := site [th0, th0] (inWarp (fun w => { w with blocks := 2 }))
    s.packReady ∧ s.pwrp.slow = false ∧ (∀ u ∈ s.pack.ts, s.trapsAt 0 0 u)
    ∧ (let n := nat .add (fw 6 4 32 0 0)
       warpTrap s.pwrp n (s.pthr 0) = none
       ∧ n.regs.find? (fun k => !(k == 255 || (decide (k < 16 * s.pwrp.blocks) && decide (k < 255)))) = some 32)
    ∧ (let n := nat .mulw (fw 7 4 5 0 0)
       warpTrap s.pwrp n (s.pthr 0) = none ∧ n.odd = some 7
       ∧ n.regs.all (fun k => k == 255 || (decide (k < 16 * s.pwrp.blocks) && decide (k < 255))) = true) := by decide
/-- TrapsTakenAndEscalated: trap and bkpt of a thread that can take a trap, and of one that runs its handler. -/
theorem meets_TrapsTakenAndEscalated :
    (∀ x ∈ [(Op.trap, fw 0 0 0 0x42 0x800), (.trap, fw 0 4 0 0 0), (.bkpt, fw 0 0 0 1 0x800)],
      aloneIn (solo []) x.1 x.2 = true ∧ (solo []).trapsAt 0 0 0
      ∧ (let s := site [{ th0 with status := 0x1001 }] id
         aloneIn s x.1 x.2 = true ∧ (s.pthr 0).hnd = true ∧ (s.pthr 0).live = true ∧ s.pgrp.alive = true)) := by decide
/-- TretResumes: to Prerin code at 0x404, to word 1 of the clause at 0x400 and behind that clause. -/
theorem meets_TretResumes : (∀ x ∈ [(0x404, 0), (0x401, 1), (0x401, 3)],
    let s := site [{ th0 with status := 0x1001, tpc := BitVec.ofNat 64 x.1, trix := BitVec.ofNat 32 x.2 }] id
    let h := (s.pthr 0).tpc &&& ~~~1#64
    aloneIn s .tret (fw 0 0 0 0 0) = true ∧ (s.pthr 0).hnd = true
    ∧ (((s.pthr 0).tpc.getLsbD 0 = false ∧ h.toNat % 4 = 0)
      ∨ ((s.pthr 0).tpc.getLsbD 0 = true ∧ h.toNat % 8 = 0 ∧ s.fetchWord s.pgrp.die s.pgrp.core s.pgrp.vdev h.toNat = .ok (s, hdr0)
          ∧ hdr0.extractLsb' 62 2 = 2 ∧ (s.pthr 0).trix.toNat ≤ (headerOfWord hdr0).len.toNat + 1))) := by decide
/-- BranchesAreTaken: bra and call by −1 word, brx, ret and callx through a pair, to native code at 0x400. -/
theorem meets_BranchesAreTaken : (∀ x ∈ [(Op.bra, fw 0xFF 0xFF 0xFF 0xFF 0), (.call, fw 8 0xFF 0xFF 0xFF 0), (.brx, fw 0 4 0 0 0), (.ret, fw 0 4 0 0 0), (.callx, fw 8 4 0 0 0)],
    let s := solo [(4, 0x401)]
    aloneIn s x.1 x.2 = true ∧ ((s.pthr 0).reg64 4).toNat = 0x401 ∧ (s.pthr 0).mode = .native
    ∧ ((s.pthr 0).direct (dispBra (fw 0xFF 0xFF 0xFF 0xFF 0))).toNat = 0x400
    ∧ ((s.pthr 0).direct (dispCall (fw 8 0xFF 0xFF 0xFF 0))).toNat = 0x400
    ∧ s.codeWord s.pgrp.die s.pgrp.core s.pgrp.vdev 0x400 = .ok hdr0 ∧ hdr0.extractLsb' 62 2 = 2)
    ∧ (let s := solo [(4, 0x404)]
       aloneIn s .brx (fw 0 4 0 0 0) = true ∧ ((s.pthr 0).reg64 4).getLsbD 0 = false ∧ ((s.pthr 0).reg64 4).toNat % 4 = 0) := by decide
/-- BadTargetsTrap: a native target that is no header, a misaligned one, and a misaligned Prerin one. -/
theorem meets_BadTargetsTrap :
    (let s := solo [(4, 0x409)]
     aloneIn s .brx (fw 0 4 0 0 0) = true ∧ aloneIn s .ret (fw 0 4 0 0 0) = true ∧ aloneIn s .callx (fw 8 4 0 0 0) = true
     ∧ s.trapsAt 0 0 0 ∧ s.codeWord s.pgrp.die s.pgrp.core s.pgrp.vdev 0x408 = .ok 0x3077_0000_0000_0000 ∧ (0x3077_0000_0000_0000#64).extractLsb' 62 2 ≠ 2
     ∧ aloneIn s .bra (fw 0 0 0 0 0) = true ∧ aloneIn s .call (fw 8 0 0 0 0) = true
     ∧ ((s.pthr 0).direct (dispBra (fw 0 0 0 0 0))).toNat = 0x408 ∧ ((s.pthr 0).direct (dispCall (fw 8 0 0 0 0))).toNat = 0x408)
    ∧ (let s := solo [(4, 0x402)]
       aloneIn s .brx (fw 0 4 0 0 0) = true ∧ ((s.pthr 0).reg64 4).getLsbD 0 = false ∧ (((s.pthr 0).reg64 4) &&& ~~~1#64).toNat % 4 ≠ 0)
    ∧ (let s := solo [(4, 0x405)]
       ((s.pthr 0).reg64 4).getLsbD 0 = true ∧ (((s.pthr 0).reg64 4) &&& ~~~1#64).toNat % 8 ≠ 0) := by decide
/-- SpecialRegisters: swr of %status, of %tpc and %tix in a handler, srd of a 64-bit and of a 32-bit register. -/
theorem meets_SpecialRegisters :
    (let s := solo [(4, 0x47)]
     aloneIn s .swr (fw 0 4 0 0 0x10) = true ∧ (((s.pthr 0).reg 4).v.extractLsb' 6 2).toNat ≤ 1
     ∧ aloneIn s .srd (fw 8 0 0 0 0x0F) = true ∧ aloneIn s .srd (fw 7 0 0 0 0x0E) = true)
    ∧ (let s := site [{ th0 with status := 0x1001 }] id
       aloneIn s .swr (fw 0 4 0 0 0x11) = true ∧ aloneIn s .swr (fw 0 4 0 0 0x12) = true ∧ (s.pthr 0).hnd = true) := by decide
/-- NoticesFlagsYieldCallsAndExit: ackn, wflg of a flag that is set and of one that is not, yield, sysc, exit. -/
theorem meets_NoticesFlagsYieldCallsAndExit :
    let s := site [{ th0 with f := [(2, 1)] }] id
    aloneIn s .ackn (fw 7 0 0 0 0) = true ∧ aloneIn s .wflg (fw 0 0 0 4 0x800) = true ∧ (s.pthr 0).flagsSet 4 = true
    ∧ aloneIn s .wflg (fw 0 0 0 2 0x800) = true ∧ (s.pthr 0).flagsSet 2 = false
    ∧ aloneIn s .yield (fw 0 0 0 0 0) = true ∧ s.pwrp.quad < (s.core s.pgrp.die s.pgrp.core).quads.length ∧ s.pgrp.die < s.dies.length
    ∧ aloneIn s .sysc (fw 8 16 0 3 0x800) = true ∧ (s.pthr 0).sysc = false ∧ s.pwrp.cmdBusy 0 = false ∧ s.pgrp.bankBusy (tid 0 0) = false ∧ (s.die 0).paths = []
    ∧ aloneIn s .exit (fw 0 0 0 0 0) = true ∧ (s.pthr 0).isLane = false := by decide
/-- The workgroup with nothing outstanding that an access of thread 0 to scratch waits for. -/
def scrFree (s : State) (n : Ins) (off len : Nat) (store : Bool) : Bool :=
  decide (s.pwrp.slow = false ∧ (s.pthr 0).flagRoom (n.flagOf (s.pthr 0)) ∧ s.pgrp.filesWf = true ∧ off + len ≤ s.pgrp.scrSize
    ∧ s.pgrp.xbHit off len = false ∧ s.scrHold 0 0 0 off len store = none ∧ s.relHold 0 0 0 3 true = none ∧ s.acqHold 0 0 0 = none
    ∧ s.pgrp.bankHit (tid 0 0) off len = false)
/-- A workgroup without Touchstone tags has no conflict. -/
theorem tsFree_of_no_tags (x : Group) (h : x.tags = []) (u off n : Nat) (write sub : Bool) : x.tsFree u off n write sub := by
  intro k _ v
  simp [Group.tsMeets, Group.tag, h, FMap.get, Tag.empty]
/-- ScratchLoadsAndStores: a byte, an acquire, a pair, a run of four at the last words of scratch, a poisoned address; releases and runs stored; an access that
waits in its bank queue, by the choice of the machine and behind an earlier one of its words; with TSM 0 and, where no tag is set, TSM 1. -/
theorem meets_ScratchLoadsAndStores :
    let s := solo [(2, 0x3FF0), (8, 1), (9, 2), (10, 3), (11, 4)]
    (∀ x ∈ [(Op.lds, fw 6 2 0 15 0xC00), (.lds, fw 6 2 0 12 0x848), (.lds, fw 6 2 0 8 0xE00), (.lds, fw 8 2 0 0 0x802), (.ldsa, fw 5 2 0 4 0x802),
        (.sts, fw 9 2 0 15 0xC00), (.sts, fw 9 2 0 12 0x898), (.sts, fw 8 2 0 8 0xE00), (.sts, fw 8 2 0 0 0x802), (.stsr, fw 9 2 0 4 0x802)],
      let n := nat x.1 x.2
      let f := if x.1 = .lds ∨ x.1 = .sts then n.formV else n.formN
      let off := 0x3FF0 + n.immZ
      aloneIn s x.1 x.2 = true ∧ ((s.pthr 0).reg n.a).v.toNat = 0x3FF0 ∧ ((s.pthr 0).reg n.a).p = false ∧ off % f.al = 0
        ∧ (f.n = 1 ∨ f.w = 4) ∧ scrFree s n off (f.w * f.n) (x.1 = .sts ∨ x.1 = .stsr) = true)
    ∧ (let s := site [{ th0 with g := [(2, ⟨0, true⟩)] }] id
       aloneIn s .lds (fw 6 2 0 0 0x800) = true ∧ ((s.pthr 0).reg 2).p = true ∧ s.acqHold 0 0 0 = none ∧ s.pwrp.slow = false
       ∧ (s.pthr 0).flagRoom none ∧ s.pgrp.filesWf = true)
    ∧ s.waitsBank 0 0 0 0x3FF0 4 = false ∧ ({ s with late := [1] } : State).waitsBank 0 0 0 0x3FF0 4 = true
    ∧ (site [th0] (fun g => { g with bank := [⟨1, 0, 0x3FF0, 4, 1, .load 5 false, none, 0⟩] })).waitsBank 0 0 0 0x3FF0 4 = true
    ∧ (s.pthr 0).tsm ≠ 1 := by decide
/-- With TSM 1 and without tags. -/
theorem meets_ScratchLoadsAndStores_tsm : let s := site [{ th0 with status := 0x40, g := [(2, ⟨0x3FF0, false⟩)] }] id
    ((s.pthr 0).tsm = 1 ∧ aloneIn s .lds (fw 6 2 0 0 0x800) = true ∧ aloneIn s .sts (fw 6 2 0 0 0x800) = true)
    ∧ ∀ w, s.pgrp.tsFree 0 0x3FF0 4 w false :=
  ⟨by decide, fun w => tsFree_of_no_tags _ rfl 0 0x3FF0 4 w false⟩
/-- ScratchAccessesTrap: misaligned, one byte beyond the workgroup's scratch, a store and an atomic at a transfer barrier. -/
theorem meets_ScratchAccessesTrap :
    (let s := site [thr [(2, 0x3FFE), (3, 0x100)]] (fun g => { g with xbars := [0x100] })
     s.pwrp.slow = false ∧ s.trapsAt 0 0 0 ∧ (s.pthr 0).flagRoom none ∧ aloneIn s .lds (fw 6 2 0 0 0x800) = true ∧ 0x3FFE % 4 ≠ 0
     ∧ aloneIn s .ldsa (fw 6 2 0 2 0x800) = true ∧ s.pgrp.scrSize < 0x3FFE + 2 + 4
     ∧ aloneIn s .sts (fw 6 3 0 4 0x800) = true ∧ aloneIn s .stsr (fw 6 3 0 4 0x800) = true ∧ s.pgrp.xbHit 0x104 4 = true
     ∧ aloneIn s .atms (fw 6 3 8 0 0) = true ∧ s.pgrp.xbHit 0x100 4 = true) := by decide
/-- ScratchAccessesTrap: a load and a store of a word that another thread wrote, a store of one that another read, of a byte by the
side of another's byte, and of one that several read, by a thread whose TSM is 1. -/
theorem meets_ScratchAccessesTrap_tsm :
    let s := site [{ th0 with status := 0x40, g := [(2, ⟨0x40, false⟩)] }] (fun g => { g with
      tags := [(0x10, ⟨some 5, none, false, 0, false⟩), (0x11, ⟨none, some 6, false, 0, false⟩), (0x12, ⟨some 0, some 7, true, 0, false⟩)] })
    (∀ x ∈ [(Op.lds, 0), (.ldsa, 0), (.sts, 0), (.stsr, 4), (.sts, 8)], aloneIn s x.1 (fw 6 2 0 x.2 0x800) = true)
    ∧ (s.pthr 0).tsm = 1 ∧ s.trapsAt 0 0 0 ∧ (s.pthr 0).flagRoom none ∧ s.pwrp.threads.length ≤ 32
    ∧ (∀ k ∈ [0x10, 0x11, 0x12], k ∈ Machine.wordsOf (4 * k) 4 ∧ s.scrHold 0 0 0 (4 * k) 4 true = none ∧ s.scrHold 0 0 0 (4 * k) 4 false = none)
    ∧ s.pgrp.tsMeets 0 0x10 false false 5 ∧ s.pgrp.tsMeets 0 0x10 true false 5 ∧ s.pgrp.tsMeets 0 0x11 true false 6
    ∧ s.pgrp.tsMeets 0 0x12 true false 7 := by decide
/-- ScratchAtomics: each operation, on a word and on a pair, with an acquire and release. -/
theorem meets_ScratchAtomics :
    let s := solo [(2, 0x40), (8, 1), (10, 5)]
    (∀ k ∈ [0, 1, 2, 3, 4, 5, 6, 7], ∀ ty ∈ [0, 7],
      let f := fw 6 2 8 (if k = 7 then 10 else 0) (BitVec.ofNat 12 (ty * 256 + 0xC8 + k))
      aloneIn s .atms f = true ∧ (nat .atms f).mb 0 3 = k ∧ ((nat .atms f).w = 32 ∨ (nat .atms f).w = 64) ∧ 0x40 % ((nat .atms f).w / 8) = 0
        ∧ scrFree s (nat .atms f) 0x40 ((nat .atms f).w / 8) true = true) := by decide
/-- WindowReadsFencesAndBarriers, of ldw: a poisoned address, an unbound window, the last bytes of a window and beyond it. -/
theorem meets_WindowReads_ldw :
    (let s := site [{ th0 with g := [(2, ⟨0, true⟩)] }] id
     aloneIn s .ldw (fw 6 2 0 0 0x800) = true ∧ ((s.pthr 0).reg 2).p = true)
    ∧ (let s := site [th0] (fun g => { g with wins := [(1, (0x1000, 6))] })
       aloneIn s .ldw (fw 6 2 0 0 0x800) = true ∧ (s.pthr 0).flagRoom none ∧ (FMap.get (0, 0) s.pgrp.wins 0).2 = 0 ∧ s.trapsAt 0 0 0
       ∧ aloneIn s .ldw (fw 6 2 0 4 0x801) = true ∧ FMap.get (0, 0) s.pgrp.wins 1 = (0x1000, 6)
       ∧ ((List.range 2).foldl (fun r j => r.drainTo s.pgrp.die s.pgrp.vdev (0x1000 + 4 + j)) s) = s
       ∧ okOf (s.charge s.pgrp.die s.pgrp.vdev [⟨0x1004, 2, .read⟩]) = some s ∧ s.readB s.pgrp.die s.pgrp.vdev (0x1000 + 4) = .ok (0, false) ∧ s.readB s.pgrp.die s.pgrp.vdev (0x1000 + 5) = .ok (0, false)) := by decide
/-- Of the fences and barriers: a fence with acquire and release, bar.wait, and bar.arrive and bar.sync of the last thread of the phase and of another. -/
theorem meets_WindowReads_fences :
    (∀ k ∈ [1, 2], let s := site (List.replicate k th0) (fun g => { g with warps := g.warps.map (fun w => { w with threads := th0 :: List.replicate (k - 1) { th0 with tix := 2 } }) })
      let s := { s with pack := ⟨0, 0, [0]⟩ }
      aloneIn s .fence (fw 0 0 0 0 0xD8) = true ∧ (s.pthr 0).flagRoom none ∧ s.relHold 0 0 0 3 true = none ∧ s.acqHold 0 0 0 = none
      ∧ aloneIn s .bar (fw 0 0 0 0 0x023) = true ∧ aloneIn s .bar (fw 0 0 0 0 0x013) = true ∧ aloneIn s .bar (fw 0 0 0 0 0x033) = true
      ∧ NSet.has (FMap.get Bar.zero s.pgrp.bars 3).arrived (tid 0 0) = false ∧ s.pgrp.bankBusy (tid 0 0) = false ∧ s.pgrp.liveIds.length = k) := by decide
/-- Of the transfer barriers: a new object, an arrival that does not complete its phase and one that does, a wait and an invalidation. -/
theorem meets_WindowReads_xbar :
    let s := site [thr [(2, 0x100), (3, 0x200)]] (fun g => { g with xbars := [0x200], scr := [(0x200, 3), (0x204, 1)] })
    (s.pthr 0).flagRoom none ∧ s.pgrp.filesWf = true ∧ s.pgrp.bankBusy (tid 0 0) = false ∧ s.xbHold 0 0 0 0x100 = none
    ∧ s.xbHold 0 0 0 0x200 = none ∧ 0x200 + 16 ≤ s.pgrp.scrSize
    ∧ aloneIn s .xbarInit (fw 0 2 0 128 0x800) = true ∧ s.pgrp.xbWaiters 0x100 = 0 ∧ s.pgrp.xbNamed 0x100 = false
    ∧ aloneIn s .xbarArrive (fw 0 3 0 1 0x801) = true ∧ aloneIn s .xbarArrive (fw 0 3 0 2 0x801) = true ∧ s.pgrp.xbValid 0x200 = true
    ∧ leNat (fun a => FMap.get 0 s.pgrp.scr a) 0x200 4 = 3 ∧ leNat (fun a => FMap.get 0 s.pgrp.scr a) 0x204 4 = 1
    ∧ aloneIn s .xbarWait (fw 0 3 0 0 2) = true ∧ aloneIn s .xbarInval (fw 0 3 0 0 3) = true
    ∧ s.pgrp.xbWaiters 0x200 = 0 ∧ s.pgrp.xbNamed 0x200 = false := by decide

/-! A warp with shape registers: h0 a box of 4 words in global memory, h1 the same in scratch, h2 an FP8 box of one row. -/

/-- A box of 4 words: of space `sp` at `base`. -/
def box4 (sp : Word) (base : Word) : Shape :=
  shape [(0, base), (2, sp), (3, 32), (4, 4), (5, 1), (6, 1), (7, 1), (8, 4), (9, 4), (10, 4), (11, 0x10004), (12, 0x10001)]
/-- The machine with two threads in whose warp h0 is in global memory and h1 in scratch, and f3 the flag FA. -/
def copies : State :=
  site [{ thr [(2, 0x200), (3, 0x40), (4, 0x500), (8, 1), (9, 2)] with fa := 3 }, { thr [(2, 0x200), (3, 0x40), (4, 0x600)] with fa := 3 }]
    (fun g => inWarp (fun w => { w with shapes := [(0, box4 1 0x100), (1, box4 0 0x80)] }) { g with xbars := [0x200], scr := [(0x200, 3)] })
/-- CopiesAndGlobalAccessesEnterTheirQueues: a copy that credits a barrier, gather, scatter and reduce. -/
theorem meets_CopiesAndGlobalAccesses_copies : (∀ x ∈ [(Op.cpy, fw 1 0 2 0 0x004), (.cpyg, fw 1 0 255 3 1), (.cpys, fw 0 1 255 3 2), (.cpyr, fw 1 0 255 0 0x103)],
    let n := nat x.1 x.2
    let s := copies
    onceIn s x.1 x.2 = true ∧ s.pgrp.copyTrap s.pwrp n (n.copyOp s.pwrp (s.pthr 0)) = none ∧ n.mb 0 2 < s.pwrp.cqs.length
      ∧ (s.pwrp.cqs.getD (n.mb 0 2) []).length < 16 ∧ s.boardRoom 0 3 = true) := by decide
/-- The other commands and a join. -/
theorem meets_CopiesAndGlobalAccesses_threads : (∀ x ∈ [(Op.ldg, (⟨7, 10, 4, 0, 8, 0x803, true, false⟩ : Fields)), (.stg, fw 0 4 8 0 0x701),
      (.atmg, fw 10 4 8 0 0x04C), (.pref, fw 0 4 0 64 0x802), (.cqjoin, fw 0 0 0 0 5)],
    let n := nat x.1 x.2
    onceIn copies x.1 x.2 = true ∧ copies.pwrp.cqs.length = 4
      ∧ (∀ q < 4, (copies.pwrp.cqs.getD q []).length < 16) ∧ (x.1 = .cqjoin → n.mb 0 4 = 5)) := by decide
/-- SpansAreBoundAndUnbound: a binding, one that meets another, one misaligned, and ssync, sclose and sinv of a span that is bound and of one that is
not. -/
theorem meets_SpansAreBoundAndUnbound :
    let s := site [thr [(1, 0x400), (2, 0x1000), (4, 0x800), (5, 0x401), (6, 0x800)]] (fun g =>
      { g with spans := [(2, some ⟨0x400, 0x4000, 0x400, [(0, ⟨true, false, [], 0, []⟩)], []⟩)] })
    s.pgrp.filesWf = true ∧ s.trapsAt 0 0 0
    ∧ onceIn s .smap (fw 1 6 2 1 0) = true ∧ ((s.pthr 0).reg 6).v.toNat = 0x800 ∧ ((s.pthr 0).reg64 2).toNat = 0x1000
    ∧ ((s.pthr 0).reg 1).v.toNat = 0x400 ∧ onceIn s .smap (fw 1 1 2 1 0) = true ∧ onceIn s .smap (fw 1 5 2 1 0) = true
    ∧ (∀ lo ∈ [0x400, 0x800], s.pgrp.bankHit (tid 0 0) lo 0x400 = false)
    ∧ (∀ d ∈ [1, 2], onceIn s .ssync (fw (BitVec.ofNat 8 d) 0 0 0 0) = true ∧ onceIn s .sclose (fw (BitVec.ofNat 8 d) 0 0 0 0) = true
        ∧ onceIn s .sinv (fw (BitVec.ofNat 8 d) 0 0 0 0) = true
        ∧ ((FMap.get none s.pgrp.spans d).all (fun p => p.secs.all (fun k => k.2.dirty.isEmpty))) = true) := by decide
/-- ShapesMove: words set, copied, stepped and read; a shape loaded from scratch and from a window, and stored. -/
theorem meets_ShapesMove : (∀ x ∈ [(Op.hset, fw 2 3 0 0 4), (.hcpy, fw 2 0 0 0 0), (.hadv, fw 2 3 0 0 1), (.hadv, fw 2 0 0 5 0x802), (.hld, fw 2 3 0 0x40 0x800),
      (.hld, fw 2 3 0 0 0x808), (.hst, fw 1 3 0 0x40 0x800)],
    onceIn copies x.1 x.2 = true)
    ∧ meets copies (.hget, fw 7 0 0 0 4) = true
    ∧ (copies.pwrp.slow = false ∧ copies.pgrp.filesWf = true ∧ 0x80 % 16 = 0 ∧ 0x80 + 64 ≤ copies.pgrp.scrSize
      ∧ ((copies.pthr 0).reg 3).v.toNat + 0x40 = 0x80 ∧ (∀ b ∈ [true, false], copies.packHold 0 0 copies.pack.ts 0x80 64 b = none)
      ∧ copies.pgrp.xbHit 0x80 64 = false ∧ (copies.pthr 0).tsm ≠ 1 ∧ (FMap.get Shape.zero copies.pwrp.shapes 1).p = false)
    ∧ (let s := site [thr [(3, 0xFFC0)]] (fun g => { g with wins := [(0, (0, 0xFFD0))] })
       onceIn s .hld (fw 2 3 0 0 0x808) = true ∧ (FMap.get (0, 0) s.pgrp.wins 0).2 ≠ 0
       ∧ ((List.range 16).foldl (fun r j => r.drainTo s.pgrp.die s.pgrp.vdev (0xFFC0 + j)) s) = s
       ∧ okOf (s.charge s.pgrp.die s.pgrp.vdev [⟨0xFFC0, 16, .read⟩]) = some s
       ∧ ∀ k ∈ List.range 16, okOf (s.readB s.pgrp.die s.pgrp.vdev (0xFFC0 + k)) = some (0, false)) := by decide +kernel
/-- A shape register that is poisoned. -/
theorem meets_ShapesMove_poisoned : let s := site [thr [(3, 0x40)]] (inWarp (fun w => { w with shapes := [(1, ⟨[], true⟩)] }))
    onceIn s .hst (fw 1 3 0 0x40 0x800) = true ∧ (FMap.get Shape.zero s.pwrp.shapes 1).p = true ∧ s.trapsAt 0 0 0
      ∧ s.pgrp.xbHit 0x80 64 = false := by decide +kernel
/-- A box of 16 by 16 FP16 elements of scratch at `base`. -/
def tile16 (base : Word) : Shape :=
  shape [(0, base), (3, 16), (4, 16), (5, 16), (6, 1), (7, 1), (8, 16), (9, 256), (10, 256), (11, 0x100010), (12, 0x10001)]
/-- A warp with two FP16 operands in scratch. -/
def tiles : State :=
  site [thr [(2, 0x1000)]] (fun g => inWarp (fun w => { w with shapes := [(0, tile16 0), (1, tile16 0x200)] }) { g with scrSize := 65536 })
theorem meets_MatrixOperationsAreListed_tile : (let n := nat .mtile (fw 3 0 1 20 0)
    tiles.passes n ∧ ((n.mtileChk tiles.pgrp tiles.pwrp).own (tiles.pthr 0) = none) ∧ (tiles.pthr 0).lowestPoison [n.c] = none
      ∧ (n.mtileChk tiles.pgrp tiles.pwrp).pack (tiles.pthr 0) = none ∧ tiles.unitFull 0 0 = false ∧ tiles.boardRoom 0 2 = true) := by decide +kernel
theorem meets_MatrixOperationsAreListed_cvt : (let n := nat .mcvt (fw 0 3 0 20 9)
    tiles.passes n ∧ ((n.mcvtChk tiles.pgrp tiles.pwrp).own (tiles.pthr 0) = none) ∧ (tiles.pthr 0).lowestPoison [n.c] = none
      ∧ (n.mcvtChk tiles.pgrp tiles.pwrp).pack (tiles.pthr 0) = none) := by decide +kernel
theorem meets_MatrixOperationsAreListed_images : onceIn tiles .mld (fw 3 2 0 0 0x800) = true ∧ onceIn tiles .mexp (fw 3 2 0 0 0x800) = true
    ∧ 3 < tiles.pwrp.accs ∧ 0x1000 % 16 = 0 ∧ 0x1000 + 32784 ≤ tiles.pgrp.scrSize ∧ tiles.pgrp.xbHit 0x1000 32784 = false := by decide +kernel
/-- TilesAndActivationBanks: a tile cleared and asked for, a format word, a bank deselected, selected and loaded. -/
theorem meets_TilesAndActivationBanks :
    onceIn tiles .mclr (fw 3 2 0 0 0) = true ∧ tiles.pwrp.tileBusy 3 = false ∧ meets tiles (.mstat, fw 7 3 0 0 0) = true
    ∧ aloneIn tiles .mfmt (fw 7 4 0 0 0) = true ∧ fwOk ((tiles.pthr 0).reg 4).v.toNat false = true ∧ (tiles.pthr 0).flagRoom none
    ∧ onceIn tiles .atsel (fw 0 0 0 0 2) = true ∧ onceIn tiles .atsel (fw 0 0 0 0 0) = true
    ∧ (FMap.get ActBank.void (tiles.core 0 0).banks 0).owner.all (fun v => v == tiles.pgrp.vdev) = true ∧ (tiles.core 0 0).atlds = []
    ∧ (let s := site [thr [(2, 0x100)]] (fun g => { g with scr := [(0x108, 1)] })
       onceIn s .atld (fw 0 2 0 0 0x800) = true ∧ s.pgrp.die < s.dies.length ∧ s.pwrp.bank ≠ some 0 ∧ ((s.pthr 0).reg 2).p = false
       ∧ 0x100 + 80 ≤ s.pgrp.scrSize ∧ s.pgrp.headerBad 0x100 = none ∧ s.packHold 0 0 [0] 0x100 80 false = none ∧ s.boardRoom 0 1 = true)
    ∧ (let s := site [{ th0 with g := [(2, ⟨0x100, true⟩)] }] id
       onceIn s .atld (fw 0 2 0 0 0x800) = true ∧ ((s.pthr 0).reg 2).p = true ∧ s.boardRoom 0 0 = true) := by decide
/-- A queue of device 1 at 0x8000 with its ring at 0x9000. -/
def queue0 (rdx wrx : Word) (st : QState) : HwQueue := ⟨1, 0, 0x8000, 0x9000, rdx, wrx, 0, st, 4, 0, 0, 7, []⟩
/-- The machine with that queue, whose handle with every right stands in g4. A published first slot when `pub`. -/
def queues (q : HwQueue) (hi : Word) (pub : Bool) : State :=
  { solo [(4, 0x200), (5, hi), (3, 1), (16, 0x1234)] with queues := [q], mem := if pub then [(0x59002, 1)] else [] }
/-- QueueTickets: tickets of a queue with room, and of a full one, with TRY and without. -/
theorem meets_QueueTickets_taken :
    (∀ k ∈ [0, 16], let s := queues (queue0 0 (BitVec.ofNat 32 k) .opened) 0x0007F000 false
      s.queueOf s.pgrp.vdev ((s.pthr 0).reg64 4) = some 0 ∧ ((s.pthr 0).reg64 4).getLsbD 47 = true ∧ (s.queue 0).st = .opened
      ∧ (s.queue 0).waits = [] ∧ (k = 16 ↔ ((s.queue 0).wrx - (s.queue 0).rdx).toNat = 2 ^ (s.queue 0).log2)
      ∧ aloneIn s .qrsv (fw 8 4 0 0 0) = true ∧ aloneIn s .qrsv (fw 8 4 0 0 1) = true
      ∧ aloneIn s .qenq (fw 0 4 16 0 0) = true ∧ aloneIn s .qenq (fw 2 4 16 0 1) = true ∧ s.relHold 0 0 0 4 false = none) := by decide +kernel
/-- QueueTickets: a ticket that is published, and one that is not. -/
theorem meets_QueueTickets_delivered :
    (∀ b ∈ [true, false], let s := queues (queue0 0 1 .opened) 0x0007F000 b
      s.queueOf s.pgrp.vdev ((s.pthr 0).reg64 4) = some 0 ∧ ((s.pthr 0).reg64 4).getLsbD 45 = true ∧ ((s.pthr 0).reg64 4).getLsbD 46 = true
      ∧ (s.queue 0).st = .opened ∧ (s.queue 0).waits = [] ∧ s.acqHold 0 0 0 = none
      ∧ okOf (s.published 0) = some b ∧ (okOf (s.slotWords 0)).isSome = true
      ∧ aloneIn s .qdeq (fw 16 4 0 0 0) = true ∧ aloneIn s .qtry (fw 16 4 0 2 0) = true ∧ aloneIn s .qsteal (fw 16 4 0 2 0) = true) := by
  decide +kernel
/-- QueueStatesAndHandles: the states, with B between RDX and WRX and beyond, and handles without a right and of no queue. -/
theorem meets_QueueStatesAndHandles :
    (∀ st ∈ [QState.opened, .error, .draining, .closed], ∀ hi ∈ [0x0007F000, 0x00070000, 0x0008F000], ∀ w ∈ [0, 1],
      let s := queues (queue0 0 (BitVec.ofNat 32 w) st) (BitVec.ofNat 32 hi) false
      s.queueOf s.pgrp.vdev ((s.pthr 0).reg64 4) = (if hi = 0x0008F000 then none else some 0) ∧ s.trapsAt 0 0 0 ∧ (s.queue 0).st = st
      ∧ (∀ r ∈ [44, 45, 46, 47], (((s.pthr 0).reg64 4).getLsbD r = true ↔ hi ≠ 0x00070000)) ∧ (s.queue 0).waits = []
      ∧ (st ≠ .draining ∨ w = 1 → s.settleQ 0 = s)
      ∧ (w = 1 ↔ (((s.pthr 0).reg 3).v - (s.queue 0).rdx).toNat ≤ ((s.queue 0).wrx - (s.queue 0).rdx).toNat))
    ∧ (∀ x ∈ [(Op.qrsv, fw 8 4 0 0 0), (.qenq, fw 0 4 16 0 0), (.qdeq, fw 16 4 0 0 0), (.qtry, fw 16 4 0 2 0), (.qsteal, fw 16 4 0 2 0),
        (.qerr, fw 0 4 0 5 0x800), (.qrest, fw 0 4 3 0 0), (.qstat, fw 8 4 0 0 0)],
      aloneIn (queues (queue0 0 1 .error) 0x0007F000 false) x.1 x.2 = true) := by decide +kernel
/-- A launch whose one workgroup has not ended. -/
def launch0 (st : Nat) : Launch := ⟨3, 1, 0, 1, 1, 1, 0, false, [], [], [], st, [], [], []⟩
/-- TasksSuccessorsAndPools: tasks, successors whose predecessor has ended or not, and blocks. -/
theorem meets_TasksSuccessorsAndPools :
    (∀ st ∈ [1, 2], let s := { site [th0] (fun g => { g with kind := .gang 4 0 }) with launches := [launch0 st, { launch0 1 with id := 4, preds := [3] }] }
      (s.pthr 0).flagRoom none ∧ s.predsOf 0 = [3]
      ∧ (st = 2 ↔ ∀ l, s.launch 3 = some l → l.st = 2 ∨ l.nx * l.ny * l.nz ≤ (l.exited.map (fun e => e.2)).sum)
      ∧ aloneIn s .succ (fw 0 0 0 0 0) = true ∧ aloneIn s .wvis (fw 0 0 0 0 0) = true ∧ s.acqHold 0 0 0 = none
      ∧ s.relHold 0 0 0 2 false = none ∧ s.tasks.length < 1024 ∧ s.quiesced s.pgrp.vdev = false
      ∧ aloneIn s .tspawn (fw 0 4 8 0 0) = true ∧ aloneIn s .tspawn (fw 2 4 8 0 1) = true) := by
  intro st hst
  simp only [List.mem_cons, List.not_mem_nil, or_false] at hst
  rcases hst with rfl | rfl
  · exact ⟨by decide, by decide, by simp [State.launch, launch0], by decide, by decide, by decide, by decide, by decide, by decide, by decide, by decide⟩
  · exact ⟨by decide, by decide, by simp [State.launch, launch0], by decide, by decide, by decide, by decide, by decide, by decide, by decide, by decide⟩
/-- A former that holds 1,024 tasks. -/
theorem meets_TasksSuccessorsAndPools_full :
    let s := { solo [] with tasks := List.replicate 1024 ⟨1, 0, 0, 1, 0, 0, [], 0, false⟩ }
    aloneIn s .tspawn (fw 0 4 8 0 0) = true ∧ s.relHold 0 0 0 2 false = none
      ∧ 1024 ≤ (s.tasks.filter (fun k => k.die == s.pgrp.die && k.cl == s.pgrp.core / 4)).length := by decide +kernel
theorem meets_TasksSuccessorsAndPools_blocks :
    (∀ p ∈ [0, 3], let s := site [th0, th0] (fun g => inWarp (fun w => { w with blocks := 8 }) { g with pools := if p = 0 then [] else [(0, ⟨3, 0⟩)] })
      s.pgrp.filesWf = true ∧ onceIn s .rsurr (fw 0 0 0 2 0x800) = true ∧ (∀ t ∈ s.pwrp.threads, ∀ k ∈ t.pend, k < 96) ∧ s.queueWrites 0 0 96 = false
      ∧ onceIn s .rclaim (fw 0 0 0 2 0x800) = true ∧ onceIn s .rclaim (fw 2 0 0 2 0x801) = true
      ∧ (FMap.get Pool.zero s.pgrp.pools s.pwrp.quad).n = p) := by decide
/-- Device memory with a kernel descriptor at 0x3000 and a recursion object at 0x2000 of four lanes, depth 8 and two children, its
pool of 256 bytes where `big`. -/
def objMem (big : Bool) : List Host.Cell :=
  [(0x52000, 1), (0x52001, 4), (0x52008, 1), (0x52009, 4), (0x52010, 1), (0x52011, 4), (0x52019, 0x30), (0x52021, 0x40)]
  ++ (if big then [(0x52029, 1)] else []) ++ [(0x5202C, 2), (0x5202D, 8), (0x5202E, 4), (0x53019, 16)]
/-- A run whose root divides, with one child done, lane 0 its routine `r`, and lane 1 at work. -/
def run0 (r : Routine) : Spinner :=
  { Spinner.void with
      vdev := 1, obj := 0x2000, divE := 0x401, baseE := 0x401, combE := 0x401, kdesc := kd0, pool := 0x4000, psize := 256, lanesN := 4
      maxDepth := 8, fan := 2, bfs := true, lanes := [⟨[], some (0, r)⟩, ⟨[], some (5, .divide)⟩, ⟨[], none⟩], grp := some 0, st := .running
      frames := [⟨0, none, 0, 0, .dividing, 0, 0, 0, [], []⟩, ⟨1, some 0, 0, 0, .done, 1, 0, 0, [], [⟨9, false⟩]⟩] }
/-- The machine whose thread is lane 0 of such a run. -/
def laneAt (x : Spinner) : State :=
  { site [{ thr [(16, 3)] with kind := .lane 0 0 }] (fun g => { g with kind := .lanes 0 }) with spinners := [x] }
/-- RunsStartAndRoutinesAsk: a run that starts, one whose pool is too small, eight that run, a misaligned object. -/
theorem meets_RunsStart : (∀ big ∈ [true, false], ∀ o ∈ [0x2000, 0x2008],
    let s := { solo [(2, BitVec.ofNat 32 o)] with mem := objMem big }
    aloneIn s .rstart (fw 0 2 0 0 0) = true ∧ s.trapsAt 0 0 0 ∧ ((s.pthr 0).reg64 2).toNat = o
    ∧ (o = 0x2000 → okAll (s.readN 0 1 0x2000 128) (fun l => objectOk (byteAt l) && leNat (byteAt l) 0x18 8 == 0x3000 && leNat (byteAt l) 0x38 8 == 0
        && (leNat (byteAt l) 0x28 4 == if big then 256 else 0)) = true
      ∧ okAll (s.readN 0 1 0x3000 64) (fun k => kdOk (byteAt k)) = true ∧ okAll (s.writeN 0 1 0x2060 false (leBytes 1 8)) (fun _ => true) = true)
    ∧ s.running 0 0 = 0 ∧ s.quiesced 1 = false) := by decide +kernel
theorem meets_RunsStart_eight : let s := { solo [(2, 0x2000)] with mem := objMem true, spinners := List.replicate 8 (run0 .divide) }
    aloneIn s .rstart (fw 0 2 0 0 0) = true ∧ 8 ≤ s.running 0 0 := by decide
/-- RunsStartAndRoutinesAsk: the routines that ask, within and beyond the children, turn and abort. -/
theorem meets_RoutinesAskAndTurn :
    (let x := { run0 .combine with frames := [⟨0, none, 1, 1, .combining, 0, 0, 0, [], []⟩, ⟨1, some 0, 0, 0, .done, 1, 0, 0, [], [⟨9, false⟩]⟩] }
     let s := laneAt x
     s.laneOf 0 0 0 = some (0, 0, 0, .combine) ∧ aloneIn s .rres (fw 12 0 0 0 0x800) = true ∧ 0 < (x.frame 0).nch
     ∧ ((x.children 0)[0]?).isSome = true ∧ okAll (s.readN 0 1 (0x4000 + 64 + 0x10) 48) (fun _ => true) = true ∧ aloneIn s .rres (fw 12 0 0 1 0x800) = true ∧ (x.frame 0).nch ≤ 1 ∧ s.trapsAt 0 0 0
     ∧ aloneIn s .rinfo (fw 8 0 0 0 0) = true ∧ aloneIn s .rabort (fw 0 0 0 7 0x800) = true ∧ x.st = .running)
    ∧ (let s := laneAt (run0 .divide)
       s.laneOf 0 0 0 = some (0, 0, 0, .divide) ∧ aloneIn s .rbase (fw 0 0 0 0 0) = true ∧ ((run0 .divide).frame 0).nch = 0
       ∧ (run0 .divide).grp = some s.pack.g ∧ 0 = tid s.pack.w 0
       ∧ okAll (s.readN 0 1 (0x4000 + 0x10) 48) (fun _ => true) = true) := by decide +kernel
/-- ChildrenAndRoutineEnds: a child, one beyond FAN, one too deep, one without a free frame. -/
theorem meets_ChildrenAreCreated :
    (∀ k ∈ [0, 1, 2, 3], let x := { run0 .divide with
        frames := [⟨0, none, 0, if k = 1 then 2 else 0, .dividing, if k = 2 then 8 else 0, 0, 0, [], []⟩], psize := if k = 3 then 64 else 256 }
      let s := laneAt x
      s.laneOf 0 0 0 = some (0, 0, 0, .divide) ∧ aloneIn s .rchild (fw 0 0 16 0 0) = true ∧ s.trapsAt 0 0 0
      ∧ (k = 1 ↔ (x.frame 0).nch = x.fan) ∧ (k = 2 ↔ (x.frame 0).depth = x.maxDepth) ∧ (k = 3 ↔ x.free = none)
      ∧ (x.frame? 0).isSome = true) := by decide
/-- ChildrenAndRoutineEnds: the end of a divide routine with a child and of one without, of a routine of a child, and the illegal ends. -/
theorem meets_RoutinesEnd :
    (∀ k ∈ [0, 1, 2], let x := { run0 (if k = 2 then .base else .divide) with
        frames := [⟨0, none, 0, 1, .dividing, 0, 0, 0, [], []⟩, ⟨1, some 0, 0, 0, .dividing, 1, 0, 0, [], []⟩]
        lanes := [⟨[], some (if k = 0 then 0 else 1, if k = 2 then .base else .divide)⟩, ⟨[], some (5, .divide)⟩] }
      let s := laneAt x
      s.laneOf 0 0 0 = some (0, 0, if k = 0 then 0 else 1, if k = 2 then .base else .divide) ∧ s.runOf 0 = some 0 ∧ s.relHold 0 0 0 4 false = none
      ∧ aloneIn s .rdone (fw 0 0 0 0 0) = true ∧ aloneIn s .rret (fw 0 0 0 0 0) = true ∧ (s.spin 0).st = .running ∧ (s.spin 0).bfs = true
      ∧ (s.spin 0).grp = some 0 ∧ (∃ o, (s.spin 0).lanes[1]? = some o ∧ o.cur ≠ none) ∧ (∀ z ∈ x.frames, z.parent = none → z.st ≠ .done)
      ∧ (x.frame? (if k = 0 then 0 else 1)).isSome = true ∧ s.trapsAt 0 0 0
      ∧ (k = 1 → (x.frame 1).parent = some 0 ∧ (x.frame 0).parent = none ∧ (x.frame 0).st ≠ .done)
      ∧ (k = 0 ↔ (x.frame (if k = 0 then 0 else 1)).nch ≠ 0)) := by
  intro k hk
  simp only [List.mem_cons, List.not_mem_nil, or_false] at hk
  rcases hk with rfl | rfl | rfl <;>
    exact ⟨by decide, by decide, by decide, by decide, by decide, by decide, by decide, by decide, ⟨_, rfl, by decide⟩, by decide, by decide, by decide,
      by decide, by decide⟩
theorem meets_RoutinesEnd_wave : let s := solo []
    aloneIn (site [{ th0 with kind := .wave }] id) .rdone (fw 0 0 0 0 0) = true ∧ s.runOf 0 = none ∧ s.relHold 0 0 0 4 false = none := by decide
/-- The machine `copies` with one entry at the head of queue 0 of its warp. -/
def atHead (e : Entry) : State := copies.modW 0 0 (fun w => { w with cqs := [[e], [], [], []] })
/-- An entry of both threads. -/
def ent (c : Cmd) (st : CmdState) (todo : List Wr) : Entry := ⟨9, c, 0x180, [0], [0], some 3, st, todo, [], 0, []⟩
/-- Queue 0 of the warp. -/
def q00 : QRef := ⟨0, 0, 0⟩
/-- A copy of h0, in global memory, to h1, in scratch, that credits the barrier at 0x200. -/
def copy0 : Cmd := .copy .cpy (box4 0 0x80) (box4 1 0x100) (some 0x200) 0 0 0
/-- CommandsRunAndSpansFill: a join and a copy that may begin. -/
theorem meets_CommandsRunAndSpansFill_begins : (∀ c ∈ [copy0, .join 1], let s := atHead (ent c .queued [])
    q00.g < s.groups.length ∧ q00.w < (s.grp 0).warps.length ∧ s.cq q00 = [ent c .queued []] ∧ q00.q < (s.wrp 0 0).cqs.length
    ∧ (s.grp 0).mayBegin (ent c .queued []) = true ∧ (s.grp 0).behindBank 0 (ent c .queued []) = false
    ∧ (s.grp 0).entryNeed (ent c .queued []) = none ∧ (∀ y ∈ s.dies, y.toks = []) ∧ s.entryAbsent 1 (s.entryReqs 0 (ent c .queued [])) = none
    ∧ ((s.entryReqs 0 (ent c .queued [])).foldl (fun z y => if y.need = .read then z.drainBytes 0 1 y.va y.n else z) s) = s
    ∧ okAll (s.moveVals 0 0 (box4 1 0x100) (copyMoves .cpy (box4 0 0x80) (box4 1 0x100) ((s.grp 0).indexList .cpy 0 4))) (fun _ => true) = true) := by
  decide +kernel
/-- CommandsRunAndSpansFill: a planned write to scratch and one to memory, the last of them on a replicated page. -/
theorem meets_CommandsRunAndSpansFill_writes : (∀ repl ∈ [false, true], ∀ sp ∈ [Space.scr, .glob],
    let w := Wr.byte sp 0x100 5 0xFF .keep
    let s := (atHead (ent copy0 .begun [w])).modD 0 (fun d => { d with tlb := [⟨1, 0, if repl then 0x5001F else 0x5000F, false, 0, false⟩] })
    s.cq q00 = [ent copy0 .begun [w]] ∧ okAll (s.performWr 0 w) (fun _ => true) = true ∧ s.absentPage 1 (pageOf 0x100) = false
    ∧ s.onRepl 0 1 0x100 = repl ∧ (s.grp 0).spanNeed 0x100 w.size = none ∧ (s.grp 0).behindMatrix 9 w = false) := by decide +kernel
/-- CommandsRunAndSpansFill: an access that has its values, and one whose first byte no page maps. -/
theorem meets_CommandsRunAndSpansFill_ends :
    (let e : Entry := { ent (.ldg [] 10 0 0 0) .begun [] with regs := [(0, 10, ⟨5, false⟩)] }
     let s := atHead e
     s.cq q00 = [e] ∧ e.xb = none ∧ s.fab.unack = [] ∧ (s.grp 0).filesWf = true ∧ 0 < (s.wrp 0 0).threads.length ∧ (s.thr 0 0 0).live = true)
    ∧ (let e := ent (.ldg [⟨0, 0x2_0000, 0, 0, false⟩] 10 0 0 0) .queued []
       let s := atHead e
       s.cq q00 = [e] ∧ s.entryFault q00 = some (0x2_0000, 1, .read) ∧ farKind 1 = false ∧ (s.grp 0).die < s.dies.length
       ∧ (s.die 0).faults.length < 256) := by decide +kernel
/-- Where no write is on its way, nothing is drained. -/
theorem drainBytes_of_no_paths (s : State) (h : ∀ x ∈ s.dies, x.paths = []) (d v va n : Nat) : s.drainBytes d v va n = s := by
  have hp : ∀ a b, s.path a b = [] := by
    intro a b
    unfold State.path State.die
    rw [List.getD_eq_getElem?_getD]
    cases e : s.dies[a]? with
    | none => rfl
    | some x => simp [h x (List.mem_of_getElem? e), FMap.get]
  have ht : ∀ x, s.drainTo d v x = s := by
    intro x
    unfold State.drainTo
    split <;> simp [State.drainPath, hp]
  unfold State.drainBytes
  induction List.range n with
  | nil => rfl
  | cons a l ih => simp [ht, ih]
/-- CommandsRunAndSpansFill: a wanted sector with one dirty byte. -/
theorem meets_CommandsRunAndSpansFill_fill :
    let s := site [{ th0 with sched := .stalled (.spanFill 2 0) }] (fun g => { g with spans := [(2, some ⟨0x400, 0x4000, 0x400, [(0, ⟨false, false, [5], 0, []⟩)], []⟩)] })
    0 < s.groups.length ∧ (s.grp 0).filesWf = true ∧ (s.grp 0).alive = true ∧ ((s.grp 0).span 2).isSome = true ∧ (s.grp 0).waitsFill 2 0 = true
    ∧ s.late.headD 0 < 2 ∧ (∀ y ∈ s.dies, y.paths = []) ∧ ((s.grp 0).span 2).all (fun sp => !(sp.sec 0).valid && (sp.sec 0).filled == 0 && decide (0 < sp.len / 1024)) = true ∧ (∀ y ∈ s.dies, y.toks = [])
    ∧ s.entryAbsent 1 [⟨0x4000, 1024, .read⟩] = none ∧ okAll (s.readN 0 1 0x4000 1024) (fun _ => true) = true := by decide +kernel
/-- Write-back and barriers: a thread that waits for each. -/
theorem meets_CommandsRunAndSpansFill_wake :
    let s := site [{ th0 with sched := .stalled (.writeBack none) }, { th0 with sched := .blocked (.bar 3 0) }, { th0 with sched := .blocked (.xbar 0x200 2) }]
      (fun g => { g with bars := [(3, ⟨1, []⟩)] })
    (s.thr 0 0 0).sched = .stalled (.writeBack none) ∧ (s.thr 0 0 1).sched = .blocked (.bar 3 0) ∧ 0 < (FMap.get Bar.zero (s.grp 0).bars 3).phase
    ∧ (s.thr 0 0 2).sched = .blocked (.xbar 0x200 2) ∧ 2 < (s.wrp 0 0).threads.length := by decide
/-- ClusterEventsAct: a thread that waits for a ticket that is published, and one that waits for a free one. -/
theorem meets_ClusterEventsAct_queue : (∀ a ∈ [QAsk.deq 16, .rsv 8],
    let s := { queues { queue0 0 1 .opened with waits := [⟨⟨0, 0, 0⟩, a, true⟩] } 0x0007F000 true with pack := ⟨0, 0, []⟩ }
    0 < s.queues.length ∧ (s.queue 0).waits = [⟨⟨0, 0, 0⟩, a, true⟩] ∧ (s.queue 0).st = .opened ∧ okOf (s.published 0) = some true
    ∧ okAll (s.slotWords 0) (fun _ => true) = true ∧ (s.queue 0).isFull = false ∧ 0 < (s.wrp 0 0).threads.length) := by decide +kernel
/-- A machine with no workgroup, one task, one launch and one run that waits for its lanes. -/
def empty : State :=
  { site [] id with
      clock := 600, groups := [], mem := objMem true, tasks := [⟨7, 0, 0, 1, 0, 0x3000, [], 0, false⟩], spinners := [{ run0 .divide with grp := none }]
      launches := [⟨3, 1, 0, 2, 1, 1, 0, false, [], [], [⟨0x3000, { kd0 with accs := 1 }, 2, 4, 1, 0⟩], 0, [(0, 0, 2)], [], []⟩] }
theorem meets_ClusterEventsAct_places : (empty.formWave 0 7 []).isSome = true ∧ (empty.placeGang 3 0 0 []).isSome = true
    ∧ (empty.placeLanes 0 0 0 []).isSome = true ∧ 0 < empty.spinners.length ∧ (empty.tasks.find? (fun y => y.id == 7)).isSome = true
    ∧ (empty.spin 0).st = .running := by decide +kernel
/-- ClusterEventsAct: a pending image and a pending operation. -/
theorem meets_ClusterEventsAct_units :
    (let s := (solo []).modC 0 0 (fun c => { c with atlds := [⟨5, 0, 0, 0, [], none, [0]⟩] })
     0 < s.dies.length ∧ ((s.core 0 0).atlds.find? (fun y => y.bank == 0)).isSome = true ∧ s.bankSelected 0 0 0 = false ∧ (s.grp 0).liveIds ≠ [])
    ∧ (let s := (solo []).modW 0 0 (fun w => { w with mops := [⟨5, .ld 0 0x100 false, 0, [0], none, 0, none⟩] })
       (s.chaserPick 0 0 0).isSome = true) := by decide
/-- FoldsAndExpansions: marks that fall due. -/
theorem meets_FoldsAndExpansions_marks :
    let s := site [{ th0 with demoted := true }, { th0 with opps := 4096 }] (inWarp (fun w => { w with opps := 1024 }))
    0 < s.groups.length ∧ 0 < (s.grp 0).warps.length ∧ ((s.wrp 0 0).thr 0).live = true ∧ ((s.wrp 0 0).thr 0).demoted = true
    ∧ ((s.wrp 0 0).thr 0).demAt + 1024 ≤ (s.wrp 0 0).opps ∧ ((s.wrp 0 0).thr 1).live = true ∧ 4096 ≤ ((s.wrp 0 0).thr 1).opps
    ∧ ((s.wrp 0 0).thr 1).promo = none := by decide
/-- FoldsAndExpansions: a request for lane sets of a lower region's one workgroup, and one while a fold is pending. -/
theorem meets_FoldsAndExpansions_requests :
    (let s := { solo [] with regions := [reg0, { reg0 with addr := 0x240, parent := some 0, prio := 5 }] }
     s.foldBusy 0 0 = false ∧ s.candidates 0 0 1 = [0] ∧ (s.grp 0).warps = [s.wrp 0 0] ∧ (s.wrp 0 0).quad < 4
     ∧ (s.wrp 0 0).threads.any Thread.live = true ∧ (s.wrp 0 0).fold = none ∧ (s.wrp 0 0).ls &&& ~~~(6#4) ≠ 0 ∧ (s.wrp 0 0).ls &&& 6 ≠ 0)
    ∧ (site [th0] (inWarp (fun w => { w with fold := some ⟨1, 6, [15]⟩, refill := [3] }))).foldBusy 0 0 = true := by decide
/-- FoldsAndExpansions: a fold of blocks and of units that completes, an expansion, its refills, and the fetches for waiting threads. -/
theorem meets_FoldsAndExpansions_moves :
    (let s := site [{ th0 with sched := .stalled (.reach 14) }, { th0 with sched := .stalled .spilled }]
      (fun g => inWarp (fun w => { w with fold := some ⟨1, 6, [15]⟩, refill := [3] }) { g with foldU := [2], refillU := [3], spilledU := [3] })
     (s.wrp 0 0).fold = some ⟨1, 6, [15]⟩ ∧ (s.grp 0).foldU ≠ [] ∧ (s.wrp 0 0).refill = [3] ∧ (s.grp 0).refillU = [3]
     ∧ ((s.wrp 0 0).thr 0).sched = .stalled (.reach 14) ∧ ((s.wrp 0 0).thr 1).sched = .stalled .spilled ∧ (s.wrp 0 0).spillBad = [])
    ∧ (let s := site [th0] (inWarp (fun w => { w with spilled := [15], ls := 9 }))
       (s.grp 0).alive = true ∧ (s.grp 0).save = .running ∧ s.foldBusy 0 0 = false) := by decide
/-- SavesAndCoreErrors: each state of a save, a forced one, and a saved workgroup that the core can take again. -/
theorem meets_SavesAndCoreErrors_saves :
    (∀ sv ∈ [SaveState.running, .pending, .draining, .writing, .saved],
      let s := { site [{ th0 with tix := 0 }] (fun g => { g with save := sv, scrSize := 0, scaleSize := 0 }) with clock := 70000 }
      0 < s.groups.length ∧ (s.grp 0).alive = true ∧ (s.grp 0).save = sv ∧ (s.grp 0).warps.all Warp.savePoint = true
      ∧ (s.grp 0).saveAt + 65536 ≤ s.clock + (s.core 0 0).skew ∧ (s.grp 0).drainDone = true
      ∧ s.keeps 0 = false ∧ (∀ y ∈ (s.grp 0).warps, y.spillBad = [])
      ∧ (sv = .saved → (s.fit 0 0 [] (s.grp 0) ((s.grp 0).warps.map (fun w => w.resumed s.clock))).any (fun z => !s.holderNeeds z) = true
          ∧ ((s.resumeBanks 0 0 0).bind (fun r => r.resumeLoads 0 0 0)).isSome = true))
    ∧ ((site [th0] (fun g => { g with save := .draining, bank := [⟨1, 0, 0x40, 4, 1, .load 5 false, none, 0⟩] })).grp 0).drainDone = false
    ∧ (let s := site [th0] (fun g => { g with save := .pending })
       (s.grp 0).warps.all Warp.savePoint = false ∧ s.clock + (s.core 0 0).skew < (s.grp 0).saveAt + 65536) := by decide +kernel
/-- A workgroup that the resident system keeps, beside a successor of its launch. -/
theorem meets_SavesAndCoreErrors_keeps : let s := { solo [] with
      groups := [{ group0 [th0] with kind := .gang 3 0 }, { group0 [th0] with kind := .gang 4 0 }], launches := [launch0 1, { launch0 1 with id := 4, preds := [3], shint := true }] }
    (s.grp 0).alive = true ∧ s.keeps 0 = true := by decide
/-- SavesAndCoreErrors: a resident workgroup that an error may hit. -/
theorem meets_SavesAndCoreErrors_errors : let s := solo []
    (s.grp 0).holds = true ∧ (s.grp 0).die = 0 ∧ (s.grp 0).core = 0 ∧ 0 < (s.wrp 0 0).threads.length ∧ (s.grp 0).save ≠ .saved ∧ (s.grp 0).alive = true
      ∧ (s.grp 0).xbHit 0x200 4 = false ∧ ((site [th0] (fun g => { g with xbars := [0x200] })).grp 0).xbHit 0x200 4 = true
      ∧ SoftErr.grp (.reg ⟨0, 0, 0⟩ 4) = some 0 := by decide

/-! Device 1 with page tables: its root at 0, page 0 in frame 5. -/

/-- The three tables of device 1, a launch block at 0x1000 of one workgroup of one warp, and its descriptor at 0x3000. -/
def mem0 : List Host.Cell :=
  [(0, 1), (2, 1), (0x10000, 1), (0x10002, 2), (0x20000, 0x0F), (0x20002, 5), (0x51000, 1), (0x51001, 1), (0x51010, 1), (0x51014, 1)
   , (0x51018, 1), (0x510C1, 0x30), (0x510C8, 1), (0x510C9, 16), (0x53019, 16)]
/-- A dirty byte that another workgroup's entry holds, with no mark over this workgroup. -/
theorem meets_CommandsRunAndSpansFill_conflict :
    let e : SpanEnt := ⟨1, 16, 7, [5], [], []⟩
    let s := { (site [{ th0 with sched := .stalled (.writeBack (some 2)) }] (fun g => { g with spans := [(2, some ⟨0x400, 0x4000, 0x400, [(0, ⟨true, false, [5], 0, []⟩)], []⟩)] })).modD 0
      (fun d => { d with spanDir := [e] }) with mem := mem0 }
    (s.thr 0 0 0).sched = .stalled (.writeBack (some 2)) ∧ ((s.grp 0).span 2).map (fun sp => (sp.len, sp.va, (sp.sec 0).dirty)) = some (1024, 0x4000, [5])
    ∧ s.homeDie 1 0x4000 = some 0 ∧ e ∈ (s.die 0).spanDir ∧ e.vdev = (s.grp 0).vdev ∧ e.sector = 0x4000 / 1024 ∧ e.grp ≠ 0
    ∧ NSet.has e.bytes 5 = true ∧ e.covers 0 = false := by decide +kernel
/-- A call of device 1's control client. -/
def callOf (num : Nat) (args : List Nat) : Call :=
  ⟨5, .control 1, 1, num, (List.range 8).map (fun k => BitVec.ofNat 32 (args.getD k 0)), none, false⟩
/-- The machine with that call, the launch block, an empty queue and a fault of region 0. -/
def calling (num : Nat) (args : List Nat) : State :=
  { (solo []).modD 0 (fun d => { d with faults := [⟨0x4000, 77, 0x180, 0, 1, 1, 0, 0, 0, 0, 0, 0x200, .queue q00 9, [], false⟩] }) with
      mem := mem0, calls := [callOf num args], launches := [launch0 1, { launch0 2 with id := 4 }]
      queues := [queue0 0 1 .opened] }
/-- A reply that is done. -/
def isDone (r : Reply) : Bool :=
  match r with
  | .done _ _ => true
  | _ => false
/-- CallsAskAndWait: the calls that ask, and a reply to a thread that lives. -/
theorem meets_CallsAskAndWait :
    (∀ n ∈ [0, 2, 3, 0xC, 0x1F], ∀ id ∈ [3, 4, 9], (calling n [id]).call 5 = some (callOf n [id]) ∧ (callOf n [id]).res = none
      ∧ ((callOf n [id]).args.drop 1).all (fun w => w == 0) = true ∧ ((callOf n [id]).dword 0).toNat = id
      ∧ ((calling n [id]).launches.find? (fun l => l.id == id && l.vdev == 1)).isSome = decide (id ≠ 9))
    ∧ (callOf 0 [1, 1, 1, 1, 1, 1, 1, 1]).args.all (fun w => w != 0) = true
    ∧ okAll ((calling 0xC [0x1000, 0, 4]).readN 4 1 0x1000 4) (fun _ => true) = true ∧ 4096 < ((callOf 0xC [0x1000, 0, 5000]).word 2).toNat
    ∧ (let s := { solo [] with calls := [{ callOf 0 [] with caller := .thread ⟨0, 0, 0⟩ 8, res := some 7 }] }
       (s.call 5).isSome = true ∧ 0 < (s.wrp 0 0).threads.length ∧ (s.thr 0 0 0).live = true) := by decide +kernel
/-- CallsChangeTheMachine: a launch, a queue opened, one that drains, pages mapped, pages that nothing maps and a window in use, a region created and
one ended, a fault delivered and resolved. -/
theorem meets_CallsChangeTheMachine_1 :
    (let s := calling 1 [0x1000]
     s.quiesced 1 = false ∧ okAll (s.readN 4 1 0x1000 256) (fun l => isDone (s.takeBlock (callOf 1 [0x1000]) (byteAt l))) = true)
    ∧ (let s := calling 4 [0x8800, 0, 0xA000, 0, 4, 15, 0]
       isDone (s.qopen (callOf 4 [0x8800, 0, 0xA000, 0, 4, 15, 0]) 9) = true ∧ s.queues.findIdx? (fun q => q.vdev == 1 && q.desc == 0x8800) = none)
    ∧ (let x := callOf 5 [0x200, 0x0007F000]
       (calling 5 [0x200, 0x0007F000]).queueOf 1 (x.dword 0) = some 0 ∧ (x.dword 0).getLsbD 44 = true
       ∧ ((calling 5 []).queue 0).rdx ≠ ((calling 5 []).queue 0).wrx)
    ∧ (let x := callOf 5 [0x200, 0x00070000]
       (calling 5 [0x200, 0x00070000]).queueOf 1 (x.dword 0) = some 0 ∧ (x.dword 0).getLsbD 44 = false)
    ∧ (calling 5 []).queueOf 1 ((callOf 5 []).dword 0) = none := by decide +kernel
theorem meets_CallsChangeTheMachine_2 :
    isDone ((calling 6 [0x10000, 0, 0x10000, 0, 1, 4]).mmap (callOf 6 [0x10000, 0, 0x10000, 0, 1, 4]) [0x60000] []) = true
    ∧ (calling 6 []).wf = true ∧ (calling 6 []).dies.length = 4 ∧ ((calling 6 []).vdev 1).map (fun d => d.root % 65536) = some 0
    ∧ (calling 6 []).drainAll = calling 6 [] ∧ (calling 6 []).leafAddr 1 (pageOf 0x10000) false = some 0x20008
    ∧ (calling 7 []).windowBusy 1 0 0x10000 = false ∧ ((calling 7 []).userPages 1).filter (overlaps (pageOf 0) 1) = [(0, 0x5000F, false)]
    ∧ 0 + pageFrames false ≤ pageOf 0 + 1 ∧ FMap.wf 0 ((calling 7 []).die 0).owners = true
    ∧ 63 < ((callOf 6 [0, 0, 0, 0, 64]).word 4).toNat
    ∧ ((calling 7 []).userPages 1).filter (overlaps (pageOf 0x20000) 1) = [] ∧ (calling 7 []).windowBusy 1 0x20000 0x10000 = false
    ∧ ({ calling 7 [] with launches := [{ launch0 1 with wins := [(0, (0x20000, 64))] }] } : State).windowBusy 1 0x20000 0x10000 = true
    ∧ (calling 8 []).regionOf 1 ((callOf 8 [8, 0xF000, 0x7000]).dword 0) 46 = some 0
    ∧ isDone ((calling 8 []).rcreate (callOf 8 [8, 0xF000, 0x7000]) 0x5000 3) = true ∧ (calling 8 []).regionOf 1 0 46 = none := by decide +kernel
theorem meets_CallsChangeTheMachine_3 :
    (∀ b ∈ [true, false], let s := { calling 9 [9, 0xF000] with
          regions := [reg0, { reg0 with addr := 0x240, parent := some 0 }]
          queues := if b then [{ queue0 0 1 .opened with region := 1 }] else [] }
      s.regionOf 1 ((callOf 9 [9, 0xF000]).dword 0) 44 = some 1 ∧ s.regionBusy 1 = b ∧ ((s.regions[1]?).bind (fun y => y.parent)) = some 0)
    ∧ (let s := calling 10 [8, 0xF000, 0x7000]
       s.regionOf 1 ((callOf 10 [8, 0xF000, 0x7000]).dword 0) 45 = some 0 ∧ (s.nextFault 0).isSome = true
       ∧ okAll (s.writeN 4 1 0x7000 false (List.replicate 32 0)) (fun _ => true) = true ∧ s.faultOf 9 = none
       ∧ (s.faultOf 77).any (fun f => decide (s.domainOfRec f.2 = some 0)) = true) := by decide +kernel
/-- A die command's first word: code, device, slot and tag 9. -/
def cmd0 (code v k : Nat) : DWord := BitVec.ofNat 64 (code + v * 2 ^ 8 + k * 2 ^ 16 + 9 * 2 ^ 32)
/-- DieCommandsAndEvents: each code with good fields, an operand out of range, a key slot of another device and of none. -/
theorem meets_DieCommandsAndEvents_commands :
    (∀ code ∈ [0, 1, 2, 3, 4, 5, 6, 7, 8, 9, 10], let w := cmd0 code 1 5
      (w.extractLsb' 0 8).toNat = code ∧ w.extractLsb' 22 10 = 0 ∧ (w.extractLsb' 8 8).toNat = 1 ∧ (w.extractLsb' 16 6).toNat = 5)
    ∧ ¬((cmd0 1 64 0).extractLsb' 8 8).toNat ≤ 63 ∧ (solo []).dies.length = 4
    ∧ (0x400#64).toNat + (64#64).toNat ≤ 2 ^ 52 ∧ 2 ^ 52 < (0x10_0000_0000_0000#64).toNat + (64#64).toNat
    ∧ (∀ o ∈ [none, some 1, some 2], FMap.get KeySlot.zero (if o = none then [] else [(5, (⟨o, 1, 2, 3, 3⟩ : KeySlot))]) 5 = if o = none then KeySlot.zero else ⟨o, 1, 2, 3, 3⟩)
    ∧ FMap.wf KeySlot.zero [(5, (⟨some 1, 1, 2, 3, 3⟩ : KeySlot))] = true
    ∧ KeySlot.zero.vdev = none ∧ ((solo []).vdev 1).isSome = true ∧ (solo []).vdev 9 = none
    ∧ (paOk 0x60000 = true ∧ paDie 0x60000 = 0 ∧ 0x60000 % 65536 = 0)
    ∧ ((calling 0 []).die 0).faults.find? (fun y => y.tag == 77) = some ⟨0x4000, 77, 0x180, 0, 1, 1, 0, 0, 0, 0, 0, 0x200, .queue q00 9, [], false⟩
    ∧ ((calling 0 []).die 0).faults.find? (fun y => y.tag == 5) = none
    ∧ (let s := (calling 0 []).modW 0 0 (fun w => { w with cqs := [[{ ent (.join 1) (.faulted 77) [] with }], [], [], []] })
       s.faultLives ⟨0x4000, 77, 0x180, 0, 1, 1, 0, 0, 0, 0, 0, 0x200, .queue q00 9, [], false⟩ = true ∧ s.domainOf (s.grp 0).region = 0) := by decide
/-- DieCommandsAndEvents: a device without an enabled assay, a page whose replicas are to be dropped, and an action that is not due. -/
theorem meets_DieCommandsAndEvents_events :
    let s := { (calling 0 []).modD 0 (fun d => { d with moves := [⟨1, 0, 3, 0⟩], replicas := [⟨1, 0, 0x60000⟩] }) with
      vdevs := [{ dev1 with assay := { dev1.assay with en := false } }] }
    s.dies.length = 4 ∧ ((s.vdev 1).map (fun d => d.assay.en)) = some false ∧ (⟨1, 0, 3, 0⟩ : AssayMove) ∈ (s.die 0).moves
    ∧ (s.mapped 1).find? (fun p => p.1 == 0) = some (0, 0x5000F, false) ∧ paDie (entFrame 0x5000F) = 0 ∧ entPeer 0x5000F = false
    ∧ (s.leafAddr 1 0 false).isSome = true ∧ (⟨1, 7, 3, 0⟩ : AssayMove) ∉ (s.die 0).moves := by decide +kernel
/-- The part in stage 5 with a request of a system call in the host's ring, and its mailbox set up. -/
def part5 : State :=
  { solo [] with
      pkg := { Package.zero with stage := 5, box := { Mailbox.zero with qlog := 4, plog := 4 }, reqs := [⟨8, 0x0103, 1, []⟩] }
      fab := { Fabric.zero with host := (List.range 64).map (fun k => (k, some (if k = 4 then 1 else 0))) } }
/-- PartAndLinkEventsAct: the part before it boots, and one in stage 5 with a request in its ring. -/
theorem meets_PartAndLinkEventsAct_part : State.reset.pkg.stage = 0 ∧ State.reset.pkg.bootFail = 0 ∧ State.reset.pkg.stopped = false
    ∧ State.reset.pkg.fused = [] ∧ 0 < State.reset.dies.length
    ∧ part5.pkg.stage = 5 ∧ part5.pkg.box.reads = true ∧ (∀ k < 16, leNat part5.hostByte (4 * k) 4 = if k = 1 then 1 else 0)
    ∧ (part5.vdev 1).isSome = true ∧ part5.pkg.box.qhead = 0 := by decide +kernel
/-- A VCONF record of operation `op` for device `v`, every token share 1 and no quadrant. -/
def rec0 (op v : Nat) : List Byte :=
  (List.range 64).map (fun k => if k = 0 then BitVec.ofNat 8 v else if k = 2 then BitVec.ofNat 8 op else if k ∈ [0x14, 0x1C, 0x24] then 1 else 0)
    ++ List.replicate 512 0
theorem rec0_tail (op v k : Nat) (h : 64 ≤ k) : (rec0 op v).getD k 0 = 0 := by
  unfold rec0
  rw [List.getD_append_right _ _ _ _ (by simpa using h), List.getD_eq_getElem?_getD, List.getElem?_replicate]
  split <;> rfl
/-- No record asks for a bank group. -/
theorem rec0_bgm (op v d c : Nat) : recBgm (rec0 op v) d c = 0 := by
  have h : ∀ k, 64 ≤ k → (rec0 op v).getD k 0 = 0 := fun k => rec0_tail op v k
  simp only [recBgm, numAt, leNat]
  rw [h _ (by omega), h _ (by omega)]
  rfl
/-- A record is well formed, and its other fields than the bank groups fit a part with or without the device. -/
theorem meets_rec0 : (∀ op ∈ [1, 2, 3, 4], ∀ v ∈ [1, 2], recOk (rec0 op v) = true ∧ recV (rec0 op v) = v ∧ recOp (rec0 op v) = op ∧ recNq (rec0 op v) = 0 ∧ headOk (rec0 op v) = true)
    ∧ recOk [] = false ∧ recOp [] = 0 ∧ headOk ((rec0 3 1).set 0 0) = false := by decide +kernel
theorem meets_recFits (v : Nat) (hv : v = 1 ∨ v = 2) (op : Nat) (ho : op = 1 ∨ op = 2) : part5.recFits (rec0 op v) = true := by
  have h : ∀ l : List Nat, l.all (fun _ => true) = true := by simp
  unfold State.recFits
  simp only [rec0_bgm, Nat.zero_testBit, Bool.not_false, Bool.true_or, h]
  rcases hv with rfl | rfl <;> rcases ho with rfl | rfl <;> decide +kernel
/-- ServicesAnswered: requests with a new sequence number, the mailbox request for RSTAT, and records to create, change, reset and delete. -/
theorem meets_ServicesAnswered :
    part5.pkg.stage = 5 ∧ part5.pkg.mgmtSeq < 1 ∧ (part5.vdev 1).isSome = true ∧ part5.vdev 2 = none
    ∧ (part5.pkg.reqs.find? (fun q => q.tag == 8 && q.code == 0x0103)).isSome = true ∧ part5.pkg.box.room 1 = true
    ∧ part5.boxed 1 = true ∧ part5.boxed 0 = false ∧ ((1 : Nat), (1 : DWord)) ∉ part5.pkg.mgmtOpen
    ∧ part5.pkg.box.room (replySlots (summaryOf [sectionBytes 6 (part5.reserveRecs ++ part5.eventRecs)])) = true
    ∧ part5.rootOk 0x200000 = true ∧ part5.slotsOk 2 [1, 1, 1, 1] = true ∧ part5.blockFree 2 0x400 3 = true
    ∧ part5.actions 1 = [] ∧ part5.actions 2 = [] ∧ (part5.vdev 1).map (fun d => d.actions) = some [] := by decide +kernel
theorem meets_ServicesAnswered_change : ({ part5 with groups := [] } : State).outside (rec0 2 1) = [] ∧ ({ part5 with groups := [] } : State).vdev 1 = some dev1 := by
  decide
/-- A record that asks for more DRAM frames than the part has. -/
theorem meets_ServicesAnswered_full : let r := (rec0 1 2).set 0xB 0x7F
    recOk r = true ∧ recV r = 2 ∧ part5.recFits r = false := by
  refine ⟨by decide +kernel, by decide +kernel, ?_⟩
  have h : decide (part5.quotas (recV ((rec0 1 2).set 0xB 0x7F)) (fun x => x.dfr) + numAt ((rec0 1 2).set 0xB 0x7F) 8 4 + part5.tableFrames
      + (if (part5.vdev (recV ((rec0 1 2).set 0xB 0x7F))).isNone = true then 32 else 0) ≤ 4 * 64 * chanFrames) = false := by decide +kernel
  unfold State.recFits
  simp only [h, Bool.and_false, Bool.false_and]
/-- An execution state with nothing in it. -/
def exec0 : ExecState := ⟨[], [], [], [], [], [], [], [], [], [], [], [], 0⟩
/-- An image that is loaded, with function 0 at 0x400 and a heap up to 0x900. -/
def image0 (heap : Nat) : Image := ⟨1, 0, 0x1000, true, [], heap, 0x900, [(0x400, 0x400)], [], [], [], 0, [], [], [0], [], []⟩
/-- ServiceActionsDone: a summary for a buffer that is too short and one that is not, a checkpoint and one that is put back, an image with a bad manifest, a
function for a heap with room and without, a shared quadrant whose slice has ended, a reserve core. -/
theorem meets_ServiceActionsDone_calls :
    (let s := { calling 0xE [0x1000, 0, 0x800] with images := [], regions := [], launches := [], queues := [] }
     (s.call 5).isSome = true ∧ ((callOf 0xE [0, 0, 0]).word 2).toNat = 0 ∧ 0 < (s.summary (some 1)).length
     ∧ (s.summary (some 1)).length ≤ ((callOf 0xE [0x1000, 0, 0x800]).word 2).toNat)
    ∧ (let s := { calling 0xD [] with groups := [] }
       (s.vdev 1).isSome = true ∧ s.actions 1 = [] ∧ s.allSaved 1 = true) := by decide +kernel
theorem meets_ServiceActionsDone_rest :
    (let s := { solo [] with groups := [], ckpts := [⟨4, 1, exec0, [], [], [], [], []⟩] }
     (∀ d ∈ s.vdevs, d.actions = [] ∧ s.allSaved d.num = true) ∧ (s.vdevs.map (fun d => d.num)).Nodup
     ∧ s.ckpts.find? (fun y => y.id == 4) = some ⟨4, 1, exec0, [], [], [], [], []⟩ ∧ (s.vdev 1).map (fun d => d.actions) = some [] ∧ exec0.maps = [] ∧ exec0.apps = [])
    ∧ ((solo []).vdev 1).isSome = true ∧ manifestErr [] = some 6
    ∧ (∀ h ∈ [0x800, 0x8FC], NSet.has (image0 h).swapped 0 = false ∧ NSet.has (image0 h).failedF 0 = false ∧ (image0 h).funcs[0]? = some (0x400, 0x400)
        ∧ (image0 h).ready = true ∧ (image0 h).hot.head? = some 0 ∧ (image0 h).free = [] ∧ 0x400 % 2 = 0
        ∧ (h = 0x800 ↔ (image0 h).heap + (8 * 1 + 63) / 64 * 64 ≤ (image0 h).heapEnd))
    ∧ (let s := (solo []).modQuad 0 0 1 (fun x => { x with own := .shared [(1, 100, 1), (2, 50, 2)] 1 0 })
       (s.quad 0 0 1).own = .shared [(1, 100, 1), (2, 50, 2)] 1 0 ∧ 0 ≤ s.cycle 0 0 ∧ nextHolder [(1, 100, 1), (2, 50, 2)] 1 = some (2, 50, 2) ∧ s.waiting 2 0 0 = []
       ∧ s.freeReserve 0 = [64, 65, 66, 67] ∧ (∀ g < s.groups.length, ¬((s.grp g).die = 0 ∧ (s.grp g).core = 5)) ∧ s.dies.length = 4) := by decide +kernel
/-- PartAndLinkEventsAct: a link that is up, with 16 replays and with one lane replaced, and a part that can be reached or not. -/
theorem meets_PartAndLinkEventsAct_links :
    (∀ k ∈ [0, 1, 3], let s := { solo [] with fab := { Fabric.zero with links := [(2, ⟨true, 4, 8, BitVec.ofNat 2 k, 16, false, 0⟩)] } }
      (FMap.get Link.zero s.fab.links 2).up = true ∧ 16 ≤ (FMap.get Link.zero s.fab.links 2).replays ∧ 0 < s.dies.length
      ∧ ((FMap.get Link.zero s.fab.links 2).spare.getLsbD 0 = true ↔ k ≠ 0) ∧ ((FMap.get Link.zero s.fab.links 2).spare.getLsbD 1 = true ↔ k = 3)
      ∧ s.reachable 4 = true ∧ s.reachable 9 = false ∧ (∀ p ∈ s.fab.peers, p.pointed = true))
    ∧ (∀ at' ∈ [2249999, 2250000], let s := { solo [] with clock := at', fab := { Fabric.zero with links := [(2, ⟨false, 4, 8, 0, 0, false, 0⟩)] } }
      s.reachable 4 = false ∧ (at' = 2250000 ↔ ∀ k ∈ s.fab.links, k.2.up = false ∧ k.2.downAt + 2250000 ≤ s.clock))
    ∧ (∀ g ∈ empty.groups, g.alive = false) ∧ ({ empty with tasks := [] } : State).reachable 9 = false := by decide
/-- The machine with tables, a link to part 4, a grant of page 0 to device 3 of part 4 and to root port 0, and a window page. -/
def fabric0 : State :=
  { solo [] with
      mem := mem0
      fab := { Fabric.zero with
        links := [(2, ⟨true, 4, 8, 0, 0, false, 0⟩)]
        grants := [⟨0, 1, 4, 3, 1, false, true⟩, ⟨0, 1, 64, 0, 1, false, true⟩, ⟨0, 1, 72, 0, 1, false, true⟩]
        bar2Dev := 1
        bar2 := [⟨7, 0, true⟩] } }
/-- OutsideRequestsServed: a request within its grant, outside its pages, without a grant, or with a right that it lacks; an outside access within its
grant and without; window pages that are mapped and not. -/
theorem meets_OutsideRequestsServed_peer :
    (fabric0.link 2).up = true ∧ fabric0.fab.grants.find? (fun g => g.ipart == 4 && g.ivdev == 3) = some ⟨0, 1, 4, 3, 1, false, true⟩
    ∧ fabric0.fab.grants.find? (fun g => g.ipart == 4 && g.ivdev == 5) = none
    ∧ (∀ kind ∈ [0, 1], fabric0.routeOf 1 ⟨0, 2 + 16 * 4, 0x40, kind, 4, [1, 2], [], false⟩ = .perform) ∧ fabric0.fab.waiting = []
    ∧ ((fabric0.die (fabric0.homeOf 1 0x40)).charge 1 2 1).isSome = true ∧ okAll (fabric0.readN 4 1 0x40 4) (fun _ => true) = true
    ∧ okAll (fabric0.writeN 4 1 0x40 false [1, 2]) (fun _ => true) = true := by decide +kernel
theorem meets_OutsideRequestsServed_rest :
    fabric0.outGranted 0x40 1 0x40 4 true = true ∧ fabric0.outGranted 0x40 1 0x20040 4 true = false
    ∧ fabric0.fab.outHeld = [] ∧ okAll (fabric0.readN 4 1 (65536 * 0 + 8) 4) (fun _ => true) = true
    ∧ okAll (fabric0.writeN 4 1 (65536 * 0 + 8) false [1, 2]) (fun _ => true) = true
    ∧ fabric0.outGranted 0x40 1 0x40 4 false = true ∧ fabric0.outGranted 0x41 1 0x40 4 false = false
    ∧ fabric0.fab.bar2.find? (fun m => m.win == 7) = some ⟨7, 0, true⟩ ∧ fabric0.fab.bar2.find? (fun m => m.win == 8) = none
    ∧ (fabric0.vdev 1).isSome = true ∧ fabric0.fab.bar2Dev ≠ 2 ∧ grantOk ⟨0, 1, 5, 3, 1, false, true⟩ = true := by decide +kernel
/-- A migration of device 1 to part 4. -/
def leaving (phase : Nat) (st : PageSt) (gs : List Group) : State :=
  { fabric0 with
      groups := gs
      pkg := { Package.zero with stage := 5 }
      fab := { fabric0.fab with
        grants := [⟨0, 1, 4, 3, 1, false, true⟩]
        bar2 := []
        migOut := [⟨1, 4, phase, [(0, st)], [], [], [], [4], none, [], [], [], false, .mgmt 7 1 true⟩] } }
/-- DevicesMigrate: a request to a neighbour and to a part that is none, with an outside mapping and without, and each phase. -/
theorem meets_DevicesMigrate_request :
    (let s := { leaving 1 .owned [] with fab := { (leaving 1 .owned []).fab with migOut := [] } }
     s.pkg.stage = 5 ∧ s.pkg.mgmtSeq < 1 ∧ ((7 : Nat), (1 : DWord)) ∉ s.pkg.mgmtOpen ∧ s.migOf 1 = none ∧ (s.vdev 1).map (fun d => d.actions) = some []
     ∧ s.fab.links.any (fun l => l.2.up && l.2.peer == 4) = true ∧ s.fab.links.any (fun l => l.2.up && l.2.peer == 9) = false
     ∧ s.outsideBound 1 = false)
    ∧ (∀ p ∈ [1, 2, 3, 6], ((leaving p .owned []).migOf 1).map (fun m => m.phase) = some p ∧ ((leaving p .owned []).vdev 1).isSome = true
        ∧ (leaving p .owned []).allSaved 1 = true ∧ ((leaving p .owned []).migOf 1).map (fun m => m.req) = some (.mgmt 7 1 true)) := by decide +kernel
theorem meets_DevicesMigrate_pages :
    (∀ st ∈ [PageSt.owned, .leaving, .transit, .gone], ((leaving 6 st []).migOf 1).bind (fun m => m.pageSt 0) = some st)
    ∧ ((leaving 6 .owned []).mapped 1).find? (fun y => y.1 == 0) = some (0, 0x5000F, false) ∧ (leaving 6 .owned []).pageHead 1 0 = 0
    ∧ (((leaving 6 .owned []).migOf 1).bind (fun m => (leaving 6 .owned []).nextPush m)) = some 0
    ∧ (∀ p ∈ [((0 : Nat), PageSt.gone)], p.2 = .gone) ∧ (∀ g ∈ (leaving 6 .gone []).fab.grants, g.evdev = 1 → NSet.has [4] g.ipart = true) := by decide +kernel
/-- A migration of device 1 that has arrived, with page 0 absent. -/
def arriving (absent : NSet) : State := { fabric0 with fab := { fabric0.fab with migIn := [⟨1, 4, absent, [], [(4, 2)], [], []⟩] } }
/-- DevicesMigrate: a reserved device, an absent page, its image, a marker, and leaves that name a peer. -/
theorem meets_DevicesMigrate_arrival :
    (∀ l : List Byte, let s := { solo [] with groups := [], fab := { Fabric.zero with reserved := [⟨4, 3, 1, some l⟩] } }
     (⟨4, 3, 1, some l⟩ : Reserved) ∈ s.fab.reserved ∧ (s.vdev 1).isSome = true ∧ s.mapped 1 = [] ∧ exec0.maps = [] ∧ s.migTo 1 = none)
    ∧ (let s := arriving [0]
       s.migTo 1 = some ⟨1, 4, [0], [], [(4, 2)], [], []⟩ ∧ s.pageHead 1 0 = 0 ∧ s.fab.migIn.filter (fun k => k.vdev == 1) = [⟨1, 4, [0], [], [(4, 2)], [], []⟩]
       ∧ (s.mapped 1).find? (fun y => y.1 == 0) = some (0, 0x5000F, false) ∧ paDie (entFrame 0x5000F) = 0 % 4)
    ∧ (List.replicate 65536 (0 : Byte)).length = 65536 * pageFrames false
    ∧ (let s := { solo [] with mem := [(0, 1), (2, 1), (0x10000, 1), (0x10002, 2), (0x20000, 0x23), (0x20004, 16)] }
       ((s.mapped 1).filter (fun m => entPeer m.2.1 && bitsOf m.2.1 39 34 == 4)) ≠ []) := by
  refine ⟨fun l => ⟨List.mem_singleton.2 rfl, rfl, rfl, rfl, rfl⟩, by decide +kernel, by rw [List.length_replicate]; rfl, by decide +kernel⟩
/-- OutsideRequestsServed: a request for a page that is gone, one for a page that is absent, one whose account is empty; an outside write to a page
that may not be written, to an unmapped one and to one that has not come. -/
theorem meets_OutsideRequestsServed_waits :
    (leaving 6 .gone []).routeOf 1 ⟨0, 2 + 16 * 4, 0x40, 0, 4, [], [], false⟩ = .forward
    ∧ (arriving [0]).routeOf 1 ⟨0, 2 + 16 * 4, 0x40, 0, 4, [], [], false⟩ = .hold ∧ (arriving [0]).migOf 1 = none
    ∧ ((fabric0.modD 0 (fun d => { d with toks := [⟨1, 2, 1, 0, 0, 0, false⟩] })).die 0).charge 1 2 1 = none
    ∧ (let s := { fabric0 with mem := mem0.map (fun (c : Host.Cell) => if c.1 = 0x20000 then (c.1, 3) else c) }
       s.writeN 4 1 0x40 false [1] = .error (0x40, 2) ∧ s.violOf 4 1 0x40 .write = some (false, 2, (0x40 : DWord)))
    ∧ fabric0.outGranted 0x40 1 0x8_0040 1 true = false
    ∧ (let s := { fabric0 with fab := { fabric0.fab with grants := [⟨0, 16, 64, 0, 1, false, true⟩] } }
       s.outGranted 0x40 1 0x8_0040 1 true = true ∧ okOf (s.writeN 4 1 0x8_0040 false [1]) = none)
    ∧ (let s := arriving [0]
       s.outGranted 0x40 1 0x40 1 true = true ∧ okOf (s.writeN 4 1 0x40 false [1]) = none) := by decide +kernel
/-- StepRunsTheDecodedInstruction: an event on the agenda; a thread behind a header, one at it, one before a word that is none, one in Prerin code. -/
theorem meets_StepRunsTheDecodedInstruction :
    (let s := { solo [] with agenda := [.thermalThrottle] }
     s.pkg.stopped = false ∧ ({ s with clock := 1 } : State).timed = [] ∧ (Instr.thermalThrottle).view = .event)
    ∧ (∀ k ∈ [0, 1, 2], let s := site [{ th0 with pc := 0x400, tix := k }, { th0 with pc := 0x400, tix := k }] id
      s.pack.ts = [0, 1] ∧ ({ s with clock := 1 } : State).timed = [] ∧ s.agenda = [] ∧ s.pkg.stopped = false
      ∧ (∀ u ∈ s.pack.ts, (s.pthr u).ready = true ∧ (s.pthr u).together (s.pthr 0) = true) ∧ (s.pthr 0).mode = .native
      ∧ okOf (s.fetchWord 0 0 1 (0x400 + 8 * k)) = some (s, if k = 0 then hdr0 else 0x3077_0000_0000_0000) ∧ s.pwrp.fold = none)
    ∧ (let s := site [{ th0 with pc := 0x424, mode := .prerin, tix := 0 }] id
       s.pack.ts = [0] ∧ (∀ u ∈ s.pack.ts, (s.pthr u).noticeDue = false) ∧ s.fetchPrerin 0 0 1 0x424 4 = ([0], none)
       ∧ okOf (s.fillWords 0 0 1 0x424 1) = some s ∧ okOf (s.fetchWord 0 0 1 0x9_0000) = none) := by
  decide
theorem meets_StepRuns_words : decodeNative 0x3077_0000_0000_0000 = .ok (.nop ⟨7, 0, 0, 0, 0, 0, false, false⟩)
    ∧ decodeNative hdr0 = .ok (.clauseBoundary ⟨0, 15, 15, 2, false⟩) ∧ decodeNative 0xC000_0000_0000_0000 = .error .reservedClass
    ∧ decodePrerin [0] = .ok (.illPrerin 0, 1) ∧ decodePrerin [0xC1D0_0001] = .error (.badOperand, 0xC1D0_0001) := ⟨rfl, rfl, rfl, rfl, rfl⟩
/-- StepRunsTheDecodedInstruction: a part that has stopped. -/
theorem meets_StepRuns_stopped : ({ State.reset with pkg := { Package.zero with stopped := true } } : State).pkg.stopped = true := rfl
/-- The premises of StepsKeepMemoryCanonical and PhysicalMemoryKeepsBytes, with a step that goes on. -/
theorem meets_StepsKeep : (solo []).wf = true ∧ (solo []).dies.length = 4 ∧ (out (step { solo [] with agenda := [.thermalThrottle] })).isSome = true := by decide
/-- Native and Prerin terms that the round trips speak of, an encoding and a native word that decodes. -/
theorem meets_RoundTrips : (Instr.add (fw 6 4 5 0 0)).wellFormed = true ∧ (Instr.pWord ⟨3, 7, 4, 5, 0⟩ ⟨0x42, 7, 9, 6, 0⟩).wellFormed = true
    ∧ (Instr.addPrerin ⟨false, false, fw 7 4 0 1 0x800, 0⟩).wellFormed = true ∧ (Instr.illPrerin 5).wellFormed = true
    ∧ encode (.addPrerin ⟨false, false, fw 7 4 0 1 0x800, 0⟩) = [0xFFE0_0001, 0x00C7_1007]
    ∧ encodeNative (.add (fw 7 4 0 1 0x800)) = some 0x0037_0704_0001_0800 := by decide
/-- PacksAndClauseBoundaries: a warp that leads with a thread, and a quadrant that picks a warp. -/
theorem meets_PacksAndClauseBoundaries_picks : (warp0 [{ th0 with tix := 2 }, th0]).lead = some 1 ∧ ((warp0 [{ th0 with tix := 2 }, th0]).readyTs.all (fun u => ((warp0 [{ th0 with tix := 2 }, th0]).thr u).promo.isNone)) = true
    ∧ (solo []).pickWarp ((solo []).quad 0 0 0) [(0, 0)] = some (0, 0) := by decide
/-- TrapEntryState: a cause below 64. -/
theorem meets_TrapEntryState : (0x3F : Nat) < 64 ∧ th0.mode = .native ∧ ({ th0 with mode := .prerin } : Thread).mode = .prerin := by decide
/-- A form is alone in the pack of thread 0, passes its checks, and its thread takes it and can take a trap. -/
noncomputable def taken (s : State) (o : Op) (f : Fields) : Bool :=
  decide (insOf (nativeInstr o f) = some (nat o f) ∧ s.pack.ts = [0] ∧ s.passes (nat o f) ∧ s.pwrp.slow = false
    ∧ (s.pthr 0).guard f.guard = .take ∧ s.trapsAt 0 0 0)
/-- Register `r` is the lowest poisoned one that a form reads in thread 0. -/
noncomputable def lowestOf (s : State) (o : Op) (f : Fields) (r : Nat) : Bool :=
  decide (r ∈ (nat o f).srcs ∧ ((s.pthr 0).reg r).p = true ∧ ∀ k ∈ (nat o f).srcs, ((s.pthr 0).reg k).p = true → r ≤ k)
/-- One thread with an address in g2 and a poisoned word in g`r`. -/
def psnAt (a : Word) (r : Nat) (v : Word) : State := site [{ th0 with g := FMap.setAll Val.zero [] [(2, ⟨a, false⟩), (r, ⟨v, true⟩)] }] id
/-- OperandsThatTrap: poisoned data of each scratch store and atomic, in range, misaligned and past the end. -/
theorem meets_OperandsThatTrap_scratch :
    (∀ x ∈ [(Op.sts, fw 6 2 0 0 0x800), (.stsr, fw 6 2 0 0 0x800), (.atms, fw 4 2 6 0 0)], ∀ a ∈ [0x40, 0x41, 0x4000],
      let s := psnAt (BitVec.ofNat 32 a) 6 1
      taken s x.1 x.2 = true ∧ lowestOf s x.1 x.2 6 = true) := by decide +kernel
/-- OperandsThatTrap: a poisoned operand of engine commands; of swr, with each TSM and in and out of a handler; of brx and callx, to a legal target and
an illegal one; and a poisoned shape register of cpy. -/
theorem meets_OperandsThatTrap_others :
    (∀ x ∈ [(Op.cpyg, fw 1 0 255 6 1), (.stg, fw 0 2 6 0 0x701), (.atmg, fw 10 2 6 0 0x04C), (.ldg, fw 10 6 0 0 0x800), (.pref, fw 0 6 0 64 0x802), (.smap, fw 1 6 2 4 0)],
      taken (psnAt 0x40 6 1) x.1 x.2 = true ∧ lowestOf (psnAt 0x40 6 1) x.1 x.2 6 = true)
    ∧ (∀ v ∈ [0, 0x40, 0x80, 0xC0], taken (psnAt 0x40 6 (BitVec.ofNat 32 v)) .swr (fw 0 6 0 0 0x10) = true
      ∧ lowestOf (psnAt 0x40 6 (BitVec.ofNat 32 v)) .swr (fw 0 6 0 0 0x10) 6 = true)
    ∧ taken (psnAt 0x40 6 1) .swr (fw 0 6 0 0 0x12) = true ∧ ((psnAt 0x40 6 1).pthr 0).hnd = false
    ∧ (∀ v ∈ [0x401, 0x404, 0x402, 0x409, 0x405], ∀ x ∈ [(Op.brx, fw 0 6 0 0 0), (.callx, fw 8 6 0 0 0)],
      taken (psnAt 0x40 6 (BitVec.ofNat 32 v)) x.1 x.2 = true ∧ (((psnAt 0x40 6 (BitVec.ofNat 32 v)).pthr 0).reg 6).p = true)
    ∧ okOf ((psnAt 0x40 6 1).codeWord 0 0 1 0x400) = some hdr0 ∧ okOf ((psnAt 0x40 6 1).codeWord 0 0 1 0x408) = some 0x3077_0000_0000_0000
    ∧ (∀ b ∈ [true, false], let s := site [th0] (inWarp (fun w => { w with shapes := [(0, { box4 1 0x100 with p := b }), (1, { box4 0 0x80 with p := !b })] }))
      let n := nat .cpy (fw 1 0 255 0 0)
      taken s .cpy (fw 1 0 255 0 0) = true ∧ poisonTrap (s.pthr 0) n = none ∧ (s.pthr 0).flagRoom (n.flagOf (s.pthr 0)) ∧ n.f.m.getLsbD 2 = false
      ∧ (s.pwrp.shape 1).valid = true ∧ (s.pwrp.shape 0).valid = true ∧ (s.pwrp.shape 1).sameBox (s.pwrp.shape 0) = true
      ∧ (s.pwrp.shape 1).width = (s.pwrp.shape 0).width ∧ (s.pwrp.shape 1).space < 8 ∧ (s.pwrp.shape 0).space < 8
      ∧ s.pgrp.sideOut (s.pwrp.shape 1) false = none ∧ s.pgrp.sideOut (s.pwrp.shape 0) false = none
      ∧ (s.pwrp.shape 0).p = b ∧ (s.pwrp.shape 1).p = !b) := by decide +kernel
/-- The machine `tiles` with two threads whose format words in g20 are `v` and `w`. -/
def votes (v w : Val) : State :=
  site [{ th0 with g := [(2, ⟨0x1000, false⟩), (20, v)] }, { th0 with g := [(2, ⟨0x1000, false⟩), (20, w)] }]
    (fun g => inWarp (fun w => { w with shapes := [(0, tile16 0), (1, tile16 0x200)] }) { g with scrSize := 65536 })
/-- OperandsThatTrap: format words that differ, that are none, and that are poisoned. -/
theorem meets_OperandsThatTrap_formats :
    (∀ x ∈ [(Op.mtile, fw 3 0 1 20 0), (.mcvt, fw 0 3 0 20 9)], ∀ vw ∈ [((⟨0, false⟩ : Val), (⟨0x10000, false⟩ : Val)), (⟨8, false⟩, ⟨8, false⟩), (⟨0, true⟩, ⟨0, true⟩)],
      let s := votes vw.1 vw.2
      let n := nat x.1 x.2
      insOf (nativeInstr x.1 x.2) = some n ∧ s.passes n ∧ s.pack.ts = [0, 1]
      ∧ (∀ u ∈ s.pack.ts, (s.pthr u).guard n.f.guard = .take ∧ s.trapsAt 0 0 u)
      ∧ (vw.1.v ≠ 8 → ∀ u ∈ s.pack.ts, (if x.1 = .mtile then (n.mtileChk s.pgrp s.pwrp).own (s.pthr u) else (n.mcvtChk s.pgrp s.pwrp).own (s.pthr u)) = none)
      ∧ (x.1 = .mtile → ∀ u ∈ s.pack.ts, (n.mtileCmd s.pwrp (s.pthr u)).geoOk = true)
      ∧ (vw.1.p = true → ∀ u ∈ s.pack.ts, (if x.1 = .mtile then (n.mtileChk s.pgrp s.pwrp).pack (s.pthr u) else (n.mcvtChk s.pgrp s.pwrp).pack (s.pthr u)) = none))
    ∧ ((tile16 0).valid = true ∧ (tile16 0).space = 0 ∧ (tile16 0).box 2 = 1 ∧ (tile16 0).box 3 = 1)
    ∧ (∀ v ∈ [(⟨8, false⟩ : Val), ⟨0, true⟩], taken (site [{ th0 with g := [(6, v)] }] id) .mfmt (fw 7 6 0 0 0) = true) := by decide +kernel
/-- OperandsThatTrap: an image whose segment count is 0, and one whose reserved word is not 0. -/
theorem meets_OperandsThatTrap_images :
    (∀ b ∈ [true, false], let s := site [thr [(2, 0x100)], thr [(2, 0x100)]] (fun g => { g with scr := if b then [] else [(0x108, 1), (0x10C, 5)] })
      onceIn s .atld (fw 0 2 0 0 0x800) = true ∧ (∀ u ∈ s.pack.ts, s.trapsAt 0 0 u) ∧ s.pwrp.bank ≠ some 0 ∧ ((s.pthr 0).reg 2).p = false
      ∧ 0x100 + 64 ≤ s.pgrp.scrSize
      ∧ (List.range 4).map (fun j => leNat (fun a => FMap.get 0 s.pgrp.scr a) (0x100 + 4 * j) 4) = if b then [0, 0, 0, 0] else [0, 0, 1, 5]) := by decide +kernel
/-- FloatFormsAndValues: in each format a NaN, an infinity where it has one, and a number. -/
theorem meets_FloatFormsAndValues_formats :
    (∀ f ∈ [(fp32, 0x7F800001), (bf16, 0x7F81), (fp16, 0x7C01), (e4m3, 0x7F), (e5m2, 0x7D)], f.2 < 2 ^ f.1.width
      ∧ f.2 / 2 ^ f.1.fw % 2 ^ f.1.ew = 2 ^ f.1.ew - 1 ∧ (if f.1 = e4m3 then f.2 % 2 ^ f.1.fw = 7 else f.2 % 2 ^ f.1.fw ≠ 0))
    ∧ (∀ f ∈ [(fp32, 0xFF800000), (bf16, 0x7F80), (fp16, 0x7C00), (e5m2, 0x7C)], f.2 < 2 ^ f.1.width
      ∧ f.2 / 2 ^ f.1.fw % 2 ^ f.1.ew = 2 ^ f.1.ew - 1 ∧ f.2 % 2 ^ f.1.fw = 0)
    ∧ (∀ f ∈ [(fp32, 1), (e4m3, 0x7E), (e2m1, 7)], f.2 < 2 ^ f.1.width) := by decide
/-- SpecialOperandsAndExactCases, SpecialFunctionsWithinBounds: operands of every kind that their clauses name. -/
theorem meets_SpecialOperands_kinds :
    (fp32.decode 0x7F800001).isNan = true ∧ (fp32.decode 0xFF800000).isInf = true ∧ (fp32.decode 0x80000000).isZero = true
    ∧ (∀ w ∈ [0x3F800000, 0x40800000, 0x3E800000, 0xC3960000, 0x43000000, 0x33000000], (fp32.decode w).isNan = false ∧ (fp32.decode w).isInf = false
        ∧ (fp32.decode w).isZero = false ∧ ((fp32.decode w).neg = true ↔ w = 0xC3960000)) := by decide
/-- Their exact values: powers of 4 and of 2, and numbers at or beyond the bounds of Table 6-6. -/
theorem meets_SpecialOperands_values :
    (fp32.decode 0x40800000).rat = (4 : ℚ) ^ (1 : Int) ∧ (fp32.decode 0x40800000).rat = (2 : ℚ) ^ (2 : Int) ∧ (fp32.decode 0x3F800000).rat = 1
    ∧ (fp32.decode 0x3E800000).rat = 1 / 4 ∧ (fp32.decode 0xC3960000).rat ≤ -150 ∧ 128 ≤ (fp32.decode 0x43000000).rat
    ∧ |(fp32.decode 0x33000000).rat| < (2 : ℚ) ^ (-12 : Int) ∧ 91 / 10 ≤ |(fp32.decode 0x43000000).rat| := by
  rw [show fp32.decode 0x40800000 = .fin false 0x800000 (-21) by decide, show fp32.decode 0x3F800000 = .fin false 0x800000 (-23) by decide,
    show fp32.decode 0x3E800000 = .fin false 0x800000 (-25) by decide, show fp32.decode 0xC3960000 = .fin true 0x960000 (-15) by decide,
    show fp32.decode 0x43000000 = .fin false 0x800000 (-16) by decide, show fp32.decode 0x33000000 = .fin false 0x800000 (-48) by decide]
  norm_num [FV.rat, abs_of_pos]
/-- TileOperationsAndPartitions: packs in ascending order in each size of tile. -/
theorem meets_TileOperationsAndPartitions : (∀ p ∈ [2, 4, 8, 16, 32], let s := site [thr [(4, 3)], thr [(4, 5)], thr [(4, 3)]] (inWarp (fun w => { w with part := p }))
    s.pack.ts.Pairwise (· < ·) ∧ s.pwrp.part ∈ [2, 4, 8, 16, 32]
    ∧ (∀ x ∈ [(Op.shfl, fw 7 4 0 1 0x802), (.matchk, fw 7 4 0 0 1), (.redux, fw 7 4 0 0 8), (.redux, fw 7 4 0 0 9), (.redix, fw 6 4 0 0 0), (.scan, fw 7 4 0 0 0x18)],
        insOf (nativeInstr x.1 x.2) = some (nat x.1 x.2) ∧ s.passes (nat x.1 x.2) ∧ s.guardsClean (nat x.1 x.2))) := by decide +kernel
/-- PairedHalvesReadBeforeWriting: the half of a P word and the instruction of its form. -/
theorem meets_PairedHalves_forms : insOf (.add (fw 4 4 5 0 0)) = some (nat .add (fw 4 4 5 0 0))
    ∧ (halfIns ⟨3, 7, 4, 5, 0⟩ 0).map (fun k => k.op) = some .add ∧ (solo []).passes (nat .add (fw 4 4 5 0 0)) := by decide +kernel

/-- A warp of `tiles` with one operation pending. -/
def mopAt (c : MCmd) : State := tiles.modW 0 0 (fun w => { w with mops := [⟨5, c, 0, [0], none, 0, none⟩] })
/-- A tile of zeros is one that the hardware can hold. -/
theorem sane_zero : Tile.zero.sane := ⟨rfl, by decide, by decide, fun k => by simp [Tile.zero, FMap.get, Elem.zero]⟩
/-- MatrixStepsAreExact: a step of an mtile with two operands in scratch, and with a tile as one. -/
theorem meets_MatrixStepsAreExact_tile : (∀ b ∈ [true, false],
    let c := MCmd.tile 3 b 1 16 false (tile16 0) (tile16 0x200) 0 ⟨0x3F800000, false⟩ ⟨0x3F800000, false⟩
    let s := mopAt c
    s.chaserPick 0 0 0 = some (0, 0, ⟨5, c, 0, [0], none, 0, none⟩) ∧ (tile16 0).box 1 = 16 ∧ (tile16 0x200).box 0 = 16
    ∧ FMap.wf Tile.zero (s.wrp 0 0).tiles = true ∧ (s.wrp 0 0).tile 3 = Tile.zero ∧ 3 ≠ 1) := by decide +kernel
/-- A box of 2 by 2 FP16 elements of scratch. -/
def tile2 : Shape := shape [(0, 0x100), (3, 16), (4, 2), (5, 2), (6, 1), (7, 1), (8, 2), (9, 4), (10, 4), (11, 0x20002), (12, 0x10001)]
/-- MatrixStepsAreExact: a step of an mcvt to elements that do not overlap. -/
theorem meets_MatrixStepsAreExact_cvt :
    let c := MCmd.cvt tile2 3 0 0 0x1000
    let s := mopAt c
    let cell := fun (i : Ix) => 2 * (tile2.addr i).1 + (if tile2.width = 4 then (tile2.addr i).2 else 0)
    let size := if tile2.width = 4 then 1 else 2 * tile2.nbytes
    s.chaserPick 0 0 0 = some (0, 0, ⟨5, c, 0, [0], none, 0, none⟩) ∧ (s.grp 0).filesWf = true ∧ FMap.wf Tile.zero (s.wrp 0 0).tiles = true
    ∧ tile2.space = 0 ∧ 0x1000 / 2 ^ 12 % 16 ≤ 6 ∧ tile2.width = codeWidth (0x1000 / 2 ^ 12 % 16) ∧ tile2.boxIx.length = 4
    ∧ ∀ j ∈ tile2.boxIx, ∀ j' ∈ tile2.boxIx, ∀ i i', tile2.at' j = some i → tile2.at' j' = some i' → j ≠ j' →
        cell i + size ≤ cell i' ∨ cell i' + size ≤ cell i := by
  refine ⟨by decide +kernel, by decide +kernel, by decide +kernel, by decide, by decide, by decide, by decide, ?_⟩
  have h : ∀ j ∈ tile2.boxIx, ∀ j' ∈ tile2.boxIx, j ≠ j' → (match tile2.at' j, tile2.at' j' with
      | some i, some i' => decide ((tile2.addr i).1 + 2 ≤ (tile2.addr i').1) || decide ((tile2.addr i').1 + 2 ≤ (tile2.addr i).1)
      | _, _ => true) = true := by decide +kernel
  intro j hj j' hj' i i' e e' n
  have := h j hj j' hj' n
  rw [e, e'] at this
  have w : tile2.width = 16 := by decide
  have b : tile2.nbytes = 2 := by decide
  simp only [w, b]
  simp only [Bool.or_eq_true, decide_eq_true_eq] at this
  norm_num
  omega
/-- MatrixStepsAreExact: a step of an mld and of an mexp, and a tile to store and load. -/
theorem meets_MatrixStepsAreExact_images :
    (∀ c ∈ [MCmd.ld 3 0x1000 false, .ex 3 0x1000 false], let s := mopAt c
      s.chaserPick 0 0 0 = some (0, 0, ⟨5, c, 0, [0], none, 0, none⟩) ∧ FMap.wf Tile.zero (s.wrp 0 0).tiles = true
      ∧ FMap.wf Elem.zero ((s.wrp 0 0).tile 3).e = true ∧ (s.grp 0).filesWf = true ∧ 0x1000 % 16 = 0)
    ∧ Tile.zero.sane ∧ FMap.wf Elem.zero Tile.zero.e = true := ⟨by decide +kernel, sane_zero, rfl⟩

/-! Witnesses of the clauses that rest on more than one kind of state. -/

/-- ActivationsEvaluated: a bank whose lo, inv and nseg R146 allows, and a warp that selects no bank. -/
theorem meets_ActivationsEvaluated_bounds :
    (let w := fun (off : Nat) => FMap.get Val.zero (FMap.get ActBank.void ((solo []).core 0 0).banks 3).img (off / 4)
     (∀ o ∈ [0, 4], (fp32.decode (w o).v.toNat).isNan = false ∧ (fp32.decode (w o).v.toNat).isInf = false) ∧ (w 8).v.toNat ≤ 256)
    ∧ (let s := solo []
       s.pwrp.bank = none ∧ meets s (.fact, fw 1 0 2 0 0) = true
       ∧ ∀ u ∈ s.pack.ts, (s.pthr u).guard 7 = .take ∧ s.trapsAt 0 0 u) := by decide +kernel
/-- TrapsTakenAndEscalated, BranchesCallsAndReturns: a thread whose kernel descriptor holds trap entry 0, and tret outside a handler. -/
theorem meets_TrapsTaken_entry :
    (let s := site [th0] (inWarp (fun w => { w with kd := { kd0 with trap := 0 } }))
     aloneIn s .trap (fw 0 0 0 0x42 0x800) = true ∧ aloneIn s .bkpt (fw 0 0 0 1 0x800) = true ∧ s.pwrp.kd.trap = 0
     ∧ (s.pthr 0).live = true ∧ s.pgrp.alive = true)
    ∧ (aloneIn (solo []) .tret (fw 0 0 0 0 0) = true ∧ (solo []).trapsAt 0 0 0) := by decide
/-- NoticesFlagsYieldCallsAndExit: exit in a thread that the Spinner created, and a call with nothing unsent. -/
theorem meets_Exit_lane :
    (let s := laneAt (run0 .divide)
     aloneIn s .exit (fw 0 0 0 0 0) = true ∧ (s.pthr 0).kind = .lane 0 0 ∧ s.trapsAt 0 0 0)
    ∧ (solo []).unsent 0 5 = false := by decide
/-- ScratchAtomics: an access that its pack made at this step stands in the bank queue, and one of an earlier step does not count. -/
theorem meets_ScratchAtomics_behind : ∀ c ∈ [0, 9],
    let s := { site [thr [(2, 0x40)]] (fun g => { g with bank := [⟨1, 1, 0x40, 4, 1, .atom 5 false 0 1 0, none, c⟩] }) with clock := 9 }
    aloneIn s .atms (fw 6 2 8 0 0) = true ∧ s.pgrp.packHit s.pack.w 0x40 4 s.clock = decide (c = 9)
      ∧ s.scrHold 0 0 0 0x40 4 true = none := by decide +kernel
/-- ShapesMove: a load by a poisoned address. -/
theorem meets_ShapesMove_address : let s := site [{ th0 with g := [(3, ⟨0x40, true⟩)] }] id
    onceIn s .hld (fw 2 3 0 0 0x800) = true ∧ onceIn s .hld (fw 2 3 0 0 0x808) = true ∧ ((s.pthr 0).reg 3).p = true
      ∧ s.pwrp.slow = false ∧ s.pgrp.filesWf = true := by decide +kernel
/-- OperandsThatTrap: poisoned operands of hst, xbar, tspawn and sysc, of an object and of no object. -/
theorem meets_OperandsThatTrap_operands :
    (∀ x ∈ [(Op.hst, fw 1 6 0 0x40 0x800), (.xbarInit, fw 0 6 0 0x80 0x800), (.xbarInval, fw 0 6 0 0 3), (.tspawn, fw 0 2 6 0 0), (.sysc, fw 8 0 0 3 0x800)],
      taken (psnAt 0x40 6 0x100) x.1 x.2 = true ∧ lowestOf (psnAt 0x40 6 0x100) x.1 x.2 6 = true)
    ∧ (∀ v ∈ [true, false], let s := site [{ th0 with g := [(6, ⟨0x200, true⟩)] }] (fun g => { g with xbars := if v then [0x200] else [] })
      taken s .xbarArrive (fw 0 6 0 1 0x801) = true ∧ taken s .xbarWait (fw 0 6 0 0 2) = true
      ∧ lowestOf s .xbarArrive (fw 0 6 0 1 0x801) 6 = true ∧ s.pgrp.xbValid 0x200 = v ∧ 0x200 + 16 ≤ s.pgrp.scrSize) := by decide +kernel
/-- OperandsThatTrap: queue and recursion instructions whose own checks pass, and a poisoned target of ret. -/
theorem meets_OperandsThatTrap_units :
    (∀ x ∈ [(Op.qrsv, fw 8 4 0 0 0), (.qenq, fw 0 4 16 0 0), (.qdeq, fw 16 4 0 0 0), (.qstat, fw 8 4 0 0 0)],
      let s := { site [{ th0 with g := [(4, ⟨0x200, true⟩), (5, ⟨0x0007F000, false⟩)] }] id with queues := [queue0 0 1 .opened] }
      taken s x.1 x.2 = true ∧ lowestOf s x.1 x.2 4 = true ∧ s.queueOf s.pgrp.vdev ((s.pthr 0).reg64 4) = some 0
      ∧ (s.queue 0).waits = [] ∧ chkQueue (nat x.1 x.2) s 0 0 0 = none)
    ∧ (let s := { psnAt 0x2000 2 0x2000 with mem := objMem true }
       taken s .rstart (fw 0 2 0 0 0) = true ∧ lowestOf s .rstart (fw 0 2 0 0 0) 2 = true ∧ chkRstart (nat .rstart (fw 0 2 0 0 0)) s 0 0 0 = none)
    ∧ (let x := { run0 .divide with frames := [⟨0, none, 0, 0, .dividing, 0, 0, 0, [], []⟩] }
       let s := { site [{ th0 with kind := .lane 0 0, g := [(16, ⟨3, true⟩)] }] (fun g => { g with kind := .lanes 0 }) with spinners := [x] }
       taken s .rchild (fw 0 0 16 0 0) = true ∧ lowestOf s .rchild (fw 0 0 16 0 0) 16 = true ∧ s.laneOf 0 0 0 = some (0, 0, 0, .divide)
       ∧ (x.frame 0).nch ≠ x.fan ∧ (x.frame 0).depth ≠ x.maxDepth ∧ x.free ≠ none)
    ∧ (let x := { run0 .combine with frames := [⟨0, none, 1, 1, .combining, 0, 0, 0, [], []⟩, ⟨1, some 0, 0, 0, .done, 1, 0, 0, [], []⟩] }
       let s := { site [{ th0 with kind := .lane 0 0, g := [(16, ⟨0, true⟩)] }] (fun g => { g with kind := .lanes 0 }) with spinners := [x] }
       taken s .rres (fw 12 0 16 0 0) = true ∧ lowestOf s .rres (fw 12 0 16 0 0) 16 = true ∧ s.laneOf 0 0 0 = some (0, 0, 0, .combine)
       ∧ ((s.pthr 0).reg 16).v.toNat < (x.frame 0).nch)
    ∧ taken (psnAt 0x40 6 0x401) .ret (fw 0 6 0 0 0) = true := by decide +kernel
/-- QueueTickets: what an enqueue is charged and writes, and what a dequeue is charged. -/
theorem meets_QueueTickets_paid : let s := queues (queue0 0 1 .opened) 0x0007F000 true
    (∀ d ∈ s.dies, ∀ z ∈ d.faults, z.src ≠ .fetch ⟨0, 0, 0⟩)
    ∧ (okOf (((((s.releasedBy 0 0 4).modT 0 0 0 (fun z => { z with spinCh := true })).modT 0 0 0 (fun z =>
          z.block (.queue ((s.pthr 0).reg64 4)) 1)).charge 0 1 [⟨0x9040, 64, .write⟩]).bind (fun r =>
        r.writeN 0 1 0x9040 false (leBytes 0x11234 4 ++ leBytes 0 60)))).isSome = true
    ∧ (okOf (s.charge 0 1 [⟨0x9000, 64, .read⟩])).isSome = true := by decide +kernel
/-- CommandsRunAndSpansFill: the write-back of a sector with one dirty byte that no other workgroup holds. -/
theorem meets_CommandsRunAndSpansFill_writeBack :
    let s := { site [{ th0 with sched := .stalled (.writeBack (some 2)) }] (fun g => { g with spans := [(2, some ⟨0x400, 0x4000, 0x400, [(0, ⟨true, false, [5], 0, []⟩)], []⟩)] }) with mem := mem0 }
    0 < s.groups.length ∧ (s.grp 0).filesWf = true ∧ ((s.grp 0).span 2).map (fun sp => (sp.len, (sp.sec 0).dirty)) = some (1024, [5])
    ∧ (∀ d ∈ s.dies, d.spanDir = [] ∧ d.toks = []) ∧ s.late.headD 0 = 0 ∧ s.spanHeld 0 2 0 = false
    ∧ s.entryAbsent 1 [⟨0x4005, 1, .write⟩] = none ∧ okAll (s.writeB 0 1 0x4005 0 0xFF .keep .write false) (fun _ => true) = true := by decide +kernel
/-- ClusterEventsAct: a run that is lost, without lanes; a queue that is lost, with a thread blocked at it. -/
theorem meets_ClusterEventsAct_lost :
    ((empty.spin 0).st = .running ∧ (empty.spin 0).grp = none ∧ ∀ y ∈ (solo []).dies, y.toks = [] ∧ y.faults = [])
    ∧ (let s := { site [{ th0 with sched := .blocked (.queue 7) }] id with queues := [{ queue0 0 1 .opened with waits := [⟨⟨0, 0, 0⟩, .deq 16, true⟩] }], pack := ⟨0, 0, []⟩ }
       0 < s.queues.length ∧ (s.queue 0).st ≠ .closed ∧ (s.queue 0).waits = [⟨⟨0, 0, 0⟩, .deq 16, true⟩]
       ∧ (s.thr 0 0 0).sched = .blocked (.queue 7) ∧ s.trapsAt 0 0 0 ∧ 0 < (s.wrp 0 0).threads.length) := by decide +kernel
/-- SavesAndCoreErrors: a save that has written back, with what its die has sent; and one that has not. -/
theorem meets_SavesAndCoreErrors_unsent : (∀ b ∈ [true, false], let s := { site [th0] (fun g => { g with save := .writing }) with
      fab := { Fabric.zero with unack := if b then [⟨0, 0, 0, 0x4000, 4, 2⟩] else [] } }
    (s.grp 0).save = .writing ∧ s.unsent 0 5 = b ∧ ∀ y ∈ (s.grp 0).warps, y.spillBad = []) := by decide
/-- CallsAskAndWait: an argument word beyond the call's own that is not 0. -/
theorem meets_CallsAskAndWait_rest : ∀ x ∈ [(0, 0), (2, 2), (2, 3), (3, 0xC)], (callOf x.2 [1, 1, 1, 1]).args.getD 3 0 = 1 ∧ x.1 ≤ 3
    ∧ ((calling x.2 [1, 1, 1, 1]).call 5).map (fun c => c.num) = some x.2 := by decide
/-- PartAndLinkEventsAct: a link that goes down, with nothing reserved for its peer, and with a device that is reserved. -/
theorem meets_PartAndLinkEventsAct_reserved : (∀ r ∈ [([] : List Reserved), [⟨4, 3, 1, none⟩]],
    let s := { solo [] with fab := { Fabric.zero with links := [(2, ⟨true, 4, 8, 0, 0, false, 0⟩)], reserved := r } }
    (FMap.get Link.zero s.fab.links 2).up = true ∧ ((∀ x ∈ s.fab.reserved, x.src = 4 → x.state ≠ none) ↔ r = [])) := by decide
/-- OutsideRequestsServed: a request that reaches past its page, one that its memory tokens admit; bytes that a requester may and may not
write; a window page that cannot be written. -/
theorem meets_OutsideRequestsServed_bounds :
    65536 < 65534 + 4 ∧ fabric0.link 2 = ⟨true, 4, 8, 0, 0, false, 0⟩
    ∧ (okOf (fabric0.charge 4 1 [⟨0x40, 4, .read⟩])).isSome = true
    ∧ (okOf ((fabric0.charge 4 1 [⟨0x40, 2, .write⟩]).bind (fun c => c.land 4 1 0x40 [1, 2] []))).isSome = true
    ∧ (okOf (({ fabric0 with dies := fabric0.dies.map (fun d => { d with toks := [⟨1, 0, 1, 0, 0, 0, false⟩] }) } : State).charge 4 1 [⟨0x40, 2, .write⟩])) = none
    ∧ fabric0.outGranted 0x40 1 0xFFFF 1 true = true ∧ fabric0.outGranted 0x40 1 0x10000 1 true = false
    ∧ (let s := { fabric0 with fab := { fabric0.fab with bar2 := [⟨7, 0, false⟩] } }
       s.fab.bar2.find? (fun m => m.win == 7) = some ⟨7, 0, false⟩) := by decide +kernel
/-- DevicesMigrate: an action that stands before the move; a state sent before the commit with a call that waits; a marker behind a
request that waits; a peer reached through a neighbour. -/
theorem meets_DevicesMigrate_waits :
    (let s := { leaving 1 .owned [] with vdevs := [{ dev1 with actions := [2] }] }
     s.actions 1 = [2] ∧ 2 ≠ 3 + 16 * (2 * 1 + 1))
    ∧ (let s := { leaving 2 .owned [] with calls := [callOf 3 [3]] }
       s.allSaved 1 = true ∧ ∀ c ∈ s.calls, c.vdev = 1 → c.fromHost = true ∨ c.res.isSome = true ∨ c.num ∈ [1, 3, 0xA, 0xD])
    ∧ (let s := { arriving [0] with fab := { (arriving [0]).fab with waiting := [⟨2, 4, 3, 0, 0, 0, 4, [], []⟩] } }
       (∃ q ∈ s.fab.waiting, q.link = 2) ∧ ∀ q ∈ s.fab.waiting, q.link ≠ 3)
    ∧ (let s := { fabric0 with fab := { fabric0.fab with routes := [(9, 4)] } }
       s.linksTo 9 = [] ∧ s.linksTo (FMap.get 64 s.fab.routes 9) = [2]) := by decide +kernel
end Sys2Proof.Tests
end

section
/-! ## What reset leaves (O53) -/
namespace Sys2Proof.Machine

/-- Every die of the reset state, and every number past the last one, reads as the empty die. -/
theorem State.reset_die (d : Nat) : State.reset.die d = Die.zero := by
  rcases d with _ | _ | _ | _ | d <;> rfl

/-- No core has left its default at reset. -/
theorem State.reset_core (d c : Nat) : State.reset.core d c = Core.default := by
  rw [State.core, State.reset_die]; rfl

/-- Settles O53: each part of the state is the empty one that `State.reset` writes out; for the dies and the cores, whatever
their number, by the two lemmas above. -/
theorem resetLeaves : Obligations.ResetLeaves := by
  refine ⟨rfl, rfl, rfl, rfl, rfl, fun _ => ⟨rfl, rfl⟩, rfl, rfl, rfl, rfl, rfl, rfl, rfl, fun d => ?_, rfl, rfl, rfl, rfl, rfl⟩
  rw [State.reset_die]
  refine ⟨rfl, rfl, rfl, rfl, rfl, rfl, fun c => ?_⟩
  rw [State.reset_core]
  exact ⟨rfl, rfl, rfl⟩

end Sys2Proof.Machine
end

section
/-! ## Every step keeps physical memory canonical and the dies (O59)

Three functions of the model write physical memory: `State.setPbyte`, `State.copyPhys` and `State.zeroPhys`, whose laws
stand in Laws/Memory. One changes a die, `State.modD`; the rest map over all of them. Everything a step does to the state
is made of these and of updates of other fields.

`Kept s0 s` says that `s` has what the theorem asks for, seen from the state `s0` in which the step began. The lemma
`Kept.f`, one for each function `f` of the model that answers a state, carries it through `f`; its proof follows the body
of `f`, so that `h.f.g` reads as `g` after `f`. Where a function answers more than a state (an option, a pair, the answer
to a system call), an `On…` predicate says it of the states in the answer. -/
namespace Sys2Proof.Machine

/-- What every step keeps of a state: physical memory is canonical where it was, and there are as many dies. -/
structure Kept (s0 s : State) : Prop where
  wf : s0.wf = true → s.wf = true
  dies : s.dies.length = s0.dies.length

/-- The value, where there is one, meets `P`. -/
inductive OnSome {α : Type} (P : α → Prop) : Option α → Prop
  | none : OnSome P Option.none
  | some {a : α} : P a → OnSome P (Option.some a)

/-- The error meets `E`, the value `P`. -/
inductive OnExcept {ε α : Type} (E : ε → Prop) (P : α → Prop) : Except ε α → Prop
  | error {e : ε} : E e → OnExcept E P (.error e)
  | ok {a : α} : P a → OnExcept E P (.ok a)

/-- The value, where there is no error, meets `P`. -/
abbrev OnOk {ε α : Type} (P : α → Prop) (x : Except ε α) : Prop := OnExcept (fun _ => True) P x

/-- The first part of the pair meets `P`. -/
structure OnFst {α β : Type} (P : α → Prop) (x : α × β) : Prop where
  fst : P x.1

/-- The next state, where there is one, meets `P`. -/
inductive OnNext (P : State → Prop) : Host.Outcome State Fault Refusal → Prop
  | next {s : State} : P s → OnNext P (.next s)
  | fault {f : Fault} : OnNext P (.fault f)
  | refused {r : Refusal} : OnNext P (.refused r)

/-- The state an operation of the whole pack gives back, where it gives one, meets `P`. -/
inductive OnOnce (P : State → Prop) : Once → Prop
  | done {s : State} : P s → OnOnce P (.done s)
  | trap {k : Nat} {v : DWord} : OnOnce P (.trap k v)
  | stall {w : StallWhy} : OnOnce P (.stall w)
  | block {b : BlockWhy} : OnOnce P (.block b)

/-- The state that goes with the answer to a system call meets `P`. -/
inductive OnReply (P : State → Prop) : Reply → Prop
  | done {s : State} {v : DWord} : P s → OnReply P (.done s v)
  | hold {s : State} : P s → OnReply P (.hold s)
  | err {v : Nat} : OnReply P (.err v)
  | wait : OnReply P .wait

/-- The state after an attempt to serve a waiter of a queue meets `P`. -/
inductive OnServed (P : State → Prop) : Served → Prop
  | done {s : State} : P s → OnServed P (.done s)
  | held {s : State} : P s → OnServed P (.held s)
  | waits : OnServed P .waits

/-- The state after a management request meets `P`. -/
inductive OnServed' (P : State → Prop) : Served' → Prop
  | done {s : State} {v l m} : P s → OnServed' P (.done s v l m)
  | wait {s : State} : P s → OnServed' P (.wait s)

section
variable {α β γ ε : Type} {P : α → Prop} {Q : β → Prop} {E : ε → Prop} {R : State → Prop} {a b : α} {e : ε} {c : Prop}
  [Decidable c]

/-! What a predicate says of an answer known by its constructor, and of an answer built from others. -/

theorem OnSome.of {x : Option α} (h : ∀ {a}, x = Option.some a → P a) : OnSome P x := by
  cases x with
  | none => exact .none
  | some a => exact .some (h rfl)

theorem OnSome.get {x : Option α} (h : OnSome P x) (hx : x = Option.some a) : P a := by
  cases h with
  | none => cases hx
  | some h => cases hx; exact h

theorem OnSome.getD {x : Option α} (h : OnSome P x) (ha : P a) : P (x.getD a) := by cases h <;> assumption

theorem OnSome.map {x : Option α} {f : α → β} (h : OnSome P x) (hf : ∀ {a}, P a → Q (f a)) : OnSome Q (x.map f) := by
  cases h with
  | none => exact .none
  | some h => exact .some (hf h)

/-- Where `P` holds of what `f` makes of any value. -/
theorem OnSome.mapAll {x : Option α} {f : α → β} (hf : ∀ {a}, Q (f a)) : OnSome Q (x.map f) := by
  cases x with
  | none => exact .none
  | some a => exact .some hf

theorem OnSome.bind {x : Option α} {f : α → Option β} (h : OnSome P x) (hf : ∀ {a}, P a → OnSome Q (f a)) :
    OnSome Q (x.bind f) := by
  cases h with
  | none => exact .none
  | some h => exact hf h

theorem OnExcept.getOk {x : Except ε α} (h : OnExcept E P x) (hx : x = .ok a) : P a := by
  cases h with
  | error h => cases hx
  | ok h => cases hx; exact h

theorem OnExcept.getError {x : Except ε α} (h : OnExcept E P x) (hx : x = .error e) : E e := by
  cases h with
  | error h => cases hx; exact h
  | ok h => cases hx

/-- The second part is free. -/
theorem OnFst.pair {x : α × β} {z : γ} (h : OnFst P x) : OnFst P (x.1, z) := ⟨h.fst⟩

theorem OnFst.get {x : α × β} {z : β} (h : OnFst P x) (hx : x = (a, z)) : P a := by cases hx; exact h.fst

theorem OnNext.get {x s} (h : OnNext R x) (hx : x = .next s) : R s := by cases h <;> cases hx; assumption

theorem OnOnce.getDone {x s} (h : OnOnce R x) (hx : x = .done s) : R s := by cases h <;> cases hx; assumption

theorem OnReply.getDone {x s v} (h : OnReply R x) (hx : x = .done s v) : R s := by cases h <;> cases hx; assumption

theorem OnReply.getHold {x s} (h : OnReply R x) (hx : x = .hold s) : R s := by cases h <;> cases hx; assumption

theorem OnServed.getDone {x s} (h : OnServed R x) (hx : x = .done s) : R s := by cases h <;> cases hx; assumption

theorem OnServed.getHeld {x s} (h : OnServed R x) (hx : x = .held s) : R s := by cases h <;> cases hx; assumption

theorem OnServed'.getDone {x s v l m} (h : OnServed' R x) (hx : x = .done s v l m) : R s := by
  cases h <;> cases hx; assumption

theorem OnServed'.getWait {x s} (h : OnServed' R x) (hx : x = .wait s) : R s := by cases h <;> cases hx; assumption

theorem OnSome.ite {x y : Option α} (hx : OnSome P x) (hy : OnSome P y) : OnSome P (if c then x else y) := by
  split <;> assumption

theorem OnExcept.ite {x y : Except ε α} (hx : OnExcept E P x) (hy : OnExcept E P y) :
    OnExcept E P (if c then x else y) := by split <;> assumption

theorem OnFst.ite {x y : α × β} (hx : OnFst P x) (hy : OnFst P y) : OnFst P (if c then x else y) := by split <;> assumption

theorem OnNext.ite {x y} (hx : OnNext R x) (hy : OnNext R y) : OnNext R (if c then x else y) := by split <;> assumption

theorem OnOnce.ite {x y} (hx : OnOnce R x) (hy : OnOnce R y) : OnOnce R (if c then x else y) := by split <;> assumption

theorem OnReply.ite {x y} (hx : OnReply R x) (hy : OnReply R y) : OnReply R (if c then x else y) := by split <;> assumption

theorem OnReply.awayReply {k : Nat} : OnReply R (awayReply k) := .ite .wait .err

theorem OnServed.ite {x y} (hx : OnServed R x) (hy : OnServed R y) : OnServed R (if c then x else y) := by
  split <;> assumption

theorem OnServed'.ite {x y} (hx : OnServed' R x) (hy : OnServed' R y) : OnServed' R (if c then x else y) := by
  split <;> assumption
end

variable {s0 s : State}
variable {a addr block c cause code d dest fr frame func g id img k kind n num off pa page part pos q region root scope sdev
  src status t tag u v va w : Nat}
variable {act gs slots tables ts units : List Nat}
variable {data extra l r : List Byte}
variable {late p repl : Bool}
variable {res seq val : DWord}
variable {b mask : Byte}
variable {f : ScrForm}
variable {e : Entry}
variable {rs : List Req}
variable {body : State → Served'}
variable {i : Ins}
variable {chk : State → Nat → Nat → Nat → Cause}
variable {m : AssayMove}
variable {x : Call}
variable {st : ExecState}
variable {check : Half}
variable {frames : Frames}

theorem Kept.refl (s : State) : Kept s s := ⟨id, rfl⟩

section
variable {clock : Nat} {poison : List Nat} {groups : List Group} {vdevs : List VDev} {regions : List Region}
  {launches : List Launch} {queues : List HwQueue} {spinners : List Spinner} {tasks : List Task} {calls : List Call}
  {images : List Image} {ckpts : List Ckpt} {pkg : Package} {fab : Fabric} {inputs : List Input} {agenda : List Instr}
  {turn late : List Nat} {pack : Pack}

/-- An update of any fields other than the memory and the dies. -/
theorem Kept.same (h : Kept s0 s) :
    Kept s0 ⟨clock, s.mem, poison, s.dies, groups, vdevs, regions, launches, queues, spinners, tasks, calls, images, ckpts,
      pkg, fab, inputs, agenda, turn, late, pack⟩ :=
  ⟨h.wf, h.dies⟩

/-- Such an update, with every die changed by one function. -/
theorem Kept.mapDies {f : Die → Die} (h : Kept s0 s) :
    Kept s0 ⟨clock, s.mem, poison, s.dies.map f, groups, vdevs, regions, launches, queues, spinners, tasks, calls, images,
      ckpts, pkg, fab, inputs, agenda, turn, late, pack⟩ :=
  ⟨h.wf, by simp [h.dies]⟩
end

theorem Kept.ite {a b : State} {c : Prop} [Decidable c] (ha : Kept s0 a) (hb : Kept s0 b) : Kept s0 (if c then a else b) := by
  split <;> assumption

theorem Kept.foldl {α : Type} {l : List α} {f : State → α → State} (h : Kept s0 s)
    (hf : ∀ {r a}, Kept s0 r → Kept s0 (f r a)) : Kept s0 (l.foldl f s) :=
  foldl_keeps (Kept s0) f (fun _ _ => hf) l s h

theorem OnFst.foldl {α β γ : Type} {P : β → Prop} {l : List α} {f : β × γ → α → β × γ} {b : β × γ} (h : OnFst P b)
    (hf : ∀ {r a}, OnFst P r → OnFst P (f r a)) : OnFst P (l.foldl f b) :=
  foldl_keeps (OnFst P) f (fun _ _ => hf) l b h

/-! ### Machine/Access: groups, warps and threads changed -/

theorem Kept.modG {f : Group → Group} (h : Kept s0 s) : Kept s0 (s.modG g f) := h.same
theorem Kept.modW {f : Warp → Warp} (h : Kept s0 s) : Kept s0 (s.modW g w f) := h.modG
theorem Kept.modT {f : Thread → Thread} (h : Kept s0 s) : Kept s0 (s.modT g w t f) := h.modG
theorem Kept.modD {f : Die → Die} (h : Kept s0 s) : Kept s0 (s.modD d f) := ⟨h.wf, by simp [State.modD_dies', h.dies]⟩
theorem Kept.modC {f : Core → Core} (h : Kept s0 s) : Kept s0 (s.modC d c f) := h.modD
theorem Kept.unstall {p : StallWhy → Bool} (h : Kept s0 s) : Kept s0 (s.unstall g w p) := h.modW

/-! ### Machine/Memory: memory, paths, translations and charges -/

/-- One byte written: `State.setPbyte_wf`. -/
theorem Kept.setPbyte {b : Byte} (h : Kept s0 s) : Kept s0 (s.setPbyte pa b) :=
  ⟨fun h0 => s.setPbyte_wf pa b (h.wf h0), h.dies⟩

theorem Kept.setPsn (h : Kept s0 s) : Kept s0 (s.setPsn pa p) := h.same

theorem Kept.setPbytes {l : List Byte} (h : Kept s0 s) : Kept s0 (s.setPbytes pa l) := by
  induction l generalizing s pa with
  | nil => exact h
  | cons b l ih => exact ih h.setPbyte

theorem Kept.zeroP (h : Kept s0 s) : Kept s0 (s.zeroP a n) := by
  induction n generalizing s a with
  | zero => exact h
  | succ n ih => exact ih h.setPbyte

theorem Kept.claimLine (h : Kept s0 s) : Kept s0 (s.claimLine v pa) := by
  refine .ite h ?_
  split; exacts [h, h.zeroP.setPsn.setPsn.modD]

theorem Kept.markPsn {p : Psn} (h : Kept s0 s) : Kept s0 (s.markPsn pa p) := by
  unfold State.markPsn
  split; exacts [h, h.setPsn, h.setPsn]

theorem Kept.writePa {p : Psn} (h : Kept s0 s) : Kept s0 (s.writePa v pa b mask p) := h.claimLine.setPbyte.markPsn
theorem Kept.setPath {l : List PathWr} (h : Kept s0 s) : Kept s0 (s.setPath d k l) := h.modD
theorem Kept.performPath {l : List PathWr} (h : Kept s0 s) : Kept s0 (s.performPath l) := h.foldl fun h => h.writePa

theorem Kept.drainPath (h : Kept s0 s) : Kept s0 (s.drainPath d k) := by
  unfold State.drainPath
  split; exacts [h, h.setPath.performPath]

theorem Kept.arrivePath (h : Kept s0 s) : Kept s0 (s.arrivePath d k) := by
  unfold State.arrivePath
  split; exacts [h, h.setPath.performPath]

theorem Kept.drainDie (h : Kept s0 s) : Kept s0 (s.drainDie d) := h.foldl fun h => h.drainPath
theorem Kept.drainAll (h : Kept s0 s) : Kept s0 s.drainAll := h.foldl fun h => h.drainDie
theorem Kept.popLate (h : Kept s0 s) : Kept s0 s.popLate := h.same

theorem Kept.homeWrite {p : Psn} (h : Kept s0 s) : Kept s0 (s.homeWrite d v pa b mask p late) :=
  .ite h.setPath h.drainPath.writePa

theorem Kept.setPeerByte {p : Peer} {ps : Psn} (h : Kept s0 s) : Kept s0 (s.setPeerByte p pos b ps) := .ite h.same h.same

theorem Kept.drainTo (h : Kept s0 s) : Kept s0 (s.drainTo d v va) := by
  unfold State.drainTo
  split; exacts [h.drainPath, h]

theorem Kept.writeB {b mask : Byte} {p : Psn} {n : Need} (h : Kept s0 s) :
    OnOk (Kept s0) (s.writeB d v va b mask p n late) := by
  unfold State.writeB
  cases s.locate d v va n with
  | error k => exact .error trivial
  | ok x =>
    cases x with
    | here pa => dsimp only [bind, Except.bind]; split; exacts [.ok h.homeWrite, .ok (h.foldl fun h => h.writePa)]
    | peer part pos => dsimp only [bind, Except.bind]; split; exacts [.ok h.setPeerByte, .error trivial]

theorem Kept.writeN {p : Bool} {l : List Byte} (h : Kept s0 s) : OnOk (Kept s0) (s.writeN d v va p l) := by
  induction l generalizing s va with
  | nil => exact .ok h
  | cons b l ih => unfold State.writeN; split; exacts [.error trivial, ih (h.writeB.getOk ‹_›)]

theorem Kept.clearPsn (h : Kept s0 s) : Kept s0 (s.clearPsn d v va n) := by
  refine .ite h (h.foldl fun h => h.foldl fun h => ?_)
  split; exacts [h.setPsn, h]

theorem Kept.writeClean (h : Kept s0 s) : OnOk (Kept s0) (s.writeClean d v va l) := by
  unfold State.writeClean
  split; exacts [.error trivial, .ok (.clearPsn (h.writeN.getOk ‹_›))]

theorem Kept.vput (h : Kept s0 s) : Kept s0 (s.vput v va l) := by
  unfold State.vput
  split; exacts [h.writeClean.getOk ‹_›, h]

theorem Kept.putVals {l : List Val} (h : Kept s0 s) : Kept s0 (s.putVals d v va l) := by
  refine h.vput.foldl fun h => .ite ?_ h
  split; exacts [h.writeN.getOk ‹_›, h]

theorem Kept.land {psn : NSet} (h : Kept s0 s) : OnOk (Kept s0) (s.land d v va data psn) := by
  unfold State.land
  split
  · exact .error trivial
  · refine .ok (.foldl (h.writeClean.getOk ‹_›) fun h => ?_)
    split; exacts [h.writeB.getOk ‹_›, h]

theorem Kept.foldHits {e : TlbEnt} (h : Kept s0 s) : Kept s0 (s.foldHits d e) := .ite h h.modD

theorem Kept.bring {hits : Nat} {write : Bool} (h : Kept s0 s) : Kept s0 (s.bring d v page hits write) := by
  refine .ite h.modD ?_
  split
  · exact h
  · refine .modD (.ite h ?_)
    split; exacts [h, h.foldHits.modD]

theorem Kept.touch {write : Bool} (h : Kept s0 s) : Kept s0 (s.touch d v page write) := h.bring
theorem Kept.violate {phys : Bool} {addr : DWord} (h : Kept s0 s) : Kept s0 (s.violate d phys kind v src addr) := h.modD
theorem Kept.newId (h : Kept s0 s) : OnFst (Kept s0) s.newId := ⟨h.same⟩
theorem Kept.report {r : Report} (h : Kept s0 s) : Kept s0 (s.report r) := h.same

theorem Kept.charge (h : Kept s0 s) : OnOk (Kept s0) (s.charge d v rs) :=
  .ite (.ok h) (foldl_keeps (OnOk (Kept s0)) _ (fun _ _ hr => by
    split
    · exact .error trivial
    · split; exacts [.error trivial, .ok (hr.getOk rfl).modD]) _ _ (.ok h))

theorem Kept.markWait (h : Kept s0 s) : Kept s0 (s.markWait d v rs) := by
  unfold State.markWait
  split; exacts [h, h.modD]

theorem Kept.touchNew {seen : NSet} (h : Kept s0 s) : Kept s0 (s.touchNew d v rs seen) := h.foldl fun h => h.bring
theorem Kept.touchReqs (h : Kept s0 s) : Kept s0 (s.touchReqs d v rs) := h.touchNew

theorem Kept.fillLine (h : Kept s0 s) : Kept s0 (s.fillLine d c v va) := by
  refine .ite h ?_
  dsimp only
  split
  · exact h.touch.modC
  · split; exacts [h, h.modD.touch.modC]

theorem Kept.payLine (h : Kept s0 s) : OnExcept (Kept s0) (Kept s0) (s.payLine d c v va) := by
  refine .ite ?_ (.ok h)
  dsimp only
  split; exacts [.ok (h.charge.getOk ‹_›), .error h.markWait]

theorem Kept.fetchWord (h : Kept s0 s) : OnExcept (Kept s0) (OnFst (Kept s0)) (s.fetchWord d c v va) := by
  unfold State.fetchWord
  split
  · exact .error h
  · split; exacts [.error (h.payLine.getError ‹_›), .ok ⟨.fillLine (h.payLine.getOk ‹_›)⟩]

/-! ### Machine/Ops: ends, traps and regions -/

theorem Kept.mapSpans {f : SpanEnt → SpanEnt} (h : Kept s0 s) : Kept s0 (s.mapSpans f) := h.mapDies
theorem Kept.released (h : Kept s0 s) : Kept s0 (s.released g scope) := .ite h (.mapSpans (.ite h h.drainDie))
theorem Kept.acquires (h : Kept s0 s) : Kept s0 (s.acquires g scope) := .ite h h.mapSpans
theorem Kept.releasedBy (h : Kept s0 s) : Kept s0 (s.releasedBy g u scope) := .ite h h.released.modG
theorem Kept.faultLaunch (h : Kept s0 s) : Kept s0 (s.faultLaunch id) := h.same
theorem Kept.exitedGang (h : Kept s0 s) : Kept s0 (s.exitedGang id d) := h.same
theorem Kept.clearBanks (h : Kept s0 s) : Kept s0 (s.clearBanks v d c) := .ite h h.modC
theorem Kept.release (h : Kept s0 s) : Kept s0 (s.release g) := h.modG.mapDies.clearBanks

theorem Kept.settle (h : Kept s0 s) : Kept s0 (s.settle g) := by
  refine .ite ?_ h
  split; exacts [h.released.release.exitedGang, h.released.release]

theorem Kept.exitT (h : Kept s0 s) : Kept s0 (s.exitT g w t) := h.modG.settle

theorem Kept.abortSpinner {abc : Nat} (h : Kept s0 s) : Kept s0 (s.abortSpinner n abc) := by
  unfold State.abortSpinner
  split
  · exact h
  · refine .ite h ?_
    dsimp only
    split
    · refine .vput ?_
      split
      · exact .released (.vput (h.same.foldl fun h => h.vput))
      · exact .vput (h.same.foldl fun h => h.vput)
    · refine .foldl (.vput ?_) fun h => h.exitT
      split
      · exact .released (.vput (h.same.foldl fun h => h.vput))
      · exact .vput (h.same.foldl fun h => h.vput)

theorem Kept.forget (h : Kept s0 s) : Kept s0 (s.forget g) := by
  unfold State.forget
  exact h.same.modC

theorem Kept.regionFault (h : Kept s0 s) : Kept s0 (s.regionFault g cause val) := by
  refine .ite h ?_
  split
  · exact h.modG.forget.release.report.faultLaunch.exitedGang
  · exact h.modG.forget.release.report
  · exact h.modG.forget.release.report.abortSpinner

theorem Kept.faultRegion {r : Nat} {all : Bool} (h : Kept s0 s) : Kept s0 (s.faultRegion r all) :=
  .foldl (.foldl (.ite h.report (h.foldl fun h => h.regionFault)) fun h => h.faultLaunch) fun h => .ite h.abortSpinner h

theorem Kept.trapT (h : Kept s0 s) : Kept s0 (s.trapT g w t cause val) := .ite h (.ite h.regionFault h.modT)
theorem Kept.modV {f : VDev → VDev} (h : Kept s0 s) : Kept s0 (s.modV v f) := h.same
theorem Kept.enqueue (h : Kept s0 s) : Kept s0 (s.enqueue v a) := .ite h h.modV
theorem Kept.finishAct (h : Kept s0 s) : Kept s0 (s.finishAct v a) := h.modV
theorem Kept.addCall {c : Call} (h : Kept s0 s) : Kept s0 (s.addCall c) := .ite h.same.enqueue h.same

/-! ### Machine/Operands: the frame of an instruction -/

theorem Kept.finish {words : Nat} {r : Res} (h : Kept s0 s) : Kept s0 (s.finish g w t words r) := by
  unfold State.finish
  split; exacts [h.modT, h.trapT, h.modT]

theorem Kept.trapAll (h : Kept s0 s) : Kept s0 (s.trapAll g w ts cause val) := h.foldl fun h => h.trapT
theorem Kept.stallAll {y : StallWhy} (h : Kept s0 s) : Kept s0 (s.stallAll g w ts y) := h.foldl fun h => h.modT

theorem Kept.afterPasses {u : Use} {w : Warp} (h : Kept s0 s) : Kept s0 (s.afterPasses u w act) :=
  .ite h (.ite (.modW (h.foldl fun h => h.modT)) (h.foldl fun h => h.modT))

/-- The checks that every instruction begins with, then its body on the threads that go on. -/
theorem Kept.front {u : Use} {bad : Warp → Thread → Option DWord} {body : State → List Nat → State} (h : Kept s0 s)
    (hb : ∀ {r act}, Kept s0 r → Kept s0 (body r act)) : Kept s0 (s.front u bad body) := by
  dsimp only [State.front]
  split
  · exact h
  · split
    · exact h.trapAll
    · split
      · exact .ite h.stallAll.stallAll (h.stallAll.foldl fun h => h.modT)
      · exact (hb h.stallAll).afterPasses

theorem Kept.lanes {body : Warp → List Nat → Nat → Res} (h : Kept s0 s) : Kept s0 (s.lanes i body) :=
  h.front fun h => h.foldl fun h => h.finish

theorem Kept.inTurn {chk : State → Nat → Nat → Nat → Cause} {body : State → Nat → Nat → Nat → State × Res} (h : Kept s0 s)
    (hb : ∀ {r g w t}, Kept s0 r → OnFst (Kept s0) (body r g w t)) : Kept s0 (s.inTurn i chk body) :=
  h.front fun h => h.foldl fun h => .ite h (by split; exacts [h.finish, .ite h.modT (hb h).fst.finish])

theorem Kept.move1 {ends : Bool} {chk : State → Nat → Nat → Nat → Cause} {body : State → Nat → Nat → Nat → State}
    (h : Kept s0 s) (hb : ∀ {r g w t}, Kept s0 r → Kept s0 (body r g w t)) : Kept s0 (State.move1 i ends chk body g w s t) :=
  .ite h (by split; exacts [h.modT, h.finish, hb h])

theorem Kept.control {ends : Bool} {chk : State → Nat → Nat → Nat → Cause} {body : State → Nat → Nat → Nat → State}
    (h : Kept s0 s) (hb : ∀ {r g w t}, Kept s0 r → Kept s0 (body r g w t)) : Kept s0 (s.control i ends chk body) :=
  h.front fun h => h.foldl fun h => h.move1 hb

theorem Kept.ownTraps {w : Warp} {cv : Cause} (h : Kept s0 s) : Kept s0 (s.ownTraps i w act cv) := by
  refine h.foldl fun h => ?_
  split; exacts [h.trapT, h]

/-- An instruction the pack executes as one. -/
theorem Kept.once {pending : Bool} {body : State → Nat → Nat → Nat → List Nat → Once} (h : Kept s0 s)
    (hb : ∀ {r g w t go}, Kept s0 r → OnOnce (Kept s0) (body r g w t go)) : Kept s0 (s.once i pending body) :=
  h.front fun {r act} h => by
    have hr : Kept s0 (act.foldl (fun s t =>
        match before i none ((r.wrp r.pack.g r.pack.w).thr t) with
        | some (.ok e) => s.finish r.pack.g r.pack.w t i.words (.ok e)
        | _ => s) r) := h.foldl fun h => by split; exacts [h.finish, h]
    dsimp only
    split
    · exact hr.ownTraps
    · refine .ite hr.stallAll.ownTraps ?_
      split
      · exact .ownTraps (((hb hr).getDone ‹_›).foldl fun h => h.modT)
      · exact hr.trapAll.ownTraps
      · exact hr.stallAll.ownTraps
      · exact .ownTraps (hr.foldl fun h => h.modT)

theorem Kept.stored (h : Kept s0 s) : Kept s0 (s.stored g w t) := .ite h.modT h.modT.modW

/-! ### Machine/Flags: flags -/

theorem Kept.lowerFlags {flag : Option Nat} (h : Kept s0 s) : Kept s0 (s.lowerFlags g w ts flag) := by
  unfold State.lowerFlags
  split; exacts [h, h.foldl fun h => h.modT]

/-! ### Machine/Int: the forms of the arithmetic units -/

theorem Kept.alu {sem : Ins → Thread → Eff} (h : Kept s0 s) : Kept s0 (s.alu i sem) := h.lanes

/-! ### Machine/Pair: packed pairs -/

theorem Kept.paired {u : HalfFields} {l : HalfFields} (h : Kept s0 s) : Kept s0 (s.paired u l) := by
  dsimp only [State.paired]
  split; exacts [h.front fun h => h.foldl fun h => h.finish, h.trapAll]

theorem Kept.boundary {hd : HFields} (h : Kept s0 s) : Kept s0 (s.boundary hd g w t) := .ite h.trapT (.ite h.modT h.modT)

/-! ### Machine/Control: control flow -/

theorem Kept.jump {m : Mode} {hd : DWord} {link : Option (Nat × DWord)} (h : Kept s0 s) :
    Kept s0 (s.jump g w t m hd val link) := by
  unfold State.jump
  split; exacts [h.trapT, h.modT, h.modT]

theorem Kept.jumpReg {v : DWord} {link : Option (Nat × DWord)} (h : Kept s0 s) : Kept s0 (s.jumpReg g w t v link) := h.jump
theorem Kept.doBra (h : Kept s0 s) : Kept s0 (s.doBra i) := h.control fun h => h.jump
theorem Kept.doBrx (h : Kept s0 s) : Kept s0 (s.doBrx i) := h.control fun h => h.jumpReg
theorem Kept.doCall (h : Kept s0 s) : Kept s0 (s.doCall i) := h.control fun h => h.jump
theorem Kept.doCallx (h : Kept s0 s) : Kept s0 (s.doCallx i) := h.control fun h => h.jumpReg
theorem Kept.doExit (h : Kept s0 s) : Kept s0 (s.doExit i) := h.control fun h => .ite h.trapT h.exitT

theorem Kept.yieldWarp (h : Kept s0 s) : Kept s0 (s.yieldWarp g w) := by
  unfold State.yieldWarp
  exact h.modC

theorem Kept.doYield (h : Kept s0 s) : Kept s0 (s.doYield i) := h.control fun h => h.yieldWarp.modT
theorem Kept.doTrap (h : Kept s0 s) : Kept s0 (s.doTrap i) := h.control fun h => h.trapT
theorem Kept.doBkpt (h : Kept s0 s) : Kept s0 (s.doBkpt i) := h.control fun h => h.trapT

theorem Kept.doTret (h : Kept s0 s) : Kept s0 (s.doTret i) := by
  refine h.control fun h => .ite h.trapT ?_
  dsimp only
  refine .ite (.ite ?_ ?_) ?_
  · split; exacts [h.trapT, h.modT]
  · split
    · exact (h.fetchWord.getError ‹_›).modT
    · have hw := (h.fetchWord.getOk ‹_›).fst
      split; exacts [hw.trapT, hw.modT]
  · split; exacts [h.trapT, h.modT]

theorem Kept.doSysc (h : Kept s0 s) : Kept s0 (s.doSysc i) :=
  h.control fun h => .ite h.modT h.releasedBy.newId.fst.modT.addCall

theorem Kept.doSrd (h : Kept s0 s) : Kept s0 (s.doSrd i) := h.lanes

theorem Kept.doSwr (h : Kept s0 s) : Kept s0 (s.doSwr i) := by
  refine h.control fun h => ?_
  split; exacts [h.modT, h.modT, h.modT]

theorem Kept.doAckn (h : Kept s0 s) : Kept s0 (s.doAckn i) := h.control fun h => h.modT
theorem Kept.doWflg (h : Kept s0 s) : Kept s0 (s.doWflg i) := h.control fun h => .ite h.modT h.modT

/-! ### Machine/Scratch: scratch memory and barriers -/

theorem Kept.received (h : Kept s0 s) : Kept s0 (s.received g u scope) := h.acquires.modG
theorem Kept.acquired {mark : Bool} (h : Kept s0 s) : Kept s0 (s.acquired g w t scope mark) := h.acquires.modG

theorem Kept.loadNothing {e : Eff} (h : Kept s0 s) : OnFst (Kept s0) (s.loadNothing f g w t e) := by
  refine .ite ⟨h⟩ ?_
  split; exacts [⟨h⟩, ⟨h.acquired⟩]

theorem Kept.later {bw : Nat} {act : BankDo} {regs : List Nat} (h : Kept s0 s) :
    Kept s0 (s.later i g w t off bw n act regs) :=
  h.newId.fst.modG.modT

theorem Kept.load1 {sg : Bool} (h : Kept s0 s) : OnFst (Kept s0) (s.load1 i f sg g w t) := by
  refine .ite h.loadNothing (.ite ⟨h⟩ ?_)
  split
  · exact ⟨h⟩
  · split
    · exact ⟨h⟩
    · dsimp only
      split
      · exact ⟨h⟩
      · exact .ite ⟨h⟩ (.ite ⟨h.modG.popLate.later⟩ ⟨.ite h.modG.popLate.acquired h.modG.popLate⟩)

theorem Kept.store1 (h : Kept s0 s) : OnFst (Kept s0) (s.store1 i f g w t) := by
  dsimp only [State.store1]
  split
  · exact ⟨h⟩
  · split
    · exact ⟨h⟩
    · split
      · exact ⟨h⟩
      · exact .ite ⟨.stored (.later (.ite (.popLate (.ite h.releasedBy h)) (.modG (.popLate (.ite h.releasedBy h)))))⟩
          ⟨.stored (.modG (.popLate (.ite h.releasedBy h)))⟩

theorem Kept.slowDone (h : Kept s0 s) : Kept s0 s.slowDone := .ite h h.modW
theorem Kept.doLoad {sg : Bool} (h : Kept s0 s) : Kept s0 (s.doLoad i f sg) := .slowDone (h.inTurn fun h => h.load1)
theorem Kept.doStore (h : Kept s0 s) : Kept s0 (s.doStore i f) := .slowDone (h.inTurn fun h => h.store1)

theorem Kept.performBank (h : Kept s0 s) : Kept s0 (s.performBank g id) := by
  dsimp only [State.performBank]
  split; exacts [h, .ite h h.modG]

theorem Kept.atms1 (h : Kept s0 s) : OnFst (Kept s0) (s.atms1 i g w t) := by
  dsimp only [State.atms1]
  split
  · exact ⟨h⟩
  · split
    · exact ⟨h⟩
    · split
      · exact ⟨h⟩
      · exact .ite ⟨h⟩ (.ite ⟨.stored (.later (.popLate (.ite h.releasedBy h)))⟩
          ⟨.stored (.ite (.acquired (.modG (.popLate (.ite h.releasedBy h)))) (.modG (.popLate (.ite h.releasedBy h))))⟩)

theorem Kept.doAtms (h : Kept s0 s) : Kept s0 (s.doAtms i) := .slowDone (h.inTurn fun h => h.atms1)

theorem Kept.winFill {win : Nat × Nat} (h : Kept s0 s) :
    OnExcept (OnFst (Kept s0)) (OnFst (Kept s0)) (s.winFill g win off n) := by
  dsimp only [State.winFill]
  split
  · exact .error ⟨h.foldl fun h => h.drainTo⟩
  · split
    · exact .error ⟨.markWait (h.foldl fun h => h.drainTo)⟩
    · exact .ok ⟨.touchReqs ((Kept.charge (h.foldl fun h => h.drainTo)).getOk ‹_›)⟩

theorem Kept.ldw1 (h : Kept s0 s) : OnFst (Kept s0) (s.ldw1 i g w t) :=
  .ite ⟨h⟩ (.ite ⟨h⟩ (by split; exacts [⟨(h.winFill.getError ‹_›).fst⟩, ⟨(h.winFill.getOk ‹_›).fst⟩]))

theorem Kept.doLdw (h : Kept s0 s) : Kept s0 (s.doLdw i) := h.inTurn fun h => h.ldw1

theorem Kept.fence1 (h : Kept s0 s) : OnFst (Kept s0) (s.fence1 i g w t) := by
  dsimp only [State.fence1]
  split
  · exact ⟨h⟩
  · refine .ite ⟨h.releasedBy⟩ ?_
    split; exacts [⟨h⟩, ⟨.acquired (.ite h.releasedBy h)⟩]

theorem Kept.doFence (h : Kept s0 s) : Kept s0 (s.doFence i) := h.inTurn fun h => h.fence1

theorem Kept.bar1 (h : Kept s0 s) : Kept s0 (s.bar1 i g w t) :=
  .ite h.modT (.ite h.modT (.ite h.stored.modT h.stored.modT.modG))

theorem Kept.doBar (h : Kept s0 s) : Kept s0 (s.doBar i) := h.control fun h => h.bar1

theorem Kept.doXbarInit (h : Kept s0 s) : Kept s0 (s.doXbarInit i) := by
  refine h.once fun h => .ite .trap ?_
  split; exacts [.stall, .done h.modG]

theorem Kept.doXbarInval (h : Kept s0 s) : Kept s0 (s.doXbarInval i) := by
  refine h.once fun h => .ite .trap ?_
  split; exacts [.stall, .done h.modG]

theorem Kept.doXbarArrive (h : Kept s0 s) : Kept s0 (s.doXbarArrive i) := by
  refine .slowDone (h.inTurn fun h => ?_)
  dsimp only
  split; exacts [⟨h⟩, ⟨h.modG⟩]

theorem Kept.doXbarWait (h : Kept s0 s) : Kept s0 (s.doXbarWait i) := by
  refine .slowDone (h.control fun h => ?_)
  dsimp only
  split; exacts [h.modT, h.modT.modG]

/-! ### Machine/Shape: scratch forms -/

theorem Kept.doHld (h : Kept s0 s) : Kept s0 (s.doHld i) := by
  refine .slowDone (h.once fun h => .ite (.done h.modW) (.ite (.ite .trap ?_) (.ite .trap ?_)))
  · split; exacts [.stall, .done (.modW (h.winFill.getOk ‹_›).fst)]
  · split
    · exact .stall
    · split; exacts [.trap, .done h.modG.modW]

theorem Kept.doHst (h : Kept s0 s) : Kept s0 (s.doHst i) := by
  refine .slowDone (h.once fun h => .ite .trap ?_)
  split
  · exact .trap
  · split
    · exact .stall
    · split; exacts [.trap, .done h.modG.stored]

theorem Kept.doHset (h : Kept s0 s) : Kept s0 (s.doHset i) := h.once fun h => .done h.modW
theorem Kept.doHcpy (h : Kept s0 s) : Kept s0 (s.doHcpy i) := h.once fun h => .done h.modW
theorem Kept.doHadv (h : Kept s0 s) : Kept s0 (s.doHadv i) := h.once fun h => .done h.modW

/-! ### Machine/Queue: engine queues -/

theorem Kept.modCq {q : QRef} {f : List Entry → List Entry} (h : Kept s0 s) : Kept s0 (s.modCq q f) := h.modW
theorem Kept.modHead {q : QRef} {f : Entry → Entry} (h : Kept s0 s) : Kept s0 (s.modHead q f) := h.modCq

theorem Kept.putBytes {x : Group} {p : Bool} {n : Need} {l : List Byte} (h : Kept s0 s) :
    OnOk (Kept s0) (s.putBytes x va p n late l) := by
  induction l generalizing s va with
  | nil => exact .ok h
  | cons b l ih => unfold State.putBytes; split; exacts [.error trivial, ih (h.writeB.getOk ‹_›)]

theorem Kept.sent (h : Kept s0 s) : Kept s0 (s.sent g id va) := by
  dsimp only [State.sent]
  split; exacts [.ite h h.same, h]

theorem Kept.drainBytes (h : Kept s0 s) : Kept s0 (s.drainBytes d v va n) := h.foldl fun h => h.drainTo

theorem Kept.performWr {w : Wr} (h : Kept s0 s) : OnOk (Kept s0) (s.performWr g w) := by
  dsimp only [State.performWr]
  split
  · exact .ok h.modG
  · exact .ok h.modG
  · split; exacts [.error trivial, .ok (h.writeB.getOk ‹_›)]
  · split
    · exact .error trivial
    · split; exacts [.error trivial, h.drainBytes.putBytes]
  · exact .ok h.modG

theorem Kept.performAll {l kept : List Wr} (h : Kept s0 s) : OnFst (Kept s0) (s.performAll g id repl n last l kept k) := by
  induction l generalizing s n last kept k with
  | nil => exact ⟨h⟩
  | cons w l ih =>
    unfold State.performAll
    refine .ite ⟨h⟩ (.ite (ih h) (.ite ⟨h⟩ ?_))
    dsimp only
    split
    · have h' := h.performWr.getOk ‹_›
      exact ih (.ite (.popLate (.ite h'.sent h')) (.ite h'.sent h'))
    · exact ⟨h⟩

theorem Kept.access {c : Acc} (h : Kept s0 s) : OnOk (OnFst (Kept s0)) (s.access g e c) := by
  dsimp only [State.access]
  split
  · split; exacts [.error trivial, .ok ⟨h.drainBytes⟩]
  · split
    · exact .error trivial
    · next hs => split at hs <;> cases hs; exact .ok ⟨(h.putBytes.getOk ‹_›).sent⟩
  · split
    · exact .error trivial
    · split
      · exact .error trivial
      · split
        · exact .error trivial
        · next hs => split at hs <;> cases hs; exact .ok ⟨(h.drainBytes.putBytes.getOk ‹_›).sent⟩
  · exact .ok ⟨h⟩

theorem Kept.accesses {l : List Acc} (h : Kept s0 s) : OnFst (Kept s0) (s.accesses g repl e l) := by
  induction l generalizing s with
  | nil => exact ⟨h⟩
  | cons c l ih =>
    unfold State.accesses
    refine .ite ⟨h⟩ ?_
    split
    · exact ⟨h⟩
    · exact ⟨(ih (h.access.getOk ‹_›).fst.popLate).fst⟩

theorem Kept.beginCopy {q : QRef} {op : Op} {d : Shape} {a : Shape} {idx : Nat} {rop : Nat} {rty : Nat} (h : Kept s0 s) :
    OnSome (Kept s0) (s.beginCopy q e op d a idx rop rty) := by
  dsimp only [State.beginCopy]
  split; exacts [.none, .some h.modG.modHead]

theorem Kept.touchHead {q : QRef} (h : Kept s0 s) : Kept s0 (s.touchHead q rs) := by
  unfold State.touchHead
  split; exacts [h, h.touchNew.modHead]

theorem Kept.runAccs {q : QRef} (h : Kept s0 s) : OnSome (Kept s0) (s.runAccs q e repl n) := by
  refine .ite .none ?_
  dsimp only
  split
  · exact .none
  · exact .some (.modHead (.touchHead ((Kept.charge (Kept.accesses (.ite (h.foldl fun h => h.releasedBy) h)).fst).getOk ‹_›)))

theorem Kept.beginEntry {q : QRef} (h : Kept s0 s) : OnSome (Kept s0) (s.beginEntry q) := by
  unfold State.beginEntry
  split
  · exact .none
  · refine .ite .none ?_
    split
    · exact .some h.modHead
    · exact .some (.modHead (.ite h (h.foldl fun h => h.bring)))
    · refine .ite .none ?_
      split
      · exact .none
      · exact (Kept.beginCopy (.foldl (h.charge.getOk ‹_›) fun h => .ite h.drainBytes h)).map fun h => h.touchHead
    · exact h.runAccs

theorem Kept.creditEntry {q : QRef} (h : Kept s0 s) : OnSome (Kept s0) (s.creditEntry q n repl) := by
  unfold State.creditEntry
  split
  · exact .none
  · refine .ite .none (.ite .none (.some (.ite (.modG ?_) ?_)))
    · split; exacts [h.performAll.fst.popLate.modHead.modG, h.performAll.fst.popLate.modHead]
    · split; exacts [h.performAll.fst.popLate.modHead.modG, h.performAll.fst.popLate.modHead]

theorem Kept.commitEntry {q : QRef} (h : Kept s0 s) : OnSome (Kept s0) (s.commitEntry q) := by
  unfold State.commitEntry
  split
  · exact .none
  · refine .ite h.creditEntry (.ite .none (.ite .none ?_))
    split; exacts [.none, .ite .none h.runAccs]

theorem Kept.returned {q : QRef} (h : Kept s0 s) : Kept s0 (s.returned q e) := by
  dsimp only [State.returned]
  split; exacts [h.foldl fun h => h.acquires.modG, h.foldl fun h => h.acquires.modG, h]

theorem Kept.retire1 {q : QRef} (h : Kept s0 s) : Kept s0 (s.retire1 q) := by
  unfold State.retire1
  split
  · exact h
  · refine .modG ?_
    split; exacts [h.modCq.modW.returned.lowerFlags.modG, h.modCq.modW.returned.lowerFlags]

theorem Kept.retire {q : QRef} (h : Kept s0 s) : Kept s0 (s.retire q) := .ite h (.settle (h.foldl fun h => h.retire1))

theorem Kept.addFault {r : FaultRec} {n : Need} (h : Kept s0 s) : Kept s0 (s.addFault d r n) := by
  refine .ite h.modD ?_
  split; exacts [h.modD.violate, h.modD]

theorem Kept.engineFault {src : FaultSrc} {far : Bool} (h : Kept s0 s) : Kept s0 (s.engineFault src far) := by
  dsimp only [State.engineFault, State.newId]
  split
  · refine .ite h ?_
    split; exacts [.ite h h.same.modHead.addFault, h]
  · split; exacts [.ite h h.same.addFault, h]
  · split; exacts [.ite h h.same.addFault, h]
  · split
    · exact h
    · refine .ite h ?_
      split; exacts [.ite h h.same.addFault, h]

/-! ### Machine/Engine: engine entries performed -/

theorem Kept.post (h : Kept s0 s) : Kept s0 (s.post g w q e) := h.modCq.foldl fun h => h.modT

theorem Kept.doCopy (h : Kept s0 s) : Kept s0 (s.doCopy i) := by
  refine h.once fun h => ?_
  dsimp only
  split; exacts [.trap, .ite .stall (.ite .stall (.done h.newId.fst.modG.post))]

theorem Kept.doAccs {cmd : List Acc → Cmd} {loads : Bool} {stores : Bool} (h : Kept s0 s) :
    Kept s0 (s.doAccs i cmd loads stores) :=
  h.once fun h => .ite .stall
    (.done (.ite (.foldl (.ite (h.newId.fst.post.foldl fun h => h.modT) h.newId.fst.post) fun h => h.stored)
    (.ite (h.newId.fst.post.foldl fun h => h.modT) h.newId.fst.post)))

theorem Kept.doLdg (h : Kept s0 s) : Kept s0 (s.doLdg i) := h.doAccs
theorem Kept.doStg (h : Kept s0 s) : Kept s0 (s.doStg i) := h.doAccs
theorem Kept.doAtmg (h : Kept s0 s) : Kept s0 (s.doAtmg i) := h.doAccs
theorem Kept.doPref (h : Kept s0 s) : Kept s0 (s.doPref i) := h.doAccs

theorem Kept.doCqjoin (h : Kept s0 s) : Kept s0 (s.doCqjoin i) :=
  h.once fun h => .ite .stall (.done (h.newId.fst.foldl fun h => h.post))

theorem Kept.mapIssued {go : List Nat} (h : Kept s0 s) : Kept s0 (s.mapIssued g w go) := h.foldl fun h => h.modT

theorem Kept.doSmap (h : Kept s0 s) : Kept s0 (s.doSmap i) :=
  h.once fun h => .ite .trap (.ite .stall (.done h.modG.mapIssued))

theorem Kept.doSsync (h : Kept s0 s) : Kept s0 (s.doSsync i) := by
  refine h.once fun h => ?_
  split
  · exact .done h.mapIssued
  · split; exacts [.stall, .done h.mapIssued]

theorem Kept.doSclose (h : Kept s0 s) : Kept s0 (s.doSclose i) := by
  refine h.once fun h => ?_
  split
  · exact .done h.mapIssued
  · split; exacts [.stall, .done h.modG.mapIssued.mapDies]

theorem Kept.doSinv (h : Kept s0 s) : Kept s0 (s.doSinv i) := h.once fun h => .done h.modG.mapIssued

theorem Kept.fillSpan {m : Nat} (h : Kept s0 s) : OnSome (Kept s0) (s.fillSpan g m k) := by
  dsimp only [State.fillSpan]
  split
  · exact .none
  · refine .ite .none ?_
    split
    · exact .none
    · split; exacts [.none, .some (.modG (.popLate (.touchNew (h.drainBytes.charge.getOk ‹_›))))]

theorem Kept.putDirty {c : Sector} {l : List Nat} (h : Kept s0 s) : OnOk (Kept s0) (s.putDirty g so va c l) := by
  induction l generalizing s with
  | nil => exact .ok h
  | cons b l ih => unfold State.putDirty; dsimp only; split; exacts [.error trivial, ih (h.writeB.getOk ‹_›).sent]

theorem Kept.wbSector {m : Nat} (h : Kept s0 s) : OnFst (Kept s0) (s.wbSector g m k) := by
  dsimp only [State.wbSector]
  split
  · exact ⟨h⟩
  · refine .ite ⟨h⟩ ?_
    split
    · exact ⟨h⟩
    · refine .ite ⟨h⟩ ?_
      split
      · exact ⟨h⟩
      · split
        · exact ⟨h⟩
        · refine ⟨.modG ?_⟩
          split
          · exact .modD (.popLate (.touchNew ((Kept.charge (h.putDirty.getOk ‹_›)).getOk ‹_›)))
          · exact .popLate (.touchNew ((Kept.charge (h.putDirty.getOk ‹_›)).getOk ‹_›))

theorem Kept.writeBack {m : Option Nat} (h : Kept s0 s) : OnFst (Kept s0) (s.writeBack g m) :=
  .foldl ⟨h⟩ fun h => h.fst.wbSector.pair

theorem Kept.spanWriteBack {who : Option TRef} (h : Kept s0 s) : Kept s0 (s.spanWriteBack g who) := by
  unfold State.spanWriteBack
  split
  · split
    · refine .ite h.writeBack.fst ?_
      split; exacts [h.writeBack.fst.trapAll, h.writeBack.fst]
    · exact h
  · refine .ite (.ite h.writeBack.fst ?_) h
    split; exacts [h.writeBack.fst.regionFault, h.writeBack.fst.settle]

/-! ### Machine/Matrix: the matrix unit -/

theorem Kept.mopStep {o : MOp} (h : Kept s0 s) : Kept s0 (s.mopStep g w o) := by
  dsimp only [State.mopStep]
  split; exacts [.modW (.ite h.modG h), h.modW.modG, .modW (.ite h.modG h), h.modG]

theorem Kept.mopRetire {o : MOp} (h : Kept s0 s) : Kept s0 (s.mopRetire g w o) := h.modW.lowerFlags.modG.settle

theorem Kept.chaserStep (h : Kept s0 s) : OnSome (Kept s0) (s.chaserStep d c q) := by
  unfold State.chaserStep
  split; exacts [.none, .ite (.some h.mopStep.mopRetire) (.some h.mopStep.modW)]

theorem Kept.enlist {cmd : MCmd} {ivs : List (Bool × Nat × Nat)} {scl : Option (Nat × Nat)} {sup : Nat} {flag : Option Nat}
    (h : Kept s0 s) :
    OnOnce (Kept s0) (s.enlist g w cmd ivs scl sup ts flag) :=
  .ite .stall (.ite .stall (.done h.newId.fst.modG.modW))

/-- The first pass of `State.collective`: each thread by its guard. -/
theorem Kept.guards {p : Pack} {w : Warp} {l : List Nat} (h : Kept s0 s) :
    Kept s0 (l.foldl (fun s t => match (w.thr t).guard i.f.guard with
      | .trap v => s.trapT p.g p.w t 0x04 v
      | .skip => s.finish p.g p.w t i.words (.ok Eff.none)
      | .take => s) s) :=
  h.foldl fun h => by split; exacts [h.trapT, h.finish, h]

/-- The last pass of `State.collective`: each thread by its own cause. -/
theorem Kept.traps {p : Pack} {cause : Nat → Cause} {l : List Nat} (h : Kept s0 s) :
    Kept s0 (l.foldl (fun s t => match cause t with
      | some cv => s.trapT p.g p.w t cv.1 cv.2
      | none => s) s) :=
  h.foldl fun h => by split; exacts [h.trapT, h]

theorem Kept.collective {k : Warp → MChk} {body : State → Nat → Nat → Nat → List Nat → Once} (h : Kept s0 s)
    (hb : ∀ {r g w t go}, Kept s0 r → OnOnce (Kept s0) (body r g w t go)) : Kept s0 (s.collective i k body) := by
  refine h.front fun h => ?_
  dsimp only
  split
  · exact h.guards.traps
  · refine .ite h.guards.stallAll.traps ?_
    split
    · exact .traps (((hb h.guards).getDone ‹_›).foldl fun h => h.modT)
    · exact h.guards.trapAll.traps
    · exact h.guards.stallAll.traps
    · exact .traps (h.guards.foldl fun h => h.modT)

theorem Kept.doMtile (h : Kept s0 s) : Kept s0 (s.doMtile i) := by
  refine h.collective fun h => ?_
  dsimp only
  split; exacts [h.enlist, .done h]

theorem Kept.doMcvt (h : Kept s0 s) : Kept s0 (s.doMcvt i) := h.collective fun h => h.enlist

theorem Kept.doMclr (h : Kept s0 s) : Kept s0 (s.doMclr i) := by
  refine h.once fun h => ?_
  dsimp only
  split; exacts [.trap, .ite .stall (.done h.modW)]

theorem Kept.doImage {load : Bool} (h : Kept s0 s) : Kept s0 (s.doImage i load) := by
  refine h.once fun h => ?_
  dsimp only
  split; exacts [.trap, .ite .trap h.enlist]

theorem Kept.doMfmt (h : Kept s0 s) : Kept s0 (s.doMfmt i) := h.inTurn fun h => ⟨h⟩

/-! ### Machine/Place: placement -/

theorem Kept.modQuad {f : Quad → Quad} (h : Kept s0 s) : Kept s0 (s.modQuad d c q f) := h.modC
theorem Kept.sweepQuad (h : Kept s0 s) : Kept s0 (s.sweepQuad d c q) := .ite h h.modQuad
theorem Kept.sweep (h : Kept s0 s) : Kept s0 s.sweep := h.foldl fun h => h.foldl fun h => h.foldl fun h => h.sweepQuad

theorem Kept.settleIn {x : Group} {ws : List Warp} (h : Kept s0 s) : OnSome (Kept s0) (s.settleIn d c units x ws) :=
  .mapAll h.same.acquires

/-! ### Machine/Cluster: hardware queues -/

theorem Kept.modQ {f : HwQueue → HwQueue} (h : Kept s0 s) : Kept s0 (s.modQ q f) := h.same
theorem Kept.putDesc (h : Kept s0 s) : Kept s0 (s.putDesc q) := h.vput
theorem Kept.unqueue {t : TRef} (h : Kept s0 s) : Kept s0 (s.unqueue q t) := h.modQ
theorem Kept.refuseAll {p : QAsk → Bool} (h : Kept s0 s) : Kept s0 (s.refuseAll q p) := h.foldl fun h => h.unqueue.trapT
theorem Kept.closeIfEmpty (h : Kept s0 s) : Kept s0 (s.closeIfEmpty q) := .ite h.modQ.putDesc.refuseAll h
theorem Kept.reserve (h : Kept s0 s) : Kept s0 (s.reserve q) := h.modQ

theorem Kept.paySlot {x : HwQueue} {t : Word} {n : Need} (h : Kept s0 s) :
    OnExcept (Kept s0) (Kept s0) (s.paySlot x t n) := by
  dsimp only [State.paySlot]
  split; exacts [.ok (h.charge.getOk ‹_›), .error h.markWait]

theorem Kept.serve {t : TRef} {a : QAsk} (h : Kept s0 s) : OnServed (Kept s0) (s.serve q t a) := by
  dsimp only [State.serve]
  split
  · exact .ite .waits (.done h.reserve.unqueue.modT)
  · refine .ite .waits (.ite (.held h) ?_)
    split
    · exact .held (h.paySlot.getError ‹_›)
    · split
      · exact .held h
      · exact .done (.modT (.unqueue (.reserve ((Kept.writeClean (h.paySlot.getOk ‹_›)).getOk ‹_›))))
  · refine .ite .waits ?_
    split
    · exact .held h
    · exact .waits
    · refine .ite (.held h) ?_
      split
      · exact .held (h.paySlot.getError ‹_›)
      · exact .held h
      · exact .done (.closeIfEmpty (.received (.modT (.unqueue (.modQ (h.paySlot.getOk ‹_›))))))

theorem Kept.serveIn {l : List QWait} (h : Kept s0 s) : OnSome (Kept s0) (s.serveIn q held l) := by
  induction l generalizing held with
  | nil => exact .none
  | cons w l ih => exact .ite ih (by split; exacts [.some (h.serve.getDone ‹_›), ih, ih])

theorem Kept.serveFirst {p : QAsk → Bool} (h : Kept s0 s) : OnSome (Kept s0) (s.serveFirst q p) := h.serveIn

theorem Kept.deliverAll (h : Kept s0 s) : Kept s0 (s.deliverAll q n) := by
  induction n generalizing s with
  | zero => exact h
  | succ n ih => unfold State.deliverAll; split; exacts [h, ih (h.serveFirst.get ‹_›)]

theorem Kept.settleQ (h : Kept s0 s) : Kept s0 (s.settleQ q) := h.deliverAll

theorem Kept.markSlots (h : Kept s0 s) : Kept s0 (s.markSlots q) := by
  refine h.foldl fun h => ?_
  split; exacts [h.markWait, h]

theorem Kept.settleFor (h : Kept s0 s) : Kept s0 (s.settleFor i g w t) := by
  refine .ite ?_ h
  split; exacts [h, h.settleQ]

theorem Kept.settleNamed (h : Kept s0 s) : Kept s0 (s.settleNamed i act) := h.foldl fun h => h.settleFor

theorem Kept.queueIns {body : State → Nat → Nat → Nat → Nat → State} (h : Kept s0 s)
    (hb : ∀ {r q g w t}, Kept s0 r → Kept s0 (body r q g w t)) : Kept s0 (s.queueIns i body) :=
  h.front fun h => h.settleNamed.foldl fun h => h.move1 fun h => by split; exacts [h, (hb h).settleQ]

theorem Kept.deliverQueues (h : Kept s0 s) : Kept s0 s.deliverQueues := h.foldl fun h => .ite h.settleQ h
theorem Kept.enrol {a : QAsk} (h : Kept s0 s) : Kept s0 (s.enrol q g w t a) := h.modQ

theorem Kept.ask {a : QAsk} (h : Kept s0 s) : Kept s0 (s.ask i q g w t a) := by
  dsimp only [State.ask]
  split; exacts [h.modT.serve.getDone ‹_›, h.modT.enrol, .enrol (h.modT.serve.getHeld ‹_›)]

theorem Kept.doQrsv (h : Kept s0 s) : Kept s0 (s.doQrsv i) := h.queueIns fun h => .ite h.modT h.ask

theorem Kept.doQenq (h : Kept s0 s) : Kept s0 (s.doQenq i) := by
  refine h.queueIns fun h => ?_
  split; exacts [h.modT, .ite h.modT h.releasedBy.modT.ask]

theorem Kept.doQdeq (h : Kept s0 s) : Kept s0 (s.doQdeq i) := by
  refine h.queueIns fun h => ?_
  split; exacts [h.modT, h.ask]

theorem Kept.doQtry (h : Kept s0 s) : Kept s0 (s.doQtry i) := by
  refine h.queueIns fun h => ?_
  split
  · exact h.modT
  · dsimp only
    split; exacts [.modT (h.modT.serve.getDone ‹_›), h.modT, h.modT]

theorem Kept.doQerr (h : Kept s0 s) : Kept s0 (s.doQerr i) := by
  refine h.queueIns fun h => ?_
  dsimp only
  split; exacts [h.modT, h.modT.modQ.putDesc.refuseAll]

theorem Kept.doQrest (h : Kept s0 s) : Kept s0 (s.doQrest i) := h.queueIns fun h => .ite h.modT.modQ.putDesc h.modT
theorem Kept.doQstat (h : Kept s0 s) : Kept s0 (s.doQstat i) := h.queueIns fun h => h.modT

theorem Kept.doTspawn (h : Kept s0 s) : Kept s0 (s.doTspawn i) := by
  refine h.control fun h => ?_
  split; exacts [h.modT, .ite (.ite h.modT h.modT) h.releasedBy.newId.fst.modT.same]

theorem Kept.formWave {core : Nat} (h : Kept s0 s) : OnSome (Kept s0) (s.formWave core id units) := by
  unfold State.formWave
  split
  · exact .none
  · refine .ite .none ?_
    split; exacts [.none, h.settleIn.map fun h => h.same]

theorem Kept.execWaveFormation {die : Nat} {cl : Nat} {core : Nat} {task : Nat} (h : Kept s0 s) :
    OnNext (Kept s0) (execWaveFormation die cl core task units s) := by
  unfold Machine.execWaveFormation
  split; exacts [.next h, .next (.ite (h.formWave.getD h) h)]

theorem Kept.doSucc (h : Kept s0 s) : Kept s0 (s.doSucc i) := h.once fun h => .done h.modG

theorem Kept.doWvis (h : Kept s0 s) : Kept s0 (s.doWvis i) := by
  refine h.control fun h => .ite h.modT ?_
  split; exacts [h.modT, h.acquired.modT]

theorem Kept.doRsurr (h : Kept s0 s) : Kept s0 (s.doRsurr i) := h.once fun h => .ite .stall (.done h.modG)

theorem Kept.doRclaim (h : Kept s0 s) : Kept s0 (s.doRclaim i) :=
  h.once fun h => .ite (.ite (.done (.ite (h.foldl fun h => h.modT) h)) .block)
    (.done (.ite (h.modG.foldl fun h => h.modT) h.modG))

theorem Kept.placeGang (h : Kept s0 s) : OnSome (Kept s0) (s.placeGang id d c units) := by
  unfold State.placeGang
  split
  · exact .none
  · split
    · exact .none
    · refine .ite .none ?_
      split; exacts [.none, h.settleIn.map fun h => h.same]

/-! ### Machine/Spinner: recursion -/

theorem Kept.modSpin {f : Spinner → Spinner} (h : Kept s0 s) : Kept s0 (s.modSpin n f) := h.same
theorem Kept.putFrame {f : Frame} {st : Nat} (h : Kept s0 s) : Kept s0 (s.putFrame n f st) := h.vput.putVals
theorem Kept.putHead {f : Frame} {st : Nat} (h : Kept s0 s) : Kept s0 (s.putHead n f st) := h.vput
theorem Kept.setFrame {f : Nat} {g : Frame → Frame} (h : Kept s0 s) : Kept s0 (s.setFrame n f g) := h.modSpin.putHead
theorem Kept.setRes {f : Nat} {res : List Val} (h : Kept s0 s) : Kept s0 (s.setRes n f res) := h.modSpin.putVals

theorem Kept.spoilFrame {f : Nat} {res : Bool} (h : Kept s0 s) : Kept s0 (s.spoilFrame n f k res) := by
  dsimp only [State.spoilFrame]
  split
  · exact h
  · split; exacts [h.writeN.getOk ‹_›, h]

theorem Kept.newFrame {ix : Nat} {parent : Option Nat} {depth : Nat} {cix : Nat} {arg : List Val} (h : Kept s0 s) :
    Kept s0 (s.newFrame n ix parent depth cix arg) :=
  h.modSpin.putFrame

theorem Kept.startRoutine {l : Nat} {f : Nat} {r : Routine} (h : Kept s0 s) : Kept s0 (s.startRoutine n l f r) := by
  dsimp only [State.startRoutine]
  split
  · exact h
  · refine .received (.modT ?_)
    split; exacts [h.modSpin.setFrame, h.modSpin, h.modSpin.setFrame]

theorem Kept.endRoutine {l : Nat} (h : Kept s0 s) : Kept s0 (s.endRoutine n l) := by
  dsimp only [State.endRoutine]
  split; exacts [h.modSpin, h.modSpin.modT]

theorem Kept.assign (h : Kept s0 s) : Kept s0 (s.assign n) := by
  refine h.foldl fun h => .ite ?_ h
  split; exacts [h.startRoutine, h]

theorem Kept.expand (h : Kept s0 s) : Kept s0 (s.expand n) := .ite h.modSpin.assign (h.foldl fun h => h.startRoutine)
theorem Kept.nextLevel (h : Kept s0 s) : Kept s0 (s.nextLevel n) := .ite h.modSpin.assign h.modSpin.expand

theorem Kept.finishRun {root : Frame} (h : Kept s0 s) : Kept s0 (s.finishRun n root) := by
  dsimp only [State.finishRun]
  split
  · refine .modSpin (.vput ?_)
    split; exacts [h.putVals.putHead.released, h.putVals.putHead]
  · refine .foldl (.modSpin (.vput ?_)) fun h => h.exitT
    split; exacts [h.putVals.putHead.released, h.putVals.putHead]

theorem Kept.advanceRun (h : Kept s0 s) : Kept s0 (s.advanceRun n) := by
  refine .ite h ?_
  split; exacts [h.finishRun, .ite h.assign (.ite h.nextLevel h)]

theorem Kept.complete {f : Nat} {res : List Val} (h : Kept s0 s) : Kept s0 (s.complete n f res) := by
  dsimp only [State.complete]
  split
  · exact .setRes (.setFrame (.modSpin (h.foldl fun h => h.putHead)))
  · exact .setFrame (.setRes (.setFrame (.modSpin (h.foldl fun h => h.putHead))))

theorem Kept.end1 (h : Kept s0 s) : Kept s0 (s.end1 i g w t) := by
  unfold State.end1
  split
  · exact h.modT
  · split; exacts [h.exitT, .ite h.releasedBy.endRoutine.setFrame h.releasedBy.endRoutine.complete]

theorem Kept.doEnd (h : Kept s0 s) : Kept s0 (s.doEnd i) := by
  dsimp only [State.doEnd]
  split; exacts [.advanceRun (h.control fun h => h.end1), h.control fun h => h.end1]

theorem Kept.doChild (h : Kept s0 s) : Kept s0 (s.doChild i) := by
  refine h.control fun h => ?_
  split
  · exact h
  · dsimp only
    split; exacts [h, h.newFrame.setFrame.modT]

theorem Kept.doRres (h : Kept s0 s) : Kept s0 (s.doRres i) := by
  refine h.control fun h => ?_
  split
  · exact h
  · split; exacts [h, h.modT]

theorem Kept.doRinfo (h : Kept s0 s) : Kept s0 (s.doRinfo i) := by
  refine h.control fun h => ?_
  split; exacts [h, h.modT]

theorem Kept.doRbase (h : Kept s0 s) : Kept s0 (s.doRbase i) := by
  refine h.control fun h => ?_
  split; exacts [h, h.modT.startRoutine]

theorem Kept.doRabort (h : Kept s0 s) : Kept s0 (s.doRabort i) := by
  refine h.control fun h => ?_
  split; exacts [h, h.abortSpinner]

theorem Kept.start1 (h : Kept s0 s) : Kept s0 (s.start1 i g w t) := by
  dsimp only [State.start1]
  split
  · exact h.modT
  · split
    · exact h.modT
    · refine .ite h.modT ?_
      split; exacts [h.modT, .modT (.newFrame (.same (h.writeN.getOk ‹_›)))]

theorem Kept.doRstart (h : Kept s0 s) : Kept s0 (s.doRstart i) := h.control fun h => h.start1

theorem Kept.placeLanes (h : Kept s0 s) : OnSome (Kept s0) (s.placeLanes n d c units) :=
  .ite .none (.ite .none (h.settleIn.map fun h => h.modSpin.expand))

theorem Kept.placeRun (h : Kept s0 s) : Kept s0 (s.placeRun n) :=
  OnSome.getD (.of fun hx => by
    obtain ⟨_, _, ha⟩ := List.exists_of_findSome?_eq_some hx
    exact h.placeLanes.get ha) h

theorem Kept.placeRuns (h : Kept s0 s) : Kept s0 s.placeRuns := h.foldl fun h => h.placeRun
theorem Kept.failQueue {err : Half} (h : Kept s0 s) : Kept s0 (s.failQueue q err) := .ite h h.modQ.putDesc.refuseAll
theorem Kept.reportLost (h : Kept s0 s) : Kept s0 (s.reportLost d) := .modD (h.foldl fun h => h.newId.fst.modD)
theorem Kept.reportAll (h : Kept s0 s) : Kept s0 s.reportAll := h.foldl fun h => .ite h h.reportLost
theorem Kept.taskLost {k : Task} (h : Kept s0 s) : Kept s0 (s.taskLost k) := h.modD.reportLost

theorem Kept.failUnit {cl : Nat} (h : Kept s0 s) : Kept s0 (s.failUnit d cl) :=
  .foldl (.same (.foldl (h.foldl fun h => h.faultRegion) fun h => h.failQueue)) fun h => h.taskLost

theorem Kept.clusterFail {e : ClusterErr} (h : Kept s0 s) : Kept s0 (s.clusterFail e) := by
  dsimp only [State.clusterFail]
  split
  · exact .ite h h.modD.report.failQueue
  · split; exacts [h, h.modD.report.same.taskLost]
  · exact .ite h h.modD.report.abortSpinner
  · exact .ite h h.modD.report.modSpin.spoilFrame
  · exact .ite h.modD.report.failUnit h

/-! ### Machine/Table: activation tables -/

theorem Kept.doAtld (h : Kept s0 s) : Kept s0 (s.doAtld i) := by
  refine h.once fun h => ?_
  dsimp only
  split
  · exact .trap
  · split; exacts [.stall, .ite .stall (.ite .stall (.done h.newId.fst.modG.modC.mapIssued))]

theorem Kept.doAtsel (h : Kept s0 s) : Kept s0 (s.doAtsel i) := by
  refine h.once fun h => .ite (.done h.modW) ?_
  split; exacts [.trap, .ite .stall (.done h.modW)]

theorem Kept.writeBank (h : Kept s0 s) : OnSome (Kept s0) (s.writeBank d c k) := by
  unfold State.writeBank
  split; exacts [.none, .ite .none (.some h.modC.lowerFlags.modG.settle)]

/-! ### Machine/Folding: folding, saving and resuming -/

theorem Kept.unfold (h : Kept s0 s) : Kept s0 (s.unfold g) := h.modG

theorem Kept.chooseBlocks {vs : List (Nat × Nat)} (h : Kept s0 s) : OnFst (Kept s0) (s.chooseBlocks region k n vs saves) := by
  induction k generalizing s n vs saves with
  | zero => exact ⟨h⟩
  | succ k ih =>
    unfold State.chooseBlocks
    refine .ite ⟨h⟩ ?_
    split
    · exact ⟨h⟩
    · dsimp only
      split
      · exact ⟨h⟩
      · exact .ite (ih h.unfold) (ih h.modW)

theorem Kept.foldPools (h : Kept s0 s) : OnFst (Kept s0) (s.foldPools gs q n) := .foldl ⟨h⟩ fun h => ⟨h.fst.modG⟩

theorem Kept.foldQuad {ls : BitVec 4} {saves : List Nat} (h : Kept s0 s) :
    OnFst (Kept s0) (s.foldQuad region gs q ls n saves) :=
  Kept.chooseBlocks (h.foldPools.fst.foldl fun h => .ite h h.modW)

theorem Kept.requestSave (h : Kept s0 s) : Kept s0 (s.requestSave g) := .ite h.modG h

theorem Kept.preEmpt (h : Kept s0 s) : Kept s0 (s.preEmpt d c region ls blocks sbg) :=
  .ite h (.foldl (.foldl (OnFst.foldl ⟨h⟩ fun h => h.fst.foldQuad).fst fun h => h.unfold.requestSave.modG) fun h => h.modG)

theorem Kept.foldWarp (h : Kept s0 s) : Kept s0 (s.foldWarp g w) := by
  dsimp only [State.foldWarp]
  split; exacts [h, h.modW.modQuad.modG]

theorem Kept.foldUnits (h : Kept s0 s) : Kept s0 (s.foldUnits g) := .ite h h.modG
theorem Kept.expandWarp (h : Kept s0 s) : Kept s0 (s.expandWarp g w) := h.modW
theorem Kept.refillPools (h : Kept s0 s) : Kept s0 (s.refillPools g) := h.foldl fun h => h.modG

theorem Kept.expansion (h : Kept s0 s) : Kept s0 (s.expansion g) :=
  .ite h (.modG (.refillPools (h.modG.foldl fun h => h.expandWarp)))

theorem Kept.refill1 {w : Option Nat} (h : Kept s0 s) : Kept s0 (s.refill1 g w) := by
  unfold State.refill1
  split
  · exact .ite h h.modG
  · split; exacts [h, h.modG]

theorem Kept.drain {forced : Bool} (h : Kept s0 s) : Kept s0 (s.drain g forced) := h.modG
theorem Kept.saved (h : Kept s0 s) : Kept s0 (s.saved g) := h.drainDie.forget.modG

theorem Kept.resumeBank {img : ActBank} (h : Kept s0 s) : OnSome (Kept s0) (s.resumeBank v d c k img) :=
  .ite (.some h) (.ite .none (.some h.modC))

theorem Kept.resumeBanks (h : Kept s0 s) : OnSome (Kept s0) (s.resumeBanks g d c) :=
  .ite (.some h) (foldl_keeps (OnSome (Kept s0)) _ (fun _ _ hr => hr.bind fun h => h.resumeBank) _ _ (.some h))

theorem Kept.resumeLoads (h : Kept s0 s) : OnSome (Kept s0) (s.resumeLoads g d c) := .ite .none (.some h.modC)

theorem Kept.resume (h : Kept s0 s) : OnSome (Kept s0) (s.resume g d c units) := by
  unfold State.resume
  refine .ite .none ?_
  dsimp only
  split
  · exact .none
  · refine .ite .none ?_
    split
    · exact .none
    · exact .some (.clearBanks (.modG ((h.resumeBanks.bind fun h => h.resumeLoads).get ‹_›)))

theorem Kept.countErr {unc : Bool} (h : Kept s0 s) : Kept s0 (s.countErr d u unc) :=
  .ite h.modD.report.same h.modD.report.same

theorem Kept.softEffect {e : SoftErr} (h : Kept s0 s) : Kept s0 (s.softEffect e) := by
  unfold State.softEffect
  split
  · exact h.modT
  · exact h.modT
  · exact h.modT
  · exact h.regionFault
  · exact .ite h.regionFault h.modG
  · exact h.modG
  · exact h.modW
  · exact h.modW
  · exact h.modW
  · exact h.modG
  · exact .ite h.modG h
  · exact h.modG
  · exact .ite h.regionFault h
  · exact h.regionFault
  · exact h

/-! ### Machine/Pages: physical pages -/

/-- A range copied: `State.copyPhys_wf`. -/
theorem Kept.copyPhys {b : Nat} (h : Kept s0 s) : Kept s0 (s.copyPhys a b n) :=
  ⟨fun h0 => s.copyPhys_wf a b n (h.wf h0), by simp only [State.copyPhys, h.drainAll.dies]⟩

/-- A range cleared: `State.zeroPhys_wf`. -/
theorem Kept.zeroPhys (h : Kept s0 s) : Kept s0 (s.zeroPhys a n) :=
  ⟨fun h0 => s.zeroPhys_wf a n (h.wf h0), by simp only [State.zeroPhys, h.drainAll.dies]⟩

theorem Kept.own (h : Kept s0 s) : Kept s0 (s.own pa n v) := h.modD
theorem Kept.freeFrames (h : Kept s0 s) : Kept s0 (s.freeFrames pa n) := h.zeroPhys.own
theorem Kept.setEnt {e : Nat} (h : Kept s0 s) : Kept s0 (s.setEnt pa e) := h.setPbytes
theorem Kept.dropTlb {p : TlbEnt → Bool} (h : Kept s0 s) : Kept s0 (s.dropTlb d p) := .modD (h.foldl fun h => h.foldHits)
theorem Kept.tinv (h : Kept s0 s) : Kept s0 (s.tinv v page n) := h.foldl fun h => h.dropTlb

/-! ### Machine/DieUnit: the die unit -/

theorem Kept.reply {w0 : DWord} (h : Kept s0 s) : Kept s0 (s.reply d w0 status) := h.modD

theorem Kept.dieCmd {w0 : DWord} {body : State → Except Nat State} (h : Kept s0 s)
    (hb : ∀ {r}, Kept s0 r → OnOk (Kept s0) (body r)) :
    Kept s0 (s.dieCmd code d w0 body) :=
  .ite h (.ite h.reply (by split; exacts [((hb h).getOk ‹_›).reply, h.reply]))

theorem Kept.dropLines {p : ICLine → Bool} (h : Kept s0 s) : Kept s0 (s.dropLines d p) := h.modD
theorem Kept.icinv (h : Kept s0 s) : Kept s0 (s.icinv d v va n) := h.dropLines
theorem Kept.keyload (h : Kept s0 s) : Kept s0 (s.keyload d k v) := h.modD
theorem Kept.keydisc (h : Kept s0 s) : Kept s0 (s.keydisc d k) := h.drainAll.modD
theorem Kept.dropFault (h : Kept s0 s) : Kept s0 (s.dropFault d tag) := h.modD
theorem Kept.redemand (h : Kept s0 s) : Kept s0 (s.redemand v page) := h.same

theorem Kept.frestart {f : FaultRec} (h : Kept s0 s) : Kept s0 (s.frestart d f) := by
  refine .ite h.dropFault ?_
  dsimp only
  split; exacts [h.dropFault.redemand.modHead, h.dropFault.redemand]

theorem Kept.killDomain {dom : Nat} (h : Kept s0 s) : Kept s0 (s.killDomain dom) :=
  .same (.foldl (h.foldl fun h => h.regionFault) fun h => h.abortSpinner)

theorem Kept.fkill {f : FaultRec} (h : Kept s0 s) : Kept s0 (s.fkill d f) := by
  dsimp only [State.fkill]
  split; exacts [h.dropFault.killDomain, h.dropFault]

theorem Kept.foldEpoch (h : Kept s0 s) : Kept s0 (s.foldEpoch d v) := .modD (h.foldl fun h => h.foldHits)
theorem Kept.hotFuncs {r : State} (h : Kept s0 s) : Kept s0 (r.hotFuncs s d v) := h.same

theorem Kept.epochEnd (h : Kept s0 s) : Kept s0 (s.epochEnd d v queued) := by
  dsimp only [State.epochEnd]
  split; exacts [h, .hotFuncs (.ite h.foldEpoch h.foldEpoch.modD)]

theorem Kept.dropReplicas {ds : List Nat} (h : Kept s0 s) : Kept s0 (s.dropReplicas v page n ds) :=
  h.foldl fun h => .modD (h.foldl fun h => h.freeFrames)

theorem Kept.modShadow {f : Shadow → Shadow} (h : Kept s0 s) : Kept s0 (s.modShadow fr f) := h.modD
theorem Kept.moveSpanDir {e : Nat} (h : Kept s0 s) : Kept s0 (s.moveSpanDir v page n d e) := .ite h h.modD.modD

theorem Kept.movePage {e : Nat} {large : Bool} (h : Kept s0 s) : OnSome (Kept s0) (s.movePage m page e large frame) := by
  dsimp only [State.movePage]
  split
  · exact .none
  · split
    · exact .ite .none (.some h.copyPhys.own.setEnt.tinv.modD.modShadow)
    · exact .some h.dropReplicas.modShadow.setEnt.tinv
    · exact .some h.dropReplicas.modShadow.setEnt.tinv
    · exact .ite .none (.some h.copyPhys.own.setEnt.tinv.modShadow.modShadow.moveSpanDir.freeFrames)

theorem Kept.moveReplica (h : Kept s0 s) : OnSome (Kept s0) (s.moveReplica m frame) := by
  unfold State.moveReplica
  split; exacts [.none, .ite .none (.some h.copyPhys.own.tinv.modD.freeFrames)]

theorem Kept.moveTable (h : Kept s0 s) : OnSome (Kept s0) (s.moveTable m frame) := by
  dsimp only [State.moveTable]
  split
  · exact .none
  · exact .ite .none (.some (.freeFrames (.ite h.copyPhys.own.same (h.copyPhys.own.foldl fun h => h.setEnt))))

theorem Kept.pageMove (h : Kept s0 s) : Kept s0 (s.pageMove d m frame) := by
  refine .ite h (.ite (h.modD.moveReplica.getD h) (.ite (h.modD.moveTable.getD h) ?_))
  split
  · exact h.modD
  · refine .ite h.modD ?_
    split; exacts [.ite h.modD h, h.modD.movePage.get ‹_›]

theorem Kept.faultDie (h : Kept s0 s) : Kept s0 (s.faultDie d) := h.foldl fun h => h.faultRegion

theorem Kept.dieErrEffect {e : DieErr} (h : Kept s0 s) : Kept s0 (s.dieErrEffect d e) := by
  unfold State.dieErrEffect
  split
  · exact h.modD
  · exact h.modD
  · exact h
  · exact h.modD
  · exact h.faultDie
  · split; exacts [h, .ite h h.modD]
  · exact .ite h.same h

/-! ### Machine/Snapshot: checkpoints -/

theorem Kept.tableAt {ea : Nat} {al : Nat} (h : Kept s0 s) : OnSome (OnFst (Kept s0)) (s.tableAt ea al v tables) := by
  refine .ite (.ite .none (.mapAll ⟨h⟩)) ?_
  split; exacts [.none, .ite (.some ⟨h.zeroPhys.own.setEnt⟩) .none]

theorem Kept.putLeaf {leaf : Nat} {large : Bool} (h : Kept s0 s) :
    OnSome (OnFst (Kept s0)) (s.putLeaf v page leaf large tables) := by
  unfold State.putLeaf
  split
  · exact .none
  · split
    · exact .none
    · next ht =>
      have h := (h.tableAt.get ht).fst
      refine .ite (.some ⟨h.setEnt⟩) ?_
      split; exacts [.none, .some ⟨(h.tableAt.get ‹_›).fst.setEnt⟩]

theorem Kept.mapPage {m : MapEnt} (h : Kept s0 s) : OnSome (OnFst (Kept s0)) (s.mapPage v m frame tables) := by
  dsimp only [State.mapPage]
  exact h.zeroPhys.own.putLeaf

theorem Kept.mapPages {l : List MapEnt} {fs : List Nat} (h : Kept s0 s) :
    OnSome (Kept s0) (s.mapPages v hint l fs tables) := by
  induction l generalizing s fs tables with
  | nil => cases fs; exacts [.some h, .none]
  | cons m l ih =>
    dsimp only [State.mapPages]
    split
    · split
      · exact .none
      · next hp => exact ih (h.putLeaf.get hp).fst
    · exact .none
    · refine .ite .none ?_
      split
      · exact .none
      · next hp => exact ih (h.mapPage.get hp).fst

theorem Kept.unmapPage {m : Nat × Nat × Bool} (h : Kept s0 s) : Kept s0 (s.unmapPage v m) := by
  refine .ite (.tinv ?_) (.freeFrames (.modShadow (.dropReplicas (.tinv ?_))))
  · split; exacts [h.setEnt, h]
  · split; exacts [h.setEnt, h]

theorem Kept.sysFrame (h : Kept s0 s) : OnSome (OnFst (Kept s0)) (s.sysFrame v) := .mapAll ⟨h.zeroPhys.own⟩

theorem Kept.mapRoot {b : List Byte} (h : Kept s0 s) : OnSome (Kept s0) (s.mapRoot v addr b) := by
  unfold State.mapRoot
  split
  · exact .none
  · next hf =>
    split
    · exact .none
    · split
      · exact .none
      · exact (Kept.putLeaf (h.sysFrame.get hf).fst).map fun h => Kept.setPbytes h.fst

theorem Kept.putRoot (h : Kept s0 s) : Kept s0 (s.putRoot v) := by
  unfold State.putRoot
  split
  · exact h
  · split; exacts [h.setPbytes, h.mapRoot.getD h]

theorem Kept.restore (h : Kept s0 s) : Kept s0 (s.restore v st) := h.same

theorem Kept.endWork (h : Kept s0 s) : Kept s0 (s.endWork v) :=
  .mapDies (.foldl (.foldl (.foldl (h.foldl fun h => h.abortSpinner) fun h => h.faultLaunch) fun h => h.modG.forget.release)
    fun h => h.modQ.putDesc)

theorem Kept.freeDevice (h : Kept s0 s) : Kept s0 (s.freeDevice v) := .mapDies (h.foldl fun h => h.foldl fun h => h.zeroPhys)
theorem Kept.discKeys (h : Kept s0 s) : Kept s0 (s.discKeys v) := h.drainAll.mapDies

/-! ### Machine/Calls: system calls -/

theorem Kept.answer {v : DWord} (h : Kept s0 s) : Kept s0 (s.answer c v) := h.same

/-- A system call: what the body answers is written back, or the call waits. -/
theorem Kept.serveCall {body : Call → Reply} (h : Kept s0 s) (hb : ∀ x, OnReply (Kept s0) (body x)) :
    Kept s0 (s.serveCall c num used body) := by
  unfold State.serveCall
  split
  · exact h
  · exact .ite h (.ite h.answer (by split; exacts [((hb _).getDone ‹_›).answer, h.answer, h, (hb _).getHold ‹_›]))

theorem Kept.takeBlock {b : Nat → Byte} (h : Kept s0 s) : OnReply (Kept s0) (s.takeBlock x b) := by
  refine .ite .err (.ite .err ?_)
  split
  · exact .err
  · split; exacts [.err, .ite .err (.done h.newId.fst.same)]

theorem Kept.zeroRange (h : Kept s0 s) : Kept s0 (s.zeroRange v a n) := by
  refine h.foldl fun h => h.foldl fun h => ?_
  split; exacts [h.zeroPhys, h]

theorem Kept.qopen (h : Kept s0 s) : OnReply (Kept s0) (s.qopen x check) := by
  refine .ite .err (.ite .err ?_)
  dsimp only
  split
  · exact .ite .wait (.done h.same.zeroRange.putDesc)
  · exact .ite .err (.ite .wait (.done h.modQ.zeroRange.putDesc))

theorem Kept.mmap {tables : Frames} (h : Kept s0 s) : OnReply (Kept s0) (s.mmap x frames tables) := by
  refine .ite .err (.ite .err (.ite .err (.ite .wait ?_)))
  split; exacts [.wait, .done (h.mapPages.get ‹_›)]

theorem Kept.rcreate (h : Kept s0 s) : OnReply (Kept s0) (s.rcreate x addr check) := by
  unfold State.rcreate
  split
  · exact .err
  · split
    · exact .awayReply
    · exact .ite .err (.ite .wait (.done h.same.vput))

theorem Kept.execFwait (h : Kept s0 s) : OnNext (Kept s0) (execFwait c s) := by
  refine .next (h.serveCall fun _ => ?_)
  split
  · exact .err
  · split
    · split; exacts [.wait, .awayReply]
    · split; exacts [.awayReply, .done (.modD (h.writeClean.getOk ‹_›))]

theorem Kept.execFresolve (h : Kept s0 s) : OnNext (Kept s0) (execFresolve c s) := by
  refine .next (h.serveCall fun _ => ?_)
  split
  · exact .err
  · split; exacts [.err, .ite .err (.ite (.done h.frestart) (.done (.ite h.fkill h.dropFault)))]

theorem Kept.hostPut (h : Kept s0 s) : Kept s0 (s.hostPut a l) := h.same
theorem Kept.ringPut (h : Kept s0 s) : Kept s0 (s.ringPut l) := h.hostPut.same

theorem Kept.ringData (h : Kept s0 s) : Kept s0 (s.ringData data n) := by
  induction n generalizing s data with
  | zero => exact h
  | succ n ih => exact ih h.ringPut

theorem Kept.hostReply (h : Kept s0 s) : Kept s0 (s.hostReply tag res extra data) := h.ringPut.ringData.same
theorem Kept.mgmtReply (h : Kept s0 s) : Kept s0 (s.mgmtReply tag seq res extra data) := h.same

theorem Kept.accept {sound : Bool} (h : Kept s0 s) : OnSome (Kept s0) (s.accept tag seq sound) :=
  .ite (.some h) (.ite (.some h.same) .none)

theorem Kept.dropCall (h : Kept s0 s) : Kept s0 (s.dropCall c) := h.same
theorem Kept.modApp {f : AppCore → AppCore} (h : Kept s0 s) : Kept s0 (s.modApp n f) := h.same

theorem Kept.appCall {x17 : DWord} {x10 : DWord} (h : Kept s0 s) : OnSome (Kept s0) (s.appCall n x17 x10) := by
  unfold State.appCall
  split
  · exact .some h
  · refine .ite (.some h) ?_
    dsimp only
    split; exacts [.some h.newId.fst.modApp.addCall, .ite .none (.some h.newId.fst.modApp.addCall)]

theorem Kept.execSyscallReply (h : Kept s0 s) : OnNext (Kept s0) (execSyscallReply c s) := by
  refine .next ?_
  split
  · exact h
  · split
    · exact h
    · split
      · exact .ite h.dropCall.modT.received h.dropCall
      · exact h.dropCall.modApp
      · exact .ite h.dropCall.hostReply h
      · exact h.dropCall.mgmtReply

/-! ### Machine/Service: management services -/

theorem Kept.saveAll (h : Kept s0 s) : Kept s0 (s.saveAll v) := h.foldl fun h => h.requestSave
theorem Kept.flushQueues (h : Kept s0 s) : Kept s0 (s.flushQueues v) := h.foldl fun h => h.putDesc
theorem Kept.takeCkpt (h : Kept s0 s) : OnFst (Kept s0) (s.takeCkpt v) := ⟨h.flushQueues.drainAll.newId.fst.same⟩

theorem Kept.ckptStep (h : Kept s0 s) : OnFst (Kept s0) (s.ckptStep v a) := by
  dsimp only [State.ckptStep]
  exact .ite ⟨h.enqueue⟩ (.ite ⟨h.enqueue.saveAll⟩ h.enqueue.finishAct.takeCkpt.pair)

theorem Kept.ckptAnswer (h : Kept s0 s) : Kept s0 (s.ckptAnswer c id) := h.same

theorem Kept.execCkpt (h : Kept s0 s) : OnNext (Kept s0) (execCkpt c s) :=
  .next (h.serveCall fun _ => by split; exacts [.hold (h.ckptStep.get ‹_›), .done (h.ckptStep.get ‹_›).ckptAnswer])

theorem Kept.ckptAll (h : Kept s0 s) : OnFst (Kept s0) s.ckptAll :=
  ⟨.foldl (.ite h (h.foldl fun h => h.enqueue)) fun h => h.ckptStep.fst⟩

theorem Kept.putCells {l : FMap Byte} (h : Kept s0 s) : Kept s0 (s.putCells v l) := by
  refine h.foldl fun h => ?_
  split; exacts [h.writePa, h]

theorem Kept.putPsn {l : NSet} (h : Kept s0 s) : Kept s0 (s.putPsn v l) := by
  refine h.foldl fun h => ?_
  split; exacts [h.setPsn, h]

theorem Kept.keepRoot (h : Kept s0 s) : Kept s0 (s.keepRoot v) := by
  unfold State.keepRoot
  split; exacts [h.own, h]

theorem Kept.emptyDevice (h : Kept s0 s) : Kept s0 (s.emptyDevice v) := h.endWork.freeDevice.keepRoot.mapDies

theorem Kept.restoreCkpt {k : Ckpt} {tables : Frames} (h : Kept s0 s) : OnSome (Kept s0) (s.restoreCkpt k frames tables) :=
  .ite .none (h.emptyDevice.same.mapPages.map fun h => h.putCells.putPsn.restore.putRoot)

theorem Kept.startApp {pc : Nat} (h : Kept s0 s) : Kept s0 (s.startApp v pc) := by
  unfold State.startApp
  split; exacts [h, h.same]

theorem Kept.placeFor {b : Nat} {tables : Frames} (h : Kept s0 s) :
    OnOk (OnSome (Kept s0)) (s.placeFor v a b frames tables) :=
  .ite (.ok (.some h)) (.ite (.error trivial) (.ite (.ok .none) (.ok h.mapPages)))

theorem Kept.loadImage {base : Nat} {tables : Frames} (h : Kept s0 s) :
    OnSome (OnFst (Kept s0)) (s.loadImage v l base frames tables) := by
  unfold State.loadImage
  split
  · exact .none
  · split
    · exact .some ⟨h⟩
    · refine .ite (.some ⟨h⟩) ?_
      dsimp only
      split
      · exact .some ⟨h⟩
      · refine .ite .none ?_
        split
        · exact .some ⟨h⟩
        · exact .none
        · exact .ite .none (.some
            ⟨.startApp (.same (.foldl (.foldl ((h.placeFor.getOk ‹_›).get rfl) fun h => h.vput) fun h => h.icinv))⟩)

theorem Kept.execImageLoad {image : List Byte} {place : ImagePlace} (h : Kept s0 s) :
    OnNext (Kept s0) (execImageLoad v image place s) := by
  refine .next ?_
  split; exacts [h, (h.loadImage.get ‹_›).fst.same]

theorem Kept.cutShort {p : Nat} (h : Kept s0 s) : Kept s0 (s.cutShort img func v p) := h.same

theorem Kept.swap {code : List DWord} (h : Kept s0 s) : Kept s0 (s.swap img func code) := by
  unfold State.swap
  split
  · exact h
  · split
    · exact h
    · refine .ite h ?_
      split; exacts [h.cutShort, .same (.vput (h.vput.foldl fun h => h.icinv))]

theorem Kept.reclaim (h : Kept s0 s) : Kept s0 (s.reclaim img) := by
  unfold State.reclaim
  split; exacts [h, h.same]

theorem Kept.sliceEnd (h : Kept s0 s) : Kept s0 (s.sliceEnd d c q) := by
  unfold State.sliceEnd
  split
  · refine .ite h ?_
    split; exacts [h, h.modQuad.foldl fun h => h.requestSave]
  · exact h

theorem Kept.holderNeed (h : Kept s0 s) : Kept s0 (s.holderNeed d c q) := by
  unfold State.holderNeed
  split; exacts [h.foldl fun h => h.requestSave, h]

theorem Kept.boxReply (h : Kept s0 s) : OnSome (Kept s0) (s.boxReply tag res extra data) :=
  .ite (.ite (.some h.hostReply) .none) (.ite (.some h.hostReply) .none)

theorem Kept.service {src : ReqSrc} {ok : HostReq → Bool} {body : State → Served'} (h : Kept s0 s)
    (hb : ∀ {r}, Kept s0 r → OnServed' (Kept s0) (body r)) : Kept s0 (s.service src code ok body) := by
  unfold State.service
  refine .ite h ?_
  split
  · split
    · exact h
    · have hr := hb (h.accept.get ‹_›)
      split; exacts [(hr.getDone ‹_›).mgmtReply, hr.getWait ‹_›]
  · split
    · exact h
    · refine .ite (h.same.boxReply.getD h) ?_
      split; exacts [((hb h).getDone ‹_›).same.boxReply.getD h, (hb h).getWait ‹_›]

theorem Kept.applyRec (h : Kept s0 s) : Kept s0 (s.applyRec r) :=
  .mapDies (.foldl (h.mapDies.foldl fun h => h.modQuad) fun h => h.foldl fun h => .ite h h.modC)

theorem Kept.loadKey (h : Kept s0 s) : Kept s0 (s.loadKey d k v) :=
  .keyload (.ite (.modD (h.drainAll.foldl fun h => h.zeroP.setPsn.setPsn)) h)

theorem Kept.createDevice (h : Kept s0 s) : Kept s0 (s.createDevice r root block check slots) := by
  unfold State.createDevice
  exact .putRoot (.same (.applyRec (h.zeroPhys.own.foldl fun h => h.loadKey)))

theorem Kept.vconf {src : ReqSrc} {record : List Byte} {body : State → Served'} (h : Kept s0 s)
    (hb : ∀ {r}, Kept s0 r → OnServed' (Kept s0) (body r)) :
    Kept s0 (s.vconf src record body) :=
  h.service fun h => .ite (.done h) (hb h)

theorem Kept.inTurnOf {body : State → Served'} (h : Kept s0 s) (hb : ∀ {r}, Kept s0 r → OnServed' (Kept s0) (body r)) :
    OnServed' (Kept s0) (s.inTurnOf v a body) :=
  .ite (hb h.enqueue) (.wait h.enqueue)

theorem Kept.changeDevice (h : Kept s0 s) : Kept s0 (s.changeDevice r slots) :=
  .putRoot (.same (.modV (h.applyRec.foldl fun h => h.loadKey)))

theorem Kept.execVconfChange {src : ReqSrc} {record : List Byte} (h : Kept s0 s) :
    OnNext (Kept s0) (execVconfChange src record s) := by
  refine .next (.ite h (h.vconf fun h => .ite (.done h.finishAct) (.ite (.done h.finishAct) (h.inTurnOf fun h => ?_))))
  split
  · exact .done h.finishAct
  · exact .done h.changeDevice.finishAct
  · exact .wait (h.foldl fun h => h.requestSave)

theorem Kept.resetDevice (h : Kept s0 s) : Kept s0 (s.resetDevice v) := by
  unfold State.resetDevice
  exact h.emptyDevice.discKeys.mapDies.modV.putRoot

theorem Kept.deleteDevice (h : Kept s0 s) : Kept s0 (s.deleteDevice v) := h.emptyDevice.discKeys.freeDevice.mapDies
theorem Kept.addReserve {r : Reserve} (h : Kept s0 s) : Kept s0 (s.addReserve d r) := h.modD.report.same

theorem Kept.bringReserve {date : Nat} (h : Kept s0 s) : Kept s0 (s.bringReserve d kind num date) := by
  refine .ite h (.ite ?_ (.ite (.ite h h.modD.addReserve) (.ite h.addReserve (.ite h.addReserve h))))
  split; exacts [h, .ite h (.ite h.modC.same.addReserve (h.foldl fun h => h.requestSave))]

/-! ### Machine/Fabric: links, peers and migration -/

theorem Kept.modLink {f : Link → Link} (h : Kept s0 s) : Kept s0 (s.modLink n f) := h.same
theorem Kept.linkEvent (h : Kept s0 s) : Kept s0 (s.linkEvent kind n) := h.same.report
theorem Kept.outAnswer {l : List (Byte × Bool)} (h : Kept s0 s) : Kept s0 (s.outAnswer src status l) := h.same

theorem Kept.outAccess {psn : NSet} (h : Kept s0 s) : OnOk (OnFst (Kept s0)) (s.outAccess v va kind n data psn) := by
  dsimp only [State.outAccess]
  split
  · split; exacts [.error trivial, .ok ⟨h⟩]
  · split; exacts [.error trivial, .ok ⟨(h.land.getOk ‹_›)⟩]
  · split
    · exact .error trivial
    · exact .error trivial
    · split; exacts [.error trivial, .ok ⟨(h.writeN.getOk ‹_›)⟩]

theorem Kept.modOut {f : MigOut → MigOut} (h : Kept s0 s) : Kept s0 (s.modOut v f) := h.same
theorem Kept.modIn {f : MigIn → MigIn} (h : Kept s0 s) : Kept s0 (s.modIn v f) := h.same

theorem Kept.peerAccess {r : HeldReq} (h : Kept s0 s) : OnSome (Kept s0) (s.peerAccess v r) := by
  dsimp only [State.peerAccess]
  split
  · exact .none
  · split
    · exact .none
    · refine .some ?_
      split
      · exact .outAnswer ((Kept.outAccess (h.modD.charge.getOk ‹_›)).getOk ‹_›).fst
      · exact .outAnswer (h.modD.charge.getOk ‹_›)

theorem Kept.serveList {m : MigIn} {l : List HeldReq} (h : Kept s0 s) : OnFst (Kept s0) (s.serveList v m left l) := by
  induction l generalizing s left with
  | nil => exact ⟨h⟩
  | cons r l ih => exact .ite (ih h) (by split; exacts [ih h, ih (h.peerAccess.get ‹_›)])

theorem Kept.serveHeld (h : Kept s0 s) : Kept s0 (s.serveHeld v) := by
  unfold State.serveHeld
  split; exacts [h, h.serveList.fst.modIn]

theorem Kept.forwardHeld (h : Kept s0 s) : Kept s0 (s.forwardHeld v) := by
  unfold State.forwardHeld
  split; exacts [h, h.modOut]

theorem Kept.refuse {link : Nat} {ivdev : Nat} (h : Kept s0 s) : Kept s0 (s.refuse link ivdev pos) := h.violate.outAnswer

theorem Kept.peerTry {q : PeerReq} (h : Kept s0 s) : OnSome (Kept s0) (s.peerTry q) := by
  dsimp only [State.peerTry]
  split
  · exact .some h.refuse
  · refine .ite (.some h.refuse) (.ite (.some h.refuse) ?_)
    split; exacts [.some h.modOut, .some (.ite h.modOut h.modIn), h.peerAccess]

theorem Kept.peerRequest {q : PeerReq} (h : Kept s0 s) : Kept s0 (s.peerRequest q) :=
  .ite h (.ite h.same (h.peerTry.getD h.same))

theorem Kept.endMigIn (h : Kept s0 s) : Kept s0 (s.endMigIn v) := h.same

theorem Kept.takeMarker {link : Nat} {peer : Nat} (h : Kept s0 s) : Kept s0 (s.takeMarker v link peer) := by
  dsimp only [State.takeMarker]
  split; exacts [.ite h.modOut h.modOut, h.modIn.serveHeld.endMigIn]

theorem Kept.waitTry {q : PeerReq} (h : Kept s0 s) : OnSome (Kept s0) (s.waitTry q) := .ite (.some h.takeMarker) h.peerTry

theorem Kept.serveWaiting (h : Kept s0 s) : Kept s0 s.serveWaiting := by
  refine Kept.same (OnFst.fst (OnFst.foldl (b := (s, [])) ⟨h⟩ fun h => ?_))
  exact .ite ⟨h.fst⟩ (by split; exacts [⟨h.fst⟩, ⟨h.fst.waitTry.get ‹_›⟩])

theorem Kept.outBad {q : OutReq} {inside : Bool} (h : Kept s0 s) : Kept s0 (s.outBad q va inside) := by
  dsimp only [State.outBad]
  split; exacts [h.violate.outAnswer, h.violate.outAnswer]

theorem Kept.outLand {q : OutReq} (h : Kept s0 s) : OnSome (Kept s0) (s.outLand q) := by
  dsimp only [State.outLand]
  split
  · exact .none
  · split
    · exact .some (.ite ((Kept.outAccess (h.charge.getOk ‹_›)).getOk ‹_›).fst
        (.outAnswer ((Kept.outAccess (h.charge.getOk ‹_›)).getOk ‹_›).fst))
    · exact .ite .none (.some h.outBad)

theorem Kept.outFlush (h : Kept s0 s) : Kept s0 (s.outFlush src) := by
  refine Kept.same (OnFst.fst (OnFst.foldl (b := (s, [])) ⟨h⟩ fun h => ?_))
  exact .ite ⟨h.fst⟩ (by split; exacts [⟨h.fst⟩, ⟨h.fst.outLand.get ‹_›⟩])

theorem Kept.outRetry (h : Kept s0 s) : Kept s0 (s.outRetry k) := by
  unfold State.outRetry
  split; exacts [h, .ite h (h.same.outLand.getD h)]

theorem Kept.outReq {q : OutReq} (h : Kept s0 s) : Kept s0 (s.outReq q) :=
  .ite h.same (.ite h.outFlush.same (h.outFlush.outLand.getD h.outFlush.same))

theorem Kept.outTry {q : OutReq} (h : Kept s0 s) : Kept s0 (s.outTry q) := by
  refine .ite h ?_
  split; exacts [h.outBad, h.outReq]

theorem Kept.execBar2Access {win : Nat} {op : Bar2Op} (h : Kept s0 s) :
    OnNext (Kept s0) (execBar2Access win off n op data s) := by
  refine .next (.ite h ?_)
  split
  · exact h.outBad
  · split; exacts [h, h.outReq]

theorem Kept.peerLeaves {g : Grant} {l : List Nat} (h : Kept s0 s) :
    OnSome (Kept s0) (s.peerLeaves v page g part l tables) := by
  induction l generalizing s tables with
  | nil => exact .some h
  | cons k l ih => unfold State.peerLeaves; split; exacts [.none, ih (h.putLeaf.get ‹_›).fst]

theorem Kept.execPeerWindowConfiguration {g : Grant} {exp : Nat} {tables : Frames} (h : Kept s0 s) :
    OnNext (Kept s0) (execPeerWindowConfiguration g exp va tables s) := by
  refine .next (.ite (.ite h h.same) (.ite h (.ite h ?_)))
  split; exacts [h, .same (h.peerLeaves.get ‹_›)]

theorem Kept.answerReq {src : ReqSrc} (h : Kept s0 s) : Kept s0 (s.answerReq src code res) := by
  unfold State.answerReq
  split; exacts [h.mgmtReply, h.same.hostReply]

theorem Kept.stay (h : Kept s0 s) : Kept s0 (s.stay v) := h.same.modV.finishAct
theorem Kept.depart1 (h : Kept s0 s) : Kept s0 (s.depart1 g) := h.modG.clearBanks
theorem Kept.leave (h : Kept s0 s) : Kept s0 (s.leave v dest) := .mapDies (h.foldl fun h => h.depart1)
theorem Kept.payCall (h : Kept s0 s) : Kept s0 (s.payCall dest v id res) := .ite h h.same
theorem Kept.callHome (h : Kept s0 s) : Kept s0 (s.callHome v id) := h.same

theorem Kept.execMigrationCommit {vdev : Nat} {ok : Bool} {exp : Option (Nat × Nat × Nat)} (h : Kept s0 s) :
    OnNext (Kept s0) (execMigrationCommit vdev ok exp s) := by
  refine .next ?_
  split
  · exact .ite h.same h
  · split; exacts [h, .ite (.ite h.leave.modOut h) (.ite h h.stay.answerReq)]

theorem Kept.ship (h : Kept s0 s) : Kept s0 (s.ship v page) := by
  unfold State.ship
  split; exacts [h, .ite h h.modOut]

theorem Kept.depart (h : Kept s0 s) : Kept s0 (s.depart v page) := by
  unfold State.depart
  split; exacts [.ite h h.drainAll.dropReplicas.modOut, h]

theorem Kept.execPagePush {vdev : Nat} (h : Kept s0 s) : OnNext (Kept s0) (execPagePush vdev s) := by
  refine .next ?_
  split
  · exact h
  · split; exacts [h, h.ship]

theorem Kept.destFailed (h : Kept s0 s) : Kept s0 (s.destFailed v) := by
  unfold State.destFailed
  split; exacts [h, .ite h (.modOut (h.same.foldl fun h => h.faultRegion))]

theorem Kept.setAside {frames : List Nat} (h : Kept s0 s) :
    OnSome (Kept s0) (s.setAside src sdev st r root block check slots frames tables) :=
  .ite .none (.ite .none (h.createDevice.mapPages.map fun h => h.same))

theorem Kept.reserveFor {frames : List Nat} (h : Kept s0 s) :
    Kept s0 (s.reserveFor src sdev st r root block check slots frames tables) :=
  .same (h.setAside.getD h)

theorem Kept.unreserve {x : Reserved} (h : Kept s0 s) : Kept s0 (s.unreserve x) := h.deleteDevice.same
theorem Kept.discardFrom (h : Kept s0 s) : Kept s0 (s.discardFrom src) := h.foldl fun h => h.unreserve

theorem Kept.stateCame {cipher : List Byte} {digest : List Byte} {sig : List Byte} (h : Kept s0 s) :
    Kept s0 (s.stateCame src sdev cipher digest sig) := by
  unfold State.stateCame
  split; exacts [h, .ite h.same h.unreserve]

theorem Kept.execMigrationResume {vdev : Nat} {marks : List (Nat × Nat)} {tables : Frames} (h : Kept s0 s) :
    OnNext (Kept s0) (execMigrationResume vdev src st marks frames tables s) := by
  refine .next (.ite h ?_)
  split
  · exact h
  · exact .same (.putRoot (.restore (.same ((Kept.mapPages (h.foldl fun h => h.unmapPage)).get ‹_›))))

theorem Kept.putImg {img : PageImg} {ren : List (Nat × Nat)} (h : Kept s0 s) : Kept s0 (s.putImg v fr img ren) :=
  .modD (.modShadow (.foldl (h.foldl fun h => h.writePa) fun h => h.setPsn))

theorem Kept.putDescs (h : Kept s0 s) : Kept s0 (s.putDescs v page n) := h.foldl fun h => h.putDesc

theorem Kept.arrive {img : PageImg} (h : Kept s0 s) : Kept s0 (s.arrive v page frame img) := by
  unfold State.arrive
  split
  · refine .ite h (.endMigIn (.serveHeld (.putDescs (.modIn (.putImg (.ite h ?_))))))
    split; exacts [h, h.zeroPhys.own.setEnt.tinv.freeFrames]
  · exact h

theorem Kept.execPageArrival {vdev : Nat} {img : Option PageImg} (h : Kept s0 s) :
    OnNext (Kept s0) (execPageArrival vdev page frame img s) := by
  refine .next ?_
  split
  · exact h.arrive
  · split; exacts [h, .ite h h.modOut.forwardHeld]

/-! ### Machine/Lane: lane operations -/

theorem Kept.doSetpart (h : Kept s0 s) : Kept s0 (s.doSetpart i) := h.once fun h => .done h.modW

/-! ### Machine/PackageUnit: the package -/

theorem Kept.modPkg {f : Package → Package} (h : Kept s0 s) : Kept s0 (s.modPkg f) := h.same
theorem Kept.mapFused (h : Kept s0 s) : Kept s0 s.mapFused := h.foldl fun h => h.bringReserve
theorem Kept.bootFailed (h : Kept s0 s) : Kept s0 (s.bootFailed k) := h.modPkg.report

theorem Kept.bootStage {fails : List Nat} (h : Kept s0 s) : Kept s0 (s.bootStage fails k) :=
  .ite h (.ite (.ite h.bootFailed.modPkg h.bootFailed) (.modPkg (.ite h.mapFused h)))

theorem Kept.execThermalShutdown {safe : Bool} (h : Kept s0 s) : OnNext (Kept s0) (execThermalShutdown safe s) :=
  .next (.ite (OnFst.ite h.ckptAll ⟨h⟩).fst.modPkg.report (OnFst.ite h.ckptAll ⟨h⟩).fst)

theorem Kept.reqAction {args : List Word} (h : Kept s0 s) : Kept s0 (s.reqAction tag code v args) :=
  .ite h.enqueue (.ite h.enqueue h)

theorem Kept.readReq {ix : Word} (h : Kept s0 s) : Kept s0 (s.readReq ix) :=
  .ite h.newId.fst.addCall (.ite h.newId.fst.addCall h.modPkg.reqAction)

theorem Kept.readReqs (h : Kept s0 s) : Kept s0 (s.readReqs n) := by
  induction n generalizing s with
  | zero => exact h
  | succ n ih => exact .ite h (ih h.readReq.modPkg)

/-! ### Machine/Dispatch: the instructions -/

/-- The last line is for the instructions that compute on the registers of each thread by itself. -/
theorem Kept.exec {i : Instr} (h : Kept s0 s) : OnNext (Kept s0) (exec i s) := by
  cases i with
  | ill | illPrerin => exact .next h.trapAll
  | fact | shfl | vote | matchk | redux | redix | scan | actv | hget | mstat | factPrerin | shflPrerin | votePrerin
    | matchkPrerin | reduxPrerin | redixPrerin | scanPrerin | actvPrerin | hgetPrerin | mstatPrerin =>
    exact .next h.lanes
  | atld | atldPrerin => exact .next h.doAtld
  | atsel | atselPrerin => exact .next h.doAtsel
  | setpart | setpartPrerin => exact .next h.doSetpart
  | lds | ldsa | ldsPrerin | ldsaPrerin => exact .next h.doLoad
  | sts | stsr | stsPrerin | stsrPrerin => exact .next h.doStore
  | atms | atmsPrerin => exact .next h.doAtms
  | ldw | ldwPrerin => exact .next h.doLdw
  | fence | fencePrerin => exact .next h.doFence
  | bar | barPrerin => exact .next h.doBar
  | xbarInit | xbarInitPrerin => exact .next h.doXbarInit
  | xbarArrive | xbarArrivePrerin => exact .next h.doXbarArrive
  | xbarWait | xbarWaitPrerin => exact .next h.doXbarWait
  | xbarInval | xbarInvalPrerin => exact .next h.doXbarInval
  | cpy | cpyg | cpys | cpyr | cpyPrerin | cpygPrerin | cpysPrerin | cpyrPrerin => exact .next h.doCopy
  | ldg | ldgPrerin => exact .next h.doLdg
  | stg | stgPrerin => exact .next h.doStg
  | atmg | atmgPrerin => exact .next h.doAtmg
  | cqjoin | cqjoinPrerin => exact .next h.doCqjoin
  | smap | smapPrerin => exact .next h.doSmap
  | ssync | ssyncPrerin => exact .next h.doSsync
  | sinv | sinvPrerin => exact .next h.doSinv
  | sclose | sclosePrerin => exact .next h.doSclose
  | pref | prefPrerin => exact .next h.doPref
  | hld | hldPrerin => exact .next h.doHld
  | hst | hstPrerin => exact .next h.doHst
  | hset | hsetPrerin => exact .next h.doHset
  | hcpy | hcpyPrerin => exact .next h.doHcpy
  | hadv | hadvPrerin => exact .next h.doHadv
  | mclr | mclrPrerin => exact .next h.doMclr
  | mtile | mtilePrerin => exact .next h.doMtile
  | mcvt | mcvtPrerin => exact .next h.doMcvt
  | mld | mexp | mldPrerin | mexpPrerin => exact .next h.doImage
  | mfmt | mfmtPrerin => exact .next h.doMfmt
  | tspawn | tspawnPrerin => exact .next h.doTspawn
  | qrsv | qrsvPrerin => exact .next h.doQrsv
  | qenq | qenqPrerin => exact .next h.doQenq
  | qdeq | qdeqPrerin => exact .next h.doQdeq
  | qtry | qsteal | qtryPrerin | qstealPrerin => exact .next h.doQtry
  | qerr | qerrPrerin => exact .next h.doQerr
  | qrest | qrestPrerin => exact .next h.doQrest
  | qstat | qstatPrerin => exact .next h.doQstat
  | succ | succPrerin => exact .next h.doSucc
  | wvis | wvisPrerin => exact .next h.doWvis
  | rsurr | rsurrPrerin => exact .next h.doRsurr
  | rclaim | rclaimPrerin => exact .next h.doRclaim
  | rstart | rstartPrerin => exact .next h.doRstart
  | rchild | rchildPrerin => exact .next h.doChild
  | rdone | rret | rdonePrerin | rretPrerin => exact .next h.doEnd
  | rres | rresPrerin => exact .next h.doRres
  | rinfo | rinfoPrerin => exact .next h.doRinfo
  | rbase | rbasePrerin => exact .next h.doRbase
  | rabort | rabortPrerin => exact .next h.doRabort
  | bra | braPrerin => exact .next h.doBra
  | brx | ret | brxPrerin | retPrerin => exact .next h.doBrx
  | call | callPrerin => exact .next h.doCall
  | callx | callxPrerin => exact .next h.doCallx
  | exit | exitPrerin => exact .next h.doExit
  | yield | yieldPrerin => exact .next h.doYield
  | trap | trapPrerin => exact .next h.doTrap
  | tret | tretPrerin => exact .next h.doTret
  | sysc | syscPrerin => exact .next h.doSysc
  | srd | srdPrerin => exact .next h.doSrd
  | swr | swrPrerin => exact .next h.doSwr
  | bkpt | bkptPrerin => exact .next h.doBkpt
  | ackn | acknPrerin => exact .next h.doAckn
  | wflg | wflgPrerin => exact .next h.doWflg
  | pWord => exact .next h.paired
  | clauseBoundary => exact .next (h.foldl fun h => h.boundary)
  | demotionExpiry | starvationPromotion => exact .next (.ite h.modT h)
  | queueEntryBegin => exact .next (h.beginEntry.getD (by split; exacts [.ite h.markWait h, h]))
  | commandRetire => exact .next h.retire
  | copyCredit => exact .next (h.creditEntry.getD h)
  | barrierWake => exact .next h.modG
  | spanFill => exact .next (h.fillSpan.getD (by split; exacts [.ite h.markWait h, h]))
  | spanWriteBack => exact .next h.spanWriteBack
  | bankWrite => exact .next (h.writeBank.getD h)
  | chaserStep => exact .next (h.chaserStep.getD h)
  | preEmptionRequest => exact .next h.preEmpt
  | foldComplete => exact .next (by split; exacts [h.foldWarp, h.foldUnits])
  | expansion => exact .next h.expansion
  | expansionRefill => exact .next h.refill1
  | reachBufferFill => exact .next (.ite h.modW h)
  | spilledUnitAccess => exact .next (.ite h.modW.unstall h)
  | fullSaveRequest => exact .next (.ite h h.requestSave)
  | draining | forcedSave => exact .next (.ite h.drain h)
  | drainComplete => exact .next (.ite h.modG h)
  | saveWritten => exact .next (.ite h.saved h)
  | resume => exact .next (h.resume.getD h)
  | engineFault => exact .next h.engineFault
  | softError => exact .next (.ite (.ite h.countErr.softEffect h.countErr) h)
  | coreHardFailure => exact .next (.same (h.modC.foldl fun h => h.faultRegion))
  | clusterFailure => exact .next h.clusterFail
  | dieSoftError => exact .next (.ite h (.ite h.countErr.dieErrEffect h.countErr))
  | gangPlacement => exact .next (h.placeGang.getD h)
  | waveFormation => exact h.execWaveFormation
  | slotHeaderWrite => exact .next h.settleQ
  | queueService => exact .next (h.serveFirst.getD h.markSlots)
  | laneWorkgroupPlacement => exact .next (h.placeLanes.getD h)
  | icinv => exact .next (h.dieCmd fun h => .ite (.ok h.icinv) (.error trivial))
  | icinvall => exact .next (h.dieCmd fun h => .ok h.dropLines)
  | tinv => exact .next (h.dieCmd fun h => .ite (.ok h.dropTlb) (.error trivial))
  | tinvall => exact .next (h.dieCmd fun h => .ok h.dropTlb)
  | keyload =>
    exact .next (h.dieCmd fun h => by
      dsimp only
      split
      exacts [.ite (.ok h.keyload) (.error trivial), .ite (.error trivial) (.ok h.keyload)])
  | keydisc => exact .next (h.dieCmd fun h => .ok h.keydisc)
  | scrub => exact .next (h.dieCmd fun h => .ite (.error trivial) (.ok h.zeroPhys))
  | frestart => exact .next (h.dieCmd fun h => by split; exacts [.error trivial, .ok h.frestart])
  | fkill => exact .next (h.dieCmd fun h => by split; exacts [.error trivial, .ok (.ite h.fkill h.dropFault)])
  | unknownDieCommand => exact .next (.ite h h.reply)
  | epochEnd => exact .next h.epochEnd
  | pageMove => exact .next h.pageMove
  | replicaCommit => exact .next (h.commitEntry.getD h)
  | tokenPeriod => exact .next h.modD
  | version => exact .next (h.serveCall fun _ => .done h)
  | launch => exact .next (h.serveCall fun _ => .ite .wait (.ite .err (by split; exacts [.awayReply, h.takeBlock])))
  | lstat => exact .next (h.serveCall fun _ => by split; exacts [.err, .done h])
  | lwait => exact .next (h.serveCall fun _ => by split; exacts [.err, .ite (.done h) .wait])
  | qopen => exact .next (h.serveCall fun _ => h.qopen)
  | qclose =>
    exact .next (h.serveCall fun _ => by split; exacts [.err, .ite .err (.ite (.done h.modQ.putDesc.closeIfEmpty) (.done h))])
  | mmap => exact .next (h.serveCall fun _ => h.mmap)
  | munmap => exact .next (h.serveCall fun _ => .ite .err (.ite .err (.ite .err (.done (h.foldl fun h => h.unmapPage)))))
  | rcreate => exact .next (h.serveCall fun _ => h.rcreate)
  | rdestroy => exact .next (h.serveCall fun _ => by split; exacts [.err, .ite .err (.ite .err (.done h.same))])
  | fwait => exact h.execFwait
  | fresolve => exact h.execFresolve
  | log => exact .next (h.serveCall fun _ => .ite .err (by split; exacts [.awayReply, .done h.same]))
  | ckpt => exact h.execCkpt
  | resync => exact .next (h.serveCall fun _ => .ite .err (by split; exacts [.awayReply, .done (h.writeClean.getOk ‹_›)]))
  | unassignedSyscall => exact .next (by split; exacts [h, .ite h h.answer])
  | syscallReply => exact h.execSyscallReply
  | imageLoad => exact h.execImageLoad
  | functionSwap => exact .next h.swap
  | sliceEnd => exact .next h.sliceEnd
  | vconfCreate =>
    exact .next (.ite h (h.vconf fun h => .ite (.done h)
      (.ite (.done h) (.ite (.done h) (.ite (.wait h) (.done h.createDevice))))))
  | vconfChange => exact h.execVconfChange
  | vconfReset => exact .next (.ite h (h.vconf fun h => .ite (.done h) (h.inTurnOf fun h => .done h.resetDevice.finishAct)))
  | vconfDelete => exact .next (.ite h (h.vconf fun h => .ite (.done h.finishAct) (h.inTurnOf fun h => .done h.deleteDevice)))
  | resyncService | rstat => exact .next (h.service fun h => .done h)
  | attest => exact .next (h.service fun h => .ite (.done h) (.done h))
  | pcap => exact .next (h.service fun h => .ite (.done h) (.done h.same))
  | migrate =>
    exact .next (h.service fun h => .ite (.wait h)
      (.ite (.done h) (.ite (.done h.enqueue.finishAct) (.ite (.done h.enqueue.finishAct) (.wait h.enqueue.same)))))
  | unknownServiceCode => exact .next (.ite h (h.service fun h => .done h))
  | qtail => exact .next (.ite h.modPkg.readReqs h.modPkg)
  | registerWrite | thermalThrottle => exact .next h.modPkg
  | boot => exact .next (.ite h (h.foldl fun h => h.bootStage))
  | reserveBringIn => exact .next h.bringReserve
  | thermalShutdown => exact h.execThermalShutdown
  | peerRequest => exact .next h.peerRequest
  | outsideWrite | outsideRead => exact .next h.outTry
  | bar2Access => exact h.execBar2Access
  | flitReplay | linkRetrain => exact .next (.ite h.modLink h)
  | laneFailure => exact .next (.ite h (.ite h.modLink.linkEvent h.modLink.addReserve.report))
  | linkDown => exact .next (.ite h.modLink.linkEvent.discardFrom h)
  | routeTimeout => exact .next (.ite (.linkEvent (h.foldl fun h => h.engineFault)) (h.foldl fun h => h.engineFault))
  | migrationQuiesce => exact .next (by split; exacts [h, .ite h h.modV.saveAll.modOut])
  | migrationSend => exact .next (by split; exacts [h, .ite h h.flushQueues.drainAll.modOut])
  | migrationCommit => exact h.execMigrationCommit
  | migrationResume => exact h.execMigrationResume
  | demandRequest => exact .next (.ite h.ship (by split; exacts [h, .ite h.modIn h]))
  | pagePush => exact h.execPagePush
  | pageArrival => exact h.execPageArrival
  | peerSwitch => exact .next (.ite h.modOut (.ite h (.same (h.foldl fun h => by split; exacts [h, h.setEnt.tinv]))))
  | switchMarker => exact .next (.ite h.same h.takeMarker)
  | migrationRelease => exact .next (by split; exacts [h, .ite h h.deleteDevice.same.answerReq])
  | linkTrained => exact .next (.ite h.modLink.same h)
  | peerWindowConfiguration => exact h.execPeerWindowConfiguration
  | bar2MappingConfiguration => exact .next (.ite h h.same)
  | checkpointRestore =>
    exact .next (by split; exacts [h, .ite h.enqueue ((h.enqueue.restoreCkpt.map fun h => h.finishAct).getD h.enqueue)])
  | operatorCheckpoint => exact .next h.ckptAll.fst
  | _ => exact .next h.alu

/-! ### Machine/Inputs: what comes from outside -/

theorem Kept.appWrite (h : Kept s0 s) : OnSome (Kept s0) (s.appWrite n va data) := by
  unfold State.appWrite
  split
  · exact .some h
  · split; exacts [.some (h.writeClean.getOk ‹_›), .ite .none (.some h)]

theorem Kept.appRead (h : Kept s0 s) : OnSome (Kept s0) (s.appRead n va k) := by
  unfold State.appRead
  split
  · exact .some h
  · split; exacts [.some h.modApp, .ite .none (.some h)]

theorem Kept.setAssay {w0 : Word} {w1 : Word} {w2 : Word} (h : Kept s0 s) : Kept s0 (s.setAssay v w0 w1 w2) := by
  unfold State.setAssay
  split; exacts [h, h.modV]

theorem Kept.peerWrite {p : Bool} {l : List Byte} (h : Kept s0 s) : Kept s0 (s.peerWrite part v pos p l) := by
  induction l generalizing s pos with
  | nil => exact h
  | cons b l ih => unfold State.peerWrite; split; exacts [h, ih h.setPeerByte]

theorem Kept.modPeer {f : Peer → Peer} (h : Kept s0 s) : Kept s0 (s.modPeer part v f) := h.same
theorem Kept.hostWrite (h : Kept s0 s) : Kept s0 (s.hostWrite a data) := h.same

theorem Kept.passOn {dst : Nat} {hops : Nat} (h : Kept s0 s) : Kept s0 (s.passOn dst hops) := by
  unfold State.passOn
  split; exacts [h, .ite h h.same]

theorem Kept.portCall {sound : Bool} {args : List Word} (h : Kept s0 s) : Kept s0 (s.portCall tag seq sound v code args) := by
  refine .ite h ?_
  split; exacts [h, .addCall (Kept.newId (h.accept.get ‹_›)).fst]

theorem Kept.take {i : Input} (h : Kept s0 s) : OnSome (Kept s0) (s.take i) := by
  unfold State.take
  split
  · exact .some h
  · exact h.appCall
  · exact h.appWrite
  · exact h.appRead
  · exact .some h.setAssay
  · exact .some h.modD
  · exact .some h.same
  · exact .some h.peerWrite
  · exact .some h.modPeer
  · exact .some h.modPeer
  · exact .some h.hostWrite
  · exact .some h.discardFrom
  · exact .some h.callHome
  · exact .some h.payCall
  · exact .some h.modPeer
  · exact .some (.ite h.modLink h)
  · exact .some h.mapDies
  · exact .some (.ite h.countErr h)
  · exact .some h.portCall
  · exact .some h.passOn
  · exact .some h.reserveFor
  · exact .some h.stateCame
  · exact .some h.destFailed

theorem Kept.putOff {i : Input} (h : Kept s0 s) : Kept s0 (s.putOff i) := h.same
theorem Kept.input {i : Input} (h : Kept s0 s) : Kept s0 (s.input i) := h.take.getD h.putOff

/-! ### Machine/Packer: the pack in issue -/

theorem Kept.opportunity (h : Kept s0 s) : Kept s0 (s.opportunity g w) := .same (.modQuad (h.modW.foldl fun h => h.modT))

theorem Kept.fetchNative {t : Thread} (h : Kept s0 s) : OnExcept (OnFst (Kept s0)) (OnFst (Kept s0)) (s.fetchNative g t) := by
  unfold State.fetchNative
  dsimp only
  split; exacts [.error ⟨h.fetchWord.getError ‹_›⟩, .ok (h.fetchWord.getOk ‹_›)]

theorem Kept.fillWords (h : Kept s0 s) : OnExcept (Kept s0) (Kept s0) (s.fillWords d c v va n) := by
  induction n generalizing s va with
  | zero => exact .ok h
  | succ n ih =>
    unfold State.fillWords
    split; exacts [.error (h.payLine.getError ‹_›), ih (h.payLine.getOk ‹_›).fillLine]

theorem Kept.endPick (h : Kept s0 s) : Kept s0 s.endPick := h.same

theorem Kept.afterIssue {p : Pack} {m : Mode} (h : Kept s0 s) : Kept s0 (s.afterIssue p m) :=
  .endPick (h.foldl fun h => h.modT)

theorem OnNext.onNext {P : State → Prop} {f : State → State} {x} (h : OnNext P x) (hf : ∀ {r}, P r → P (f r)) :
    OnNext P (onNext f x) := by
  cases h with
  | next h => exact .next (hf h)
  | fault => exact .fault
  | refused => exact .refused

theorem Kept.issue {i : Instr} {m : Mode} (h : Kept s0 s) : OnNext (Kept s0) (s.issue i m) :=
  h.exec.onNext fun h => h.afterIssue

theorem Kept.badWord {v : DWord} (h : Kept s0 s) : Kept s0 (s.badWord v) := h.trapAll.endPick
theorem Kept.fetchWait (h : Kept s0 s) : Kept s0 (s.fetchWait va) := h.stallAll.endPick
theorem Kept.notices (h : Kept s0 s) : Kept s0 s.notices := .same (h.foldl fun h => h.trapT)
theorem Kept.passedHeader (h : Kept s0 s) : Kept s0 s.passedHeader := h.same

theorem Kept.yieldHint {t : Thread} (h : Kept s0 s) : Kept s0 (s.yieldHint g w t) := by
  refine .ite h ?_
  split; exacts [.ite h.yieldWarp h, h]

theorem Kept.runNative {t : Thread} {v : DWord} (h : Kept s0 s) : OnNext (Kept s0) (s.runNative t v) := by
  unfold State.runNative
  dsimp only
  split
  · exact .ite (h.exec.onNext fun h => h.passedHeader) (.next h.badWord)
  · exact .ite (.next h.badWord) (h.issue.onNext fun h => h.yieldHint)
  · exact .ite (.next h.notices.badWord) (.next h.badWord)

theorem Kept.runPrerin {t : Thread} {ws : List Word} {gap : Option Nat} (h : Kept s0 s) :
    OnNext (Kept s0) (s.runPrerin t ws gap) := by
  unfold State.runPrerin
  split; exacts [h.issue, .next h.fetchWait, .next h.badWord]

theorem Kept.runPack (h : Kept s0 s) : OnNext (Kept s0) s.runPack := by
  dsimp only [State.runPack]
  split
  · exact .next h.endPick
  · split
    · split
      · exact .next (.fetchWait (h.same.fetchNative.getError ‹_›).fst)
      · exact Kept.runNative (h.same.fetchNative.getOk ‹_›).fst
    · refine .ite (.next h.same.notices.endPick) ?_
      split
      · exact .next (.fetchWait (h.same.notices.fillWords.getError ‹_›))
      · exact Kept.runPrerin (h.same.notices.fillWords.getOk ‹_›)

theorem Kept.endWaits (h : Kept s0 s) : Kept s0 s.endWaits := h.foldl fun h => h.modT

theorem Kept.runAct {a : Act} (h : Kept s0 s) : OnNext (Kept s0) (runAct a s) := by
  unfold Machine.runAct
  split
  · exact h.exec
  · exact .next h.performBank
  · exact .next h.arrivePath
  · exact .next (h.same.foldl fun h => h.settle)
  · exact .next h.depart
  · exact .next h.outRetry
  · exact .next h.serveWaiting
  · exact .next h.serveHeld.endMigIn
  · exact .next h.holderNeed
  · exact .next h.reclaim

theorem Kept.runEvent {i : Instr} (h : Kept s0 s) : OnNext (Kept s0) (runEvent i s) := by
  unfold Machine.runEvent
  split; exacts [h.exec, .next h]

theorem Kept.issueAt (h : Kept s0 s) : OnNext (Kept s0) (s.issueAt k) := by
  dsimp only [State.issueAt]
  split
  · exact .next h
  · split; exacts [h.exec, h.opportunity.runPack]

theorem Kept.actAt (h : Kept s0 s) : OnNext (Kept s0) (s.actAt k) := by
  dsimp only [State.actAt]
  split; exacts [h.runAct, .next h]

theorem Kept.runTurn (h : Kept s0 s) : OnNext (Kept s0) (runTurn n s) :=
  .ite h.issueAt (.ite h.actAt (.ite h.actAt h.issueAt))

/-! ### Machine/Step: the step -/

theorem Kept.turnOf (h : Kept s0 s) : OnNext (Kept s0) s.turnOf := by
  unfold State.turnOf
  split; exacts [h.same.runEvent, .ite h.same.runTurn h.runPack]

theorem Kept.endOfStep (h : Kept s0 s) : Kept s0 s.endOfStep := h.deliverQueues.endWaits.placeRuns.reportAll.sweep

/-- A step: an input, or one turn of the machine with the work that ends each step. -/
theorem Kept.step (h : Kept s0 s) : OnNext (Kept s0) (step s) := by
  refine .ite .fault (OnNext.onNext ?_ fun h => h.endOfStep)
  split; exacts [h.same.turnOf, .next h.same.input]

/-- Settles O59: `Kept` holds of a state and itself, and is carried through every function that makes up a step. -/
theorem stepsKeepMemoryCanonical : Obligations.StepsKeepMemoryCanonical := by
  unfold Obligations.StepsKeepMemoryCanonical
  constructor
  · intro s t hwf hstep
    exact ((Kept.refl s).step.get hstep).wf hwf
  · intro s t hdies hstep
    exact ((Kept.refl s).step.get hstep).dies.trans hdies

end Sys2Proof.Machine
end

section
/-! ## Guards that are false or poisoned, and words that trap in every thread (O17, O18)

`State.run_skip`, `State.run_poison` and `State.run_bad` say what a form of any kind does in these cases; here stands what the
statements' terms mean in theirs. -/
namespace Sys2Proof.Machine

/-- The move of a thread in which a form has no effect, by its mode (R79). -/
theorem Thread.skipped_eq (x : Thread) (o : Op) (k : Nat) :
    (if endsClause o then x.skipClause k else x.advance k)
      = if o ∈ [Op.bra, .brx, .call, .callx, .ret, .exit, .tret] ∧ x.mode = .native then
          { x with pc := x.pc + 8 * BitVec.ofNat 64 (x.len + 1), tix := 0 }
        else x.advance k := by
  have ho : endsClause o = true ↔ o ∈ [Op.bra, .brx, .call, .callx, .ret, .exit, .tret] := by
    cases o <;> decide
  by_cases h : endsClause o = true
  · cases hm : x.mode <;> simp [h, ho.mp h, hm, Thread.skipClause]
  · simp [h, mt ho.mpr h]

/-- A guard field names its predicate in bits [2:0]; a poisoned predicate traps with its number (R64, R68). -/
theorem Thread.guard_of_poison (x : Thread) (gd : BitVec 4) (hk : gd.toNat % 8 ≠ 7) (hp : (x.pred (gd.toNat % 8)).p = true) :
    x.guard gd = .trap (BitVec.ofNat 64 (0x100 + gd.toNat % 8)) := by
  have hn : (gd.extractLsb' 0 3).toNat = gd.toNat % 8 := by simp [BitVec.extractLsb'_toNat]
  simp only [Thread.guard, hn, if_neg hk, hp, if_true]

/-- Settles O17: a false and a poisoned guard come before the body of a form of any kind. -/
theorem guardsDecide : Obligations.GuardsDecide := by
  constructor
  · intro i n s hi hp hs he hk
    rw [exec_of_insOf i n s hi, s.run_skip n hk (allBefore_skip s n hp hk) (insOf_op i n hi) hs he]
    simp only [Thread.skipped_eq]
  · intro i n s hi hp hs he hk
    have hg : ∀ u ∈ s.pack.ts, (s.pthr u).guard n.f.guard = .trap (BitVec.ofNat 64 (0x100 + n.f.guard.toNat % 8)) :=
      fun u hu => Thread.guard_of_poison _ _ (hk u hu).1 (hk u hu).2.1
    rw [exec_of_insOf i n s hi, s.run_poison n _ hg (allBefore_poison s n _ hp hg) (insOf_op i n hi) hs he
      (fun u hu => (hk u hu).2.2)]

/-- A word that passes the checks of the warp fails those of its registers at the first odd one, else at the first outside
the warp's blocks (R15, R16). -/
theorem gate_of_register (w : Warp) (n : Ins) (t : Thread) (r : Nat) (hw : warpTrap w n t = none)
    (h : n.odd = some r
      ∨ (n.odd = none ∧ n.regs.find? (fun k => !(k == 255 || (decide (k < 16 * w.blocks) && decide (k < 255)))) = some r)) :
    gate w n t = some (BitVec.ofNat 64 r) := by
  rcases h with ho | ⟨ho, hr⟩
  · simp [gate, hw, regTrap, ho]
  · simp only [gate, hw, regTrap, ho, regIn, hr, Option.map_some]

/-- Settles O18: a word that fails the gate, and ill, trap 0x01 in the whole pack. -/
theorem wordsThatTrapInEveryThread : Obligations.WordsThatTrapInEveryThread := by
  constructor
  · intro i n s r hi hp hs he ht hw hr
    rw [exec_of_insOf i n s hi, s.run_bad n _ hp (gate_of_register _ _ _ r hw hr) (insOf_op i n hi) hs he ht]
  · intro s w v hp ht
    exact ⟨congrArg Host.Outcome.next (s.trapPack_of 0x01 w hp ht), congrArg Host.Outcome.next (s.trapPack_of 0x01 _ hp ht)⟩

end Sys2Proof.Machine
end

section
/-! ## What trap entry saves and sets (O20) -/
namespace Sys2Proof.Machine

/-- %status with HND set is as it was but for bit 12. -/
theorem setHnd_true_getLsbD (st : Word) (k : Nat) : (setHnd st true).getLsbD k = (st.getLsbD k || decide (k = 12)) := by
  have hb : (0x1000#32).getLsbD k = decide (k = 12) := by
    rw [show (0x1000#32) = BitVec.twoPow 32 12 by decide, BitVec.getLsbD_twoPow]
    simp [eq_comm]
  simp [setHnd, BitVec.getLsbD_or, hb]

/-- Settles O20, field by field of `Thread.takeTrap`. -/
theorem trapEntryState : Obligations.TrapEntryState := by
  intro x entry v c hc
  refine ⟨fun hm => ?_, fun hm => ?_, ?_, rfl, setHnd_true_getLsbD x.status, rfl, rfl, rfl, rfl, rfl, rfl, rfl⟩
  · simp [Thread.takeTrap, hm]
  · simp [Thread.takeTrap, hm]
  · simp only [Thread.takeTrap, BitVec.toNat_ofNat]
    omega

end Sys2Proof.Machine
end

section
/-! ## Control forms in a pack of one thread (O21, O22, O25)

`State.control_alone` brings a control form to its body; each lemma `State.doX_alone` says what that body then is. -/
namespace Sys2Proof.Machine

/-- Two changes of a thread that agree on the thread that stands there are one. -/
theorem State.modT_congr (s : State) (g w u : Nat) (f k : Thread → Thread) (h : f (s.thr g w u) = k (s.thr g w u)) :
    s.modT g w u f = s.modT g w u k := by
  unfold State.modT State.modG
  congr 1
  refine modAt_congr _ _ _ _ Group.void ?_
  unfold Group.modT Group.modW
  congr 1
  refine modAt_congr _ _ _ _ Warp.void ?_
  unfold Warp.mod
  congr 1
  exact modAt_congr _ _ _ _ Thread.absent h

/-- A form with no checks of its own, in a pack of one thread. -/
theorem State.control_noChk (s : State) (n : Ins) (ends : Bool) (body : State → Nat → Nat → Nat → State) (u : Nat)
    (h : s.alone n u) : s.control n ends noChk body = body s s.pack.g s.pack.w u :=
  s.control_alone n ends noChk body u h rfl

/-! ### trap and bkpt (R162) -/

/-- The cause that trap or bkpt takes. -/
def Ins.softCause (n : Ins) : Nat := if n.op = .trap then 0x10 else 0x0F
/-- The code that trap or bkpt leaves in %tval. -/
def Ins.softCode (n : Ins) (x : Thread) : DWord :=
  if n.imm then (imm16 n.f).setWidth 64 else if n.op = .trap then (x.reg n.a).v.setWidth 64 else 0

/-- trap and bkpt take their trap (R162). -/
theorem exec_softTrap (i : Instr) (n : Ins) (s : State) (u : Nat) (hi : insOf i = some n) (ho : n.op = .trap ∨ n.op = .bkpt)
    (h : s.alone n u) :
    exec i s = .next (s.trapT s.pack.g s.pack.w u n.softCause (n.softCode (s.pthr u))) := by
  rw [exec_of_insOf i n s hi]
  rcases ho with ho | ho
  · simp only [State.run, ho, State.doTrap, s.control_noChk n _ _ u h, Ins.softCause, Ins.softCode, if_true, Ins.immZ,
      BitVec.ofNat_toNat]
  · simp only [State.run, ho, State.doBkpt, s.control_noChk n _ _ u h, Ins.softCause, Ins.softCode, Ins.immZ, reduceCtorEq,
      if_false]
    cases n.imm <;> simp [BitVec.ofNat_toNat]

/-! ### Region faults (R36) -/

/-- A workgroup as its region fault leaves it. -/
def Group.dead (x : Group) : Group := { x.kill.quiet with alive := false, spans := [] }

theorem State.clearBanks_groups (s : State) (v d c : Nat) : (s.clearBanks v d c).groups = s.groups := by
  unfold State.clearBanks
  split <;> rfl

theorem State.clearBanks_mem (s : State) (v d c : Nat) : (s.clearBanks v d c).mem = s.mem := by
  unfold State.clearBanks
  split <;> rfl

theorem State.clearBanks_pkg (s : State) (v d c : Nat) : (s.clearBanks v d c).pkg = s.pkg := by
  unfold State.clearBanks
  split <;> rfl

theorem State.release_groups (s : State) (g : Nat) :
    (s.release g).groups = (s.modG g (fun x => { x.quiet with alive := false, spans := [] })).groups :=
  State.clearBanks_groups _ _ _ _

theorem State.release_mem (s : State) (g : Nat) : (s.release g).mem = s.mem := State.clearBanks_mem _ _ _ _

theorem State.release_pkg (s : State) (g : Nat) : (s.release g).pkg = s.pkg := State.clearBanks_pkg _ _ _ _

theorem State.forget_groups (s : State) (g : Nat) : (s.forget g).groups = s.groups := rfl
theorem State.forget_mem (s : State) (g : Nat) : (s.forget g).mem = s.mem := rfl
theorem State.forget_pkg (s : State) (g : Nat) : (s.forget g).pkg = s.pkg := rfl

/-- A workgroup ended by a region fault before the fault is told to its launch (R36). -/
def State.struck (s : State) (g : Nat) : State := ((s.modG g Group.kill).forget g).release g

theorem State.struck_groups (s : State) (g : Nat) : (s.struck g).groups = (s.modG g Group.dead).groups := by
  rw [State.struck, State.release_groups, State.modG_groups', State.forget_groups, State.modG_groups', modAt_modAt,
    State.modG_groups']
  rfl

theorem State.struck_mem (s : State) (g : Nat) : (s.struck g).mem = s.mem := by
  rw [State.struck, State.release_mem, State.forget_mem, State.modG_mem]

theorem State.struck_pkg (s : State) (g : Nat) : (s.struck g).pkg = s.pkg := by
  rw [State.struck, State.release_pkg, State.forget_pkg, State.modG_pkg]

theorem State.faultLaunch_exitedGang_same (s : State) (l k d : Nat) :
    ((s.faultLaunch l).exitedGang k d).mem = s.mem ∧ ((s.faultLaunch l).exitedGang k d).groups = s.groups
      ∧ ((s.faultLaunch l).exitedGang k d).pkg = s.pkg := ⟨rfl, rfl, rfl⟩

/-- A region fault of a workgroup that serves no recursion run: its threads and commands end, memory stays, and the fault is
reported (R36). -/
theorem State.regionFault_of (s : State) (g c : Nat) (v : DWord) (ha : (s.grp g).alive = true)
    (hk : ∀ k, (s.grp g).kind ≠ .lanes k) :
    (s.regionFault g c v).mem = s.mem ∧ (s.regionFault g c v).groups = (s.modG g Group.dead).groups
      ∧ (s.regionFault g c v).pkg.reports = s.pkg.reports ++ [.region (s.grp g).region c v] := by
  have hr : s.regionFault g c v = match (s.grp g).kind with
      | .gang l _ => (((s.struck g).report (.region (s.grp g).region c v)).faultLaunch l).exitedGang l (s.grp g).die
      | .wave => (s.struck g).report (.region (s.grp g).region c v)
      | .lanes n => ((s.struck g).report (.region (s.grp g).region c v)).abortSpinner n 0xFFFF := by
    simp only [State.regionFault, ha, Bool.not_true, Bool.false_eq_true, if_false, State.struck] <;> rfl
  have hp : ((s.struck g).report (.region (s.grp g).region c v)).pkg.reports
      = s.pkg.reports ++ [.region (s.grp g).region c v] := by
    rw [State.report_pkg', s.struck_pkg]
  cases hkk : (s.grp g).kind with
  | gang l k =>
    rw [hr, hkk]
    obtain ⟨hm, hg, hpk⟩ := State.faultLaunch_exitedGang_same ((s.struck g).report (.region (s.grp g).region c v)) l l (s.grp g).die
    exact ⟨hm.trans (s.struck_mem g), hg.trans (s.struck_groups g), (congrArg Package.reports hpk).trans hp⟩
  | wave =>
    rw [hr, hkk]
    exact ⟨s.struck_mem g, s.struck_groups g, hp⟩
  | lanes k => exact absurd hkk (hk k)

theorem Thread.exit_live (x : Thread) : x.exit.live = false := rfl

/-- What a list reads at any place after a map, where the default meets the property too. -/
theorem getD_map_of {α : Type} (P : α → Prop) (l : List α) (f : α → α) (d : α) (k : Nat) (hf : ∀ x, P (f x)) (hd : P d) :
    P ((l.map f).getD k d) := by
  rw [List.getD_eq_getElem?_getD, List.getElem?_map]
  cases l[k]? with
  | none => exact hd
  | some x => exact hf x

/-- No warp of a workgroup that a region fault has ended has a live thread or a command (R36). -/
theorem Group.dead_wrp (x : Group) (w : Nat) :
    (∀ k, ((x.dead.wrp w).thr k).live = false) ∧ (∀ k, (x.dead.wrp w).cqs.getD k [] = []) ∧ (x.dead.wrp w).mops = [] := by
  have hq : ∀ k, ([[], [], [], []] : List (List Entry)).getD k [] = [] := by
    intro k
    rcases k with _ | _ | _ | _ | k <;> rfl
  have hw : x.dead.warps = x.warps.map (fun y => { y with
      cqs := [[], [], [], []], mops := [], fold := none, refill := [],
      threads := y.threads.map (fun t => if t.live then t.exit else t) }) := by
    simp [Group.dead, Group.quiet, Group.kill, Function.comp_def]
  unfold Group.wrp
  rw [hw]
  refine getD_map_of (fun y : Warp => (∀ k, (y.thr k).live = false) ∧ (∀ k, y.cqs.getD k [] = []) ∧ y.mops = []) _ _ _ _ ?_ ?_
  · intro y
    refine ⟨fun k => getD_map_of (fun t : Thread => t.live = false) _ _ _ k (fun t => ?_) rfl, hq, rfl⟩
    cases ht : t.live <;> simp [ht, Thread.exit_live]
  · exact ⟨fun k => by cases k <;> rfl, hq, rfl⟩

/-- Settles O21: trap and bkpt take `State.trapT`, which in a handler, or without a trap entry, is a region fault. -/
theorem trapsTakenAndEscalated : Obligations.TrapsTakenAndEscalated := by
  constructor
  · intro i n s u hi ho h ht
    rw [exec_softTrap i n s u hi ho h, State.trapT_of s _ _ u _ _ ht]
    rfl
  · intro i n s u hi ho h hx hl ha hk
    obtain ⟨hmem, hgrp, hrep⟩ := s.regionFault_of s.pack.g n.softCause (n.softCode (s.pthr u)) ha hk
    have hg : s.pack.g < s.groups.length := h.2.1.1.1
    have hd : (s.regionFault s.pack.g n.softCause (n.softCode (s.pthr u))).grp s.pack.g = s.pgrp.dead := by
      unfold State.grp
      rw [hgrp]
      exact State.grp_modG_same s _ _ hg
    have hf : s.trapT s.pack.g s.pack.w u n.softCause (n.softCode (s.pthr u))
        = s.regionFault s.pack.g n.softCause (n.softCode (s.pthr u)) := by
      simp only [State.trapT, hl, Bool.not_true, Bool.false_eq_true, if_false]
      exact if_pos (by simpa using hx)
    refine ⟨_, exec_softTrap i n s u hi ho h, ?_⟩
    rw [hf]
    refine ⟨hmem, by rw [hd]; rfl, by rw [hd]; rfl, fun w => ?_, fun w => ?_, by rw [hd]; rfl, hrep⟩
    · unfold State.thr State.wrp
      rw [hd]
      exact (Group.dead_wrp _ w).1
    · unfold State.wrp
      rw [hd]
      exact (Group.dead_wrp _ w).2

/-! ### Branches, calls and returns (R154, R155, R156, R90) -/

/-- A target that is legal in the mode that it enters (R90, R91). -/
theorem State.target_good (s : State) (g : Nat) (m : Mode) (h : DWord)
    (hl : (m = .prerin ∧ h.toNat % 4 = 0) ∨ (m = .native ∧ h.toNat % 8 = 0
      ∧ ∃ w, s.codeWord (s.grp g).die (s.grp g).core (s.grp g).vdev h.toNat = .ok w ∧ w.extractLsb' 62 2 = 2)) :
    s.target g m h = .good := by
  rcases hl with ⟨rfl, ha⟩ | ⟨rfl, ha, w, hw, hc⟩
  · simp [State.target, ha]
  · simp [State.target, ha, hw, hc]

/-- The link that a call writes before it goes on. -/
def Thread.linked (x : Thread) (link : Option (Nat × DWord)) : Thread :=
  match link with
  | none => x
  | some (d, v) => x.apply (Eff.pair d v false)

/-- A jump to a legal target (R155, R156). -/
theorem State.jump_good (s : State) (g w u : Nat) (m : Mode) (h v : DWord) (link : Option (Nat × DWord))
    (ht : s.target g m h = .good) :
    s.jump g w u m h v link
      = s.modT g w u (fun x => { (x.linked link).spin h (s.wrp g w).opps with pc := h, tix := 0, mode := m }) := by
  simp only [State.jump, ht]
  cases link <;> rfl

/-- A direct branch stands 8 or, in Prerin code, 4 times its displacement from its word (R154). -/
theorem Thread.direct_eq (x : Thread) (disp : Int) :
    x.direct disp = if x.mode = .native then x.pc + 8 * BitVec.ofNat 64 x.tix + 8 * BitVec.ofInt 64 disp
      else x.pc + 4 * BitVec.ofInt 64 disp := by
  cases hm : x.mode <;> simp [Thread.direct, Thread.at', hm, BitVec.ofInt_mul]

/-- The return address of a call (R156). -/
theorem Thread.link_eq (x : Thread) (k : Nat) :
    x.link k = if x.mode = .native then x.pc + 8 * BitVec.ofNat 64 (x.len + 1) + 1 else x.pc + 4 * BitVec.ofNat 64 k := by
  cases hm : x.mode <;> simp [Thread.link, hm]

/-- Where a branch, call or return goes, and the mode that it enters (R154, R90). -/
def Ins.dest (n : Ins) (x : Thread) : DWord × Mode :=
  match n.op with
  | .bra => (x.direct (dispBra n.f), x.mode)
  | .call => (x.direct (dispCall n.f), x.mode)
  | _ => (x.reg64 n.a &&& ~~~1#64, if (x.reg64 n.a).getLsbD 0 then .native else .prerin)
/-- The link that a call writes (R156). -/
def Ins.linkOf (n : Ins) (x : Thread) : Option (Nat × DWord) :=
  if n.op = .call ∨ n.op = .callx then some (n.d, x.link n.words) else none
/-- A thread that has gone to a target. -/
def Thread.gone (x : Thread) (link : Option (Nat × DWord)) (dst : DWord × Mode) (opp : Nat) : Thread :=
  { (x.linked link).spin dst.1 opp with pc := dst.1, tix := 0, mode := dst.2 }

/-- A jump through registers passes its own check where its target is legal. -/
theorem chkTarget_good (n : Ins) (s : State) (u : Nat)
    (ht : s.target s.pack.g (if ((s.pthr u).reg64 n.a).getLsbD 0 then .native else .prerin)
      ((s.pthr u).reg64 n.a &&& ~~~1#64) = .good) : chkTarget n s s.pack.g s.pack.w u = none := by
  simp only [chkTarget]
  rw [show s.target s.pack.g _ ((s.thr s.pack.g s.pack.w u).reg64 n.a &&& ~~~1#64) = .good from ht]

/-- A branch, call or return whose target is legal goes there. -/
theorem State.run_jump (s : State) (n : Ins) (u : Nat) (h : s.alone n u) (ho : n.op ∈ [Op.bra, .call, .brx, .ret, .callx])
    (ht : s.target s.pack.g (n.dest (s.pthr u)).2 (n.dest (s.pthr u)).1 = .good) :
    s.run n = s.modT s.pack.g s.pack.w u (fun z =>
      z.gone (n.linkOf (s.pthr u)) (n.dest (s.pthr u)) s.pwrp.opps) := by
  simp only [List.mem_cons, List.not_mem_nil, or_false] at ho
  rcases ho with ho | ho | ho | ho | ho <;> simp only [Ins.dest, ho] at ht
  · simp only [State.run, ho, State.doBra, s.control_noChk n _ _ u h, Ins.dest, Ins.linkOf, s.jump_good _ _ _ _ _ _ _ ht]
    rfl
  · simp only [State.run, ho, State.doCall, s.control_noChk n _ _ u h, Ins.dest, Ins.linkOf, s.jump_good _ _ _ _ _ _ _ ht]
    rfl
  all_goals
    have hc := chkTarget_good n s u ht
  · simp only [State.run, ho, State.doBrx, s.control_alone n _ _ _ u h hc, State.jumpReg, Ins.dest, Ins.linkOf,
      s.jump_good _ _ _ _ _ _ _ ht]
    rfl
  · simp only [State.run, ho, State.doBrx, s.control_alone n _ _ _ u h hc, State.jumpReg, Ins.dest, Ins.linkOf,
      s.jump_good _ _ _ _ _ _ _ ht]
    rfl
  · simp only [State.run, ho, State.doCallx, s.control_alone n _ _ _ u h hc, State.jumpReg, Ins.dest, Ins.linkOf,
      s.jump_good _ _ _ _ _ _ _ ht]
    rfl

/-! ### tret (R35, R166) -/

/-- A core that holds the line of a word fetches it without any other effect (R315). -/
theorem State.fetchWord_of_line (s : State) (d c v va : Nat) (l : ICLine) (h : lineIn (s.core d c).l1 v va = some l) :
    s.fetchWord d c v va = .ok (s, l.words.getD (va / 8 % 8) 0) := by
  simp [State.fetchWord, State.codeWord, State.payLine, State.lineMissing, State.fillLine, h]

/-- tret in a handler whose saved location is in Prerin code (R35). -/
theorem State.doTret_prerin (s : State) (n : Ins) (u : Nat) (h : s.alone n u) (hh : (s.pthr u).hnd = true)
    (hm : (s.pthr u).tpc.getLsbD 0 = false) (ha : ((s.pthr u).tpc &&& ~~~1#64).toNat % 4 = 0) :
    s.doTret n = s.modT s.pack.g s.pack.w u (fun x => { x with
      status := setHnd x.status false, spinN := 0, sched := .ready,
      mode := .prerin, pc := (s.pthr u).tpc &&& ~~~1#64, tix := 0 }) := by
  unfold State.doTret
  rw [s.control_noChk n _ _ u h]
  simp only [show (s.thr s.pack.g s.pack.w u).hnd = true from hh, show (s.thr s.pack.g s.pack.w u).tpc.getLsbD 0 = false from hm,
    Thread.retTrap, Bool.not_true, Bool.false_eq_true, if_false]
  rw [if_neg (by simpa using ha)]
  exact s.modT_congr _ _ _ _ _ rfl

/-- tret in a handler whose saved location is in a native clause whose header can be fetched (R35, R83). -/
theorem State.doTret_native (s r : State) (v : DWord) (n : Ins) (u : Nat) (h : s.alone n u) (hh : (s.pthr u).hnd = true)
    (hm : (s.pthr u).tpc.getLsbD 0 = true) (ha : ((s.pthr u).tpc &&& ~~~1#64).toNat % 8 = 0)
    (hf : s.fetchWord s.pgrp.die s.pgrp.core s.pgrp.vdev ((s.pthr u).tpc &&& ~~~1#64).toNat = .ok (r, v))
    (hc : v.extractLsb' 62 2 = 2) (y : Thread)
    (hy : (s.pthr u).retTrap (some (headerOfWord v)) = some y) :
    s.doTret n = r.modT s.pack.g s.pack.w u (fun _ => y) := by
  unfold State.doTret
  rw [s.control_noChk n _ _ u h]
  simp only [show (s.thr s.pack.g s.pack.w u).hnd = true from hh, show (s.thr s.pack.g s.pack.w u).tpc.getLsbD 0 = true from hm,
    Bool.not_true, Bool.false_eq_true, if_false, if_true]
  rw [if_neg (by simpa using ha)]
  simp only [hf, hc, if_true]
  rw [show (s.thr s.pack.g s.pack.w u).retTrap (some (headerOfWord v)) = some y from hy]

/-- tret outside a handler traps with its word (R166). -/
theorem State.doTret_outside (s : State) (n : Ins) (u : Nat) (h : s.alone n u) (ht : s.trapsAt s.pack.g s.pack.w u) :
    s.doTret n = s.modT s.pack.g s.pack.w u (fun x => x.takeTrap s.pwrp.kd.trap 0x01 n.word) := by
  unfold State.doTret
  rw [s.control_noChk n _ _ u h]
  simp only [ht.2.1, Bool.not_false, if_true]
  exact s.trapT_of _ _ _ _ _ ht

/-- What tret makes of a thread whose saved location is a word of a native clause, or the place behind it (R35, R83). -/
theorem Thread.retTrap_native (x : Thread) (w : HFields) (hm : x.tpc.getLsbD 0 = true)
    (ha : (x.tpc &&& ~~~1#64).toNat % 8 = 0) (hl : x.trix.toNat ≤ w.len.toNat + 1) :
    x.retTrap (some w) = some (
      let y := { x with status := setHnd x.status false, spinN := 0, sched := .ready,
                        mode := .native, fa := w.fa.toNat, fb := w.fb.toNat, len := w.len.toNat }
      if x.trix.toNat = w.len.toNat + 1 then
        { y with pc := (x.tpc &&& ~~~1#64) + 8 * BitVec.ofNat 64 (w.len.toNat + 1), tix := 0 }
      else { y with pc := x.tpc &&& ~~~1#64, tix := x.trix.toNat }) := by
  simp only [Thread.retTrap, hm, if_true]
  rw [if_neg (by simpa using ha), if_neg (by omega)]
  by_cases he : x.trix.toNat = w.len.toNat + 1 <;> simp [he]

/-- Settles O22: the target that the statement writes out is `Ins.dest`, and tret is `Thread.retTrap`. -/
theorem branchesCallsAndReturns : Obligations.BranchesCallsAndReturns := by
  refine ⟨?_, ?_, ?_⟩
  · intro i n s u hi h ho x direct ptr hi' lo disp near back hh m hl
    have hd : n.dest x = (hh, m) := by
      have hn : ∀ dp, direct = true → dp = disp → x.direct dp = hh := fun dp hdr hdp => by
        rw [Thread.direct_eq, hdp]; simp [hh, hdr, near]
      simp only [List.mem_cons, List.not_mem_nil, or_false] at ho
      rcases ho with ho | ho | ho | ho | ho
      · simp only [Ins.dest, ho]
        rw [hn (dispBra n.f) (by simp [direct, ho]) (by simp [disp, ho, dispBra, hi', lo])]
        simp [m, direct, ho]
      · simp only [Ins.dest, ho]
        rw [hn (dispCall n.f) (by simp [direct, ho]) (by simp [disp, ho, dispCall, hi', lo])]
        simp [m, direct, ho]
      all_goals simp [Ins.dest, ho, hh, m, direct, ptr]
    have ht : s.target s.pack.g (n.dest x).2 (n.dest x).1 = .good := by
      rw [hd]; exact s.target_good s.pack.g m hh hl
    rw [exec_of_insOf i n s hi, s.run_jump n u h ho ht]
    refine congrArg Host.Outcome.next (s.modT_congr _ _ _ _ _ ?_)
    rw [show n.dest (s.pthr u) = (hh, m) from hd]
    by_cases hc : n.op = .call ∨ n.op = .callx
    · simp only [Thread.gone, Ins.linkOf, if_pos hc, Thread.linked, Thread.link_eq]
      rfl
    · simp only [Thread.gone, Ins.linkOf, if_neg hc, Thread.linked]
  · intro i n s u hi ho h hh hw back
    refine ⟨fun hm ha => ?_, fun l hl => s.fetchWord_of_line _ _ _ _ l hl, fun r v hm ha hf hc hl => ?_⟩
    · rw [exec_of_insOf i n s hi]
      simp only [State.run, ho]
      rw [s.doTret_prerin n u h hh hm ha]
    · rw [exec_of_insOf i n s hi]
      simp only [State.run, ho]
      rw [s.doTret_native r v n u h hh hm ha hf hc _ (Thread.retTrap_native _ _ hm ha hl)]
  · intro i n s u hi ho h ht
    rw [exec_of_insOf i n s hi]
    simp only [State.run, ho, s.doTret_outside n u h ht]

end Sys2Proof.Machine
end

section
/-! ## Special registers (O24)

The statement speaks of every word with the opcode of srd, also of one that the decoder refuses: for a number in M[5:0] past
0x14, which Table 2-4 does not list, it asks for %tcause, where `State.spr` answers %tval. -/
namespace Sys2Proof.Machine

/-- srd of special register 0x15 into g0, under pt. -/
def srdUnlisted : Fields := ⟨7, 0, 0, 0, 0, 0x015, false, false⟩

/-- A machine whose one thread is picked, with 1 in %tval and 0 in %tcause. -/
def stateWithTval : State :=
  { State.reset with
    groups := [{ Group.void with
      alive := true
      warps := [Warp.new KDesc.zero 0 0 16 0 0 [{ Thread.absent with sched := .ready, tval := 1 }] 0] }]
    pack := ⟨0, 0, [0]⟩ }

/-- Register g0 of the one thread after an outcome. -/
def firstReg : Host.Outcome State Fault Refusal → Val
  | .next t => (t.thr 0 0 0).reg 0
  | _ => Val.zero

/-- The word is no instruction: Table 2-4 ends at 0x14. -/
theorem srdUnlisted_refused : staticOk .srd srdUnlisted = false := by decide

theorem stateWithTval_alone : stateWithTval.alone (nat .srd srdUnlisted) 0 := by
  unfold State.alone State.passes State.packReady
  decide +kernel

/-- Refutes O24: srd of a number past 0x14 writes %tval. -/
theorem not_specialRegisters : ¬ Obligations.SpecialRegisters := by
  intro h
  have hs := (h (.srd srdUnlisted) (nat .srd srdUnlisted) stateWithTval 0 rfl stateWithTval_alone).2 rfl
  have hv := congrArg firstReg hs
  revert hv
  decide +kernel

end Sys2Proof.Machine
end

section
/-! ## What changes only memory and the dies

Writes that drain, translations that are counted and tokens that are taken touch the dies, and where writes are performed the
memory and its poison; every other part of the state stands. -/
namespace Sys2Proof.Machine

/-- `t` is `s` but for its dies. -/
def State.DiesOnly (s t : State) : Prop := ∃ ds, t = { s with dies := ds }
/-- `t` is `s` but for physical memory, its poison and the dies. -/
def State.MemOnly (s t : State) : Prop := ∃ m p ds, t = { s with mem := m, poison := p, dies := ds }

section
variable {s t r : State}

theorem State.DiesOnly.refl (s : State) : s.DiesOnly s := ⟨s.dies, rfl⟩
theorem State.DiesOnly.trans (h : s.DiesOnly t) (k : t.DiesOnly r) : s.DiesOnly r := by
  obtain ⟨_, rfl⟩ := h
  obtain ⟨ds, rfl⟩ := k
  exact ⟨ds, rfl⟩
theorem State.DiesOnly.modD (h : s.DiesOnly t) (d : Nat) (f : Die → Die) : s.DiesOnly (t.modD d f) := h.trans ⟨_, rfl⟩
theorem State.DiesOnly.groups (h : s.DiesOnly t) : t.groups = s.groups := by obtain ⟨_, rfl⟩ := h; rfl
theorem State.DiesOnly.pack (h : s.DiesOnly t) : t.pack = s.pack := by obtain ⟨_, rfl⟩ := h; rfl
theorem State.DiesOnly.mem (h : s.DiesOnly t) : t.mem = s.mem := by obtain ⟨_, rfl⟩ := h; rfl

theorem State.MemOnly.refl (s : State) : s.MemOnly s := ⟨s.mem, s.poison, s.dies, rfl⟩
theorem State.MemOnly.trans (h : s.MemOnly t) (k : t.MemOnly r) : s.MemOnly r := by
  obtain ⟨_, _, _, rfl⟩ := h
  obtain ⟨m, p, ds, rfl⟩ := k
  exact ⟨m, p, ds, rfl⟩
theorem State.DiesOnly.memOnly (h : s.DiesOnly t) : s.MemOnly t := by
  obtain ⟨ds, rfl⟩ := h
  exact ⟨s.mem, s.poison, ds, rfl⟩
theorem State.MemOnly.groups (h : s.MemOnly t) : t.groups = s.groups := by obtain ⟨_, _, _, rfl⟩ := h; rfl
theorem State.MemOnly.pack (h : s.MemOnly t) : t.pack = s.pack := by obtain ⟨_, _, _, rfl⟩ := h; rfl
theorem State.MemOnly.calls (h : s.MemOnly t) : t.calls = s.calls := by obtain ⟨_, _, _, rfl⟩ := h; rfl
theorem State.MemOnly.fab (h : s.MemOnly t) : t.fab = s.fab := by obtain ⟨_, _, _, rfl⟩ := h; rfl
theorem State.MemOnly.pkg (h : s.MemOnly t) : t.pkg = s.pkg := by obtain ⟨_, _, _, rfl⟩ := h; rfl
end

/-- What each step of a fold changes within a relation that composes, the fold does. -/
theorem foldl_rel {α β : Type} (R : β → β → Prop) (refl : ∀ b, R b b) (trans : ∀ {a b c}, R a b → R b c → R a c)
    (f : β → α → β) (hf : ∀ b a, R b (f b a)) (l : List α) (b : β) : R b (l.foldl f b) := by
  induction l generalizing b with
  | nil => exact refl b
  | cons a l ih => exact trans (hf b a) (ih _)

theorem State.DiesOnly.foldl {α : Type} (f : State → α → State) (hf : ∀ (s : State) (a : α), s.DiesOnly (f s a)) (l : List α) (s : State) :
    s.DiesOnly (l.foldl f s) :=
  foldl_rel State.DiesOnly State.DiesOnly.refl State.DiesOnly.trans f hf l s

theorem State.MemOnly.foldl {α : Type} (f : State → α → State) (hf : ∀ (s : State) (a : α), s.MemOnly (f s a)) (l : List α) (s : State) :
    s.MemOnly (l.foldl f s) :=
  foldl_rel State.MemOnly State.MemOnly.refl State.MemOnly.trans f hf l s

/-! ### Writes performed -/

theorem State.setPbyte_memOnly (s : State) (pa : Nat) (b : Byte) : s.MemOnly (s.setPbyte pa b) := ⟨_, _, _, rfl⟩
theorem State.setPsn_memOnly (s : State) (pa : Nat) (p : Bool) : s.MemOnly (s.setPsn pa p) := ⟨_, _, _, rfl⟩
theorem State.modD_memOnly (s : State) (d : Nat) (f : Die → Die) : s.MemOnly (s.modD d f) := ⟨_, _, _, rfl⟩

theorem State.zeroP_memOnly (n : Nat) (s : State) (a : Nat) : s.MemOnly (s.zeroP a n) := by
  induction n generalizing s a with
  | zero => exact .refl s
  | succ n ih => exact (s.setPbyte_memOnly a 0).trans (ih _ _)

theorem State.claimLine_memOnly (s : State) (v pa : Nat) : s.MemOnly (s.claimLine v pa) := by
  unfold State.claimLine
  split
  · exact .refl s
  · split
    · exact .refl s
    · exact (((State.zeroP_memOnly _ s _).trans (State.setPsn_memOnly _ _ _)).trans (State.setPsn_memOnly _ _ _)).trans
        (State.modD_memOnly _ _ _)

theorem State.markPsn_memOnly (s : State) (pa : Nat) (p : Psn) : s.MemOnly (s.markPsn pa p) := by
  cases p
  · exact .refl s
  · exact s.setPsn_memOnly pa true
  · exact s.setPsn_memOnly pa false

theorem State.writePa_memOnly (s : State) (v pa : Nat) (b mask : Byte) (p : Psn) : s.MemOnly (s.writePa v pa b mask p) :=
  ((s.claimLine_memOnly v pa).trans (State.setPbyte_memOnly _ _ _)).trans (State.markPsn_memOnly _ _ _)

theorem State.drainPath_memOnly (s : State) (d h : Nat) : s.MemOnly (s.drainPath d h) := by
  unfold State.drainPath
  split
  · exact .refl s
  · exact (s.modD_memOnly d _).trans (.foldl _ (fun _ _ => State.writePa_memOnly _ _ _ _ _ _) _ _)

theorem State.drainDie_memOnly (s : State) (d : Nat) : s.MemOnly (s.drainDie d) :=
  .foldl _ (fun s h => s.drainPath_memOnly d h) _ s

theorem State.drainTo_memOnly (s : State) (d v va : Nat) : s.MemOnly (s.drainTo d v va) := by
  unfold State.drainTo
  split
  · exact s.drainPath_memOnly _ _
  · exact .refl s

/-- A fold each of whose steps leaves the value that it starts from. -/
theorem foldl_stays {α β : Type} (f : β → α → β) (l : List α) (b : β) (h : ∀ x, f b x = b) : l.foldl f b = b := by
  induction l with
  | nil => rfl
  | cons x l ih => rw [List.foldl_cons, h x, ih]

/-- Where no write of a die is on its way, none is left to perform (R345). -/
theorem State.drainDie_of_empty (s : State) (d : Nat) (h : (s.die d).paths = []) : s.drainDie d = s :=
  foldl_stays _ _ _ (fun k => by simp [State.drainPath, State.path, h, FMap.get])

/-! ### Releases (R345, R328) -/

theorem State.mapSpans_diesOnly (s : State) (f : SpanEnt → SpanEnt) : s.DiesOnly (s.mapSpans f) := ⟨_, rfl⟩

theorem State.released_memOnly (s : State) (g scope : Nat) : s.MemOnly (s.released g scope) := by
  unfold State.released
  split
  · exact .refl s
  · refine State.MemOnly.trans ?_ (State.mapSpans_diesOnly _ _).memOnly
    split
    · exact .refl s
    · exact s.drainDie_memOnly _

theorem State.released_mem (s : State) (g scope : Nat) (h : (s.die (s.grp g).die).paths = []) :
    (s.released g scope).mem = s.mem := by
  unfold State.released
  split
  · rfl
  · rw [(State.mapSpans_diesOnly _ _).mem]
    split
    · rfl
    · rw [s.drainDie_of_empty _ h]

theorem State.acquires_diesOnly (s : State) (g scope : Nat) : s.DiesOnly (s.acquires g scope) := by
  unfold State.acquires
  split
  · exact .refl s
  · exact s.mapSpans_diesOnly _

/-! ### Translations, tokens and code lines (R321, R333, R315) -/

theorem State.foldHits_diesOnly (s : State) (d : Nat) (e : TlbEnt) : s.DiesOnly (s.foldHits d e) := by
  unfold State.foldHits
  split
  · exact .refl s
  · exact (State.DiesOnly.refl s).modD _ _

theorem State.bring_diesOnly (s : State) (d v page hits : Nat) (w : Bool) : s.DiesOnly (s.bring d v page hits w) := by
  unfold State.bring
  split
  · exact (State.DiesOnly.refl s).modD _ _
  · split
    · exact .refl s
    · refine State.DiesOnly.modD ?_ _ _
      split
      · exact .refl s
      · split
        · exact .refl s
        · exact (s.foldHits_diesOnly _ _).modD _ _

theorem State.touchReqs_diesOnly (s : State) (d v : Nat) (rs : List Req) : s.DiesOnly (s.touchReqs d v rs) :=
  .foldl _ (fun s _ => s.bring_diesOnly _ _ _ _ _) _ s

theorem State.charge_diesOnly (s c : State) (d v : Nat) (rs : List Req) (h : s.charge d v rs = .ok c) : s.DiesOnly c := by
  unfold State.charge at h
  split at h
  · cases h; exact .refl s
  · exact foldl_keeps (fun r : Except (Nat × Nat) State => ∀ c, r = .ok c → s.DiesOnly c) _
      (fun r x hr c hc => by
        cases r with
        | error e => cases hc
        | ok r =>
          dsimp only at hc
          split at hc
          · cases hc
          · cases hc; exact (hr r rfl).modD _ _) _ _ (fun c hc => by cases hc; exact .refl s) c h

theorem State.markWait_diesOnly (s : State) (d v : Nat) (rs : List Req) : s.DiesOnly (s.markWait d v rs) := by
  unfold State.markWait
  split
  · exact .refl s
  · exact (State.DiesOnly.refl s).modD _ _

theorem State.fillLine_diesOnly (s : State) (d c v va : Nat) : s.DiesOnly (s.fillLine d c v va) := by
  have up : ∀ (r : State) (x : ICLine), r.DiesOnly ((r.touch d v (pageOf va) false).modC d c
      (fun y => { y with l1 := addLine l1Lines y.l1 x })) := fun r x => (r.bring_diesOnly _ _ _ _ _).modD _ _
  unfold State.fillLine
  split
  · exact .refl s
  · split
    · exact up s _
    · split
      · exact .refl s
      · exact ((State.DiesOnly.refl s).modD _ _).trans (up _ _)

theorem State.payLine_diesOnly (s r : State) (d c v va : Nat) (h : s.payLine d c v va = .ok r) : s.DiesOnly r := by
  unfold State.payLine at h
  split at h
  · dsimp only at h
    split at h
    · next hc => cases h; exact s.charge_diesOnly _ d v _ hc
    · cases h
  · cases h; exact .refl s

theorem State.fetchWord_diesOnly (s r : State) (w : DWord) (d c v va : Nat) (h : s.fetchWord d c v va = .ok (r, w)) :
    s.DiesOnly r := by
  unfold State.fetchWord at h
  split at h
  · cases h
  · split at h
    · cases h
    · next hp => cases h; exact (s.payLine_diesOnly _ _ _ _ _ hp).trans (State.fillLine_diesOnly _ _ _ _ _)

end Sys2Proof.Machine
end

section
/-! ## What the Touchstone and the barriers change of a workgroup

An access that the Touchstone counts, an acquire, and the completion of a barrier's phase touch every thread of a workgroup
at most in what the Touchstone keeps of it, and in what it waits for at a barrier (R195, R230). -/
namespace Sys2Proof.Machine

/-! ### Lists changed element by element -/

/-- A list mapped is related to itself element by element, the default to itself. -/
theorem getD_map_rel {α : Type} (R : α → α → Prop) (l : List α) (f : α → α) (d : α) (k : Nat) (hf : ∀ x, R x (f x))
    (hd : R d d) : R (l.getD k d) ((l.map f).getD k d) := by
  rw [List.getD_eq_getElem?_getD, List.getD_eq_getElem?_getD, List.getElem?_map]
  cases l[k]? with
  | none => exact hd
  | some x => exact hf x

/-- So is a list changed at one place. -/
theorem modAt_getD_rel {α : Type} (R : α → α → Prop) (refl : ∀ x, R x x) (l : List α) (n : Nat) (f : α → α) (d : α) (k : Nat)
    (hf : R (l.getD n d) (f (l.getD n d))) : R (l.getD k d) ((modAt l n f).getD k d) := by
  by_cases hk : k = n
  · subst hk
    by_cases hl : k < l.length
    · rw [modAt_getD_same _ _ _ _ hl]; exact hf
    · have hl := Nat.le_of_not_lt hl
      rw [List.getD_eq_default _ _ hl, List.getD_eq_default _ _ (by rwa [modAt_length])]
      exact refl d
  · rw [modAt_getD_other _ _ _ _ _ hk]; exact refl _

/-! ### Threads of a workgroup related one by one -/

/-- The threads of two workgroups are related, each to the one in its place. -/
def Group.Threads (R : Thread → Thread → Prop) (x y : Group) : Prop := ∀ w u, R ((x.wrp w).thr u) ((y.wrp w).thr u)

/-- Two warps differ in their threads alone, and those are related, each to the one in its place. -/
def Warp.By (R : Thread → Thread → Prop) (x y : Warp) : Prop :=
  (∃ ts, y = { x with threads := ts }) ∧ y.threads.length = x.threads.length ∧ ∀ u, R (x.thr u) (y.thr u)

/-- Two workgroups have the same warps but for their threads, and those are related. -/
def Group.By (R : Thread → Thread → Prop) (x y : Group) : Prop :=
  y.warps.length = x.warps.length ∧ ∀ w, (x.wrp w).By R (y.wrp w)

section
variable {R S : Thread → Thread → Prop} {x y z : Group} {a b c : Warp}

theorem Warp.By.refl (refl : ∀ t, R t t) (a : Warp) : a.By R a := ⟨⟨a.threads, rfl⟩, rfl, fun _ => refl _⟩
theorem Warp.By.trans (trans : ∀ {p q r}, R p q → R q r → R p r) (h : a.By R b) (k : b.By R c) : a.By R c := by
  obtain ⟨⟨ts, rfl⟩, hl, ht⟩ := h
  obtain ⟨⟨us, rfl⟩, kl, kt⟩ := k
  exact ⟨⟨us, rfl⟩, kl.trans hl, fun u => trans (ht u) (kt u)⟩

theorem Group.By.refl (refl : ∀ t, R t t) (x : Group) : x.By R x := ⟨rfl, fun _ => .refl refl _⟩
theorem Group.By.trans (trans : ∀ {p q r}, R p q → R q r → R p r) (h : x.By R y) (k : y.By R z) : x.By R z :=
  ⟨k.1.trans h.1, fun w => .trans trans (h.2 w) (k.2 w)⟩
theorem Group.By.threads (h : x.By R y) : x.Threads R y := fun w u => (h.2 w).2.2 u
theorem Group.By.mono (hR : ∀ {p q}, R p q → S p q) (h : x.By R y) : x.By S y :=
  ⟨h.1, fun w => ⟨(h.2 w).1, (h.2 w).2.1, fun u => hR ((h.2 w).2.2 u)⟩⟩

/-- A change of one thread within the relation. -/
theorem Group.By.modT (refl : ∀ t, R t t) (x : Group) (w u : Nat) (f : Thread → Thread)
    (hf : R ((x.wrp w).thr u) (f ((x.wrp w).thr u))) : x.By R (x.modT w u f) := by
  refine ⟨by simp [Group.modT, Group.modW], fun k => ?_⟩
  refine modAt_getD_rel (Warp.By R) (.refl refl) x.warps w (fun y => y.mod u f) Warp.void k ?_
  exact ⟨⟨_, rfl⟩, by simp [Warp.mod], fun v => modAt_getD_rel R refl _ u f Thread.absent v hf⟩

/-- A change of every thread within the relation. -/
theorem Group.By.mapAll (refl : ∀ t, R t t) (x : Group) (f : Thread → Thread) (hf : ∀ t, R t (f t)) :
    x.By R { x with warps := x.warps.map (fun w => w.all f) } := by
  refine ⟨by simp, fun k => getD_map_rel (Warp.By R) x.warps (fun y => y.all f) Warp.void k (fun y => ?_) (.refl refl _)⟩
  exact ⟨⟨_, rfl⟩, by simp [Warp.all], fun u => getD_map_rel R _ f Thread.absent u hf (refl _)⟩

theorem Group.Threads.trans (trans : ∀ {p q r}, R p q → R q r → R p r) (h : x.Threads R y) (k : y.Threads R z) :
    x.Threads R z := fun w u => trans (h w u) (k w u)
end

/-! ### What is kept of one thread -/

/-- `y` is `x` but for what the Touchstone keeps of a thread (R195). -/
def Thread.TsOnly (x y : Thread) : Prop := ∃ a b c d, y = { x with sAll := a, sSet := b, lSet := c, lFull := d }

/-- `y` is `x` but for what the Touchstone keeps and, where `x` waits to arrive again at a barrier, its wait (R230). -/
def Thread.BarOnly (x y : Thread) : Prop :=
  (∃ sc a b c d, y = { x with sched := sc, sAll := a, sSet := b, lSet := c, lFull := d })
  ∧ (y.sched = x.sched ∨ ∃ id k id' ph, x.sched = .blocked (.barAgain id k) ∧ y.sched = .blocked (.bar id' ph))

theorem Thread.TsOnly.refl (x : Thread) : x.TsOnly x := ⟨_, _, _, _, rfl⟩
theorem Thread.TsOnly.trans {x y z : Thread} (h : x.TsOnly y) (k : y.TsOnly z) : x.TsOnly z := by
  obtain ⟨_, _, _, _, rfl⟩ := h
  obtain ⟨a, b, c, d, rfl⟩ := k
  exact ⟨a, b, c, d, rfl⟩
theorem Thread.TsOnly.sameFiles {x y : Thread} (h : x.TsOnly y) : y.sameFiles x := by
  obtain ⟨_, _, _, _, rfl⟩ := h
  exact ⟨rfl, rfl, rfl, rfl, rfl, rfl, rfl⟩

theorem Thread.BarOnly.refl (x : Thread) : x.BarOnly x := ⟨⟨_, _, _, _, _, rfl⟩, .inl rfl⟩
theorem Thread.BarOnly.trans {x y z : Thread} (h : x.BarOnly y) (k : y.BarOnly z) : x.BarOnly z := by
  obtain ⟨⟨_, _, _, _, _, rfl⟩, hs⟩ := h
  obtain ⟨⟨sc, a, b, c, d, rfl⟩, ks⟩ := k
  refine ⟨⟨sc, a, b, c, d, rfl⟩, ?_⟩
  rcases ks with ks | ⟨i, k, j, p, ks, ks'⟩
  · rcases hs with hs | ⟨i, k, j, p, hs, hs'⟩
    · exact .inl (ks.trans hs)
    · exact .inr ⟨i, k, j, p, hs, ks.trans hs'⟩
  · rcases hs with hs | ⟨i', k', j', p', hs, hs'⟩
    · exact .inr ⟨i, k, j, p, hs.symm.trans ks, ks'⟩
    · rw [hs'] at ks; cases ks
theorem Thread.BarOnly.sameFiles {x y : Thread} (h : x.BarOnly y) : y.sameFiles x := by
  obtain ⟨⟨_, _, _, _, _, rfl⟩, _⟩ := h
  exact ⟨rfl, rfl, rfl, rfl, rfl, rfl, rfl⟩
/-- A thread that does not wait to arrive again keeps its scheduling state. -/
theorem Thread.BarOnly.sched {x y : Thread} (h : x.BarOnly y) (hx : ∀ i k, x.sched ≠ .blocked (.barAgain i k)) :
    y.sched = x.sched := by
  rcases h.2 with h | ⟨i, k, _, _, h, _⟩
  · exact h
  · exact absurd h (hx i k)
/-- A barrier ends no thread. -/
theorem Thread.BarOnly.live {x y : Thread} (h : x.BarOnly y) : y.live = x.live := by
  rcases h.2 with h | ⟨i, k, _, _, h, h'⟩
  · simp [Thread.live, h]
  · simp [Thread.live, h, h']

/-! ### Barriers (R230, R30) -/

theorem Thread.barDone_newPhase (t : Thread) (id ph : Nat) : t.BarOnly (t.barDone id ph).newPhase := by
  unfold Thread.barDone
  split
  · next k sync hs =>
    split
    · exact ⟨⟨_, _, _, _, _, rfl⟩, .inr ⟨k, sync, _, _, hs, rfl⟩⟩
    · exact ⟨⟨_, _, _, _, _, rfl⟩, .inl rfl⟩
  · exact ⟨⟨_, _, _, _, _, rfl⟩, .inl rfl⟩

theorem Group.completeBar_by (x : Group) (id : Nat) : x.By Thread.BarOnly (x.completeBar id) := by
  unfold Group.completeBar
  dsimp only
  split
  · exact .refl .refl x
  · exact Group.By.mapAll .refl x _ (fun t => t.barDone_newPhase id _)

theorem Group.completeBars_by (x : Group) : x.By Thread.BarOnly x.completeBars :=
  .trans .trans (foldl_rel _ (.refl .refl) (.trans .trans) _ Group.completeBar_by _ x)
    (foldl_rel _ (.refl .refl) (.trans .trans) _ Group.completeBar_by _ _)

/-- `y` is `x` but for its barriers, its phase with what goes with it, and its warps. -/
def Group.BarFields (x y : Group) : Prop :=
  ∃ bars phase rels tags ws, y = { x with bars := bars, phase := phase, rels := rels, tags := tags, warps := ws }

theorem Group.BarFields.refl (x : Group) : x.BarFields x := ⟨_, _, _, _, _, rfl⟩
theorem Group.BarFields.trans {x y z : Group} (h : x.BarFields y) (k : y.BarFields z) : x.BarFields z := by
  obtain ⟨_, _, _, _, _, rfl⟩ := h
  obtain ⟨a, b, c, d, e, rfl⟩ := k
  exact ⟨a, b, c, d, e, rfl⟩

theorem Group.completeBar_fields (x : Group) (id : Nat) : x.BarFields (x.completeBar id) := by
  unfold Group.completeBar
  dsimp only
  split
  · exact .refl x
  · exact ⟨_, _, _, _, _, rfl⟩

theorem Group.completeBars_fields (x : Group) : x.BarFields x.completeBars :=
  .trans (foldl_rel _ .refl .trans _ Group.completeBar_fields _ x) (foldl_rel _ .refl .trans _ Group.completeBar_fields _ _)

end Sys2Proof.Machine
end

section
/-! ## ackn, wflg, yield, sysc and exit (O25) -/
namespace Sys2Proof.Machine

/-! ### Values other than the default, in any map -/

/-- A value other than the default reads as written, whatever the form of the map. -/
theorem FMap.get_set_self {α : Type} [DecidableEq α] (d : α) (m : FMap α) (k : Nat) (v : α) (hv : v ≠ d) :
    FMap.get d (FMap.set d m k v) k = v := by
  induction m with
  | nil => simp [FMap.set, FMap.get, hv]
  | cons e m ih =>
    obtain ⟨k', v'⟩ := e
    by_cases hk : k = k'
    · simp [FMap.set, FMap.get, hk, hv]
    · by_cases hl : k < k' <;> simp [FMap.set, FMap.get, hk, hl, hv, ih]

/-- Writing it leaves every other key alone. -/
theorem FMap.get_set_ne {α : Type} [DecidableEq α] (d : α) (m : FMap α) (k j : Nat) (v : α) (hv : v ≠ d) (hj : j ≠ k) :
    FMap.get d (FMap.set d m k v) j = FMap.get d m j := by
  induction m with
  | nil => simp [FMap.set, FMap.get, hv, hj]
  | cons e m ih =>
    obtain ⟨k', v'⟩ := e
    by_cases hk : k = k'
    · subst hk; simp [FMap.set, FMap.get, hv, hj]
    · by_cases hl : k < k'
      · by_cases hjk : j < k
        · simp [FMap.set, FMap.get, hk, hl, hv, hj, hjk, show j ≠ k' by omega, show j < k' by omega]
        · simp [FMap.set, FMap.get, hk, hl, hv, hj, hjk]
      · simp [FMap.set, FMap.get, hk, hl, ih]

/-! ### yield (R160) -/

/-- A core that a change leaves other than the default reads as changed. -/
theorem State.core_modC_self (s : State) (d c : Nat) (f : Core → Core) (hd : d < s.dies.length)
    (hf : f (s.core d c) ≠ Core.default) : (s.modC d c f).core d c = f (s.core d c) := by
  have hdie : (s.modC d c f).die d = { s.die d with
      cores := FMap.set Core.default (s.die d).cores c (f (FMap.get Core.default (s.die d).cores c)) } :=
    modAt_getD_same _ _ _ _ hd
  rw [State.core, hdie]
  exact FMap.get_set_self _ _ _ _ hf

/-- The request of yield stands in the quadrant of its warp (R160). -/
theorem State.yieldWarp_avoid (s : State) (g w : Nat) (hd : (s.grp g).die < s.dies.length)
    (hq : (s.wrp g w).quad < (s.core (s.grp g).die (s.grp g).core).quads.length) :
    ((s.yieldWarp g w).quad (s.grp g).die (s.grp g).core (s.wrp g w).quad).avoid = some (g, w) := by
  have hav : ∀ c : Core, (s.wrp g w).quad < c.quads.length →
      ((modAt c.quads (s.wrp g w).quad (fun q : Quad => { q with avoid := some (g, w) })).getD (s.wrp g w).quad Quad.zero).avoid
        = some (g, w) := fun c hc => by rw [modAt_getD_same _ _ _ _ hc]
  unfold State.yieldWarp State.quad
  rw [State.core_modC_self _ _ _ _ hd]
  · exact hav _ hq
  · intro he
    have := hav _ hq
    rw [show modAt (s.core (s.grp g).die (s.grp g).core).quads (s.wrp g w).quad _ = Core.default.quads from
      congrArg Core.quads he] at this
    revert this
    generalize (s.wrp g w).quad = k
    rcases k with _ | _ | _ | _ | k <;> simp [Core.default, Core.zero, Quad.zero]

/-! ### sysc (R168) -/

theorem State.addCall_calls (s : State) (c : Call) : (s.addCall c).calls = s.calls ++ [c] := by
  unfold State.addCall State.enqueue
  dsimp only
  split
  · split <;> rfl
  · rfl

theorem State.addCall_groups (s : State) (c : Call) : (s.addCall c).groups = s.groups := by
  unfold State.addCall State.enqueue
  dsimp only
  split
  · split <;> rfl
  · rfl

theorem State.addCall_mem (s : State) (c : Call) : (s.addCall c).mem = s.mem := by
  unfold State.addCall State.enqueue
  dsimp only
  split
  · split <;> rfl
  · rfl

theorem State.newId_fields (s : State) :
    s.newId.1.groups = s.groups ∧ s.newId.1.calls = s.calls ∧ s.newId.1.mem = s.mem := ⟨rfl, rfl, rfl⟩

/-- A release marks its thread, and its writes may be performed (R349). -/
theorem State.releasedBy_fields (s : State) (g t : Nat) :
    (s.releasedBy g t 5).groups = (s.modG g (fun y => { y with rels := NSet.add y.rels t })).groups
      ∧ (s.releasedBy g t 5).calls = s.calls
      ∧ ((s.die (s.grp g).die).paths = [] → (s.releasedBy g t 5).mem = s.mem) := by
  have hr := s.released_memOnly g 5
  have hm := s.released_mem g 5
  have h : s.releasedBy g t 5 = (s.released g 5).modG g (fun x => { x with rels := NSet.add x.rels t }) := rfl
  rw [h]
  generalize s.released g 5 = r at hr hm
  refine ⟨?_, hr.calls, hm⟩
  rw [State.modG_groups', State.modG_groups', hr.groups]

/-- What a thread that sends a call goes on as: it awaits the reply (R168). -/
def Thread.calling (x : Thread) (n : Ins) : Thread := { ((x.await n.d).await (n.d + 1)).advance n.words with sysc := true }

/-- sysc of a thread that nothing holds sends its call (R168). -/
theorem State.doSysc_sends (s : State) (n : Ins) (u : Nat) (h : s.alone n u) (h1 : (s.pthr u).sysc = false)
    (h2 : s.pwrp.cmdBusy u = false) (h3 : s.pgrp.bankBusy (tid s.pack.w u) = false) (h4 : s.unsent s.pack.g 5 = false) :
    ∃ c : Call, s.doSysc n = ((s.releasedBy s.pack.g (tid s.pack.w u) 5).newId.1.modT s.pack.g s.pack.w u (·.calling n)).addCall c
      ∧ c.num = n.immZ ∧ c.args = (List.range 8).map (fun k => ((s.pthr u).reg (n.a + k)).v)
      ∧ c.res = none ∧ c.caller = .thread ⟨s.pack.g, s.pack.w, u⟩ n.d
      ∧ c.vdev = ((s.releasedBy s.pack.g (tid s.pack.w u) 5).newId.1.grp s.pack.g).vdev := by
  have h1 : (s.thr s.pack.g s.pack.w u).sysc = false := h1
  have h2 : (s.wrp s.pack.g s.pack.w).cmdBusy u = false := h2
  have h3 : (s.grp s.pack.g).bankBusy (tid s.pack.w u) = false := h3
  unfold State.doSysc
  rw [s.control_noChk n _ _ u h]
  simp only [h1, h2, h3, h4, Bool.or_self, Bool.false_eq_true, if_false]
  exact ⟨_, rfl, rfl, rfl, rfl, rfl, rfl⟩

/-! ### exit (R30, R159) -/

/-- The changed thread of a workgroup. -/
theorem Group.modT_thr_same (x : Group) (w u : Nat) (f : Thread → Thread) (hw : w < x.warps.length)
    (hu : u < (x.wrp w).threads.length) : ((x.modT w u f).wrp w).thr u = f ((x.wrp w).thr u) := by
  have h1 : (x.modT w u f).wrp w = (x.wrp w).mod u f := modAt_getD_same _ _ _ _ hw
  rw [h1]
  exact modAt_getD_same _ _ _ _ hu

/-- Every other thread. -/
theorem Group.modT_thr_other (x : Group) (w u a b : Nat) (f : Thread → Thread) (h : (a, b) ≠ (w, u)) :
    ((x.modT w u f).wrp a).thr b = (x.wrp a).thr b := by
  by_cases ha : a = w
  · subst ha
    have hb : b ≠ u := fun hb => h (by rw [hb])
    refine (modAt_getD_rel (fun y z : Warp => z.thr b = y.thr b) (fun _ => rfl) x.warps a (fun y => y.mod u f) Warp.void a ?_)
    exact modAt_getD_other _ _ _ _ _ hb
  · exact congrArg (fun y : Warp => y.thr b) (modAt_getD_other _ _ _ _ _ ha)

/-- A warp that gives its blocks to a pool keeps its threads (R273). -/
theorem Group.poolWarp_threads (x : Group) (w : Nat) : x.Threads (fun p q => q = p) (x.poolWarp w) := by
  intro a b
  unfold Group.poolWarp
  dsimp only
  split
  · rfl
  · exact modAt_getD_rel (fun y z : Warp => z.thr b = y.thr b) (fun _ => rfl) x.warps w _ Warp.void a rfl

theorem Group.poolWarp_die (x : Group) (w : Nat) : (x.poolWarp w).die = x.die := by
  unfold Group.poolWarp
  dsimp only
  split <;> rfl

/-- An exit of one thread leaves each thread of the workgroup as that exit makes it, but for its barrier. -/
theorem Group.exitT_threads (x : Group) (w u : Nat) : (x.modT w u Thread.exit).Threads Thread.BarOnly (x.exitT w u) := by
  intro a b
  have h := (Group.completeBars_by ((x.modT w u Thread.exit).poolWarp w)).threads a b
  rwa [Group.poolWarp_threads _ w a b] at h

theorem Group.exitT_die (x : Group) (w u : Nat) : (x.exitT w u).die = x.die := by
  obtain ⟨_, _, _, _, _, h⟩ := Group.completeBars_fields ((x.modT w u Thread.exit).poolWarp w)
  rw [Group.exitT, h]
  exact Group.poolWarp_die _ _

/-- A workgroup and memory as the end of the workgroup leaves them. -/
def State.Ended (s t : State) (g : Nat) : Prop :=
  t.groups = (s.modG g (fun x => { x.quiet with alive := false, spans := [] })).groups
    ∧ ((s.die (s.grp g).die).paths = [] → t.mem = s.mem)

theorem State.exitedGang_fields (s : State) (l d : Nat) : (s.exitedGang l d).groups = s.groups ∧ (s.exitedGang l d).mem = s.mem :=
  ⟨rfl, rfl⟩

theorem State.released_release (s : State) (g : Nat) : s.Ended ((s.released g 4).release g) g :=
  ⟨by rw [State.release_groups, State.modG_groups', State.modG_groups', (s.released_memOnly g 4).groups],
    fun h => by rw [State.release_mem, s.released_mem g 4 h]⟩

/-- A workgroup that is settled ends, or is left as it is (R30). -/
theorem State.settle_cases (s : State) (g : Nat) : s.settle g = s ∨ s.Ended (s.settle g) g := by
  have hr := s.released_release g
  unfold State.settle
  by_cases hd : (s.drained g && !(s.grp g).anyDirty && !s.unsent g 4) = true
  · refine .inr ?_
    simp only [hd, if_true]
    cases (s.grp g).kind with
    | gang l k =>
      obtain ⟨hg, hm⟩ := ((s.released g 4).release g).exitedGang_fields l (s.grp g).die
      exact ⟨hg.trans hr.1, fun h => hm.trans (hr.2 h)⟩
    | wave => exact hr
    | lanes k => exact hr
  · exact .inl (if_neg hd)

theorem State.settle_mem (s : State) (g : Nat) (h : (s.die (s.grp g).die).paths = []) : (s.settle g).mem = s.mem := by
  rcases s.settle_cases g with he | he
  · rw [he]
  · exact he.2 h

theorem Group.quiet_threads (x : Group) : x.Threads (fun p q => q = p) x.quiet := fun a b =>
  getD_map_rel (fun y z : Warp => z.thr b = y.thr b) x.warps _ Warp.void a (fun _ => rfl) rfl

theorem State.settle_thr (s : State) (g a b : Nat) (hg : g < s.groups.length) : (s.settle g).thr g a b = s.thr g a b := by
  rcases s.settle_cases g with h | ⟨h, _⟩
  · rw [h]
  · have hq : (s.settle g).grp g = { (s.grp g).quiet with alive := false, spans := [] } := by
      rw [State.grp, h]; exact modAt_getD_same _ _ _ _ hg
    rw [State.thr, State.wrp, hq]
    exact Group.quiet_threads (s.grp g) a b

/-- Each thread of a workgroup after an exit of one of them. -/
theorem State.exitT_thr (s : State) (g w u a b : Nat) (hg : g < s.groups.length) :
    ((((s.grp g).modT w u Thread.exit).wrp a).thr b).BarOnly ((s.exitT g w u).thr g a b) := by
  have ht : (s.exitT g w u).thr g a b = (((s.grp g).exitT w u).wrp a).thr b := by
    rw [State.exitT, State.settle_thr _ g a b (by simpa [State.modG] using hg), State.thr, State.wrp, State.grp_modG_same _ _ _ hg]
  rw [ht]
  exact (s.grp g).exitT_threads w u a b

theorem State.exitT_mem (s : State) (g w u : Nat) (hg : g < s.groups.length) (h : (s.die (s.grp g).die).paths = []) :
    (s.exitT g w u).mem = s.mem := by
  refine State.settle_mem _ g ?_
  rw [State.grp_modG_same _ _ _ hg, Group.exitT_die]
  exact h

theorem setHnd_false_hnd (st : Word) : (setHnd st false).getLsbD 12 = false := by
  simp [setHnd]

/-- Settles O25: each form by its body. -/
theorem noticesFlagsYieldCallsAndExit : Obligations.NoticesFlagsYieldCallsAndExit := by
  refine ⟨?_, ?_, ?_, ?_⟩
  · intro i n s u hi h out
    refine ⟨fun ho => ?_, fun ho => ?_, fun ho => ?_⟩ <;>
      simp only [out, exec_of_insOf i n s hi, State.run, ho]
    · simp only [State.doAckn, s.control_noChk n _ _ u h]
    · simp only [State.doWflg, s.control_noChk n _ _ u h]
      cases (s.thr s.pack.g s.pack.w u).flagsSet (BitVec.ofNat 12 n.immZ) <;> simp
    · simp only [State.doYield, s.control_noChk n _ _ u h]
      exact ⟨_, rfl, rfl, rfl, fun hq hd => s.yieldWarp_avoid _ _ hd hq⟩
  · intro i n s u hi ho h h1 h2 h3 h4
    obtain ⟨c, hs, hnum, hargs, hres, hcaller, hvdev⟩ := s.doSysc_sends n u h h1 h2 h3 h4
    have hr := s.releasedBy_fields s.pack.g (tid s.pack.w u)
    generalize s.releasedBy s.pack.g (tid s.pack.w u) 5 = r at hs hvdev hr
    obtain ⟨hg, hc, hm⟩ := hr
    obtain ⟨ng, nc, nm⟩ := r.newId_fields
    generalize r.newId.1 = q at hs hvdev ng nc nm
    refine ⟨s.doSysc n, c, ?_, ?_, hnum, ?_, hres, hcaller, fun k hk => ?_, fun hp => ?_, ?_⟩
    · simp only [exec_of_insOf i n s hi, State.run, ho]
    · rw [hs, State.addCall_calls]; exact congrArg (· ++ [c]) (nc.trans hc)
    · rw [hvdev]
      have hq : q.grp s.pack.g = (s.modG s.pack.g _).grp s.pack.g := congrArg (·.getD s.pack.g Group.void) (ng.trans hg)
      rw [hq, State.grp_modG_same _ _ _ h.2.1.1.1]
    · rw [hargs]; simp [List.getD_eq_getElem?_getD, hk]
    · rw [hs, State.addCall_mem]; exact nm.trans (hm hp)
    · rw [hs, State.addCall_groups, State.modT, State.modG_groups', ng, hg]
      rfl
  · intro i n s u hi ho h hl
    have hg := h.2.1.1.1
    have hw := h.2.1.1.2.1
    have hu := (h.2.1.1.2.2.2.2 u (by simp [h.1])).1
    have he : exec i s = .next (s.exitT s.pack.g s.pack.w u) := by
      rw [exec_of_insOf i n s hi]
      simp only [State.run, ho, State.doExit, s.control_noChk n _ _ u h]
      rw [if_neg (by simpa using hl)]
    have hself := s.exitT_thr s.pack.g s.pack.w u s.pack.w u hg
    rw [Group.modT_thr_same _ _ _ _ hw hu] at hself
    have hsched := hself.sched (by simp [Thread.exit])
    obtain ⟨⟨_, _, _, _, _, heq⟩, _⟩ := hself
    refine ⟨_, he, s.exitT_mem _ _ _ hg, hsched, by rw [heq]; rfl, by rw [heq]; exact setHnd_false_hnd _, fun a b hab => ?_⟩
    have hoth := s.exitT_thr s.pack.g s.pack.w u a b hg
    rw [Group.modT_thr_other _ _ _ _ _ _ hab] at hoth
    obtain ⟨⟨_, _, _, _, _, heq⟩, _⟩ := hoth
    exact ⟨by rw [heq]; rfl, by rw [heq]; rfl, by rw [heq]; rfl⟩
  · intro i n s u k l hi ho h hk ht
    rw [exec_of_insOf i n s hi]
    simp only [State.run, ho, State.doExit, s.control_noChk n _ _ u h]
    rw [if_pos (by rw [Thread.isLane, show (s.thr s.pack.g s.pack.w u).kind = .lane k l from hk]), s.trapT_of _ _ _ _ _ ht]

end Sys2Proof.Machine
end

section
/-! ## Scratch accesses that trap (O27) -/
namespace Sys2Proof.Machine

/-! ### A pack of one thread that traps -/

/-- What changes the one thread of a pack changes the pack. -/
theorem State.modT_eq_mapPack (s : State) (u : Nat) (f : Thread → Thread) (h : s.pack.ts = [u]) :
    s.modT s.pack.g s.pack.w u f = s.mapPack (fun _ x => f x) := by
  rw [State.modT_eq_mapThr, State.mapPack, h]
  simp only [List.mem_singleton]

/-- The slow path of a warp that holds none, behind a change of the pack's one thread (R203). -/
theorem State.slowDone_modT (s : State) (u : Nat) (f : Thread → Thread) (h : s.pack.ts = [u]) (hs : s.pwrp.slow = false) :
    (s.modT s.pack.g s.pack.w u f).slowDone = s.modT s.pack.g s.pack.w u f := by
  rw [s.modT_eq_mapPack u f h, s.slowDone_mapPack _ hs]

/-- A failed check traps a thread of which no operand of its own traps. -/
theorem before_checked (i : Ins) (c : Nat) (v : DWord) (t : Thread) (h : t.takes i) :
    before i (some (c, v)) t = some (.trap c v) := by
  simp [before, h.1, h.2, firstOf]

/-- An instruction that acts on each thread in turn, where its check fails in a pack of one. -/
theorem State.inTurn_checked (s : State) (i : Ins) (chk : State → Nat → Nat → Nat → Cause)
    (body : State → Nat → Nat → Nat → State × Res) (u c : Nat) (v : DWord) (h : s.alone i u)
    (hc : chk s s.pack.g s.pack.w u = some (c, v)) (ht : s.trapsAt s.pack.g s.pack.w u) :
    s.inTurn i chk body = s.modT s.pack.g s.pack.w u (fun x => x.takeTrap s.pwrp.kd.trap c v) := by
  obtain ⟨hts, hp, htk⟩ := h
  unfold State.inTurn
  rw [State.front_of s i.use _ _ hp.1.2.2.1 hp.2.1 hp.2.2.1 hp.2.2.2]
  have hr : (s.thr s.pack.g s.pack.w u).ready = true := (hp.1.2.2.2.2 u (by simp [hts])).2
  simp only [hts, List.foldl_cons, List.foldl_nil, hr, Bool.not_true, Bool.false_eq_true, if_false, hc,
    before_checked i c v (s.thr s.pack.g s.pack.w u) htk]
  exact s.trapT_of _ _ _ _ _ ht

/-- So where its body traps. -/
theorem State.inTurn_traps (s : State) (i : Ins) (body : State → Nat → Nat → Nat → State × Res) (u c : Nat) (v : DWord)
    (h : s.alone i u) (hf : (s.pthr u).flagRoom (i.flagOf (s.pthr u)))
    (hb : body s s.pack.g s.pack.w u = (s, .trap c v)) (ht : s.trapsAt s.pack.g s.pack.w u)
    (chk : State → Nat → Nat → Nat → Cause) (hc : chk s s.pack.g s.pack.w u = none) :
    s.inTurn i chk body = s.modT s.pack.g s.pack.w u (fun x => x.takeTrap s.pwrp.kd.trap c v) := by
  rw [s.inTurn_alone i chk body u h hc hf, hb]
  exact s.trapT_of _ _ _ _ _ ht

/-! ### Bounds, alignment and transfer barriers (R26, R192) -/

theorem Group.scrOk_iff (x : Group) (off n al : Nat) : x.scrOk off n al = true ↔ off % al = 0 ∧ off + n ≤ x.scrSize := by
  simp [Group.scrOk]

theorem Group.scrOk_false (x : Group) (off n al : Nat) :
    x.scrOk off n al = false ↔ off % al ≠ 0 ∨ x.scrSize < off + n := by
  rw [Bool.eq_false_iff, ne_eq, Group.scrOk_iff, not_and_or, not_le]

/-- The scratch address of an access whose operands are clean (R224). -/
def Ins.scrOff (n : Ins) (x : Thread) : Nat := ((x.reg n.a).v.toNat + (if n.imm then n.immZ else (x.reg n.b).v.toNat)) % 2 ^ 32

theorem Ins.scrAddr_fst (n : Ins) (x : Thread) : (n.scrAddr x).1 = n.scrOff x := rfl

theorem Ins.scrAddr_clean (n : Ins) (x : Thread) (ha : (x.reg n.a).p = false) (hb : n.imm = false → (x.reg n.b).p = false) :
    n.scrAddr x = (n.scrOff x, false) := by
  rw [Ins.scrAddr, Ins.scrOff, ha]
  cases hi : n.imm
  · simp [hb hi]
  · simp

theorem State.load1_bad (s : State) (n : Ins) (f : ScrForm) (sg : Bool) (g w u : Nat)
    (h : n.scrAddr (s.thr g w u) = (n.scrOff (s.thr g w u), false))
    (ho : (s.grp g).scrOk (n.scrOff (s.thr g w u)) (f.w * f.n) f.al = false) :
    s.load1 n f sg g w u = (s, .trap 0x09 (BitVec.ofNat 64 (n.scrOff (s.thr g w u)))) := by
  simp [State.load1, h, ho]

theorem chkStore_bad (s : State) (n : Ins) (f : ScrForm) (g w u : Nat)
    (h : (s.grp g).scrOk (n.scrOff (s.thr g w u)) (f.w * f.n) f.al = false
      ∨ (s.grp g).xbHit (n.scrOff (s.thr g w u)) (f.w * f.n) = true) :
    chkStore n f s g w u = some (0x09, BitVec.ofNat 64 (n.scrOff (s.thr g w u))) := by
  exact if_pos (by rw [Ins.scrAddr_fst]; rcases h with h | h <;> simp [h])

theorem chkStore_none (s : State) (n : Ins) (f : ScrForm) (g w u : Nat)
    (h : (s.grp g).scrOk (n.scrOff (s.thr g w u)) (f.w * f.n) f.al = true)
    (hx : (s.grp g).xbHit (n.scrOff (s.thr g w u)) (f.w * f.n) = false) : chkStore n f s g w u = none := by
  simp [chkStore, Ins.scrAddr_fst, h, hx]

theorem chkAtms_bad (s : State) (n : Ins) (g w u : Nat)
    (h : (s.grp g).scrOk ((s.thr g w u).reg n.a).v.toNat (n.w / 8) (n.w / 8) = false
      ∨ (s.grp g).xbHit ((s.thr g w u).reg n.a).v.toNat (n.w / 8) = true) :
    chkAtms n s g w u = some (0x09, BitVec.ofNat 64 ((s.thr g w u).reg n.a).v.toNat) := by
  simp only [chkAtms]
  rw [if_pos (by rcases h with h | h <;> simp [h])]
  simp [BitVec.setWidth_eq_append_extractLsb', BitVec.ofNat_toNat]

/-! ### Conflicts of the Touchstone (R193, R196) -/

theorem Group.byTid_tid (x : Group) (w u : Nat) (h : u < 32) : x.byTid (tid w u) = (x.wrp w).thr u := by
  rw [Group.byTid, tid, show (32 * w + u) / 32 = w by omega, show (32 * w + u) % 32 = u by omega]

/-- The class of a plain access: of less than a word, or not. -/
def plainCls (sub : Bool) : TsCls := if sub then .sub else .plain

/-- The conflict that a plain access meets, where the set does not hold the writer. -/
theorem Group.tsConflict_writer (x : Group) (u k y : Nat) (write sub : Bool) (hw : (x.tag k).w = some y)
    (h : x.ordered u y = false) : x.tsConflict u k write (plainCls sub) = some y := by
  have h : (y == u || (x.byTid u).sAll || NSet.has (x.byTid u).sSet y) = false := h
  cases sub <;> simp [Group.tsConflict, plainCls, hw, h]

/-- The conflict with the readers of a word. -/
theorem Group.tsConflict_rest (x : Group) (u k : Nat) (write : Bool) (v : Nat) :
    Group.tsConflict.rest (x.tag k) (x.byTid u) (x.ordered u) write = some v ↔ write = true
      ∧ if (x.tag k).mr = true then (x.byTid u).sAll = false ∧ (x.tag k).rd = some v
        else (x.tag k).rd = some v ∧ x.ordered u v = false := by
  cases write with
  | false => simp [Group.tsConflict.rest]
  | true =>
    by_cases hm : (x.tag k).mr = true
    · simp [Group.tsConflict.rest, hm]
    · cases hr : (x.tag k).rd with
      | none => simp [Group.tsConflict.rest, hm, hr]
      | some y =>
        cases hy : x.ordered u y
        · simp only [Group.tsConflict.rest, hm, hr, hy, Bool.not_true, Bool.false_eq_true, if_false, Option.some.injEq,
            true_and]
          exact ⟨fun h => ⟨h, h ▸ hy⟩, fun h => h.1⟩
        · simp only [Group.tsConflict.rest, hm, hr, hy, Bool.not_true, Bool.false_eq_true, if_false, if_true,
            Option.some.injEq, true_and, reduceCtorEq, false_iff, not_and]
          rintro rfl
          simp [hy]

/-- The conflict that a plain access meets is the one of R196. -/
theorem Group.tsConflict_iff (x : Group) (u k v : Nat) (write sub : Bool) :
    x.tsConflict u k write (plainCls sub) = some v ↔ x.tsMeets u k write sub v := by
  have hrest := x.tsConflict_rest u k write v
  have hcls : ∀ b : Bool, (plainCls b == TsCls.sub) = b := by decide
  cases hw : (x.tag k).w with
  | none =>
    have : x.tsConflict u k write (plainCls sub) = Group.tsConflict.rest (x.tag k) (x.byTid u) (x.ordered u) write := by
      cases sub <;> simp only [Group.tsConflict, plainCls, hw] <;> rfl
    rw [this, hrest]
    cases write <;> simp [Group.tsMeets, hw]
  | some y =>
    cases ho : x.ordered u y with
    | false => simp [x.tsConflict_writer u k y write sub hw ho, Group.tsMeets, hw, ho]
    | true =>
      have : x.tsConflict u k write (plainCls sub) = if (write && sub && (x.tag k).sub && y != u) = true then some y
          else Group.tsConflict.rest (x.tag k) (x.byTid u) (x.ordered u) write := by
        have ho' : (y == u || (x.byTid u).sAll || NSet.has (x.byTid u).sSet y) = true := ho
        cases sub <;> simp [Group.tsConflict, plainCls, hw, ho'] <;> rfl
      rw [this]
      cases write with
      | false => simp [Group.tsMeets, hw, ho, hrest]
      | true =>
        by_cases hb : sub = true ∧ (x.tag k).sub = true ∧ (y != u) = true
        · simp [Group.tsMeets, hw, ho, hb]
        · rw [if_neg (by simpa [and_assoc] using hb), hrest]
          simp only [Group.tsMeets, hw, Option.any_some, ho, Bool.not_true, Bool.false_eq_true, if_false, hb, true_and,
            reduceCtorEq]

/-- The words that bytes touch, rising. -/
theorem wordsOf_sorted (off n : Nat) : (wordsOf off n).Pairwise (· < ·) := by
  rw [wordsOf, List.pairwise_map]
  exact List.pairwise_lt_range.imp (fun h => by omega)

/-- A plain access of a thread whose TSM is 1 traps at the first word in conflict (R196). -/
theorem Group.tsTrap_first (x : Group) (u off n k v : Nat) (write sub : Bool) (ht : (x.byTid u).tsm = 1)
    (hk : k ∈ wordsOf off n) (hm : x.tsMeets u k write sub v)
    (hf : ∀ j ∈ wordsOf off n, j < k → ∀ y, ¬x.tsMeets u j write sub y) :
    x.tsTrap u off n write (plainCls sub) = some (0x07, BitVec.ofNat 64 (v * 2 ^ 32 + 4 * k)) := by
  obtain ⟨l, r, hl⟩ := List.append_of_mem hk
  rw [Group.tsTrap, if_neg (by simp [ht]), List.findSome?_eq_some_iff]
  refine ⟨l, k, r, hl, ?_, fun j hj => ?_⟩
  · rw [(x.tsConflict_iff u k v write sub).mpr hm]; rfl
  · have hs := wordsOf_sorted off n
    rw [hl, List.pairwise_append] at hs
    have hlt : j < k := hs.2.2 j hj k (by simp)
    rw [Option.map_eq_none_iff, Option.eq_none_iff_forall_ne_some]
    exact fun y hy => hf j (by rw [hl]; simp [hj]) hlt y ((x.tsConflict_iff u j y write sub).mp hy)

theorem State.load1_conflict (s : State) (n : Ins) (f : ScrForm) (sg : Bool) (g w u c : Nat) (v : DWord)
    (h : n.scrAddr (s.thr g w u) = (n.scrOff (s.thr g w u), false)) (ho : f.ord = 0)
    (hok : (s.grp g).scrOk (n.scrOff (s.thr g w u)) (f.w * f.n) f.al = true)
    (hh : s.scrHold g w u (n.scrOff (s.thr g w u)) (f.w * f.n) false = none)
    (ht : (s.grp g).tsTrap (tid w u) (n.scrOff (s.thr g w u)) (f.w * f.n) false .plain = some (c, v)) :
    s.load1 n f sg g w u = (s, .trap c v) := by
  simp [State.load1, h, hok, hh, ho, ht]

theorem State.store1_conflict (s : State) (n : Ins) (f : ScrForm) (g w u c : Nat) (v : DWord) (ho : f.ord = 0)
    (hh : s.scrHold g w u (n.scrOff (s.thr g w u)) (f.w * f.n) true = none)
    (ht : (s.grp g).tsTrap (tid w u) (n.scrOff (s.thr g w u)) (f.w * f.n) true (plainCls (decide (f.w < 4))) = some (c, v)) :
    s.store1 n f g w u = (s, .trap c v) := by
  have ht : (s.grp g).tsTrap (tid w u) (n.scrOff (s.thr g w u)) (f.w * f.n) true
      (if f.w < 4 then TsCls.sub else .plain) = some (c, v) := by simpa [plainCls] using ht
  simp [State.store1, Ins.scrAddr_fst, hh, ho, ht]

/-- The form of a load or store of scratch. -/
def Ins.form (n : Ins) : ScrForm := if n.op = .ldsa ∨ n.op = .stsr then n.formN else n.formV

theorem State.run_load (s : State) (n : Ins) (h : n.op = .lds ∨ n.op = .ldsa) : ∃ sg, s.run n = s.doLoad n n.form sg := by
  rcases h with h | h <;> simp only [State.run, h, Ins.form, reduceCtorEq, or_false, if_true, if_false] <;> exact ⟨_, rfl⟩

theorem State.run_store (s : State) (n : Ins) (h : n.op = .sts ∨ n.op = .stsr) : s.run n = s.doStore n n.form := by
  rcases h with h | h <;> simp [State.run, h, Ins.form]

/-- A load whose body traps a pack of one. -/
theorem State.doLoad_traps (s : State) (n : Ins) (f : ScrForm) (sg : Bool) (u c : Nat) (v : DWord) (h : s.alone n u)
    (hs : s.pwrp.slow = false) (ht : s.trapsAt s.pack.g s.pack.w u) (hf : (s.pthr u).flagRoom (n.flagOf (s.pthr u)))
    (hb : s.load1 n f sg s.pack.g s.pack.w u = (s, .trap c v)) :
    s.doLoad n f sg = s.modT s.pack.g s.pack.w u (fun y => y.takeTrap s.pwrp.kd.trap c v) := by
  rw [State.doLoad, s.inTurn_traps n _ u c v h hf hb ht noChk rfl, s.slowDone_modT u _ h.1 hs]

/-- Settles O27: the check of the address, and the first word in conflict. -/
theorem scratchAccessesTrap : Obligations.ScratchAccessesTrap := by
  refine ⟨?_, ?_⟩
  · intro i n s u hi hop h hs ht hf f x off ha hb hbad
    rw [exec_of_insOf i n s hi]
    congr 1
    have hops : (n.op = .lds ∨ n.op = .ldsa) ∨ (n.op = .sts ∨ n.op = .stsr) ∨ n.op = .atms := by simpa [or_assoc] using hop
    rcases hops with hl | hl | hl
    · have hna : n.op ≠ .atms := by rcases hl with h | h <;> simp [h]
      have hbad : off % f.al ≠ 0 ∨ s.pgrp.scrSize < off + f.w * f.n := by
        rcases hbad with h | h | ⟨h1, h2, _⟩
        · exact .inl h
        · exact .inr h
        · exact absurd hl (not_or.mpr ⟨h1, h2⟩)
      rw [show off = n.scrOff (s.pthr u) from if_neg hna, show f = n.form by simp [f, Ins.form, hna]] at *
      obtain ⟨sg, hr⟩ := s.run_load n hl
      rw [hr]
      exact s.doLoad_traps n _ sg u _ _ h hs ht hf (s.load1_bad n _ sg _ _ _ (n.scrAddr_clean _ ha (hb hna))
        ((Group.scrOk_false _ _ _ _).mpr hbad))
    · have hna : n.op ≠ .atms := by rcases hl with h | h <;> simp [h]
      rw [show off = n.scrOff (s.pthr u) from if_neg hna, show f = n.form by simp [f, Ins.form, hna]] at *
      rw [s.run_store n hl, State.doStore, s.inTurn_checked n _ _ u _ _ h (chkStore_bad s n _ _ _ _ ?_) ht,
        s.slowDone_modT u _ h.1 hs]
      rw [Group.scrOk_false, or_assoc]
      exact hbad.imp_right (fun h => h.imp_right (fun h => h.2.2))
    · rw [show off = ((s.pthr u).reg n.a).v.toNat from if_pos hl,
        show f = ⟨n.w / 8, 1, n.w / 8, n.mb 6 2, n.mb 3 3⟩ by simp [f, hl]] at *
      simp only [Nat.mul_one] at hbad
      simp only [State.run, hl, State.doAtms]
      rw [s.inTurn_checked n _ _ u _ _ h (chkAtms_bad s n _ _ _ ?_) ht, s.slowDone_modT u _ h.1 hs]
      rw [Group.scrOk_false, or_assoc]
      exact hbad.imp_right (fun h => h.imp_right (fun h => h.2.2))
  · intro i n s u k v hi hop h hs ht hf hlen f st x me off ha hb htsm hord hal hsz hxb hh hk hm hfirst
    rw [exec_of_insOf i n s hi]
    congr 1
    have hu : u < 32 := Nat.lt_of_lt_of_le (h.2.1.1.2.2.2.2 u (by simp [h.1])).1 hlen
    have hby : (s.pgrp.byTid me).tsm = 1 := by rw [Group.byTid_tid _ _ _ hu]; exact htsm
    have htrap := fun sub hm hf => s.pgrp.tsTrap_first me off (f.w * f.n) k v st sub hby hk hm hf
    have hok := (Group.scrOk_iff s.pgrp off (f.w * f.n) f.al).mpr ⟨hal, hsz⟩
    have hops : (n.op = .lds ∨ n.op = .ldsa) ∨ n.op = .sts ∨ n.op = .stsr := by simpa [or_assoc] using hop
    rw [show f = n.form from rfl] at *
    rcases hops with hl | hl
    · have hst : st = false := by rcases hl with h | h <;> simp [st, h]
      rw [hst] at htrap hh hm hfirst
      obtain ⟨sg, hr⟩ := s.run_load n hl
      rw [hr]
      refine s.doLoad_traps n _ sg u _ _ h hs ht hf (s.load1_conflict n _ sg _ _ _ _ _ (n.scrAddr_clean _ ha hb) hord hok hh ?_)
      exact htrap false hm hfirst
    · have hst : st = true := by rcases hl with h | h <;> simp [st, h]
      rw [hst] at htrap hh hm hfirst
      have hbody := s.store1_conflict n n.form _ _ _ _ _ hord hh (htrap _ hm hfirst)
      rw [s.run_store n hl, State.doStore, s.inTurn_traps n (fun s g w t => s.store1 n n.form g w t) u _ _ h hf hbody ht _
        (chkStore_none s n _ _ _ _ hok (hxb hst)), s.slowDone_modT u _ h.1 hs]

end Sys2Proof.Machine
end

section
/-! ## What an access of scratch, a release, an acquire and a barrier leave alone

Frames: the threads of the machine keep their files and their places, and the pack moves past its instruction. -/
namespace Sys2Proof.Machine

/-! ### Threads at any place of a changed state -/

/-- A change of one workgroup within a relation of its threads. -/
theorem State.modG_threads (R : Thread → Thread → Prop) (refl : ∀ x, R x x) (s : State) (g : Nat) (f : Group → Group)
    (hf : (s.grp g).Threads R (f (s.grp g))) (a b v : Nat) : R (s.thr a b v) ((s.modG g f).thr a b v) :=
  modAt_getD_rel (fun x y : Group => R ((x.wrp b).thr v) ((y.wrp b).thr v)) (fun _ => refl _) s.groups g f Group.void a (hf b v)

/-- A change of one thread within a relation. -/
theorem State.modT_threads (R : Thread → Thread → Prop) (refl : ∀ x, R x x) (s : State) (g w u : Nat) (f : Thread → Thread)
    (hf : R (s.thr g w u) (f (s.thr g w u))) (a b v : Nat) : R (s.thr a b v) ((s.modT g w u f).thr a b v) :=
  s.modG_threads R refl g _ (Group.By.modT refl (s.grp g) w u f hf).threads a b v

/-- A thread that is Ready exists. -/
theorem State.exists_of_ready (s : State) (g w u : Nat) (h : (s.thr g w u).ready = true) :
    g < s.groups.length ∧ w < (s.grp g).warps.length ∧ u < (s.wrp g w).threads.length := by
  have hu : u < (s.wrp g w).threads.length := by
    refine Nat.lt_of_not_le (fun hu => ?_)
    rw [State.thr, Warp.thr, List.getD_eq_default _ _ hu] at h
    exact absurd h (by decide)
  have hw : w < (s.grp g).warps.length := by
    refine Nat.lt_of_not_le (fun hw => ?_)
    rw [State.wrp, Group.wrp, List.getD_eq_default _ _ hw] at hu
    exact absurd hu (by simp [Warp.void, Warp.new])
  refine ⟨Nat.lt_of_not_le (fun hg => ?_), hw, hu⟩
  rw [State.grp, List.getD_eq_default _ _ hg] at hw
  exact absurd hw (by simp [Group.void])

theorem State.thr_modT_same (s : State) (g w u : Nat) (f : Thread → Thread) (h : (s.thr g w u).ready = true) :
    (s.modT g w u f).thr g w u = f (s.thr g w u) := by
  obtain ⟨hg, hw, hu⟩ := s.exists_of_ready g w u h
  rw [State.modT_eq_mapThr, State.thr_mapThr s g w _ u hg hw hu]
  simp

theorem State.wrp_modW_same (s : State) (g w : Nat) (f : Warp → Warp) (hg : g < s.groups.length)
    (hw : w < (s.grp g).warps.length) : (s.modW g w f).wrp g w = f (s.wrp g w) := by
  rw [State.wrp, State.modW, State.grp_modG_same _ _ _ hg]
  exact modAt_getD_same _ _ _ _ hw

/-- Two changes of a warp that agree on it are one. -/
theorem State.modW_congr (s : State) (g w : Nat) (f k : Warp → Warp) (h : f (s.wrp g w) = k (s.wrp g w)) :
    s.modW g w f = s.modW g w k := by
  unfold State.modW State.modG
  congr 1
  refine modAt_congr (d := Group.void) _ _ _ _ ?_
  unfold Group.modW
  congr 1
  exact modAt_congr (d := Warp.void) _ _ _ _ h

/-! ### What stands near a thread and a state -/

/-- `y` is `x` but for what the Touchstone and the spin detector keep of a thread, and for its scheduling state where it is
not Ready. -/
def Thread.Near (x y : Thread) : Prop :=
  (∃ sc a b c d e f k, y = { x with
    sched := sc, sAll := a, sSet := b, lSet := c, lFull := d, spinCh := e, spinN := f, demoted := k })
  ∧ (x.sched = .ready → y.sched = .ready)

section
variable {x y z : Thread}

theorem Thread.Near.refl (x : Thread) : x.Near x := ⟨⟨_, _, _, _, _, _, _, _, rfl⟩, id⟩
theorem Thread.Near.trans (h : x.Near y) (k : y.Near z) : x.Near z := by
  obtain ⟨⟨_, _, _, _, _, _, _, _, rfl⟩, hs⟩ := h
  obtain ⟨⟨sc, a, b, c, d, e, f, m, rfl⟩, ks⟩ := k
  exact ⟨⟨sc, a, b, c, d, e, f, m, rfl⟩, ks ∘ hs⟩
theorem Thread.Near.sameFiles (h : x.Near y) : y.sameFiles x := by
  obtain ⟨⟨_, _, _, _, _, _, _, _, rfl⟩, _⟩ := h
  exact ⟨rfl, rfl, rfl, rfl, rfl, rfl, rfl⟩
theorem Thread.Near.flags (h : x.Near y) : y.f = x.f := by
  obtain ⟨⟨_, _, _, _, _, _, _, _, rfl⟩, _⟩ := h
  rfl
theorem Thread.Near.after (h : x.Near y) (n : Nat) : y.after n = x.after n := by
  obtain ⟨⟨_, _, _, _, _, _, _, _, rfl⟩, _⟩ := h
  rfl
theorem Thread.Near.ready (h : x.Near y) (hr : x.ready = true) : y.ready = true := by
  simp only [Thread.ready, beq_iff_eq] at *
  exact h.2 hr
theorem Thread.TsOnly.near (h : x.TsOnly y) : x.Near y := by
  obtain ⟨_, _, _, _, rfl⟩ := h
  exact ⟨⟨_, _, _, _, _, _, _, _, rfl⟩, id⟩
theorem Thread.BarOnly.near (h : x.BarOnly y) : x.Near y := by
  refine ⟨?_, fun hr => ?_⟩
  · obtain ⟨⟨_, _, _, _, _, rfl⟩, _⟩ := h
    exact ⟨_, _, _, _, _, _, _, _, rfl⟩
  · rw [h.sched (by simp [hr]), hr]

end

/-- Registers of a file written in order. -/
def regsSet (m : FMap Val) (l : List (Nat × Val)) : FMap Val :=
  l.foldl (fun m r => if r.1 < 255 then FMap.set Val.zero m r.1 r.2 else m) m
/-- Predicates of a file written in order. -/
def predsSet (m : FMap PVal) (l : List (Nat × PVal)) : FMap PVal :=
  l.foldl (fun m r => if r.1 < 7 then FMap.set PVal.zero m r.1 r.2 else m) m

theorem Thread.setRegs_eq (x : Thread) (l : List (Nat × Val)) : x.setRegs l = { x with g := regsSet x.g l } := by
  induction l generalizing x with
  | nil => rfl
  | cons r l ih =>
    rw [Thread.setRegs, ih]
    by_cases h : r.1 < 255 <;> simp [Thread.setReg, regsSet, h]

theorem Thread.setPreds_eq (x : Thread) (l : List (Nat × PVal)) : x.setPreds l = { x with p := predsSet x.p l } := by
  induction l generalizing x with
  | nil => rfl
  | cons r l ih =>
    rw [Thread.setPreds, ih]
    by_cases h : r.1 < 7 <;> simp [Thread.setPred, predsSet, h]

/-- What a register effect writes of a thread. -/
theorem Thread.apply_eq (x : Thread) (e : Eff) : x.apply e = { x with
    g := regsSet x.g e.g, p := predsSet x.p e.p, status := x.status ||| (e.x.setWidth 32 <<< 8),
    spinCh := x.spinCh || e.changes x } := by
  rw [Thread.apply, Thread.setPreds_eq, Thread.setRegs_eq]

/-- A thread near another, behind an effect and past its instruction (R10). -/
theorem Thread.Near.movedOn {x y : Thread} (h : x.Near y) (hr : x.ready = true) (e : Eff) (n : Nat) :
    x.movedOn ((y.apply e).advance n) e n := by
  have hs : y.sched = x.sched := by
    have hx : x.sched = .ready := by simpa [Thread.ready] using hr
    rw [h.2 hx, hx]
  obtain ⟨⟨_, _, _, _, _, _, _, _, rfl⟩, _⟩ := h
  rw [Thread.apply_eq, Thread.movedOn, Thread.apply_eq]
  exact ⟨⟨rfl, rfl, rfl, rfl, rfl, rfl, rfl⟩, rfl, rfl, rfl, hs⟩

/-- `t` is `s` but for what lies beside memory, the pack in issue and the files of the threads; each thread stands near
itself. -/
structure State.Near (s t : State) : Prop where
  mem : t.mem = s.mem
  pack : t.pack = s.pack
  thr : ∀ a b v, (s.thr a b v).Near (t.thr a b v)

section
variable {s t r : State}

theorem State.Near.refl (s : State) : s.Near s := ⟨rfl, rfl, fun _ _ _ => .refl _⟩
theorem State.Near.trans (h : s.Near t) (k : t.Near r) : s.Near r :=
  ⟨k.mem.trans h.mem, k.pack.trans h.pack, fun a b v => (h.thr a b v).trans (k.thr a b v)⟩
theorem State.Near.of_groups (hm : t.mem = s.mem) (hp : t.pack = s.pack) (hg : t.groups = s.groups) : s.Near t :=
  ⟨hm, hp, fun a b v => by
    rw [show t.thr a b v = s.thr a b v by simp only [State.thr, State.wrp, State.grp, hg]]
    exact .refl _⟩
theorem State.DiesOnly.near (h : s.DiesOnly t) : s.Near t := .of_groups h.mem h.pack h.groups
theorem State.Near.modG (s : State) (g : Nat) (f : Group → Group) (hf : (s.grp g).Threads Thread.Near (f (s.grp g))) :
    s.Near (s.modG g f) := ⟨rfl, rfl, s.modG_threads Thread.Near .refl g f hf⟩
theorem State.Near.modT (s : State) (g w u : Nat) (f : Thread → Thread) (hf : (s.thr g w u).Near (f (s.thr g w u))) :
    s.Near (s.modT g w u f) := ⟨rfl, rfl, s.modT_threads Thread.Near .refl g w u f hf⟩
theorem State.Near.keepsElse (h : s.Near t) (g w : Nat) (ts : List Nat) : s.keepsElse t g w ts :=
  ⟨h.mem, fun a b v _ => (h.thr a b v).sameFiles⟩
end

/-- A warp changed in what is no thread. -/
theorem State.modW_near (s : State) (g w : Nat) (f : Warp → Warp) (hf : (f (s.wrp g w)).threads = (s.wrp g w).threads) :
    s.Near (s.modW g w f) := by
  refine .modG s g _ (fun a b => ?_)
  refine modAt_getD_rel (fun x y : Warp => (x.thr b).Near (y.thr b)) (fun _ => .refl _) (s.grp g).warps w f Warp.void a ?_
  have hf : (f ((s.grp g).warps.getD w Warp.void)).threads = ((s.grp g).warps.getD w Warp.void).threads := hf
  rw [Warp.thr, Warp.thr, hf]
  exact .refl _

theorem State.slowDone_near (s : State) : s.Near s.slowDone := by
  unfold State.slowDone
  dsimp only
  split
  · exact .refl s
  · exact s.modW_near _ _ _ rfl

/-- A store is seen by the spin detector of its thread and its warp (R178, R179). -/
theorem State.stored_threads (R : Thread → Thread → Prop) (refl : ∀ x, R x x) (trans : ∀ {x y z}, R x y → R y z → R x z)
    (hs : ∀ x : Thread, R x { x with spinCh := true }) (hu : ∀ x : Thread, R x x.undemote) (s : State) (g w u a b v : Nat) :
    R (s.thr a b v) ((s.stored g w u).thr a b v) := by
  have h := s.modT_threads R refl g w u (fun x => { x with spinCh := true }) (hs _) a b v
  unfold State.stored
  dsimp only
  split
  · exact h
  · refine trans h (State.modG_threads R refl _ g _ (fun a b => ?_) a b v)
    refine modAt_getD_rel (fun x y : Warp => R (x.thr b) (y.thr b)) (fun _ => refl _) _ w _ Warp.void a ?_
    exact getD_map_rel R _ _ Thread.absent b hu (refl _)

theorem Thread.undemote_near (x : Thread) : x.Near x.undemote := by
  unfold Thread.undemote
  split
  · exact ⟨⟨_, _, _, _, _, _, _, _, rfl⟩, id⟩
  · exact .refl x

theorem Thread.undemote_live (x : Thread) : x.undemote.live = x.live := by
  unfold Thread.undemote
  split <;> rfl

theorem State.stored_near (s : State) (g w u : Nat) : s.Near (s.stored g w u) := by
  refine ⟨?_, ?_, fun a b v => s.stored_threads Thread.Near .refl .trans (fun x => ⟨⟨_, _, _, _, _, _, _, _, rfl⟩, id⟩)
    Thread.undemote_near g w u a b v⟩ <;>
  · unfold State.stored
    dsimp only
    split <;> rfl

/-! ### The pack moves on -/

/-- A thread elsewhere. -/
theorem State.thr_modT_other (s : State) (g w u a b v : Nat) (f : Thread → Thread) (h : ¬(a = g ∧ b = w ∧ v = u)) :
    (s.modT g w u f).thr a b v = s.thr a b v := by
  by_cases ha : a = g
  · subst ha
    refine modAt_getD_rel (fun x y : Group => (y.wrp b).thr v = (x.wrp b).thr v) (fun _ => rfl) s.groups a _ Group.void a ?_
    exact Group.modT_thr_other _ w u b v f (fun hb => h ⟨rfl, congrArg Prod.fst hb, congrArg Prod.snd hb⟩)
  · exact congrArg (fun x : Group => (x.wrp b).thr v) (modAt_getD_other _ _ _ _ _ ha)

/-- A thread behind an effect near its state: every other thread keeps its files, and the thread has moved on. -/
theorem State.Near.moves {s r : State} (h : s.Near r) (g w u : Nat) (e : Eff) (k : Nat) (hr : (s.thr g w u).ready = true) :
    s.keepsElse (r.modT g w u (fun x => (x.apply e).advance k)) g w [u]
      ∧ (s.thr g w u).movedOn ((r.modT g w u (fun x => (x.apply e).advance k)).thr g w u) e k := by
  have hn := h.thr g w u
  refine ⟨⟨h.mem, fun a b v hv => ?_⟩, ?_⟩
  · rw [r.thr_modT_other _ _ _ _ _ _ _ (by simpa using hv)]
    exact (h.thr a b v).sameFiles
  · rw [r.thr_modT_same _ _ _ _ (hn.ready hr)]
    exact hn.movedOn hr e k

/-- Where the thread has moved on by no effect, it too keeps its files. -/
theorem State.keepsElse_none {s t : State} {g w u k : Nat} (h : s.keepsElse t g w [u])
    (hm : (s.thr g w u).movedOn (t.thr g w u) Eff.none k) : s.keepsElse t g w [] := by
  refine ⟨h.1, fun a b v _ => ?_⟩
  by_cases hv : a = g ∧ b = w ∧ v = u
  · obtain ⟨rfl, rfl, rfl⟩ := hv
    have := hm.1
    rwa [Eff.none_apply] at this
  · exact h.2 a b v (by simpa using hv)

/-- A thread after a change of the threads of a warp is the thread changed, or where it stood. -/
theorem State.mapThr_threads (R : Thread → Thread → Prop) (refl : ∀ x, R x x) (s : State) (g w : Nat) (f : Nat → Thread → Thread)
    (hf : ∀ u x, R x (f u x)) (a b v : Nat) : R (s.thr a b v) ((s.mapThr g w f).thr a b v) := by
  refine s.modG_threads R refl g _ (fun b v => ?_) a b v
  refine modAt_getD_rel (fun x y : Warp => R (x.thr v) (y.thr v)) (fun _ => refl _) (s.grp g).warps w _ Warp.void b ?_
  simp only [Warp.thr, List.getD_eq_getElem?_getD, List.getElem?_mapIdx]
  cases ((s.grp g).warps[w]?.getD Warp.void).threads[v]? with
  | none => exact refl _
  | some x => exact hf v x

theorem Thread.onward_done (x : Thread) (n : Ins) (flag : Option Nat) : x.onward n flag false = x.advance n.words := by
  cases flag <;> rfl

theorem Thread.advance_sameFiles (x : Thread) (k : Nat) : (x.advance k).sameFiles x := ⟨rfl, rfl, rfl, rfl, rfl, rfl, rfl⟩

theorem Thread.sameFiles.trans {x y z : Thread} (h : x.sameFiles y) (k : y.sameFiles z) : x.sameFiles z := by
  obtain ⟨h1, h2, h3, h4, h5, h6, h7⟩ := h
  obtain ⟨k1, k2, k3, k4, k5, k6, k7⟩ := k
  exact ⟨h1.trans k1, h2.trans k2, h3.trans k3, h4.trans k4, h5.trans k5, h6.trans k6, h7.trans k7⟩

/-- The threads of a pack moved past their instruction. -/
def State.packOn (r s : State) (n : Ins) : State :=
  r.mapThr s.pack.g s.pack.w (fun u x => if u ∈ s.pack.ts then x.advance n.words else x)

/-- The pack of a state, moved on from a state near it, moves on. -/
theorem State.Near.packMoves {s r : State} (h : s.Near r) (n : Ins) (hp : s.packReady) : s.packMoves (r.packOn s n) n false := by
  refine ⟨⟨h.mem, fun a b v _ => ?_⟩, fun u hu => ?_⟩
  · refine Thread.sameFiles.trans ?_ (h.thr a b v).sameFiles
    refine r.mapThr_threads (fun x y => y.sameFiles x) (fun _ => ⟨rfl, rfl, rfl, rfl, rfl, rfl, rfl⟩) _ _ _ (fun u x => ?_) a b v
    split
    · exact x.advance_sameFiles _
    · exact ⟨rfl, rfl, rfl, rfl, rfl, rfl, rfl⟩
  · have hr := (hp.2.2.2.2 u hu).2
    have hn := h.thr s.pack.g s.pack.w u
    obtain ⟨hg, hw, hlt⟩ := r.exists_of_ready _ _ _ (hn.ready hr)
    have ht : (r.packOn s n).pthr u = (r.thr s.pack.g s.pack.w u).advance n.words := by
      rw [State.pthr, show (r.packOn s n).pack = s.pack from h.pack, State.packOn, State.thr_mapThr r _ _ _ u hg hw hlt,
        if_pos hu]
    have hm := hn.movedOn hr Eff.none n.words
    rw [Eff.none_apply] at hm
    rw [ht]
    exact ⟨hm, fun k => by simp [Thread.advance, hn.flags]⟩

/-- What a pack-once instruction that is complete when it has executed does (R213). -/
theorem State.once_done (s r : State) (n : Ins) (body : State → Nat → Nat → Nat → List Nat → Once) (h : s.together n)
    (hb : body s s.pack.g s.pack.w (s.pack.ts.headD 0) s.pack.ts = .done r) : s.once n false body = r.packOn s n := by
  rw [s.once_of n false body h.1 (fun u hu => (h.2 u hu).1) (fun u hu => (h.2 u hu).2), hb]
  simp only [Thread.onward_done]
  rfl

/-- A pack of one is a pack that takes its instruction together. -/
theorem State.alone.together {s : State} {n : Ins} {u : Nat} (h : s.alone n u) (hf : (s.pthr u).flagRoom (n.flagOf (s.pthr u))) :
    s.together n := by
  refine ⟨h.2.1, fun v hv => ?_⟩
  rw [h.1, List.mem_singleton] at hv
  subst hv
  rw [h.1]
  exact ⟨h.2.2, hf⟩

end Sys2Proof.Machine
end

section
/-! ## Bytes and tags of scratch

What the Touchstone, a write of bytes and a transfer barrier change of a workgroup. -/
namespace Sys2Proof.Machine

/-! ### The Touchstone changes tags and its sets (R195, R196) -/

/-- `y` is `x` but for its tags and what the Touchstone keeps of each thread. -/
def Group.TsOnly (x y : Group) : Prop := (∃ ts ws, y = { x with tags := ts, warps := ws }) ∧ x.By Thread.TsOnly y

section
variable {x y z : Group}

theorem Group.TsOnly.refl (x : Group) : x.TsOnly x := ⟨⟨_, _, rfl⟩, .refl .refl x⟩
theorem Group.TsOnly.trans (h : x.TsOnly y) (k : y.TsOnly z) : x.TsOnly z := by
  refine ⟨?_, .trans .trans h.2 k.2⟩
  obtain ⟨⟨_, _, rfl⟩, _⟩ := h
  obtain ⟨⟨ts, ws, rfl⟩, _⟩ := k
  exact ⟨ts, ws, rfl⟩
theorem Group.TsOnly.scr (h : x.TsOnly y) : y.scr = x.scr ∧ y.scrP = x.scrP := by
  obtain ⟨⟨_, _, rfl⟩, _⟩ := h
  exact ⟨rfl, rfl⟩
theorem Group.TsOnly.near (h : x.TsOnly y) : x.Threads Thread.Near y := fun a b => (h.2.threads a b).near
end

theorem Group.setTag_tsOnly (x : Group) (k : Nat) (t : Tag) : x.TsOnly (x.setTag k t) :=
  ⟨⟨_, _, rfl⟩, rfl, fun _ => .refl .refl _⟩

theorem Group.clearTags_tsOnly (x : Group) (off n : Nat) : x.TsOnly (x.clearTags off n) :=
  foldl_rel _ .refl .trans _ (fun x k => x.setTag_tsOnly k _) _ x

theorem Group.modTid_tsOnly (x : Group) (u : Nat) (f : Thread → Thread) (hf : ∀ t, Thread.TsOnly t (f t)) :
    x.TsOnly (x.modTid u f) := ⟨⟨_, _, rfl⟩, Group.By.modT .refl x _ _ f (hf _)⟩

theorem Thread.acquireSet_tsOnly (t : Thread) (all : Bool) (l : NSet) : t.TsOnly (t.acquireSet all l) := by
  unfold Thread.acquireSet
  split
  · exact .refl t
  · dsimp only
    split <;> exact ⟨_, _, _, _, rfl⟩

theorem Thread.listed_tsOnly (t : Thread) (v : Nat) : t.TsOnly (t.listed v) := by
  unfold Thread.listed
  split
  · exact .refl t
  · split <;> exact ⟨_, _, _, _, rfl⟩

theorem Group.tsRead_tsOnly (x : Group) (u k : Nat) (c : TsCls) : x.TsOnly (x.tsRead u k c) := by
  unfold Group.tsRead
  split
  · exact .refl x
  · split
    · exact .refl x
    · split
      · exact x.modTid_tsOnly u _ (fun t => t.acquireSet_tsOnly _ _)
      · exact x.modTid_tsOnly u _ (fun t => t.listed_tsOnly _)

theorem Group.tsAccess_tsOnly (x : Group) (u off n : Nat) (rd wr : Bool) (c : TsCls) : x.TsOnly (x.tsAccess u off n rd wr c) := by
  refine foldl_rel _ .refl .trans _ (fun x k => ?_) _ x
  have hr : x.TsOnly (if rd then x.tsRead u k c else x) := by
    split
    · exact x.tsRead_tsOnly u k c
    · exact .refl x
  dsimp only
  split
  · exact hr
  · exact hr.trans (Group.setTag_tsOnly _ _ _)

theorem Group.tsFence_tsOnly (x : Group) (u : Nat) : x.TsOnly (x.tsFence u) :=
  x.modTid_tsOnly u _ (fun t => (t.acquireSet_tsOnly _ _).trans ⟨_, _, _, _, rfl⟩)

/-! ### Bytes written (R62, R186) -/

/-- Bytes written one by one over a file of bytes. -/
theorem FMap.get_bytes (m : FMap Byte) (hm : FMap.wf 0 m = true) (off n v a : Nat) :
    FMap.wf 0 ((List.range n).foldl (fun m k => FMap.set 0 m (off + k) (BitVec.ofNat 8 (v / 256 ^ k))) m) = true
    ∧ FMap.get 0 ((List.range n).foldl (fun m k => FMap.set 0 m (off + k) (BitVec.ofNat 8 (v / 256 ^ k))) m) a
      = if off ≤ a ∧ a < off + n then BitVec.ofNat 8 (v / 256 ^ (a - off)) else FMap.get 0 m a := by
  induction n with
  | zero => exact ⟨hm, by rw [if_neg (by omega)]; rfl⟩
  | succ n ih =>
    rw [List.range_succ, List.foldl_append]
    obtain ⟨hw, hg⟩ := ih
    refine ⟨FMap.set_wf _ _ _ _ hw, ?_⟩
    by_cases ha : a = off + n
    · subst ha
      rw [List.foldl_cons, List.foldl_nil, FMap.get_set_same 0 0 _ _ _ hw, if_pos (by omega), Nat.add_sub_cancel_left]
    · rw [List.foldl_cons, List.foldl_nil, FMap.get_set_other 0 0 _ _ _ _ ha hw, hg]
      by_cases hin : off ≤ a ∧ a < off + n
      · rw [if_pos hin, if_pos (by omega)]
      · rw [if_neg hin, if_neg (by omega)]

theorem Group.wr_fields (x : Group) (off n v : Nat) (p : Bool) : ∃ a b, x.wr off n v p = { x with scr := a, scrP := b } :=
  ⟨_, _, rfl⟩

theorem Group.wr_near (x : Group) (off n v : Nat) (p : Bool) : x.Threads Thread.Near (x.wr off n v p) := fun _ _ => .refl _

/-- A byte of scratch after a write, and the file canonical as before. -/
theorem Group.wr_get (x : Group) (off n v : Nat) (p : Bool) (hm : FMap.wf 0 x.scr = true) (a : Nat) :
    FMap.wf 0 (x.wr off n v p).scr = true ∧ FMap.get 0 (x.wr off n v p).scr a
      = if off ≤ a ∧ a < off + n then BitVec.ofNat 8 (v / 256 ^ (a - off)) else FMap.get 0 x.scr a :=
  FMap.get_bytes x.scr hm off n v a

theorem NSet.has_del (l : NSet) (k j : Nat) : NSet.has (NSet.del l k) j = (NSet.has l j && decide (j ≠ k)) := by
  rw [Bool.eq_iff_iff]
  simp [NSet.has, NSet.del]

theorem NSet.has_add (l : NSet) (k j : Nat) : NSet.has (NSet.add l k) j = (decide (j = k) || NSet.has l j) := by
  have hx : ∀ x : Nat, (x == j) = decide (j = x) := fun x => by rw [beq_eq_decide]; exact decide_eq_decide.mpr eq_comm
  induction l with
  | nil => simp [NSet.has, NSet.add, hx]
  | cons x l ih =>
    by_cases h1 : k = x
    · subst h1; simp [NSet.has, NSet.add, hx]
    · by_cases h2 : k < x
      · simp [NSet.has, NSet.add, h1, h2, hx]
      · simp only [NSet.has, List.any_cons, hx] at ih ⊢
        simp only [NSet.add, if_neg h1, if_neg h2, List.any_cons, ih, Bool.or_left_comm]

/-- A whole clean word written clears its own poison alone (R62). -/
theorem Group.wr_word_psn (x : Group) (off v k : Nat) (h : off % 4 = 0) :
    NSet.has (x.wr off 4 v false).scrP k = (NSet.has x.scrP k && decide (k ≠ off / 4)) := by
  have hw : wordsOf off 4 = [off / 4] := by
    rw [wordsOf, show (off + 4 + 3) / 4 - off / 4 = 1 by omega]; rfl
  have : (x.wr off 4 v false).scrP = NSet.del x.scrP (off / 4) := by
    simp only [Group.wr, hw, List.foldl_cons, List.foldl_nil, Bool.false_eq_true, if_false]
    exact if_pos (by omega)
  rw [this, NSet.has_del]

/-! ### Numbers in scratch -/

theorem leNat_congr (b c : Nat → Byte) (off n : Nat) (h : ∀ k, off ≤ k → k < off + n → b k = c k) :
    leNat b off n = leNat c off n := by
  induction n generalizing off with
  | zero => rfl
  | succ n ih =>
    rw [leNat, leNat, h off (Nat.le_refl _) (by omega), ih (off + 1) (fun k h1 h2 => h k (by omega) (by omega))]

/-- The number that its own bytes make. -/
theorem leNat_bytes (b : Nat → Byte) (off n v : Nat) (h : ∀ k, k < n → b (off + k) = BitVec.ofNat 8 (v / 256 ^ k)) :
    leNat b off n = v % 256 ^ n := by
  induction n generalizing off v with
  | zero => simp [leNat, Nat.mod_one]
  | succ n ih =>
    have h0 := h 0 (by omega)
    rw [Nat.add_zero, Nat.pow_zero, Nat.div_one] at h0
    rw [leNat, h0, ih (off + 1) (v / 256), BitVec.toNat_ofNat, show 256 ^ (n + 1) = 256 * 256 ^ n from Nat.pow_succ', Nat.mod_mul]
    intro k hk
    rw [Nat.div_div_eq_div_mul, ← Nat.pow_succ', ← h (k + 1) (by omega), Nat.add_assoc, Nat.add_comm 1 k]

theorem leNat_lt (b : Nat → Byte) (off n : Nat) : leNat b off n < 256 ^ n := by
  induction n generalizing off with
  | zero => simp [leNat]
  | succ n ih =>
    have h1 := ih (off + 1)
    have h2 := (b off).isLt
    rw [leNat, Nat.pow_succ]
    omega

/-- A number written reads back. -/
theorem Group.rd_wr_same (x : Group) (off n v : Nat) (p : Bool) (hm : FMap.wf 0 x.scr = true) :
    (x.wr off n v p).rd off n = v % 256 ^ n :=
  leNat_bytes _ off n v (fun k hk => by
    rw [(x.wr_get off n v p hm _).2, if_pos (by omega), Nat.add_sub_cancel_left])

/-- A number elsewhere reads as before. -/
theorem Group.rd_wr_other (x : Group) (off n v a m : Nat) (p : Bool) (hm : FMap.wf 0 x.scr = true)
    (h : a + m ≤ off ∨ off + n ≤ a) : (x.wr off n v p).rd a m = x.rd a m :=
  leNat_congr _ _ a m (fun k h1 h2 => by rw [(x.wr_get off n v p hm k).2, if_neg (by omega)])

end Sys2Proof.Machine
end

section
/-! ## Shape registers (O32) -/
namespace Sys2Proof.Machine

/-! ### What stands beside the warps of a workgroup -/

/-- `y` is `x` but for its warps. -/
def Group.WarpsOnly (x y : Group) : Prop := ∃ ws, y = { x with warps := ws }

section
variable {x y z : Group}
theorem Group.WarpsOnly.refl (x : Group) : x.WarpsOnly x := ⟨_, rfl⟩
theorem Group.WarpsOnly.trans (h : x.WarpsOnly y) (k : y.WarpsOnly z) : x.WarpsOnly z := by
  obtain ⟨_, rfl⟩ := h
  obtain ⟨ws, rfl⟩ := k
  exact ⟨ws, rfl⟩
theorem Group.WarpsOnly.scr (h : x.WarpsOnly y) : y.scr = x.scr := by obtain ⟨_, rfl⟩ := h; rfl
theorem Group.WarpsOnly.scrP (h : x.WarpsOnly y) : y.scrP = x.scrP := by obtain ⟨_, rfl⟩ := h; rfl
end

/-- A change of a warp leaves the rest of every workgroup. -/
theorem State.modW_grp (s : State) (g w : Nat) (f : Warp → Warp) (a : Nat) : (s.grp a).WarpsOnly ((s.modW g w f).grp a) :=
  modAt_getD_rel Group.WarpsOnly .refl s.groups g (fun x => x.modW w f) Group.void a ⟨_, rfl⟩

theorem State.packOn_grp (r s : State) (n : Ins) (a : Nat) : (r.grp a).WarpsOnly ((r.packOn s n).grp a) :=
  r.modW_grp _ _ _ a

theorem State.slowDone_grp (s : State) (a : Nat) : (s.grp a).WarpsOnly (s.slowDone.grp a) := by
  unfold State.slowDone
  dsimp only
  split
  · exact .refl _
  · exact s.modW_grp _ _ _ a

/-- A store that the spin detector sees leaves what is beside the warps. -/
theorem State.stored_grp (s : State) (g w u a : Nat) : (s.grp a).WarpsOnly ((s.stored g w u).grp a) := by
  have h := s.modW_grp g w (fun x => x.mod u (fun x => { x with spinCh := true })) a
  unfold State.stored
  dsimp only
  split
  · exact h
  · exact h.trans ((s.modT g w u (fun x => { x with spinCh := true })).modW_grp g w (fun x => x.all Thread.undemote) a)

/-- The end of an access of spilled units leaves every thread and shape register (R203). -/
theorem State.slowDone_wrp (s : State) (a b : Nat) :
    (s.slowDone.wrp a b).threads = (s.wrp a b).threads ∧ (s.slowDone.wrp a b).shapes = (s.wrp a b).shapes := by
  unfold State.slowDone
  dsimp only
  split
  · exact ⟨rfl, rfl⟩
  · refine modAt_getD_rel (fun x y : Group => (y.wrp b).threads = (x.wrp b).threads ∧ (y.wrp b).shapes = (x.wrp b).shapes)
      (fun _ => ⟨rfl, rfl⟩) s.groups _ _ Group.void a ?_
    exact modAt_getD_rel (fun x y : Warp => y.threads = x.threads ∧ y.shapes = x.shapes) (fun _ => ⟨rfl, rfl⟩) _ _ _ Warp.void b
      ⟨rfl, rfl⟩

theorem State.slowDone_fields (s : State) : s.slowDone.mem = s.mem ∧ s.slowDone.pack = s.pack := by
  unfold State.slowDone
  dsimp only
  split <;> exact ⟨rfl, rfl⟩

theorem State.slowDone_thr (s : State) (a b v : Nat) : s.slowDone.thr a b v = s.thr a b v := by
  rw [State.thr, Warp.thr, (s.slowDone_wrp a b).1]
  rfl

theorem State.packMoves.slowDone {s t : State} {n : Ins} {p : Bool} (h : s.packMoves t n p) : s.packMoves t.slowDone n p := by
  obtain ⟨hm, hp⟩ := t.slowDone_fields
  unfold State.packMoves State.keepsElse State.pthr at *
  simp only [hm, hp, t.slowDone_thr]
  exact h

/-! ### Shape registers written -/

theorem Shape.setWds (l : List Nat) (f : Nat → Word) (m : FMap Word) (p : Bool) :
    l.foldl (fun h k => h.setWd k (f k)) (⟨m, p⟩ : Shape) = ⟨l.foldl (fun m k => FMap.set 0 m k (f k)) m, p⟩ := by
  induction l generalizing m with
  | nil => rfl
  | cons k l ih => exact ih _

/-- A pack whose first thread writes a shape register, behind a state that keeps the workgroup's warps but for their
threads. -/
theorem State.packOn_shapes (s r : State) (n : Ins) (v : Shape) (hp : s.packReady) (hpk : r.pack = s.pack)
    (hl : s.pack.g < r.groups.length) (hw : (s.pgrp).By Thread.Near (r.grp s.pack.g)) :
    ((r.modW s.pack.g s.pack.w (fun y => y.setShape n.d v)).packOn s n).pwrp.shapes = FMap.set Shape.zero s.pwrp.shapes n.d v := by
  have hwl : s.pack.w < (r.grp s.pack.g).warps.length := by rw [hw.1]; exact hp.2.1
  have h1 := r.wrp_modW_same s.pack.g s.pack.w (fun y => y.setShape n.d v) hl hwl
  have hpk' : ((r.modW s.pack.g s.pack.w (fun y => y.setShape n.d v)).packOn s n).pack = s.pack := hpk
  rw [State.pwrp, hpk', State.packOn, State.wrp_mapThr, h1]
  · obtain ⟨ts, hts⟩ := (hw.2 s.pack.w).1
    rw [show r.wrp s.pack.g s.pack.w = _ from hts]
    rfl
  · simpa [State.modW, State.modG] using hl
  · rw [State.modW, State.grp_modG_same _ _ _ hl]
    simpa [Group.modW] using hwl

/-- A pack-once instruction that changes a shape register alone. -/
theorem State.once_shape (s : State) (n : Ins) (body : State → Nat → Nat → Nat → List Nat → Once) (f : Warp → Warp) (v : Shape)
    (h : s.together n) (hb : body s s.pack.g s.pack.w (s.pack.ts.headD 0) s.pack.ts = .done (s.modW s.pack.g s.pack.w f))
    (hf : f s.pwrp = { s.pwrp with shapes := FMap.set Shape.zero s.pwrp.shapes n.d v }) :
    s.once n false body = (s.modW s.pack.g s.pack.w (fun y =>
      { y with shapes := FMap.set Shape.zero y.shapes n.d v })).mapPack (fun _ y => y.advance n.words) := by
  rw [s.once_done _ n body h hb, s.modW_congr s.pack.g s.pack.w f (fun y => { y with shapes := FMap.set Shape.zero y.shapes n.d v }) hf]
  rfl

theorem Shape.ofNat_wd (h : Shape) (k : Nat) : BitVec.ofNat 32 (h.wd k) = FMap.get 0 h.w k := by
  simp [Shape.wd]

/-- The word of an origin that hadv writes (R245): the named half is advanced mod 2^16, the other stands. -/
def Shape.advanced (h : Shape) (k step : Nat) : Word :=
  let old := h.wd (13 + k / 2)
  let v := ((h.org k + (step : Int)) % 65536).toNat
  BitVec.ofNat 32 (if k % 2 = 0 then old / 65536 * 65536 + v else v * 65536 + old % 65536)

/-- An origin is the half of its word, but for whole turns. -/
theorem Shape.org_mod (h : Shape) (k step : Nat) :
    ((h.org k + (step : Int)) % 65536).toNat = (h.wd (13 + k / 2) / 65536 ^ (k % 2) + step) % 65536 := by
  have hb : (h.org k) % 65536 = ((h.wd (13 + k / 2) / 65536 ^ (k % 2) : Nat) : Int) % 65536 := by
    rw [Shape.org, BitVec.toInt_eq_toNat_bmod]
    refine (Int.bmod_emod (x := _) (m := 65536)).trans ?_
    simp
  rw [Int.add_emod, hb, ← Int.add_emod]
  omega

theorem Shape.wd_lt (h : Shape) (k : Nat) : h.wd k < 2 ^ 32 := (FMap.get 0 h.w k).isLt

theorem Shape.advanced_half (h : Shape) (k step j : Nat) (hj : j < 2) :
    (h.advanced k step).toNat / 65536 ^ j % 65536 = if k % 2 = j then (h.wd (13 + k / 2) / 65536 ^ j + step) % 65536
      else h.wd (13 + k / 2) / 65536 ^ j % 65536 := by
  have hlt := h.wd_lt (13 + k / 2)
  rw [Shape.advanced, h.org_mod]
  generalize h.wd (13 + k / 2) = old at *
  rw [BitVec.toNat_ofNat]
  rcases Nat.mod_two_eq_zero_or_one k with hk | hk <;> rw [hk] <;>
    rcases (show j = 0 ∨ j = 1 by omega) with rfl | rfl <;> simp only [Nat.pow_zero, Nat.pow_one, if_true, if_false, one_ne_zero, zero_ne_one, Nat.div_one] <;> omega

/-! ### Windows (R228) -/

/-- The bytes of a window, where each is read and those beyond the bound are poisoned zeros. -/
theorem State.winRead_of (s : State) (g : Nat) (win : Nat × Nat) (l : List (Byte × Bool)) (off : Nat)
    (hin : ∀ k, k < l.length → off + k < win.2 →
      s.readB (s.grp g).die (s.grp g).vdev (win.1 + (off + k)) = .ok (l.getD k (0, false)))
    (hout : ∀ k, k < l.length → win.2 ≤ off + k → l.getD k (0, false) = (0, true)) :
    s.winRead g win off l.length = .ok l := by
  induction l generalizing off with
  | nil => rfl
  | cons b l ih =>
    have hb : (if off < win.2 then s.readB (s.grp g).die (s.grp g).vdev (win.1 + off) else .ok (0, true)) = .ok b := by
      split
      · next h => exact hin 0 (by simp) h
      · next h => exact congrArg Except.ok (hout 0 (by simp) (Nat.le_of_not_lt h)).symm
    have hl := ih (off + 1)
      (fun k hk h => by
        have := hin (k + 1) (by simpa using hk) (by omega)
        rwa [show off + (k + 1) = off + 1 + k by omega, List.getD_cons_succ] at this)
      (fun k hk h => by
        have := hout (k + 1) (by simpa using hk) (by omega)
        rwa [List.getD_cons_succ] at this)
    simp only [List.length_cons, State.winRead, hb, hl]

/-- What a die has sent to the pages of a window's bytes performed. -/
def State.winSent (s : State) (g : Nat) (a m : Nat) : State :=
  (List.range m).foldl (fun r j => r.drainTo (s.grp g).die (s.grp g).vdev (a + j)) s

theorem State.winSent_memOnly (s : State) (g a m : Nat) : s.MemOnly (s.winSent g a m) :=
  .foldl _ (fun r _ => r.drainTo_memOnly _ _ _) _ s

/-- A read of a window that is answered: what was sent stands before it, and nothing else changes but the dies (R333). -/
theorem State.winFill_of (s : State) (g : Nat) (win : Nat × Nat) (off n : Nat) (l : List (Byte × Bool)) (c : State)
    (hn : l.length = n) (hin : ∀ k, k < n → off + k < win.2 → (s.winSent g (win.1 + off) (min n (win.2 - off))).readB
      (s.grp g).die (s.grp g).vdev (win.1 + (off + k)) = .ok (l.getD k (0, false)))
    (hout : ∀ k, k < n → win.2 ≤ off + k → l.getD k (0, false) = (0, true))
    (hc : (s.winSent g (win.1 + off) (min n (win.2 - off))).charge (s.grp g).die (s.grp g).vdev
      (if min n (win.2 - off) = 0 then [] else [⟨win.1 + off, min n (win.2 - off), .read⟩]) = .ok c) :
    ∃ t, s.winFill g win off n = .ok (t, l) ∧ (s.winSent g (win.1 + off) (min n (win.2 - off))).DiesOnly t := by
  subst hn
  have hg := (s.winSent_memOnly g (win.1 + off) (min l.length (win.2 - off))).groups
  have hr := (s.winSent g (win.1 + off) (min l.length (win.2 - off))).winRead_of g win l off
    (by rw [State.grp, hg]; exact hin) hout
  refine ⟨c.touchReqs (s.grp g).die (s.grp g).vdev (if min l.length (win.2 - off) = 0 then []
    else [⟨win.1 + off, min l.length (win.2 - off), .read⟩]), ?_,
    (State.charge_diesOnly _ _ _ _ _ hc).trans (c.touchReqs_diesOnly _ _ _)⟩
  unfold State.winFill
  rw [State.winSent] at hr hc
  simp only [hr, hc]

/-! ### A shape register stored (R245) -/

/-- Words written one behind the other. -/
def Group.putWords (x : Group) (off : Nat) (v : Nat → Nat) (m : Nat) : Group :=
  (List.range m).foldl (fun x k => x.wr (off + 4 * k) 4 (v k) false) x

theorem Group.putWords_succ (x : Group) (off : Nat) (v : Nat → Nat) (m : Nat) :
    x.putWords off v (m + 1) = (x.putWords off v m).wr (off + 4 * m) 4 (v m) false := by
  simp [Group.putWords, List.range_succ]

theorem Group.putWords_fields (x : Group) (off : Nat) (v : Nat → Nat) (m : Nat) :
    ∃ a b, x.putWords off v m = { x with scr := a, scrP := b } := by
  induction m with
  | zero => exact ⟨_, _, rfl⟩
  | succ m ih =>
    obtain ⟨a, b, h⟩ := ih
    rw [Group.putWords_succ, h]
    exact ⟨_, _, rfl⟩

theorem Group.putWords_get (x : Group) (off : Nat) (v : Nat → Nat) (m : Nat) (hm : FMap.wf 0 x.scr = true) (a : Nat) :
    FMap.wf 0 (x.putWords off v m).scr = true ∧ FMap.get 0 (x.putWords off v m).scr a
      = if off ≤ a ∧ a < off + 4 * m then BitVec.ofNat 8 (v ((a - off) / 4) / 256 ^ ((a - off) % 4)) else FMap.get 0 x.scr a := by
  induction m with
  | zero => exact ⟨hm, by rw [if_neg (by omega)]; rfl⟩
  | succ m ih =>
    obtain ⟨hw, hg⟩ := ih
    have h := (x.putWords off v m).wr_get (off + 4 * m) 4 (v m) false hw a
    rw [Group.putWords_succ]
    refine ⟨h.1, ?_⟩
    rw [h.2, hg]
    by_cases h1 : off + 4 * m ≤ a ∧ a < off + 4 * m + 4
    · rw [if_pos h1, if_pos (by omega), show (a - off) / 4 = m by omega, show (a - off) % 4 = a - (off + 4 * m) by omega]
    · rw [if_neg h1]
      by_cases h2 : off ≤ a ∧ a < off + 4 * m
      · rw [if_pos h2, if_pos (by omega)]
      · rw [if_neg h2, if_neg (by omega)]

theorem Group.putWords_psn (x : Group) (off : Nat) (v : Nat → Nat) (m k : Nat) (h : off % 4 = 0) :
    NSet.has (x.putWords off v m).scrP k = (NSet.has x.scrP k && !decide (off ≤ 4 * k ∧ 4 * k + 4 ≤ off + 4 * m)) := by
  induction m with
  | zero => rw [decide_eq_false (by omega)]; simp [Group.putWords]
  | succ m ih =>
    rw [Group.putWords_succ, Group.wr_word_psn _ _ _ _ (by omega), ih, Bool.and_assoc]
    congr 1
    rw [← decide_not, ← decide_not, ← Bool.decide_and]
    exact decide_eq_decide.mpr (by omega)

theorem Group.markDirty_fields (x : Group) (off n : Nat) : ∃ sp, x.markDirty off n = { x with spans := sp } := ⟨_, rfl⟩

/-- The byte of a word. -/
theorem ofNat_byte (v : Word) (j : Nat) : BitVec.ofNat 8 (v.toNat / 256 ^ j) = v.extractLsb' (8 * j) 8 := by
  apply BitVec.eq_of_toNat_eq
  rw [BitVec.toNat_ofNat, BitVec.extractLsb'_toNat, Nat.shiftRight_eq_div_pow, show 256 ^ j = 2 ^ (8 * j) by rw [Nat.pow_mul]]

/-- A plain access that conflicts nowhere, or of a thread whose TSM is not 1, takes no trap (R20, R196). -/
theorem Group.tsTrap_none (x : Group) (u off n : Nat) (write sub : Bool)
    (h : (x.byTid u).tsm ≠ 1 ∨ x.tsFree u off n write sub) : x.tsTrap u off n write (plainCls sub) = none := by
  rw [Group.tsTrap]
  split
  · rfl
  · next ht =>
    rw [List.findSome?_eq_none_iff]
    intro k hk
    rw [Option.map_eq_none_iff, Option.eq_none_iff_forall_ne_some]
    exact fun y hy => (h.resolve_left ht) k hk y ((x.tsConflict_iff u k y write sub).mp hy)

/-- A warp of a workgroup whose files are canonical has at most 32 threads, and its scratch is canonical. -/
theorem Group.filesWf_spec (x : Group) (h : x.filesWf = true) :
    FMap.wf 0 x.scr = true ∧ ∀ w, (x.wrp w).threads.length ≤ 32 := by
  simp only [Group.filesWf, Bool.and_eq_true, List.all_eq_true, decide_eq_true_eq] at h
  refine ⟨h.1.1.1, fun w => ?_⟩
  by_cases hw : w < x.warps.length
  · rw [Group.wrp, List.getD_eq_getElem _ _ hw]
    exact (h.2 _ (List.getElem_mem hw)).1
  · rw [Group.wrp, List.getD_eq_default _ _ (Nat.le_of_not_lt hw)]
    simp [Warp.void, Warp.new]

theorem State.modG_length (s : State) (g : Nat) (f : Group → Group) : (s.modG g f).groups.length = s.groups.length := by
  rw [State.modG_groups', modAt_length]

/-- The words of a shape register loaded from bytes (R245). -/
def shapeOf (b : Nat → Byte) (p : Bool) : Shape :=
  ⟨(List.range 16).foldl (fun m k => FMap.set 0 m k (BitVec.ofNat 32 (leNat b (4 * k) 4))) [], p⟩

theorem shapeOf_eq (b : Nat → Byte) (p : Bool) :
    (List.range 16).foldl (fun h k => h.setWd k (BitVec.ofNat 32 (leNat b (4 * k) 4))) (⟨[], p⟩ : Shape) = shapeOf b p :=
  Shape.setWds _ _ _ _

/-- The words of zeros. -/
theorem shapeOf_zero : shapeOf (fun _ => 0) true = ⟨[], true⟩ := by decide

theorem State.tsAccess_near (s : State) (g u off n : Nat) (rd wr : Bool) (c : TsCls) :
    s.Near (s.modG g (fun x => x.tsAccess u off n rd wr c)) :=
  .modG s g (fun x => x.tsAccess u off n rd wr c) ((s.grp g).tsAccess_tsOnly u off n rd wr c).near

/-- A pack past its instruction, as far as it is no warp. -/
theorem State.packOn_slowDone_grp (r s : State) (n : Ins) (a : Nat) : (r.grp a).WarpsOnly ((r.packOn s n).slowDone.grp a) :=
  (r.packOn_grp s n a).trans ((r.packOn s n).slowDone_grp a)

/-- A pack whose first thread loads a shape register, behind a state near its own. -/
theorem State.hld_moves (s r q : State) (n : Ins) (v : Shape) (hp : s.packReady) (hq : q.Near r) (hqs : q.pack = s.pack)
    (hqr : q.packReady) (hl : r.groups.length = s.groups.length) (hw : s.pgrp.By Thread.Near (r.grp s.pack.g)) :
    q.packMoves ((r.modW s.pack.g s.pack.w (fun y => y.setShape n.d v)).packOn s n).slowDone n false
      ∧ ((r.modW s.pack.g s.pack.w (fun y => y.setShape n.d v)).packOn s n).slowDone.pwrp.shapes
        = FMap.set Shape.zero s.pwrp.shapes n.d v
      ∧ (((r.modW s.pack.g s.pack.w (fun y => y.setShape n.d v)).packOn s n).slowDone.grp s.pack.g).scr = (r.grp s.pack.g).scr := by
  have hpk : r.pack = s.pack := hq.pack.trans hqs
  have hn : q.Near (r.modW s.pack.g s.pack.w (fun y => y.setShape n.d v)) := hq.trans (r.modW_near _ _ _ rfl)
  refine ⟨State.packMoves.slowDone ?_, ?_, ?_⟩
  · have := hn.packMoves n hqr
    unfold State.packOn at this ⊢
    rwa [hqs] at this
  · rw [State.pwrp, (State.slowDone_fields _).2, (State.slowDone_wrp _ _ _).2]
    exact s.packOn_shapes r n v hp hpk (by rw [hl]; exact hp.1) hw
  · exact ((r.modW_grp s.pack.g s.pack.w (fun y => y.setShape n.d v) s.pack.g).trans (State.packOn_slowDone_grp _ s n _)).scr

/-- hld by a poisoned address makes no access (R26, R63). -/
theorem State.doHld_poisoned (s : State) (n : Ins) (ht : s.together n) (hs : s.pwrp.slow = false)
    (hp : ((s.pthr (s.pack.ts.headD 0)).reg n.a).p = true) :
    s.doHld n = (s.modW s.pack.g s.pack.w (fun y => { y with shapes := FMap.set Shape.zero y.shapes n.d ⟨[], true⟩ })).mapPack
      (fun _ y => y.advance n.words) := by
  have hp : ((s.thr s.pack.g s.pack.w (s.pack.ts.headD 0)).reg n.a).p = true := hp
  unfold State.doHld
  rw [s.once_shape n _ (fun y => y.setShape n.d (shapeOf (fun _ => 0) true)) ⟨[], true⟩ ht ?_ (by rw [shapeOf_zero]; rfl)]
  · refine State.slowDone_mapPack _ _ ?_
    rw [State.pwrp, State.modW_pack, State.wrp_modW_same _ _ _ _ ht.1.1.1 ht.1.1.2.1]
    exact hs
  · simp only [hp, if_true, shapeOf_eq]

/-- hld of scratch whose checks pass (R245). -/
theorem State.doHld_scratch (s : State) (n : Ins) (off : Nat) (ht : s.together n)
    (ho : off = (((s.pthr (s.pack.ts.headD 0)).reg n.a).v.toNat + n.immZ) % 2 ^ 32)
    (hp : ((s.pthr (s.pack.ts.headD 0)).reg n.a).p = false) (hm : n.f.m.getLsbD 3 = false) (hok : s.pgrp.scrOk off 64 16 = true)
    (hh : s.packHold s.pack.g s.pack.w s.pack.ts off 64 false = none)
    (hc : s.pgrp.tsTrap (tid s.pack.w (s.pack.ts.headD 0)) off 64 false .plain = none) :
    s.doHld n = (((s.modG s.pack.g (fun x => x.tsAccess (tid s.pack.w (s.pack.ts.headD 0)) off 64 true false .plain)).modW s.pack.g
      s.pack.w (fun y => y.setShape n.d (shapeOf (fun k => FMap.get 0 s.pgrp.scr (off + k)) (s.pgrp.rdPsn off 64)))).packOn s n).slowDone := by
  have hp : ((s.thr s.pack.g s.pack.w (s.pack.ts.headD 0)).reg n.a).p = false := hp
  have ho : (((s.thr s.pack.g s.pack.w (s.pack.ts.headD 0)).reg n.a).v.toNat + n.immZ) % 2 ^ 32 = off := ho.symm
  have hok : (s.grp s.pack.g).scrOk off 64 16 = true := hok
  have hc : (s.grp s.pack.g).tsTrap (tid s.pack.w (s.pack.ts.headD 0)) off 64 false .plain = none := hc
  unfold State.doHld
  rw [s.once_done _ n _ ht ?_]
  simp only [hp, ho, hm, hok, hh, hc, shapeOf_eq, Bool.not_true, Bool.false_eq_true, if_false]

/-- The pack whose hld reads scratch moves on with the words read (R245). -/
theorem State.doHld_scratch_moves (s : State) (n : Ins) (off : Nat) (ht : s.together n)
    (ho : off = (((s.pthr (s.pack.ts.headD 0)).reg n.a).v.toNat + n.immZ) % 2 ^ 32)
    (hp : ((s.pthr (s.pack.ts.headD 0)).reg n.a).p = false) (hm : n.f.m.getLsbD 3 = false) (hok : s.pgrp.scrOk off 64 16 = true)
    (hh : s.packHold s.pack.g s.pack.w s.pack.ts off 64 false = none)
    (hc : s.pgrp.tsTrap (tid s.pack.w (s.pack.ts.headD 0)) off 64 false .plain = none) :
    s.packMoves (s.doHld n) n false ∧ ((s.doHld n).grp s.pack.g).scr = s.pgrp.scr
      ∧ (s.doHld n).pwrp.shapes = FMap.set Shape.zero s.pwrp.shapes n.d
          (shapeOf (fun k => FMap.get 0 s.pgrp.scr (off + k)) (s.pgrp.rdPsn off 64)) := by
  have hpr := ht.1.1
  have hts := s.pgrp.tsAccess_tsOnly (tid s.pack.w (s.pack.ts.headD 0)) off 64 true false .plain
  have hd := s.doHld_scratch n off ht ho hp hm hok hh hc
  have hn := s.tsAccess_near s.pack.g (tid s.pack.w (s.pack.ts.headD 0)) off 64 true false .plain
  have hg := State.grp_modG_same s s.pack.g (fun x => x.tsAccess (tid s.pack.w (s.pack.ts.headD 0)) off 64 true false .plain) hpr.1
  have hl := State.modG_length s s.pack.g (fun x => x.tsAccess (tid s.pack.w (s.pack.ts.headD 0)) off 64 true false .plain)
  generalize s.modG s.pack.g (fun x => x.tsAccess (tid s.pack.w (s.pack.ts.headD 0)) off 64 true false .plain) = q at hd hn hg hl
  obtain ⟨hmv, hsh, hsc⟩ := s.hld_moves q s n (shapeOf (fun k => FMap.get 0 s.pgrp.scr (off + k)) (s.pgrp.rdPsn off 64)) hpr
    hn rfl hpr hl (by rw [hg]; exact hts.2.mono Thread.TsOnly.near)
  rw [hd]
  refine ⟨hmv, ?_, hsh⟩
  rw [hsc, hg]
  exact hts.scr.1

/-- hld of a window whose bytes are read (R245). -/
theorem State.doHld_window (s r : State) (n : Ins) (off : Nat) (l : List (Byte × Bool)) (ht : s.together n)
    (ho : off = (((s.pthr (s.pack.ts.headD 0)).reg n.a).v.toNat + n.immZ) % 2 ^ 32)
    (hp : ((s.pthr (s.pack.ts.headD 0)).reg n.a).p = false) (hm : n.f.m.getLsbD 3 = true) (hw : (s.pgrp.win (n.mb 0 3)).2 ≠ 0)
    (hr : s.winFill s.pack.g (s.pgrp.win (n.mb 0 3)) off 64 = .ok (r, l)) :
    s.doHld n = ((r.modW s.pack.g s.pack.w (fun y => y.setShape n.d (shapeOf (fun k => (l.getD k (0, false)).1)
      (l.any (fun b => b.2))))).packOn s n).slowDone := by
  have hp : ((s.thr s.pack.g s.pack.w (s.pack.ts.headD 0)).reg n.a).p = false := hp
  have ho : (((s.thr s.pack.g s.pack.w (s.pack.ts.headD 0)).reg n.a).v.toNat + n.immZ) % 2 ^ 32 = off := ho.symm
  have hw : ((s.grp s.pack.g).win (n.mb 0 3)).2 ≠ 0 := hw
  have hr : s.winFill s.pack.g ((s.grp s.pack.g).win (n.mb 0 3)) off 64 = .ok (r, l) := hr
  unfold State.doHld
  rw [s.once_done _ n _ ht ?_]
  simp only [hp, ho, hm, hw, hr, shapeOf_eq, Bool.false_eq_true, if_false, if_true]

/-- A state that drains and pays beside its own moves its pack as its own (R228). -/
theorem State.doHld_window_moves (s r : State) (n : Ins) (off : Nat) (l : List (Byte × Bool)) {q : State} (ht : s.together n)
    (ho : off = (((s.pthr (s.pack.ts.headD 0)).reg n.a).v.toNat + n.immZ) % 2 ^ 32)
    (hp : ((s.pthr (s.pack.ts.headD 0)).reg n.a).p = false) (hm : n.f.m.getLsbD 3 = true) (hw : (s.pgrp.win (n.mb 0 3)).2 ≠ 0)
    (hr : s.winFill s.pack.g (s.pgrp.win (n.mb 0 3)) off 64 = .ok (r, l)) (hq : s.MemOnly q) (hqr : q.DiesOnly r) :
    q.packMoves (s.doHld n) n false ∧ (s.doHld n).pwrp.shapes = FMap.set Shape.zero s.pwrp.shapes n.d
      (shapeOf (fun k => (l.getD k (0, false)).1) (l.any (fun b => b.2))) := by
  have hg : r.groups = s.groups := hqr.groups.trans hq.groups
  have hqp : q.packReady := by
    unfold State.packReady State.pgrp State.pwrp State.pthr State.thr State.wrp State.grp
    rw [hq.pack, hq.groups]
    exact ht.1.1
  obtain ⟨hmv, hsh, _⟩ := s.hld_moves r q n (shapeOf (fun k => (l.getD k (0, false)).1) (l.any (fun b => b.2))) ht.1.1 hqr.near hq.pack hqp
    (by rw [hg]) (by rw [State.pgrp, State.grp, State.grp, hg]; exact .refl .refl _)
  rw [s.doHld_window r n off l ht ho hp hm hw hr]
  exact ⟨hmv, hsh⟩

/-- What hst makes of a workgroup (R245). -/
def Group.hstAt (x : Group) (u off : Nat) (h : Shape) : Group :=
  ((x.tsAccess u off 64 false true .plain).putWords off h.wd 16).markDirty off 64

/-- hst whose checks pass (R245). -/
theorem State.doHst_done (s : State) (n : Ins) (off : Nat) (ht : s.together n)
    (ho : off = (((s.pthr (s.pack.ts.headD 0)).reg n.a).v.toNat + n.immZ) % 2 ^ 32) (hok : s.pgrp.scrOk off 64 16 = true)
    (hx : s.pgrp.xbHit off 64 = false) (hsp : (s.pwrp.shape n.d).p = false)
    (hh : s.packHold s.pack.g s.pack.w s.pack.ts off 64 true = none)
    (hc : s.pgrp.tsTrap (tid s.pack.w (s.pack.ts.headD 0)) off 64 true .plain = none) :
    s.doHst n = (((s.modG s.pack.g (fun x => x.hstAt (tid s.pack.w (s.pack.ts.headD 0)) off (s.pwrp.shape n.d))).stored s.pack.g
      s.pack.w (s.pack.ts.headD 0)).packOn s n).slowDone := by
  have ho : (((s.thr s.pack.g s.pack.w (s.pack.ts.headD 0)).reg n.a).v.toNat + n.immZ) % 2 ^ 32 = off := ho.symm
  have hok : (s.grp s.pack.g).scrOk off 64 16 = true := hok
  have hx : (s.grp s.pack.g).xbHit off 64 = false := hx
  have hc : (s.grp s.pack.g).tsTrap (tid s.pack.w (s.pack.ts.headD 0)) off 64 true .plain = none := hc
  have hst : ((s.grp s.pack.g).wrp s.pack.w).shapeTrap [n.d] = none := by
    have hsp : (((s.grp s.pack.g).wrp s.pack.w).shape n.d).p = false := hsp
    simp [Warp.shapeTrap, hsp, minBy]
  unfold State.doHst
  rw [s.once_done _ n _ ht ?_]
  simp only [ho, hok, hx, hst, hh, hc, Bool.not_true, Bool.or_self, Bool.false_eq_true, if_false]
  rfl

theorem Group.hstAt_fields (x : Group) (u off : Nat) (h : Shape) :
    ∃ sp, x.hstAt u off h = { (x.tsAccess u off 64 false true .plain).putWords off h.wd 16 with spans := sp } := ⟨_, rfl⟩

theorem Group.hstAt_near (x : Group) (u off : Nat) (h : Shape) : x.Threads Thread.Near (x.hstAt u off h) := by
  obtain ⟨_, hs⟩ := x.hstAt_fields u off h
  obtain ⟨_, _, hp⟩ := (x.tsAccess u off 64 false true .plain).putWords_fields off h.wd 16
  rw [hs, hp]
  exact (x.tsAccess_tsOnly u off 64 false true .plain).near

/-- The bytes and the poison of scratch that hst leaves (R245, R62). -/
theorem Group.hstAt_bytes (x : Group) (u off : Nat) (h : Shape) (hm : FMap.wf 0 x.scr = true) (ho : off % 16 = 0) :
    (∀ k j, k < 16 → j < 4 → FMap.get 0 (x.hstAt u off h).scr (off + 4 * k + j) = (FMap.get 0 h.w k).extractLsb' (8 * j) 8)
    ∧ (∀ a, a < off ∨ off + 64 ≤ a → FMap.get 0 (x.hstAt u off h).scr a = FMap.get 0 x.scr a)
    ∧ (∀ k, NSet.has (x.hstAt u off h).scrP k = (NSet.has x.scrP k && !decide (off ≤ 4 * k ∧ 4 * k + 4 ≤ off + 64))) := by
  obtain ⟨hscr, hpsn⟩ := (x.tsAccess_tsOnly u off 64 false true .plain).scr
  have hget := fun a => ((x.tsAccess u off 64 false true .plain).putWords_get off h.wd 16 (by rw [hscr]; exact hm) a).2
  have hp := fun k => (x.tsAccess u off 64 false true .plain).putWords_psn off h.wd 16 k (by omega)
  rw [hscr] at hget
  rw [hpsn] at hp
  obtain ⟨_, hs⟩ := x.hstAt_fields u off h
  rw [hs]
  refine ⟨fun k j hk hj => ?_, fun a ha => ?_, hp⟩
  · rw [hget, if_pos (by omega), show (off + 4 * k + j - off) / 4 = k by omega, show (off + 4 * k + j - off) % 4 = j by omega]
    exact ofNat_byte _ _
  · rw [hget, if_neg (by omega)]

/-- The pack whose hst stores moves on, with the bytes stored (R245). -/
theorem State.doHst_moves (s : State) (n : Ins) (off : Nat) (ht : s.together n)
    (ho : off = (((s.pthr (s.pack.ts.headD 0)).reg n.a).v.toNat + n.immZ) % 2 ^ 32) (hok : s.pgrp.scrOk off 64 16 = true)
    (hx : s.pgrp.xbHit off 64 = false) (hsp : (s.pwrp.shape n.d).p = false)
    (hh : s.packHold s.pack.g s.pack.w s.pack.ts off 64 true = none)
    (hc : s.pgrp.tsTrap (tid s.pack.w (s.pack.ts.headD 0)) off 64 true .plain = none) (hm : FMap.wf 0 s.pgrp.scr = true)
    (hal : off % 16 = 0) :
    s.packMoves (s.doHst n) n false
    ∧ (∀ k j, k < 16 → j < 4 → FMap.get 0 ((s.doHst n).grp s.pack.g).scr (off + 4 * k + j)
        = (FMap.get 0 (s.pwrp.shape n.d).w k).extractLsb' (8 * j) 8)
    ∧ (∀ a, a < off ∨ off + 64 ≤ a → FMap.get 0 ((s.doHst n).grp s.pack.g).scr a = FMap.get 0 s.pgrp.scr a)
    ∧ (∀ k, NSet.has ((s.doHst n).grp s.pack.g).scrP k
        = (NSet.has s.pgrp.scrP k && !decide (off ≤ 4 * k ∧ 4 * k + 4 ≤ off + 64))) := by
  have hd := s.doHst_done n off ht ho hok hx hsp hh hc
  have hn : s.Near (s.modG s.pack.g (fun x => x.hstAt (tid s.pack.w (s.pack.ts.headD 0)) off (s.pwrp.shape n.d))) :=
    .modG s s.pack.g (fun x => x.hstAt (tid s.pack.w (s.pack.ts.headD 0)) off (s.pwrp.shape n.d)) (s.pgrp.hstAt_near _ _ _)
  have hg := State.grp_modG_same s s.pack.g (fun x => x.hstAt (tid s.pack.w (s.pack.ts.headD 0)) off (s.pwrp.shape n.d)) ht.1.1.1
  generalize s.modG s.pack.g (fun x => x.hstAt (tid s.pack.w (s.pack.ts.headD 0)) off (s.pwrp.shape n.d)) = q at hd hn hg
  have hst := q.stored_near s.pack.g s.pack.w (s.pack.ts.headD 0)
  have h1 := q.stored_grp s.pack.g s.pack.w (s.pack.ts.headD 0) s.pack.g
  generalize q.stored s.pack.g s.pack.w (s.pack.ts.headD 0) = r at hd hst h1
  have h2 := h1.trans (r.packOn_slowDone_grp s n s.pack.g)
  rw [hd]
  refine ⟨((hn.trans hst).packMoves n ht.1.1).slowDone, ?_⟩
  rw [h2.scr, h2.scrP, hg]
  exact s.pgrp.hstAt_bytes _ off (s.pwrp.shape n.d) hm hal

/-- hst of a poisoned shape register traps in the whole pack (R64). -/
theorem State.doHst_poisoned (s : State) (n : Ins) (off : Nat) (ht : s.together n) (hs : s.pwrp.slow = false)
    (ho : off = (((s.pthr (s.pack.ts.headD 0)).reg n.a).v.toNat + n.immZ) % 2 ^ 32) (hok : s.pgrp.scrOk off 64 16 = true)
    (hx : s.pgrp.xbHit off 64 = false) (hsp : (s.pwrp.shape n.d).p = true)
    (htr : ∀ u ∈ s.pack.ts, s.trapsAt s.pack.g s.pack.w u) :
    s.doHst n = s.mapPack (fun _ y => y.takeTrap s.pwrp.kd.trap 0x03 (BitVec.ofNat 64 (0x200 + n.d))) := by
  have ho : (((s.thr s.pack.g s.pack.w (s.pack.ts.headD 0)).reg n.a).v.toNat + n.immZ) % 2 ^ 32 = off := ho.symm
  have hok : (s.grp s.pack.g).scrOk off 64 16 = true := hok
  have hx : (s.grp s.pack.g).xbHit off 64 = false := hx
  have hst : ((s.grp s.pack.g).wrp s.pack.w).shapeTrap [n.d] = some (0x03, BitVec.ofNat 64 (0x200 + n.d)) := by
    have hsp : (((s.grp s.pack.g).wrp s.pack.w).shape n.d).p = true := hsp
    simp [Warp.shapeTrap, hsp, minBy]
  unfold State.doHst
  rw [s.once_of n false _ ht.1 (fun u hu => (ht.2 u hu).1) (fun u hu => (ht.2 u hu).2)]
  simp only [ho, hok, hx, hst, Bool.not_true, Bool.or_self, Bool.false_eq_true, if_false]
  rw [State.trapPack_of s 0x03 _ ht.1.1 htr]
  exact s.slowDone_mapPack _ hs

/-- Settles O32: each form by its body. -/
theorem shapesMove : Obligations.ShapesMove := by
  refine ⟨?_, ?_⟩
  · intro i n s hi x h out
    refine ⟨fun ho ht => ?_, fun ho ht => ?_, fun ho ht => ?_, fun ho hp hg => ?_⟩ <;>
      simp only [out, exec_of_insOf i n s hi, State.run, ho]
    · rw [State.doHset, s.once_shape n _ _ _ ht rfl rfl]
      rfl
    · rw [State.doHcpy, s.once_shape n _ _ _ ht rfl rfl]
      rfl
    · refine ⟨(h n.d).advanced (n.mb 0 2) (if n.imm then n.immZ else (x.reg n.a).v.toNat), ?_, fun k hk => ?_⟩
      · rw [State.doHadv, s.once_shape n _ _ _ ht rfl rfl]
        rfl
      · have := (h n.d).advanced_half (n.mb 0 2) (if n.imm then n.immZ else (x.reg n.a).v.toNat) k hk
        split
        · next hm =>
          rw [if_pos hm] at this
          exact_mod_cast this
        · next hm =>
          rw [if_neg hm] at this
          exact_mod_cast this
    · rw [s.lanes_given n _ (fun _ => Eff.reg n.d ⟨FMap.get 0 (h n.a).w (n.mb 0 4), (h n.a).p⟩) hp hg]
      · intro u hu
        simp [poisonTrap, Ins.controlReg, ho, storesPoison, Thread.lowestPoison, minBy]
      · intro u hu
        rw [laneHget, Shape.ofNat_wd]
        rfl
  · intro i n s hi ht hs hwf x off win le held free m r
    obtain ⟨hscr, hlen⟩ := s.pgrp.filesWf_spec hwf
    have hp : s.packReady := ht.1.1
    have hu : s.pack.ts.headD 0 < 32 := by
      obtain ⟨t0, l, hts⟩ := List.exists_cons_of_ne_nil hp.2.2.1
      exact Nat.lt_of_lt_of_le (hp.2.2.2.2 _ (by simp [hts])).1 (hlen _)
    have hby : s.pgrp.byTid (tid s.pack.w (s.pack.ts.headD 0)) = x := Group.byTid_tid _ _ _ hu
    have hfree : ∀ w, free w → s.pgrp.tsTrap (tid s.pack.w (s.pack.ts.headD 0)) off 64 w .plain = none := fun w hw =>
      s.pgrp.tsTrap_none _ off 64 w false (by rw [hby]; exact hw)
    have hok : off % 16 = 0 → off + 64 ≤ s.pgrp.scrSize → s.pgrp.scrOk off 64 16 = true := fun h1 h2 =>
      (Group.scrOk_iff _ _ _ _).mpr ⟨h1, h2⟩
    rw [exec_of_insOf i n s hi]
    refine ⟨fun ho hap => ?_, fun ho hap hm hal hsz hh hf => ?_, fun l c ho hap hm hwin hl hin hout hc => ?_,
      fun ho hal hsz hx hh hf hsp => ?_, fun ho hal hsz hx hsp htr => ?_⟩
    · simp only [State.run, ho, s.doHld_poisoned n ht hs hap]
    · exact ⟨_, by simp only [State.run, ho], s.doHld_scratch_moves n off ht rfl hap hm (hok hal hsz) hh (hfree false hf)⟩
    · obtain ⟨t, hr, hdo⟩ := s.winFill_of s.pack.g win off 64 l c hl hin hout hc
      obtain ⟨hmv, hsh⟩ := s.doHld_window_moves t n off l ht rfl hap hm hwin hr (s.winSent_memOnly _ _ _) hdo
      exact ⟨_, by simp only [State.run, ho], hmv, hsh⟩
    · exact ⟨_, by simp only [State.run, ho], s.doHst_moves n off ht rfl (hok hal hsz) hx hsp hh (hfree true hf) hscr hal⟩
    · simp only [State.run, ho, s.doHst_poisoned n off ht hs rfl (hok hal hsz) hx hsp htr]

end Sys2Proof.Machine
end

section
/-! ## Window reads, fences and barriers (O29) -/
namespace Sys2Proof.Machine

/-! ### ldw (R228) -/

/-- ldw of a window whose bytes are read (R228). -/
theorem State.ldw1_window (s r : State) (n : Ins) (u : Nat) (l : List (Byte × Bool)) (hp : ((s.pthr u).reg n.a).p = false)
    (hw : (s.pgrp.win (n.mb 0 3)).2 ≠ 0)
    (hr : s.winFill s.pack.g (s.pgrp.win (n.mb 0 3)) (((s.pthr u).reg n.a).v.toNat + n.immZ) (n.w / 8) = .ok (r, l)) :
    s.ldw1 n s.pack.g s.pack.w u = (r, .ok (loadEff n.d (n.w / 8) n.sg (leNat (fun k => (l.getD k (0, false)).1) 0 (n.w / 8))
      (l.any (fun b => b.2)))) := by
  have hp : ((s.thr s.pack.g s.pack.w u).reg n.a).p = false := hp
  have hw : ((s.grp s.pack.g).win (n.mb 0 3)).2 ≠ 0 := hw
  have hr : s.winFill s.pack.g ((s.grp s.pack.g).win (n.mb 0 3)) (((s.thr s.pack.g s.pack.w u).reg n.a).v.toNat + n.immZ) (n.w / 8)
    = .ok (r, l) := hr
  simp only [State.ldw1, hp, hw, hr, Bool.false_eq_true, if_false]

/-! ### fence (R229) -/

/-- The state that a fence without an acquire alone leaves at its base: what its release reaches is released (R345). -/
theorem State.releasedBy_near (s : State) (g t scope : Nat) :
    (s.released g scope).Near (s.releasedBy g t scope) ∧ ((s.releasedBy g t scope).grp g).scr = (s.grp g).scr := by
  have hr := s.released_memOnly g scope
  unfold State.releasedBy
  split
  · next h =>
    subst h
    exact ⟨.refl s, rfl⟩
  · refine ⟨.modG _ g (fun x => { x with rels := NSet.add x.rels t }) (fun _ _ => .refl _), ?_⟩
    have hg : (s.released g scope).grp g = s.grp g := by rw [State.grp, hr.groups]; rfl
    rw [← hg]
    exact modAt_getD_rel (fun x y : Group => y.scr = x.scr) (fun _ => rfl) _ g (fun x => { x with rels := NSet.add x.rels t }) Group.void
      g rfl

theorem Group.stale_fields (x : Group) : ∃ sp, x.stale = { x with spans := sp } := ⟨_, rfl⟩

/-- What an acquire changes of a workgroup (R195, R189). -/
theorem State.acquired_near (s : State) (g w u scope : Nat) (mark : Bool) :
    s.Near (s.acquired g w u scope mark) ∧ ((s.acquired g w u scope mark).grp g).scr = (s.grp g).scr := by
  have hd := s.acquires_diesOnly g scope
  have hf : ∀ x : Group, x.TsOnly (if scope = 0 then x else x.tsFence (tid w u)) := fun x => by
    split
    · exact .refl x
    · exact x.tsFence_tsOnly _
  have hg : ∀ x : Group, x.Threads Thread.Near (if mark = true ∧ 3 ≤ scope then (if scope = 0 then x else x.tsFence (tid w u)).stale
        else if scope = 0 then x else x.tsFence (tid w u))
      ∧ (if mark = true ∧ 3 ≤ scope then (if scope = 0 then x else x.tsFence (tid w u)).stale
        else if scope = 0 then x else x.tsFence (tid w u)).scr = x.scr := fun x => by
    split
    · exact ⟨(hf x).near, (hf x).scr.1⟩
    · exact ⟨(hf x).near, (hf x).scr.1⟩
  unfold State.acquired
  refine ⟨hd.near.trans (.modG _ g _ (hg _).1), ?_⟩
  have he : (s.acquires g scope).grp g = s.grp g := by rw [State.grp, hd.groups]; rfl
  rw [← he]
  exact modAt_getD_rel (fun x y : Group => y.scr = x.scr) (fun _ => rfl) _ g _ Group.void g (hg _).2

theorem Ins.mb_lt (n : Ins) (lo k : Nat) : n.mb lo k < 2 ^ k := by
  exact Nat.mod_lt _ (Nat.two_pow_pos k)

/-- A fence that finds nothing outstanding goes on (R229). -/
theorem State.fence1_goes (s : State) (n : Ins) (u : Nat)
    (hr : (n.mb 6 2) / 2 % 2 = 1 → s.relHold s.pack.g s.pack.w u (n.mb 3 3) true = none)
    (ha : (n.mb 6 2) % 2 = 1 → s.acqHold s.pack.g s.pack.w u = none) :
    ∃ r, s.fence1 n s.pack.g s.pack.w u = (r, .ok Eff.none) ∧ (r.grp s.pack.g).scr = s.pgrp.scr
      ∧ (if n.mb 6 2 = 1 then s else s.released s.pack.g (n.mb 3 3)).Near r := by
  have hlt : n.mb 6 2 < 4 := Ins.mb_lt n 6 2
  have hrel : (if (n.mb 6 2) / 2 % 2 = 1 then s.relHold s.pack.g s.pack.w u (n.mb 3 3) true else none) = none := by
    split
    · next h => exact hr h
    · rfl
  have hby := s.releasedBy_near s.pack.g (tid s.pack.w u) (n.mb 3 3)
  unfold State.fence1
  dsimp only
  rw [hrel]
  by_cases hacq : (n.mb 6 2) % 2 = 1
  · simp only [hacq, ha hacq, one_ne_zero, if_false]
    by_cases h1 : n.mb 6 2 = 1
    · have hq := s.acquired_near s.pack.g s.pack.w u (n.mb 3 3) true
      simp only [h1, Nat.reduceDiv, Nat.zero_mod, zero_ne_one, if_false, if_true]
      exact ⟨_, rfl, hq.2, hq.1⟩
    · have h3 : n.mb 6 2 = 3 := by omega
      have hq := (s.releasedBy s.pack.g (tid s.pack.w u) (n.mb 3 3)).acquired_near s.pack.g s.pack.w u (n.mb 3 3) true
      simp only [h3, Nat.reduceDiv, Nat.one_mod, if_true, Nat.reduceEqDiff, if_false]
      exact ⟨_, rfl, hq.2.trans hby.2, hby.1.trans hq.1⟩
  · rw [if_pos (by omega), if_neg (by omega)]
    exact ⟨_, rfl, hby.2, hby.1⟩

/-! ### bar (R230) -/

theorem Bar.ne_zero_of_phase (ph : Nat) (l : NSet) : (⟨ph + 1, l⟩ : Bar) ≠ Bar.zero := by
  intro h
  exact absurd (congrArg Bar.phase h) (Nat.succ_ne_zero _)

/-- The bars that the completion of one leaves. -/
theorem Group.completeBar_bars (x : Group) (j id : Nat) :
    FMap.get Bar.zero (x.completeBar j).bars id = FMap.get Bar.zero x.bars id
    ∨ (j = id ∧ (FMap.get Bar.zero (x.completeBar j).bars id).phase = (FMap.get Bar.zero x.bars id).phase + 1) := by
  unfold Group.completeBar
  dsimp only
  split
  · exact .inl rfl
  · by_cases hj : id = j
    · subst hj
      refine .inr ⟨rfl, ?_⟩
      rw [FMap.get_set_self _ _ _ _ (Bar.ne_zero_of_phase _ _)]
    · exact .inl (FMap.get_set_ne _ _ _ _ _ (Bar.ne_zero_of_phase _ _) hj)

/-- A barrier at which every live thread has arrived completes its phase. -/
theorem Group.completeBar_phase (x : Group) (id : Nat) (ha : (FMap.get Bar.zero x.bars id).arrived ≠ [])
    (hl : ∀ k ∈ x.liveIds, NSet.has (FMap.get Bar.zero x.bars id).arrived k = true) :
    (FMap.get Bar.zero (x.completeBar id).bars id).phase = (FMap.get Bar.zero x.bars id).phase + 1 := by
  have ha : (FMap.get Bar.zero x.bars id).arrived.isEmpty = false := by simpa using ha
  have hl : x.liveIds.all (fun k => NSet.has (FMap.get Bar.zero x.bars id).arrived k) = true := by simpa using hl
  unfold Group.completeBar
  simp only [ha, hl, Bool.not_true, Bool.or_self, Bool.false_eq_true, if_false]
  rw [FMap.get_set_self _ _ _ _ (Bar.ne_zero_of_phase _ _)]

/-- The live threads of a workgroup, told from whether each is live. -/
theorem Group.liveIds_congr (x y : Group) (hl : y.warps.length = x.warps.length)
    (ht : ∀ w u, ((y.wrp w).thr u).live = ((x.wrp w).thr u).live) : y.liveIds = x.liveIds := by
  unfold Group.liveIds
  simp only [hl, ht]

/-- What the completion of other barriers leaves of one: where it stands, or a later phase. -/
def Group.AtBar (x y : Group) (id : Nat) : Prop :=
  (FMap.get Bar.zero y.bars id = FMap.get Bar.zero x.bars id ∧ y.liveIds = x.liveIds)
  ∨ (FMap.get Bar.zero x.bars id).phase < (FMap.get Bar.zero y.bars id).phase

theorem Group.AtBar.completeBar {x y : Group} {id : Nat} (h : x.AtBar y id) (j : Nat) : x.AtBar (y.completeBar j) id := by
  have hlive : (y.completeBar j).liveIds = y.liveIds :=
    y.liveIds_congr _ (y.completeBar_by j).1 (fun w u => ((y.completeBar_by j).threads w u).live)
  rcases h with ⟨hb, hl⟩ | h
  · rcases y.completeBar_bars j id with h' | ⟨_, h'⟩
    · exact .inl ⟨h'.trans hb, hlive.trans hl⟩
    · exact .inr (by rw [h', hb]; exact Nat.lt_succ_self _)
  · rcases y.completeBar_bars j id with h' | ⟨_, h'⟩
    · exact .inr (by rw [h']; exact h)
    · exact .inr (by rw [h']; exact Nat.lt_succ_of_lt h)

/-- A barrier of the sixteen at which every live thread has arrived is past its phase when all are completed (R230). -/
theorem Group.completeBars_phase (x : Group) (id : Nat) (hid : id < 16) (ha : (FMap.get Bar.zero x.bars id).arrived ≠ [])
    (hl : ∀ k ∈ x.liveIds, NSet.has (FMap.get Bar.zero x.bars id).arrived k = true) :
    (FMap.get Bar.zero x.bars id).phase < (FMap.get Bar.zero x.completeBars.bars id).phase := by
  have fold : ∀ (l : List Nat) (y : Group), x.AtBar y id → x.AtBar (l.foldl Group.completeBar y) id := fun l => by
    induction l with
    | nil => exact fun _ h => h
    | cons j l ih => exact fun y h => ih _ (h.completeBar j)
  have past : ∀ (l : List Nat) (y : Group), (FMap.get Bar.zero x.bars id).phase < (FMap.get Bar.zero y.bars id).phase →
      (FMap.get Bar.zero x.bars id).phase < (FMap.get Bar.zero (l.foldl Group.completeBar y).bars id).phase := fun l => by
    induction l with
    | nil => exact fun _ h => h
    | cons j l ih =>
      intro y h
      refine ih _ ?_
      rcases y.completeBar_bars j id with h' | ⟨_, h'⟩
      · rw [h']; exact h
      · rw [h']; exact Nat.lt_succ_of_lt h
  have here : ∀ y : Group, x.AtBar y id → (FMap.get Bar.zero x.bars id).phase < (FMap.get Bar.zero (y.completeBar id).bars id).phase := by
    intro y h
    rcases h with ⟨hb, hy⟩ | h
    · rw [y.completeBar_phase id (by rw [hb]; exact ha) (by rw [hb, hy]; exact hl), hb]
      exact Nat.lt_succ_self _
    · exact past [id] y h
  obtain ⟨l, r, hlr⟩ := List.append_of_mem (List.mem_range.mpr hid)
  refine past (List.range 16) _ ?_
  rw [hlr, List.foldl_append, List.foldl_cons]
  exact past r _ (here _ (fold l x (.inl ⟨rfl, rfl⟩)))

/-- A thread that stands as it was left, behind a change that is near. -/
theorem Thread.movedOn.near {x y z : Thread} {e : Eff} {k : Nat} (h : x.movedOn y e k) (hx : x.sched = .ready) (n : y.Near z) :
    x.movedOn z e k := by
  obtain ⟨hf, hpc, htix, hmode, hs⟩ := h
  have hz : z.sched = x.sched := by rw [n.2 (hs.trans hx), hx]
  obtain ⟨⟨_, _, _, _, _, _, _, _, rfl⟩, _⟩ := n
  exact ⟨hf, hpc, htix, hmode, hz⟩

/-- What an arrival at a barrier makes of a workgroup (R230). -/
def Group.arriveAt (x : Group) (id : Nat) (b : Bar) : Group := { x with bars := FMap.set Bar.zero x.bars id b }.completeBars

theorem Group.arriveAt_by (x : Group) (id : Nat) (b : Bar) : x.By Thread.BarOnly (x.arriveAt id b) :=
  Group.completeBars_by { x with bars := FMap.set Bar.zero x.bars id b }

theorem Group.arriveAt_scr (x : Group) (id : Nat) (b : Bar) : (x.arriveAt id b).scr = x.scr := by
  obtain ⟨_, _, _, _, _, h⟩ := Group.completeBars_fields { x with bars := FMap.set Bar.zero x.bars id b }
  rw [Group.arriveAt, h]

theorem Group.arriveAt_phase (x : Group) (id ph : Nat) (l : NSet) (hid : id < 16) (ha : l ≠ [])
    (hl : ∀ k ∈ x.liveIds, NSet.has l k = true) : ph < (FMap.get Bar.zero (x.arriveAt id ⟨ph, l⟩).bars id).phase := by
  have hb : FMap.get Bar.zero (FMap.set Bar.zero x.bars id ⟨ph, l⟩) id = ⟨ph, l⟩ :=
    FMap.get_set_self _ _ _ _ (fun h => ha (congrArg Bar.arrived h))
  have := Group.completeBars_phase { x with bars := FMap.set Bar.zero x.bars id ⟨ph, l⟩ } id hid (by rw [hb]; exact ha)
    (by rw [hb]; exact hl)
  rwa [hb] at this

theorem State.modW_warps (s : State) (g w : Nat) (f : Warp → Warp) (a : Nat) :
    ((s.modW g w f).grp a).warps.length = (s.grp a).warps.length :=
  modAt_getD_rel (fun x y : Group => y.warps.length = x.warps.length) (fun _ => rfl) s.groups g (fun x => x.modW w f) Group.void a
    (by simp [Group.modW])

theorem State.stored_warps (s : State) (g w u a : Nat) : ((s.stored g w u).grp a).warps.length = (s.grp a).warps.length := by
  have h := s.modW_warps g w (fun x => x.mod u (fun x => { x with spinCh := true })) a
  unfold State.stored
  dsimp only
  split
  · exact h
  · exact (State.modW_warps _ g w (fun x => x.all Thread.undemote) a).trans h

theorem Thread.live_of_ready (x : Thread) (h : x.ready = true) : x.live = true := by
  have h : x.sched = .ready := by simpa [Thread.ready] using h
  simp [Thread.live, h]

/-- A thread that arrives at a barrier and goes on, or waits there, as `f` has it (R230). -/
def State.arrived (s : State) (g w u id : Nat) (b : Bar) (f : Thread → Thread) : State :=
  ((s.stored g w u).modT g w u f).modG g (fun x => x.arriveAt id b)

theorem State.arrived_pack (s : State) (g w u id : Nat) (b : Bar) (f : Thread → Thread) : (s.arrived g w u id b f).pack = s.pack :=
  (s.stored_near g w u).pack

/-- What an arrival does to its thread (R230). -/
def Ins.atBar (n : Ins) (id ph : Nat) (x : Thread) : Thread :=
  if n.mb 4 2 = 3 then x.block (.bar id ph) n.words else x.advance n.words

theorem Ins.atBar_arrive (n : Ins) (id ph : Nat) (h : n.mb 4 2 = 1) (x : Thread) : n.atBar id ph x = x.advance n.words :=
  if_neg (by omega)
theorem Ins.atBar_sync (n : Ins) (id ph : Nat) (h : n.mb 4 2 = 3) (x : Thread) : n.atBar id ph x = x.block (.bar id ph) n.words :=
  if_pos h
theorem Ins.atBar_sameFiles (n : Ins) (id ph : Nat) (x : Thread) : (n.atBar id ph x).sameFiles x := by
  unfold Ins.atBar
  split <;> exact ⟨rfl, rfl, rfl, rfl, rfl, rfl, rfl⟩
theorem Ins.atBar_live (n : Ins) (id ph : Nat) (x : Thread) (h : x.ready = true) : (n.atBar id ph x).live = true := by
  unfold Ins.atBar
  split
  · rfl
  · exact x.live_of_ready h

/-- A thread that waits at a barrier waits there behind a barrier's phases. -/
theorem Thread.BarOnly.block {x y : Thread} {id ph k : Nat} (h : (x.block (.bar id ph) k).BarOnly y) :
    y.sched = .blocked (.bar id ph) ∧ (y.npc, y.ntix) = x.after k := by
  refine ⟨h.sched (by simp [Thread.block]), ?_⟩
  obtain ⟨⟨_, _, _, _, _, rfl⟩, _⟩ := h
  rfl

theorem NSet.add_ne_nil (l : NSet) (k : Nat) : NSet.add l k ≠ [] := by
  intro h
  have := NSet.has_add l k k
  rw [h] at this
  simp [NSet.has] at this

theorem State.bar1_arrives (s : State) (n : Ins) (g w u : Nat) (hm : n.mb 4 2 ≠ 2)
    (ha : NSet.has (FMap.get Bar.zero (s.grp g).bars (n.mb 0 4)).arrived (tid w u) = false) (hb : (s.grp g).bankBusy (tid w u) = false) :
    s.bar1 n g w u = s.arrived g w u (n.mb 0 4) ⟨(FMap.get Bar.zero (s.grp g).bars (n.mb 0 4)).phase,
      NSet.add (FMap.get Bar.zero (s.grp g).bars (n.mb 0 4)).arrived (tid w u)⟩
      (n.atBar (n.mb 0 4) (FMap.get Bar.zero (s.grp g).bars (n.mb 0 4)).phase) := by
  simp only [State.bar1, hm, ha, hb, Bool.false_eq_true, if_false]
  rfl

section
variable (s : State) (g w u id : Nat) (b : Bar) (f : Thread → Thread)

/-- Each thread after an arrival: as the arrival left it, but for what the barrier ends. -/
theorem State.arrived_threads (a c v : Nat) :
    (((s.stored g w u).modT g w u f).thr a c v).BarOnly ((s.arrived g w u id b f).thr a c v) :=
  State.modG_threads Thread.BarOnly .refl ((s.stored g w u).modT g w u f) g (fun x => x.arriveAt id b)
    (Group.arriveAt_by _ id b).threads a c v

/-- The thread that arrives. -/
theorem State.arrived_thr (hr : (s.thr g w u).ready = true) :
    ∃ x, (s.thr g w u).Near x ∧ (f x).BarOnly ((s.arrived g w u id b f).thr g w u) := by
  have hn := (s.stored_near g w u).thr g w u
  have h := s.arrived_threads g w u id b f g w u
  rw [State.thr_modT_same _ _ _ _ _ (hn.ready hr)] at h
  exact ⟨_, hn, h⟩

/-- An arrival keeps every file, where `f` keeps those of its thread. -/
theorem State.arrived_keeps (hf : ∀ x, (f x).sameFiles x) (c : Nat) (ts : List Nat) : s.keepsElse (s.arrived g w u id b f) c w ts := by
  refine ⟨(s.stored_near g w u).mem, fun a c v _ => ?_⟩
  refine (s.arrived_threads g w u id b f a c v).sameFiles.trans ?_
  refine Thread.sameFiles.trans ?_ ((s.stored_near g w u).thr a c v).sameFiles
  exact State.modT_threads (fun x y => y.sameFiles x) (fun _ => ⟨rfl, rfl, rfl, rfl, rfl, rfl, rfl⟩) _ g w u f (hf _) a c v

theorem State.arrived_scr : ((s.arrived g w u id b f).grp g).scr = (s.grp g).scr := by
  have h := (s.stored_grp g w u g).trans ((s.stored g w u).modW_grp g w (fun x => x.mod u f) g)
  rw [← h.scr]
  exact modAt_getD_rel (fun x y : Group => y.scr = x.scr) (fun _ => rfl) _ g (fun x => x.arriveAt id b) Group.void g
    (Group.arriveAt_scr _ _ _)

/-- Where every live thread has arrived, the phase advances (R230). -/
theorem State.arrived_phase (hr : (s.thr g w u).ready = true) (hf : ∀ x : Thread, x.ready = true → (f x).live = true) (hid : id < 16)
    (ha : b.arrived ≠ []) (hl : ∀ k ∈ (s.grp g).liveIds, NSet.has b.arrived k = true) :
    b.phase < (FMap.get Bar.zero ((s.arrived g w u id b f).grp g).bars id).phase := by
  have hn := (s.stored_near g w u).thr g w u
  have hlive : (((s.stored g w u).modT g w u f).grp g).liveIds = (s.grp g).liveIds := by
    refine Group.liveIds_congr _ _ ((State.modW_warps _ g w (fun x => x.mod u f) g).trans (s.stored_warps g w u g)) (fun c v => ?_)
    refine (State.modT_threads (fun x y => y.live = x.live) (fun _ => rfl) _ g w u f ?_ g c v).trans
      (s.stored_threads (fun x y => y.live = x.live) (fun _ => rfl) (fun h k => k.trans h) (fun _ => rfl) Thread.undemote_live g w u g c v)
    rw [hf _ (hn.ready hr), Thread.live_of_ready _ (hn.ready hr)]
  obtain ⟨hg, _, _⟩ := State.exists_of_ready _ _ _ _ (hn.ready hr)
  rw [State.arrived, State.grp_modG_same _ _ _ (by rwa [State.modT, State.modG_length])]
  exact Group.arriveAt_phase _ id b.phase b.arrived hid ha (by rw [hlive]; exact hl)
end

/-! ### Transfer barriers (R192, R231) -/

/-- `y` is `x` with other bytes in the object at `off` alone, each thread near itself. -/
structure Group.Object (off : Nat) (x y : Group) : Prop where
  wf : FMap.wf 0 y.scr = true
  out : ∀ a, a < off ∨ off + 16 ≤ a → FMap.get 0 y.scr a = FMap.get 0 x.scr a
  thr : x.Threads Thread.Near y

section
variable {off : Nat} {x y z : Group}

theorem Group.Object.refl (off : Nat) (x : Group) (h : FMap.wf 0 x.scr = true) : x.Object off x := ⟨h, fun _ _ => rfl, fun _ _ => .refl _⟩
/-- A change that leaves scratch. -/
theorem Group.Object.same (h : x.Object off y) (hs : z.scr = y.scr) (ht : y.Threads Thread.Near z) : x.Object off z :=
  ⟨hs ▸ h.wf, fun a ha => by rw [hs]; exact h.out a ha, fun w u => (h.thr w u).trans (ht w u)⟩
/-- A word of the object written. -/
theorem Group.Object.wr (h : x.Object off y) (k v : Nat) (hk : k + 4 ≤ 16) : x.Object off (y.wr (off + k) 4 v false) :=
  ⟨(y.wr_get (off + k) 4 v false h.wf 0).1, fun a ha => by rw [(y.wr_get (off + k) 4 v false h.wf a).2, if_neg (by omega), h.out a ha],
    fun w u => (h.thr w u).trans (y.wr_near (off + k) 4 v false w u)⟩

theorem Group.Object.of_near (h : FMap.wf 0 x.scr = true) (hs : y.scr = x.scr) (ht : x.Threads Thread.Near y) : x.Object off y :=
  (Group.Object.refl off x h).same hs ht
theorem Group.Object.trans (h : x.Object off y) (k : y.Object off z) : x.Object off z :=
  ⟨k.wf, fun a ha => (k.out a ha).trans (h.out a ha), fun w u => (h.thr w u).trans (k.thr w u)⟩

/-- The word written. -/
theorem Group.Object.rd_same (h : x.Object off y) (k v : Nat) (hv : v < 2 ^ 32) : (y.wr (off + k) 4 v false).rd (off + k) 4 = v := by
  rw [y.rd_wr_same _ _ _ _ h.wf, Nat.mod_eq_of_lt (by omega)]
/-- Another word of the object. -/
theorem Group.Object.rd_other (h : x.Object off y) (k j v : Nat) (hkj : j + 4 ≤ k ∨ k + 4 ≤ j) :
    (y.wr (off + k) 4 v false).rd (off + j) 4 = y.rd (off + j) 4 := y.rd_wr_other _ _ _ _ _ _ h.wf (by omega)
end

theorem Group.rd_lt (x : Group) (a : Nat) : x.rd a 4 < 2 ^ 32 := leNat_lt _ a 4

theorem Group.rd_congr {x y : Group} (h : y.scr = x.scr) (a n : Nat) : y.rd a n = x.rd a n := by
  rw [Group.rd, Group.rd, h]

theorem Group.clearTags_keeps (x : Group) (off n : Nat) : (x.clearTags off n).scr = x.scr ∧ (x.clearTags off n).xbars = x.xbars := by
  obtain ⟨⟨_, _, h⟩, _⟩ := x.clearTags_tsOnly off n
  rw [h]
  exact ⟨rfl, rfl⟩

theorem Group.xbValid_iff (x : Group) (off : Nat) (h : off % 16 = 0) : x.xbValid off = NSet.has x.xbars off := by
  rw [Group.xbValid, Nat.div_mul_cancel (Nat.dvd_of_mod_eq_zero h)]

/-- The words that initialise an object. -/
def Group.xbWords (x : Group) (off n : Nat) : Group :=
  (((x.wr off 4 n false).wr (off + 4) 4 0 false).wr (off + 8) 4 4 false).wr (off + 12) 4 0 false

theorem Group.xbWords_spec (x : Group) (off n : Nat) (h : FMap.wf 0 x.scr = true) (hn : n < 2 ^ 32) :
    x.Object off (x.xbWords off n) ∧ (x.xbWords off n).rd off 4 = n ∧ (x.xbWords off n).rd (off + 4) 4 = 0
      ∧ (x.xbWords off n).rd (off + 8) 4 = 4 ∧ (x.xbWords off n).rd (off + 12) 4 = 0 := by
  have o0 := Group.Object.refl off x h
  have o1 := o0.wr 0 n (by omega)
  have o2 := o1.wr 4 0 (by omega)
  have o3 := o2.wr 8 4 (by omega)
  refine ⟨o3.wr 12 0 (by omega), ?_, ?_, ?_, o3.rd_same 12 0 (by omega)⟩
  · exact (((o3.rd_other 12 0 0 (by omega)).trans (o2.rd_other 8 0 4 (by omega))).trans (o1.rd_other 4 0 0 (by omega))).trans
      (o0.rd_same 0 n hn)
  · exact ((o3.rd_other 12 4 0 (by omega)).trans (o2.rd_other 8 4 4 (by omega))).trans (o1.rd_same 4 0 (by omega))
  · exact (o3.rd_other 12 8 0 (by omega)).trans (o2.rd_same 8 4 (by omega))

/-- An initialised object: EXPECTED the count, ARRIVED 0, phase 0 and VALID 1 (R231). -/
theorem Group.xbInit_spec (x : Group) (off n : Nat) (h : FMap.wf 0 x.scr = true) (hn : n < 2 ^ 32) (ho : off % 16 = 0) :
    x.Object off (x.xbInit off n) ∧ (x.xbInit off n).rd off 4 = n ∧ (x.xbInit off n).rd (off + 4) 4 = 0
      ∧ (x.xbInit off n).rd (off + 8) 4 = 4 ∧ (x.xbInit off n).rd (off + 12) 4 = 0 ∧ (x.xbInit off n).xbValid off = true := by
  obtain ⟨hobj, h0, h1, h2, h3⟩ := x.xbWords_spec off n h hn
  have hi : x.xbInit off n = Group.clearTags { x.xbWords off n with
    xbars := NSet.add (x.xbWords off n).xbars off, xbFrom := FMap.set ([], []) (x.xbWords off n).xbFrom off ([], []) } off 16 := rfl
  generalize x.xbWords off n = y at *
  obtain ⟨hs, hb⟩ := Group.clearTags_keeps { y with
    xbars := NSet.add y.xbars off, xbFrom := FMap.set ([], []) y.xbFrom off ([], []) } off 16
  have ht := (Group.clearTags_tsOnly { y with
    xbars := NSet.add y.xbars off, xbFrom := FMap.set ([], []) y.xbFrom off ([], []) } off 16).near
  rw [← hi] at hs hb ht
  have hr := fun a => Group.rd_congr hs a 4
  refine ⟨hobj.same hs ht, (hr _).trans h0, (hr _).trans h1, (hr _).trans h2, (hr _).trans h3, ?_⟩
  rw [Group.xbValid_iff _ _ ho, hb, NSet.has_add]
  simp

/-- An object invalidated is valid no more (R231). -/
theorem Group.xbInval_spec (x : Group) (off : Nat) (h : FMap.wf 0 x.scr = true) (ho : off % 16 = 0) :
    x.Object off (x.xbInval off) ∧ (x.xbInval off).xbValid off = false := by
  have o0 := Group.Object.refl off x h
  by_cases hv : x.xbValid off = true
  · have hi : x.xbInval off = Group.clearTags { x.wr (off + 8) 4 (x.rd (off + 8) 4 / 8 * 8 + x.rd (off + 8) 4 % 4) false with
        xbars := NSet.del x.xbars off } off 16 := by
      simp only [Group.xbInval, hv, Bool.not_true, Bool.false_eq_true, if_false]
    have o1 := o0.wr 8 (x.rd (off + 8) 4 / 8 * 8 + x.rd (off + 8) 4 % 4) (by omega)
    generalize x.wr (off + 8) 4 (x.rd (off + 8) 4 / 8 * 8 + x.rd (off + 8) 4 % 4) false = y at hi o1
    obtain ⟨hs, hb⟩ := Group.clearTags_keeps { y with xbars := NSet.del x.xbars off } off 16
    have ht := (Group.clearTags_tsOnly { y with xbars := NSet.del x.xbars off } off 16).near
    rw [← hi] at hs hb ht
    refine ⟨o1.same hs ht, ?_⟩
    rw [Group.xbValid_iff _ _ ho, hb, NSet.has_del]
    simp
  · have hv : x.xbValid off = false := by simpa using hv
    have hi : x.xbInval off = x := by simp only [Group.xbInval, hv, Bool.not_false, if_true]
    rw [hi]
    exact ⟨o0, hv⟩

theorem Thread.xbDone_near (x : Thread) (off ph : Nat) : x.Near (x.xbDone off ph) := by
  unfold Thread.xbDone
  split
  · next h =>
    refine ⟨⟨_, _, _, _, _, _, _, _, rfl⟩, fun hr => ?_⟩
    rw [hr] at h
    exact absurd h (by simp)
  · exact .refl x

/-- A count that does not complete the phase is added to ARRIVED (R192). -/
theorem Group.xbCredit_adds (x : Group) (off n : Nat) (h : FMap.wf 0 x.scr = true) (hv : x.xbValid off = true)
    (hn : x.rd (off + 4) 4 + n < x.rd off 4) :
    x.Object off (x.xbCredit off n) ∧ (x.xbCredit off n).rd (off + 4) 4 = x.rd (off + 4) 4 + n
      ∧ (x.xbCredit off n).rd off 4 = x.rd off 4 ∧ (x.xbCredit off n).rd (off + 8) 4 = x.rd (off + 8) 4 := by
  have o0 := Group.Object.refl off x h
  have hlt := x.rd_lt off
  have hc : x.xbCredit off n = x.wr (off + 4) 4 (x.rd (off + 4) 4 + n) false := by
    simp only [Group.xbCredit, hv, Bool.not_true, Bool.false_eq_true, if_false]
    rw [if_pos (.inr hn)]
  rw [hc]
  exact ⟨o0.wr 4 _ (by omega), o0.rd_same 4 _ (by omega), o0.rd_other 4 0 _ (by omega), o0.rd_other 4 8 _ (by omega)⟩

/-- The waiters of an object's phase let go, and its arrivals kept for their acquires (R192). -/
def Group.xbWoken (x : Group) (off : Nat) : Group :=
  { x with
    warps := x.warps.map (fun (w : Warp) => w.all (fun t => t.xbDone off (x.rd (off + 8) 4 % 2)))
    xbFrom := FMap.set ([], []) x.xbFrom off ([], (FMap.get ([], []) x.xbFrom off).1.foldl NSet.add (FMap.get ([], []) x.xbFrom off).2) }

/-- The words of an object whose phase completes with nothing over (R192). -/
theorem Group.xbCredit_woken (x : Group) (off n : Nat) (hv : x.xbValid off = true) (hex : x.rd off 4 ≠ 0)
    (hn : x.rd (off + 4) 4 + n = x.rd off 4) : ∃ v k, (v = 0 ∨ v = 2) ∧ x.xbCredit off n =
      ((((x.xbWoken off).wr (off + 4) 4 0 false).wr (off + 8) 4
        (x.rd (off + 8) 4 / 4 * 4 + v + (x.rd (off + 8) 4 % 2 + 1) % 2) false).wr (off + 12) 4 k false) := by
  have hc : x.xbCredit off n = (let ovr := if x.rd off 4 > x.rd off 4 ∨ x.rd (off + 8) 4 / 2 % 2 = 1 then 2 else 0
      let g := ((x.xbWoken off).wr (off + 4) 4 0 false).wr (off + 8) 4
        (x.rd (off + 8) 4 / 4 * 4 + ovr + (x.rd (off + 8) 4 % 2 + 1) % 2) false
      g.wr (off + 12) 4 (g.xbWaiters off) false) := by
    simp only [Group.xbCredit, hv, hn, Bool.not_true, Bool.false_eq_true, if_false]
    rw [if_neg (by omega), Nat.mod_self, Nat.div_self (Nat.pos_of_ne_zero hex)]
    rfl
  exact ⟨_, _, by split <;> simp, hc⟩

/-- A count that completes the phase leaves ARRIVED 0 and the other phase (R192). -/
theorem Group.xbCredit_completes (x : Group) (off n : Nat) (h : FMap.wf 0 x.scr = true) (hv : x.xbValid off = true)
    (hex : x.rd off 4 ≠ 0) (hn : x.rd (off + 4) 4 + n = x.rd off 4) :
    x.Object off (x.xbCredit off n) ∧ (x.xbCredit off n).rd (off + 4) 4 = 0
      ∧ (x.xbCredit off n).rd (off + 8) 4 % 2 = (x.rd (off + 8) 4 + 1) % 2 := by
  have hlt := x.rd_lt (off + 8)
  have oy : x.Object off (x.xbWoken off) := (Group.Object.refl off x h).same rfl
    (Group.By.mapAll .refl x (fun t => t.xbDone off (x.rd (off + 8) 4 % 2)) (fun t => t.xbDone_near _ _)).threads
  obtain ⟨v, k, hv2, hc⟩ := x.xbCredit_woken off n hv hex hn
  rw [hc]
  have o1 := oy.wr 4 0 (by omega)
  have o2 := o1.wr 8 (x.rd (off + 8) 4 / 4 * 4 + v + (x.rd (off + 8) 4 % 2 + 1) % 2) (by omega)
  refine ⟨o2.wr 12 k (by omega), ?_, ?_⟩
  · exact ((o2.rd_other 12 4 k (by omega)).trans (o1.rd_other 8 4 _ (by omega))).trans (oy.rd_same 4 0 (by omega))
  · rw [o2.rd_other 12 8 k (by omega), o1.rd_same 8 _ (by omega)]
    omega

theorem Group.WarpsOnly.xbValid {x y : Group} (h : x.WarpsOnly y) (off : Nat) : y.xbValid off = x.xbValid off := by
  obtain ⟨_, rfl⟩ := h; rfl

theorem Group.xbBad_false (x : Group) (off : Nat) (ha : off % 16 = 0) (hs : off + 16 ≤ x.scrSize) : x.xbBad off = false := by
  simp [Group.xbBad, ha, hs]

theorem chkXbar_none (n : Ins) (s : State) (g w u : Nat) (ha : ((s.thr g w u).reg n.a).v.toNat % 16 = 0)
    (hs : ((s.thr g w u).reg n.a).v.toNat + 16 ≤ (s.grp g).scrSize) (hv : (s.grp g).xbValid ((s.thr g w u).reg n.a).v.toNat = true) :
    chkXbar n s g w u = none := by
  simp only [chkXbar, Group.xbBad_false _ _ ha hs, hv, Bool.not_true, Bool.or_self, Bool.false_eq_true, if_false]

theorem State.pthr_of_pack {s t : State} (h : t.pack = s.pack) (u : Nat) : t.pthr u = t.thr s.pack.g s.pack.w u := by
  rw [State.pthr, h]

/-- A pack of one whose workgroup changes near itself: its thread moves on, and the rest of the workgroup stands. -/
structure State.Moved (s : State) (n : Ins) (u : Nat) (y : Group) (t : State) : Prop where
  keeps : s.keepsElse t s.pack.g s.pack.w []
  moved : (s.pthr u).movedOn (t.pthr u) Eff.none n.words
  grp : y.WarpsOnly (t.grp s.pack.g)

/-- The count of an arrival or an initialisation (R231). -/
def Ins.xbCnt (n : Ins) (x : Thread) : Nat := if n.imm then n.immZ else (x.reg n.b).v.toNat

section
variable (s : State) (n : Ins) (u : Nat) (F : Group → Group) (h : s.alone n u) (hf : (s.pthr u).flagRoom (n.flagOf (s.pthr u)))
  (hF : s.pgrp.Threads Thread.Near (F s.pgrp))
include h hf hF

theorem State.once_moved (body : State → Nat → Nat → Nat → List Nat → Once)
    (hb : body s s.pack.g s.pack.w u [u] = .done (s.modG s.pack.g F)) : s.Moved n u (F s.pgrp) (s.once n false body) := by
  have hn : s.Near (s.modG s.pack.g F) := .modG s s.pack.g F hF
  have hg := State.grp_modG_same s s.pack.g F h.2.1.1.1
  have hd := s.once_done (s.modG s.pack.g F) n body (h.together hf) (by rw [h.1]; exact hb)
  generalize s.modG s.pack.g F = r at hn hg hd
  have hp := hn.packMoves n h.2.1.1
  rw [hd]
  exact ⟨hp.1, (hp.2 u (by simp [h.1])).1, hg ▸ r.packOn_grp s n s.pack.g⟩

theorem State.inTurn_moved (chk : State → Nat → Nat → Nat → Cause) (body : State → Nat → Nat → Nat → State × Res)
    (hc : chk s s.pack.g s.pack.w u = none) (hb : body s s.pack.g s.pack.w u = (s.modG s.pack.g F, .ok Eff.none)) :
    s.Moved n u (F s.pgrp) (s.inTurn n chk body) := by
  have hn : s.Near (s.modG s.pack.g F) := .modG s s.pack.g F hF
  have hg := State.grp_modG_same s s.pack.g F h.2.1.1.1
  have hd := s.inTurn_alone n chk body u h hc hf
  rw [hb] at hd
  generalize s.modG s.pack.g F = r at hn hg hd
  have hm := hn.moves s.pack.g s.pack.w u Eff.none n.words (h.2.1.1.2.2.2.2 u (by simp [h.1])).2
  have hgw := r.modW_grp s.pack.g s.pack.w (fun x => x.mod u (fun x => (x.apply Eff.none).advance n.words)) s.pack.g
  have hd : s.inTurn n chk body = r.modT s.pack.g s.pack.w u (fun x => (x.apply Eff.none).advance n.words) := hd
  rw [hd]
  refine ⟨State.keepsElse_none hm.1 hm.2, ?_, hg ▸ hgw⟩
  rw [State.pthr_of_pack (s := s) (t := r.modT _ _ _ _) hn.pack]
  exact hm.2
end

theorem State.Moved.slowDone {s t : State} {n : Ins} {u : Nat} {y : Group} (h : s.Moved n u y t) : s.Moved n u y t.slowDone := by
  obtain ⟨hm, hp⟩ := t.slowDone_fields
  refine ⟨⟨hm.trans h.keeps.1, fun a b v hv => ?_⟩, ?_, h.grp.trans (t.slowDone_grp _)⟩
  · rw [t.slowDone_thr]
    exact h.keeps.2 a b v hv
  · rw [State.pthr_of_pack hp, t.slowDone_thr]
    exact h.moved

theorem State.doXbarInit_moved (s : State) (n : Ins) (u off : Nat) (h : s.alone n u) (hf : (s.pthr u).flagRoom (n.flagOf (s.pthr u)))
    (hoff : off = ((s.pthr u).reg n.a).v.toNat) (hbad : s.pgrp.xbBad off = false) (hc : n.xbCnt (s.pthr u) ≠ 0)
    (hw : s.pgrp.xbWaiters off = 0) (hn : s.pgrp.xbNamed off = false) (hh : s.xbHold s.pack.g s.pack.w u off = none)
    (hF : s.pgrp.Threads Thread.Near (s.pgrp.xbInit off (n.xbCnt (s.pthr u)))) :
    s.Moved n u (s.pgrp.xbInit off (n.xbCnt (s.pthr u))) (s.doXbarInit n) := by
  refine s.once_moved n u (fun x => x.xbInit off (n.xbCnt (s.pthr u))) h hf hF _ ?_
  subst hoff
  rw [State.pgrp] at hbad hw hn
  rw [Ins.xbCnt] at hc ⊢
  simp only [hbad, hw, hn, hh, hc, ne_eq, not_true_eq_false, decide_false, Bool.or_self, Bool.false_eq_true, if_false]

theorem State.doXbarInval_moved (s : State) (n : Ins) (u off : Nat) (h : s.alone n u) (hf : (s.pthr u).flagRoom (n.flagOf (s.pthr u)))
    (hoff : off = ((s.pthr u).reg n.a).v.toNat) (hbad : s.pgrp.xbBad off = false)
    (hw : s.pgrp.xbValid off = true → s.pgrp.xbWaiters off = 0 ∧ s.pgrp.xbNamed off = false)
    (hh : s.xbHold s.pack.g s.pack.w u off = none) (hF : s.pgrp.Threads Thread.Near (s.pgrp.xbInval off)) :
    s.Moved n u (s.pgrp.xbInval off) (s.doXbarInval n) := by
  refine s.once_moved n u (fun x => x.xbInval off) h hf hF _ ?_
  have hv : (s.pgrp.xbValid off && (s.pgrp.xbWaiters off != 0 || s.pgrp.xbNamed off)) = false := by
    cases hv : s.pgrp.xbValid off
    · rfl
    · obtain ⟨h1, h2⟩ := hw hv
      simp [h1, h2]
  subst hoff
  rw [State.pgrp] at hbad hv
  simp only [hbad, hv, hh, Bool.or_self, Bool.false_eq_true, if_false]

/-- What an arrival does to a workgroup before its credit: a synchronising access, and the arrival noted (R231). -/
def Group.xbReached (x : Group) (off t : Nat) : Group := (x.tsAccess t off 16 true true .sync).xbArrived off t

theorem Group.xbReached_scr (x : Group) (off t : Nat) : (x.xbReached off t).scr = x.scr := (x.tsAccess_tsOnly t off 16 true true .sync).scr.1

theorem Group.xbReached_spec (x : Group) (off t : Nat) (h : FMap.wf 0 x.scr = true) :
    FMap.wf 0 (x.xbReached off t).scr = true ∧ (∀ a, (x.xbReached off t).rd a 4 = x.rd a 4)
      ∧ (x.xbReached off t).xbValid off = x.xbValid off ∧ x.Threads Thread.Near (x.xbReached off t) := by
  have hs := x.xbReached_scr off t
  have ht := x.tsAccess_tsOnly t off 16 true true .sync
  refine ⟨by rw [hs]; exact h, fun a => Group.rd_congr hs a 4, ?_, ht.near⟩
  unfold Group.xbReached
  generalize x.tsAccess t off 16 true true .sync = y at ht
  obtain ⟨⟨_, _, rfl⟩, _⟩ := ht
  rfl

theorem State.doXbarArrive_moved (s : State) (n : Ins) (u off : Nat) (h : s.alone n u) (hf : (s.pthr u).flagRoom (n.flagOf (s.pthr u)))
    (hoff : off = ((s.pthr u).reg n.a).v.toNat) (hc : chkXbar n s s.pack.g s.pack.w u = none)
    (hb : s.pgrp.bankBusy (tid s.pack.w u) = false) (hh : s.xbHold s.pack.g s.pack.w u off = none)
    (hF : s.pgrp.Threads Thread.Near ((s.pgrp.xbReached off (tid s.pack.w u)).xbCredit off (n.xbCnt (s.pthr u)))) :
    s.Moved n u ((s.pgrp.xbReached off (tid s.pack.w u)).xbCredit off (n.xbCnt (s.pthr u))) (s.doXbarArrive n) := by
  refine State.Moved.slowDone (s.inTurn_moved n u (fun x => (x.xbReached off (tid s.pack.w u)).xbCredit off (n.xbCnt (s.pthr u)))
    h hf hF _ _ hc ?_)
  subst hoff
  rw [State.pgrp] at hb
  simp only [hb, hh, Bool.false_eq_true, if_false]
  rfl

/-- xbar.wait blocks its thread for the phase current now (R231). -/
theorem State.doXbarWait_blocks (s : State) (n : Ins) (u off : Nat) (h : s.alone n u) (hoff : off = ((s.pthr u).reg n.a).v.toNat)
    (hc : chkXbar n s s.pack.g s.pack.w u = none) (hh : s.xbHold s.pack.g s.pack.w u off = none)
    (hwf : FMap.wf 0 s.pgrp.scr = true) :
    s.keepsElse (s.doXbarWait n) s.pack.g s.pack.w []
      ∧ (∀ a, a < off ∨ off + 16 ≤ a → FMap.get 0 ((s.doXbarWait n).grp s.pack.g).scr a = FMap.get 0 s.pgrp.scr a)
      ∧ (s.doXbarWait n).pthr u = (s.pthr u).block (.xbar off (s.pgrp.rd (off + 8) 4 % 2)) n.words := by
  have hr : (s.pthr u).ready = true := (h.2.1.1.2.2.2.2 u (by simp [h.1])).2
  have hd : s.doXbarWait n = ((s.modT s.pack.g s.pack.w u (fun x => x.block (.xbar off (s.pgrp.rd (off + 8) 4 % 2)) n.words)).modG s.pack.g
      (fun x => x.wr (off + 12) 4 (x.xbWaiters off) false)).slowDone := by
    subst hoff
    unfold State.doXbarWait
    rw [s.control_alone n false _ _ u h hc]
    simp only [hh]
  rw [hd]
  have h1 := s.modT_threads (fun x y => y.sameFiles x) (fun _ => ⟨rfl, rfl, rfl, rfl, rfl, rfl, rfl⟩) s.pack.g s.pack.w u
    (fun x => x.block (.xbar off (s.pgrp.rd (off + 8) 4 % 2)) n.words) ⟨rfl, rfl, rfl, rfl, rfl, rfl, rfl⟩
  have h2 := s.thr_modT_same s.pack.g s.pack.w u (fun x => x.block (.xbar off (s.pgrp.rd (off + 8) 4 % 2)) n.words) hr
  have h3 := s.modW_grp s.pack.g s.pack.w (fun x => x.mod u (fun x => x.block (.xbar off (s.pgrp.rd (off + 8) 4 % 2)) n.words)) s.pack.g
  have hp : (s.modT s.pack.g s.pack.w u (fun x => x.block (.xbar off (s.pgrp.rd (off + 8) 4 % 2)) n.words)).pack = s.pack := rfl
  have hm : (s.modT s.pack.g s.pack.w u (fun x => x.block (.xbar off (s.pgrp.rd (off + 8) 4 % 2)) n.words)).mem = s.mem := rfl
  have h3 : s.pgrp.WarpsOnly ((s.modT s.pack.g s.pack.w u (fun x => x.block (.xbar off (s.pgrp.rd (off + 8) 4 % 2)) n.words)).grp s.pack.g) := h3
  generalize s.modT s.pack.g s.pack.w u (fun x => x.block (.xbar off (s.pgrp.rd (off + 8) 4 % 2)) n.words) = r at h1 h2 h3 hp hm
  have h4 := r.modG_threads (fun x y => y = x) (fun _ => rfl) s.pack.g (fun x => x.wr (off + 12) 4 (x.xbWaiters off) false) (fun _ _ => rfl)
  have h5 := modAt_getD_rel (fun x y : Group => FMap.wf 0 x.scr = true → ∀ a, a < off ∨ off + 16 ≤ a → FMap.get 0 y.scr a = FMap.get 0 x.scr a)
    (fun _ _ _ _ => rfl) r.groups s.pack.g (fun x => x.wr (off + 12) 4 (x.xbWaiters off) false) Group.void s.pack.g
    (fun hw => ((Group.Object.refl off _ hw).wr 12 _ (by omega)).out)
  have h5 : FMap.wf 0 (r.grp s.pack.g).scr = true → ∀ a, a < off ∨ off + 16 ≤ a →
      FMap.get 0 ((r.modG s.pack.g (fun x => x.wr (off + 12) 4 (x.xbWaiters off) false)).grp s.pack.g).scr a
        = FMap.get 0 (r.grp s.pack.g).scr a := h5
  have hp' : (r.modG s.pack.g (fun x => x.wr (off + 12) 4 (x.xbWaiters off) false)).pack = r.pack := rfl
  have hm' : (r.modG s.pack.g (fun x => x.wr (off + 12) 4 (x.xbWaiters off) false)).mem = r.mem := rfl
  generalize r.modG s.pack.g (fun x => x.wr (off + 12) 4 (x.xbWaiters off) false) = q at h4 h5 hp' hm'
  obtain ⟨hqm, hqp⟩ := q.slowDone_fields
  refine ⟨⟨(hqm.trans hm').trans hm, fun a b v _ => ?_⟩, fun a ha => ?_, ?_⟩
  · rw [q.slowDone_thr, h4]
    exact h1 a b v
  · rw [(q.slowDone_grp s.pack.g).scr, h5 (by rw [h3.scr]; exact hwf) a ha, h3.scr]
  · rw [State.pthr_of_pack ((hqp.trans hp').trans hp), q.slowDone_thr, h4, h2]

theorem Ins.immZ_lt (n : Ins) : n.immZ < 2 ^ 32 := Nat.lt_trans (imm16 n.f).isLt (by decide)

theorem Ins.xbCnt_lt (n : Ins) (x : Thread) : n.xbCnt x < 2 ^ 32 := by
  unfold Ins.xbCnt
  split
  · exact n.immZ_lt
  · exact BitVec.isLt _

/-- Settles O29: each form by its body. -/
theorem windowReadsFencesAndBarriers : Obligations.WindowReadsFencesAndBarriers := by
  refine ⟨?_, ?_, ?_⟩
  · intro i n s u hi ho h hf a win off m r
    have hr : (s.pthr u).ready = true := (h.2.1.1.2.2.2.2 u (by simp [h.1])).2
    rw [exec_of_insOf i n s hi]
    simp only [State.run, ho, State.doLdw]
    refine ⟨fun hp => ?_, fun hp hw htr => ?_, fun l c hp hw hl hin hout hc => ?_⟩
    · have hb : s.ldw1 n s.pack.g s.pack.w u = (s, .ok (loadEff n.d (n.w / 8) n.sg 0 true)) := by
        have hp : ((s.thr s.pack.g s.pack.w u).reg n.a).p = true := hp
        simp only [State.ldw1, hp, if_true]
      rw [s.inTurn_alone n noChk _ u h rfl hf, hb]
      rfl
    · have hb : s.ldw1 n s.pack.g s.pack.w u = (s, .trap 0x08 (BitVec.ofNat 64 (n.mb 0 3))) := by
        have hp : ((s.thr s.pack.g s.pack.w u).reg n.a).p = false := hp
        have hw : ((s.grp s.pack.g).win (n.mb 0 3)).2 = 0 := hw
        simp only [State.ldw1, hp, hw, Bool.false_eq_true, if_false, if_true]
      rw [s.inTurn_traps n _ u _ _ h hf hb htr noChk rfl]
    · obtain ⟨t, ht, hd⟩ := s.winFill_of s.pack.g win off (n.w / 8) l c hl hin hout hc
      have hq := s.winSent_memOnly s.pack.g (win.1 + off) (min (n.w / 8) (win.2 - off))
      rw [s.inTurn_alone n noChk _ u h rfl hf, s.ldw1_window t n u l hp hw ht]
      have hthr : (s.winSent s.pack.g (win.1 + off) (min (n.w / 8) (win.2 - off))).thr s.pack.g s.pack.w u = s.pthr u := by
        simp only [State.thr, State.wrp, State.grp, hq.groups]
      generalize loadEff n.d (n.w / 8) n.sg (leNat (fun k => (l.getD k (0, false)).1) 0 (n.w / 8)) (l.any (fun b => b.2)) = e
      have hm := hd.near.moves s.pack.g s.pack.w u e n.words (by rw [hthr]; exact hr)
      rw [hthr] at hm
      refine ⟨t.modT s.pack.g s.pack.w u (fun x => (x.apply e).advance n.words), rfl, hm.1, ?_⟩
      rw [State.pthr_of_pack (s := s) (t := t.modT _ _ _ _) (hd.pack.trans hq.pack)]
      exact hm.2
  · intro i n s u hi h hf id b me next
    have hr : (s.pthr u).ready = true := (h.2.1.1.2.2.2.2 u (by simp [h.1])).2
    have hrs : (s.pthr u).sched = .ready := by simpa [Thread.ready] using hr
    rw [exec_of_insOf i n s hi]
    refine ⟨fun ho hrel hacq => ?_, fun ho hm => ?_, fun ho hm ha hb => ?_⟩ <;> simp only [State.run, ho]
    · obtain ⟨r, hb, hs, hn⟩ := s.fence1_goes n u hrel hacq
      rw [State.doFence, s.inTurn_alone n noChk _ u h rfl hf, hb]
      have hthr : (if n.mb 6 2 = 1 then s else s.released s.pack.g (n.mb 3 3)).thr s.pack.g s.pack.w u = s.pthr u := by
        split
        · rfl
        · simp only [State.thr, State.wrp, State.grp, (s.released_memOnly s.pack.g (n.mb 3 3)).groups]
      have hpk : r.pack = s.pack := by
        rw [hn.pack]
        split
        · rfl
        · exact (s.released_memOnly s.pack.g (n.mb 3 3)).pack
      have hm := hn.moves s.pack.g s.pack.w u Eff.none n.words (by rw [hthr]; exact hr)
      refine ⟨r.modT s.pack.g s.pack.w u (fun x => (x.apply Eff.none).advance n.words), rfl, ?_,
        State.keepsElse_none hm.1 hm.2, ?_⟩
      · rw [← hs]
        exact (r.modW_grp s.pack.g s.pack.w (fun x => x.mod u (fun x => (x.apply Eff.none).advance n.words)) s.pack.g).scr
      · rw [State.pthr_of_pack (s := s) (t := r.modT _ _ _ _) hpk, ← hthr]
        exact hm.2
    · rw [State.doBar, s.control_noChk n _ _ u h]
      simp only [State.bar1, hm, if_true]
      exact congrArg _ (s.modT_congr _ _ _ _ _ rfl)
    · have hm2 : n.mb 4 2 ≠ 2 := by omega
      rw [State.doBar, s.control_noChk n _ _ u h, s.bar1_arrives n _ _ u hm2 ha hb]
      obtain ⟨x, hx, hbar⟩ := s.arrived_thr s.pack.g s.pack.w u id ⟨b.phase, NSet.add b.arrived me⟩ (n.atBar id b.phase) hr
      refine ⟨_, rfl, s.arrived_keeps _ _ u id _ _ (n.atBar_sameFiles id b.phase) _ _, s.arrived_scr _ _ u id _ _, fun h1 => ?_,
        fun h3 => ?_, fun hall => ?_⟩
      · rw [State.pthr_of_pack (State.arrived_pack s _ _ u _ _ _)]
        rw [n.atBar_arrive id b.phase h1] at hbar
        have := hx.movedOn hr Eff.none n.words
        rw [Eff.none_apply] at this
        exact this.near hrs hbar.near
      · rw [State.pthr_of_pack (State.arrived_pack s _ _ u _ _ _)]
        rw [n.atBar_sync id b.phase h3] at hbar
        obtain ⟨h1, h2⟩ := hbar.block
        exact ⟨h1, h2.trans (hx.after _)⟩
      · refine s.arrived_phase _ _ u id ⟨b.phase, NSet.add b.arrived me⟩ _ hr (fun y hy => n.atBar_live id b.phase y hy)
          (n.mb_lt 0 4) (NSet.add_ne_nil _ _) (fun k hk => ?_)
        rw [NSet.has_add, Bool.or_eq_true, decide_eq_true_eq]
        exact (hall k hk)
  · intro i n s u hi h hf hwf off cnt word only hal hsz hh hbb
    obtain ⟨hscr, _⟩ := s.pgrp.filesWf_spec hwf
    have hbad := s.pgrp.xbBad_false off hal hsz
    let me := tid s.pack.w u
    have hchk : s.pgrp.xbValid off = true → chkXbar n s s.pack.g s.pack.w u = none := fun hv => chkXbar_none n s _ _ u hal hsz hv
    have honly : ∀ {y t}, s.Moved n u y t → s.pgrp.Object off y → only t := fun hm ho =>
      ⟨hm.keeps, fun a ha => by rw [hm.grp.scr]; exact ho.out a ha⟩
    have hword : ∀ {y t : Group} (k : Nat), y.WarpsOnly t → word t k = y.rd (off + 4 * k) 4 := fun k hm => Group.rd_congr hm.scr _ _
    rw [exec_of_insOf i n s hi]
    refine ⟨fun ho hc hw hn => ?_, fun ho hv hlt => ?_, fun ho hv hex heq => ?_, fun ho hv => ?_, fun ho hw => ?_⟩ <;>
      simp only [State.run, ho]
    · obtain ⟨hobj, h0, h1, h2, h3, hvalid⟩ := s.pgrp.xbInit_spec off cnt hscr (n.xbCnt_lt _) hal
      have hm := s.doXbarInit_moved n u off h hf rfl hbad hc hw hn hh hobj.thr
      exact ⟨_, rfl, honly hm hobj, hm.moved, (hword 0 hm.grp).trans h0, (hword 1 hm.grp).trans h1, (hword 2 hm.grp).trans h2,
        (hword 3 hm.grp).trans h3, (hm.grp.xbValid off).trans hvalid⟩
    · obtain ⟨hwf', hrd, hvl, hnear⟩ := s.pgrp.xbReached_spec off me hscr
      obtain ⟨hobj, h1, h0, h2⟩ := Group.xbCredit_adds _ off cnt hwf' (hvl.trans hv) (by rw [hrd, hrd]; exact hlt)
      have hobj := (Group.Object.of_near hscr (s.pgrp.xbReached_scr off me) hnear).trans hobj
      have hm := s.doXbarArrive_moved n u off h hf rfl (hchk hv) (hbb ho) hh hobj.thr
      exact ⟨_, rfl, honly hm hobj, hm.moved, (hword 1 hm.grp).trans (h1.trans (congrArg (· + cnt) (hrd _))),
        (hword 0 hm.grp).trans (h0.trans (hrd _)), (hword 2 hm.grp).trans (h2.trans (hrd _))⟩
    · obtain ⟨hwf', hrd, hvl, hnear⟩ := s.pgrp.xbReached_spec off me hscr
      obtain ⟨hobj, h1, h2⟩ := Group.xbCredit_completes _ off cnt hwf' (hvl.trans hv) (by rw [hrd]; exact hex)
        (by rw [hrd, hrd]; exact heq)
      have hobj := (Group.Object.of_near hscr (s.pgrp.xbReached_scr off me) hnear).trans hobj
      have hm := s.doXbarArrive_moved n u off h hf rfl (hchk hv) (hbb ho) hh hobj.thr
      exact ⟨_, rfl, honly hm hobj, hm.moved, (hword 1 hm.grp).trans h1,
        (congrArg (· % 2) (hword 2 hm.grp)).trans (h2.trans (congrArg (fun v => (v + 1) % 2) (hrd _)))⟩
    · obtain ⟨hk, hout, hb⟩ := s.doXbarWait_blocks n u off h rfl (hchk hv) hh hscr
      exact ⟨_, rfl, ⟨hk, hout⟩, by rw [hb]; rfl, by rw [hb]; rfl⟩
    · obtain ⟨hobj, hvalid⟩ := s.pgrp.xbInval_spec off hscr hal
      have hm := s.doXbarInval_moved n u off h hf rfl hbad hw hh hobj.thr
      exact ⟨_, rfl, honly hm hobj, hm.moved, (hm.grp.xbValid off).trans hvalid⟩

end Sys2Proof.Machine
end

section
/-! ## The step (O54) -/
namespace Sys2Proof.Machine

/-! ### Every instruction answers -/

theorem execWaveFormation_goes (d cl c k : Nat) (us : List Nat) (s : State) : ∃ t, execWaveFormation d cl c k us s = .next t := by
  unfold execWaveFormation
  split <;> exact ⟨_, rfl⟩

/-- Every arm but that of a wave's formation is a next state by its definition. -/
theorem exec_goes (i : Instr) (s : State) : ∃ t, exec i s = .next t := by
  cases i with
  | waveFormation d cl c k us => exact execWaveFormation_goes d cl c k us s
  | _ => exact ⟨_, rfl⟩

/-! ### The choice of a step -/

/-- A machine as a step finds it: one clock on, its input taken. -/
def State.begun (s : State) : State := { s with clock := s.clock + 1, inputs := s.inputs.tail }

/-- What the counters bring then stands before the agenda. -/
def State.ticked (s : State) : State := { s.begun with agenda := s.begun.timed ++ s.agenda }

/-- An input acts, and one that passes leaves the step to the machine. -/
def State.takes (r : State) (i : Input) : Host.Outcome State Fault Refusal :=
  match i with
  | .pass => r.turnOf
  | _ => .next (r.input i)

theorem State.takes_input (r : State) (i : Input) (h : i ≠ .pass) : r.takes i = .next (r.input i) := by
  cases i with
  | pass => exact absurd rfl h
  | _ => rfl

theorem step_eq (s : State) (h : s.pkg.stopped = false) : step s = onNext State.endOfStep (s.ticked.takes (s.inputs.headD .pass)) := by
  unfold step
  rw [if_neg (by simp [h])]
  rfl

/-- A step that takes no input. -/
theorem step_pass (s : State) (h : s.pkg.stopped = false) (hi : s.inputs.headD .pass = .pass) :
    step s = onNext State.endOfStep s.ticked.turnOf := by
  rw [step_eq s h, hi]
  rfl

theorem State.turnOf_event (s : State) (e : Instr) (l : List Instr) (h : s.agenda = e :: l) (he : e.view = .event) :
    s.turnOf = exec e { s with agenda := l } := by
  simp only [State.turnOf, h, runEvent, he]

theorem State.turnOf_pack (s : State) (h : s.agenda = []) (hp : s.pack.ts.isEmpty = false) : s.turnOf = s.runPack := by
  simp only [State.turnOf, h, hp, Bool.false_eq_true, if_false]

theorem State.turnOf_turn (s : State) (h : s.agenda = []) (hp : s.pack.ts = []) :
    s.turnOf = runTurn (s.turn.headD (s.clock - 1)) { s with turn := s.turn.tail } := by
  simp only [State.turnOf, h, hp, List.isEmpty_nil, if_true]

/-- Where the counters bring nothing, the machine as the step finds it. -/
theorem State.ticked_idle (s : State) (ht : s.begun.timed = []) : s.ticked = s.begun := by
  unfold State.ticked
  rw [ht, List.nil_append]
  rfl

/-! ### The pack in issue -/

/-- Where no notice is due, none is taken (R171). -/
theorem State.notices_none (s : State) (h : ∀ u ∈ s.pack.ts, (s.pthr u).noticeDue = false) : s.notices = s := by
  have hd : s.pack.ts.filter (fun t => (s.thr s.pack.g s.pack.w t).noticeDue) = [] := filter_none _ _ h
  unfold State.notices
  simp only [hd, List.foldl_nil, List.contains_nil, Bool.not_false, List.filter_true]

section
variable (s : State) (t0 : Nat) (r : List Nat) (h : s.pack.ts = t0 :: r) (hf : s.pwrp.fold = none)
  (hall : ∀ u ∈ s.pack.ts, (s.pthr u).ready = true ∧ (s.pthr u).together (s.pthr t0) = true)
include h hf hall

/-- A pack that stands ready and together stays the pack. -/
theorem State.pack_stays :
    s.pack.ts.filter (fun t => ((s.wrp s.pack.g s.pack.w).thr t).ready && (s.wrp s.pack.g s.pack.w).fold.isNone) = t0 :: r
    ∧ r.filter (fun u => ((s.wrp s.pack.g s.pack.w).thr u).together ((s.wrp s.pack.g s.pack.w).thr t0)) = r
    ∧ ({ s with pack := ⟨s.pack.g, s.pack.w, t0 :: r⟩ } : State) = s := by
  have hf : (s.wrp s.pack.g s.pack.w).fold = none := hf
  refine ⟨?_, List.filter_eq_self.mpr (fun u hu => (hall u (by rw [h]; simp [hu])).2), by rw [← h]⟩
  rw [List.filter_eq_self.mpr, h]
  intro u hu
  rw [hf, show ((s.wrp s.pack.g s.pack.w).thr u).ready = true from (hall u hu).1]
  rfl

/-- A native pack whose word is fetched runs it (R65). -/
theorem State.runPack_native (hm : (s.pthr t0).mode = .native) (s1 : State) (v : DWord)
    (hv : s.fetchNative s.pack.g (s.pthr t0) = .ok (s1, v)) : s.runPack = s1.runNative (s.pthr t0) v := by
  obtain ⟨h1, h2, h3⟩ := s.pack_stays t0 r h hf hall
  have hm : ((s.wrp s.pack.g s.pack.w).thr t0).mode = .native := hm
  have hv : s.fetchNative s.pack.g ((s.wrp s.pack.g s.pack.w).thr t0) = .ok (s1, v) := hv
  unfold State.runPack
  simp only [h1, h2, h3, hm, hv]
  rfl

/-- One whose word cannot be fetched waits (R315). -/
theorem State.runPack_native_waits (hm : (s.pthr t0).mode = .native) (s1 : State) (va : Nat)
    (hv : s.fetchNative s.pack.g (s.pthr t0) = .error (s1, va)) : s.runPack = .next (s1.fetchWait va) := by
  obtain ⟨h1, h2, h3⟩ := s.pack_stays t0 r h hf hall
  have hm : ((s.wrp s.pack.g s.pack.w).thr t0).mode = .native := hm
  have hv : s.fetchNative s.pack.g ((s.wrp s.pack.g s.pack.w).thr t0) = .error (s1, va) := hv
  unfold State.runPack
  simp only [h1, h2, h3, hm, hv]

/-- A Prerin pack in which no notice is due runs its words, once their lines are fetched (R86, R171). -/
theorem State.runPack_prerin (hm : (s.pthr t0).mode = .prerin) (hd : ∀ u ∈ s.pack.ts, (s.pthr u).noticeDue = false)
    (ws : List Word) (gap : Option Nat) (s1 : State)
    (hw : s.fetchPrerin s.pgrp.die s.pgrp.core s.pgrp.vdev (s.pthr t0).pc.toNat 4 = (ws, gap))
    (hl : s.fillWords s.pgrp.die s.pgrp.core s.pgrp.vdev (s.pthr t0).pc.toNat ws.length = .ok s1) :
    s.runPack = s1.runPrerin (s.pthr t0) ws gap := by
  obtain ⟨h1, h2, h3⟩ := s.pack_stays t0 r h hf hall
  have hm : ((s.wrp s.pack.g s.pack.w).thr t0).mode = .prerin := hm
  have hw : s.fetchPrerin (s.grp s.pack.g).die (s.grp s.pack.g).core (s.grp s.pack.g).vdev
    ((s.wrp s.pack.g s.pack.w).thr t0).pc.toNat 4 = (ws, gap) := hw
  have hl : s.fillWords (s.grp s.pack.g).die (s.grp s.pack.g).core (s.grp s.pack.g).vdev
    ((s.wrp s.pack.g s.pack.w).thr t0).pc.toNat ws.length = .ok s1 := hl
  have he : s.pack.ts.isEmpty = false := by rw [h]; rfl
  unfold State.runPack
  simp only [h1, h2, h3, hm, s.notices_none hd, he, hw, hl, Bool.false_eq_true, if_false]
  rfl
end

theorem State.fillWords_diesOnly (n : Nat) (s t : State) (d c v va : Nat) (h : s.fillWords d c v va n = .ok t) : s.DiesOnly t := by
  induction n generalizing s va with
  | zero => cases h; exact .refl _
  | succ n ih =>
    unfold State.fillWords at h
    split at h
    · cases h
    · next r hr => exact ((s.payLine_diesOnly r d c v va hr).trans (r.fillLine_diesOnly d c v va)).trans (ih _ _ h)

/-- The address of the word that a native thread stands at (R77). -/
def Thread.wordAt (x : Thread) : Nat := if x.tix = 0 then x.pc.toNat else x.pc.toNat + 8 * x.tix

theorem Thread.at'_native (x : Thread) (hm : x.mode = .native) (hlt : x.pc.toNat + 8 * x.tix < 2 ^ 64) : x.at'.toNat = x.wordAt := by
  have h8 : (8 * BitVec.ofNat 64 x.tix).toNat = 8 * x.tix := by
    have h1 : (8 : DWord).toNat = 8 := rfl
    rw [BitVec.toNat_mul, BitVec.toNat_ofNat, h1]
    omega
  rw [Thread.at', hm, Thread.wordAt]
  simp only [BitVec.toNat_add, h8, Nat.mod_eq_of_lt hlt]
  split
  · next h => rw [h, Nat.mul_zero, Nat.add_zero]
  · rfl

theorem State.fetchNative_eq (s : State) (x : Thread) (hm : x.mode = .native) (hlt : x.pc.toNat + 8 * x.tix < 2 ^ 64) :
    (∀ r, s.fetchWord s.pgrp.die s.pgrp.core s.pgrp.vdev x.wordAt = .ok r → s.fetchNative s.pack.g x = .ok r)
    ∧ ∀ s1, s.fetchWord s.pgrp.die s.pgrp.core s.pgrp.vdev x.wordAt = .error s1 → s.fetchNative s.pack.g x = .error (s1, x.wordAt) := by
  unfold State.fetchNative
  simp only [x.at'_native hm hlt]
  exact ⟨fun r hr => by rw [hr], fun s1 hs => by rw [hs]⟩

/-- A native word behind a header runs as the instruction it decodes to (R65, R77, R82). -/
theorem State.runNative_instr (s : State) (x : Thread) (v : DWord) (i : Instr) (hd : decodeNative v = .ok i) (ht : x.tix ≠ 0)
    (hb : ∀ h, i ≠ .clauseBoundary h) :
    s.runNative x v = onNext (fun s' => s'.yieldHint s.pack.g s.pack.w x) (s.issue i .native) := by
  unfold State.runNative
  rw [hd]
  cases i with
  | clauseBoundary h => exact absurd rfl (hb h)
  | _ => exact if_neg ht

theorem State.runNative_header (s : State) (x : Thread) (v : DWord) (hh : HFields) (hd : decodeNative v = .ok (.clauseBoundary hh))
    (ht : x.tix = 0) : s.runNative x v = onNext State.passedHeader (exec (.clauseBoundary hh) s) := by
  simp only [State.runNative, hd, ht, if_true]

theorem State.runNative_bad (s : State) (x : Thread) (v : DWord) (e : Reject) (hd : decodeNative v = .error e) (ht : x.tix ≠ 0) :
    s.runNative x v = .next (s.badWord v) := by
  simp only [State.runNative, hd, ht, false_and, if_false]

theorem onNext_id (o : Host.Outcome State Fault Refusal) : onNext id o = o := by
  cases o <;> rfl

theorem onNext_onNext (f k : State → State) (o : Host.Outcome State Fault Refusal) :
    onNext f (onNext k o) = onNext (fun s => f (k s)) o := by
  cases o <;> rfl

/-- Settles O54: the choice of a step, then the pack's word by what it decodes to. -/
theorem stepRunsTheDecodedInstruction : Obligations.StepRunsTheDecodedInstruction := by
  refine ⟨?_, fun s h => if_pos h, exec_goes⟩
  intro s hst s0 with'
  have hwith : ∀ o f, with' o f = onNext State.endOfStep (onNext f o) := fun o f => by cases o <;> rfl
  refine ⟨fun i l hi hp => ?_, fun e l hi ha he => ?_, fun hi ht ha hp => ?_, fun t0 r hi ht ha hts hf hall => ?_⟩
  · rw [step_eq s hst, hi, List.headD_cons, State.takes_input _ i hp]
    rfl
  · rw [step_pass s hst hi, s.ticked.turnOf_event e l ha he, hwith, onNext_id]
    rfl
  · rw [step_pass s hst hi, s.ticked_idle ht, s.begun.turnOf_turn ha hp, hwith, onNext_id]
    rfl
  · have hstep : step s = onNext State.endOfStep s0.runPack := by
      rw [step_pass s hst hi, s.ticked_idle ht, s.begun.turnOf_pack ha (by rw [show s.begun.pack.ts = _ from hts]; rfl)]
      rfl
    intro x d c v at'
    refine ⟨fun hm hlt => ⟨fun s1 w hw => ?_, fun s1 hw => ?_⟩, fun ws gap s1 hm hd hw hl => ?_⟩
    · have hrun : s0.runPack = s1.runNative x w :=
        s0.runPack_native t0 r hts hf hall hm s1 w ((s0.fetchNative_eq x hm hlt).1 _ hw)
      have hpk : s1.pack = s.pack := (State.fetchWord_diesOnly _ _ _ _ _ _ _ hw).pack
      refine ⟨fun i hdec htix hb => ?_, fun h hdec htix => ?_, fun e hdec htix => ?_⟩
      · rw [hstep, hrun, s1.runNative_instr x w i hdec htix hb, State.issue, hwith, hpk]
        simp only [onNext_onNext]
      · rw [hstep, hrun, s1.runNative_header x w h hdec htix, hwith]
      · rw [hstep, hrun, s1.runNative_bad x w e hdec htix]
        rfl
    · rw [hstep, s0.runPack_native_waits t0 r hts hf hall hm s1 _ ((s0.fetchNative_eq x hm hlt).2 _ hw)]
      rfl
    · have hrun : s0.runPack = s1.runPrerin x ws gap := s0.runPack_prerin t0 r hts hf hall hm hd ws gap s1 hw hl
      have hpk : s1.pack = s.pack := (State.fillWords_diesOnly _ _ _ _ _ _ _ hl).pack
      refine ⟨fun i k hdec => ?_, fun e w hdec he => ?_⟩
      · rw [hstep, hrun, State.runPrerin, hdec, hwith, ← hpk]
        rfl
      · rw [hstep, hrun, State.runPrerin, hdec]
        cases e with
        | noWord => exact absurd rfl he
        | _ => rfl

end Sys2Proof.Machine
end

section
/-! ## Poisoned operands, format words and bank images that trap (O19) -/
namespace Sys2Proof.Machine

/-! ### The lowest poisoned register (R64) -/

theorem minBy_id_spec (l : List Nat) : match minBy id l with
    | none => l = []
    | some y => y ∈ l ∧ ∀ k ∈ l, y ≤ k := by
  induction l with
  | nil => rfl
  | cons x l ih =>
    rw [minBy]
    cases hm : minBy id l with
    | none =>
      rw [hm] at ih
      simp only at ih
      simp [ih]
    | some y =>
      rw [hm] at ih
      obtain ⟨hy, hle⟩ := ih
      by_cases hxy : x ≤ y
      · simp only [id_eq, hxy, if_true]
        exact ⟨by simp, fun k hk => by
          rcases List.mem_cons.mp hk with rfl | hk
          · exact le_refl _
          · exact hxy.trans (hle k hk)⟩
      · simp only [id_eq, hxy, if_false]
        exact ⟨by simp [hy], fun k hk => by
          rcases List.mem_cons.mp hk with rfl | hk
          · omega
          · exact hle k hk⟩

theorem minBy_id_of (l : List Nat) (r : Nat) (hr : r ∈ l) (h : ∀ k ∈ l, r ≤ k) : minBy id l = some r := by
  have hs := minBy_id_spec l
  cases hm : minBy id l with
  | none =>
    rw [hm] at hs
    simp only at hs
    simp [hs] at hr
  | some y =>
    rw [hm] at hs
    rw [Nat.le_antisymm (hs.2 r hr) (h y hs.1)]

/-- `r` is the lowest-numbered poisoned register that an instruction reads in a thread. -/
abbrev Ins.lowest (n : Ins) (x : Thread) (r : Nat) : Prop :=
  r ∈ n.srcs ∧ (x.reg r).p = true ∧ ∀ k ∈ n.srcs, (x.reg k).p = true → r ≤ k

theorem Thread.lowestPoison_of (x : Thread) (l : List Nat) (r : Nat) (hr : r ∈ l) (hp : (x.reg r).p = true)
    (h : ∀ k ∈ l, (x.reg k).p = true → r ≤ k) : x.lowestPoison l = some r :=
  minBy_id_of _ r (by simp [hr, hp]) (fun k hk => by
    obtain ⟨hk, hkp⟩ := List.mem_filter.mp hk
    exact h k hk hkp)

/-- The forms that trap on the poison of what they store control nothing by it. -/
theorem Ins.controlReg_of_stores (n : Ins) (h : storesPoison n.op = true) : n.controlReg = [] := by
  revert h
  unfold Ins.controlReg storesPoison
  cases n.op <;> simp

theorem poisonTrap_lowest (n : Ins) (x : Thread) (r : Nat) (hs : storesPoison n.op = true) (h : n.lowest x r) :
    poisonTrap x n = some (0x03, BitVec.ofNat 64 r) := by
  obtain ⟨hr, hp, hmin⟩ := h
  have hc : x.lowestPoison [] = none := rfl
  simp only [poisonTrap, n.controlReg_of_stores hs, hc, hs, x.lowestPoison_of n.srcs r hr hp hmin, if_true, Option.map_some]

/-! ### What comes first where the guard is true (R33) -/

theorem before_take (i : Ins) (c : Cause) (t : Thread) (h : t.guard i.f.guard = .take) :
    before i c t = (firstOf c (poisonTrap t i)).map (fun cv => .trap cv.1 cv.2) := by
  simp [before, h]

/-- Where its own checks pass, the lowest poisoned register traps. -/
theorem before_lowest (n : Ins) (x : Thread) (r : Nat) (hg : x.guard n.f.guard = .take) (hs : storesPoison n.op = true)
    (h : n.lowest x r) : before n none x = some (.trap 0x03 (BitVec.ofNat 64 r)) := by
  rw [before_take n _ x hg, poisonTrap_lowest n x r hs h]
  rfl

/-- A failed check that stands before the poison of an operand is taken. -/
theorem before_check (n : Ins) (x : Thread) (c : Nat) (v : DWord) (hg : x.guard n.f.guard = .take)
    (h : ∀ p, poisonTrap x n = some p → causeRank c ≤ causeRank p.1) :
    before n (some (c, v)) x = some (.trap c v) := by
  rw [before_take n _ x hg]
  cases hp : poisonTrap x n with
  | none => rfl
  | some p => simp [firstOf, firstCause, not_lt.mpr (h p hp)]

/-- Operands of a thread trap with 0x03 or 0x04 (R64). -/
theorem poisonTrap_cause (x : Thread) (n : Ins) (p : Nat × DWord) (h : poisonTrap x n = some p) : p.1 = 0x03 ∨ p.1 = 0x04 := by
  unfold poisonTrap at h
  split at h
  · exact .inr (by simpa using congrArg Prod.fst (Option.some.inj h).symm)
  · split at h
    · obtain ⟨r, -, hr⟩ := Option.map_eq_some_iff.mp h
      exact .inl (by rw [← hr])
    · exact absurd h (by simp)

/-- The checks with causes up to 0x09 in the order of R33 come before the poison of an operand. -/
theorem before_check_of_rank (n : Ins) (x : Thread) (c : Nat) (v : DWord) (hg : x.guard n.f.guard = .take)
    (hc : causeRank c ≤ causeRank 0x04) : before n (some (c, v)) x = some (.trap c v) := by
  refine before_check n x c v hg (fun p hp => ?_)
  have h34 : causeRank 0x04 ≤ causeRank 0x03 := by decide
  rcases poisonTrap_cause x n p hp with h | h
  · exact h ▸ hc.trans h34
  · exact h ▸ hc

/-! ### A pack of one thread that traps before the body -/

section
variable (s : State) (n : Ins) (u c : Nat) (v : DWord) (hts : s.pack.ts = [u]) (hp : s.passes n)
  (ht : s.trapsAt s.pack.g s.pack.w u)
include hts hp ht

theorem State.inTurn_first (chk : State → Nat → Nat → Nat → Cause) (body : State → Nat → Nat → Nat → State × Res)
    (hb : before n (chk s s.pack.g s.pack.w u) (s.pthr u) = some (.trap c v)) :
    s.inTurn n chk body = s.modT s.pack.g s.pack.w u (fun x => x.takeTrap s.pwrp.kd.trap c v) := by
  unfold State.inTurn
  rw [State.front_of s n.use _ _ hp.1.2.2.1 hp.2.1 hp.2.2.1 hp.2.2.2]
  have hr : (s.thr s.pack.g s.pack.w u).ready = true := (hp.1.2.2.2.2 u (by simp [hts])).2
  have hb : before n (chk s s.pack.g s.pack.w u) (s.thr s.pack.g s.pack.w u) = some (.trap c v) := hb
  simp only [hts, List.foldl_cons, List.foldl_nil, hr, Bool.not_true, Bool.false_eq_true, if_false, hb]
  exact s.trapT_of _ _ _ _ _ ht

theorem State.control_first (ends : Bool) (chk : State → Nat → Nat → Nat → Cause) (body : State → Nat → Nat → Nat → State)
    (hb : before n (chk s s.pack.g s.pack.w u) (s.pthr u) = some (.trap c v)) :
    s.control n ends chk body = s.modT s.pack.g s.pack.w u (fun x => x.takeTrap s.pwrp.kd.trap c v) := by
  unfold State.control
  rw [State.front_of s n.use _ _ hp.1.2.2.1 hp.2.1 hp.2.2.1 hp.2.2.2]
  have hr : (s.thr s.pack.g s.pack.w u).ready = true := (hp.1.2.2.2.2 u (by simp [hts])).2
  have hb : before n (chk s s.pack.g s.pack.w u) (s.thr s.pack.g s.pack.w u) = some (.trap c v) := hb
  simp only [hts, List.foldl_cons, List.foldl_nil, State.move1, hr, Bool.not_true, Bool.false_eq_true, if_false, hb]
  exact s.trapT_of _ _ _ _ _ ht

theorem State.once_first (pending : Bool) (body : State → Nat → Nat → Nat → List Nat → Once)
    (hb : before n none (s.pthr u) = some (.trap c v)) (hg : (s.pthr u).guard n.f.guard = .take) :
    s.once n pending body = s.modT s.pack.g s.pack.w u (fun x => x.takeTrap s.pwrp.kd.trap c v) := by
  unfold State.once
  rw [State.front_of s n.use _ _ hp.1.2.2.1 hp.2.1 hp.2.2.1 hp.2.2.2]
  have hb : before n none ((s.wrp s.pack.g s.pack.w).thr u) = some (.trap c v) := hb
  have hg : ((s.wrp s.pack.g s.pack.w).thr u).guard n.f.guard = .take := hg
  simp only [hts, List.filter_cons, List.filter_nil, hb, Option.isNone_some, Bool.false_eq_true, if_false, List.foldl_cons,
    List.foldl_nil, State.ownTraps, hg]
  exact s.trapT_of _ _ _ _ _ ht

/-- A queue on which no thread waits has nothing to deliver (R282). -/
theorem State.queueIns_first (body : State → Nat → Nat → Nat → Nat → State) (q : Nat)
    (hq : s.queueOf s.pgrp.vdev (n.handle (s.pthr u)) = some q) (hw : (s.queue q).waits = [])
    (hg : (s.pthr u).guard n.f.guard = .take)
    (hb : before n (chkQueue n s s.pack.g s.pack.w u) (s.pthr u) = some (.trap c v)) :
    s.queueIns n body = s.modT s.pack.g s.pack.w u (fun x => x.takeTrap s.pwrp.kd.trap c v) := by
  have hset : s.settleNamed n [u] = s := by
    have hq : s.queueOf (s.grp s.pack.g).vdev (n.handle (s.thr s.pack.g s.pack.w u)) = some q := hq
    have hg : (s.thr s.pack.g s.pack.w u).guard n.f.guard = .take := hg
    simp only [State.settleNamed, List.foldl_cons, List.foldl_nil, State.settleFor, hg, if_true, hq, State.settleQ, hw]
    rfl
  unfold State.queueIns
  rw [State.front_of s n.use _ _ hp.1.2.2.1 hp.2.1 hp.2.2.1 hp.2.2.2]
  have hr : (s.thr s.pack.g s.pack.w u).ready = true := (hp.1.2.2.2.2 u (by simp [hts])).2
  have hb : before n (chkQueue n s s.pack.g s.pack.w u) (s.thr s.pack.g s.pack.w u) = some (.trap c v) := hb
  simp only [hts, hset, List.foldl_cons, List.foldl_nil, State.move1, hr, Bool.not_true, Bool.false_eq_true, if_false, hb]
  exact s.trapT_of _ _ _ _ _ ht

end

/-! ### The forms by the way they act -/

/-- The engine commands, and xbar.init and xbar.inval, act once for the pack. -/
theorem State.run_once (s : State) (n : Ins)
    (h : n.op ∈ [Op.cpy, .cpyg, .cpys, .cpyr, .ldg, .stg, .atmg, .pref, .smap, .xbarInit, .xbarInval]) :
    ∃ p body, s.run n = s.once n p body := by
  simp only [List.mem_cons, List.not_mem_nil, or_false] at h
  rcases h with h | h | h | h | h | h | h | h | h | h | h <;>
    simp only [State.run, h, State.doCopy, State.doLdg, State.doStg, State.doAtmg, State.doPref, State.doAccs, State.doSmap,
      State.doXbarInit, State.doXbarInval] <;>
    exact ⟨_, _, rfl⟩

theorem State.run_queue (s : State) (n : Ins) (h : n.op ∈ [Op.qrsv, .qenq, .qdeq, .qtry, .qsteal, .qerr, .qrest, .qstat]) :
    ∃ body, s.run n = s.queueIns n body := by
  simp only [List.mem_cons, List.not_mem_nil, or_false] at h
  rcases h with h | h | h | h | h | h | h | h <;> simp only [State.run, h] <;> exact ⟨_, rfl⟩

theorem State.run_target (s : State) (n : Ins) (h : n.op = .brx ∨ n.op = .callx ∨ n.op = .ret) :
    ∃ body, s.run n = s.control n true (chkTarget n) body := by
  rcases h with h | h | h <;> simp only [State.run, h] <;> exact ⟨_, rfl⟩

/-! ### Scratch stores and atomics (R224) -/

/-- The address of a store or atomic of scratch. -/
def Ins.storeOff (n : Ins) (x : Thread) : Nat := if n.op = .atms then (x.reg n.a).v.toNat else n.scrOff x
/-- The form of a store or atomic of scratch. -/
def Ins.storeForm (n : Ins) : ScrForm :=
  if n.op = .stsr then n.formN else if n.op = .atms then ⟨n.w / 8, 1, n.w / 8, n.mb 6 2, n.mb 3 3⟩ else n.formV
/-- The bytes of a store or atomic lie aligned within scratch and in no transfer barrier (R26, R192). -/
abbrev Group.fits (x : Group) (f : ScrForm) (off : Nat) : Prop :=
  off % f.al = 0 ∧ off + f.w * f.n ≤ x.scrSize ∧ x.xbHit off (f.w * f.n) = false

theorem Group.fits_iff (x : Group) (f : ScrForm) (off : Nat) :
    x.fits f off ↔ x.scrOk off (f.w * f.n) f.al = true ∧ x.xbHit off (f.w * f.n) = false := by
  rw [Group.scrOk_iff, and_assoc]

theorem Group.not_fits (x : Group) (f : ScrForm) (off : Nat) (h : ¬x.fits f off) :
    x.scrOk off (f.w * f.n) f.al = false ∨ x.xbHit off (f.w * f.n) = true := by
  rw [Group.fits_iff, not_and_or, Bool.not_eq_true, Bool.not_eq_false] at h
  exact h

theorem chkAtms_none (s : State) (n : Ins) (g w u : Nat)
    (h : (s.grp g).scrOk ((s.thr g w u).reg n.a).v.toNat (n.w / 8) (n.w / 8) = true)
    (hx : (s.grp g).xbHit ((s.thr g w u).reg n.a).v.toNat (n.w / 8) = false) : chkAtms n s g w u = none := by
  simp [chkAtms, h, hx]

/-- Stores and atomics of scratch act on each thread in turn, behind the check of their address. -/
theorem State.run_scratchStore (s : State) (n : Ins) (u : Nat) (h : n.op ∈ [Op.sts, .stsr, .atms]) :
    ∃ chk body, s.run n = (s.inTurn n chk body).slowDone
      ∧ (s.pgrp.fits n.storeForm (n.storeOff (s.pthr u)) → chk s s.pack.g s.pack.w u = none)
      ∧ (¬s.pgrp.fits n.storeForm (n.storeOff (s.pthr u)) →
        chk s s.pack.g s.pack.w u = some (0x09, BitVec.ofNat 64 (n.storeOff (s.pthr u)))) := by
  simp only [List.mem_cons, List.not_mem_nil, or_false] at h
  rw [← or_assoc] at h
  rcases h with h | h
  · have hna : n.op ≠ .atms := by rcases h with h | h <;> simp [h]
    have hf : n.storeForm = n.form := by rcases h with h | h <;> simp [Ins.storeForm, Ins.form, h]
    rw [s.run_store n h, hf, show n.storeOff (s.pthr u) = n.scrOff (s.pthr u) from if_neg hna]
    refine ⟨_, _, rfl, fun hfit => ?_, fun hfit => chkStore_bad s n _ _ _ _ (Group.not_fits _ _ _ hfit)⟩
    obtain ⟨ho, hx⟩ := (Group.fits_iff _ _ _).mp hfit
    exact chkStore_none s n _ _ _ _ ho hx
  · rw [show n.storeForm = ⟨n.w / 8, 1, n.w / 8, n.mb 6 2, n.mb 3 3⟩ by simp [Ins.storeForm, h],
      show n.storeOff (s.pthr u) = ((s.pthr u).reg n.a).v.toNat from if_pos h]
    simp only [State.run, h, State.doAtms]
    refine ⟨_, _, rfl, fun hfit => ?_, fun hfit => ?_⟩
    · obtain ⟨ho, hx⟩ := (Group.fits_iff _ _ _).mp hfit
      rw [Nat.mul_one] at ho hx
      exact chkAtms_none s n _ _ _ ho hx
    · have hb := Group.not_fits _ _ _ hfit
      rw [Nat.mul_one] at hb
      exact chkAtms_bad s n _ _ _ hb

theorem chkXbar_bad (n : Ins) (s : State) (g w u : Nat)
    (h : ¬(((s.thr g w u).reg n.a).v.toNat % 16 = 0 ∧ ((s.thr g w u).reg n.a).v.toNat + 16 ≤ (s.grp g).scrSize
      ∧ (s.grp g).xbValid ((s.thr g w u).reg n.a).v.toNat = true)) :
    chkXbar n s g w u = some (0x09, BitVec.ofNat 64 ((s.thr g w u).reg n.a).v.toNat) := by
  have hb : ((s.grp g).xbBad ((s.thr g w u).reg n.a).v.toNat || !(s.grp g).xbValid ((s.thr g w u).reg n.a).v.toNat) = true := by
    rw [not_and_or, not_and_or, not_le] at h
    rcases h with h | h | h <;> simp [Group.xbBad, h]
  simp only [chkXbar, hb, if_true]
  simp [BitVec.setWidth_eq_append_extractLsb', BitVec.ofNat_toNat]

/-- The target of a jump through registers that is not legal in its mode (R90, R91). -/
theorem chkTarget_bad (n : Ins) (s : State) (u : Nat) (m : Mode) (h : DWord)
    (hm : m = if ((s.pthr u).reg64 n.a).getLsbD 0 then .native else .prerin) (hh : h = (s.pthr u).reg64 n.a &&& ~~~1#64)
    (hb : (m = .prerin ∧ h.toNat % 4 ≠ 0) ∨ (m = .native ∧ (h.toNat % 8 ≠ 0
      ∨ ∃ w, s.codeWord s.pgrp.die s.pgrp.core s.pgrp.vdev h.toNat = .ok w ∧ w.extractLsb' 62 2 ≠ 2))) :
    chkTarget n s s.pack.g s.pack.w u = some (0x02, (s.pthr u).reg64 n.a) := by
  have hbad : s.target s.pack.g m h = .bad := by
    rcases hb with ⟨rfl, ha⟩ | ⟨rfl, ha | ⟨w, hw, hc⟩⟩
    · simp [State.target, ha]
    · simp [State.target, ha]
    · simpa [State.target, hw] using fun _ => hc
  subst hm hh
  simp only [chkTarget]
  rw [show s.target s.pack.g _ ((s.thr s.pack.g s.pack.w u).reg64 n.a &&& ~~~1#64) = .bad from hbad]

/-- The pair of a jump through registers, poisoned (R64). -/
theorem poisonTrap_target (n : Ins) (x : Thread) (h : n.op = .brx ∨ n.op = .callx ∨ n.op = .ret)
    (hp : (x.reg n.a).p = true ∨ (x.reg (n.a + 1)).p = true) : poisonTrap x n = some (0x04, BitVec.ofNat 64 n.a) := by
  have hc : n.controlReg = [n.a, n.a + 1] := by rcases h with h | h | h <;> simp [Ins.controlReg, h]
  obtain ⟨r, hr⟩ : ∃ r, x.lowestPoison n.controlReg = some r := by
    rw [hc]
    by_cases ha : (x.reg n.a).p = true
    · exact ⟨n.a, x.lowestPoison_of _ _ (by simp) ha (by simp)⟩
    · have hb := hp.resolve_left ha
      exact ⟨n.a + 1, x.lowestPoison_of _ _ (by simp) hb (by simp [ha])⟩
  rw [poisonTrap, hr]
  rcases h with h | h | h <;> simp [h]

/-- rres with an immediate reads no register. -/
theorem Ins.rres_not_imm (n : Ins) (h : n.op = .rres) (r : Nat) (hr : r ∈ n.srcs) : n.imm = false := by
  cases hi : n.imm with
  | false => rfl
  | true =>
    have hi : n.f.m.getLsbD 11 = true := hi
    simp [Ins.srcs, Ins.lay, layout, regLayout, h, hi, srcRun] at hr

theorem chkRres_none (n : Ins) (s : State) (g w u m l f : Nat) (hl : s.laneOf g w u = some (m, l, f, .combine))
    (hi : n.imm = false) (hc : ((s.thr g w u).reg n.b).v.toNat < ((s.spin m).frame f).nch) : chkRres n s g w u = none := by
  simp [chkRres, hl, Ins.childIx, hi, hc]

theorem chkChild_none (n : Ins) (s : State) (g w u m l f : Nat) (hl : s.laneOf g w u = some (m, l, f, .divide))
    (hn : ((s.spin m).frame f).nch ≠ (s.spin m).fan) (hd : ((s.spin m).frame f).depth ≠ (s.spin m).maxDepth)
    (hf : (s.spin m).free ≠ none) : chkChild n s g w u = none := by
  simp [chkChild, hl, hn, hd, hf]

/-- The lowest poisoned of two shape registers (R245). -/
theorem Warp.shapeTrap_of (w : Warp) (l : List Nat) (r : Nat) (hr : r ∈ l) (hp : (w.shape r).p = true)
    (h : ∀ k ∈ l, (w.shape k).p = true → r ≤ k) : w.shapeTrap l = some (0x03, BitVec.ofNat 64 (0x200 + r)) := by
  rw [Warp.shapeTrap, minBy_id_of _ r (by simp [hr, hp]) (fun k hk => by
    obtain ⟨hk, hkp⟩ := List.mem_filter.mp hk
    exact h k hk hkp)]
  rfl

/-- A copy whose one fault is the poison of its shape registers (R64, R245). -/
theorem Group.copyTrap_shape (x : Group) (y : Warp) (n : Ins) (t : Thread) (ho : n.op = .cpy) (hm : n.f.m.getLsbD 2 = false)
    (hd : (y.shape n.d).valid = true) (ha : (y.shape n.a).valid = true) (hb : (y.shape n.d).sameBox (y.shape n.a) = true)
    (hw : (y.shape n.d).width = (y.shape n.a).width) (hds : (y.shape n.d).space < 8) (has : (y.shape n.a).space < 8)
    (hdo : x.sideOut (y.shape n.d) false = none) (hao : x.sideOut (y.shape n.a) false = none) :
    x.copyTrap y n (n.copyOp y t) = y.shapeTrap [n.d, n.a] := by
  have h1 : ¬8 ≤ (y.shape n.d).space := by omega
  have h2 : ¬8 ≤ (y.shape n.a).space := by omega
  have hs : (Op.cpy == Op.cpys) = false := rfl
  have hg : (Op.cpy == Op.cpyg) = false := rfl
  have hm : n.f.m[2] = false := hm
  simp [Group.copyTrap, Ins.copyOp, ho, hm, hd, ha, hb, hw, h1, h2, hs, hg, hdo, hao]

end Sys2Proof.Machine
end

section
/-! ### A pack of one thread, clause by clause (R64, R33) -/
namespace Sys2Proof.Machine

/-- The machine after a trap of one thread of the pack. -/
abbrev State.trapped (s : State) (u c : Nat) (v : DWord) : State :=
  s.modT s.pack.g s.pack.w u (fun x => x.takeTrap s.pwrp.kd.trap c v)

section
variable (s : State) (n : Ins) (u r : Nat) (hts : s.pack.ts = [u]) (hp : s.passes n)
  (hg : (s.pthr u).guard n.f.guard = .take) (ht : s.trapsAt s.pack.g s.pack.w u)
include hts hp hg ht

/-- A scratch store or atomic with a poisoned operand (R224, R64). -/
theorem State.scratchStore_poisoned (hslow : s.pwrp.slow = false) (ho : n.op ∈ [Op.sts, .stsr, .atms])
    (hl : n.lowest (s.pthr u) r) :
    (s.pgrp.fits n.storeForm (n.storeOff (s.pthr u)) → s.run n = s.trapped u 0x03 (BitVec.ofNat 64 r))
    ∧ (¬s.pgrp.fits n.storeForm (n.storeOff (s.pthr u)) →
      s.run n = s.trapped u 0x09 (BitVec.ofNat 64 (n.storeOff (s.pthr u)))) := by
  obtain ⟨chk, body, hr, hok, hbad⟩ := s.run_scratchStore n u ho
  have hs := (by decide : ∀ o ∈ [Op.sts, .stsr, .atms], storesPoison o = true) n.op ho
  refine ⟨fun hf => ?_, fun hf => ?_⟩
  · rw [hr, s.inTurn_first n u _ _ hts hp ht chk body (by rw [hok hf]; exact before_lowest n _ r hg hs hl)]
    exact s.slowDone_modT u _ hts hslow
  · rw [hr, s.inTurn_first n u _ _ hts hp ht chk body
      (by rw [hbad hf]; exact before_check_of_rank n _ 0x09 _ hg (by decide))]
    exact s.slowDone_modT u _ hts hslow

/-- A pack-once instruction with a poisoned operand. -/
theorem State.once_poisoned (ho : n.op ∈ [Op.cpy, .cpyg, .cpys, .cpyr, .ldg, .stg, .atmg, .pref, .smap, .xbarInit, .xbarInval])
    (hl : n.lowest (s.pthr u) r) : s.run n = s.trapped u 0x03 (BitVec.ofNat 64 r) := by
  obtain ⟨p, body, hr⟩ := s.run_once n ho
  have hs := (by decide : ∀ o ∈ [Op.cpy, .cpyg, .cpys, .cpyr, .ldg, .stg, .atmg, .pref, .smap, .xbarInit, .xbarInval],
    storesPoison o = true) n.op ho
  rw [hr]
  exact s.once_first n u _ _ hts hp ht p body (before_lowest n _ r hg hs hl) hg

/-- hst with a poisoned address. -/
theorem State.hst_poisoned (hslow : s.pwrp.slow = false) (ho : n.op = .hst) (hl : n.lowest (s.pthr u) r) :
    s.run n = s.trapped u 0x03 (BitVec.ofNat 64 r) := by
  simp only [State.run, ho, State.doHst]
  rw [s.once_first n u _ _ hts hp ht false _ (before_lowest n _ r hg (by rw [ho]; rfl) hl) hg]
  exact s.slowDone_modT u _ hts hslow

/-- tspawn and sysc with a poisoned operand. -/
theorem State.noChk_poisoned (ho : n.op = .tspawn ∨ n.op = .sysc) (hl : n.lowest (s.pthr u) r) :
    s.run n = s.trapped u 0x03 (BitVec.ofNat 64 r) := by
  rcases ho with ho | ho <;> simp only [State.run, ho]
  · exact s.control_first n u _ _ hts hp ht _ noChk _ (before_lowest n _ r hg (by rw [ho]; rfl) hl)
  · exact s.control_first n u _ _ hts hp ht _ noChk _ (before_lowest n _ r hg (by rw [ho]; rfl) hl)

/-- swr (R170, R18, R21). -/
theorem State.swr_poisoned (ho : n.op = .swr) (hl : n.lowest (s.pthr u) n.a) :
    (n.mb 0 6 = 0x10 → 2 ≤ (((s.pthr u).reg n.a).v.extractLsb' 6 2).toNat → s.run n = s.trapped u 0x01 n.word)
    ∧ (n.mb 0 6 = 0x10 → (((s.pthr u).reg n.a).v.extractLsb' 6 2).toNat < 2 →
      s.run n = s.trapped u 0x03 (BitVec.ofNat 64 n.a))
    ∧ (n.mb 0 6 ≠ 0x10 → (s.pthr u).hnd = false → s.run n = s.trapped u 0x01 n.word) := by
  have hfirst : ∀ c v, before n (chkSwr n s s.pack.g s.pack.w u) (s.pthr u) = some (.trap c v) → s.run n = s.trapped u c v := by
    intro c v hb
    simp only [State.run, ho]
    exact s.control_first n u c v hts hp ht false (chkSwr n) _ hb
  have hdef : chkSwr n s s.pack.g s.pack.w u = if n.mb 0 6 ≠ 0x10 then if (s.pthr u).hnd then none else some (0x01, n.word)
    else if 2 ≤ (((s.pthr u).reg n.a).v.extractLsb' 6 2).toNat then some (0x01, n.word) else none := rfl
  refine ⟨fun hm hv => hfirst _ _ ?_, fun hm hv => hfirst _ _ ?_, fun hm hv => hfirst _ _ ?_⟩
  · rw [hdef, if_neg (by simp [hm]), if_pos hv]
    exact before_check_of_rank n _ 0x01 _ hg (by decide)
  · rw [hdef, if_neg (by simp [hm]), if_neg (by omega)]
    exact before_lowest n _ n.a hg (by rw [ho]; rfl) hl
  · rw [hdef, if_pos hm, if_neg (by simp [hv])]
    exact before_check_of_rank n _ 0x01 _ hg (by decide)

/-- xbar.arrive and xbar.wait (R231). -/
theorem State.xbar_poisoned (hslow : s.pwrp.slow = false) (ho : n.op = .xbarArrive ∨ n.op = .xbarWait)
    (hl : n.lowest (s.pthr u) r) (o : Nat) (hoff : o = ((s.pthr u).reg n.a).v.toNat) :
    (o % 16 = 0 ∧ o + 16 ≤ s.pgrp.scrSize ∧ s.pgrp.xbValid o = true → s.run n = s.trapped u 0x03 (BitVec.ofNat 64 r))
    ∧ (¬(o % 16 = 0 ∧ o + 16 ≤ s.pgrp.scrSize ∧ s.pgrp.xbValid o = true) →
      s.run n = s.trapped u 0x09 (BitVec.ofNat 64 o)) := by
  subst hoff
  have hfirst : ∀ c v, before n (chkXbar n s s.pack.g s.pack.w u) (s.pthr u) = some (.trap c v) → s.run n = s.trapped u c v := by
    intro c v hb
    rcases ho with ho | ho <;> simp only [State.run, ho]
    · rw [State.doXbarArrive, s.inTurn_first n u c v hts hp ht (chkXbar n) _ hb]
      exact s.slowDone_modT u _ hts hslow
    · rw [State.doXbarWait, s.control_first n u c v hts hp ht false (chkXbar n) _ hb]
      exact s.slowDone_modT u _ hts hslow
  have hs : storesPoison n.op = true := by rcases ho with ho | ho <;> rw [ho] <;> rfl
  refine ⟨fun ⟨hal, hsz, hv⟩ => hfirst _ _ ?_, fun h => hfirst _ _ ?_⟩
  · rw [chkXbar_none n s _ _ u hal hsz hv]
    exact before_lowest n _ r hg hs hl
  · rw [chkXbar_bad n s _ _ u h]
    exact before_check_of_rank n _ 0x09 _ hg (by decide)

/-- A queue instruction whose own checks pass (R297). -/
theorem State.queue_poisoned (ho : n.op ∈ [Op.qrsv, .qenq, .qdeq, .qtry, .qsteal, .qerr, .qrest, .qstat])
    (hl : n.lowest (s.pthr u) r) (q : Nat) (hq : s.queueOf s.pgrp.vdev ((s.pthr u).reg64 n.a) = some q)
    (hw : (s.queue q).waits = []) (hc : chkQueue n s s.pack.g s.pack.w u = none) :
    s.run n = s.trapped u 0x03 (BitVec.ofNat 64 r) := by
  obtain ⟨body, hr⟩ := s.run_queue n ho
  have hs := (by decide : ∀ o ∈ [Op.qrsv, .qenq, .qdeq, .qtry, .qsteal, .qerr, .qrest, .qstat], storesPoison o = true) n.op ho
  rw [hr]
  exact s.queueIns_first n u _ _ hts hp ht body q hq hw hg (by rw [hc]; exact before_lowest n _ r hg hs hl)

/-- rstart whose own checks pass (R301). -/
theorem State.rstart_poisoned (ho : n.op = .rstart) (hl : n.lowest (s.pthr u) r)
    (hc : chkRstart n s s.pack.g s.pack.w u = none) : s.run n = s.trapped u 0x03 (BitVec.ofNat 64 r) := by
  simp only [State.run, ho, State.doRstart]
  exact s.control_first n u _ _ hts hp ht _ (chkRstart n) _ (by rw [hc]; exact before_lowest n _ r hg (by rw [ho]; rfl) hl)

/-- rchild whose own checks pass (R302). -/
theorem State.rchild_poisoned (ho : n.op = .rchild) (hl : n.lowest (s.pthr u) r)
    (hc : chkChild n s s.pack.g s.pack.w u = none) : s.run n = s.trapped u 0x03 (BitVec.ofNat 64 r) := by
  simp only [State.run, ho, State.doChild]
  exact s.control_first n u _ _ hts hp ht _ (chkChild n) _ (by rw [hc]; exact before_lowest n _ r hg (by rw [ho]; rfl) hl)

/-- rres whose own checks pass (R304). -/
theorem State.rres_poisoned (ho : n.op = .rres) (hl : n.lowest (s.pthr u) r)
    (hc : chkRres n s s.pack.g s.pack.w u = none) : s.run n = s.trapped u 0x03 (BitVec.ofNat 64 r) := by
  simp only [State.run, ho, State.doRres]
  exact s.control_first n u _ _ hts hp ht _ (chkRres n) _ (by rw [hc]; exact before_lowest n _ r hg (by rw [ho]; rfl) hl)

/-- brx, callx and ret with a poisoned pair: the check of the target comes before it (R33, R155). -/
theorem State.target_poisoned (ho : n.op = .brx ∨ n.op = .callx ∨ n.op = .ret)
    (hpair : ((s.pthr u).reg n.a).p = true ∨ ((s.pthr u).reg (n.a + 1)).p = true) :
    (chkTarget n s s.pack.g s.pack.w u = some (0x02, (s.pthr u).reg64 n.a) → s.run n = s.trapped u 0x02 ((s.pthr u).reg64 n.a))
    ∧ (chkTarget n s s.pack.g s.pack.w u = none → s.run n = s.trapped u 0x04 (BitVec.ofNat 64 n.a)) := by
  obtain ⟨body, hr⟩ := s.run_target n ho
  refine ⟨fun hc => ?_, fun hc => ?_⟩ <;> rw [hr]
  · exact s.control_first n u _ _ hts hp ht true (chkTarget n) body (by
      rw [hc]; exact before_check_of_rank n _ 0x02 _ hg (by decide))
  · exact s.control_first n u _ _ hts hp ht true (chkTarget n) body (by
      rw [hc, before_take n none _ hg, poisonTrap_target n _ ho hpair]; rfl)

end

/-- cpy of a poisoned shape register, where nothing else is wrong (R64, R245). -/
theorem State.cpy_poisonedShape (s : State) (n : Ins) (u r : Nat) (h : s.alone n u)
    (hf : (s.pthr u).flagRoom (n.flagOf (s.pthr u))) (ht : s.trapsAt s.pack.g s.pack.w u) (ho : n.op = .cpy)
    (hc : s.pgrp.copyTrap s.pwrp n (n.copyOp s.pwrp (s.pthr u)) = some (0x03, BitVec.ofNat 64 (0x200 + r))) :
    s.run n = s.trapped u 0x03 (BitVec.ofNat 64 (0x200 + r)) := by
  have htg := h.together hf
  have hsup : s.pack.ts.headD 0 = u := by rw [h.1]; rfl
  have hc : (s.grp s.pack.g).copyTrap ((s.grp s.pack.g).wrp s.pack.w) n
      (n.copyOp ((s.grp s.pack.g).wrp s.pack.w) (s.thr s.pack.g s.pack.w u)) = some (0x03, BitVec.ofNat 64 (0x200 + r)) := hc
  simp only [State.run, ho, State.doCopy]
  rw [s.once_of n true _ htg.1 (fun v hv => (htg.2 v hv).1) (fun v hv => (htg.2 v hv).2)]
  simp only [hsup, hc]
  rw [s.trapPack_of 0x03 _ htg.1.1 (fun v hv => by rw [h.1, List.mem_singleton] at hv; exact hv ▸ ht),
    ← s.modT_eq_mapPack u _ h.1]

end Sys2Proof.Machine
end

section
/-! ### Votes, format words and bank images (R52, R256, R261, R264, R149) -/
namespace Sys2Proof.Machine

/-! #### The causes of a collective instruction, thread by thread (R256) -/

/-- A thread's own cause: the check of its operands, or its poisoned format word. -/
def MChk.first (c : MChk) (i : Ins) (t : Thread) : Cause :=
  firstOf (c.own t) (if t.lowestPoison [i.c] = none then none else some (0x04, BitVec.ofNat 64 i.c))
/-- Whether it stands before the vote. -/
def MChk.early (c : MChk) (i : Ins) (t : Thread) : Bool :=
  match c.first i t with
  | some cv => decide (causeRank cv.1 < causeRank 0x05)
  | none => false
/-- The threads that vote. -/
def MChk.voters (c : MChk) (i : Ins) (w : Warp) (ts : List Nat) : List Nat := ts.filter (fun t => !c.early i (w.thr t))
/-- The operands that differ among them. -/
def MChk.mask (c : MChk) (i : Ins) (w : Warp) (ts : List Nat) : Nat := voteMask ((c.voters i w ts).map w.thr) i.c c.n
/-- The cause of the pack, by the first voter's operands. -/
def MChk.packCause (c : MChk) (i : Ins) (w : Warp) (ts : List Nat) : Cause :=
  match c.voters i w ts with
  | v :: _ => if c.mask i w ts = 0 then c.pack (w.thr v) else none
  | [] => none
/-- The cause that a thread takes. -/
def MChk.cause (c : MChk) (i : Ins) (w : Warp) (ts : List Nat) (t : Thread) : Cause :=
  firstOf (firstOf (c.first i t) (if c.early i t then none else if c.mask i w ts = 0 then none
    else some (0x05, BitVec.ofNat 64 ((t.reg i.c).v.toNat + c.mask i w ts * 2 ^ 32))))
    (if c.early i t then none else c.packCause i w ts)

/-- A collective instruction in which every thread of the pack has a cause: each takes its own. -/
theorem State.collective_traps (s : State) (i : Ins) (k : Warp → MChk) (body : State → Nat → Nat → Nat → List Nat → Once)
    (cz : Nat → Nat) (v : Nat → DWord) (hp : s.passes i) (hg : ∀ u ∈ s.pack.ts, (s.pthr u).guard i.f.guard = .take)
    (ht : ∀ u ∈ s.pack.ts, s.trapsAt s.pack.g s.pack.w u)
    (hc : ∀ u ∈ s.pack.ts, (k s.pwrp).cause i s.pwrp s.pack.ts (s.pthr u) = some (cz u, v u)) :
    s.collective i k body = s.mapPack (fun u x => x.takeTrap s.pwrp.kd.trap (cz u) (v u)) := by
  unfold State.collective
  rw [State.front_of s i.use _ _ hp.1.2.2.1 hp.2.1 hp.2.2.1 hp.2.2.2]
  have hg : ∀ u ∈ s.pack.ts, ((s.wrp s.pack.g s.pack.w).thr u).guard i.f.guard = .take := hg
  have htake : s.pack.ts.filter (fun t => ((s.wrp s.pack.g s.pack.w).thr t).guard i.f.guard == .take) = s.pack.ts :=
    List.filter_eq_self.mpr (fun u hu => by rw [hg u hu]; rfl)
  simp only [htake]
  rw [foldl_fixed _ s.pack.ts s (fun r u hu => by simp [hg u hu])]
  have hstep : ∀ (r : State) (q : Nat → Thread → Thread), r = s.mapThr s.pack.g s.pack.w q → ∀ u ∈ s.pack.ts,
      r.thr s.pack.g s.pack.w u = s.thr s.pack.g s.pack.w u →
      (match (k s.pwrp).cause i s.pwrp s.pack.ts (s.pthr u) with
        | some cv => r.trapT s.pack.g s.pack.w u cv.1 cv.2
        | none => r) = r.trapT s.pack.g s.pack.w u (cz u) (v u) := fun r _ _ u hu _ => by rw [hc u hu]
  split
  · exact State.trapEach_of s s.pack.g s.pack.w s.pack.ts _ cz v hp.1.2.2.2.1 hp.1.1 hp.1.2.1
      (fun u hu => (hp.1.2.2.2.2 u hu).1) ht hstep
  · next sup l hgo =>
    obtain ⟨hmem, hnone⟩ := List.mem_filter.mp (hgo ▸ List.mem_cons_self : sup ∈ _)
    have hnone : ((k s.pwrp).cause i s.pwrp s.pack.ts (s.pthr sup) == none) = true := hnone
    rw [hc sup hmem] at hnone
    exact absurd hnone (by simp)

/-- A check that fails before the vote is the thread's cause. -/
theorem MChk.cause_early (m : MChk) (i : Ins) (w : Warp) (ts : List Nat) (t : Thread) (c : Nat) (v : DWord)
    (ho : m.own t = some (c, v)) (hc : causeRank c < causeRank 0x05) : m.cause i w ts t = some (c, v) := by
  have h45 : causeRank 0x05 < causeRank 0x04 := by decide
  have hfirst : m.first i t = some (c, v) := by
    rw [MChk.first, ho]
    split
    · rfl
    · simp [firstOf, firstCause, not_lt.mpr (hc.trans h45).le]
  have he : m.early i t = true := by simp only [MChk.early, hfirst, hc, decide_true]
  simp [MChk.cause, hfirst, he, firstOf]

theorem MChk.first_clean (m : MChk) (i : Ins) (t : Thread) (ho : m.own t = none) (hp : (t.reg i.c).p = false) :
    m.first i t = none := by
  simp [MChk.first, ho, Thread.lowestPoison, hp, minBy, firstOf]

theorem MChk.first_poisoned (m : MChk) (i : Ins) (t : Thread) (ho : m.own t = none) (hp : (t.reg i.c).p = true) :
    m.first i t = some (0x04, BitVec.ofNat 64 i.c) := by
  simp [MChk.first, ho, Thread.lowestPoison, hp, minBy, firstOf]

theorem MChk.early_false (m : MChk) (i : Ins) (t : Thread) (h : m.first i t = none ∨ ∃ v, m.first i t = some (0x04, v)) :
    m.early i t = false := by
  have h45 : decide (causeRank 0x04 < causeRank 0x05) = false := by decide
  rcases h with h | ⟨v, h⟩ <;> simp only [MChk.early, h, h45]

theorem MChk.voters_all (m : MChk) (i : Ins) (w : Warp) (ts : List Nat) (h : ∀ t ∈ ts, m.early i (w.thr t) = false) :
    m.voters i w ts = ts := List.filter_eq_self.mpr (fun t ht => by rw [h t ht]; rfl)

/-- Voters whose operands differ trap with the mask of those that do. -/
theorem MChk.cause_vote (m : MChk) (i : Ins) (w : Warp) (ts : List Nat) (t : Thread) (hf : m.first i t = none)
    (hm : m.mask i w ts ≠ 0) :
    m.cause i w ts t = some (0x05, BitVec.ofNat 64 ((t.reg i.c).v.toNat + m.mask i w ts * 2 ^ 32)) := by
  have hpk : m.packCause i w ts = none := by
    unfold MChk.packCause
    split
    · exact if_neg hm
    · rfl
  simp [MChk.cause, hf, m.early_false i t (.inl hf), hm, hpk, firstOf]

/-- Voters that agree, where no check of the pack fails: each its own cause. -/
theorem MChk.cause_agree (m : MChk) (i : Ins) (w : Warp) (ts : List Nat) (t : Thread) (v : DWord)
    (hf : m.first i t = some (0x04, v)) (hm : m.mask i w ts = 0) (hp : ∀ u ∈ m.voters i w ts, m.pack (w.thr u) = none) :
    m.cause i w ts t = some (0x04, v) := by
  have hpk : m.packCause i w ts = none := by
    unfold MChk.packCause
    split
    · next u l hu => rw [if_pos hm]; exact hp u (by rw [hu]; simp)
    · rfl
  simp [MChk.cause, hf, m.early_false i t (.inr ⟨v, hf⟩), hm, hpk, firstOf]

/-! #### The mask of the vote (R256) -/

theorem eraseDups_eq_nil {α : Type} [DecidableEq α] (l : List α) : l.eraseDups = [] ↔ l = [] := by
  cases l with
  | nil => simp
  | cons a l => simp [List.eraseDups_cons]

theorem eraseDups_length_le_one {α : Type} [DecidableEq α] (l : List α) :
    l.eraseDups.length ≤ 1 ↔ ∀ a ∈ l, ∀ b ∈ l, a = b := by
  cases l with
  | nil => simp
  | cons a l =>
    have hone : (a :: l).eraseDups.length ≤ 1 ↔ ∀ b ∈ l, b = a := by
      rw [List.eraseDups_cons, List.length_cons]
      simp [List.length_eq_zero_iff, eraseDups_eq_nil]
    rw [hone]
    refine ⟨fun h x hx y hy => ?_, fun h b hb => h b (by simp [hb]) a (by simp)⟩
    have hall : ∀ z ∈ a :: l, z = a := fun z hz => (List.mem_cons.mp hz).elim id (h z)
    rw [hall x hx, hall y hy]

/-- Whether a register differs among the threads of the pack. -/
def State.differs (s : State) (r : Nat) : Bool :=
  s.pack.ts.any (fun u => s.pack.ts.any (fun v => ((s.pthr u).reg r).v != ((s.pthr v).reg r).v))

theorem State.differs_false (s : State) (r : Nat) :
    s.differs r = false ↔ ∀ u ∈ s.pack.ts, ∀ v ∈ s.pack.ts, ((s.pthr u).reg r).v = ((s.pthr v).reg r).v := by
  simp [State.differs]

/-- The bit of an operand in the mask. -/
theorem State.voteBit (s : State) (r k : Nat) :
    (if ((s.pack.ts.map s.pwrp.thr).map (fun t => (t.reg r).v)).eraseDups.length ≤ 1 then 0 else 2 ^ k)
      = 2 ^ k * (s.differs r).toNat := by
  have h : ((s.pack.ts.map s.pwrp.thr).map (fun t => (t.reg r).v)).eraseDups.length ≤ 1 ↔ s.differs r = false := by
    rw [eraseDups_length_le_one, s.differs_false]
    simp [State.pthr, State.thr]
  cases hd : s.differs r with
  | false => rw [if_pos (h.mpr hd)]; rfl
  | true => rw [if_neg (by rw [h, hd]; simp)]; exact (Nat.mul_one _).symm

theorem State.voteMask_one (s : State) (c : Nat) : voteMask (s.pack.ts.map s.pwrp.thr) c 1 = (s.differs c).toNat := by
  have h := s.voteBit c 0
  simpa [voteMask, List.range_succ] using h

theorem State.voteMask_three (s : State) (c : Nat) : voteMask (s.pack.ts.map s.pwrp.thr) c 3
    = (s.differs c).toNat + 2 * (s.differs (c + 1)).toNat + 4 * (s.differs (c + 2)).toNat := by
  have h0 := s.voteBit c 0
  have h1 := s.voteBit (c + 1) 1
  have h2 := s.voteBit (c + 2) 2
  simp only [voteMask, List.range_succ, List.range_zero, List.nil_append, List.cons_append, List.map_cons, List.map_nil,
    List.sum_cons, List.sum_nil, Nat.add_zero, h0, h1, h2]
  omega

/-! #### Format words (R52, R261) -/

/-- A format and its scale mode, as R52 pairs them. -/
def fmtPair (code mode : Nat) : Prop := mode ≠ 3 ∧ (mode = 1 → code ∈ [2, 3, 4, 5]) ∧ (code = 7 ↔ mode = 2)

theorem scaleOk_iff (code mode : Nat) : scaleOk code mode = true ↔ fmtPair code mode := by
  have h : ((code == 7) == (mode == 2)) = true ↔ (code = 7 ↔ mode = 2) := by
    rw [beq_iff_eq, Bool.eq_iff_iff, beq_iff_eq, beq_iff_eq]
  rw [scaleOk, fmtPair, Bool.and_eq_true, Bool.and_eq_true, h, and_assoc]
  refine and_congr (by simp) (and_congr ?_ Iff.rfl)
  by_cases hm : mode = 1 <;> simp [hm, or_assoc]

/-- A format word that R52 allows. -/
def fmtGood (acc : Bool) (fw : Nat) : Prop :=
  fw < 2 ^ 19 ∧ fw % 16 ≤ 7 ∧ fw / 16 % 16 ≤ 7 ∧ fw / 2 ^ 16 % 4 ≤ 1
  ∧ fmtPair (if acc then fw / 2 ^ 12 % 16 else fw % 16) (fw / 2 ^ 8 % 4) ∧ fmtPair (fw / 16 % 16) (fw / 2 ^ 10 % 4)
  ∧ (acc = true → fw / 2 ^ 12 % 16 ≤ 6 ∧ fw / 2 ^ 8 % 4 = 0)

theorem bitsOf_top (w : Word) : bitsOf w.toNat 31 19 = 0 ↔ w.toNat < 2 ^ 19 := by
  have := w.isLt
  simp only [bitsOf]
  omega

theorem fwOk_iff (w : Word) (acc : Bool) : fwOk w.toNat acc = true ↔ fmtGood acc w.toNat := by
  have hA : fwA w.toNat acc = if acc then w.toNat / 2 ^ 12 % 16 else w.toNat % 16 := by
    cases acc <;> simp [fwA, bitsOf]
  have h3 : bitsOf w.toNat 3 0 = w.toNat % 16 := by simp [bitsOf]
  simp only [fwOk, Bool.and_eq_true, beq_iff_eq, decide_eq_true_eq, bitsOf_top, scaleOk_iff, hA, h3, Bool.or_eq_true,
    Bool.not_eq_true', and_assoc]
  cases acc <;> simp [fmtGood, fwB, fwRnd, fwAs, fwBs, bitsOf]

/-- A format word that mcvt accepts (R261). -/
def cvtGood (fw : Nat) : Prop := fw < 2 ^ 19 ∧ fw / 2 ^ 16 % 4 ≤ 1 ∧ fw / 2 ^ 12 % 16 ≤ 6

theorem cvtFwOk_iff (w : Word) : cvtFwOk w.toNat = true ↔ cvtGood w.toNat := by
  simp only [cvtFwOk, cvtGood, Bool.and_eq_true, beq_iff_eq, decide_eq_true_eq, bitsOf_top, and_assoc]
  rfl

theorem Ins.mtileChk_badFmt (n : Ins) (x : Group) (y : Warp) (t : Thread) (hgeo : (n.mtileCmd y t).geoOk = true)
    (hf : ¬fmtGood (n.f.m.getLsbD 0) (t.reg n.c).v.toNat) :
    (n.mtileChk x y).own t = some (0x06, (t.reg n.c).v.setWidth 64) := by
  have hfw : fwOk (t.reg n.c).v.toNat (n.f.m.getLsbD 0) = false := by rw [Bool.eq_false_iff, ne_eq, fwOk_iff]; exact hf
  have hok : (n.mtileCmd y t).fmtOk = false := by
    simp only [MCmd.fmtOk, Ins.mtileCmd, hfw, Bool.false_and]
  simp only [Ins.mtileChk, hgeo, hok, Bool.not_true, Bool.not_false, Bool.false_eq_true, if_false, if_true]

theorem Ins.mcvtChk_badFmt (n : Ins) (x : Group) (y : Warp) (t : Thread) (hv : (y.shape n.d).valid = true)
    (hs : (y.shape n.d).space = 0) (h2 : (y.shape n.d).box 2 = 1) (h3 : (y.shape n.d).box 3 = 1)
    (hf : ¬cvtGood (t.reg n.c).v.toNat) : (n.mcvtChk x y).own t = some (0x06, (t.reg n.c).v.setWidth 64) := by
  have hfw : cvtFwOk (t.reg n.c).v.toNat = false := by rw [Bool.eq_false_iff, ne_eq, cvtFwOk_iff]; exact hf
  simp [Ins.mcvtChk, hv, hs, h2, h3, hfw]

theorem chkMfmt_eq (n : Ins) (s : State) (g w u : Nat) :
    chkMfmt n s g w u = if fwOk ((s.thr g w u).reg n.a).v.toNat (n.f.m.getLsbD 0) = true then none
      else some (0x06, ((s.thr g w u).reg n.a).v.setWidth 64) := rfl

theorem poisonTrap_mfmt (n : Ins) (x : Thread) (h : n.op = .mfmt) (hp : (x.reg n.a).p = true) :
    poisonTrap x n = some (0x04, BitVec.ofNat 64 n.a) := by
  have hc : n.controlReg = [n.a] := by simp [Ins.controlReg, h]
  rw [poisonTrap, hc, x.lowestPoison_of [n.a] n.a (by simp) hp (by simp)]
  simp [h]

/-! #### mtile and mcvt -/

/-- The checks of mtile or mcvt. -/
def Ins.matChk (n : Ins) (x : Group) (y : Warp) : MChk := if n.op = .mtile then n.mtileChk x y else n.mcvtChk x y

theorem State.run_collective (s : State) (n : Ins) (h : n.op = .mtile ∨ n.op = .mcvt) :
    ∃ body, s.run n = s.collective n (fun y => n.matChk s.pgrp y) body := by
  rcases h with h | h
  · simp only [State.run, h, State.doMtile, Ins.matChk, if_true]
    exact ⟨_, rfl⟩
  · simp only [State.run, h, State.doMcvt, Ins.matChk, reduceCtorEq, if_false]
    exact ⟨_, rfl⟩

/-- The number of operands that mtile and mcvt vote on. -/
theorem Ins.matChk_n (n : Ins) (x : Group) (y : Warp) : (n.matChk x y).n = if n.op = .mtile then 3 else 1 := by
  unfold Ins.matChk
  split <;> rfl

/-- Whether an operand differs among the voters. -/
def State.voted (s : State) (n : Ins) (k : Nat) : Bool :=
  decide (k < if n.op = .mtile then 3 else 1) && s.differs (n.c + k)

/-- Where every thread votes, the mask holds a bit for each operand that differs. -/
theorem State.matMask (s : State) (n : Ins)
    (h : ∀ u ∈ s.pack.ts, (n.matChk s.pgrp s.pwrp).early n (s.pthr u) = false) :
    (n.matChk s.pgrp s.pwrp).mask n s.pwrp s.pack.ts
      = (s.voted n 0).toNat + 2 * (s.voted n 1).toNat + 4 * (s.voted n 2).toNat := by
  rw [MChk.mask, MChk.voters_all _ n s.pwrp s.pack.ts h, n.matChk_n]
  by_cases ho : n.op = .mtile
  · simp only [ho, if_true, s.voteMask_three, State.voted, Nat.add_zero]
    rfl
  · simp only [ho, if_false, s.voteMask_one, State.voted]
    rfl

section
variable (s : State) (n : Ins) (ho : n.op = .mtile ∨ n.op = .mcvt) (hp : s.passes n)
  (hg : ∀ u ∈ s.pack.ts, (s.pthr u).guard n.f.guard = .take ∧ s.trapsAt s.pack.g s.pack.w u)
include ho hp hg

theorem State.run_causes (cz : Nat → Nat) (v : Nat → DWord)
    (hc : ∀ u ∈ s.pack.ts, (n.matChk s.pgrp s.pwrp).cause n s.pwrp s.pack.ts (s.pthr u) = some (cz u, v u)) :
    s.run n = s.mapPack (fun u x => x.takeTrap s.pwrp.kd.trap (cz u) (v u)) := by
  obtain ⟨body, hr⟩ := s.run_collective n ho
  rw [hr]
  exact s.collective_traps n _ body cz v hp (fun u hu => (hg u hu).1) (fun u hu => (hg u hu).2) hc

/-- Voters that differ trap 0x05 (R256). -/
theorem State.vote_differs
    (hown : ∀ u ∈ s.pack.ts, (n.matChk s.pgrp s.pwrp).own (s.pthr u) = none ∧ ((s.pthr u).reg n.c).p = false)
    (hd : ∃ k, s.voted n k = true) :
    s.run n = s.mapPack (fun u x => x.takeTrap s.pwrp.kd.trap 0x05 (BitVec.ofNat 64 (((s.pthr u).reg n.c).v.toNat
      + 2 ^ 32 * ((s.voted n 0).toNat + 2 * (s.voted n 1).toNat + 4 * (s.voted n 2).toNat)))) := by
  have hf : ∀ u ∈ s.pack.ts, (n.matChk s.pgrp s.pwrp).first n (s.pthr u) = none := fun u hu =>
    MChk.first_clean _ n _ (hown u hu).1 (hown u hu).2
  have hm := s.matMask n (fun u hu => MChk.early_false _ n _ (.inl (hf u hu)))
  have hne : (n.matChk s.pgrp s.pwrp).mask n s.pwrp s.pack.ts ≠ 0 := by
    obtain ⟨k, hk⟩ := hd
    have hlt : k < 3 := by
      have hlt := of_decide_eq_true (Bool.and_eq_true_iff.mp hk).1
      split at hlt <;> omega
    rw [hm]
    interval_cases k <;> simp [hk]
  refine s.run_causes n ho hp hg _ _ (fun u hu => ?_)
  rw [MChk.cause_vote _ n _ _ _ (hf u hu) hne, hm, Nat.mul_comm _ (2 ^ 32)]

/-- A format word that is poisoned traps 0x04 where the voters agree and no check of the pack fails (R64). -/
theorem State.vote_poisoned
    (hown : ∀ u ∈ s.pack.ts, (n.matChk s.pgrp s.pwrp).own (s.pthr u) = none ∧ ((s.pthr u).reg n.c).p = true)
    (hd : ∀ k, k < 3 → s.voted n k = false) (hpk : ∀ u ∈ s.pack.ts, (n.matChk s.pgrp s.pwrp).pack (s.pthr u) = none) :
    s.run n = s.mapPack (fun _ x => x.takeTrap s.pwrp.kd.trap 0x04 (BitVec.ofNat 64 n.c)) := by
  have hf : ∀ u ∈ s.pack.ts, (n.matChk s.pgrp s.pwrp).first n (s.pthr u) = some (0x04, BitVec.ofNat 64 n.c) := fun u hu =>
    MChk.first_poisoned _ n _ (hown u hu).1 (hown u hu).2
  have he : ∀ u ∈ s.pack.ts, (n.matChk s.pgrp s.pwrp).early n (s.pthr u) = false := fun u hu =>
    MChk.early_false _ n _ (.inr ⟨_, hf u hu⟩)
  have hm : (n.matChk s.pgrp s.pwrp).mask n s.pwrp s.pack.ts = 0 := by
    rw [s.matMask n he, hd 0 (by decide), hd 1 (by decide), hd 2 (by decide)]
    rfl
  refine s.run_causes n ho hp hg _ _ (fun u hu => MChk.cause_agree _ n _ _ _ _ (hf u hu) hm (fun v hv => ?_))
  rw [MChk.voters_all _ n s.pwrp s.pack.ts he] at hv
  exact hpk v hv

/-- A format word that is not allowed traps 0x06 (R52, R261). -/
theorem State.format_bad (v : Nat → DWord)
    (hown : ∀ u ∈ s.pack.ts, (n.matChk s.pgrp s.pwrp).own (s.pthr u) = some (0x06, v u)) :
    s.run n = s.mapPack (fun u x => x.takeTrap s.pwrp.kd.trap 0x06 (v u)) :=
  s.run_causes n ho hp hg _ _ (fun u hu => MChk.cause_early _ n _ _ _ _ _ (hown u hu) (by decide))

end

/-- What changes the one thread of a pack, as a change of the pack by index. -/
theorem State.modT_eq_mapPack_at (s : State) (u : Nat) (f : Nat → Thread → Thread) (h : s.pack.ts = [u]) :
    s.modT s.pack.g s.pack.w u (f u) = s.mapPack f := by
  rw [State.modT_eq_mapThr, State.mapPack, h]
  congr 1
  funext v x
  by_cases hv : v = u <;> simp [hv]

/-- mfmt of a format word that R52 does not allow (R264). -/
theorem State.mfmt_bad (s : State) (n : Ins) (u : Nat) (ho : n.op = .mfmt) (hp : s.passes n) (hts : s.pack.ts = [u])
    (hg : (s.pthr u).guard n.f.guard = .take) (ht : s.trapsAt s.pack.g s.pack.w u)
    (hf : ¬fmtGood (n.f.m.getLsbD 0) ((s.pthr u).reg n.a).v.toNat) :
    s.run n = s.mapPack (fun v x => x.takeTrap s.pwrp.kd.trap 0x06 (((s.pthr v).reg n.a).v.setWidth 64)) := by
  have hc : chkMfmt n s s.pack.g s.pack.w u = some (0x06, ((s.pthr u).reg n.a).v.setWidth 64) := by
    rw [chkMfmt_eq]
    exact if_neg (by rw [fwOk_iff]; exact hf)
  simp only [State.run, ho, State.doMfmt]
  rw [s.inTurn_first n u 0x06 _ hts hp ht (chkMfmt n) _ (by rw [hc]; exact before_check_of_rank n _ 0x06 _ hg (by decide))]
  exact s.modT_eq_mapPack_at u (fun v x => x.takeTrap s.pwrp.kd.trap 0x06 (((s.pthr v).reg n.a).v.setWidth 64)) hts

/-- mfmt of a poisoned format word (R64). -/
theorem State.mfmt_poisoned (s : State) (n : Ins) (u : Nat) (ho : n.op = .mfmt) (hp : s.passes n) (hts : s.pack.ts = [u])
    (hg : (s.pthr u).guard n.f.guard = .take) (ht : s.trapsAt s.pack.g s.pack.w u)
    (hf : fmtGood (n.f.m.getLsbD 0) ((s.pthr u).reg n.a).v.toNat) (hpoi : ((s.pthr u).reg n.a).p = true) :
    s.run n = s.mapPack (fun _ x => x.takeTrap s.pwrp.kd.trap 0x04 (BitVec.ofNat 64 n.a)) := by
  have hc : chkMfmt n s s.pack.g s.pack.w u = none := by
    rw [chkMfmt_eq]
    exact if_pos ((fwOk_iff _ _).mpr hf)
  simp only [State.run, ho, State.doMfmt]
  rw [s.inTurn_first n u 0x04 _ hts hp ht (chkMfmt n) _ (by
    rw [hc, before_take n none _ hg, poisonTrap_mfmt n _ ho hpoi]; rfl)]
  exact s.modT_eq_mapPack u _ hts

/-! #### Headers of bank images (R146, R149) -/

/-- The parts of an FP32 word without its sign. -/
theorem fp32_parts (x : Nat) : x % 2 ^ 31 = x / 2 ^ 23 % 2 ^ 8 * 2 ^ 23 + x % 2 ^ 23 := by omega

/-- A value whose exponent field is not all ones is finite (R39). -/
theorem Fmt.decode_fin (f : Fmt) (x : Nat) (h : x / 2 ^ f.fw % 2 ^ f.ew ≠ 2 ^ f.ew - 1) :
    ∃ b m e, f.decode x = .fin b m e := by
  have hb : (x / 2 ^ f.fw % 2 ^ f.ew == 2 ^ f.ew - 1) = false := by simpa using h
  simp only [Fmt.decode, hb]
  rw [if_neg (by simp), if_neg (by simp), if_neg (by simp)]
  by_cases h0 : x / 2 ^ f.fw % 2 ^ f.ew = 0
  · rw [if_pos h0]
    exact ⟨_, _, _, rfl⟩
  · rw [if_neg h0]
    exact ⟨_, _, _, rfl⟩

/-- An FP32 word by its exponent and fraction: a NaN, an infinity, or finite (Table 3-1). -/
theorem fp32_decode_cases (x : Nat) :
    (0x7F800000 < x % 2 ^ 31 ∧ ∃ b, fp32.decode x = .nan b)
    ∨ (x % 2 ^ 31 = 0x7F800000 ∧ ∃ b, fp32.decode x = .inf b)
    ∨ (x % 2 ^ 31 < 0x7F800000 ∧ ∃ b m e, fp32.decode x = .fin b m e) := by
  have hx := fp32_parts x
  have he : x / 2 ^ 23 % 2 ^ 8 < 2 ^ 8 := Nat.mod_lt _ (by decide)
  have hf : x % 2 ^ 23 < 2 ^ 23 := Nat.mod_lt _ (by decide)
  by_cases h1 : x / 2 ^ 23 % 2 ^ 8 = 255
  · by_cases h2 : x % 2 ^ 23 = 0
    · exact .inr (.inl ⟨by omega, _, by simp only [Fmt.decode, fp32, h1, h2]; rfl⟩)
    · refine .inl ⟨by omega, ?_⟩
      simp only [Fmt.decode, fp32, h1]
      rw [if_neg (by simp), if_pos ⟨by decide, by decide, h2⟩]
      exact ⟨_, rfl⟩
  · exact .inr (.inr ⟨by omega, fp32.decode_fin x h1⟩)

theorem fp32_isNan_iff (x : Nat) : (fp32.decode x).isNan = true ↔ 0x7F800000 < x % 2 ^ 31 := by
  rcases fp32_decode_cases x with ⟨h, b, hd⟩ | ⟨h, b, hd⟩ | ⟨h, b, m, e, hd⟩ <;> simp only [hd, FV.isNan] <;> simp <;> omega

theorem finite32_iff (x : Nat) : finite32 x = true ↔ x % 2 ^ 31 < 0x7F800000 := by
  rcases fp32_decode_cases x with ⟨h, b, hd⟩ | ⟨h, b, hd⟩ | ⟨h, b, m, e, hd⟩ <;> simp only [finite32, hd] <;> simp <;> omega

/-- The value of a header word that R146 does not allow. -/
def headerFails (j v : Nat) : Prop :=
  if j = 2 then v = 0 ∨ 256 < v
  else if j = 3 ∨ 10 ≤ j then v ≠ 0
  else if j = 8 ∨ j = 9 then 0x7F800000 < v % 2 ^ 31
  else 0x7F800000 ≤ v % 2 ^ 31

theorem headerWordOk_iff (j v : Nat) : headerWordOk (4 * j) v = true ↔ ¬headerFails j v := by
  have h8 : 4 * j = 0x08 ↔ j = 2 := by omega
  have hC : (4 * j = 0x0C ∨ 0x28 ≤ 4 * j) ↔ (j = 3 ∨ 10 ≤ j) := by omega
  have h20 : (4 * j = 0x20 ∨ 4 * j = 0x24) ↔ (j = 8 ∨ j = 9) := by omega
  simp only [headerWordOk, headerFails, h8, hC, h20]
  split
  · simp only [Bool.and_eq_true, decide_eq_true_eq]; omega
  · split
    · simp
    · split
      · rw [Bool.not_eq_true', Bool.eq_false_iff, ne_eq, fp32_isNan_iff]
      · rw [finite32_iff, not_le]

/-- The first header word that fails (R146). -/
theorem Group.headerBad_of (x : Group) (off k : Nat) (hk : k < 16) (h : headerFails k (x.rd (off + 4 * k) 4))
    (hf : ∀ j < k, ¬headerFails j (x.rd (off + 4 * j) 4)) : x.headerBad off = some (4 * k) := by
  have hfind : (List.range 16).find? ((fun o => !headerWordOk o (x.rd (off + o) 4)) ∘ fun j => 4 * j) = some k := by
    rw [List.find?_range_eq_some]
    refine ⟨?_, List.mem_range.mpr hk, fun j hj => ?_⟩
    · have : headerWordOk (4 * k) (x.rd (off + 4 * k) 4) = false := by
        rw [Bool.eq_false_iff, ne_eq, headerWordOk_iff, not_not]; exact h
      simp [this]
    · simp [(headerWordOk_iff j (x.rd (off + 4 * j) 4)).mpr (hf j hj)]
  rw [Group.headerBad, List.find?_map, hfind]
  rfl

/-- atld of an image whose header R146 does not allow (R149). -/
theorem State.doAtld_badHeader (s : State) (n : Ins) (off k : Nat) (ht : s.together n)
    (htr : ∀ u ∈ s.pack.ts, s.trapsAt s.pack.g s.pack.w u)
    (hoff : off = (((s.pthr (s.pack.ts.headD 0)).reg n.a).v.toNat + n.immZ) % 2 ^ 32)
    (hbank : s.pwrp.bank ≠ some (n.mb 0 1)) (hp : ((s.pthr (s.pack.ts.headD 0)).reg n.a).p = false)
    (hsz : off + 64 ≤ s.pgrp.scrSize) (hbad : s.pgrp.headerBad off = some (4 * k)) :
    s.doAtld n = s.mapPack (fun _ y => y.takeTrap s.pwrp.kd.trap 0x06 (BitVec.ofNat 64 (off + 4 * k))) := by
  have hoff : (((s.thr s.pack.g s.pack.w (s.pack.ts.headD 0)).reg n.a).v.toNat + n.immZ) % 2 ^ 32 = off := hoff.symm
  have hp : ((s.thr s.pack.g s.pack.w (s.pack.ts.headD 0)).reg n.a).p = false := hp
  have hbank : ¬((s.grp s.pack.g).wrp s.pack.w).bank = some (n.mb 0 1) := hbank
  have htrap : s.atldTrap n s.pack.g s.pack.w off false = some (0x06, BitVec.ofNat 64 (off + 4 * k)) := by
    have hsz : off + 64 ≤ (s.grp s.pack.g).scrSize := hsz
    have hbad : (s.grp s.pack.g).headerBad off = some (4 * k) := hbad
    simp only [State.atldTrap, if_neg hbank, Bool.false_eq_true, if_false, if_pos hsz, hbad]
  unfold State.doAtld
  rw [s.once_of n true _ ht.1 (fun u hu => (ht.2 u hu).1) (fun u hu => (ht.2 u hu).2)]
  simp only [hoff, hp, htrap]
  exact s.trapPack_of 0x06 _ ht.1.1 htr

/-- Settles O19: in a pack of one thread the lemmas of each form, for the votes the cause of each thread, for atld the first
header word that fails. -/
theorem operandsThatTrap : Obligations.OperandsThatTrap := by
  refine ⟨?_, ?_, ?_⟩
  · intro i n s u hi hts hp hslow hg ht x trap lowest f off fits ptr m h word d a
    have run : ∀ c v, s.run n = s.trapped u c v → trap c v := fun c v h =>
      (exec_of_insOf i n s hi).trans (congrArg Host.Outcome.next h)
    refine ⟨fun r ho hl => ?_, fun r ho hl => run _ _ ?_, fun ho hl => ?_, fun r ho hl => run _ _ ?_, fun r ho hl => ?_,
      fun r q ho hl hq hw hc => run _ _ (s.queue_poisoned n u r hts hp hg ht ho hl q hq hw hc),
      fun r ho hl hc => run _ _ (s.rstart_poisoned n u r hts hp hg ht ho hl hc),
      fun r m l f ho hl hlane hn hd hf => run _ _
        (s.rchild_poisoned n u r hts hp hg ht ho hl (chkChild_none n s _ _ u m l f hlane hn hd hf)),
      fun r m l f ho hl hlane hix => run _ _ (s.rres_poisoned n u r hts hp hg ht ho hl
        (chkRres_none n s _ _ u m l f hlane (n.rres_not_imm ho r hl.1) hix)),
      fun ho hpair => ?_, fun r ho hpt hfr hm hdv hav hb hw hds has hdo hao hr hrp hrd hra => run _ _ ?_⟩
    · obtain ⟨hok, hbad⟩ := s.scratchStore_poisoned n u r hts hp hg ht hslow ho hl
      exact ⟨fun hf => run _ _ (hok hf), fun hf => run _ _ (hbad hf)⟩
    · exact s.once_poisoned n u r hts hp hg ht (List.mem_append_left [Op.xbarInit, Op.xbarInval] ho) hl
    · obtain ⟨h1, h2, h3⟩ := s.swr_poisoned n u hts hp hg ht ho hl
      exact ⟨fun hm hv => run _ _ (h1 hm hv), fun hm hv => run _ _ (h2 hm hv), fun hm hv => run _ _ (h3 hm hv)⟩
    · simp only [List.mem_cons, List.not_mem_nil, or_false] at ho
      rcases ho with ho | ho | ho | ho
      · exact s.hst_poisoned n u r hts hp hg ht hslow ho hl
      · exact s.once_poisoned n u r hts hp hg ht (by simp [ho]) hl
      · exact s.once_poisoned n u r hts hp hg ht (by simp [ho]) hl
      · exact s.noChk_poisoned n u r hts hp hg ht ho hl
    · obtain ⟨hok, hbad⟩ := s.xbar_poisoned n u r hts hp hg ht hslow ho hl ((s.pthr u).reg n.a).v.toNat rfl
      exact ⟨fun hf => run _ _ (hok hf), fun hf => run _ _ (hbad hf)⟩
    · obtain ⟨hbad, hok⟩ := s.target_poisoned n u hts hp hg ht ho hpair
      exact ⟨fun hb => run _ _ (hbad (chkTarget_bad n s u m h rfl rfl hb)),
        fun hl => run _ _ (hok (chkTarget_good n s u (s.target_good _ m h hl)))⟩
    · refine s.cpy_poisonedShape n u r ⟨hts, hp, hg, hpt⟩ hfr ht ho ?_
      rw [s.pgrp.copyTrap_shape s.pwrp n (s.pthr u) ho hm hdv hav hb hw hds has hdo hao]
      refine s.pwrp.shapeTrap_of _ r (by simpa using hr) hrp (fun k hk hkp => ?_)
      simp only [List.mem_cons, List.not_mem_nil, or_false] at hk
      rcases hk with rfl | rfl
      · exact hrd hkp
      · exact hra hkp
  · intro i n s hi hp hg y reg all acc pairs good goodC own count differ
    have run : ∀ (c : Nat) (v : Nat → DWord), s.run n = s.mapPack (fun u x => x.takeTrap s.pwrp.kd.trap c (v u)) → all c v :=
      fun c v h => (exec_of_insOf i n s hi).trans (congrArg Host.Outcome.next h)
    have hown : ∀ u, own u = (n.matChk s.pgrp s.pwrp).own (s.pthr u) := fun u => by
      by_cases ho : n.op = .mtile <;> simp only [own, Ins.matChk, ho, if_true, if_false] <;> rfl
    refine ⟨fun ho hclean hd => run _ _ ?_, fun ho hbad => run _ _ ?_, fun ho hv hs h2 h3 hbad => run _ _ ?_,
      fun ho hpoi hd1 hd2 hd0 hpk => run _ _ ?_, fun u ho hts hbad => run _ _ ?_, fun u ho hts hgood hpoi => run _ _ ?_⟩
    · exact s.vote_differs n ho hp hg (fun u hu => ⟨(hown u).symm.trans (hclean u hu).1, (hclean u hu).2⟩) hd
    · refine s.format_bad n (.inl ho) hp hg _ (fun u hu => ?_)
      rw [Ins.matChk, if_pos ho]
      exact n.mtileChk_badFmt _ _ _ (hbad u hu).1 (hbad u hu).2
    · refine s.format_bad n (.inr ho) hp hg _ (fun u hu => ?_)
      rw [Ins.matChk, if_neg (by simp [ho])]
      exact n.mcvtChk_badFmt _ _ _ hv hs h2 h3 (hbad u hu)
    · refine s.vote_poisoned n ho hp hg (fun u hu => ⟨(hown u).symm.trans (hpoi u hu).1, (hpoi u hu).2⟩) (fun k hk => ?_)
        (fun u hu => ?_)
      · have hone : ∀ j, 1 ≤ j → count = 1 ∨ differ j = false → s.voted n j = false := fun j hj h => h.elim
          (fun hc => by
            have hlt : decide (j < count) = false := by rw [hc]; exact decide_eq_false (not_lt.mpr hj)
            exact Bool.and_eq_false_iff.mpr (.inl hlt)) id
        match k, hk with
        | 0, _ => exact hd0
        | 1, _ => exact hone 1 (le_refl 1) hd1
        | 2, _ => exact hone 2 (by decide) hd2
      · have hpk := hpk u hu
        by_cases hm : n.op = .mtile
        · rw [Ins.matChk, if_pos hm]
          rwa [if_pos hm] at hpk
        · rw [Ins.matChk, if_neg hm]
          rwa [if_neg hm] at hpk
    · exact s.mfmt_bad n u ho hp hts (hg u (by simp [hts])).1 (hg u (by simp [hts])).2 hbad
    · exact s.mfmt_poisoned n u ho hp hts (hg u (by simp [hts])).1 (hg u (by simp [hts])).2 hgood hpoi
  · intro i n s k hi ho ht htr x off word bad hbank hp hsz hk hb hf
    rw [exec_of_insOf i n s hi]
    simp only [State.run, ho]
    rw [s.doAtld_badHeader n off k ht htr rfl hbank hp hsz (s.pgrp.headerBad_of off k hk hb hf)]

end Sys2Proof.Machine
end

section
/-! ## Scratch loads and stores (O26) -/
namespace Sys2Proof.Machine

/-! ### A thread that awaits registers, and the pack past its access -/

/-- `y` stands near `x` but for the registers it awaits and for its flags. -/
def Thread.Awaits (x y : Thread) : Prop := ∃ pd fl, Thread.Near { x with pend := pd, f := fl } y

section
variable {x y z : Thread}

theorem Thread.Near.awaits (h : x.Near y) : x.Awaits y := ⟨x.pend, x.f, h⟩
theorem Thread.Awaits.refl (x : Thread) : x.Awaits x := (Thread.Near.refl x).awaits
theorem Thread.Awaits.trans (h : x.Awaits y) (k : y.Awaits z) : x.Awaits z := by
  obtain ⟨_, _, ⟨_, _, _, _, _, _, _, _, rfl⟩, hs⟩ := h
  obtain ⟨pd, fl, ⟨sc, a, b, c, d, e, f, m, rfl⟩, ks⟩ := k
  exact ⟨pd, fl, ⟨sc, a, b, c, d, e, f, m, rfl⟩, ks ∘ hs⟩
theorem Thread.Awaits.sameFiles (h : x.Awaits y) : y.sameFiles x := by
  obtain ⟨_, _, h⟩ := h
  exact h.sameFiles
theorem Thread.Awaits.ready (h : x.Awaits y) (hr : x.ready = true) : y.ready = true := by
  obtain ⟨_, _, h⟩ := h
  exact h.ready hr
theorem Thread.Awaits.flagOf (h : x.Awaits y) (n : Ins) : n.flagOf y = n.flagOf x := by
  obtain ⟨_, _, ⟨_, _, _, _, _, _, _, _, rfl⟩, _⟩ := h
  rfl

/-- A thread that awaits registers, behind an effect and past its instruction (R10). -/
theorem Thread.Awaits.movedOn (h : x.Awaits y) (hr : x.ready = true) (e : Eff) (k : Nat) :
    x.movedOn ((y.apply e).advance k) e k := by
  have hx : x.sched = .ready := by simpa [Thread.ready] using hr
  obtain ⟨_, _, ⟨_, _, _, _, _, _, _, _, rfl⟩, hs⟩ := h
  rw [Thread.apply_eq, Thread.movedOn, Thread.apply_eq]
  exact ⟨⟨rfl, rfl, rfl, rfl, rfl, rfl, rfl⟩, rfl, rfl, rfl, (hs hx).trans hx.symm⟩

theorem Thread.await_awaits (x : Thread) (r : Nat) : x.Awaits (x.await r) := by
  unfold Thread.await
  split
  · exact ⟨_, x.f, .refl _⟩
  · exact .refl x

/-- The registers of a list are awaited, where they are registers, and so is what was awaited before. -/
theorem Thread.foldl_await_pend (l : List Nat) (x : Thread) (r : Nat) (hr : r < 255)
    (h : r ∈ l ∨ NSet.has x.pend r = true) : NSet.has (l.foldl Thread.await x).pend r = true := by
  induction l generalizing x with
  | nil => exact h.resolve_left (by simp)
  | cons a l ih =>
    refine ih _ ?_
    rw [List.mem_cons] at h
    by_cases ha : r = a
    · subst ha
      simp [Thread.await, hr, NSet.has_add]
    · refine h.imp (fun h => h.resolve_left ha) (fun h => ?_)
      unfold Thread.await
      split
      · simp [NSet.has_add, h]
      · exact h

end

/-- `t` is `s` but for what lies beside memory, the pack in issue and the files of the threads, where threads may await
registers. -/
structure State.Waits (s t : State) : Prop where
  mem : t.mem = s.mem
  pack : t.pack = s.pack
  thr : ∀ a b v, (s.thr a b v).Awaits (t.thr a b v)

section
variable {s r t : State}

theorem State.Near.waits (h : s.Near t) : s.Waits t := ⟨h.mem, h.pack, fun a b v => (h.thr a b v).awaits⟩
theorem State.Waits.trans (h : s.Waits r) (k : r.Waits t) : s.Waits t :=
  ⟨k.mem.trans h.mem, k.pack.trans h.pack, fun a b v => (h.thr a b v).trans (k.thr a b v)⟩
theorem State.Waits.modT (s : State) (g w u : Nat) (f : Thread → Thread) (hf : ∀ x : Thread, x.Awaits (f x)) :
    s.Waits (s.modT g w u f) := ⟨rfl, rfl, s.modT_threads Thread.Awaits .refl g w u f (hf _)⟩

/-- From `s` to `t`, by way of `r`: the thread `u` takes the effect `e` and goes on by `k` words, every other one keeps its
files, and workgroup `g` is as in `r` beside its warps. -/
structure State.Served (s r : State) (g w u : Nat) (e : Eff) (k : Nat) (t : State) : Prop where
  keeps : s.keepsElse t g w [u]
  moved : (s.thr g w u).movedOn (t.thr g w u) e k
  pend : (t.thr g w u).pend = (r.thr g w u).pend
  grp : (r.grp g).WarpsOnly (t.grp g)
  pack : t.pack = s.pack

theorem Thread.apply_pend (x : Thread) (e : Eff) : (x.apply e).pend = x.pend := by rw [Thread.apply_eq]

theorem State.Waits.served (h : s.Waits r) (g w u : Nat) (e : Eff) (k : Nat) (hr : (s.thr g w u).ready = true) :
    s.Served r g w u e k (r.finish g w u k (.ok e)).slowDone := by
  have hn := h.thr g w u
  have hu := r.thr_modT_same g w u (fun x => (x.apply e).advance k) (hn.ready hr)
  have hg := r.modW_grp g w (fun y => y.mod u (fun x => (x.apply e).advance k)) g
  have ho := fun a b v => r.thr_modT_other g w u a b v (fun x => (x.apply e).advance k)
  have hf : r.finish g w u k (.ok e) = r.modT g w u (fun x => (x.apply e).advance k) := rfl
  rw [hf]
  obtain ⟨hm, hp⟩ := (r.modT g w u (fun x => (x.apply e).advance k)).slowDone_fields
  refine ⟨⟨hm.trans h.mem, fun a b v hv => ?_⟩, ?_, ?_, hg.trans (State.slowDone_grp _ _), hp.trans h.pack⟩
  · rw [State.slowDone_thr, ho a b v (by simpa using hv)]
    exact (h.thr a b v).sameFiles
  · rw [State.slowDone_thr, hu]
    exact hn.movedOn hr e k
  · rw [State.slowDone_thr, hu]
    exact Thread.apply_pend _ e

end

/-- lds, ldsa, sts or stsr of a thread that goes on with the effect `e`, seen from a state `b` with the same threads. -/
theorem State.inTurn_served (s b r : State) (n : Ins) (u : Nat) (e : Eff) (h : s.alone n u)
    (hf : (s.pthr u).flagRoom (n.flagOf (s.pthr u))) (chk : State → Nat → Nat → Nat → Cause)
    (body : State → Nat → Nat → Nat → State × Res) (hc : chk s s.pack.g s.pack.w u = none)
    (hb : body s s.pack.g s.pack.w u = (r, .ok e)) (hn : b.Waits r)
    (ht : ∀ a c v, b.thr a c v = s.thr a c v) :
    b.Served r s.pack.g s.pack.w u e n.words (s.inTurn n chk body).slowDone := by
  have hr := (h.2.1.1.2.2.2.2 u (by simp [h.1])).2
  rw [s.inTurn_alone n chk body u h hc hf, hb]
  exact hn.served _ _ _ _ _ (by rw [ht]; exact hr)

/-! ### An access that waits in its bank queue (log 80) -/

/-- What the issue of a waiting access changes of its thread. -/
def Thread.awaitAll (x : Thread) (regs : List Nat) (flag : Option Nat) : Thread :=
  match flag with
  | some n => (regs.foldl Thread.await x).raiseFlag n
  | none => regs.foldl Thread.await x

theorem Thread.awaitAll_pend (x : Thread) (regs : List Nat) (flag : Option Nat) :
    (x.awaitAll regs flag).pend = (regs.foldl Thread.await x).pend := by
  cases flag <;> rfl

theorem Thread.awaitAll_awaits (x : Thread) (regs : List Nat) (flag : Option Nat) : x.Awaits (x.awaitAll regs flag) := by
  have h : x.Awaits (regs.foldl Thread.await x) := foldl_rel Thread.Awaits .refl .trans _ Thread.await_awaits regs x
  cases flag with
  | none => exact h
  | some n => exact h.trans ⟨_, _, .refl _⟩

section
variable (r : State) (i : Ins) (g w u off bw n : Nat) (act : BankDo) (regs : List Nat)

/-- An access at the end of a workgroup's bank queue. -/
def Group.queued (x : Group) (o : BankOp) : Group := { x with bank := x.bank ++ [o] }

/-- The entry of a waiting access in its bank queue. -/
def State.bankEntry : BankOp := ⟨r.pkg.nextId, tid w u, off, bw, n, act, i.flagOf (r.thr g w u), r.clock⟩

theorem State.later_eq : r.later i g w u off bw n act regs
    = (r.newId.1.modG g (fun x => x.queued (r.bankEntry i g w u off bw n act))).modT g w u
        (fun x => x.awaitAll regs (i.flagOf (r.thr g w u))) := rfl

/-- The state that a waiting access leaves: its thread awaits its registers. -/
theorem State.later_waits : r.Waits (r.later i g w u off bw n act regs) := by
  rw [State.later_eq]
  have h1 : r.Near r.newId.1 := .of_groups rfl rfl rfl
  have h2 : r.newId.1.Near (r.newId.1.modG g (fun x => x.queued (r.bankEntry i g w u off bw n act))) :=
    .modG _ g (fun x => x.queued (r.bankEntry i g w u off bw n act)) (fun _ _ => .refl _)
  exact (h1.trans h2).waits.trans (.modT _ g w u _ (fun x => x.awaitAll_awaits _ _))

/-- The workgroup that a waiting access leaves: its entry at the end of the bank queue. -/
theorem State.later_grp (hg : g < r.groups.length) :
    ((r.grp g).queued (r.bankEntry i g w u off bw n act)).WarpsOnly ((r.later i g w u off bw n act regs).grp g) := by
  have h := (r.newId.1.modG g (fun x => x.queued (r.bankEntry i g w u off bw n act))).modW_grp g w
    (fun y => y.mod u (fun x => x.awaitAll regs (i.flagOf (r.thr g w u)))) g
  rwa [r.newId.1.grp_modG_same g _ hg] at h

/-- The registers that a waiting access awaits. -/
theorem State.later_pend (hr : (r.thr g w u).ready = true) (k : Nat) (hk : k ∈ regs) (hlt : k < 255) :
    NSet.has ((r.later i g w u off bw n act regs).thr g w u).pend k = true := by
  have hn : r.newId.1.Near (r.newId.1.modG g (fun x => x.queued (r.bankEntry i g w u off bw n act))) :=
    .modG _ g (fun x => x.queued (r.bankEntry i g w u off bw n act)) (fun _ _ => .refl _)
  rw [State.later_eq, State.thr_modT_same _ _ _ _ _ ((hn.thr g w u).ready hr), Thread.awaitAll_pend]
  exact Thread.foldl_await_pend _ _ _ hlt (.inl hk)

end

/-! ### The registers of a load -/

theorem Eff.foldl_and_regs (F : Nat → Eff) (l : List Nat) (e : Eff) :
    (l.foldl (fun e k => e.and (F k)) e).g = e.g ++ l.flatMap (fun k => (F k).g) := by
  induction l generalizing e with
  | nil => simp
  | cons k l ih => rw [List.foldl_cons, ih, List.flatMap_cons, ← List.append_assoc]; rfl

theorem loadEff_reg (d w : Nat) (sg : Bool) (v : Nat) (p : Bool) : d ∈ (loadEff d w sg v p).g.map (fun r => r.1) := by
  unfold loadEff wrInt
  split <;> simp [Eff.pair, Eff.reg]

/-- A load of `m` values writes the registers from its first on. -/
theorem loadEffs_reg (d w m : Nat) (sg : Bool) (val : Nat → Nat × Bool) (k : Nat) (hk : k < m) :
    d + k ∈ (loadEffs d w m sg val).g.map (fun r => r.1) := by
  rw [loadEffs, Eff.foldl_and_regs, List.map_append, List.mem_append, List.map_flatMap, List.mem_flatMap]
  exact .inr ⟨k, List.mem_range.mpr hk, loadEff_reg _ _ _ _ _⟩

/-! ### What an access finds in its way -/

/-- An access with acquire order takes no trap of the Touchstone (R196). -/
theorem Group.tsTrap_acq (x : Group) (u off n scope : Nat) (write : Bool) : x.tsTrap u off n write (acqCls scope) = none := by
  unfold Group.tsTrap acqCls
  split
  · rfl
  · split <;> simp [Group.tsConflict]

/-- One with release order takes none. -/
theorem Group.tsTrap_sync (x : Group) (u off n : Nat) (write : Bool) : x.tsTrap u off n write .sync = none :=
  x.tsTrap_acq u off n 0 write

theorem Group.tsOutside_tsOnly (x : Group) (u scope : Nat) : x.TsOnly (x.tsOutside u scope) := by
  unfold Group.tsOutside
  dsimp only
  split
  · exact .refl x
  · split
    · exact x.modTid_tsOnly u _ (fun t => foldl_rel Thread.TsOnly .refl .trans _ Thread.listed_tsOnly _ t)
    · exact x.modTid_tsOnly u _ (fun t => t.acquireSet_tsOnly _ _)

theorem Group.spanRead_tsOnly (x : Group) (u off n scope : Nat) : x.TsOnly (x.spanRead u off n scope) := by
  unfold Group.spanRead
  split
  · exact x.tsOutside_tsOnly u scope
  · exact .refl x

/-! ### Loads (R225, R226) -/

/-- What a read makes of the workgroup (R195). -/
def Group.readBy (x : Group) (u off n : Nat) (cls : TsCls) (scope : Nat) : Group :=
  (x.tsAccess u off n true false cls).spanRead u off n scope

theorem Group.readBy_tsOnly (x : Group) (u off n : Nat) (cls : TsCls) (scope : Nat) : x.TsOnly (x.readBy u off n cls scope) :=
  (x.tsAccess_tsOnly u off n true false cls).trans (Group.spanRead_tsOnly _ _ _ _ _)

/-- The state behind a read. -/
def State.readBy (s : State) (g u off n : Nat) (cls : TsCls) (scope : Nat) : State :=
  (s.modG g (fun x => x.readBy u off n cls scope)).popLate

theorem State.readBy_near (s : State) (g u off n : Nat) (cls : TsCls) (scope : Nat) : s.Near (s.readBy g u off n cls scope) :=
  (State.Near.modG s g (fun x => x.readBy u off n cls scope) ((s.grp g).readBy_tsOnly u off n cls scope).near).trans
    (.of_groups rfl rfl rfl)

theorem State.readBy_grp (s : State) (g u off n : Nat) (cls : TsCls) (scope : Nat) (hg : g < s.groups.length) :
    (s.readBy g u off n cls scope).grp g = (s.grp g).readBy u off n cls scope := State.grp_modG_same s g _ hg

theorem Group.TsOnly.bank {x y : Group} (h : x.TsOnly y) : y.bank = x.bank := by
  obtain ⟨⟨_, _, rfl⟩, _⟩ := h
  rfl
theorem Group.WarpsOnly.bank {x y : Group} (h : x.WarpsOnly y) : y.bank = x.bank := by
  obtain ⟨_, rfl⟩ := h
  rfl

/-- The order of an access that loads, as the Touchstone counts it. -/
def ScrForm.loadCls (f : ScrForm) : TsCls := if f.ord = 1 then acqCls f.scope else .plain
/-- The scope at which it acquires. -/
def ScrForm.loadScope (f : ScrForm) : Nat := if f.loadCls = .acq then f.scope else 0

section
variable (s : State) (n : Ins) (f : ScrForm) (sg : Bool) (g w u : Nat)

/-- A load that nothing holds, traps or makes wait for what stands before it. -/
structure State.LoadGoes : Prop where
  addr : n.scrAddr (s.thr g w u) = (n.scrOff (s.thr g w u), false)
  ok : (s.grp g).scrOk (n.scrOff (s.thr g w u)) (f.w * f.n) f.al = true
  hold : s.scrHold g w u (n.scrOff (s.thr g w u)) (f.w * f.n) false = none
  acq : f.ord = 1 → s.acqHold g w u = none
  trap : (s.grp g).tsTrap (tid w u) (n.scrOff (s.thr g w u)) (f.w * f.n) false f.loadCls = none
  hit : f.ord = 1 → (s.grp g).bankHit (tid w u) (n.scrOff (s.thr g w u)) (f.w * f.n) = false

/-- The state behind the read of a load. -/
def State.loadRead : State := s.readBy g (tid w u) (n.scrOff (s.thr g w u)) (f.w * f.n) f.loadCls f.loadScope

/-- What a load reads, value by value. -/
def State.loadVal (k : Nat) : Nat × Bool :=
  ((s.grp g).rd (n.scrOff (s.thr g w u) + f.w * k) f.w, (s.grp g).rdPsn (n.scrOff (s.thr g w u) + f.w * k) f.w)

variable {s n f g w u}

theorem State.LoadGoes.load1_eq (h : s.LoadGoes n f g w u) : s.load1 n f sg g w u =
    if decide (f.ord ≠ 1) && s.waitsBank g w u (n.scrOff (s.thr g w u)) (f.w * f.n) then
      ((s.loadRead n f g w u).later n g w u (n.scrOff (s.thr g w u)) f.w f.n (.load n.d sg)
        ((loadEffs n.d f.w f.n sg (fun _ => (0, false))).g.map (fun r => r.1)), .ok Eff.none)
    else (if f.ord = 1 then (s.loadRead n f g w u).acquired g w u f.scope true else s.loadRead n f g w u,
      .ok (loadEffs n.d f.w f.n sg (s.loadVal n f g w u))) := by
  obtain ⟨haddr, hok, hhold, hacq, htrap, hhit⟩ := h
  unfold State.load1
  simp only [haddr, hok, hhold, Bool.false_eq_true, if_false, Bool.not_true]
  by_cases ho : f.ord = 1
  · have htrap' := htrap
    simp only [ScrForm.loadCls, ho, if_true] at htrap
    simp only [ho, if_true, hacq ho, htrap, hhit ho]
    simp only [State.loadRead, ScrForm.loadScope, ScrForm.loadCls, ho, if_true]
    rfl
  · simp only [ScrForm.loadCls, ho, if_false] at htrap
    simp only [ho, if_false, htrap]
    simp only [State.loadRead, ScrForm.loadScope, ScrForm.loadCls, ho, if_false]
    simp only [decide_false, Bool.false_and, Bool.false_eq_true, if_false]
    rfl

end

/-- `r` is near `s`, and the scratch of workgroup `g` is as it was. -/
structure State.ReadOnly (s r : State) (g : Nat) : Prop where
  near : s.Near r
  scr : (r.grp g).scr = (s.grp g).scr
  scrP : (r.grp g).scrP = (s.grp g).scrP

theorem State.ReadOnly.refl (s : State) (g : Nat) : s.ReadOnly s g := ⟨.refl s, rfl, rfl⟩
theorem State.ReadOnly.trans {s r t : State} {g : Nat} (h : s.ReadOnly r g) (k : r.ReadOnly t g) : s.ReadOnly t g :=
  ⟨h.near.trans k.near, k.scr.trans h.scr, k.scrP.trans h.scrP⟩

theorem State.acquired_readOnly (s : State) (g w u scope : Nat) (mark : Bool) : s.ReadOnly (s.acquired g w u scope mark) g := by
  have hf : ∀ x : Group, x.TsOnly (if scope = 0 then x else x.tsFence (tid w u)) := fun x => by
    split
    · exact .refl x
    · exact x.tsFence_tsOnly _
  have hd : (s.acquires g scope).grp g = s.grp g := by rw [State.grp, (s.acquires_diesOnly g scope).groups]; rfl
  refine ⟨(s.acquired_near g w u scope mark).1, (s.acquired_near g w u scope mark).2, ?_⟩
  rw [← hd]
  have hs : ∀ x : Group, (if mark = true ∧ 3 ≤ scope then x.stale else x).scrP = x.scrP := fun x => by split <;> rfl
  exact modAt_getD_rel (fun x y : Group => y.scrP = x.scrP) (fun _ => rfl) _ g _ Group.void g ((hs _).trans (hf _).scr.2)

theorem State.readBy_readOnly (s : State) (g u off n : Nat) (cls : TsCls) (scope : Nat) (hg : g < s.groups.length) :
    s.ReadOnly (s.readBy g u off n cls scope) g := by
  have h := ((s.grp g).readBy_tsOnly u off n cls scope).scr
  refine ⟨s.readBy_near g u off n cls scope, ?_, ?_⟩ <;> rw [s.readBy_grp g u off n cls scope hg]
  · exact h.1
  · exact h.2

section
variable {s : State} {n : Ins} {f : ScrForm} {sg : Bool} {u : Nat} (h : s.alone n u)
  (hf : (s.pthr u).flagRoom (n.flagOf (s.pthr u)))
include h hf

/-- A load by a poisoned address (R63, R226). -/
theorem State.doLoad_poisoned (hp : (n.scrAddr (s.pthr u)).2 = true) (ha : f.ord = 1 → s.acqHold s.pack.g s.pack.w u = none) :
    ∃ r, s.ReadOnly r s.pack.g
      ∧ s.Served r s.pack.g s.pack.w u (loadEffs n.d f.w f.n sg (fun _ => (0, true))) n.words (s.doLoad n f sg) := by
  have hb : ∃ r, s.load1 n f sg s.pack.g s.pack.w u = (r, .ok (loadEffs n.d f.w f.n sg (fun _ => (0, true))))
      ∧ s.ReadOnly r s.pack.g := by
    have hp : (n.scrAddr (s.thr s.pack.g s.pack.w u)).2 = true := hp
    simp only [State.load1, hp, if_true, State.loadNothing]
    by_cases ho : f.ord = 1
    · simp only [ho, ne_eq, not_true, if_false, ha ho]
      exact ⟨_, rfl, s.acquired_readOnly _ _ _ _ _⟩
    · simp only [ne_eq, ho, not_false_eq_true, if_true]
      exact ⟨s, rfl, .refl s _⟩
  obtain ⟨r, hb, hr⟩ := hb
  exact ⟨r, hr, s.inTurn_served s r n u _ h hf noChk _ rfl hb hr.near.waits (fun _ _ _ => rfl)⟩

/-- A load performed as it issues (R225, R226). -/
theorem State.doLoad_now (hg : s.LoadGoes n f s.pack.g s.pack.w u)
    (hw : f.ord = 1 ∨ s.waitsBank s.pack.g s.pack.w u (n.scrOff (s.pthr u)) (f.w * f.n) = false) :
    ∃ r, s.ReadOnly r s.pack.g
      ∧ s.Served r s.pack.g s.pack.w u (loadEffs n.d f.w f.n sg (s.loadVal n f s.pack.g s.pack.w u)) n.words (s.doLoad n f sg) := by
  have hread : s.ReadOnly (s.loadRead n f s.pack.g s.pack.w u) s.pack.g := s.readBy_readOnly _ _ _ _ _ _ h.2.1.1.1
  have hb := hg.load1_eq sg
  rw [if_neg (by rcases hw with hw | hw <;> simp [hw])] at hb
  refine ⟨_, ?_, s.inTurn_served s _ n u _ h hf noChk _ rfl hb ?_ (fun _ _ _ => rfl)⟩
  · split
    · exact hread.trans (State.acquired_readOnly _ _ _ _ _ _)
    · exact hread
  · split
    · exact (hread.trans (State.acquired_readOnly _ _ _ _ _ _)).near.waits
    · exact hread.near.waits

/-- A load that waits in its bank queue (log 80). -/
theorem State.doLoad_waits (hg : s.LoadGoes n f s.pack.g s.pack.w u) (ho : f.ord ≠ 1)
    (hw : s.waitsBank s.pack.g s.pack.w u (n.scrOff (s.pthr u)) (f.w * f.n) = true) :
    ∃ r, s.Served r s.pack.g s.pack.w u Eff.none n.words (s.doLoad n f sg)
      ∧ (r.grp s.pack.g).scr = s.pgrp.scr ∧ (r.grp s.pack.g).scrP = s.pgrp.scrP
      ∧ (r.grp s.pack.g).bank = s.pgrp.bank ++ [⟨s.pkg.nextId, tid s.pack.w u, n.scrOff (s.pthr u), f.w, f.n, .load n.d sg,
          n.flagOf (s.pthr u), s.clock⟩]
      ∧ ∀ k, k < f.n → n.d + k < 255 → NSet.has (r.thr s.pack.g s.pack.w u).pend (n.d + k) = true := by
  have hread : s.ReadOnly (s.loadRead n f s.pack.g s.pack.w u) s.pack.g := s.readBy_readOnly _ _ _ _ _ _ h.2.1.1.1
  have hbank : ((s.loadRead n f s.pack.g s.pack.w u).grp s.pack.g).bank = s.pgrp.bank := by
    rw [State.loadRead, s.readBy_grp _ _ _ _ _ _ h.2.1.1.1]
    exact (Group.readBy_tsOnly _ _ _ _ _ _).bank
  have hlen : s.pack.g < (s.loadRead n f s.pack.g s.pack.w u).groups.length := by
    rw [show (s.loadRead n f s.pack.g s.pack.w u).groups = (s.modG s.pack.g _).groups from rfl, State.modG_length]
    exact h.2.1.1.1
  have hid : (s.loadRead n f s.pack.g s.pack.w u).pkg = s.pkg ∧ (s.loadRead n f s.pack.g s.pack.w u).clock = s.clock := ⟨rfl, rfl⟩
  have hb := hg.load1_eq sg
  rw [if_pos (by simpa [ho] using hw)] at hb
  generalize s.loadRead n f s.pack.g s.pack.w u = q at *
  have hthr := hread.near.thr s.pack.g s.pack.w u
  have hgrp := q.later_grp n s.pack.g s.pack.w u (n.scrOff (s.thr s.pack.g s.pack.w u)) f.w f.n (.load n.d sg)
    ((loadEffs n.d f.w f.n sg (fun _ => (0, false))).g.map (fun r => r.1)) hlen
  refine ⟨_, s.inTurn_served s _ n u _ h hf noChk _ rfl hb (hread.near.waits.trans (q.later_waits ..)) (fun _ _ _ => rfl),
    hgrp.scr.trans hread.scr, hgrp.scrP.trans hread.scrP, ?_, fun k hk hlt => ?_⟩
  · rw [hgrp.bank, Group.queued, hbank, State.bankEntry, hthr.awaits.flagOf, hid.1, hid.2]
  · exact q.later_pend n _ _ _ _ _ _ _ _ (hthr.ready (h.2.1.1.2.2.2.2 u (by simp [h.1])).2) _ (loadEffs_reg _ _ _ _ _ _ hk) hlt

end

/-! ### Stores (R225, R226) -/

/-- `y` is `x` with `m` values of `w` bytes stored from `off` on: least significant byte first, the poison of the words that they
fill cleared, and nothing else of scratch changed (R62, R225). -/
structure Group.StoredAs (x y : Group) (off w m : Nat) (val : Nat → Nat) : Prop where
  bytes : ∀ k j, k < m → j < w → FMap.get 0 y.scr (off + w * k + j) = BitVec.ofNat 8 (val k / 256 ^ j)
  out : ∀ a, a < off ∨ off + w * m ≤ a → FMap.get 0 y.scr a = FMap.get 0 x.scr a
  psn : ∀ k, NSet.has y.scrP k = (NSet.has x.scrP k && !decide (off ≤ 4 * k ∧ 4 * k + 4 ≤ off + w * m))

theorem mem_wordsOf (off n k : Nat) : k ∈ wordsOf off n ↔ off / 4 ≤ k ∧ k < (off + n + 3) / 4 := by
  simp only [wordsOf, List.mem_map, List.mem_range]
  exact ⟨fun ⟨a, h, e⟩ => by omega, fun h => ⟨k - off / 4, by omega, by omega⟩⟩

/-- Clean bytes clear the poison of the words that they fill, and of no other (R62). -/
theorem Group.wr_clean_psn (x : Group) (off n v k : Nat) :
    NSet.has (x.wr off n v false).scrP k = (NSet.has x.scrP k && !decide (off ≤ 4 * k ∧ 4 * k + 4 ≤ off + n)) := by
  have hfold : ∀ (l : List Nat) (m : NSet), NSet.has (l.foldl (fun (l : NSet) (k : Nat) =>
      if off ≤ 4 * k ∧ 4 * k + 4 ≤ off + n then NSet.del l k else l) m) k
      = (NSet.has m k && !decide (k ∈ l ∧ off ≤ 4 * k ∧ 4 * k + 4 ≤ off + n)) := by
    intro l
    induction l with
    | nil => simp
    | cons a l ih =>
      intro m
      rw [List.foldl_cons, ih]
      by_cases ha : off ≤ 4 * a ∧ 4 * a + 4 ≤ off + n
      · by_cases hk : k = a
        · subst hk; simp [ha, NSet.has_del]
        · simp [ha, hk, NSet.has_del]
      · by_cases hk : k = a
        · subst hk; simp [ha]
        · simp [ha, hk]
  have hp : (x.wr off n v false).scrP = (wordsOf off n).foldl (fun (l : NSet) (k : Nat) =>
      if off ≤ 4 * k ∧ 4 * k + 4 ≤ off + n then NSet.del l k else l) x.scrP := by
    simp only [Group.wr, Bool.false_eq_true, if_false]
  rw [hp, hfold]
  congr 2
  exact decide_eq_decide.mpr (by rw [mem_wordsOf]; omega)

/-- One value stored. -/
theorem Group.wr_storedAs (x : Group) (off w : Nat) (val : Nat → Nat) (hm : FMap.wf 0 x.scr = true) :
    x.StoredAs (x.wr off w (val 0) false) off w 1 val := by
  have hget := fun a => (x.wr_get off w (val 0) false hm a).2
  refine ⟨fun k j hk hj => ?_, fun a ha => ?_, fun k => ?_⟩
  · obtain rfl : k = 0 := by omega
    rw [hget, if_pos (by omega), show off + w * 0 + j - off = j by omega]
  · rw [hget, if_neg (by omega)]
  · rw [Nat.mul_one]
    exact x.wr_clean_psn off w (val 0) k

/-- Words stored. -/
theorem Group.putWords_storedAs (x : Group) (off m : Nat) (val : Nat → Nat) (hm : FMap.wf 0 x.scr = true) (ho : off % 4 = 0) :
    x.StoredAs (x.putWords off val m) off 4 m val := by
  have hget := fun a => (x.putWords_get off val m hm a).2
  refine ⟨fun k j hk hj => ?_, fun a ha => ?_, fun k => x.putWords_psn off val m k ho⟩
  · rw [hget, if_pos (by omega), show (off + 4 * k + j - off) / 4 = k by omega, show (off + 4 * k + j - off) % 4 = j by omega]
  · rw [hget, if_neg (by omega)]

/-- The values of a store, of one value or of words, as scratch has them. -/
theorem Group.storeVals_storedAs (x y : Group) (off w m : Nat) (val : Nat → Nat) (hy : y.scr = x.scr ∧ y.scrP = x.scrP)
    (hm : FMap.wf 0 x.scr = true) (hw : m = 1 ∨ (w = 4 ∧ off % 4 = 0)) :
    x.StoredAs (y.storeVals off w ((List.range m).map val)) off w m val := by
  have hv : ∀ k < m, ((List.range m).map val).getD k 0 = val k := fun k hk => by simp [List.getD_eq_getElem?_getD, hk]
  have hs : y.StoredAs (y.storeVals off w ((List.range m).map val)) off w m val := by
    rw [← hy.1] at hm
    rcases hw with rfl | ⟨rfl, ho⟩
    · obtain ⟨h1, h2, h3⟩ := y.wr_storedAs off w val hm
      exact ⟨h1, h2, h3⟩
    · have he : (List.range ((List.range m).map val).length).foldl
          (fun x k => x.wr (off + 4 * k) 4 (((List.range m).map val).getD k 0) false) y = y.putWords off val m := by
        rw [List.length_map, List.length_range, Group.putWords]
        exact List.foldl_ext _ _ _ (fun x k hk => by rw [hv k (List.mem_range.mp hk)])
      obtain ⟨h1, h2, h3⟩ := y.putWords_storedAs off m val hm ho
      rw [Group.storeVals, he]
      exact ⟨h1, h2, h3⟩
  obtain ⟨h1, h2, h3⟩ := hs
  exact ⟨h1, fun a ha => by rw [h2 a ha, hy.1], fun k => by rw [h3 k, hy.2]⟩

theorem Group.storeVals_near (x : Group) (off w : Nat) (vals : List Nat) : x.Threads Thread.Near (x.storeVals off w vals) := by
  have h : x.Threads Thread.Near ((List.range vals.length).foldl (fun x k => x.wr (off + w * k) w (vals.getD k 0) false) x) :=
    foldl_rel (fun x y : Group => x.Threads Thread.Near y) (fun _ _ _ => .refl _) (.trans .trans) _ (fun y k => y.wr_near _ _ _ _) _ x
  exact h

/-- The order of an access that stores, as the Touchstone counts it. -/
def ScrForm.storeCls (f : ScrForm) : TsCls := if f.ord = 2 then .sync else plainCls (decide (f.w < 4))

/-- The state as a store finds it: with release order, what it reaches is released first (R226, R345). -/
def State.storeFrom (s : State) (f : ScrForm) (g w u : Nat) : State :=
  (if f.ord = 2 then s.releasedBy g (tid w u) f.scope else s).popLate

/-- The values of a store. -/
def Ins.storeVal (n : Ins) (f : ScrForm) (x : Thread) (k : Nat) : Nat :=
  if f.w = 8 then (x.reg64 (n.d + k)).toNat else (x.reg (n.d + k)).v.toNat

theorem Ins.storeVal_eq (n : Ins) (f : ScrForm) (x : Thread) (k : Nat) :
    x.raw (if f.w = 8 then 64 else 32) (n.d + k) = n.storeVal f x k := by
  unfold Thread.raw Ins.storeVal
  by_cases h : f.w = 8 <;> simp [h]

/-- A release leaves of a workgroup all but the list of those that have released. -/
theorem State.releasedBy_grp (s : State) (g t scope : Nat) (hg : g < s.groups.length) :
    ∃ l, (s.releasedBy g t scope).grp g = { s.grp g with rels := l } := by
  have hr := (s.released_memOnly g scope).groups
  unfold State.releasedBy
  split
  · exact ⟨_, rfl⟩
  · rw [State.grp_modG_same _ _ _ (by rw [hr]; exact hg), State.grp, hr]
    exact ⟨_, rfl⟩

theorem State.releasedBy_clock (s : State) (g t scope : Nat) :
    (s.releasedBy g t scope).pkg = s.pkg ∧ (s.releasedBy g t scope).clock = s.clock
      ∧ (s.releasedBy g t scope).groups.length = s.groups.length := by
  obtain ⟨m, p, ds, hr⟩ := s.released_memOnly g scope
  unfold State.releasedBy
  split
  · exact ⟨rfl, rfl, rfl⟩
  · rw [hr]
    exact ⟨rfl, rfl, State.modG_length _ _ _⟩

/-- The state from which a store is seen: with release order, one in which what it reaches is released. -/
def State.storeSeen (s : State) (f : ScrForm) (g : Nat) : State := if f.ord = 2 then s.released g f.scope else s

theorem State.storeSeen_thr (s : State) (f : ScrForm) (g a b v : Nat) : (s.storeSeen f g).thr a b v = s.thr a b v := by
  unfold State.storeSeen
  split
  · simp only [State.thr, State.wrp, State.grp, (s.released_memOnly g f.scope).groups]
  · rfl

theorem State.storeSeen_pack (s : State) (f : ScrForm) (g : Nat) : (s.storeSeen f g).pack = s.pack := by
  unfold State.storeSeen
  split
  · exact (s.released_memOnly g f.scope).pack
  · rfl

/-- The thread of a store goes on from where it stood before any release. -/
theorem State.Served.seen_moved {s r t : State} {f : ScrForm} {u k : Nat} {e : Eff}
    (h : (s.storeSeen f s.pack.g).Served r s.pack.g s.pack.w u e k t) : (s.pthr u).movedOn (t.pthr u) e k := by
  have hm := h.moved
  rw [s.storeSeen_thr] at hm
  rwa [State.pthr_of_pack (h.pack.trans (s.storeSeen_pack f _))]

section
variable (s : State) (f : ScrForm) (g w u : Nat)

theorem State.storeFrom_near : (s.storeSeen f g).Near (s.storeFrom f g w u) := by
  have hp : ∀ r : State, r.Near r.popLate := fun r => .of_groups rfl rfl rfl
  unfold State.storeSeen State.storeFrom
  split
  · exact (s.releasedBy_near g (tid w u) f.scope).1.trans (hp _)
  · exact hp s

theorem State.storeFrom_grp (hg : g < s.groups.length) : ∃ l, (s.storeFrom f g w u).grp g = { s.grp g with rels := l } := by
  unfold State.storeFrom
  split
  · exact s.releasedBy_grp g (tid w u) f.scope hg
  · exact ⟨_, rfl⟩

theorem State.storeFrom_fields : (s.storeFrom f g w u).pkg = s.pkg ∧ (s.storeFrom f g w u).clock = s.clock
    ∧ (s.storeFrom f g w u).groups.length = s.groups.length := by
  unfold State.storeFrom
  split
  · exact s.releasedBy_clock g (tid w u) f.scope
  · exact ⟨rfl, rfl, rfl⟩
end

section
variable (s : State) (n : Ins) (f : ScrForm) (g w u : Nat)

/-- A store that nothing holds or traps. -/
structure State.StoreGoes : Prop where
  hold : s.scrHold g w u (n.scrOff (s.thr g w u)) (f.w * f.n) true = none
  rel : f.ord = 2 → s.relHold g w u f.scope true = none
  trap : (s.grp g).tsTrap (tid w u) (n.scrOff (s.thr g w u)) (f.w * f.n) true f.storeCls = none

/-- The values of a store, in order. -/
def State.storeList : List Nat := (List.range f.n).map (n.storeVal f (s.thr g w u))

/-- What a store performed as it issues makes of the workgroup. -/
def State.storeAt (x : Group) : Group :=
  (x.tsAccess (tid w u) (n.scrOff (s.thr g w u)) (f.w * f.n) false true f.storeCls).storeVals (n.scrOff (s.thr g w u)) f.w
    (s.storeList n f g w u)

/-- The tags of a store that waits: with release order they are written when it is performed. -/
def State.storeTagged (r : State) : State :=
  if f.ord = 2 then r
  else r.modG g (fun x => x.tsAccess (tid w u) (n.scrOff (s.thr g w u)) (f.w * f.n) false true f.storeCls)

variable {s n f g w u}

theorem State.StoreGoes.store1_eq (h : s.StoreGoes n f g w u) : s.store1 n f g w u =
    if s.waitsBank g w u (n.scrOff (s.thr g w u)) (f.w * f.n) then
      (((s.storeTagged n f g w u (s.storeFrom f g w u)).later n g w u (n.scrOff (s.thr g w u)) f.w f.n
        (.store (s.storeList n f g w u) (f.ord == 2)) []).stored g w u, .ok Eff.none)
    else (((s.storeFrom f g w u).modG g (s.storeAt n f g w u)).stored g w u, .ok Eff.none) := by
  obtain ⟨hhold, hrel, htrap⟩ := h
  have hl : s.storeList n f g w u = (List.range f.n).map (fun k => (s.thr g w u).raw (if f.w = 8 then 64 else 32) (n.d + k)) := by
    simp only [State.storeList, Ins.storeVal_eq]
  have hc : f.storeCls = (if f.ord = 2 then TsCls.sync else if f.w < 4 then TsCls.sub else TsCls.plain) := by
    unfold ScrForm.storeCls plainCls
    simp only [decide_eq_true_eq]
  have hr : (if f.ord = 2 then s.relHold g w u f.scope true else none) = none := by
    split
    · next ho => exact hrel ho
    · rfl
  rw [hc] at htrap
  unfold State.storeTagged State.storeAt
  rw [hl, hc]
  unfold State.store1
  simp only [Ins.scrAddr_fst, hhold, hr, htrap]
  rfl

end

/-- The tags of a store that waits change nothing else. -/
theorem State.storeTagged_of (q s : State) (n : Ins) (f : ScrForm) (g w u : Nat) (hg : g < q.groups.length) :
    q.Near (s.storeTagged n f g w u q) ∧ (q.grp g).TsOnly ((s.storeTagged n f g w u q).grp g)
      ∧ (s.storeTagged n f g w u q).pkg = q.pkg ∧ (s.storeTagged n f g w u q).clock = q.clock
      ∧ (s.storeTagged n f g w u q).groups.length = q.groups.length := by
  unfold State.storeTagged
  split
  · exact ⟨.refl q, .refl _, rfl, rfl, rfl⟩
  · refine ⟨q.tsAccess_near g (tid w u) _ _ false true _, ?_, rfl, rfl, State.modG_length _ _ _⟩
    rw [State.grp_modG_same _ _ _ hg]
    exact Group.tsAccess_tsOnly _ _ _ _ _ _ _

section
variable {s : State} {n : Ins} {f : ScrForm} {u : Nat} (h : s.alone n u)
  (hf : (s.pthr u).flagRoom (n.flagOf (s.pthr u))) (hc : chkStore n f s s.pack.g s.pack.w u = none)
  (hg : s.StoreGoes n f s.pack.g s.pack.w u)
include h hf hc hg

/-- A store performed as it issues (R225, R226). -/
theorem State.doStore_now (hm : FMap.wf 0 s.pgrp.scr = true) (hw : f.n = 1 ∨ (f.w = 4 ∧ n.scrOff (s.pthr u) % 4 = 0))
    (hb : s.waitsBank s.pack.g s.pack.w u (n.scrOff (s.pthr u)) (f.w * f.n) = false) :
    ∃ r, (s.storeSeen f s.pack.g).Served r s.pack.g s.pack.w u Eff.none n.words (s.doStore n f)
      ∧ s.pgrp.StoredAs (r.grp s.pack.g) (n.scrOff (s.pthr u)) f.w f.n (n.storeVal f (s.pthr u)) := by
  have he := hg.store1_eq
  rw [if_neg (by simpa using hb)] at he
  obtain ⟨l, hl⟩ := s.storeFrom_grp f s.pack.g s.pack.w u h.2.1.1.1
  have hn := s.storeFrom_near f s.pack.g s.pack.w u
  have hlen := (s.storeFrom_fields f s.pack.g s.pack.w u).2.2
  generalize s.storeFrom f s.pack.g s.pack.w u = q at he hl hn hlen
  have hts := Group.tsAccess_tsOnly (q.grp s.pack.g) (tid s.pack.w u) (n.scrOff (s.pthr u)) (f.w * f.n) false true f.storeCls
  have hgrp := q.grp_modG_same s.pack.g (s.storeAt n f s.pack.g s.pack.w u) (by rw [hlen]; exact h.2.1.1.1)
  have hnear : q.Near (q.modG s.pack.g (s.storeAt n f s.pack.g s.pack.w u)) :=
    .modG q s.pack.g _ (Group.Threads.trans .trans hts.near (Group.storeVals_near _ _ _ _))
  generalize q.modG s.pack.g (s.storeAt n f s.pack.g s.pack.w u) = r at he hgrp hnear
  refine ⟨_, s.inTurn_served _ _ n u _ h hf _ _ hc he ((hn.trans hnear).trans (r.stored_near _ _ _)).waits (s.storeSeen_thr f _), ?_⟩
  have hst := r.stored_grp s.pack.g s.pack.w u s.pack.g
  obtain ⟨h1, h2, h3⟩ := Group.storeVals_storedAs s.pgrp _ (n.scrOff (s.pthr u)) f.w f.n (n.storeVal f (s.pthr u))
    (by rw [hts.scr.1, hts.scr.2, hl]; exact ⟨rfl, rfl⟩) hm hw
  have hs := hst.scr.trans (congrArg Group.scr hgrp)
  have hp := hst.scrP.trans (congrArg Group.scrP hgrp)
  exact ⟨fun k j hk hj => by rw [hs]; exact h1 k j hk hj, fun a ha => by rw [hs]; exact h2 a ha, fun k => by rw [hp]; exact h3 k⟩

/-- A store that waits in its bank queue (log 80). -/
theorem State.doStore_waits (hb : s.waitsBank s.pack.g s.pack.w u (n.scrOff (s.pthr u)) (f.w * f.n) = true) :
    ∃ r, (s.storeSeen f s.pack.g).Served r s.pack.g s.pack.w u Eff.none n.words (s.doStore n f)
      ∧ (r.grp s.pack.g).scr = s.pgrp.scr ∧ (r.grp s.pack.g).scrP = s.pgrp.scrP
      ∧ (r.grp s.pack.g).bank = s.pgrp.bank ++ [⟨s.pkg.nextId, tid s.pack.w u, n.scrOff (s.pthr u), f.w, f.n,
          .store ((List.range f.n).map (n.storeVal f (s.pthr u))) (f.ord == 2), n.flagOf (s.pthr u), s.clock⟩] := by
  have he := hg.store1_eq
  rw [if_pos hb] at he
  obtain ⟨l, hl⟩ := s.storeFrom_grp f s.pack.g s.pack.w u h.2.1.1.1
  have hn := s.storeFrom_near f s.pack.g s.pack.w u
  obtain ⟨hpkg, hclk, hlen⟩ := s.storeFrom_fields f s.pack.g s.pack.w u
  generalize s.storeFrom f s.pack.g s.pack.w u = q at he hl hn hpkg hclk hlen
  have htag := q.storeTagged_of s n f s.pack.g s.pack.w u (by rw [hlen]; exact h.2.1.1.1)
  obtain ⟨htn, htg, htp, htc, htl⟩ := htag
  generalize s.storeTagged n f s.pack.g s.pack.w u q = r at he htn htg htp htc htl
  have hlater := r.later_grp n s.pack.g s.pack.w u (n.scrOff (s.thr s.pack.g s.pack.w u)) f.w f.n
    (.store (s.storeList n f s.pack.g s.pack.w u) (f.ord == 2)) [] (by rw [htl, hlen]; exact h.2.1.1.1)
  have hwait := r.later_waits n s.pack.g s.pack.w u (n.scrOff (s.thr s.pack.g s.pack.w u)) f.w f.n
    (.store (s.storeList n f s.pack.g s.pack.w u) (f.ord == 2)) []
  have hthr := ((hn.trans htn).thr s.pack.g s.pack.w u).awaits.flagOf n
  rw [s.storeSeen_thr] at hthr
  generalize r.later n s.pack.g s.pack.w u _ _ _ _ _ = t at he hlater hwait
  have hst := hlater.trans (t.stored_grp s.pack.g s.pack.w u s.pack.g)
  refine ⟨_, s.inTurn_served _ _ n u _ h hf _ _ hc he (((hn.trans htn).waits.trans hwait).trans (t.stored_near _ _ _).waits)
    (s.storeSeen_thr f _), ?_, ?_, ?_⟩
  · rw [hst.scr]
    exact htg.scr.1.trans (by rw [hl])
  · rw [hst.scrP]
    exact htg.scr.2.trans (by rw [hl])
  · rw [hst.bank, Group.queued, htg.bank, hl, State.bankEntry, hthr, htp, htc, hpkg, hclk]
    rfl

end

/-! ### The statement -/

theorem Ins.formV_al (n : Ins) : n.formV.al = n.formV.w * vecN n.f := rfl

/-- The words of a store lie on words. -/
theorem Ins.form_words (n : Ins) (f : ScrForm) (hf : f = n.formV ∨ f = n.formN) (off : Nat) (hw : f.w = 4) (h : off % f.al = 0) :
    off % 4 = 0 := by
  rcases hf with rfl | rfl
  · rw [Ins.formV_al, hw] at h
    exact Nat.mod_eq_zero_of_dvd (Nat.dvd_trans (Nat.dvd_mul_right 4 _) (Nat.dvd_of_mod_eq_zero h))
  · exact h

/-- A thread whose TSM is not 1, or whose access is ordered or conflicts nowhere, takes no trap of the Touchstone. -/
theorem Group.tsTrap_goes (x : Group) (w u off n o : Nat) (write sub : Bool) (c : TsCls) (f : ScrForm) (hu : u < 32)
    (hc : if f.ord = o then ∃ k, c = acqCls k else c = plainCls sub)
    (h : ((x.wrp w).thr u).tsm ≠ 1 ∨ f.ord = o ∨ x.tsFree (tid w u) off n write sub) : x.tsTrap (tid w u) off n write c = none := by
  by_cases ho : f.ord = o
  · rw [if_pos ho] at hc
    obtain ⟨k, rfl⟩ := hc
    exact x.tsTrap_acq _ _ _ _ _
  · rw [if_neg ho] at hc
    rw [hc]
    refine x.tsTrap_none _ _ _ _ _ (h.imp (fun h => ?_) (fun h => h.resolve_left ho))
    rwa [x.byTid_tid w u hu]

/-- Settles O26: a load or store that nothing holds is performed as it issues, or waits in its bank queue. -/
theorem scratchLoadsAndStores : Obligations.ScratchLoadsAndStores := by
  refine ⟨?_, ?_⟩
  · intro i n s u hi ho h hslow hf hfiles f sg x me off psn same hacq
    have hrun : s.run n = s.doLoad n f sg := by
      rcases ho with ho | ho <;> simp [State.run, ho, f, sg]
    rw [exec_of_insOf i n s hi, hrun]
    have hu : u < 32 := Nat.lt_of_lt_of_le (h.2.1.1.2.2.2.2 u (by simp [h.1])).1 ((s.pgrp.filesWf_spec hfiles).2 s.pack.w)
    refine ⟨fun hp => ?_, fun hp hal hsz hhold hts hhit => ?_⟩
    · obtain ⟨r, hr, hs⟩ := s.doLoad_poisoned (sg := sg) h hf hp hacq
      exact ⟨_, rfl, hs.keeps, ⟨hs.grp.scr.trans hr.scr, hs.grp.scrP.trans hr.scrP⟩, by rw [State.pthr_of_pack hs.pack]; exact hs.moved⟩
    · have haddr : n.scrAddr x = (off, false) := Prod.ext rfl hp
      have hgo : s.LoadGoes n f s.pack.g s.pack.w u := ⟨haddr, (Group.scrOk_iff _ _ _ _).mpr ⟨hal, hsz⟩, hhold, hacq,
        s.pgrp.tsTrap_goes s.pack.w u off (f.w * f.n) 1 false false f.loadCls f hu
          (by unfold ScrForm.loadCls; split <;> [exact ⟨_, rfl⟩; rfl]) hts, hhit⟩
      by_cases hw : f.ord = 1 ∨ s.waitsBank s.pack.g s.pack.w u off (f.w * f.n) = false
      · obtain ⟨r, hr, hs⟩ := s.doLoad_now (sg := sg) h hf hgo hw
        refine ⟨_, rfl, hs.keeps, ⟨hs.grp.scr.trans hr.scr, hs.grp.scrP.trans hr.scrP⟩, fun _ => ?_, fun h1 h2 => ?_⟩
        · rw [State.pthr_of_pack hs.pack]
          exact hs.moved
        · exact absurd hw (by simp [h1, h2])
      · have hw' := not_or.mp hw
        obtain ⟨r, hs, hscr, hscrP, hbank, hpend⟩ := s.doLoad_waits (sg := sg) h hf hgo hw'.1 (Bool.eq_true_of_not_eq_false hw'.2)
        refine ⟨_, rfl, hs.keeps, ⟨hs.grp.scr.trans hscr, hs.grp.scrP.trans hscrP⟩, fun h1 => absurd h1 hw, fun _ _ => ?_⟩
        rw [State.pthr_of_pack hs.pack]
        exact ⟨hs.moved, fun k hk hlt => by rw [hs.pend]; exact hpend k hk hlt, hs.grp.bank.trans hbank⟩
  · intro i n s u hi ho h hslow hf hfiles f x me off val hform hal hsz hxb hhold hrel hts
    have hrun : s.run n = s.doStore n f := by
      rcases ho with ho | ho <;> simp [State.run, ho, f]
    rw [exec_of_insOf i n s hi, hrun]
    obtain ⟨hm, hwarps⟩ := s.pgrp.filesWf_spec hfiles
    have hu : u < 32 := Nat.lt_of_lt_of_le (h.2.1.1.2.2.2.2 u (by simp [h.1])).1 (hwarps s.pack.w)
    have hc : chkStore n f s s.pack.g s.pack.w u = none :=
      chkStore_none s n f _ _ _ ((Group.scrOk_iff _ _ _ _).mpr ⟨hal, hsz⟩) hxb
    have hgo : s.StoreGoes n f s.pack.g s.pack.w u := ⟨hhold, hrel,
      s.pgrp.tsTrap_goes s.pack.w u off (f.w * f.n) 2 true (decide (f.w < 4)) f.storeCls f hu
        (by unfold ScrForm.storeCls; split <;> [exact ⟨0, rfl⟩; rfl]) hts⟩
    by_cases hw : s.waitsBank s.pack.g s.pack.w u off (f.w * f.n) = true
    · obtain ⟨r, hs, hscr, hscrP, hbank⟩ := s.doStore_waits h hf hc hgo hw
      exact ⟨_, rfl, hs.seen_moved, hs.keeps, fun h1 => absurd (hw.symm.trans h1) (by decide), fun _ =>
        ⟨hs.grp.scr.trans hscr, hs.grp.scrP.trans hscrP, hs.grp.bank.trans hbank⟩⟩
    · have hw : s.waitsBank s.pack.g s.pack.w u off (f.w * f.n) = false := by simpa using hw
      have hfits : f.n = 1 ∨ (f.w = 4 ∧ off % 4 = 0) := hform.imp_right (fun h4 =>
        ⟨h4, n.form_words f (by rcases ho with ho | ho <;> simp [f, ho]) off h4 hal⟩)
      obtain ⟨r, hs, hstored⟩ := s.doStore_now h hf hc hgo hm hfits hw
      refine ⟨_, rfl, hs.seen_moved, hs.keeps, fun _ => ?_, fun h1 => absurd (hw.symm.trans h1) (by decide)⟩
      obtain ⟨h1, h2, h3⟩ := hstored
      rw [hs.grp.scr, hs.grp.scrP]
      exact ⟨h1, h2, h3⟩

end Sys2Proof.Machine
end

section
/-! ## Full saves and core errors (O44) -/
namespace Sys2Proof.Machine

/-! ### Workgroups whose threads keep their files (R209) -/

theorem Thread.sameFiles.refl (x : Thread) : x.sameFiles x := ⟨rfl, rfl, rfl, rfl, rfl, rfl, rfl⟩

/-- The threads of `y` have the files of the threads of `x`. -/
abbrev Group.Files (x y : Group) : Prop := x.Threads (fun p q => q.sameFiles p) y

theorem Group.Files.refl (x : Group) : x.Files x := fun _ _ => .refl _
theorem Group.Files.trans {x y z : Group} (h : x.Files y) (k : y.Files z) : x.Files z :=
  Group.Threads.trans (fun h k => Thread.sameFiles.trans k h) h k

/-- The warps of a workgroup keep their files where each warp's threads are changed by a function that keeps them. -/
theorem Group.files_of_threads {x y : Group} (f : Thread → Thread) (hf : ∀ t, (f t).sameFiles t)
    (h : y.warps.map Warp.threads = x.warps.map (fun w => w.threads.map f)) : x.Files y := by
  intro w u
  have ht : (y.wrp w).threads = (x.wrp w).threads.map f := by
    have hw := congrArg (fun l : List (List Thread) => l.getD w []) h
    simp only [List.getD_eq_getElem?_getD, List.getElem?_map] at hw
    unfold Group.wrp
    rw [List.getD_eq_getElem?_getD, List.getD_eq_getElem?_getD]
    cases hy : y.warps[w]? with
    | none =>
      have hx : x.warps[w]? = none := by
        rw [List.getElem?_eq_none_iff] at hy ⊢
        have hl := congrArg List.length h
        simp only [List.length_map] at hl
        omega
      rw [hx]
      rfl
    | some a =>
      have hx : w < x.warps.length := by
        have hl := congrArg List.length h
        have := (List.getElem?_eq_some_iff.mp hy).1
        simp only [List.length_map] at hl
        omega
      simpa [hy, hx] using hw
  rw [Warp.thr, ht]
  exact getD_map_rel (fun p q : Thread => q.sameFiles p) (x.wrp w).threads f Thread.absent u hf (.refl _)

/-- A workgroup replaced by one with the same files keeps every file of the state. -/
theorem State.files_of_grp {s t : State} {g : Nat} (h : (s.grp g).Files (t.grp g)) (hg : ∀ k, k ≠ g → t.grp k = s.grp k)
    (a b u : Nat) : (t.thr a b u).sameFiles (s.thr a b u) := by
  by_cases ha : a = g
  · subst ha; exact h b u
  · unfold State.thr State.wrp
    rw [hg a ha]
    exact .refl _

theorem State.keepsElse_of_grp {s t : State} {g : Nat} (hm : t.mem = s.mem) (h : (s.grp g).Files (t.grp g))
    (hg : ∀ k, k ≠ g → t.grp k = s.grp k) : s.keepsElse t g 0 [] :=
  ⟨hm, fun a b u _ => State.files_of_grp h hg a b u⟩

/-- A workgroup that exists. -/
theorem State.lt_of_alive (s : State) (g : Nat) (h : (s.grp g).alive = true) : g < s.groups.length := by
  by_contra hl
  rw [State.grp, List.getD_eq_default _ _ (Nat.le_of_not_lt hl)] at h
  cases h

/-! ### Saving (R207, R208, R209, R210) -/

theorem State.requestSave_of (s : State) (g : Nat) (ha : (s.grp g).alive = true) (hs : (s.grp g).save = .running) :
    s.requestSave g = s.modG g (fun z => { z with
      save := .pending, saveAt := s.clock + (s.core (s.grp g).die (s.grp g).core).skew, forced := false }) := by
  simp only [State.requestSave, ha, hs, beq_self_eq_true, Bool.and_self, if_true, State.modG]
  rw [modAt_congr s.groups g _ _ Group.void]
  rfl

theorem State.saved_mem (s : State) (g : Nat) : (s.saved g).mem = (s.drainDie (s.grp g).die).mem := by
  unfold State.saved
  dsimp only
  rw [State.modG_mem, State.forget_mem]

/-- A workgroup whose state has been written, with the images and the pending loads that it takes along (R210). -/
def Group.savedWith (x : Group) (imgs : FMap ActBank) (own : List AtldPend) : Group :=
  { x with save := .saved, foldSave := false, warps := x.warps.map Warp.emptyReach, bankImgs := imgs, atlds := own }

theorem State.saved_groups (s : State) (g : Nat) : (s.saved g).groups = (s.modG g (fun x => x.savedWith (s.bankImages g)
    ((s.core (s.grp g).die (s.grp g).core).atlds.filter (fun a => a.grp == g)))).groups := by
  have h : (s.saved g).groups = (((s.drainDie (s.grp g).die).forget g).modG g (fun x => x.savedWith (s.bankImages g)
    ((s.core (s.grp g).die (s.grp g).core).atlds.filter (fun a => a.grp == g)))).groups := rfl
  rw [h, State.modG_groups', State.forget_groups, (s.drainDie_memOnly _).groups, State.modG_groups']

/-- A reach buffer without a bad copy is left without a change to the registers (R202). -/
theorem Warp.emptyReach_threads (y : Warp) (h : y.spillBad = []) : y.emptyReach.threads = y.threads := by
  cases hr : y.reachMod <;> simp [Warp.emptyReach, h, hr]

/-- What a workgroup is once it is saved (R210). -/
theorem State.saved_grp (s : State) (g : Nat) (hg : g < s.groups.length) : ((s.saved g).grp g).save = .saved
    ∧ ((s.saved g).grp g).scr = (s.grp g).scr ∧ ((s.saved g).grp g).warps = (s.grp g).warps.map Warp.emptyReach := by
  unfold State.grp
  rw [s.saved_groups g, State.modG_groups', modAt_getD_same _ _ _ _ hg]
  exact ⟨rfl, rfl, rfl⟩

theorem State.saved_grp_other (s : State) (g k : Nat) (h : k ≠ g) : (s.saved g).grp k = s.grp k := by
  unfold State.grp
  rw [s.saved_groups g, State.modG_groups', modAt_getD_other _ _ _ _ _ h]

theorem State.saved_files (s : State) (g : Nat) (hg : g < s.groups.length) (hb : ∀ y ∈ (s.grp g).warps, y.spillBad = []) :
    (s.grp g).Files ((s.saved g).grp g) := by
  refine Group.files_of_threads id (fun _ => .refl _) ?_
  rw [(s.saved_grp g hg).2.2, List.map_map]
  exact List.map_congr_left (fun y hy => by simp [Warp.emptyReach_threads y (hb y hy)])

/-! ### Resuming (R209, R272) -/

theorem Thread.resumed_sameFiles (t : Thread) : t.resumed.sameFiles t := by
  unfold Thread.resumed
  dsimp only
  split <;> exact .refl _

theorem noticeThread_sameFiles (v : Word) (t : Thread) : (noticeThread v t).sameFiles t := by
  unfold noticeThread
  split <;> exact .refl _

/-- Placement gives each warp a place and keeps its threads (R272). -/
theorem State.placeWarps_some (s : State) (d c : Nat) (x z : Group) (ws : List Warp) (h : s.placeWarps d c x ws = some z) :
    x.WarpsOnly z ∧ z.warps.map Warp.threads = x.warps.map Warp.threads ++ ws.map Warp.threads := by
  induction ws generalizing x with
  | nil =>
    cases h
    exact ⟨⟨_, rfl⟩, by simp⟩
  | cons w ws ih =>
    unfold State.placeWarps at h
    split at h
    · cases h
    · obtain ⟨⟨l, rfl⟩, ht⟩ := ih _ h
      exact ⟨⟨_, rfl⟩, by simpa using ht⟩

/-- A workgroup that fits a core stands there, running, with the threads that it brought (R272). -/
theorem State.fit_some (s : State) (d c : Nat) (units : List Nat) (x z : Group) (ws : List Warp)
    (h : s.fit d c units x ws = some z) : z.scr = x.scr ∧ z.save = .running ∧ z.die = d ∧ z.core = c
      ∧ z.warps.map Warp.threads = ws.map Warp.threads := by
  unfold State.fit at h
  dsimp only at h
  split at h
  · cases h
  · split at h
    · cases h
    · next hp =>
      split at h
      · cases h
        obtain ⟨⟨l, rfl⟩, ht⟩ := s.placeWarps_some d c _ _ ws hp
        exact ⟨rfl, rfl, rfl, rfl, by simpa using ht⟩
      · cases h

/-- A change of what a warp holds raises a notice at most (R171). -/
theorem Group.newResl_keeps (x : Group) (w : Nat) : x.WarpsOnly (x.newResl w) ∧ x.Files (x.newResl w) := by
  unfold Group.newResl
  dsimp only
  split
  · exact ⟨⟨_, rfl⟩, .refl x⟩
  · refine ⟨⟨_, rfl⟩, fun a u => ?_⟩
    refine modAt_getD_rel (fun y z : Warp => (z.thr u).sameFiles (y.thr u)) (fun _ => .refl _) x.warps w _ Warp.void a ?_
    exact getD_map_rel (fun p q : Thread => q.sameFiles p) _ _ Thread.absent u (noticeThread_sameFiles _) (.refl _)

theorem Group.newResls_keep (x : Group) (l : List Nat) : x.WarpsOnly (l.foldl Group.newResl x) ∧ x.Files (l.foldl Group.newResl x) :=
  foldl_rel (fun x y : Group => x.WarpsOnly y ∧ x.Files y) (fun x => ⟨⟨x.warps, rfl⟩, .refl x⟩)
    (fun h k => ⟨Group.WarpsOnly.trans h.1 k.1, Group.Files.trans h.2 k.2⟩) _ Group.newResl_keeps l x

/-- A saved workgroup as it asks for a place: nothing of it is spilled or taken from a pool (R209). -/
def Group.returning (x : Group) : Group :=
  { x with
    spilledU := []
    refillU := []
    foldU := []
    pools := x.pools.map (fun p => (p.1, (⟨p.2.n, 0⟩ : Pool)))
    forced := false }

/-- A workgroup that resumes in its place, with the scale memory that it had and nothing left to bring back (R248). -/
def Group.landed (z x : Group) : Group := { z.moveScales x.warps with bankImgs := [], atlds := [] }
/-- It as it stands there, its warps told of what they hold now (R171). -/
def Group.backIn (z x : Group) : Group := (List.range z.warps.length).foldl Group.newResl (z.landed x)

theorem Group.landed_fields (z x : Group) : (z.landed x).warps = z.warps ∧ (z.landed x).scr = z.scr ∧ (z.landed x).save = z.save
    ∧ (z.landed x).die = z.die ∧ (z.landed x).core = z.core := ⟨rfl, rfl, rfl, rfl, rfl⟩

theorem Group.WarpsOnly.place {x y : Group} (h : x.WarpsOnly y) : y.scr = x.scr ∧ y.save = x.save ∧ y.die = x.die ∧ y.core = x.core := by
  obtain ⟨_, rfl⟩ := h
  exact ⟨rfl, rfl, rfl, rfl⟩

/-- A bank that a resuming workgroup brings changes its core alone (R152). -/
theorem State.resumeBank_diesOnly (s t : State) (v d c k : Nat) (img : ActBank) (h : s.resumeBank v d c k img = some t) :
    s.DiesOnly t := by
  unfold State.resumeBank at h
  dsimp only at h
  split at h
  · cases h; exact .refl s
  · split at h
    · cases h
    · cases h; exact (State.DiesOnly.refl s).modD _ _

theorem State.resumeBanks_diesOnly (s t : State) (g d c : Nat) (h : s.resumeBanks g d c = some t) : s.DiesOnly t := by
  unfold State.resumeBanks at h
  dsimp only at h
  split at h
  · cases h; exact .refl s
  · refine foldl_keeps (fun r : Option State => ∀ t, r = some t → s.DiesOnly t) _ (fun r k hr t ht => ?_) _ _
      (fun t ht => by cases ht; exact .refl s) t h
    cases r with
    | none => cases ht
    | some q => exact (hr q rfl).trans (q.resumeBank_diesOnly _ _ _ _ _ _ ht)

theorem State.resumeLoads_diesOnly (s t : State) (g d c : Nat) (h : s.resumeLoads g d c = some t) : s.DiesOnly t := by
  unfold State.resumeLoads at h
  dsimp only at h
  split at h
  · cases h
  · cases h; exact (State.DiesOnly.refl s).modD _ _

/-- The body of a resume that finds what it needs (R209). -/
theorem State.resume_of (s q : State) (g d c : Nat) (units : List Nat) (z : Group) (ha : (s.grp g).alive = true)
    (hs : (s.grp g).save = .saved)
    (hz : s.fit d c units (s.grp g).returning ((s.grp g).warps.map (fun w => w.resumed s.clock)) = some z)
    (hn : s.holderNeeds z = false) (hq : (s.resumeBanks g d c).bind (fun r => r.resumeLoads g d c) = some q) :
    s.resume g d c units
      = some ((q.modG g (fun _ => z.backIn (s.grp g))).clearBanks (s.grp g).vdev (s.grp g).die (s.grp g).core) := by
  have hc : (!(s.grp g).alive || (s.grp g).save != .saved) = false := by simp [ha, hs]
  unfold Group.returning at hz
  unfold State.resume
  simp only [hc, hz, hn, hq, Bool.false_eq_true, if_false]
  rfl

/-- A saved workgroup that a core can take resumes there (R209): what it is then, and that nothing else of the workgroups or of
memory changes. -/
theorem State.resume_some (s : State) (g d c : Nat) (units : List Nat) (h : s.canResume g d c units) :
    ∃ t y, s.resume g d c units = some t ∧ t.mem = s.mem ∧ t.groups = (s.modG g (fun _ => y)).groups ∧ (s.grp g).Files y
      ∧ y.scr = (s.grp g).scr ∧ y.save = .running ∧ y.die = d ∧ y.core = c := by
  obtain ⟨ha, hs, ⟨z, hz, hn⟩, hb⟩ := h
  obtain ⟨q, hq⟩ := Option.isSome_iff_exists.mp hb
  have hd : s.DiesOnly q := by
    obtain ⟨p, hp, hpq⟩ := Option.bind_eq_some_iff.mp hq
    exact (s.resumeBanks_diesOnly p g d c hp).trans (p.resumeLoads_diesOnly q g d c hpq)
  obtain ⟨hscr, hsave, hdie, hcore, hthr⟩ := s.fit_some d c units _ _ _ hz
  obtain ⟨lw, ls, lv, ld, lc⟩ := z.landed_fields (s.grp g)
  obtain ⟨hy, hf⟩ := Group.newResls_keep (z.landed (s.grp g)) (List.range z.warps.length)
  obtain ⟨yscr, ysave, ydie, ycore⟩ := hy.place
  refine ⟨_, z.backIn (s.grp g), s.resume_of q g d c units z ha hs hz hn hq, ?_, ?_, Group.Files.trans ?_ hf,
    yscr.trans (ls.trans hscr), ysave.trans (lv.trans hsave), ydie.trans (ld.trans hdie), ycore.trans (lc.trans hcore)⟩
  · rw [State.clearBanks_mem, State.modG_mem, hd.mem]
  · rw [State.clearBanks_groups, State.modG_groups', hd.groups, State.modG_groups']
  · refine Group.files_of_threads Thread.resumed Thread.resumed_sameFiles ?_
    rw [lw, hthr, List.map_map]
    rfl

/-! ### What a region fault keeps (R36, R212)

A region fault may write memory for the run that it aborts, and may end other workgroups. No workgroup comes back by it, none
changes its region or its state of saving, and no core is mended. -/

/-- From `x` to `y` a workgroup that has ended stays ended, and its region and its state of saving stay. -/
def Group.Fades (x y : Group) : Prop := (x.alive = false → y.alive = false) ∧ y.region = x.region ∧ y.save = x.save

theorem Group.Fades.refl (x : Group) : x.Fades x := ⟨id, rfl, rfl⟩
theorem Group.Fades.trans {x y z : Group} (h : x.Fades y) (k : y.Fades z) : x.Fades z :=
  ⟨k.1 ∘ h.1, k.2.1.trans h.2.1, k.2.2.trans h.2.2⟩

theorem Group.exitT_fades (x : Group) (w u : Nat) : x.Fades (x.exitT w u) := by
  obtain ⟨_, _, _, _, _, h⟩ := Group.completeBars_fields ((x.modT w u Thread.exit).poolWarp w)
  have hp : x.Fades ((x.modT w u Thread.exit).poolWarp w) := by
    unfold Group.poolWarp
    dsimp only
    split <;> exact .refl x
  rw [Group.exitT, h]
  exact hp

/-- From `s0` to `s` every workgroup fades, and no core is mended. -/
structure State.Fades (s0 s : State) : Prop where
  length : s.groups.length = s0.groups.length
  grp : ∀ g, (s0.grp g).Fades (s.grp g)
  core : ∀ d c, (s0.core d c).failed = true → (s.core d c).failed = true

/-- A value other than the default stays where another key is written, whatever the form of the map. -/
theorem FMap.get_set_stays {α : Type} [DecidableEq α] (d : α) (m : FMap α) (k j : Nat) (v : α) (hj : j ≠ k)
    (h : FMap.get d m j ≠ d) : FMap.get d (FMap.set d m k v) j = FMap.get d m j := by
  by_cases hv : v = d
  · subst hv
    induction m with
    | nil => simp [FMap.set]
    | cons e m ih =>
      obtain ⟨k', v'⟩ := e
      by_cases hk : k = k'
      · subst hk
        by_cases hl : j < k
        · simp [FMap.get, hj, hl] at h
        · simp [FMap.set, FMap.get, hj, hl]
      · by_cases hl : k < k'
        · simp [FMap.set, hk, hl]
        · simp only [FMap.set, hk, hl, if_false, FMap.get] at h ⊢
          split
          · rfl
          · split
            · rfl
            · next h1 h2 => exact ih (by simpa [h1, h2] using h)
  · exact FMap.get_set_ne d m k j v hv hj

section
variable {s0 s : State} {d v va pa n g w u c k : Nat} {b mask : Byte} {p : Psn}

theorem State.Fades.refl (s : State) : s.Fades s := ⟨rfl, fun _ => .refl _, fun _ _ => id⟩
theorem State.Fades.trans {r : State} (h : s0.Fades s) (k : s.Fades r) : s0.Fades r :=
  ⟨k.length.trans h.length, fun g => (h.grp g).trans (k.grp g), fun d c => k.core d c ∘ h.core d c⟩

section
variable {clock : Nat} {mem : FMap Byte} {poison : List Nat} {vdevs : List VDev} {regions : List Region}
  {launches : List Launch} {queues : List HwQueue} {spinners : List Spinner} {tasks : List Task} {calls : List Call}
  {images : List Image} {ckpts : List Ckpt} {pkg : Package} {fab : Fabric} {inputs : List Input} {agenda : List Instr}
  {turn late : List Nat} {pack : Pack}

/-- A step that leaves the workgroups and the dies as they are. -/
theorem State.Fades.same (h : s0.Fades s) :
    s0.Fades ⟨clock, mem, poison, s.dies, s.groups, vdevs, regions, launches, queues, spinners, tasks, calls, images, ckpts,
      pkg, fab, inputs, agenda, turn, late, pack⟩ := ⟨h.length, h.grp, h.core⟩
end

theorem State.Fades.ite {x y : State} {q : Prop} [Decidable q] (hx : s0.Fades x) (hy : s0.Fades y) :
    s0.Fades (if q then x else y) := by split <;> assumption

theorem State.Fades.foldl {α : Type} {l : List α} {f : State → α → State} (h : s0.Fades s)
    (hf : ∀ {r a}, s0.Fades r → s0.Fades (f r a)) : s0.Fades (l.foldl f s) :=
  foldl_keeps (State.Fades s0) f (fun _ _ => hf) l s h

theorem State.Fades.modG {f : Group → Group} (h : s0.Fades s) (hf : ∀ x : Group, x.Fades (f x) := by exact fun _ => ⟨fun h => h, rfl, rfl⟩) : s0.Fades (s.modG g f) :=
  h.trans ⟨by simp [State.modG_groups'],
    fun k => modAt_getD_rel Group.Fades .refl s.groups g f Group.void k (hf _), fun _ _ => id⟩

/-- A change of a die that leaves no core of it less failed. -/
theorem State.Fades.modD_of {f : Die → Die} (h : s0.Fades s) (hf : ∀ (x : Die) (c : Nat),
    (FMap.get Core.default x.cores c).failed = true → (FMap.get Core.default (f x).cores c).failed = true) :
    s0.Fades (s.modD d f) :=
  h.trans ⟨rfl, fun _ => .refl _, fun k c => modAt_getD_rel (fun x y : Die =>
    (FMap.get Core.default x.cores c).failed = true → (FMap.get Core.default y.cores c).failed = true) (fun _ => id) s.dies d f
    Die.zero k (hf _ c)⟩

theorem State.Fades.modD {f : Die → Die} (h : s0.Fades s) (hf : ∀ x : Die, (f x).cores = x.cores := by intros; rfl) : s0.Fades (s.modD d f) :=
  h.modD_of (fun x c hx => by rw [hf]; exact hx)

theorem Core.failed_ne {x : Core} (h : x.failed = true) : x ≠ Core.default := by
  rintro rfl
  cases h

theorem State.Fades.modC {f : Core → Core} (h : s0.Fades s) (hf : ∀ x : Core, (f x).failed = x.failed := by intros; rfl) : s0.Fades (s.modC d c f) :=
  h.modD_of (fun x k hx => by
    by_cases hk : k = c
    · subst hk
      have hx' := (hf _).trans hx
      dsimp only
      rw [FMap.get_set_self _ _ _ _ (Core.failed_ne hx')]
      exact hx'
    · dsimp only
      rw [FMap.get_set_stays _ _ _ _ _ hk (Core.failed_ne hx)]
      exact hx)

/-- Every die changed, none in its cores. -/
theorem State.Fades.mapDies {f : Die → Die} (h : s0.Fades s) (hf : ∀ x : Die, (f x).cores = x.cores := by intros; rfl) :
    s0.Fades { s with dies := s.dies.map f } :=
  h.trans ⟨rfl, fun _ => .refl _, fun d c => getD_map_rel (fun x y : Die =>
    (FMap.get Core.default x.cores c).failed = true → (FMap.get Core.default y.cores c).failed = true) s.dies f Die.zero d
    (fun x hx => by rw [hf]; exact hx) id⟩

/-! Writes of memory. -/

theorem State.Fades.zeroP (h : s0.Fades s) : s0.Fades (s.zeroP v n) := by
  induction n generalizing s v with
  | zero => exact h
  | succ n ih => exact ih (h.same)

theorem State.Fades.claimLine (h : s0.Fades s) : s0.Fades (s.claimLine v pa) := by
  refine .ite h ?_
  split
  · exact h
  · exact ((h.zeroP.same).same).modD

theorem State.Fades.markPsn (h : s0.Fades s) : s0.Fades (s.markPsn pa p) := by
  cases p
  · exact h
  · exact h.same
  · exact h.same

theorem State.Fades.writePa (h : s0.Fades s) : s0.Fades (s.writePa v pa b mask p) :=
  State.Fades.markPsn (s := (s.claimLine v pa).setPbyte pa _) h.claimLine.same

theorem State.Fades.drainPath (h : s0.Fades s) : s0.Fades (s.drainPath d k) := by
  unfold State.drainPath
  split
  · exact h
  · exact State.Fades.foldl h.modD (fun h => h.writePa)

theorem State.Fades.drainDie (h : s0.Fades s) : s0.Fades (s.drainDie d) := h.foldl (fun h => h.drainPath)

theorem State.Fades.homeWrite {late : Bool} (h : s0.Fades s) : s0.Fades (s.homeWrite d v pa b mask p late) :=
  .ite (h.modD) h.drainPath.writePa

theorem State.Fades.setPeerByte {x : Peer} (h : s0.Fades s) : s0.Fades (s.setPeerByte x n b p) :=
  .ite (h.same) (h.same)

theorem State.Fades.writeB {m : Need} {late : Bool} (h : s0.Fades s) :
    OnOk (State.Fades s0) (s.writeB d v va b mask p m late) := by
  unfold State.writeB
  cases s.locate d v va m with
  | error k => exact .error trivial
  | ok x =>
    cases x with
    | here pa =>
      dsimp only [bind, Except.bind]
      split
      · exact .ok h.homeWrite
      · exact .ok (h.foldl (fun h => h.writePa))
    | peer part pos =>
      dsimp only [bind, Except.bind]
      split
      · exact .ok h.setPeerByte
      · exact .error trivial

theorem State.Fades.writeN {q : Bool} {l : List Byte} (h : s0.Fades s) : OnOk (State.Fades s0) (s.writeN d v va q l) := by
  induction l generalizing s va with
  | nil => exact .ok h
  | cons b l ih =>
    unfold State.writeN
    split
    · exact .error trivial
    · next hb => exact ih (h.writeB.getOk hb)

theorem State.Fades.clearPsn (h : s0.Fades s) : s0.Fades (s.clearPsn d v va n) := by
  refine .ite h (h.foldl (fun h => h.foldl (fun h => ?_)))
  split
  · exact h.same
  · exact h

theorem State.Fades.vput {l : List Byte} (h : s0.Fades s) : s0.Fades (s.vput v va l) := by
  unfold State.vput State.writeClean
  cases hw : s.writeN 4 v va false l with
  | error e => exact h
  | ok r => exact (h.writeN.getOk hw).clearPsn

/-! Ends of workgroups and of runs. -/

theorem State.Fades.released (h : s0.Fades s) : s0.Fades (s.released g n) :=
  .ite h (State.Fades.mapDies (.ite h h.drainDie))

theorem State.Fades.clearBanks (h : s0.Fades s) : s0.Fades (s.clearBanks v d c) := .ite h h.modC

theorem State.Fades.release (h : s0.Fades s) : s0.Fades (s.release g) :=
  .clearBanks (.mapDies (h.modG (hf := fun _ => ⟨fun _ => rfl, rfl, rfl⟩)))

theorem State.Fades.settle (h : s0.Fades s) : s0.Fades (s.settle g) := by
  refine .ite ?_ h
  split
  · exact h.released.release.same
  · exact h.released.release

theorem State.Fades.exitT (h : s0.Fades s) : s0.Fades (s.exitT g w u) := (h.modG (hf := fun x => x.exitT_fades w u)).settle

theorem State.Fades.releasedFor (h : s0.Fades s) (o : Option Nat) :
    s0.Fades (match o with | some g => s.released g 4 | none => s) := by
  cases o with
  | none => exact h
  | some g => exact h.released

theorem State.Fades.abortSpinner (h : s0.Fades s) : s0.Fades (s.abortSpinner n v) := by
  unfold State.abortSpinner
  split
  · exact h
  · refine .ite h ?_
    dsimp only
    split
    · exact (State.Fades.releasedFor (State.Fades.foldl h.same (fun h => h.vput)).vput _).vput
    · exact State.Fades.foldl (State.Fades.releasedFor (State.Fades.foldl h.same (fun h => h.vput)).vput _).vput (fun h => h.exitT)

theorem State.Fades.struck (h : s0.Fades s) : s0.Fades (s.struck g) := by
  have hf : s0.Fades ((s.modG g Group.kill).forget g) := by
    unfold State.forget
    exact State.Fades.modC (State.Fades.same (h.modG (f := Group.kill)))
  exact hf.release

end

/-- A region fault of a workgroup that is alive, by the kind of the workgroup (R36). -/
theorem State.regionFault_alive (s : State) (g c : Nat) (v : DWord) (ha : (s.grp g).alive = true) :
    (s.struck g).Fades (s.regionFault g c v) := by
  have hr : (s.struck g).Fades ((s.struck g).report (.region (s.grp g).region c v)) := (State.Fades.refl _).same
  simp only [State.regionFault, ha, Bool.not_true, Bool.false_eq_true, if_false]
  split
  · exact State.Fades.same (State.Fades.same hr)
  · exact hr
  · exact State.Fades.abortSpinner hr

theorem State.Fades.regionFault {s0 s : State} {g c : Nat} {v : DWord} (h : s0.Fades s) : s0.Fades (s.regionFault g c v) := by
  cases ha : (s.grp g).alive with
  | false => simpa [State.regionFault, ha] using h
  | true => exact h.struck.trans (s.regionFault_alive g c v ha)

/-- A region fault ends its workgroup, whatever the workgroup runs (R36). -/
theorem State.regionFault_ends (s : State) (g c : Nat) (v : DWord) : ((s.regionFault g c v).grp g).alive = false := by
  cases ha : (s.grp g).alive with
  | false => simp [State.regionFault, ha]
  | true =>
    refine ((s.regionFault_alive g c v ha).grp g).1 ?_
    rw [State.grp, s.struck_groups, State.modG_groups', modAt_getD_same _ _ _ _ (s.lt_of_alive g ha)]
    rfl

theorem State.Fades.faultRegion {s0 s : State} {r : Nat} {all : Bool} (h : s0.Fades s) : s0.Fades (s.faultRegion r all) :=
  .foldl (.foldl (.ite (h.same) (h.foldl (fun h => h.regionFault))) (fun h => h.same))
    (fun h => .ite h.abortSpinner h)

/-- Region faults of the workgroups of a list end each of them. -/
theorem State.foldl_regionFault_ends (l : List Nat) (s : State) (g : Nat) (hg : g ∈ l) :
    ((l.foldl (fun s g => s.regionFault g 0 0) s).grp g).alive = false := by
  induction l generalizing s with
  | nil => cases hg
  | cons a l ih =>
    rcases List.mem_cons.mp hg with rfl | hg
    · exact ((State.Fades.foldl (State.Fades.refl _) (fun h => h.regionFault) :
        (s.regionFault g 0 0).Fades (l.foldl (fun s g => s.regionFault g 0 0) (s.regionFault g 0 0))).grp g).1
        (s.regionFault_ends g 0 0)
    · exact ih _ hg

/-- The workgroups that a fault of a region strikes. -/
def State.standing (s : State) (r : Nat) (all : Bool) : List Nat := (List.range s.groups.length).filter (fun g =>
  (s.grp g).alive && (s.grp g).region == r && (all || (s.grp g).save != .saved))

theorem State.mem_standing (s : State) (r : Nat) (all : Bool) (g : Nat) (ha : (s.grp g).alive = true)
    (hr : (s.grp g).region = r) (hs : (s.grp g).save ≠ .saved) : g ∈ s.standing r all := by
  simp [State.standing, s.lt_of_alive g ha, ha, hr, hs]

/-- A fault of a region strikes its workgroups, and what it does besides only fades. -/
theorem State.faultRegion_strikes (s : State) (r : Nat) (all : Bool) (h : s.standing r all ≠ []) :
    ((s.standing r all).foldl (fun s g => s.regionFault g 0 0) s).Fades (s.faultRegion r all) := by
  have he : (s.standing r all).isEmpty = false := by simpa [List.isEmpty_iff] using h
  unfold State.standing at he
  simp only [State.faultRegion, State.standing, he, Bool.false_eq_true, if_false]
  exact .foldl (.foldl (.refl _) (fun h => h.same)) (fun h => .ite h.abortSpinner h)

/-- A fault of a region ends every workgroup of it that is not Saved (R212). -/
theorem State.faultRegion_ends (s : State) (r : Nat) (all : Bool) (g : Nat) (hr : (s.grp g).region = r)
    (hs : (s.grp g).save ≠ .saved) : ((s.faultRegion r all).grp g).alive = false := by
  cases ha : (s.grp g).alive with
  | false => exact ((State.Fades.refl s).faultRegion.grp g).1 ha
  | true =>
    have hg := s.mem_standing r all g ha hr hs
    exact ((s.faultRegion_strikes r all (List.ne_nil_of_mem hg)).grp g).1 (State.foldl_regionFault_ends _ s g hg)

/-- Faults of the regions of a list end every workgroup in one of them that is not Saved. -/
theorem State.foldl_faultRegion_ends (l : List Nat) (s : State) (g : Nat) (hr : (s.grp g).region ∈ l)
    (hs : (s.grp g).save ≠ .saved) : ((l.foldl (fun s r => s.faultRegion r false) s).grp g).alive = false := by
  induction l generalizing s with
  | nil => cases hr
  | cons a l ih =>
    obtain ⟨_, hreg, hsave⟩ := ((State.Fades.refl s).faultRegion (r := a) (all := false)).grp g
    rcases List.mem_cons.mp hr with hr | hr
    · exact ((State.Fades.foldl (State.Fades.refl _) (fun h => h.faultRegion) : (s.faultRegion a false).Fades
        (l.foldl (fun s r => s.faultRegion r false) (s.faultRegion a false))).grp g).1 (s.faultRegion_ends a false g hr hs)
    · exact ih _ (by rw [hreg]; exact hr) (by rw [hsave]; exact hs)

/-! ### Errors of a core (R211, R212, R377) -/

theorem Package.needs_reports (p : Package) (d u : Nat) : (p.needs d u).reports = p.reports := by
  unfold Package.needs
  split
  · rfl
  · split <;> rfl

/-- The wear monitor reports a unit once, at its first count beyond the limit (R377). -/
theorem Package.worn_reports (p : Package) (d u n : Nat) :
    (p.worn d u n).reports = p.reports ++ (if n = 16 * Config.wearBase d u + 1 then [Report.ageing d u] else []) := by
  unfold Package.worn
  dsimp only
  split
  · next h => rw [if_neg (by omega), List.append_nil]
  · exact Package.needs_reports _ _ _

/-- Counting an error touches the dies and the part alone. -/
theorem State.countErr_fields (s : State) (d u : Nat) (unc : Bool) :
    (s.countErr d u unc).groups = s.groups ∧ (s.countErr d u unc).mem = s.mem ∧ (s.countErr d u unc).poison = s.poison := by
  cases unc <;> exact ⟨rfl, rfl, rfl⟩

theorem State.countErr_corrected (s : State) (d u : Nat) (hd : d < s.dies.length) :
    ((s.countErr d u false).die d).corrected = (s.die d).corrected + 1
    ∧ ((s.countErr d u false).die d).uncorrected = (s.die d).uncorrected
    ∧ (s.countErr d u false).pkg.reports = s.pkg.reports ++ [.corrected d u]
        ++ (if FMap.get 0 (s.die d).wear u + 1 = 16 * Config.wearBase d u + 1 then [Report.ageing d u] else []) := by
  have hdie : (s.countErr d u false).die d = { s.die d with
      corrected := (s.die d).corrected + 1
      wear := FMap.set 0 (s.die d).wear u (FMap.get 0 (s.die d).wear u + 1) } := modAt_getD_same _ _ _ _ hd
  refine ⟨by rw [hdie], by rw [hdie], ?_⟩
  exact Package.worn_reports _ _ _ _

/-- An error in a workgroup that stands on the core has its effect there, uncorrectable or not. -/
theorem execSoftError_here (e : SoftErr) (d c g : Nat) (unc : Bool) (s : State) (he : e.grp = some g) (hd : d < 4)
    (hh : (s.grp g).holds = true) (hdie : (s.grp g).die = d) (hcore : (s.grp g).core = c) :
    execSoftError e d c unc s
      = .next (if unc then (s.countErr d c unc).softEffect e else s.countErr d c unc) := by
  simp [execSoftError, he, hh, hdie, hcore, hd]

theorem Thread.spoil_reg (t : Thread) (r : Nat) (hr : r < 255) : (t.spoil r).reg r = ⟨(t.reg r).v, true⟩ := by
  have hne : (⟨(t.reg r).v, true⟩ : Val) ≠ Val.zero := fun h => by cases congrArg Val.p h
  simp only [Thread.spoil, Thread.setReg, hr, if_true]
  rw [Thread.reg, if_pos hr]
  exact FMap.get_set_self _ _ _ _ hne

theorem Thread.spoil_p (t : Thread) (r : Nat) : (t.spoil r).p = t.p := by
  unfold Thread.spoil Thread.setReg
  split <;> rfl

theorem Thread.setPred_pred (t : Thread) (k : Nat) (b : Bool) (hk : k < 7) : (t.setPred k ⟨b, true⟩).pred k = ⟨b, true⟩ := by
  have hne : (⟨b, true⟩ : PVal) ≠ PVal.zero := fun h => by cases congrArg PVal.p h
  simp only [Thread.setPred, hk, if_true]
  rw [Thread.pred, if_pos hk]
  exact FMap.get_set_self _ _ _ _ hne

theorem Thread.setPred_g (t : Thread) (k : Nat) (v : PVal) : (t.setPred k v).g = t.g := by
  unfold Thread.setPred
  split <;> rfl

/-- The poison of a scratch word changes no file, no byte and nothing else of scratch (R211). -/
theorem State.poisonWord (s r : State) (g w k : Nat) (hr : r.groups = s.groups) (hm : r.mem = s.mem) (hg : g < s.groups.length) :
    let t := r.modG g (fun x => { x with scrP := NSet.add x.scrP k })
    s.keepsElse t g w [] ∧ (t.grp g).scr = (s.grp g).scr ∧ NSet.has (t.grp g).scrP k = true := by
  intro t
  have hgrp : t.grp g = { s.grp g with scrP := NSet.add (s.grp g).scrP k } := by
    have h := r.grp_modG_same g (fun x => { x with scrP := NSet.add x.scrP k }) (by rw [hr]; exact hg)
    rw [show r.grp g = s.grp g by rw [State.grp, hr, State.grp]] at h
    exact h
  have hoth : ∀ j, j ≠ g → t.grp j = s.grp j := fun j hj => by
    rw [State.grp, State.modG_groups', modAt_getD_other _ _ _ _ _ hj, hr, State.grp]
  refine ⟨⟨hm, fun a b u _ => ?_⟩, by rw [hgrp], by rw [hgrp]; simp [NSet.has_add]⟩
  exact State.files_of_grp (g := g) (by rw [hgrp]; exact .refl _) hoth a b u

/-- One thread that an error spoils, and memory, which it does not. -/
theorem State.modT_of_groups (s r : State) (u : TRef) (f : Thread → Thread) (hr : r.groups = s.groups)
    (hg : u.g < s.groups.length) (hw : u.w < (s.grp u.g).warps.length) (ht : u.t < (s.wrp u.g u.w).threads.length) :
    (r.modT u.g u.w u.t f).thr u.g u.w u.t = f (s.thr u.g u.w u.t) := by
  have h : (r.modT u.g u.w u.t f).groups = (s.modT u.g u.w u.t f).groups := by
    rw [State.modT, State.modT, State.modG_groups', State.modG_groups', hr]
  rw [State.thr, State.wrp, State.grp, h]
  exact (congrArg (fun x : Group => (x.wrp u.w).thr u.t) (s.grp_modG_same u.g _ hg)).trans
    (Group.modT_thr_same _ _ _ f hw ht)

/-- A core that fails hard is used no more, and every workgroup that stands on it ends (R212). -/
theorem execCoreHardFailure_ends (s : State) (d c : Nat) (hd : d < s.dies.length) :
    ∃ t, execCoreHardFailure d c s = .next t ∧ (t.core d c).failed = true
      ∧ ∀ g, g < s.groups.length → (s.grp g).alive = true → (s.grp g).save ≠ .saved → (s.grp g).die = d → (s.grp g).core = c →
          (t.grp g).alive = false := by
  have hf : ((s.modC d c (fun x => { x with failed := true })).core d c).failed = true := by
    rw [State.core_modC_self _ _ _ _ hd (Core.failed_ne rfl)]
  have hfade : (s.modC d c (fun x => { x with failed := true })).Fades
      (((s.residents d c).map (fun x => x.region)).eraseDups.foldl (fun s r => s.faultRegion r false)
        (s.modC d c (fun x => { x with failed := true }))) := .foldl (.refl _) (fun h => h.faultRegion)
  refine ⟨_, rfl, hfade.core d c hf, fun g hg ha hs hdie hcore => ?_⟩
  have hres : s.grp g ∈ s.residents d c := by
    have hm : s.grp g ∈ s.groups := by
      rw [State.grp, List.getD_eq_getElem?_getD, List.getElem?_eq_getElem hg]
      exact List.getElem_mem hg
    simp [State.residents, hm, Group.holds, ha, hs, hdie, hcore]
  have hend := State.foldl_faultRegion_ends ((s.residents d c).map (fun x => x.region)).eraseDups
    (s.modC d c (fun x => { x with failed := true })) g
    (by rw [List.mem_eraseDups]; exact List.mem_map_of_mem hres) hs
  exact getD_map_rel (fun x y : Group => x.alive = false → y.alive = false) _ _ Group.void g
    (fun x hx => by simp [hx]) id hend

/-- Settles O44: saves and resumes by their bodies, with threads that keep their files; errors by what they count and spoil, and
region faults by what `State.Fades` says that they keep. -/
theorem savesAndCoreErrors : Obligations.SavesAndCoreErrors := by
  refine ⟨fun s g hg ha => ?_, fun s e d c hd hl he => ?_, fun s u r off hg hw ht ha hs hd hr => ?_,
    fun s d c hd => execCoreHardFailure_ends s d c hd⟩
  · intro x now
    refine ⟨fun hs hk => ?_, fun hk => ?_, fun hs hp => ?_, fun hs hp => ?_, fun hs hn => ?_, fun hs hn => ?_, fun hs hd => ?_,
      fun hs hd => ?_, fun hs hu => ?_, fun hs hu hb => ?_, fun d c units h => ?_⟩
    · show execFullSaveRequest g s = _
      rw [execFullSaveRequest, hk, if_neg (by decide), s.requestSave_of g ha hs]
    · show execFullSaveRequest g s = _
      rw [execFullSaveRequest, if_pos hk]
    · show execDraining g s = _
      simp only [execDraining, x] at hs hp ⊢
      simp [ha, hs, hp, State.drain]
    · show execDraining g s = _
      simp only [execDraining, x] at hs hp ⊢
      simp [ha, hs, hp]
    · show execForcedSave g s = _
      simp only [execForcedSave, x, now] at hs hn ⊢
      simp [ha, hs, hn, State.drain, State.cycle]
    · show execForcedSave g s = _
      simp only [execForcedSave, x, now] at hs hn ⊢
      simp [ha, hs, Nat.not_le.mpr hn, State.cycle]
    · refine ⟨s.modG g (fun x => { x.recorded with save := .writing }), ?_, ?_⟩
      · show execDrainComplete g s = _
        simp only [execDrainComplete, x] at hs hd ⊢
        simp [ha, hs, hd]
      · have hgrp := s.grp_modG_same g (fun x => { x.recorded with save := .writing }) hg
        refine ⟨State.keepsElse_of_grp rfl (by rw [hgrp]; exact .refl _) (fun k hk => s.grp_modG_other g k _ hk), ?_, ?_, ?_⟩ <;>
          rw [hgrp] <;> rfl
    · show execDrainComplete g s = _
      simp only [execDrainComplete, x] at hs hd ⊢
      simp [ha, hs, hd]
    · show execSaveWritten g s = _
      simp only [execSaveWritten, x] at hs hu ⊢
      simp [ha, hs, hu]
    · obtain ⟨hsv, hscr, _⟩ := s.saved_grp g hg
      refine ⟨s.saved g, ?_, s.saved_mem g, State.files_of_grp (s.saved_files g hg hb) (fun k hk => s.saved_grp_other g k hk), hscr, hsv, ?_⟩
      · show execSaveWritten g s = _
        simp only [execSaveWritten, x] at hs hu ⊢
        simp [ha, hs, hu]
      · simp [Group.holds, hsv]
    · obtain ⟨t, y, hres, hm, hgs, hf, hscr, hsv, hdie, hcore⟩ := s.resume_some g d c units h
      have hgrp : t.grp g = y := by
        rw [State.grp, hgs]; exact s.grp_modG_same g (fun _ => y) hg
      refine ⟨t, ?_, State.keepsElse_of_grp hm (by rw [hgrp]; exact hf) (fun k hk => ?_), ?_, ?_, ?_, ?_⟩
      · show execResume g d c units s = _
        rw [execResume, hres, Option.getD_some]
      · rw [State.grp, hgs]; exact s.grp_modG_other g k (fun _ => y) hk
      all_goals rw [hgrp]; assumption
  · intro n
    obtain ⟨hgs, hm, hp⟩ := s.countErr_fields d c false
    obtain ⟨hc, hu, hrep⟩ := s.countErr_corrected d c hl
    refine ⟨s.countErr d c false, ?_, hgs, hm, hp, hc, hu, hrep⟩
    show execSoftError e d c false s = _
    cases hge : e.grp with
    | none => simp [execSoftError, hge, hd]
    | some g =>
      obtain ⟨h1, h2, h3⟩ := he g hge
      simp [execSoftError_here e d c g false s hge hd h1 h2 h3]
  · intro d c
    have hh : (s.grp u.g).holds = true := by simp [Group.holds, ha, hs]
    obtain ⟨hgs, hm, _⟩ := s.countErr_fields d c true
    have here : ∀ e : SoftErr, e.grp = some u.g → exec (.softError e d c true) s = .next ((s.countErr d c true).softEffect e) :=
      fun e he => execSoftError_here e d c u.g true s he hd hh rfl rfl
    have hgrp : (s.countErr d c true).grp u.g = s.grp u.g := by rw [State.grp, hgs, State.grp]
    refine ⟨⟨_, here _ rfl, hm, ?_, ?_⟩, fun hx => ⟨_, here _ rfl, ?_⟩, fun hx => ⟨_, here _ rfl, ?_⟩,
      fun hr7 => ⟨_, here _ rfl, hm, ?_, ?_⟩, ⟨_, here _ rfl, ?_⟩, ⟨_, here _ rfl, ?_⟩⟩
    · simp only [State.softEffect]
      rw [s.modT_of_groups _ u _ hgs hg hw ht, Thread.spoil_reg _ r hr]
    · simp only [State.softEffect]
      rw [s.modT_of_groups _ u _ hgs hg hw ht, Thread.spoil_p]
    · simp only [State.softEffect, hgrp, hx, Bool.false_eq_true, if_false]
      exact s.poisonWord _ u.g u.w (off / 4) hgs hm hg
    · simp only [State.softEffect, hgrp, hx, if_true]
      exact State.regionFault_ends _ _ _ _
    · simp only [State.softEffect]
      rw [s.modT_of_groups _ u _ hgs hg hw ht, Thread.setPred_pred _ r _ hr7]
    · simp only [State.softEffect]
      rw [s.modT_of_groups _ u _ hgs hg hw ht, Thread.setPred_g]
    · exact State.regionFault_ends _ _ _ _
    · exact State.regionFault_ends _ _ _ _

end Sys2Proof.Machine
end

section
/-! ## Requests of peers, root ports and the host (O51) -/
namespace Sys2Proof.Machine

/-! ### Accesses performed for a requester outside (R62, R350) -/

theorem State.outAccess_read (s : State) (v va kind n : Nat) (data : List Byte) (psn : NSet) (h : reqKind kind = 0) :
    s.outAccess v va kind n data psn = (s.readN 4 v va n).map (fun l => (s, l)) := by
  simp only [State.outAccess, h]
  cases s.readN 4 v va n <;> rfl

theorem State.outAccess_write (s : State) (v va kind n : Nat) (data : List Byte) (psn : NSet) (h : reqKind kind = 1) :
    s.outAccess v va kind n data psn = (s.land 4 v va data psn).map (fun t => (t, [])) := by
  simp only [State.outAccess, h]
  cases s.land 4 v va data psn <;> rfl

theorem leNat_drop (l : List Byte) (k n : Nat) : leNat (fun j => l.getD j 0) k n = leNat (fun j => (l.drop k).getD j 0) 0 n := by
  have h : ∀ n a, leNat (fun j => l.getD j 0) (k + a) n = leNat (fun j => (l.drop k).getD j 0) a n := by
    intro n
    induction n with
    | zero => intro a; rfl
    | succ n ih =>
      intro a
      have hg : (l.drop k).getD a 0 = l.getD (k + a) 0 := by
        simp only [List.getD_eq_getElem?_getD, List.getElem?_drop]
      rw [leNat, leNat, hg, Nat.add_assoc, ih]
  exact h n 0

theorem byteAt_map (l : List (Byte × Bool)) : byteAt l = fun j => (l.map (fun b => b.1)).getD j 0 := by
  funext j
  rw [byteAt, List.getD_eq_getElem?_getD, List.getD_eq_getElem?_getD, List.getElem?_map]
  cases l[j]? <;> rfl

/-- An atomic of a peer: the old bytes and their poison are read, and its result is written over them (R393, R62). -/
theorem State.outAccess_atomic (s u : State) (v va kind n : Nat) (data : List Byte) (psn : NSet) (b : Where') (l : List (Byte × Bool))
    (h : reqKind kind = 2) (hl : s.locate 4 v va .atomic = .ok b) (hr : s.readN 4 v va (tyWidth (reqTy kind) / 8) = .ok l)
    (hw : s.writeN 4 v va (l.any (fun b => b.2) || !psn.isEmpty) (leBytes (atomOp (reqOp kind) (8 * (tyWidth (reqTy kind) / 8))
      (tySigned (reqTy kind)) (leNat (byteAt l) 0 (tyWidth (reqTy kind) / 8)) (leNat (fun j => data.getD j 0) 0 (tyWidth (reqTy kind) / 8))
      (leNat (fun j => data.getD j 0) (tyWidth (reqTy kind) / 8) (tyWidth (reqTy kind) / 8))) (tyWidth (reqTy kind) / 8)) = .ok u) :
    s.outAccess v va kind n data psn = .ok (u, l) := by
  have hn : reqLen kind n data = tyWidth (reqTy kind) / 8 := by simp only [reqLen, h]
  simp only [State.outAccess, h, hn, hl, hr, if_true, hw]

/-! ### A request of a peer part (R393) -/

/-- The request as it goes on behind its translation under the grant `g`. -/
def PeerReq.under (q : PeerReq) (g : Grant) : HeldReq :=
  let va := g.base + 65536 * q.ppg + q.off
  ⟨pageOf va, q.link + 16 * q.ipart, va % 65536, q.kind % 4096, q.n, q.data, q.psn, reqFwd q.kind⟩

/-- A request that waits on its link. -/
def State.kept (s : State) (q : PeerReq) : State := { s with fab := { s.fab with waiting := s.fab.waiting ++ [q] } }

/-- The grant of a request's part and device. -/
def State.grantFor (s : State) (q : PeerReq) : Option Grant :=
  s.fab.grants.find? (fun g => g.ipart == q.ipart && g.ivdev == q.ivdev)

section
variable (s : State) (q : PeerReq)

/-- Behind nothing that waits on its link, a request is taken, or waits itself. -/
theorem State.peerRequest_taken (hl : q.link < 12) (hu : (s.link q.link).up = true) (hk : q.kind % 16 ≤ 3)
    (hw : ∀ x ∈ s.fab.waiting, x.link ≠ q.link) : s.peerRequest q = (s.peerTry q).getD (s.kept q) := by
  have ha : s.fab.waiting.any (fun x => x.link == q.link) = false := by simpa using hw
  have hk' : ¬3 < reqKind q.kind := by simpa [reqKind] using hk
  simp [State.peerRequest, linkOk, hl, hu, hk', ha, State.kept]

theorem State.peerTry_none (h : s.grantFor q = none) : s.peerTry q = some (s.refuse q.link q.ivdev (65536 * q.ppg + q.off)) := by
  unfold State.grantFor at h
  simp only [State.peerTry, h]

/-- A request beyond the pages or the rights of its grant. -/
theorem State.peerTry_beyond (g : Grant) (h : s.grantFor q = some g)
    (hg : g.npg ≤ q.ppg ∨ (reqKind q.kind ≠ 0 ∧ g.w = false) ∨ (2 ≤ reqKind q.kind ∧ g.atm = false)) :
    s.peerTry q = some (s.refuse q.link q.ivdev (65536 * q.ppg + q.off)) := by
  unfold State.grantFor at h
  simp only [State.peerTry, h]
  rw [if_pos (by simpa using hg)]

/-- A request within its grant that goes on past its page. -/
theorem State.peerTry_past (g : Grant) (h : s.grantFor q = some g)
    (hg : ¬(g.npg ≤ q.ppg ∨ (reqKind q.kind ≠ 0 ∧ g.w = false) ∨ (2 ≤ reqKind q.kind ∧ g.atm = false)))
    (ho : 65536 < q.off + reqLen q.kind q.n q.data) :
    s.peerTry q = some (s.refuse q.link q.ivdev (65536 * q.ppg + max q.off 65536)) := by
  unfold State.grantFor at h
  simp only [State.peerTry, h]
  rw [if_neg (by simpa using hg), if_pos ho]

/-- A request within its grant and its page takes its route (R404). -/
theorem State.peerTry_route (g : Grant) (h : s.grantFor q = some g)
    (hg : ¬(g.npg ≤ q.ppg ∨ (reqKind q.kind ≠ 0 ∧ g.w = false) ∨ (2 ≤ reqKind q.kind ∧ g.atm = false)))
    (ho : q.off + reqLen q.kind q.n q.data ≤ 65536) :
    (s.routeOf g.evdev (q.under g) = .forward →
      s.peerTry q = some (s.modOut g.evdev (fun m => { m with fwd := m.fwd ++ [q.under g] })))
    ∧ (s.routeOf g.evdev (q.under g) = .hold → s.migOf g.evdev = none →
      s.peerTry q = some (s.modIn g.evdev (fun m => { m with held := m.held ++ [q.under g] })))
    ∧ (s.routeOf g.evdev (q.under g) = .perform → s.peerTry q = s.peerAccess g.evdev (q.under g)) := by
  unfold State.grantFor at h
  have ho' : ¬65536 < q.off + reqLen q.kind q.n q.data := by omega
  simp only [State.peerTry, h]
  rw [if_neg (by simpa using hg), if_neg ho']
  refine ⟨fun hr => ?_, fun hr hm => ?_, fun hr => ?_⟩ <;> unfold PeerReq.under at hr <;> simp only [hr]
  · rfl
  · simp only [hm]
    rfl
  · rfl

end

/-- The access of a request, by the tokens of its link, those of its memory, and the access itself (R393, R333). -/
theorem State.peerAccess_cases (s : State) (v : Nat) (r : HeldReq) (va d n : Nat) (hva : va = 65536 * r.page + r.off)
    (hd : d = s.homeOf v va) (hn : n = reqLen r.kind r.n r.bytes) :
    ((s.die d).charge v 2 ((n + 63) / 64) = none → s.peerAccess v r = none)
    ∧ ∀ x, (s.die d).charge v 2 ((n + 63) / 64) = some x →
      (∀ e, (s.modD d (fun _ => x)).charge 4 v [⟨va, n, reqNeed r.kind⟩] = .error e → s.peerAccess v r = none)
      ∧ ∀ t, (s.modD d (fun _ => x)).charge 4 v [⟨va, n, reqNeed r.kind⟩] = .ok t →
        (∀ u l, t.outAccess v va r.kind r.n r.bytes r.psn = .ok (u, l) →
          s.peerAccess v r = some (u.outAnswer (0x50 + r.src % 16) 0 l))
        ∧ (∀ e, t.outAccess v va r.kind r.n r.bytes r.psn = .error e →
          s.peerAccess v r = some (t.outAnswer (0x50 + r.src % 16) 1 [])) := by
  subst hva hd hn
  refine ⟨fun hc => ?_, fun x hc => ⟨fun e hp => ?_, fun t hp => ⟨fun u l ha => ?_, fun e ha => ?_⟩⟩⟩
  · simp only [State.peerAccess, hc]
  · simp only [State.peerAccess, hc, hp]
  · simp only [State.peerAccess, hc, hp, ha]
  · simp only [State.peerAccess, hc, hp, ha]

theorem reqLen_eq (kind n : Nat) (data : List Byte) : reqLen kind n data = (if kind % 16 = 0 then n else if kind % 16 = 1 then data.length
    else if kind % 16 = 2 then tyWidth (kind / 256 % 16) / 8 else redWidth (kind / 256 % 16) / 8) := by
  unfold reqLen reqKind reqTy
  split
  · next h => rw [if_pos h]
  · next h => rw [if_neg (by omega), if_pos h]
  · next h => rw [if_neg (by omega), if_neg (by omega), if_pos h]
  · next h0 h1 h2 => rw [if_neg h0, if_neg h1, if_neg h2]

theorem reqNeed_eq (kind : Nat) : reqNeed kind = (if kind % 16 = 0 then .read else if kind % 16 = 1 then .write else .atomic) := by
  unfold reqNeed reqKind
  split
  · next h => rw [if_pos h]
  · next h => rw [if_neg (by omega), if_pos h]
  · next h0 h1 => rw [if_neg h0, if_neg h1]

/-! ### Root ports and the host (R350, R337) -/

section
variable (s : State) (q : OutReq)

/-- The access that stands behind the others. -/
def State.outKept : State := { s with fab := { s.fab with outHeld := s.fab.outHeld ++ [q] } }

theorem State.outBad_outside (a : Nat) :
    s.outBad q a false = (s.violate 0 false 7 0xFF q.src (BitVec.ofNat 64 a)).outAnswer q.src (if q.rd = 0 then 4 else 3) [] := rfl

/-- An access that a mapping does not cover from its byte `k` on fails there. -/
theorem State.outTry_beyond (k : Nat) (hs : outSrc q.src = true) (hk : k < q.len)
    (hb : ∀ j, j < k → s.outGranted q.src q.vdev (q.va + j) 1 (q.rd == 0) = true)
    (hn : s.outGranted q.src q.vdev (q.va + k) 1 (q.rd == 0) = false) : s.outTry q = s.outBad q (q.va + k) false := by
  have hf : (List.range q.len).find? (fun k => !s.outGranted q.src q.vdev (q.va + k) 1 (q.rd == 0)) = some k := by
    rw [List.find?_range_eq_some]
    exact ⟨by simp [hn], List.mem_range.mpr hk, fun j hj => by simp [hb j hj]⟩
  have hl : (q.len == 0) = false := by simp; omega
  simp only [State.outTry, hs, hl, State.outBeyond, hf, Bool.not_true, Bool.or_self, Bool.false_eq_true, if_false, Option.map_some]

/-- One that a mapping covers goes on. -/
theorem State.outTry_within (hs : outSrc q.src = true) (hk : q.len ≠ 0)
    (hb : ∀ j, j < q.len → s.outGranted q.src q.vdev (q.va + j) 1 (q.rd == 0) = true) : s.outTry q = s.outReq q := by
  have hf : (List.range q.len).find? (fun k => !s.outGranted q.src q.vdev (q.va + k) 1 (q.rd == 0)) = none := by
    rw [List.find?_eq_none]
    exact fun j hj => by simp [hb j (List.mem_range.mp hj)]
  have hl : (q.len == 0) = false := by simp [hk]
  simp only [State.outTry, hs, hl, State.outBeyond, hf, Bool.not_true, Bool.or_self, Bool.false_eq_true, if_false, Option.map_none]

theorem State.outReq_relaxed (h : q.relaxed = true) : s.outReq q = s.outKept q := by
  simp [State.outReq, h, State.outKept]

theorem State.outFlush_empty (src : Nat) (h : s.fab.outHeld = []) : s.outFlush src = s := by
  have hs : ({ s with fab := { s.fab with outHeld := s.fab.outHeld } } : State) = s := rfl
  rw [h] at hs
  simp only [State.outFlush, h, List.foldl_nil]
  exact hs

/-- An access without Relaxed Ordering, behind no other, is made now or waits (R350). -/
theorem State.outReq_ordered (hr : q.relaxed = false) (h : s.fab.outHeld = []) : s.outReq q = (s.outLand q).getD (s.outKept q) := by
  simp [State.outReq, hr, s.outFlush_empty q.src h, h, State.outKept]

/-- An access made, by what its tokens and its bytes answer. -/
theorem State.outLand_cases (nd : Need) (k : Nat) (hnd : nd = if q.rd = 0 then .write else .read) (hk : k = if q.rd = 0 then 1 else 0) :
    (∀ e, s.charge 4 q.vdev [⟨q.va, q.len, nd⟩] = .error e → s.outLand q = none)
    ∧ ∀ c, s.charge 4 q.vdev [⟨q.va, q.len, nd⟩] = .ok c →
      (∀ t l, c.outAccess q.vdev q.va k q.rd q.data [] = .ok (t, l) →
        s.outLand q = some (if q.rd = 0 then t else t.outAnswer q.src 0 l))
      ∧ (∀ a, c.outAccess q.vdev q.va k q.rd q.data [] = .error (a, 6) → s.outLand q = none)
      ∧ (∀ a j, c.outAccess q.vdev q.va k q.rd q.data [] = .error (a, j) → j ≠ 6 → s.outLand q = some (s.outBad q a (j == 2))) := by
  subst hnd hk
  refine ⟨fun e he => ?_, fun c hc => ⟨fun t l ha => ?_, fun a ha => ?_, fun a j ha hj => ?_⟩⟩
  · simp only [State.outLand, he]
  · simp only [State.outLand, hc, ha]
  · simp only [State.outLand, hc, ha, if_true]
  · simp only [State.outLand, hc, ha, hj, if_false]

end

/-! ### BAR2 (R397) -/

/-- The access of BAR2, by the first of its bytes that its window page does not reach. -/
def State.bar2Stops (s : State) (q : OutReq) (w : Bool) (k : Nat) : Bool :=
  !s.bar2Ok (q.va + k) w || decide ((q.va + k) / 65536 ≠ q.va / 65536)

/-- An access through BAR2 before it is looked at. -/
def State.bar2Req (s : State) (win off n : Nat) (op : Bar2Op) (data : List Byte) : OutReq :=
  ⟨0x48, s.fab.bar2Dev, 65536 * win + off, data, if op.writes then 0 else n, op.relaxed⟩

section
variable (s : State) (win off n : Nat) (op : Bar2Op) (data : List Byte)

theorem execBar2Access_stops (k : Nat) (hk : k < (s.bar2Req win off n op data).len)
    (hs : s.bar2Stops (s.bar2Req win off n op data) op.writes k = true)
    (hb : ∀ j, j < k → s.bar2Stops (s.bar2Req win off n op data) op.writes j = false) :
    execBar2Access win off n op data s = .next (s.outBad (s.bar2Req win off n op data) (65536 * win + off + k) false) := by
  have hf : (List.range (s.bar2Req win off n op data).len).find? (fun k => s.bar2Stops (s.bar2Req win off n op data) op.writes k)
      = some k := by
    rw [List.find?_range_eq_some]
    exact ⟨hs, List.mem_range.mpr hk, fun j hj => by simp [hb j hj]⟩
  have hl : (s.bar2Req win off n op data).len ≠ 0 := by omega
  unfold State.bar2Stops State.bar2Req at hf
  unfold State.bar2Req at hl
  simp only [execBar2Access, hl, if_false, hf]
  rfl

theorem execBar2Access_within (m : Bar2) (hl : (s.bar2Req win off n op data).len ≠ 0) (ho : off < 65536)
    (hm : s.fab.bar2.find? (fun m => m.win == win) = some m)
    (hb : ∀ j, j < (s.bar2Req win off n op data).len → s.bar2Stops (s.bar2Req win off n op data) op.writes j = false) :
    execBar2Access win off n op data s
      = .next (s.outReq { s.bar2Req win off n op data with va := 65536 * m.page + off }) := by
  have hf : (List.range (s.bar2Req win off n op data).len).find? (fun k => s.bar2Stops (s.bar2Req win off n op data) op.writes k)
      = none := by
    rw [List.find?_eq_none]
    exact fun j hj => by simp [hb j (List.mem_range.mp hj)]
  have hw : (65536 * win + off) / 65536 = win := by omega
  have hr : (65536 * win + off) % 65536 = off := by omega
  unfold State.bar2Stops State.bar2Req at hf
  unfold State.bar2Req at hl
  simp only [execBar2Access, hl, if_false, hf]
  simp only [hw, hm, hr]
  rfl

/-- A byte beyond the window page stops an access; one within it stops it only where its page is not mapped for it. -/
theorem State.bar2Stops_eq (k : Nat) (ho : off < 65536) : s.bar2Stops (s.bar2Req win off n op data) op.writes k
    = (decide (65536 ≤ off + k) || !s.fab.bar2.any (fun m => m.win == win && (m.w || !op.writes))) := by
  by_cases hk : 65536 ≤ off + k
  · have hne : (65536 * win + off + k) / 65536 ≠ (65536 * win + off) / 65536 := by omega
    simp only [State.bar2Stops, State.bar2Req, hne, ne_eq, not_false_iff, decide_true, Bool.or_true, hk, Bool.true_or]
  · have h1 : (65536 * win + off + k) / 65536 = win := by omega
    have h2 : (65536 * win + off) / 65536 = win := by omega
    simp only [State.bar2Stops, State.bar2Req, State.bar2Ok, h1, h2, ne_eq, not_true_eq_false, decide_false, Bool.or_false, hk,
      Bool.false_or]

end

/-- A window page that is mapped for an access lets its bytes pass. -/
theorem bar2_mapped (l : List Bar2) (m : Bar2) (win : Nat) (w : Bool) (h : l.find? (fun m => m.win == win) = some m)
    (hw : w = true → m.w = true) : l.any (fun m => m.win == win && (m.w || !w)) = true := by
  have hm := List.find?_some h
  rw [List.any_eq_true]
  refine ⟨m, List.mem_of_find?_eq_some h, ?_⟩
  cases w with
  | false => simpa using hm
  | true => simpa [hw rfl] using hm

/-! ### The clauses -/

/-- A write without poison in its data is a clean write (R62). -/
theorem State.land_clean (s t : State) (d v va : Nat) (data : List Byte) :
    s.land d v va data [] = .ok t ↔ ∃ u, s.writeN d v va false data = .ok u ∧ t = u.clearPsn d v va data.length := by
  unfold State.land State.writeClean
  cases hw : s.writeN d v va false data with
  | error e => simp
  | ok u => simp [eq_comm]

/-- A request of a peer, clause by clause (R393). -/
theorem State.peerRequest_served (s : State) (q : PeerReq) (hl : q.link < 12) (hu : (s.link q.link).up = true)
    (hk : q.kind % 16 ≤ 3) (hk4 : q.kind < 4096) (hw : ∀ x ∈ s.fab.waiting, x.link ≠ q.link) (g : Grant)
    (hog : s.grantFor q = some g)
    (hg : ¬(g.npg ≤ q.ppg ∨ (reqKind q.kind ≠ 0 ∧ g.w = false) ∨ (2 ≤ reqKind q.kind ∧ g.atm = false)))
    (ho : q.off + reqLen q.kind q.n q.data ≤ 65536) (va : Nat) (hva : va = g.base + 65536 * q.ppg + q.off)
    (hp : s.routeOf g.evdev (q.under g) = .perform) :
    ((s.die (s.homeOf g.evdev va)).charge g.evdev 2 ((reqLen q.kind q.n q.data + 63) / 64) = none → s.peerRequest q = s.kept q)
    ∧ ∀ x, (s.die (s.homeOf g.evdev va)).charge g.evdev 2 ((reqLen q.kind q.n q.data + 63) / 64) = some x →
      (∀ e, (s.modD (s.homeOf g.evdev va) (fun _ => x)).charge 4 g.evdev [⟨va, reqLen q.kind q.n q.data, reqNeed q.kind⟩] = .error e →
        s.peerRequest q = s.kept q)
      ∧ ∀ t, (s.modD (s.homeOf g.evdev va) (fun _ => x)).charge 4 g.evdev [⟨va, reqLen q.kind q.n q.data, reqNeed q.kind⟩] = .ok t →
        (∀ u l, t.outAccess g.evdev va q.kind q.n q.data q.psn = .ok (u, l) → s.peerRequest q = u.outAnswer (0x50 + q.link) 0 l)
        ∧ (∀ e, t.outAccess g.evdev va q.kind q.n q.data q.psn = .error e → s.peerRequest q = t.outAnswer (0x50 + q.link) 1 []) := by
  have htry := ((s.peerTry_route q g hog hg ho).2.2 hp)
  have hkind : (q.under g).kind = q.kind := Nat.mod_eq_of_lt hk4
  have hva' : va = 65536 * (q.under g).page + (q.under g).off := by
    simp only [PeerReq.under, pageOf, ← hva]
    omega
  have hlen : reqLen q.kind q.n q.data = reqLen (q.under g).kind (q.under g).n (q.under g).bytes := by rw [hkind]; rfl
  have hsrc : (q.under g).src % 16 = q.link := by
    simp only [PeerReq.under]
    omega
  have hneed : reqNeed (q.under g).kind = reqNeed q.kind := by rw [hkind]
  have hn : (q.under g).n = q.n ∧ (q.under g).bytes = q.data ∧ (q.under g).psn = q.psn := ⟨rfl, rfl, rfl⟩
  have hreq := s.peerRequest_taken q hl hu hk hw
  rw [htry] at hreq
  obtain ⟨h0, h1⟩ := s.peerAccess_cases g.evdev (q.under g) va _ _ hva' rfl hlen
  rw [hneed, hkind, hn.1, hn.2.1, hn.2.2, hsrc] at h1
  refine ⟨fun hc => by rw [hreq, h0 hc]; rfl, fun x hc => ?_⟩
  obtain ⟨h2, h3⟩ := h1 x hc
  refine ⟨fun e hp => by rw [hreq, h2 e hp]; rfl, fun t hp => ?_⟩
  obtain ⟨h4, h5⟩ := h3 t hp
  exact ⟨fun u l ha => by rw [hreq, h4 u l ha]; rfl, fun e ha => by rw [hreq, h5 e ha]; rfl⟩

theorem outSrc_of {src : Nat} (h : 0x40 ≤ src) (h' : src ≤ 0x48) : outSrc src = true := by simp [outSrc, h, h']

/-- Settles O51: each clause by the case of `peerTry`, `outTry` or `execBar2Access` that it speaks of. -/
theorem outsideRequestsServed : Obligations.OutsideRequestsServed := by
  intro s out bad
  refine ⟨?_, fun d v va data t => s.land_clean t d v va data, ?_, ?_, ?_, ?_, ?_⟩
  · intro link ipart ivdev ppg off kind n data psn hl hu hk hk4 hw deny og ty len ans
    let q : PeerReq := ⟨link, ipart, ivdev, ppg, off, kind, n, data, psn⟩
    have hans : ∀ t, s.peerRequest q = t → ans kind t := fun t h => congrArg Host.Outcome.next h
    have htry := s.peerRequest_taken q hl hu hk hw
    have hlen : reqLen kind n data = len := reqLen_eq kind n data
    refine ⟨fun ho => hans _ ?_, fun g ho hg => hans _ ?_, fun g ho hp hwr hat => ?_⟩
    · rw [htry, s.peerTry_none q ho]; rfl
    · rw [htry, s.peerTry_beyond q g ho hg]; rfl
    · have hg : ¬(g.npg ≤ ppg ∨ (reqKind kind ≠ 0 ∧ g.w = false) ∨ (2 ≤ reqKind kind ∧ g.atm = false)) := by
        simp only [reqKind, not_or, not_and, not_le, Bool.not_eq_false]
        exact ⟨hp, hwr, hat⟩
      refine ⟨fun hov => hans _ ?_, fun hin => ?_⟩
      · rw [htry, s.peerTry_past q g ho hg (by rw [hlen]; exact hov)]; rfl
      · intro va r c sent kept wait
        have hin' : off + reqLen kind n data ≤ 65536 := by rw [hlen]; exact hin
        have hr : q.under g = r := by
          have h1 : kind % 4096 = kind := Nat.mod_eq_of_lt hk4
          have h2 : reqFwd kind = false := by simp [reqFwd, Nat.div_eq_of_lt hk4]
          have h3 : q.under g = { r with kind := kind % 4096, fwd := reqFwd kind } := rfl
          rw [h3, h1, h2]
        obtain ⟨hf, hh, _⟩ := s.peerTry_route q g ho hg hin'
        have hsv := s.peerRequest_served q hl hu hk hk4 hw g ho hg hin' va rfl
        rw [hr] at hf hh hsv
        rw [hlen, reqNeed_eq] at hsv
        refine ⟨fun h => hans _ ?_, fun h hm => hans _ ?_, fun h hc => hans _ ((hsv h).1 hc), fun x h hc => ?_⟩
        · rw [htry, hf h]; rfl
        · rw [htry, hh h hm]; rfl
        · obtain ⟨herr, hok⟩ := (hsv h).2 x hc
          have hvv : 65536 * pageOf va + va % 65536 = va := by unfold pageOf; omega
          intro paid
          simp only [paid, hvv]
          refine ⟨fun e he => hans _ (herr e he), fun t ht => ?_⟩
          obtain ⟨ha, hb⟩ := hok t ht
          refine ⟨fun l h0 hrd => ?_, fun e h0 hrd => ?_, fun u h1 hld => ?_, fun l u b h2 hloc hrd hwr => hans _ (ha u l ?_)⟩
          · subst h0
            exact hans _ (ha t l (by rw [State.outAccess_read _ _ _ _ _ _ _ rfl, hrd]; rfl))
          · subst h0
            exact hans _ (hb e (by rw [State.outAccess_read _ _ _ _ _ _ _ rfl, hrd]; rfl))
          · subst h1
            exact hans _ (ha u [] (by rw [State.outAccess_write _ _ _ _ _ _ _ rfl, hld]; rfl))
          · refine State.outAccess_atomic t u g.evdev va kind n data psn b l h2 hloc hrd ?_
            rw [leNat_drop data (tyWidth (reqTy kind) / 8), byteAt_map]
            exact hwr
  · intro src v va data rl h1 h2 hd put may held
    have hlen : (⟨src, v, va.toNat, data, 0, rl⟩ : OutReq).len = data.length := rfl
    have hpos : data.length ≠ 0 := by simpa [List.length_eq_zero_iff] using hd
    have hput : ∀ t, s.outTry ⟨src, v, va.toNat, data, 0, rl⟩ = t → put t := fun t h => congrArg Host.Outcome.next h
    refine ⟨fun k hk hb hn => hput _ ?_, fun hall => ?_⟩
    · exact s.outTry_beyond ⟨src, v, va.toNat, data, 0, rl⟩ k (outSrc_of h1 h2) hk hb (by simpa [may] using hn)
    · have htry := s.outTry_within ⟨src, v, va.toNat, data, 0, rl⟩ (outSrc_of h1 h2) hpos hall
      refine ⟨fun hr => hput _ ?_, fun hr hh => ?_⟩
      · rw [htry, s.outReq_relaxed _ hr]
        subst hr
        rfl
      · subst hr
        have hreq := s.outReq_ordered ⟨src, v, va.toNat, data, 0, false⟩ rfl hh
        obtain ⟨l0, l1⟩ := s.outLand_cases ⟨src, v, va.toNat, data, 0, false⟩ .write 1 rfl rfl
        intro paid
        refine ⟨fun e he => hput _ ?_, fun c t hc hld => hput _ ?_, fun c a hc hld => hput _ ?_, fun c a k hc hld hk2 hk6 => hput _ ?_,
          fun c a p hc hld hv => hput _ ?_⟩
        · rw [htry, hreq, l0 e he]; rfl
        · rw [htry, hreq, (l1 c hc).1 t [] (by rw [State.outAccess_write _ _ _ _ _ _ _ rfl, hld]; rfl)]; rfl
        · rw [htry, hreq, (l1 c hc).2.1 a (by rw [State.outAccess_write _ _ _ _ _ _ _ rfl, hld]; rfl)]; rfl
        · rw [htry, hreq, (l1 c hc).2.2 a k (by rw [State.outAccess_write _ _ _ _ _ _ _ rfl, hld]; rfl) hk6,
            Option.getD_some, show (k == 2) = false by simpa using hk2]
          rfl
        · rw [htry, hreq, (l1 c hc).2.2 a 2 (by rw [State.outAccess_write _ _ _ _ _ _ _ rfl, hld]; rfl) (by decide),
            Option.getD_some]
          simp only [State.outBad, beq_self_eq_true, if_true, hv]
          rfl
  · intro src v va n h1 h2 hn may
    have hlen : (⟨src, v, va.toNat, [], n, false⟩ : OutReq).len = n := by simp [OutReq.len, hn]
    have hw : (n == 0) = false := by simpa using hn
    refine ⟨fun k hk hb hno => ?_, fun c l hall hh hc hrd => ?_⟩
    · have h := s.outTry_beyond ⟨src, v, va.toNat, [], n, false⟩ k (outSrc_of h1 h2) (by rw [hlen]; exact hk)
        (by rw [hw]; exact hb) (by rw [hw]; simpa [may] using hno)
      rw [State.outBad_outside, if_neg hn] at h
      exact congrArg Host.Outcome.next h
    · have htry := s.outTry_within ⟨src, v, va.toNat, [], n, false⟩ (outSrc_of h1 h2) (by rw [hlen]; exact hn)
        (by rw [hlen, hw]; exact hall)
      obtain ⟨_, l1⟩ := s.outLand_cases ⟨src, v, va.toNat, [], n, false⟩ .read 0 (if_neg hn).symm (if_neg hn).symm
      rw [hlen] at l1
      have hland := (l1 c hc).1 c l (by rw [State.outAccess_read _ _ _ _ _ _ _ rfl, hrd]; rfl)
      rw [if_neg hn] at hland
      rw [s.outReq_ordered _ rfl hh, hland] at htry
      exact congrArg Host.Outcome.next htry
  · intro win off n data rl hn hd ho om at'
    have hpos : data.length ≠ 0 := by simpa [List.length_eq_zero_iff] using hd
    have hrl : (s.bar2Req win off n .read data).len = n := by simp [State.bar2Req, Bar2Op.writes, OutReq.len, hn]
    have hwl : ∀ rl, (s.bar2Req win off n (.write rl) data).len = data.length := fun rl => rfl
    have hbr : (s.bar2Req win off n .read data).rd ≠ 0 := hn
    refine ⟨fun hom => ⟨?_, ?_⟩, fun hro => ?_, fun m hom hov => ?_, fun m c l hom hin hh => ?_,
      fun m hom hmw hin => ⟨fun hr => ?_, fun c t hr hh hc hld => ?_⟩⟩
    · have hst : s.bar2Stops (s.bar2Req win off n .read data) Bar2Op.read.writes 0 = true := by
        rw [s.bar2Stops_eq win off n .read data 0 ho]
        simp only [om, List.find?_eq_none] at hom
        simp only [Bool.or_eq_true, Bool.not_eq_true', List.any_eq_false]
        exact .inr fun m hm => by simp [show (m.win == win) = false by simpa using hom m hm]
      show execBar2Access win off n .read data s = _
      rw [execBar2Access_stops s win off n .read data 0 (by rw [hrl]; omega) hst (fun j hj => absurd hj (Nat.not_lt_zero j)),
        State.outBad_outside, if_neg hbr]
      rfl
    · have hst : s.bar2Stops (s.bar2Req win off n (.write rl) data) (Bar2Op.write rl).writes 0 = true := by
        rw [s.bar2Stops_eq win off n (.write rl) data 0 ho]
        simp only [om, List.find?_eq_none] at hom
        simp only [Bool.or_eq_true, Bool.not_eq_true', List.any_eq_false]
        exact .inr fun m hm => by simp [show (m.win == win) = false by simpa using hom m hm]
      show execBar2Access win off n (.write rl) data s = _
      rw [execBar2Access_stops s win off n (.write rl) data 0 (by rw [hwl]; omega) hst (fun j hj => absurd hj (Nat.not_lt_zero j))]
      rfl
    · have hst : s.bar2Stops (s.bar2Req win off n (.write rl) data) (Bar2Op.write rl).writes 0 = true := by
        rw [s.bar2Stops_eq win off n (.write rl) data 0 ho]
        simp only [Bool.or_eq_true, Bool.not_eq_true', List.any_eq_false]
        refine .inr fun m hm => ?_
        by_cases hmw : m.win = win
        · simp [hmw, hro m hm hmw, Bar2Op.writes]
        · simp [hmw]
      show execBar2Access win off n (.write rl) data s = _
      rw [execBar2Access_stops s win off n (.write rl) data 0 (by rw [hwl]; omega) hst (fun j hj => absurd hj (Nat.not_lt_zero j))]
      rfl
    · have hany := bar2_mapped s.fab.bar2 m win Bar2Op.read.writes hom (fun h => by cases h)
      show execBar2Access win off n .read data s = _
      rw [execBar2Access_stops s win off n .read data (65536 - off) (by rw [hrl]; omega)
        (by rw [s.bar2Stops_eq _ _ _ _ _ _ ho]; simp; omega)
        (fun j hj => by rw [s.bar2Stops_eq _ _ _ _ _ _ ho, hany]; simp; omega), State.outBad_outside, if_neg hbr,
        show 65536 * win + off + (65536 - off) = 65536 * (win + 1) by omega]
      rfl
    · intro va hc hrd
      have hany := bar2_mapped s.fab.bar2 m win Bar2Op.read.writes hom (fun h => by cases h)
      show execBar2Access win off n .read data s = _
      rw [execBar2Access_within s win off n .read data m (by rw [hrl]; exact hn) ho hom
        (fun j hj => by rw [hrl] at hj; rw [s.bar2Stops_eq _ _ _ _ _ _ ho, hany]; simp; omega),
        s.outReq_ordered _ rfl hh]
      obtain ⟨_, l1⟩ := s.outLand_cases { s.bar2Req win off n .read data with va := 65536 * m.page + off } .read 0
        (if_neg hn).symm (if_neg hn).symm
      have hrl' : ({ s.bar2Req win off n .read data with va := 65536 * m.page + off } : OutReq).len = n := hrl
      rw [hrl'] at l1
      rw [(l1 c hc).1 c l (by rw [State.outAccess_read _ _ _ _ _ _ _ rfl]; exact congrArg _ hrd), Option.getD_some, if_neg hbr]
      rfl
    all_goals
      have hany := bar2_mapped s.fab.bar2 m win (Bar2Op.write rl).writes hom (fun _ => hmw)
      show execBar2Access win off n (.write rl) data s = _
      rw [execBar2Access_within s win off n (.write rl) data m (by rw [hwl]; exact hpos) ho hom
        (fun j hj => by rw [hwl] at hj; rw [s.bar2Stops_eq _ _ _ _ _ _ ho, hany]; simp; omega)]
      subst hr
    · rw [s.outReq_relaxed _ rfl]
      rfl
    · rw [s.outReq_ordered _ rfl hh]
      obtain ⟨_, l1⟩ := s.outLand_cases { s.bar2Req win off n (.write false) data with va := 65536 * m.page + off } .write 1 rfl rfl
      rw [(l1 c hc).1 t [] (by rw [State.outAccess_write _ _ _ _ _ _ _ rfl]; exact congrArg _ hld)]
      rfl
  · intro v m hv hw
    have hi : ((s.vdev v).isNone || decide (65536 ≤ m.win)) = false := by
      rw [Option.isNone_eq_false_iff.mpr hv]
      simpa using hw
    refine ⟨_, congrArg Host.Outcome.next (if_neg (by rw [hi]; decide)), rfl, rfl, ?_, fun hne => ?_⟩
    · rw [List.find?_append, List.find?_eq_none.mpr ?_]
      · simp
      · intro x hx
        split at hx
        · simpa using (List.mem_filter.mp hx).2
        · cases hx
    · simp only [if_neg hne, List.nil_append]
  · intro g va tb hg hv
    have hi : (!grantOk g || (s.vdev g.evdev).isNone) = false := by
      rw [hg, Option.isNone_eq_false_iff.mpr hv]
      rfl
    refine ⟨_, congrArg Host.Outcome.next ((if_pos rfl).trans (if_neg (by rw [hi]; decide))), rfl, ?_⟩
    rw [List.find?_append, List.find?_eq_none.mpr ?_]
    · simp
    · intro x hx
      simpa [imp_iff_not_or] using (List.mem_filter.mp hx).2

end Sys2Proof.Machine
end

section
/-! ## Rounding, and the values of the formats (03_number_formats.md)

What the executable rounding of the model (`roundTo`, `Fmt.round`, `roundInt`) has to do with rational and real numbers. The
statements about numbers rest on `isRounding` and on `Fmt.mag`, the magnitude that an encoding stands for. -/
namespace Sys2Proof.Machine

/-! ### Rounding to an integer (R44) -/

section
variable {rnd : Nat} {x : ℝ} {n k : Int}

/-- A value up to an integer rounds to that integer at most. -/
theorem isRounding.le (h : isRounding rnd x n) (hx : x ≤ k) : n ≤ k := by
  by_contra hk
  have hk : ((k : ℝ) + 1) ≤ n := by exact_mod_cast not_le.mp hk
  unfold isRounding at h
  split at h
  · have := abs_le.mp h.1
    linarith
  · obtain ⟨h1, h2, h3, h4⟩ := h
    rcases le_total 0 x with h0 | h0
    · have hn : (0 : ℝ) ≤ n := by exact_mod_cast h3 h0
      rw [abs_of_nonneg hn, abs_of_nonneg h0] at h1
      linarith
    · have hn : (n : ℝ) ≤ 0 := by exact_mod_cast h4 h0
      rw [abs_of_nonpos hn, abs_of_nonpos h0] at h2
      linarith
  · linarith
  · linarith

/-- A value from an integer on rounds to that integer at least. -/
theorem isRounding.ge (h : isRounding rnd x n) (hx : k ≤ x) : k ≤ n := by
  by_contra hk
  have hk : ((n : ℝ) + 1) ≤ k := by exact_mod_cast not_le.mp hk
  unfold isRounding at h
  split at h
  · have := abs_le.mp h.1
    linarith
  · obtain ⟨h1, h2, h3, h4⟩ := h
    rcases le_total 0 x with h0 | h0
    · have hn : (0 : ℝ) ≤ n := by exact_mod_cast h3 h0
      rw [abs_of_nonneg hn, abs_of_nonneg h0] at h2
      linarith
    · have hn : (n : ℝ) ≤ 0 := by exact_mod_cast h4 h0
      rw [abs_of_nonpos hn, abs_of_nonpos h0] at h1
      linarith
  · linarith
  · linarith

/-- An integer rounds to itself. -/
theorem isRounding.eq (h : isRounding rnd (k : ℝ) n) : n = k := le_antisymm (h.le le_rfl) (h.ge le_rfl)

theorem isRounding_int (rnd : Nat) (k : Int) : isRounding rnd (k : ℝ) k := by
  unfold isRounding
  split <;> simp
end

/-- A magnitude with nothing cut off does not round up. -/
theorem roundUp_zero (rnd : Nat) (neg : Bool) (m sh : Nat) : roundUp rnd neg m 0 sh false = false := by
  unfold roundUp
  split
  · have hp : 0 ≠ 2 ^ (sh - 1) := (Nat.two_pow_pos _).ne
    simp [hp]
  · rfl
  · simp
  · simp

/-- The signed value of a magnitude. -/
def signed (neg : Bool) (x : ℝ) : ℝ := if neg then -x else x

theorem signed_zero (neg : Bool) : signed neg 0 = 0 := by cases neg <;> simp [signed]
theorem abs_signed (neg : Bool) (x : ℝ) (h : 0 ≤ x) : |signed neg x| = x := by
  cases neg <;> simp [signed, abs_of_nonneg h]
theorem signed_div (neg : Bool) (x y : ℝ) : signed neg x / y = signed neg (x / y) := by
  cases neg <;> simp [signed, neg_div]

/-- The signed integer of a magnitude. -/
def signedInt (neg : Bool) (m : Nat) : Int := if neg then -(m : Int) else m

theorem cast_signedInt (neg : Bool) (m : Nat) : ((signedInt neg m : Int) : ℝ) = signed neg m := by
  cases neg <;> simp [signed, signedInt]

/-- A magnitude rounded by what was cut off of it is a rounding of the signed value (R44). -/
theorem isRounding_roundUp (rnd : Nat) (neg : Bool) (m rem sh : Nat) (h : rem < 2 ^ sh) :
    isRounding rnd (signed neg (m + rem / 2 ^ sh))
      (signedInt neg (if roundUp rnd neg m rem sh false then m + 1 else m)) := by
  by_cases h0 : rem = 0
  · subst h0
    rw [roundUp_zero]
    have := isRounding_int rnd (signedInt neg m)
    rw [cast_signedInt] at this
    simpa using this
  · have hp : (0 : ℝ) < 2 ^ sh := by positivity
    have hpos : (0 : ℝ) < rem / 2 ^ sh := by positivity
    have hlt : (rem : ℝ) / 2 ^ sh < 1 := by
      rw [div_lt_one hp]
      exact_mod_cast h
    have hm : (0 : ℝ) ≤ m := Nat.cast_nonneg m
    generalize ht : (rem : ℝ) / 2 ^ sh = t at hpos hlt
    unfold isRounding roundUp
    split
    · have hsh : sh ≠ 0 := by
        rintro rfl
        omega
      have h2 : (2 : ℝ) ^ sh = 2 * 2 ^ (sh - 1) := by
        rw [← pow_succ', Nat.sub_add_cancel (Nat.pos_of_ne_zero hsh)]
      have hq : (0 : ℝ) < 2 ^ (sh - 1) := by positivity
      have ht' : (rem : ℝ) = t * (2 * 2 ^ (sh - 1)) := by rw [← ht, h2]; field_simp
      have hgt : 2 ^ (sh - 1) < rem ↔ 1 / 2 < t := by
        rw [← @Nat.cast_lt ℝ]
        push_cast
        rw [ht']
        constructor <;> intro h <;> nlinarith
      have heq : rem = 2 ^ (sh - 1) ↔ t = 1 / 2 := by
        rw [← @Nat.cast_inj ℝ]
        push_cast
        rw [ht']
        constructor <;> intro h <;> nlinarith
      simp only [hsh, if_false, Bool.false_or, Bool.or_eq_true, Bool.and_eq_true, decide_eq_true_eq, beq_iff_eq, hgt, heq]
      rcases lt_trichotomy t (1 / 2) with h1 | h1 | h1
      · rw [if_neg (by rintro (h | ⟨h, -⟩) <;> linarith), cast_signedInt]
        have habs : |signed neg (m + t) - signed neg m| = t := by
          cases neg <;> simp [signed, abs_of_pos hpos]
        rw [habs]
        exact ⟨h1.le, fun h => absurd h h1.ne⟩
      · subst h1
        by_cases hodd : m % 2 = 1
        · rw [if_pos (.inr ⟨rfl, hodd⟩), cast_signedInt]
          have habs : |signed neg ((m : ℝ) + 1 / 2) - signed neg ((m + 1 : Nat) : ℝ)| = 1 / 2 := by
            cases neg <;> simp only [signed, if_true, if_false, Bool.false_eq_true] <;> push_cast <;> rw [abs_eq (by norm_num)]
            · right; ring
            · left; ring
          rw [habs]
          refine ⟨le_rfl, fun _ => ?_⟩
          cases neg <;> simp [signedInt] <;> omega
        · rw [if_neg (by rintro (h | ⟨-, h⟩); exacts [absurd h (lt_irrefl _), hodd h]), cast_signedInt]
          have habs : |signed neg ((m : ℝ) + 1 / 2) - signed neg (m : ℝ)| = 1 / 2 := by
            cases neg <;> simp [signed, abs_of_pos]
          rw [habs]
          refine ⟨le_rfl, fun _ => ?_⟩
          cases neg <;> simp [signedInt] <;> omega
      · rw [if_pos (.inl h1), cast_signedInt]
        have habs : |signed neg ((m : ℝ) + t) - signed neg ((m + 1 : Nat) : ℝ)| = 1 - t := by
          cases neg <;> simp only [signed, if_true, if_false, Bool.false_eq_true] <;> push_cast <;> rw [abs_eq (by linarith)]
          · right; ring
          · left; ring
        rw [habs]
        exact ⟨by linarith, fun h => by linarith⟩
    · rw [if_neg (by simp), cast_signedInt, abs_signed _ _ hm, abs_signed _ _ (by linarith)]
      refine ⟨by linarith, by linarith, fun h => ?_, fun h => ?_⟩
      · cases neg
        · exact Int.natCast_nonneg m
        · simp only [signed, if_true] at h
          linarith
      · cases neg
        · simp only [signed, Bool.false_eq_true, if_false] at h
          linarith
        · simp [signedInt]
    · cases neg
      · simp only [Bool.false_and, Bool.false_eq_true, if_false, cast_signedInt, signed]
        constructor <;> linarith
      · simp only [Bool.true_and, Bool.or_false, decide_eq_true_eq, ne_eq, h0, not_false_iff, if_true, cast_signedInt, signed]
        push_cast
        constructor <;> linarith
    · cases neg
      · simp only [Bool.not_false, Bool.true_and, Bool.or_false, decide_eq_true_eq, ne_eq, h0, not_false_iff, if_true,
          cast_signedInt, signed, Bool.false_eq_true, if_false]
        push_cast
        constructor <;> linarith
      · simp only [Bool.not_true, Bool.false_and, Bool.false_eq_true, if_false, cast_signedInt, signed, if_true]
        constructor <;> linarith

theorem two_zpow_toNat (e u : Int) (h : u ≤ e) : (2 : ℝ) ^ (e - u).toNat = 2 ^ e / 2 ^ u := by
  rw [← zpow_sub₀ (by norm_num), ← zpow_natCast, Int.toNat_of_nonneg (by omega)]

/-- What `roundTo` answers is a rounding of the signed value in units of 2^u (R44). -/
theorem roundTo_isRounding (rnd : Nat) (neg : Bool) (q : Nat) (e u : Int) :
    isRounding rnd (signed neg (q * 2 ^ e / 2 ^ u)) (signedInt neg (roundTo rnd neg q e false u)) := by
  unfold roundTo
  split
  · next h =>
    have hq : (q : ℝ) * 2 ^ e / 2 ^ u = ((q * 2 ^ (e - u).toNat : Nat) : ℝ) + (0 : Nat) / 2 ^ 0 := by
      push_cast
      rw [two_zpow_toNat e u h]
      ring
    rw [hq]
    exact isRounding_roundUp rnd neg _ 0 0 (by decide)
  · next h =>
    have hq : (q : ℝ) * 2 ^ e / 2 ^ u = ((q / 2 ^ (u - e).toNat : Nat) : ℝ) + (q % 2 ^ (u - e).toNat : Nat) / 2 ^ (u - e).toNat := by
      have hd := Nat.div_add_mod q (2 ^ (u - e).toNat)
      have hd' : (q : ℝ) = 2 ^ (u - e).toNat * (q / 2 ^ (u - e).toNat : Nat) + (q % 2 ^ (u - e).toNat : Nat) := by
        exact_mod_cast hd.symm
      have h1 : (2 : ℝ) ^ e / 2 ^ u = 1 / 2 ^ (u - e).toNat := by
        rw [two_zpow_toNat u e (by omega), one_div_div]
      have hp : (0 : ℝ) < 2 ^ (u - e).toNat := by positivity
      rw [mul_div_assoc, h1]
      conv_lhs => rw [hd']
      field_simp
    rw [hq]
    exact isRounding_roundUp rnd neg _ _ _ (Nat.mod_lt _ (by positivity))

/-- A magnitude in whole units is rounded to itself. -/
theorem roundTo_exact (rnd : Nat) (neg : Bool) (q : Nat) (e u : Int) (h : u ≤ e) :
    roundTo rnd neg q e false u = q * 2 ^ (e - u).toNat := by
  simp only [roundTo, h, if_true, roundUp_zero, Bool.false_eq_true, if_false]

/-- A value converted to an integer is rounded (R46). -/
theorem roundInt_isRounding (rnd : Nat) (neg : Bool) (q : Nat) (e : Int) :
    isRounding rnd (signed neg (q * 2 ^ e)) (roundInt rnd neg q e false) := by
  have h := roundTo_isRounding rnd neg q e 0
  rw [zpow_zero, div_one] at h
  exact h

/-! ### The magnitudes of encodings (R39, Table 3-1) -/

/-- What the six formats have in common. -/
structure Fmt.Fine (f : Fmt) : Prop where
  fw : 1 ≤ f.fw
  ew : 1 ≤ f.ew
  inf : f.inf = true ↔ 2 ≤ f.nans
  none : f.nans = 0 ↔ f = e2m1

theorem Fmt.fine_of_mem {f : Fmt} (h : f ∈ [fp32, bf16, fp16, e4m3, e5m2, e2m1]) : f.Fine := by
  simp only [List.mem_cons, List.not_mem_nil, or_false] at h
  rcases h with rfl | rfl | rfl | rfl | rfl | rfl <;> exact ⟨by decide, by decide, by decide, by decide⟩

theorem fp32_fine : fp32.Fine := Fmt.fine_of_mem (by decide)
theorem fp16_fine : fp16.Fine := Fmt.fine_of_mem (by decide)
theorem bf16_fine : bf16.Fine := Fmt.fine_of_mem (by decide)

/-- The exponent of the subnormal grid (R44). -/
def Fmt.low (f : Fmt) : Int := 1 - f.bias - f.fw

/-- The magnitude that an encoding without its sign stands for, as if every exponent were finite. -/
def Fmt.mag (f : Fmt) (b : Nat) : ℚ :=
  if b / 2 ^ f.fw = 0 then ((b % 2 ^ f.fw : Nat) : ℚ) * 2 ^ f.low
  else ((2 ^ f.fw + b % 2 ^ f.fw : Nat) : ℚ) * 2 ^ ((b / 2 ^ f.fw : Nat) - 1 + f.low)

section
variable (f : Fmt)

/-- A magnitude of `m` units of 2^(E + low) is encoded by its exponent and fraction together; what fills up an exponent carries
into the next. -/
theorem Fmt.mag_eq (E m : Nat) (hm : m ≤ 2 ^ (f.fw + 1)) (hE : E = 0 ∨ 2 ^ f.fw ≤ m) :
    f.mag (E * 2 ^ f.fw + m) = (m : ℚ) * 2 ^ ((E : Int) + f.low) := by
  have hp : 0 < 2 ^ f.fw := Nat.two_pow_pos _
  rw [pow_succ] at hm
  unfold Fmt.mag
  by_cases h0 : m < 2 ^ f.fw
  · obtain rfl : E = 0 := hE.resolve_right (by omega)
    simp [Nat.div_eq_of_lt h0, Nat.mod_eq_of_lt h0]
  · by_cases h1 : m < 2 ^ f.fw * 2
    · obtain ⟨r, rfl⟩ : ∃ r, m = 2 ^ f.fw + r := ⟨m - 2 ^ f.fw, by omega⟩
      have hr : r < 2 ^ f.fw := by omega
      have he : E * 2 ^ f.fw + (2 ^ f.fw + r) = r + (E + 1) * 2 ^ f.fw := by ring
      rw [he, Nat.add_mul_div_right _ _ hp, Nat.add_mul_mod_self_right, Nat.div_eq_of_lt hr, Nat.mod_eq_of_lt hr, if_neg (by omega)]
      push_cast
      ring_nf
    · have hm : m = 2 ^ f.fw * 2 := by omega
      subst hm
      have he : E * 2 ^ f.fw + 2 ^ f.fw * 2 = 0 + (E + 2) * 2 ^ f.fw := by ring
      rw [he, Nat.add_mul_div_right _ _ hp, Nat.add_mul_mod_self_right, Nat.zero_div, Nat.zero_mod, if_neg (by omega)]
      have hz : (((0 + (E + 2) : Nat) : Int) - 1 + f.low) = 1 + ((E : Int) + f.low) := by push_cast; ring
      rw [hz, zpow_add₀ (by norm_num : (2 : ℚ) ≠ 0) 1]
      push_cast
      ring

theorem Fmt.mag_lt_succ (b : Nat) : f.mag b < f.mag (b + 1) := by
  have hp : 0 < 2 ^ f.fw := Nat.two_pow_pos _
  have hd := Nat.div_add_mod b (2 ^ f.fw)
  have hr : b % 2 ^ f.fw < 2 ^ f.fw := Nat.mod_lt _ hp
  have h2 : ∀ z : Int, (0 : ℚ) < 2 ^ z := fun z => by positivity
  rw [mul_comm] at hd
  by_cases h0 : b / 2 ^ f.fw = 0
  · have hb : b = 0 * 2 ^ f.fw + b % 2 ^ f.fw := by rw [← hd, h0]; simp
    have hb' : b + 1 = 0 * 2 ^ f.fw + (b % 2 ^ f.fw + 1) := by omega
    rw [hb', Fmt.mag_eq f 0 _ (by rw [pow_succ]; omega) (.inl rfl), hb, Fmt.mag_eq f 0 _ (by rw [pow_succ]; omega) (.inl rfl),
      ← hb]
    exact mul_lt_mul_of_pos_right (by push_cast; linarith) (h2 _)
  · obtain ⟨E, hE⟩ : ∃ E, b / 2 ^ f.fw = E + 1 := Nat.exists_eq_succ_of_ne_zero h0
    have hb : b = E * 2 ^ f.fw + (2 ^ f.fw + b % 2 ^ f.fw) := by rw [hE] at hd; rw [← hd]; simp; ring
    have hb' : b + 1 = E * 2 ^ f.fw + (2 ^ f.fw + b % 2 ^ f.fw + 1) := by rw [← Nat.add_assoc, ← hb]
    rw [hb', Fmt.mag_eq f E _ (by rw [pow_succ]; omega) (.inr (by omega)), hb,
      Fmt.mag_eq f E _ (by rw [pow_succ]; omega) (.inr (by omega)), ← hb]
    exact mul_lt_mul_of_pos_right (by push_cast; linarith) (h2 _)

theorem Fmt.mag_strictMono : StrictMono f.mag := strictMono_nat_of_lt_succ f.mag_lt_succ

theorem Fmt.mag_zero : f.mag 0 = 0 := by simp [Fmt.mag]

theorem Fmt.mag_nonneg (b : Nat) : 0 ≤ f.mag b := by
  rw [← f.mag_zero]
  exact f.mag_strictMono.monotone (Nat.zero_le b)

/-! ### Encodings (R39) -/

theorem Fmt.width_pred : f.width - 1 = f.fw + f.ew := by unfold Fmt.width; omega

theorem Fmt.signBit_eq (n : Bool) : f.signBit n = (if n then 1 else 0) * 2 ^ (f.fw + f.ew) := by
  cases n <;> simp [Fmt.signBit, Nat.add_comm]

/-- Every encoding is a sign bit and the rest. -/
theorem Fmt.split (x : Nat) (hx : x < 2 ^ f.width) :
    x = f.signBit (decide (2 ^ (f.width - 1) ≤ x)) + x % 2 ^ (f.fw + f.ew) := by
  have hw : f.width = f.fw + f.ew + 1 := by unfold Fmt.width; omega
  rw [f.width_pred, f.signBit_eq]
  rw [hw, pow_succ] at hx
  have hd := Nat.div_add_mod x (2 ^ (f.fw + f.ew))
  by_cases h : 2 ^ (f.fw + f.ew) ≤ x
  · have h1 : x / 2 ^ (f.fw + f.ew) = 1 := by
      rw [Nat.div_eq_iff (Nat.two_pow_pos _)]
      omega
    rw [h1] at hd
    simp only [h, decide_true, if_true]
    omega
  · simp only [h, decide_false, Bool.false_eq_true, if_false]
    rw [Nat.mod_eq_of_lt (by omega)]
    omega

/-- The fields of an encoding. -/
theorem Fmt.fields (n : Bool) (b : Nat) (hb : b < 2 ^ (f.fw + f.ew)) :
    (f.signBit n + b) % 2 ^ f.fw = b % 2 ^ f.fw ∧ (f.signBit n + b) / 2 ^ f.fw % 2 ^ f.ew = b / 2 ^ f.fw
      ∧ ((f.signBit n + b) / 2 ^ (f.fw + f.ew) % 2 == 1) = n := by
  have hp : 0 < 2 ^ f.fw := Nat.two_pow_pos _
  have hs : f.signBit n = 2 ^ f.fw * ((if n then 1 else 0) * 2 ^ f.ew) := by rw [f.signBit_eq, pow_add]; ring
  have hbe : b / 2 ^ f.fw < 2 ^ f.ew := Nat.div_lt_of_lt_mul (by rw [← pow_add]; exact hb)
  refine ⟨?_, ?_, ?_⟩
  · rw [hs, Nat.mul_add_mod]
  · rw [hs, Nat.mul_add_div hp, Nat.mul_comm _ (2 ^ f.ew), Nat.mul_add_mod, Nat.mod_eq_of_lt hbe]
  · rw [f.signBit_eq, Nat.mul_comm, Nat.mul_add_div (Nat.two_pow_pos _), Nat.div_eq_of_lt hb]
    cases n <;> rfl

/-- The exponent of an encoding is below the one that is all ones, or is it. -/
theorem Fmt.exp_le (b : Nat) (hb : b < 2 ^ (f.fw + f.ew)) : b / 2 ^ f.fw ≤ 2 ^ f.ew - 1 := by
  have hbe : b / 2 ^ f.fw < 2 ^ f.ew := Nat.div_lt_of_lt_mul (by rw [← pow_add]; exact hb)
  omega

/-- What lies at the exponent that is all ones. -/
theorem Fmt.top_iff (b : Nat) (hb : b < 2 ^ (f.fw + f.ew)) :
    b / 2 ^ f.fw = 2 ^ f.ew - 1 ↔ (2 ^ f.ew - 1) * 2 ^ f.fw ≤ b := by
  rw [← Nat.le_div_iff_mul_le (Nat.two_pow_pos _)]
  have := f.exp_le b hb
  omega

theorem Fmt.maxBits_lt : f.maxBits < 2 ^ (f.fw + f.ew) := by
  have hp : 0 < 2 ^ f.fw := Nat.two_pow_pos _
  have h1 : (2 ^ f.ew - 1) * 2 ^ f.fw + 2 ^ f.fw = 2 ^ (f.fw + f.ew) := by
    rw [← Nat.succ_mul, Nat.succ_eq_add_one, Nat.sub_add_cancel Nat.one_le_two_pow, pow_add]; ring
  have h2 := Nat.two_pow_pos (f.fw + f.ew)
  unfold Fmt.maxBits
  rw [Nat.add_comm f.ew f.fw]
  split
  · omega
  · omega
  · omega

/-- A finite value, by its sign and its magnitude. -/
theorem FV.rat_fin (n : Bool) (m : Nat) (e : Int) : (FV.fin n m e).rat = (if n then -1 else 1) * ((m : ℚ) * 2 ^ e) := rfl

/-- What an encoding up to the largest finite one stands for (R39). -/
theorem Fmt.decode_finite (hf : f.Fine) (n : Bool) (b : Nat) (hb : b ≤ f.maxBits) :
    ∃ m e, f.decode (f.signBit n + b) = .fin n m e ∧ (m : ℚ) * 2 ^ e = f.mag b ∧ m < 2 ^ (f.fw + 1) := by
  have hlt := lt_of_le_of_lt hb f.maxBits_lt
  obtain ⟨h1, h2, h3⟩ := f.fields n b hlt
  have hp : 0 < 2 ^ f.fw := Nat.two_pow_pos _
  have hd := Nat.div_add_mod b (2 ^ f.fw)
  have hr : b % 2 ^ f.fw < 2 ^ f.fw := Nat.mod_lt _ hp
  have htop := f.top_iff b hlt
  have hnan1 : ¬(f.nans = 1 ∧ (b / 2 ^ f.fw == 2 ^ f.ew - 1) = true ∧ b % 2 ^ f.fw = 2 ^ f.fw - 1) := by
    rintro ⟨hn, ht, hfr⟩
    rw [beq_iff_eq] at ht
    have hb' : b = 2 ^ (f.fw + f.ew) - 1 := by
      rw [ht, hfr] at hd
      have h1 : 2 ^ f.fw * (2 ^ f.ew - 1) + 2 ^ f.fw = 2 ^ (f.fw + f.ew) := by
        rw [← Nat.mul_succ, Nat.succ_eq_add_one, Nat.sub_add_cancel Nat.one_le_two_pow, pow_add]
      omega
    have h2 := Nat.pow_le_pow_right (show 1 ≤ 2 by decide) (show 1 ≤ f.fw + f.ew by have := hf.fw; omega)
    simp only [Fmt.maxBits, hn, Nat.add_comm f.ew f.fw] at hb
    omega
  have hnan2 : 2 ≤ f.nans → ¬(b / 2 ^ f.fw == 2 ^ f.ew - 1) = true := by
    intro hn ht
    rw [beq_iff_eq, htop] at ht
    have hm : f.maxBits = (2 ^ f.ew - 1) * 2 ^ f.fw - 1 := by
      unfold Fmt.maxBits
      split
      · omega
      · omega
      · rfl
    have h2 := Nat.pow_le_pow_right (show 1 ≤ 2 by decide) hf.ew
    have h3 := Nat.le_mul_of_pos_left (2 ^ f.fw) (show 0 < 2 ^ f.ew - 1 by omega)
    omega
  simp only [Fmt.decode, h1, h2, h3]
  rw [if_neg hnan1, if_neg (fun h => hnan2 h.1 h.2.1), if_neg (fun h => hnan2 (hf.inf.mp h.1) h.2)]
  by_cases h0 : b / 2 ^ f.fw = 0
  · rw [if_pos h0]
    refine ⟨_, _, rfl, ?_, ?_⟩
    · simp only [Fmt.mag, h0, if_true]
      rfl
    · rw [pow_succ]
      omega
  · rw [if_neg h0]
    refine ⟨_, _, rfl, ?_, ?_⟩
    · simp only [Fmt.mag, h0, if_false]
      congr 2
      unfold Fmt.low
      ring
    · rw [pow_succ]
      omega

/-- What an encoding beyond the largest finite one stands for: an infinity or a NaN (Table 3-1). -/
theorem Fmt.decode_beyond (hf : f.Fine) (n : Bool) (b : Nat) (hb : f.maxBits < b) (hlt : b < 2 ^ (f.fw + f.ew)) :
    (f.inf = true ∧ b = (2 ^ f.ew - 1) * 2 ^ f.fw ∧ f.decode (f.signBit n + b) = .inf n)
    ∨ (f.decode (f.signBit n + b)).isNan = true := by
  obtain ⟨h1, h2, h3⟩ := f.fields n b hlt
  have hd := Nat.div_add_mod b (2 ^ f.fw)
  have htop := f.top_iff b hlt
  have hones : 2 ^ f.fw * (2 ^ f.ew - 1) + 2 ^ f.fw = 2 ^ (f.fw + f.ew) := by
    rw [← Nat.mul_succ, Nat.succ_eq_add_one, Nat.sub_add_cancel Nat.one_le_two_pow, pow_add]
  have hcomm := Nat.mul_comm (2 ^ f.fw) (2 ^ f.ew - 1)
  simp only [Fmt.decode, h1, h2, h3, beq_iff_eq]
  unfold Fmt.maxBits at hb
  rw [Nat.add_comm f.ew f.fw] at hb
  split at hb
  · omega
  · next hn =>
    have ht : b / 2 ^ f.fw = 2 ^ f.ew - 1 := htop.mpr (by have := Nat.two_pow_pos f.fw; omega)
    refine .inr ?_
    rw [if_pos ⟨hn, ht, by rw [ht] at hd; omega⟩]
    rfl
  · next h0 hn =>
    have ht : b / 2 ^ f.fw = 2 ^ f.ew - 1 := htop.mpr (Nat.le_of_pred_lt hb)
    have h0' : f.nans ≠ 0 := h0
    have h1' : f.nans ≠ 1 := hn
    have h2n : 2 ≤ f.nans := by omega
    by_cases hfr : b % 2 ^ f.fw = 0
    · refine .inl ⟨hf.inf.mpr h2n, by rw [ht, hfr] at hd; omega, ?_⟩
      rw [if_neg (fun h => hn h.1), if_neg (fun h => h.2.2 hfr), if_pos ⟨hf.inf.mpr h2n, ht⟩]
    · refine .inr ?_
      rw [if_neg (fun h => hn h.1), if_pos ⟨h2n, ht, hfr⟩]
      rfl

/-! ### Rounding into a format (R44, R45) -/

/-- The unit at which a magnitude is rounded is the spacing of the format there (R44). -/
theorem Fmt.unit_spacing (neg : Bool) (q : Nat) (e : Int) (hq : q ≠ 0) :
    f.spacing (signed neg (q * 2 ^ e)) (f.unit q e) ∧ (q : ℝ) * 2 ^ e < 2 ^ (f.unit q e + f.fw + 1)
      ∧ (f.unit q e = f.low ∨ (2 : ℝ) ^ (f.unit q e + f.fw) ≤ q * 2 ^ e) ∧ f.low ≤ f.unit q e := by
  have hlo : (2 : ℝ) ^ ((Nat.log2 q : Int) + e) ≤ q * 2 ^ e := by
    rw [zpow_add₀ (by norm_num), zpow_natCast]
    exact mul_le_mul_of_nonneg_right (by exact_mod_cast Nat.log2_self_le hq) (by positivity)
  have hhi : (q : ℝ) * 2 ^ e < 2 ^ ((Nat.log2 q : Int) + e + 1) := by
    rw [show (Nat.log2 q : Int) + e + 1 = ((Nat.log2 q + 1 : Nat) : Int) + e by push_cast; ring, zpow_add₀ (by norm_num), zpow_natCast]
    exact mul_lt_mul_of_pos_right (by exact_mod_cast Nat.lt_log2_self) (by positivity)
  have habs : |signed neg ((q : ℝ) * 2 ^ e)| = q * 2 ^ e := abs_signed _ _ (by positivity)
  unfold Fmt.spacing Fmt.unit
  rw [habs]
  rcases le_total (1 - (f.bias : Int) - f.fw) ((Nat.log2 q : Int) + e - f.fw) with h | h
  · rw [max_eq_left h]
    have h1 : (Nat.log2 q : Int) + e - f.fw + f.fw = (Nat.log2 q : Int) + e := by ring
    rw [h1]
    exact ⟨.inl ⟨h, hlo, hhi⟩, hhi, .inr hlo, h⟩
  · rw [max_eq_right h]
    have hlt : (q : ℝ) * 2 ^ e < 2 ^ (1 - (f.bias : Int) - f.fw + f.fw + 1) :=
      hhi.trans_le (zpow_le_zpow_right₀ (by norm_num) (by omega))
    exact ⟨.inr ⟨rfl, hlt⟩, hlt, .inl rfl, le_rfl⟩

/-- The encoding that rounding gives stands for the rounded magnitude (R44). -/
theorem Fmt.mag_round (rnd : Nat) (neg : Bool) (q : Nat) (e : Int) (hq : q ≠ 0) :
    f.mag ((f.unit q e + f.fw + f.bias - 1).toNat * 2 ^ f.fw + roundTo rnd neg q e false (f.unit q e))
      = (roundTo rnd neg q e false (f.unit q e) : ℚ) * 2 ^ f.unit q e := by
  obtain ⟨-, hlt, hge, hlow⟩ := f.unit_spacing false q e hq
  have hp : (0 : ℝ) < 2 ^ f.unit q e := by positivity
  have hr := roundTo_isRounding rnd neg q e (f.unit q e)
  generalize hM : roundTo rnd neg q e false (f.unit q e) = M at hr ⊢
  generalize f.unit q e = u at *
  have hx : (q : ℝ) * 2 ^ e / 2 ^ u ≤ ((2 ^ (f.fw + 1) : Nat) : ℝ) := by
    rw [div_le_iff₀ hp]
    push_cast
    rw [← zpow_natCast, ← zpow_add₀ (by norm_num)]
    convert hlt.le using 2
    push_cast
    ring
  have hM1 : M ≤ 2 ^ (f.fw + 1) := by
    cases neg with
    | false => exact Int.ofNat_le.mp (hr.le (k := ((2 ^ (f.fw + 1) : Nat) : Int)) (by rw [Int.cast_natCast]; exact hx))
    | true =>
      have h := hr.ge (k := -((2 ^ (f.fw + 1) : Nat) : Int)) (by
        rw [Int.cast_neg, Int.cast_natCast]
        exact neg_le_neg hx)
      simp only [signedInt, if_true] at h
      omega
  have hM2 : (u + f.fw + f.bias - 1).toNat = 0 ∨ 2 ^ f.fw ≤ M := by
    rcases hge with hge | hge
    · left
      unfold Fmt.low at hge
      omega
    · right
      have hy : ((2 ^ f.fw : Nat) : ℝ) ≤ (q : ℝ) * 2 ^ e / 2 ^ u := by
        rw [le_div_iff₀ hp]
        push_cast
        rw [← zpow_natCast, ← zpow_add₀ (by norm_num), add_comm (f.fw : Int)]
        exact hge
      cases neg with
      | false => exact Int.ofNat_le.mp (hr.ge (k := ((2 ^ f.fw : Nat) : Int)) (by rw [Int.cast_natCast]; exact hy))
      | true =>
        have h := hr.le (k := -((2 ^ f.fw : Nat) : Int)) (by
          rw [Int.cast_neg, Int.cast_natCast]
          exact neg_le_neg hy)
        simp only [signedInt, if_true] at h
        omega
  rw [f.mag_eq _ _ hM1 hM2]
  congr 2
  unfold Fmt.low at hlow ⊢
  omega

/-- The largest finite value (Table 3-1). -/
theorem Fmt.maxBits_rat (hf : f.Fine) : (f.decode f.maxBits).rat = f.mag f.maxBits := by
  obtain ⟨m, e, hd, hm, -⟩ := f.decode_finite hf false f.maxBits le_rfl
  rw [show f.signBit false + f.maxBits = f.maxBits by simp [Fmt.signBit]] at hd
  rw [hd, FV.rat_fin, hm]
  simp

/-- A finite encoding, as what it stands for. -/
theorem Fmt.finite_of_le (hf : f.Fine) (n : Bool) (b : Nat) (hb : b ≤ f.maxBits) :
    f.signBit n + b < 2 ^ f.width ∧ (f.decode (f.signBit n + b)).isNan = false ∧ (f.decode (f.signBit n + b)).isInf = false
      ∧ (f.decode (f.signBit n + b)).rat = (if n then -1 else 1) * f.mag b ∧ (f.decode (f.signBit n + b)).neg = n := by
  obtain ⟨m, e, hd, hm, -⟩ := f.decode_finite hf n b hb
  have hlt := lt_of_le_of_lt hb f.maxBits_lt
  refine ⟨?_, by rw [hd]; rfl, by rw [hd]; rfl, by rw [hd, FV.rat_fin, hm], by rw [hd]; rfl⟩
  have hw : f.width = f.fw + f.ew + 1 := by unfold Fmt.width; omega
  rw [f.signBit_eq, hw, pow_succ]
  cases n <;> simp <;> omega

/-- What the model gives on overflow is Table 3-2. -/
theorem Fmt.overflow_eq (hf : f.Fine) (rnd : Nat) (neg sat : Bool) : f.overflow rnd neg sat
    = (if sat = false ∧ (match rnd with | 0 => true | 1 => false | 2 => neg | _ => !neg) = true ∧ f ≠ e2m1 then
        (if f.inf then f.infBits neg else f.canon) else f.signBit neg + f.maxBits) := by
  unfold Fmt.overflow
  cases sat
  · by_cases h0 : f.nans = 0
    · rw [if_neg Bool.false_ne_true, if_pos h0, if_neg (fun h => h.2.2 (hf.none.mp h0))]
    · have hne : f ≠ e2m1 := fun h => h0 (hf.none.mpr h)
      simp only [h0, hne, ne_eq, not_false_iff, and_true, true_and, if_false, Bool.false_eq_true]
      split <;> cases neg <;> simp
  · simp

/-- A finite magnitude rounded once into a format (R44, R45). -/
theorem Fmt.round_rounds (hf : f.Fine) (rnd : Nat) (sat neg : Bool) (q : Nat) (e : Int) (hq : q ≠ 0) :
    f.rounds rnd sat (signed neg (q * 2 ^ e)) (f.round rnd sat neg q e false).1 (f.round rnd sat neg q e false).2 := by
  obtain ⟨hs, -, -, -⟩ := f.unit_spacing neg q e hq
  have hm := f.mag_round rnd neg q e hq
  have hpos : (0 : ℝ) < q * 2 ^ e := by positivity
  refine ⟨f.unit q e, signedInt neg (roundTo rnd neg q e false (f.unit q e)), neg, hs, ?_, ?_, ?_⟩
  · rw [signed_div]
    exact roundTo_isRounding rnd neg q e _
  · cases neg with
    | false => simp only [signed, Bool.false_eq_true, if_false, false_iff, not_lt]; exact hpos.le
    | true => simp only [signed, if_true, true_iff]; linarith
  · have hr : ((signedInt neg (roundTo rnd neg q e false (f.unit q e)) : Int) : ℚ) * 2 ^ f.unit q e
        = (if neg then -1 else 1) * f.mag ((f.unit q e + f.fw + f.bias - 1).toNat * 2 ^ f.fw + roundTo rnd neg q e false (f.unit q e)) := by
      rw [hm]
      cases neg <;> simp [signedInt]
    have habs : |((signedInt neg (roundTo rnd neg q e false (f.unit q e)) : Int) : ℚ) * 2 ^ f.unit q e|
        = f.mag ((f.unit q e + f.fw + f.bias - 1).toNat * 2 ^ f.fw + roundTo rnd neg q e false (f.unit q e)) := by
      rw [hr, abs_mul, abs_of_nonneg (f.mag_nonneg _)]
      cases neg <;> simp
    dsimp only
    by_cases h : f.maxBits < (f.unit q e + f.fw + f.bias - 1).toNat * 2 ^ f.fw + roundTo rnd neg q e false (f.unit q e)
    · rw [if_pos (by rw [habs, f.maxBits_rat hf]; exact f.mag_strictMono h)]
      simp only [Fmt.round, if_neg hq, gt_iff_lt, if_pos h]
      exact ⟨trivial, f.overflow_eq hf rnd neg sat⟩
    · rw [if_neg (by rw [habs, f.maxBits_rat hf, f.mag_strictMono.lt_iff_lt]; exact h)]
      simp only [Fmt.round, if_neg hq, gt_iff_lt, if_neg h]
      obtain ⟨h1, h2, h3, h4, h5⟩ := f.finite_of_le hf neg _ (not_lt.mp h)
      exact ⟨trivial, h1, h2, h3, h4.trans hr.symm, h5⟩

/-- A magnitude of whole units is rounded to itself. -/
theorem Fmt.round_exact (rnd : Nat) (sat neg : Bool) (q : Nat) (e : Int) (k : Nat) (hq : q ≠ 0)
    (hk : (q : ℝ) * 2 ^ e = k * 2 ^ f.unit q e) (hmax : (q : ℚ) * 2 ^ e ≤ f.mag f.maxBits) :
    ∃ b, b ≤ f.maxBits ∧ f.mag b = (q : ℚ) * 2 ^ e ∧ f.round rnd sat neg q e false = (f.signBit neg + b, Exc.none) := by
  have hm := f.mag_round rnd neg q e hq
  have hM : roundTo rnd neg q e false (f.unit q e) = k := by
    have hr := roundTo_isRounding rnd neg q e (f.unit q e)
    rw [hk, mul_div_cancel_right₀ _ (by positivity), ← cast_signedInt] at hr
    have := hr.eq
    cases neg <;> simp only [signedInt, if_true, if_false, Bool.false_eq_true] at this <;> omega
  have hv : f.mag ((f.unit q e + f.fw + f.bias - 1).toNat * 2 ^ f.fw + roundTo rnd neg q e false (f.unit q e)) = (q : ℚ) * 2 ^ e := by
    rw [hm, hM, ← @Rat.cast_inj ℝ]
    push_cast
    exact hk.symm
  have hle := f.mag_strictMono.le_iff_le.mp (hv.trans_le hmax)
  refine ⟨_, hle, hv, ?_⟩
  simp only [Fmt.round, if_neg hq]
  rw [if_neg (by omega)]

/-- A magnitude in units of at least its own is a whole number of them. -/
theorem Fmt.whole_units (q : Nat) (e u : Int) (h : u ≤ e) : (q : ℝ) * 2 ^ e = (q * 2 ^ (e - u).toNat : Nat) * 2 ^ u := by
  push_cast
  rw [two_zpow_toNat e u h, mul_assoc, div_mul_cancel₀ _ (by positivity)]

end

end Sys2Proof.Machine
end

section
/-! ## Exact sums of products, and what they round to (R42, R55, R128) -/
namespace Sys2Proof.Machine

/-! ### Dyadic values -/

/-- The rational number that a dyadic value is. -/
def Dy.rat (d : Dy) : ℚ := (d.m : ℚ) * 2 ^ d.e

theorem two_zpow_split (a b : Int) (h : b ≤ a) : (2 : ℚ) ^ (a - b).toNat * 2 ^ b = 2 ^ a := by
  rw [← zpow_natCast, Int.toNat_of_nonneg (by omega), ← zpow_add₀ (by norm_num)]
  congr 1
  omega

theorem Dy.rat_add (a b : Dy) : (a.add b).rat = a.rat + b.rat := by
  unfold Dy.rat Dy.add
  push_cast
  rw [add_mul, mul_assoc, mul_assoc, two_zpow_split _ _ (min_le_left _ _), two_zpow_split _ _ (min_le_right _ _)]

theorem Dy.rat_mul (a b : Dy) : (a.mul b).rat = a.rat * b.rat := by
  unfold Dy.rat Dy.mul
  push_cast
  rw [zpow_add₀ (by norm_num)]
  ring

theorem Dy.rat_eq_zero (d : Dy) : d.rat = 0 ↔ d.m = 0 := by
  have h : (2 : ℚ) ^ d.e ≠ 0 := by positivity
  simp [Dy.rat, h]

theorem Dy.rat_neg (d : Dy) : d.rat < 0 ↔ d.m < 0 := by
  have h : (0 : ℚ) < 2 ^ d.e := by positivity
  unfold Dy.rat
  rw [← Int.cast_lt (R := ℚ), Int.cast_zero]
  constructor
  · intro hn
    by_contra hm
    exact absurd hn (not_lt.mpr (mul_nonneg (not_lt.mp hm) h.le))
  · exact fun hm => mul_neg_of_neg_of_pos hm h

theorem dyOf_rat (n : Bool) (m : Nat) (e : Int) : (dyOf n m e).rat = (FV.fin n m e).rat := by
  cases n <;> simp [dyOf, Dy.rat, FV.rat]

theorem sumDy_rat (l : List FV) : (sumDy l).rat = (l.map FV.rat).sum := by
  induction l with
  | nil => simp [sumDy, Dy.rat]
  | cons x l ih =>
    rw [List.map_cons, List.sum_cons, ← ih]
    cases x with
    | fin n m e =>
      by_cases hm : m = 0
      · subst hm
        simp [sumDy, FV.rat]
      · simp only [sumDy, hm, if_false]
        rw [Dy.rat_add, dyOf_rat]
    | inf n => simp [sumDy, FV.rat]
    | nan s => simp [sumDy, FV.rat]

/-! ### Values -/

theorem FV.isNan_of_isSig {a : FV} (h : a.isNan = false) : a.isSig = false := by
  cases a <;> first | rfl | cases h

theorem FV.negate_rat (a : FV) : a.negate.rat = -a.rat := by
  cases a with
  | fin n m e => cases n <;> simp [FV.negate, FV.rat]
  | inf n => simp [FV.negate, FV.rat]
  | nan s => simp [FV.negate, FV.rat]

@[simp] theorem FV.negate_isNan (a : FV) : a.negate.isNan = a.isNan := by cases a <;> rfl
@[simp] theorem FV.negate_isInf (a : FV) : a.negate.isInf = a.isInf := by cases a <;> rfl
@[simp] theorem FV.negate_isZero (a : FV) : a.negate.isZero = a.isZero := by cases a <;> rfl
theorem FV.negate_neg (a : FV) (h : a.isNan = false) : a.negate.neg = !a.neg := by
  cases a <;> first | rfl | cases h

/-- What a product of values is (R42, Table 3-5). -/
theorem FV.mul_cases (a b : FV) :
    ((a.isNan || b.isNan || (a.isInf && b.isZero) || (a.isZero && b.isInf)) = true → (a.mul b).isNan = true)
    ∧ ((a.isNan || b.isNan || (a.isInf && b.isZero) || (a.isZero && b.isInf)) = false →
      (a.mul b).isNan = false ∧ (a.mul b).isInf = (a.isInf || b.isInf) ∧ (a.mul b).neg = (a.neg != b.neg)
      ∧ (a.mul b).isZero = (a.isZero || b.isZero) ∧ ((a.isInf || b.isInf) = false → (a.mul b).rat = a.rat * b.rat)) := by
  cases a with
  | nan s => exact ⟨fun _ => rfl, fun h => by cases h⟩
  | inf n =>
    cases b with
    | nan s => exact ⟨fun _ => rfl, fun h => by cases h⟩
    | inf k => exact ⟨fun h => (by cases h), fun _ => ⟨rfl, rfl, rfl, rfl, fun h => by cases h⟩⟩
    | fin k m e =>
      by_cases hm : m = 0
      · subst hm
        exact ⟨fun _ => rfl, fun h => by cases h⟩
      · simp [FV.mul, FV.isZero, FV.isInf, FV.isNan, FV.neg, hm]
  | fin n m e =>
    cases b with
    | nan s => exact ⟨fun _ => rfl, fun h => by cases h⟩
    | inf k =>
      by_cases hm : m = 0
      · subst hm
        exact ⟨fun _ => rfl, fun h => by cases h⟩
      · simp [FV.mul, FV.isZero, FV.isInf, FV.isNan, FV.neg, hm]
    | fin k m' e' =>
      refine ⟨fun h => (by simp [FV.isNan, FV.isInf] at h), fun _ => ⟨rfl, rfl, rfl, ?_, fun _ => ?_⟩⟩
      · simp [FV.mul, FV.isZero, Bool.decide_or, Bool.beq_eq_decide_eq]
      · simp only [FV.mul, FV.rat]
        rw [zpow_add₀ (by norm_num)]
        push_cast
        cases n <;> cases k <;> simp <;> ring

/-! ### Products as terms -/

/-- A product's terms hold no number: 0 × ∞. -/
def Term.bad (t : Term) : Bool := t.isInf && t.isZero

/-- `p` is the value of the product `t`. -/
structure Term.Gives (t : Term) (p : FV) : Prop where
  nan : (t.fs.any FV.isNan || t.bad) = true → p.isNan = true
  num : (t.fs.any FV.isNan || t.bad) = false → p.isNan = false ∧ p.isInf = t.isInf ∧ p.neg = t.sign ∧ p.isZero = t.isZero
    ∧ (t.isInf = false → p.rat = t.rat)

theorem Term.gives_one (a : FV) : Term.Gives ⟨false, [a]⟩ a := by
  refine ⟨fun h => ?_, fun h => ?_⟩
  · simp only [Term.bad, Term.isInf, Term.isZero, List.any_cons, List.any_nil, Bool.or_false] at h
    cases a <;> simp [FV.isNan, FV.isInf, FV.isZero] at h ⊢
  · simp only [List.any_cons, List.any_nil, Bool.or_false, Bool.or_eq_false_iff] at h
    exact ⟨h.1, by simp [Term.isInf], by simp [Term.sign], by simp [Term.isZero], fun _ => by simp [Term.rat]⟩

theorem foldl_xor (l : List FV) (b c : Bool) :
    l.foldl (fun b x => b != x.neg) (b != c) = (l.foldl (fun b x => b != x.neg) b != c) := by
  induction l generalizing b with
  | nil => rfl
  | cons x l ih =>
    rw [List.foldl_cons, List.foldl_cons, ← ih]
    congr 1
    cases b <;> cases c <;> cases x.neg <;> rfl

/-- The negated product. -/
theorem Term.Gives.negate {t : Term} {p : FV} (h : t.Gives p) : Term.Gives ⟨!t.neg, t.fs⟩ p.negate := by
  have hsign : Term.sign ⟨!t.neg, t.fs⟩ = !t.sign := by
    unfold Term.sign
    have := foldl_xor t.fs t.neg true
    simpa using this
  refine ⟨fun hn => by rw [FV.negate_isNan]; exact h.nan hn, fun hn => ?_⟩
  obtain ⟨h1, h2, h3, h4, h5⟩ := h.num hn
  refine ⟨by rw [FV.negate_isNan]; exact h1, by rw [FV.negate_isInf]; exact h2, by rw [p.negate_neg h1, h3, hsign],
    by rw [FV.negate_isZero]; exact h4, fun hi => ?_⟩
  rw [p.negate_rat, h5 hi]
  cases ht : t.neg <;> simp [Term.rat, ht]

/-- A product by one factor more. -/
theorem Term.Gives.mul {t : Term} {p : FV} (h : t.Gives p) (b : FV) : Term.Gives ⟨t.neg, t.fs ++ [b]⟩ (p.mul b) := by
  obtain ⟨hm1, hm2⟩ := FV.mul_cases p b
  have hany : (t.fs ++ [b]).any FV.isNan = (t.fs.any FV.isNan || b.isNan) := by simp
  have hinf : Term.isInf ⟨t.neg, t.fs ++ [b]⟩ = (t.isInf || b.isInf) := by simp [Term.isInf]
  have hzero : Term.isZero ⟨t.neg, t.fs ++ [b]⟩ = (t.isZero || b.isZero) := by simp [Term.isZero]
  have hsign : Term.sign ⟨t.neg, t.fs ++ [b]⟩ = (t.sign != b.neg) := by simp [Term.sign]
  have hb : b.isInf = true → b.isZero = false := by cases b <;> simp [FV.isInf, FV.isZero]
  by_cases hn : (t.fs.any FV.isNan || t.bad) = true
  · have hp := h.nan hn
    have hm := hm1 (by simp [hp])
    refine ⟨fun _ => hm, fun hk => ?_⟩
    simp only [Term.bad, hany, hinf, hzero] at hk hn
    cases hx : t.fs.any FV.isNan <;> cases hi : t.isInf <;> cases hz : t.isZero <;> simp_all
  · have hn := Bool.eq_false_iff.mpr hn
    obtain ⟨h1, h2, h3, h4, h5⟩ := h.num hn
    have hcond : ((t.fs ++ [b]).any FV.isNan || Term.bad ⟨t.neg, t.fs ++ [b]⟩)
        = (p.isNan || b.isNan || (p.isInf && b.isZero) || (p.isZero && b.isInf)) := by
      simp only [Term.bad, hany, hinf, hzero, h1, h2, h4] at hn ⊢
      cases hx : t.fs.any FV.isNan <;> cases hi : t.isInf <;> cases hz : t.isZero <;> cases hbn : b.isNan <;> cases hbi : b.isInf <;>
        cases hbz : b.isZero <;> simp_all
    refine ⟨fun hk => hm1 (hcond ▸ hk), fun hk => ?_⟩
    obtain ⟨k1, k2, k3, k4, k5⟩ := hm2 (hcond ▸ hk)
    refine ⟨k1, by rw [k2, h2, hinf], by rw [k3, h3, hsign], by rw [k4, h4, hzero], fun hi => ?_⟩
    rw [hinf, Bool.or_eq_false_iff] at hi
    rw [k5 (by rw [h2]; simp [hi]), h5 hi.1]
    simp [Term.rat]

theorem Term.gives_two (a b : FV) : Term.Gives ⟨false, [a, b]⟩ (a.mul b) := (Term.gives_one a).mul b

/-! ### Sums of products (R42, R55) -/

/-- The sign of a zero sum (R42): that of terms which are all zeros of one sign, else the one of the mode. -/
def zeroSign (rnd : Nat) (ts : List Term) : Bool :=
  if ts.all Term.isZero && ts.all Term.sign then true
  else if ts.all Term.isZero && ts.all (fun a => !a.sign) then false else rnd == 2

/-- The exact sum by the infinities of its terms. -/
theorem sumX_eq (rnd : Nat) (l : List FV) : sumX rnd l = if l.any FV.isNan then .nan else
    match l.filter FV.isInf with
    | x :: r => if r.all (fun y => y.neg == x.neg) then .inf x.neg else .nan
    | [] => .fin (sumDy l) (if l.all FV.isZero && l.all FV.neg then true
        else if l.all FV.isZero && l.all (fun x => !x.neg) then false else rnd == 2) := rfl

/-- What a sum is that holds no NaN and no two infinities of opposite signs. -/
theorem sumX_cases (rnd : Nat) (l : List FV) :
    ((∃ a ∈ l, a.isNan = true) → sumX rnd l = .nan)
    ∧ ((∃ a ∈ l, ∃ b ∈ l, a.isInf = true ∧ b.isInf = true ∧ a.neg ≠ b.neg) → sumX rnd l = .nan)
    ∧ ((∀ a ∈ l, a.isNan = false) →
      (∀ a ∈ l, a.isInf = true → (∀ b ∈ l, b.isInf = true → a.neg = b.neg) → sumX rnd l = .inf a.neg)
      ∧ ((∀ a ∈ l, a.isInf = false) → sumX rnd l = .fin (sumDy l)
          (if l.all FV.isZero && l.all FV.neg then true
           else if l.all FV.isZero && l.all (fun x => !x.neg) then false else rnd == 2))) := by
  have hmem : ∀ x, x ∈ l.filter FV.isInf ↔ x ∈ l ∧ x.isInf = true := fun x => List.mem_filter
  refine ⟨fun ⟨a, ha, hn⟩ => ?_, fun ⟨a, ha, b, hb, hai, hbi, hab⟩ => ?_, fun hn => ⟨fun a ha hai hall => ?_, fun hi => ?_⟩⟩
  · rw [sumX_eq, if_pos (List.any_eq_true.mpr ⟨a, ha, hn⟩)]
  · rw [sumX_eq]
    split
    · rfl
    · split
      · next x r hx =>
        have h1 := (hmem a).mpr ⟨ha, hai⟩
        have h2 := (hmem b).mpr ⟨hb, hbi⟩
        rw [hx] at h1 h2
        rw [if_neg]
        intro hall
        rw [List.all_eq_true] at hall
        have hsame : ∀ y, y ∈ x :: r → y.neg = x.neg := fun y hy => by
          rcases List.mem_cons.mp hy with rfl | hy
          · rfl
          · simpa using hall y hy
        exact hab ((hsame a h1).trans (hsame b h2).symm)
      · next hx =>
        have h1 := (hmem a).mpr ⟨ha, hai⟩
        rw [hx] at h1
        cases h1
  · rw [sumX_eq, if_neg (by rw [List.any_eq_true]; rintro ⟨x, hx, hxn⟩; rw [hn x hx] at hxn; cases hxn)]
    split
    · next x r hx =>
      have hx1 : x ∈ l ∧ x.isInf = true := (hmem x).mp (by rw [hx]; simp)
      rw [if_pos]
      · rw [hall x hx1.1 hx1.2]
      · rw [List.all_eq_true]
        intro y hy
        have hy1 : y ∈ l ∧ y.isInf = true := (hmem y).mp (by rw [hx]; exact List.mem_cons_of_mem _ hy)
        rw [← hall x hx1.1 hx1.2, ← hall y hy1.1 hy1.2, beq_self_eq_true]
    · next hx =>
      have h1 := (hmem a).mpr ⟨ha, hai⟩
      rw [hx] at h1
      cases h1
  · rw [sumX_eq, if_neg (by rw [List.any_eq_true]; rintro ⟨x, hx, hxn⟩; rw [hn x hx] at hxn; cases hxn)]
    split
    · next x r hx =>
      have hx1 : x ∈ l ∧ x.isInf = true := (hmem x).mp (by rw [hx]; simp)
      rw [hi x hx1.1] at hx1
      cases hx1.2
    · rfl

/-- A sum of products has no number as its value. -/
abbrev badSum (ts : List Term) : Prop := (ts.flatMap Term.fs).any FV.isNan = true ∨ sumInvalid ts

/-- Products with the values that they give. -/
def Gives (ps : List (Term × FV)) : Prop := ∀ x ∈ ps, x.1.Gives x.2

/-- Where a sum is not bad, none of its products is, and infinite ones have one sign. -/
theorem badSum_not {ps : List (Term × FV)} (hb : ¬badSum (ps.map Prod.fst)) :
    (∀ x ∈ ps, (x.1.fs.any FV.isNan || x.1.bad) = false)
    ∧ (∀ x ∈ ps, ∀ y ∈ ps, x.1.isInf = true → y.1.isInf = true → x.1.sign = y.1.sign) := by
  simp only [badSum, sumInvalid, not_or, not_exists, not_and] at hb
  obtain ⟨hn, hz, hs⟩ := hb
  refine ⟨fun x hx => ?_, fun x hx y hy hxi hyi => ?_⟩
  · rw [Bool.or_eq_false_iff]
    refine ⟨?_, ?_⟩
    · rw [Bool.eq_false_iff]
      intro hx'
      obtain ⟨f, hf, hfn⟩ := List.any_eq_true.mp hx'
      exact hn (List.any_eq_true.mpr ⟨f, List.mem_flatMap.mpr ⟨x.1, List.mem_map_of_mem hx, hf⟩, hfn⟩)
    · rw [Term.bad, Bool.and_eq_false_iff]
      by_cases hxi : x.1.isInf = true
      · exact .inr (Bool.eq_false_iff.mpr (hz x.1 (List.mem_map_of_mem hx) hxi))
      · exact .inl (Bool.eq_false_iff.mpr hxi)
  · by_contra hne
    exact hs x.1 (List.mem_map_of_mem hx) y.1 (List.mem_map_of_mem hy) hxi hyi hne

section
variable {ps : List (Term × FV)} (h : Gives ps)
include h

/-- The exact sum of the model is that of the products (R42, R55), with the sign of a zero sum. -/
theorem Gives.sumX (rnd : Nat) : (sumX rnd (ps.map Prod.snd)).isSum (ps.map Prod.fst)
    ∧ (¬badSum (ps.map Prod.fst) → ∀ d z, Machine.sumX rnd (ps.map Prod.snd) = .fin d z → z = zeroSign rnd (ps.map Prod.fst)) := by
  obtain ⟨c1, c2, c3⟩ := sumX_cases rnd (ps.map Prod.snd)
  have hbad : badSum (ps.map Prod.fst) → Machine.sumX rnd (ps.map Prod.snd) = .nan := by
    intro hb
    by_cases hany : ∃ x ∈ ps, (x.1.fs.any FV.isNan || x.1.bad) = true
    · obtain ⟨x, hx, hxb⟩ := hany
      exact c1 ⟨x.2, List.mem_map_of_mem hx, (h x hx).nan hxb⟩
    · have hok : ∀ x ∈ ps, (x.1.fs.any FV.isNan || x.1.bad) = false := fun x hx => by
        rw [Bool.eq_false_iff]
        exact fun hb => hany ⟨x, hx, hb⟩
      rcases hb with hn | ⟨a, ha, hi, hz⟩ | ⟨a, ha, b, hb, hai, hbi, hab⟩
      · obtain ⟨f, hf, hfn⟩ := List.any_eq_true.mp hn
        obtain ⟨a, ha, hfa⟩ := List.mem_flatMap.mp hf
        obtain ⟨x, hx, rfl⟩ := List.mem_map.mp ha
        have hxn : x.1.fs.any FV.isNan = true := List.any_eq_true.mpr ⟨f, hfa, hfn⟩
        have hx' := hok x hx
        rw [hxn] at hx'
        cases hx'
      · obtain ⟨x, hx, rfl⟩ := List.mem_map.mp ha
        have hx' := hok x hx
        rw [Term.bad, hi, hz, Bool.and_self, Bool.or_true] at hx'
        cases hx'
      · obtain ⟨x, hx, rfl⟩ := List.mem_map.mp ha
        obtain ⟨y, hy, rfl⟩ := List.mem_map.mp hb
        obtain ⟨-, x2, x3, -⟩ := (h x hx).num (hok x hx)
        obtain ⟨-, y2, y3, -⟩ := (h y hy).num (hok y hy)
        exact c2 ⟨x.2, List.mem_map_of_mem hx, y.2, List.mem_map_of_mem hy, x2.trans hai, y2.trans hbi, by rw [x3, y3]; exact hab⟩
  have hnum : ¬badSum (ps.map Prod.fst) → ∀ a ∈ ps.map Prod.snd, a.isNan = false := fun hb a ha => by
    obtain ⟨x, hx, rfl⟩ := List.mem_map.mp ha
    exact ((h x hx).num ((badSum_not hb).1 x hx)).1
  have hfin : ¬badSum (ps.map Prod.fst) → (ps.map Prod.fst).any Term.isInf = false → ∀ a ∈ ps.map Prod.snd, a.isInf = false :=
    fun hb hi a ha => by
      obtain ⟨x, hx, rfl⟩ := List.mem_map.mp ha
      rw [((h x hx).num ((badSum_not hb).1 x hx)).2.1]
      rw [List.any_eq_false] at hi
      simpa using hi x.1 (List.mem_map_of_mem hx)
  have hinf : ¬badSum (ps.map Prod.fst) → ∀ a ∈ ps.map Prod.fst, a.isInf = true → Machine.sumX rnd (ps.map Prod.snd) = .inf a.sign := by
    intro hb a ha hai
    obtain ⟨x, hx, rfl⟩ := List.mem_map.mp ha
    obtain ⟨g1, g2⟩ := badSum_not hb
    obtain ⟨-, x2, x3, -⟩ := (h x hx).num (g1 x hx)
    rw [← x3]
    refine (c3 (hnum hb)).1 x.2 (List.mem_map_of_mem hx) (x2.trans hai) (fun b hbm hbi => ?_)
    obtain ⟨y, hy, rfl⟩ := List.mem_map.mp hbm
    obtain ⟨-, y2, y3, -⟩ := (h y hy).num (g1 y hy)
    rw [x3, y3]
    exact g2 x hx y hy hai (y2.symm.trans hbi)
  refine ⟨⟨hbad, fun hb => ⟨hinf hb, fun hi => ⟨_, _, (c3 (hnum hb)).2 (hfin hb hi), ?_⟩⟩⟩, fun hb d z hd => ?_⟩
  · refine (sumDy_rat _).trans ?_
    rw [List.map_map, List.map_map]
    congr 1
    refine List.map_congr_left (fun x hx => ?_)
    rw [List.any_eq_false] at hi
    exact ((h x hx).num ((badSum_not hb).1 x hx)).2.2.2.2 (by simpa using hi x.1 (List.mem_map_of_mem hx))
  · by_cases hi : (ps.map Prod.fst).any Term.isInf = true
    · obtain ⟨a, ha, hai⟩ := List.any_eq_true.mp hi
      rw [hinf hb a ha hai] at hd
      cases hd
    · rw [(c3 (hnum hb)).2 (hfin hb (Bool.eq_false_iff.mpr hi))] at hd
      cases hd
      have hmap : ∀ (p : FV → Bool) (q : Term → Bool), (∀ x ∈ ps, p x.2 = q x.1) →
          (ps.map Prod.snd).all p = (ps.map Prod.fst).all q := fun p q hpq => by
        rw [List.all_map, List.all_map]
        rw [Bool.eq_iff_iff, List.all_eq_true, List.all_eq_true]
        exact forall₂_congr (fun x hx => by simp [hpq x hx])
      have hz := hmap FV.isZero Term.isZero (fun x hx => ((h x hx).num ((badSum_not hb).1 x hx)).2.2.2.1)
      have hs := hmap FV.neg Term.sign (fun x hx => ((h x hx).num ((badSum_not hb).1 x hx)).2.2.1)
      have hs' := hmap (fun x => !x.neg) (fun a => !a.sign) (fun x hx => by rw [((h x hx).num ((badSum_not hb).1 x hx)).2.2.1])
      unfold zeroSign
      rw [hz, hs, hs']

end

/-! ### What a sum of products rounds to (R128, Table 3-5) -/

theorem Exc.or_none (e : Exc) : Exc.none.or e = e := by
  cases e
  simp [Exc.or, Exc.none]

theorem Exc.or_quiet (e : Exc) : e.or ⟨false, false, false⟩ = e := by
  cases e
  simp [Exc.or]

/-- The rational value of a dyadic value as a signed magnitude. -/
theorem Dy.rat_signed (d : Dy) : ((d.rat : ℚ) : ℝ) = signed (decide (d.m < 0)) (d.m.natAbs * 2 ^ d.e) := by
  unfold Dy.rat signed
  by_cases h : d.m < 0
  · have hm : ((d.m.natAbs : Nat) : ℝ) = -d.m := by
      rw [← Int.cast_natCast, Int.ofNat_natAbs_of_nonpos h.le]
      push_cast
      ring
    simp only [h, decide_true, if_true, hm]
    push_cast
    ring
  · have hm : ((d.m.natAbs : Nat) : ℝ) = d.m := by
      rw [← Int.cast_natCast, Int.natAbs_of_nonneg (not_lt.mp h)]
    simp only [h, decide_false, Bool.false_eq_true, if_false, hm]
    push_cast
    ring

/-- An exact sum of products rounded once into a format, with the exceptions of Table 3-5. -/
theorem Fmt.ofX_sumsTo (f : Fmt) (hf : f.Fine) (rnd : Nat) (ts : List Term) (x : XV) (hx : x.isSum ts)
    (hz : ¬badSum ts → ∀ d z, x = .fin d z → d.m = 0 → z = zeroSign rnd ts) :
    f.sumsTo rnd ts (f.ofX rnd x).1 ((f.ofX rnd x).2.or
      ⟨(ts.flatMap Term.fs).any FV.isSig || (x == .nan && !(ts.flatMap Term.fs).any FV.isNan), false, false⟩) := by
  obtain ⟨hbad, hgood⟩ := hx
  refine ⟨fun hn => ?_, fun hn => ?_⟩
  · rw [hbad (.inl hn), hn]
    exact ⟨rfl, by simp [Fmt.ofX, Exc.or_none]⟩
  · have hsig : (ts.flatMap Term.fs).any FV.isSig = false := by
      rw [List.any_eq_false] at hn ⊢
      exact fun a ha => by simpa using FV.isNan_of_isSig (by simpa using hn a ha)
    refine ⟨fun hi => ?_, fun hi => ?_⟩
    · rw [hbad (.inr hi), hn, hsig]
      exact ⟨rfl, rfl⟩
    · have hb : ¬badSum ts := by
        rintro (h | h)
        · rw [hn] at h; cases h
        · exact hi h
      obtain ⟨hinf, hfin⟩ := hgood hb
      refine ⟨fun a ha hai => ?_, fun hni => ?_⟩
      · rw [hinf a ha hai, hsig]
        exact ⟨rfl, rfl⟩
      · obtain ⟨d, z, rfl, hd⟩ := hfin hni
        have hd : d.rat = (ts.map Term.rat).sum := hd
        rw [hsig, show (XV.fin d z == XV.nan) = false from rfl, Bool.false_and, Bool.or_self, Exc.or_quiet]
        refine ⟨fun hv => ?_, fun hv => ?_⟩
        · rw [← hd] at hv ⊢
          have hm : d.m ≠ 0 := fun h => hv (d.rat_eq_zero.mpr h)
          simp only [Fmt.ofX, if_neg hm, d.rat_signed]
          exact f.round_rounds hf rnd false _ _ _ (Int.natAbs_ne_zero.mpr hm)
        · rw [← hd] at hv
          simp only [Fmt.ofX, if_pos (d.rat_eq_zero.mp hv)]
          exact ⟨trivial, congrArg f.signBit (hz hb d z rfl (d.rat_eq_zero.mp hv))⟩

/-- Arithmetic of the model on products computes their sum (R128). -/
theorem Fmt.sum_sumsTo (f : Fmt) (hf : f.Fine) (rnd : Nat) (ps : List (Term × FV)) (h : Gives ps) (ops : List FV)
    (hn : ops.any FV.isNan = ((ps.map Prod.fst).flatMap Term.fs).any FV.isNan)
    (hs : ops.any FV.isSig = ((ps.map Prod.fst).flatMap Term.fs).any FV.isSig) :
    f.sumsTo rnd (ps.map Prod.fst) (f.sum rnd ops (ps.map Prod.snd)).1 (f.sum rnd ops (ps.map Prod.snd)).2 := by
  obtain ⟨h1, h2⟩ := h.sumX rnd
  have := f.ofX_sumsTo hf rnd _ _ h1 (fun hb d z hd _ => h2 hb d z hd)
  rw [← hn, ← hs] at this
  exact this

/-- A value as an exact result. -/
def FV.exact : FV → XV
  | .nan _ => .nan
  | .inf n => .inf n
  | .fin n m e => .fin (dyOf n m e) n

/-- The value of one product is a sum of one product. -/
theorem Term.Gives.isSum {t : Term} {p : FV} (h : t.Gives p) : p.exact.isSum [t]
    ∧ (¬badSum [t] → ∀ d z, p.exact = .fin d z → d.m = 0 → ∀ rnd, z = zeroSign rnd [t]) := by
  have hbad : badSum [t] ↔ (t.fs.any FV.isNan || t.bad) = true := by
    simp only [badSum, sumInvalid, List.flatMap_cons, List.flatMap_nil, List.append_nil, List.mem_singleton, exists_eq_left,
      Bool.or_eq_true, Term.bad, Bool.and_eq_true, ne_eq, not_true_eq_false, and_false, or_false]
  refine ⟨⟨fun hb => ?_, fun hb => ?_⟩, fun hb d z hd hm rnd => ?_⟩
  · have hp := h.nan (hbad.mp hb)
    cases p <;> first | rfl | cases hp
  · obtain ⟨h1, h2, h3, h4, h5⟩ := h.num (by rw [← Bool.not_eq_true]; exact fun hc => hb (hbad.mpr hc))
    refine ⟨fun a ha hai => ?_, fun hi => ?_⟩
    · obtain rfl := List.mem_singleton.mp ha
      rw [← h3]
      rw [hai] at h2
      cases p <;> first | rfl | cases h2
    · have hi' : t.isInf = false := by simpa using hi
      rw [hi'] at h2
      cases p with
      | nan s => cases h1
      | inf n => cases h2
      | fin n m e =>
        refine ⟨_, _, rfl, ?_⟩
        rw [List.map_singleton, List.sum_singleton, ← h5 hi', ← dyOf_rat]
        rfl
  · obtain ⟨h1, h2, h3, h4, -⟩ := h.num (by rw [← Bool.not_eq_true]; exact fun hc => hb (hbad.mpr hc))
    cases p with
    | nan s => cases h1
    | inf n => cases hd
    | fin n m e =>
      cases hd
      have hm0 : m = 0 := by
        cases z <;> simpa [dyOf] using hm
      have hz : t.isZero = true := by rw [← h4, hm0]; rfl
      have hs : t.sign = z := h3.symm
      cases z <;> simp [zeroSign, hz, hs]

/-- The model's product of two values, by their exact product. -/
theorem Fmt.prod_eq (f : Fmt) (rnd : Nat) (a b : FV) : f.prod rnd a b =
    let x := (a.mul b).exact
    ((f.ofX rnd x).1, (f.ofX rnd x).2.or ⟨[a, b].any FV.isSig || (x == .nan && !([a, b].any FV.isNan)), false, false⟩) := by
  obtain ⟨h1, h2⟩ := FV.mul_cases a b
  have hsig : (a.mul b).isNan = false → ([a, b].any FV.isSig) = false := fun hm => by
    have hc : (a.isNan || b.isNan || (a.isInf && b.isZero) || (a.isZero && b.isInf)) = false := by
      by_contra hc
      rw [h1 (Bool.not_eq_false _ ▸ hc)] at hm
      cases hm
    simp only [Bool.or_eq_false_iff] at hc
    simp [FV.isNan_of_isSig hc.1.1.1, FV.isNan_of_isSig hc.1.1.2]
  unfold Fmt.prod
  cases hm : a.mul b with
  | nan s =>
    simp only [FV.exact, Fmt.ofX, Exc.or_none, beq_self_eq_true, Bool.true_and, List.any_cons, List.any_nil, Bool.or_false, Bool.not_or]
  | inf n =>
    have hq := hsig (by rw [hm]; rfl)
    simp only [FV.exact, Fmt.ofX, hq, show (XV.inf n == XV.nan) = false from rfl, Bool.false_and, Bool.or_self, Exc.or_quiet]
  | fin n m e =>
    have hq := hsig (by rw [hm]; rfl)
    simp only [FV.exact, Fmt.ofX, hq, show (XV.fin (dyOf n m e) n == XV.nan) = false from rfl, Bool.false_and, Bool.or_self, Exc.or_quiet]
    by_cases h0 : m = 0
    · subst h0
      cases n <;> simp [dyOf, Fmt.round]
    · cases n
      · have hd : decide ((m : Int) < 0) = false := by simp
        simp [dyOf, h0, hd]
      · have hd : decide (0 < m) = true := by simpa using Nat.pos_of_ne_zero h0
        simp [dyOf, h0, hd]

/-- A product of two values computes it (R128). -/
theorem Fmt.prod_sumsTo (f : Fmt) (hf : f.Fine) (rnd : Nat) (a b : FV) :
    f.sumsTo rnd [⟨false, [a, b]⟩] (f.prod rnd a b).1 (f.prod rnd a b).2 := by
  obtain ⟨h1, h2⟩ := (Term.gives_two a b).isSum
  have h := f.ofX_sumsTo hf rnd _ _ h1 (fun hb d z hd hm => h2 hb d z hd hm rnd)
  rw [f.prod_eq]
  simpa using h

end Sys2Proof.Machine
end

section
/-! ## Floating-point forms (O7) -/
namespace Sys2Proof.Machine

/-! ### The values of encodings (R39, R43, Table 3-1) -/

/-- What Table 3-1 says of a format's NaNs and infinities, in terms of its name. -/
theorem Fmt.kinds {f : Fmt} (h : f ∈ [fp32, bf16, fp16, e4m3, e5m2, e2m1]) : (f.nans = 1 ↔ f = e4m3)
    ∧ (2 ≤ f.nans ↔ f ≠ e4m3 ∧ f ≠ e2m1) ∧ (f ≠ e2m1 → (f.nans = 3 ↔ f ≠ e4m3 ∧ f ≠ e5m2)) ∧ (f = e4m3 → 2 ^ f.fw - 1 = 7) := by
  simp only [List.mem_cons, List.not_mem_nil, or_false] at h
  rcases h with rfl | rfl | rfl | rfl | rfl | rfl <;> exact ⟨by decide, by decide, by decide, by decide⟩

theorem Fmt.sign_field (f : Fmt) (x : Nat) (hx : x < 2 ^ f.width) :
    (x / 2 ^ (f.fw + f.ew) % 2 == 1) = decide (2 ^ (f.width - 1) ≤ x) := by
  have hs := f.split x hx
  have hb : x % 2 ^ (f.fw + f.ew) < 2 ^ (f.fw + f.ew) := Nat.mod_lt _ (Nat.two_pow_pos _)
  have h := (f.fields (decide (2 ^ (f.width - 1) ≤ x)) _ hb).2.2
  rwa [← hs] at h

/-- What every encoding stands for (R39, R43). -/
theorem Fmt.decode_table (f : Fmt) (h : f ∈ [fp32, bf16, fp16, e4m3, e5m2, e2m1]) (x : Nat) (hx : x < 2 ^ f.width) :
    let fr : Nat := x % 2 ^ f.fw
    let ex : Nat := x / 2 ^ f.fw % 2 ^ f.ew
    let neg := decide (2 ^ (f.width - 1) ≤ x)
    let top := ex = 2 ^ f.ew - 1
    let nan := top ∧ (if f = e4m3 then fr = 7 else f ≠ e2m1 ∧ fr ≠ 0)
    let inf := top ∧ fr = 0 ∧ f ≠ e4m3 ∧ f ≠ e2m1
    (nan → f.decode x = .nan (decide (f ≠ e4m3 ∧ f ≠ e5m2 ∧ fr < 2 ^ (f.fw - 1))))
    ∧ (inf → f.decode x = .inf neg)
    ∧ (¬nan → ¬inf → (f.decode x).isNan = false ∧ (f.decode x).isInf = false ∧ (f.decode x).neg = neg
        ∧ (f.decode x).rat = (if neg then -1 else 1) * (if ex = 0 then (fr : ℚ) / 2 ^ f.fw * 2 ^ (1 - f.bias : ℤ)
            else (1 + (fr : ℚ) / 2 ^ f.fw) * 2 ^ (ex - f.bias : ℤ))) := by
  obtain ⟨k1, k2, k3, k4⟩ := Fmt.kinds h
  have hinf := (Fmt.fine_of_mem h).inf
  intro fr ex neg top nan inf
  have hsign : (x / 2 ^ (f.fw + f.ew) % 2 == 1) = neg := f.sign_field x hx
  have htop : (ex == 2 ^ f.ew - 1) = true ↔ top := beq_iff_eq
  have hd : f.decode x = if f.nans = 1 ∧ (ex == 2 ^ f.ew - 1) = true ∧ fr = 2 ^ f.fw - 1 then .nan false
      else if f.nans ≥ 2 ∧ (ex == 2 ^ f.ew - 1) = true ∧ fr ≠ 0 then .nan (decide (f.nans = 3 ∧ fr < 2 ^ (f.fw - 1)))
      else if f.inf = true ∧ (ex == 2 ^ f.ew - 1) = true then .inf neg
      else if ex = 0 then .fin neg fr (1 - f.bias - f.fw) else .fin neg (2 ^ f.fw + fr) ((ex : Int) - f.bias - f.fw) := by
    rw [← hsign]
    rfl
  simp only [htop] at hd
  have hp : ((2 : ℚ) ^ f.fw) ≠ 0 := by positivity
  refine ⟨fun ⟨ht, hn⟩ => ?_, fun ⟨ht, hf0, h4, h2⟩ => ?_, fun hn hi => ?_⟩
  · by_cases h4 : f = e4m3
    · rw [if_pos h4] at hn
      rw [hd, if_pos ⟨k1.mpr h4, ht, hn.trans (k4 h4).symm⟩]
      simp [h4]
    · rw [if_neg h4] at hn
      rw [hd, if_neg (fun hc => h4 (k1.mp hc.1)), if_pos ⟨k2.mpr ⟨h4, hn.1⟩, ht, hn.2⟩]
      congr 1
      rw [decide_eq_decide, k3 hn.1, and_assoc]
  · rw [hd, if_neg (fun hc => h4 (k1.mp hc.1)), if_neg (fun hc => hc.2.2 hf0), if_pos ⟨hinf.mpr (k2.mpr ⟨h4, h2⟩), ht⟩]
  · rw [if_neg, if_neg, if_neg] at hd
    · have hz : ∀ z : Int, (2 : ℚ) ^ (z - f.fw) = 2 ^ z / 2 ^ f.fw := fun z => by
        rw [zpow_sub₀ (by norm_num), zpow_natCast]
      by_cases h0 : ex = 0
      · rw [if_pos h0] at hd
        rw [hd, FV.rat_fin, if_pos h0, hz]
        refine ⟨rfl, rfl, rfl, ?_⟩
        congr 1
        ring
      · rw [if_neg h0] at hd
        rw [hd, FV.rat_fin, if_neg h0, hz]
        refine ⟨rfl, rfl, rfl, ?_⟩
        congr 1
        push_cast
        field_simp
    · rintro ⟨hi', ht⟩
      obtain ⟨h4, h2⟩ := k2.mp (hinf.mp hi')
      by_cases hf0 : fr = 0
      · exact hi ⟨ht, hf0, h4, h2⟩
      · exact hn ⟨ht, by rw [if_neg h4]; exact ⟨h2, hf0⟩⟩
    · rintro ⟨hn2, ht, hf0⟩
      obtain ⟨h4, h2⟩ := k2.mp hn2
      exact hn ⟨ht, by rw [if_neg h4]; exact ⟨h2, hf0⟩⟩
    · rintro ⟨hn1, ht, hf0⟩
      have h4 := k1.mp hn1
      exact hn ⟨ht, by rw [if_pos h4]; exact hf0.trans (k4 h4)⟩

/-! ### Order (R130, R131) -/

/-- An encoding as a number that orders like its value: sign and magnitude, the zeros equal. -/
def bitKey (w v : Nat) : Int := if 2 ^ (w - 1) ≤ v then -((v % 2 ^ (w - 1) : Nat) : Int) else (v : Int)
/-- Such a number with −0 below +0. -/
def bitKey' (w v : Nat) : Int := if 2 ^ (w - 1) ≤ v then -((v % 2 ^ (w - 1) : Nat) : Int) - 1 else (v : Int)

/-- A magnitude with a sign. -/
def signedMag (f : Fmt) (n : Bool) (b : Nat) : ℚ := if n then -f.mag b else f.mag b

theorem signedMag_lt (f : Fmt) (n k : Bool) (b c : Nat) :
    signedMag f n b < signedMag f k c ↔ signedInt n b < signedInt k c := by
  have hm := f.mag_strictMono
  have h0 := f.mag_zero
  have hb := f.mag_nonneg b
  have hc := f.mag_nonneg c
  have hpos : ∀ x, 0 < f.mag x ↔ 0 < x := fun x => by rw [← h0, hm.lt_iff_lt]
  cases n <;> cases k <;> simp only [signedMag, signedInt, if_true, if_false, Bool.false_eq_true]
  · rw [hm.lt_iff_lt]; omega
  · constructor <;> intro h <;> exfalso
    · linarith
    · omega
  · constructor
    · intro h
      have : 0 < f.mag b ∨ 0 < f.mag c := by
        by_contra hn
        rw [not_or] at hn
        linarith
      rw [hpos, hpos] at this
      omega
    · intro h
      have : 0 < f.mag b ∨ 0 < f.mag c := by
        rw [hpos, hpos]
        omega
      rcases this with h | h <;> linarith
  · rw [neg_lt_neg_iff, hm.lt_iff_lt]; omega

/-- What a value that is not a NaN orders as: its signed magnitude, an infinity that of its own encoding. -/
theorem Fmt.ordered (f : Fmt) (hf : f.Fine) (x : Nat) (hx : x < 2 ^ f.width) (hn : (f.decode x).isNan = false) :
    ∃ n b, bitKey f.width x = signedInt n b ∧ n = decide (2 ^ (f.width - 1) ≤ x)
      ∧ ((b ≤ f.maxBits ∧ ∃ m e, f.decode x = .fin n m e ∧ (f.decode x).rat = signedMag f n b)
        ∨ (f.maxBits < b ∧ b = (2 ^ f.ew - 1) * 2 ^ f.fw ∧ f.decode x = .inf n)) := by
  have hs := f.split x hx
  have hb : x % 2 ^ (f.fw + f.ew) < 2 ^ (f.fw + f.ew) := Nat.mod_lt _ (Nat.two_pow_pos _)
  have hkey : bitKey f.width x = signedInt (decide (2 ^ (f.width - 1) ≤ x)) (x % 2 ^ (f.fw + f.ew)) := by
    unfold bitKey signedInt
    rw [f.width_pred]
    by_cases hle : 2 ^ (f.fw + f.ew) ≤ x
    · simp [hle]
    · simp only [hle, if_false, decide_false, Bool.false_eq_true]
      rw [Nat.mod_eq_of_lt (by omega)]
  refine ⟨_, _, hkey, rfl, ?_⟩
  generalize hn' : decide (2 ^ (f.width - 1) ≤ x) = n at hs
  rcases le_or_gt (x % 2 ^ (f.fw + f.ew)) f.maxBits with hle | hgt
  · obtain ⟨m, e, hd, hm, -⟩ := f.decode_finite hf n _ hle
    rw [← hs] at hd
    refine .inl ⟨hle, m, e, hd, ?_⟩
    rw [hd, FV.rat_fin, hm]
    cases n <;> simp [signedMag]
  · rcases f.decode_beyond hf n _ hgt hb with ⟨-, hbi, hd⟩ | hd
    · rw [← hs] at hd
      exact .inr ⟨hgt, hbi, hd⟩
    · rw [← hs, hn] at hd
      cases hd

/-- The order of two numbers. -/
def order (a b : Int) : Ordering := if a < b then .lt else if a = b then .eq else .gt

theorem FV.cmp_fin (n k : Bool) (m l : Nat) (e c : Int) : FV.cmp (.fin n m e) (.fin k l c)
    = if (FV.fin n m e).rat < (FV.fin k l c).rat then .lt else if (FV.fin n m e).rat = (FV.fin k l c).rat then .eq else .gt := by
  have hd : ((dyOf n m e).add (dyOf (!k) l c)).rat = (FV.fin n m e).rat - (FV.fin k l c).rat := by
    rw [Dy.rat_add, dyOf_rat, dyOf_rat, show FV.fin (!k) l c = (FV.fin k l c).negate from rfl, FV.negate_rat, sub_eq_add_neg]
  have h1 : ((dyOf n m e).add (dyOf (!k) l c)).m < 0 ↔ (FV.fin n m e).rat < (FV.fin k l c).rat := by
    rw [← Dy.rat_neg, hd, sub_neg]
  have h2 : ((dyOf n m e).add (dyOf (!k) l c)).m = 0 ↔ (FV.fin n m e).rat = (FV.fin k l c).rat := by
    rw [← Dy.rat_eq_zero, hd, sub_eq_zero]
  simp only [FV.cmp, h1, h2]

theorem ite_order (f : Fmt) (n k : Bool) (b c : Nat) :
    (if signedMag f n b < signedMag f k c then Ordering.lt else if signedMag f n b = signedMag f k c then .eq else .gt)
      = order (signedInt n b) (signedInt k c) := by
  have h1 := signedMag_lt f n k b c
  have h2 : signedMag f n b = signedMag f k c ↔ signedInt n b = signedInt k c := by
    have h3 := signedMag_lt f k n c b
    constructor <;> intro h
    · exact le_antisymm (not_lt.mp (fun hl => absurd (h3.mpr hl) h.not_gt)) (not_lt.mp (fun hl => absurd (h1.mpr hl) h.not_lt))
    · exact le_antisymm (not_lt.mp (fun hl => absurd (h3.mp hl) h.not_gt)) (not_lt.mp (fun hl => absurd (h1.mp hl) h.not_lt))
  simp only [order, h1, h2]

/-- Two values compare as the numbers that their encodings stand for do (R131). -/
theorem Fmt.cmp_key (f : Fmt) (hf : f.Fine) (a b : Nat) (ha : a < 2 ^ f.width) (hb : b < 2 ^ f.width)
    (hna : (f.decode a).isNan = false) (hnb : (f.decode b).isNan = false) :
    (f.decode a).cmp (f.decode b) = order (bitKey f.width a) (bitKey f.width b) := by
  obtain ⟨n, x, ka, -, hx⟩ := f.ordered hf a ha hna
  obtain ⟨k, y, kb, -, hy⟩ := f.ordered hf b hb hnb
  rw [ka, kb]
  rcases hx with ⟨hxm, m, e, hda, hra⟩ | ⟨hxm, hxi, hda⟩ <;> rcases hy with ⟨hym, l, c, hdb, hrb⟩ | ⟨hym, hyi, hdb⟩
  · rw [← ite_order f n k x y, ← hra, ← hrb, hda, hdb, FV.cmp_fin]
  · rw [hda, hdb]
    cases n <;> cases k <;> simp only [FV.cmp, order, signedInt, if_true, if_false, Bool.false_eq_true] <;>
      split <;> first | rfl | omega | (split <;> first | rfl | omega)
  · rw [hda, hdb]
    cases n <;> cases k <;> simp only [FV.cmp, order, signedInt, if_true, if_false, Bool.false_eq_true] <;>
      split <;> first | rfl | omega | (split <;> first | rfl | omega)
  · obtain rfl : x = y := hxi.trans hyi.symm
    have hpos : 0 < x := by omega
    rw [hda, hdb]
    cases n <;> cases k
    · simp [FV.cmp, order, signedInt]
    · show Ordering.gt = order (x : Int) (-(x : Int))
      rw [order, if_neg (by omega), if_neg (by omega)]
    · show Ordering.lt = order (-(x : Int)) (x : Int)
      rw [order, if_pos (by omega)]
    · simp [FV.cmp, order, signedInt]

/-- A condition of Table 6-2 on two encodings. -/
def condOf (f : Fmt) (c a b : Nat) : Bool :=
  let un := (f.decode a).isNan || (f.decode b).isNan
  let ka := bitKey f.width a
  let kb := bitKey f.width b
  match c with
  | 0 => !un && decide (ka = kb)
  | 1 => !un && decide (ka < kb)
  | 2 => !un && decide (ka ≤ kb)
  | 3 => !un && decide (kb < ka)
  | 4 => !un && decide (kb ≤ ka)
  | 5 => !un && decide (ka ≠ kb)
  | 6 => !un
  | 7 => un
  | 8 => un || decide (ka = kb)
  | 9 => un || decide (ka < kb)
  | 10 => un || decide (ka ≤ kb)
  | 11 => un || decide (kb < ka)
  | 12 => un || decide (kb ≤ ka)
  | _ => un || decide (ka ≠ kb)

/-- The answers about an order, by its two numbers. -/
theorem order_tests (a b : Int) : (order a b == .eq) = decide (a = b) ∧ (order a b == .lt) = decide (a < b)
    ∧ (order a b != .gt) = decide (a ≤ b) ∧ (order a b == .gt) = decide (b < a) ∧ (order a b != .lt) = decide (b ≤ a)
    ∧ (order a b != .eq) = decide (a ≠ b) := by
  unfold order
  rcases lt_trichotomy a b with h | h | h
  · simp [h, h.ne, h.le, h.not_gt, h.not_ge]
  · simp [h]
  · simp [h.not_gt, h.ne', h.not_ge, h, h.le]

/-- fcmp evaluates its condition on the encodings (R131, Table 6-2). -/
theorem Fmt.fcond_key (f : Fmt) (hf : f.Fine) (c a b : Nat) (ha : a < 2 ^ f.width) (hb : b < 2 ^ f.width) :
    fcond c (f.decode a) (f.decode b) = condOf f c a b := by
  cases hu : ((f.decode a).isNan || (f.decode b).isNan) with
  | true =>
    unfold fcond condOf
    simp only [hu, Bool.not_true, Bool.false_and, Bool.true_or] <;>
      rcases c with _ | _ | _ | _ | _ | _ | _ | _ | _ | _ | _ | _ | _ | c <;> rfl
  | false =>
    rw [Bool.or_eq_false_iff] at hu
    obtain ⟨t1, t2, t3, t4, t5, t6⟩ := order_tests (bitKey f.width a) (bitKey f.width b)
    unfold fcond condOf
    simp only [hu.1, hu.2, f.cmp_key hf a b ha hb hu.1 hu.2, t1, t2, t3, t4, t5, t6] <;>
      rcases c with _ | _ | _ | _ | _ | _ | _ | _ | _ | _ | _ | _ | _ | c <;> rfl

/-- The choice of R130 on two encodings. -/
def pickOf (f : Fmt) (mx : Bool) (a b : Nat) : Nat :=
  if (f.decode a).isNan && (f.decode b).isNan then f.canon else if (f.decode a).isNan then b
  else if (f.decode b).isNan then a
  else if (if mx then decide (bitKey' f.width b ≤ bitKey' f.width a) else decide (bitKey' f.width a ≤ bitKey' f.width b)) then a else b

theorem bitKey'_eq (w v : Nat) : bitKey' w v = bitKey w v - (if 2 ^ (w - 1) ≤ v then 1 else 0) := by
  unfold bitKey' bitKey
  split <;> omega

/-- What comes before what, −0 before +0 (R130). -/
theorem Fmt.below_key (f : Fmt) (hf : f.Fine) (a b : Nat) (ha : a < 2 ^ f.width) (hb : b < 2 ^ f.width)
    (hna : (f.decode a).isNan = false) (hnb : (f.decode b).isNan = false) :
    (f.decode a).below (f.decode b) = decide (bitKey' f.width a < bitKey' f.width b) := by
  have hneg : ∀ x, x < 2 ^ f.width → (f.decode x).isNan = false → (f.decode x).neg = decide (2 ^ (f.width - 1) ≤ x) := by
    intro x hx hn
    obtain ⟨n, y, -, rfl, ⟨-, m, e, hd, -⟩ | ⟨-, -, hd⟩⟩ := f.ordered hf x hx hn <;> rw [hd] <;> rfl
  have hsign : ∀ x, 2 ^ (f.width - 1) ≤ x → bitKey f.width x ≤ 0 := fun x h => by
    rw [bitKey, if_pos h]
    omega
  have hsign' : ∀ x, ¬2 ^ (f.width - 1) ≤ x → 0 ≤ bitKey f.width x := fun x h => by
    rw [bitKey, if_neg h]
    omega
  rw [FV.below, f.cmp_key hf a b ha hb hna hnb, hneg a ha hna, hneg b hb hnb, bitKey'_eq, bitKey'_eq]
  have h1 := hsign a
  have h2 := hsign b
  have h3 := hsign' a
  have h4 := hsign' b
  rcases lt_trichotomy (bitKey f.width a) (bitKey f.width b) with h | h | h
  · rw [show order (bitKey f.width a) (bitKey f.width b) = .lt from if_pos h]
    refine (decide_eq_true ?_).symm
    split <;> split <;> omega
  · rw [show order (bitKey f.width a) (bitKey f.width b) = .eq from (if_neg h.not_lt).trans (if_pos h), h]
    by_cases ca : 2 ^ (f.width - 1) ≤ a <;> by_cases cb : 2 ^ (f.width - 1) ≤ b <;> simp [ca, cb]
  · rw [show order (bitKey f.width a) (bitKey f.width b) = .gt from (if_neg h.not_gt).trans (if_neg h.ne')]
    refine (decide_eq_false ?_).symm
    have h1 := hsign a
    have h2 := hsign' b
    split <;> split <;> omega

/-- The smaller or the larger of two encodings (R130). -/
theorem Fmt.pick_eq (f : Fmt) (hf : f.Fine) (mx : Bool) (a b : Nat) (ha : a < 2 ^ f.width) (hb : b < 2 ^ f.width) :
    f.pick mx a b = pickOf f mx a b := by
  have hnan : ∀ v : FV, v.isNan = true → ∃ s, v = .nan s := fun v hv => by cases v <;> first | exact ⟨_, rfl⟩ | cases hv
  unfold pickOf
  cases hna : (f.decode a).isNan <;> cases hnb : (f.decode b).isNan
  · have h1 := f.below_key hf a b ha hb hna hnb
    have h2 := f.below_key hf b a hb ha hnb hna
    have hp : f.pick mx a b = if mx then (if (f.decode a).below (f.decode b) then b else a)
        else (if (f.decode b).below (f.decode a) then b else a) := by
      unfold Fmt.pick
      cases hda : f.decode a <;> cases hdb : f.decode b <;> simp only [hda, hdb, FV.isNan, Bool.true_eq_false] at hna hnb <;> rfl
    rw [hp, h1, h2]
    cases mx
    · simp only [Bool.false_and, Bool.false_eq_true, if_false, decide_eq_true_eq]
      split <;> split <;> first | rfl | omega
    · simp only [Bool.false_and, Bool.false_eq_true, if_false, if_true, decide_eq_true_eq]
      split <;> split <;> first | rfl | omega
  · obtain ⟨s, hs⟩ := hnan _ hnb
    unfold Fmt.pick
    rw [hs]
    cases hd : f.decode a <;> first | rfl | (rw [hd] at hna; cases hna)
  · obtain ⟨s, hs⟩ := hnan _ hna
    unfold Fmt.pick
    rw [hs]
    cases hd : f.decode b <;> first | rfl | (rw [hd] at hnb; cases hnb)
  · obtain ⟨s, hs⟩ := hnan _ hna
    obtain ⟨k, hk⟩ := hnan _ hnb
    unfold Fmt.pick
    rw [hs, hk]
    rfl

/-! ### The clamp of SAT01 (R129) -/

theorem Fmt.sat_clamp01 (f : Fmt) (on : Bool) (r : Nat × Exc) : f.sat on r = (f.clamp01 on r.1, r.2) := by
  cases on
  · rfl
  · refine Prod.ext ?_ rfl
    show f.sat01 r.1 = f.clamp01 true r.1
    unfold Fmt.sat01 Fmt.clamp01
    cases f.decode r.1 with
    | nan s => rfl
    | inf n => cases n <;> simp [FV.isNan, FV.neg] <;> split <;> omega
    | fin n m e => cases n <;> simp [FV.isNan, FV.neg] <;> split <;> omega

end Sys2Proof.Machine
end

section
/-! ## Rounding to an integral value (R133) -/
namespace Sys2Proof.Machine

/-- A finite value of a format has a significand of the format's precision, and no more than its largest magnitude. -/
theorem Fmt.significand (f : Fmt) (hf : f.Fine) (x : Nat) (hx : x < 2 ^ f.width) (n : Bool) (m : Nat) (e : Int)
    (hd : f.decode x = .fin n m e) : m < 2 ^ (f.fw + 1) ∧ (m : ℚ) * 2 ^ e ≤ f.mag f.maxBits := by
  have hs := f.split x hx
  have hb : x % 2 ^ (f.fw + f.ew) < 2 ^ (f.fw + f.ew) := Nat.mod_lt _ (Nat.two_pow_pos _)
  generalize decide (2 ^ (f.width - 1) ≤ x) = k at hs
  rcases le_or_gt (x % 2 ^ (f.fw + f.ew)) f.maxBits with hle | hgt
  · obtain ⟨m', e', hd', hv, hm⟩ := f.decode_finite hf k _ hle
    rw [← hs, hd] at hd'
    cases hd'
    exact ⟨hm, hv.trans_le (f.mag_strictMono.monotone hle)⟩
  · rcases f.decode_beyond hf k _ hgt hb with ⟨-, -, h⟩ | h
    · rw [← hs, hd] at h
      cases h
    · rw [← hs, hd] at h
      cases h

/-- A magnitude of less than 2^24 halves or smaller parts rounds to at most 2^23. -/
theorem roundTo_fraction_le (rnd : Nat) (n : Bool) (m : Nat) (e : Int) (hm : m < 2 ^ 24) (he : e < 0) :
    roundTo rnd n m e false 0 ≤ 2 ^ 23 := by
  have hr := roundTo_isRounding rnd n m e 0
  rw [zpow_zero, div_one] at hr
  have hle : (m : ℝ) * 2 ^ e ≤ 2 ^ 23 := by
    have h1 : (m : ℝ) ≤ 2 ^ 24 := by exact_mod_cast hm.le
    have h2 : (2 : ℝ) ^ e ≤ 2 ^ (-1 : Int) := zpow_le_zpow_right₀ (by norm_num) (by omega)
    calc (m : ℝ) * 2 ^ e ≤ 2 ^ 24 * 2 ^ (-1 : Int) := mul_le_mul h1 h2 (by positivity) (by norm_num)
      _ = 2 ^ 23 := by norm_num
  cases n
  · have := hr.le (k := 2 ^ 23) (by simpa [signed] using hle.trans_eq (by norm_num))
    simp only [signedInt, Bool.false_eq_true, if_false] at this
    exact_mod_cast this
  · have := hr.ge (k := -2 ^ 23) (by simpa [signed] using hle.trans_eq (by norm_num))
    simp only [signedInt, if_true] at this
    omega

/-- The integral value of a mode is exact in FP32, with the sign of its operand. -/
theorem frnd_exact (rnd : Nat) (x : Nat) (hx : x < 2 ^ 32) (n : Bool) (m : Nat) (e : Int) (hd : fp32.decode x = .fin n m e) :
    ∃ b, b ≤ fp32.maxBits ∧ fp32.mag b = roundTo rnd n m e false 0
      ∧ fp32.round 0 false n (roundTo rnd n m e false 0) 0 false = (fp32.signBit n + b, Exc.none) := by
  obtain ⟨hm, hmax⟩ := fp32.significand fp32_fine x hx n m e hd
  by_cases h0 : roundTo rnd n m e false 0 = 0
  · exact ⟨0, Nat.zero_le _, by rw [h0, fp32.mag_zero, Nat.cast_zero], by rw [h0]; rfl⟩
  have hkey : ∃ k : Nat, ((roundTo rnd n m e false 0 : Nat) : ℝ) * 2 ^ (0 : Int) = k * 2 ^ fp32.unit (roundTo rnd n m e false 0) 0
      ∧ ((roundTo rnd n m e false 0 : Nat) : ℚ) ≤ fp32.mag fp32.maxBits := by
    rcases le_or_gt 0 e with he | he
    · have hM := roundTo_exact rnd n m e 0 he
      have hlog : Nat.log2 (roundTo rnd n m e false 0) < 24 + e.toNat := by
        rw [Nat.log2_lt h0, hM, sub_zero, pow_add]
        exact Nat.mul_lt_mul_of_pos_right hm (Nat.two_pow_pos _)
      have hu : fp32.unit (roundTo rnd n m e false 0) 0 ≤ e := by
        unfold Fmt.unit
        simp only [fp32]
        omega
      have hz : (2 : ℝ) ^ e.toNat = 2 ^ e := by rw [← zpow_natCast, Int.toNat_of_nonneg he]
      refine ⟨m * 2 ^ (e - fp32.unit (roundTo rnd n m e false 0) 0).toNat, ?_, ?_⟩
      · rw [← Fmt.whole_units m e _ hu, hM, sub_zero, zpow_zero, mul_one]
        push_cast
        rw [hz]
      · rw [hM, sub_zero]
        push_cast
        rwa [← zpow_natCast, Int.toNat_of_nonneg he]
    · have hM := roundTo_fraction_le rnd n m e hm he
      have hlog : Nat.log2 (roundTo rnd n m e false 0) < 24 := by
        rw [Nat.log2_lt h0]
        omega
      have hu : fp32.unit (roundTo rnd n m e false 0) 0 ≤ 0 := by
        unfold Fmt.unit
        simp only [fp32]
        omega
      refine ⟨_, Fmt.whole_units _ 0 _ hu, ?_⟩
      calc ((roundTo rnd n m e false 0 : Nat) : ℚ) ≤ ((2 ^ 23 : Nat) : ℚ) := by exact_mod_cast hM
        _ ≤ fp32.mag fp32.maxBits := by norm_num [Fmt.mag, Fmt.maxBits, Fmt.low, fp32]
  obtain ⟨k, hk, hle⟩ := hkey
  obtain ⟨b, hb, hv, hr⟩ := fp32.round_exact 0 false n _ 0 k h0 hk (by rwa [zpow_zero, mul_one])
  exact ⟨b, hb, by rw [hv, zpow_zero, mul_one], hr⟩

end Sys2Proof.Machine
end

section
/-! ## The register forms of floating point (O7) -/
namespace Sys2Proof.Machine

/-- The forms of chapter 6 that read and write registers alone, and nop, each with its effect. -/
def fluSem : Op → Option (Ins → Thread → Eff)
  | .fadd => some fluAdd | .fsub => some fluSub | .fmul => some fluMul | .ffma => some fluFma
  | .fcmp => some fluCmp | .fclamp => some fluClamp | .frnd => some fluRnd | .hadd2 => some fluAdd2
  | .hmul2 => some fluMul2 | .hfma2 => some fluFma2 | .hmin2 => some fluMin2 | .hmax2 => some fluMax2
  | .hcmp2 => some fluCmp2 | .fdot2 => some fluDot2 | .cvt => some fluCvt | .cvtpk => some fluCvtpk
  | .unpk => some fluUnpk | .q4enc => some fluQ4enc | .q4dec => some fluQ4dec | .frcp => some fluRcp
  | .frsq => some fluRsq | .fsqrt => some fluSqrt | .fex2 => some fluEx2 | .flg2 => some fluLg2
  | .fsin => some fluSin | .fcos => some fluCos | .ftanh => some fluTanh | .nop => some (fun _ _ => Eff.none)
  | _ => none

theorem run_fluSem (s : State) (n : Ins) (sem : Ins → Thread → Eff) (h : fluSem n.op = some sem) :
    s.run n = s.alu n sem ∧ (storesPoison n.op || poisonControls n.op) = false := by
  unfold State.run
  cases ho : n.op <;> rw [ho] at h <;> cases h <;> exact ⟨rfl, rfl⟩

/-- A register form completes with its effect in each thread whose guard is true (R129–R145, R161). -/
theorem exec_fluSem (i : Instr) (n : Ins) (s : State) (sem : Ins → Thread → Eff) (e : Thread → Eff) (hi : insOf i = some n)
    (hp : s.passes n) (hg : s.guardsClean n) (h : fluSem n.op = some sem) (he : ∀ x, sem n x = e x) :
    exec i s = .next (s.mapPack (fun _ x => x.given n e)) := by
  obtain ⟨hr, hc⟩ := run_fluSem s n sem h
  rw [exec_of_insOf i n s hi, hr, s.alu_given n sem e hp hg hc he]

/-! ### Arithmetic (R129, R134, R136, R142) -/

/-- An instruction completes with a value and exceptions for which `P` holds in each thread; an enabled exception poisons D,
and the sticky bits collect them. -/
def Computes (i : Instr) (n : Ins) (s : State) (P : Thread → Nat → Exc → Prop) : Prop :=
  ∃ (v : Thread → Nat) (e : Thread → Exc), (∀ x, P x (v x) (e x))
    ∧ exec i s = .next (s.mapPack (fun _ x => x.given n (fun x =>
        ⟨[(n.d, ⟨BitVec.ofNat 32 (v x), n.psn x || (e x).poisons x⟩)], [], (e x).sticky⟩)))

section
variable {i : Instr} {n : Ins} {s : State} {sem : Ins → Thread → Eff} (hi : insOf i = some n) (hp : s.passes n)
  (hg : s.guardsClean n)
include hi hp hg

/-- A form that writes a result with its exceptions. -/
theorem computes_wrF (h : fluSem n.op = some sem) (r : Thread → Nat × Exc) (P : Thread → Nat → Exc → Prop)
    (hr : ∀ x, sem n x = n.wrF x (r x)) (hP : ∀ x, P x (r x).1 (r x).2) : Computes i n s P :=
  ⟨fun x => (r x).1, fun x => (r x).2, hP, exec_fluSem i n s sem _ hi hp hg h hr⟩

end

/-- A factor or a product with its sign changed or not. -/
theorem Term.Gives.signed {fs : List FV} {p : FV} (k : Bool) (h : Term.Gives ⟨false, fs⟩ p) :
    Term.Gives ⟨k, fs⟩ (if k then p.negate else p) := by
  cases k
  · exact h
  · exact h.negate

theorem gives_cons {t : Term} {p : FV} {ps : List (Term × FV)} (h : t.Gives p) (hs : Gives ps) : Gives ((t, p) :: ps) :=
  List.forall_mem_cons.mpr ⟨h, hs⟩

theorem gives_nil : Gives [] := List.forall_mem_nil _

theorem gives_pair {t t' : Term} {p p' : FV} (h : t.Gives p) (h' : t'.Gives p') : Gives [(t, p), (t', p')] :=
  gives_cons h (gives_cons h' gives_nil)

/-- What is rounded and clamped as SAT01 says is a sum of products so clamped. -/
theorem Fmt.sumsTo.computes {f : Fmt} {rnd : Nat} {ts : List Term} {r : Nat × Exc} (h : f.sumsTo rnd ts r.1 r.2) (on : Bool) :
    f.computes rnd on ts (f.sat on r).1 (f.sat on r).2 := by
  rw [f.sat_clamp01]
  exact ⟨_, h, rfl⟩

/-- Two operands added, one of them negated or not. -/
theorem Fmt.add_sumsTo (f : Fmt) (hf : f.Fine) (rnd : Nat) (a b : FV) (k : Bool) :
    let r := f.sum rnd [a, b] [a, if k then b.negate else b]
    f.sumsTo rnd [⟨false, [a]⟩, ⟨k, [b]⟩] r.1 r.2 :=
  f.sum_sumsTo hf rnd [(⟨false, [a]⟩, a), (⟨k, [b]⟩, if k then b.negate else b)]
    (gives_pair (Term.gives_one a) ((Term.gives_one b).signed k)) [a, b] rfl rfl

/-- A product and a third operand added, each negated or not. -/
theorem Fmt.fma_sumsTo (f : Fmt) (hf : f.Fine) (rnd : Nat) (a b c : FV) (k l : Bool) :
    let r := f.sum rnd [a, b, c] [if k then (a.mul b).negate else a.mul b, if l then c.negate else c]
    f.sumsTo rnd [⟨k, [a, b]⟩, ⟨l, [c]⟩] r.1 r.2 :=
  f.sum_sumsTo hf rnd [(⟨k, [a, b]⟩, if k then (a.mul b).negate else a.mul b), (⟨l, [c]⟩, if l then c.negate else c)]
    (gives_pair ((Term.gives_two a b).signed k) ((Term.gives_one c).signed l)) [a, b, c] rfl rfl

/-- Two products and a third operand added. -/
theorem Fmt.dot_sumsTo (f : Fmt) (hf : f.Fine) (rnd : Nat) (a0 a1 b0 b1 c : FV) :
    let r := f.sum rnd [a0, a1, b0, b1, c] [a0.mul b0, a1.mul b1, c]
    f.sumsTo rnd [⟨false, [a0, b0]⟩, ⟨false, [a1, b1]⟩, ⟨false, [c]⟩] r.1 r.2 :=
  f.sum_sumsTo hf rnd [(⟨false, [a0, b0]⟩, a0.mul b0), (⟨false, [a1, b1]⟩, a1.mul b1), (⟨false, [c]⟩, c)]
    (gives_cons (Term.gives_two a0 b0) (gives_pair (Term.gives_two a1 b1) (Term.gives_one c))) [a0, a1, b0, b1, c]
    (by simp [Bool.or_left_comm]) (by simp [Bool.or_left_comm])

/-! ### Lanes (R134) -/

theorem Ins.half_fine (n : Ins) : n.half.Fine := by
  unfold Ins.half
  split
  · exact fp16_fine
  · exact bf16_fine

/-- A lane of B: the constant in both lanes, or the register's. -/
theorem Ins.laneOf_packB (n : Ins) (x : Thread) (k : Nat) (hk : k < 2) :
    laneOf (n.packB x) 16 k = if n.imm then (imm16 n.f).toNat else (x.reg n.b).v.toNat / 2 ^ (16 * k) % 2 ^ 16 := by
  unfold Ins.packB
  split
  · have hlt : n.immZ < 65536 := (imm16 n.f).isLt
    have : k = 0 ∨ k = 1 := by omega
    unfold laneOf
    rcases this with rfl | rfl
    · show n.immZ * 65537 / 1 % 65536 = n.immZ
      omega
    · show n.immZ * 65537 / 65536 % 65536 = n.immZ
      rw [show n.immZ * 65537 = 65536 * n.immZ + n.immZ by ring, Nat.mul_add_div (by norm_num), Nat.div_eq_of_lt hlt, Nat.add_zero,
        Nat.mod_eq_of_lt hlt]
  · rfl

/-- A packed sum of products: in each lane its own, the exceptions of both lanes together. -/
def LanesCompute (i : Instr) (n : Ins) (s : State) (f : Fmt) (on : Bool) (ts : Thread → Nat → List Term) : Prop :=
  Computes i n s (fun x v e => ∃ (r0 r1 : Nat) (e0 e1 : Exc), f.computes n.rnd on (ts x 0) r0 e0 ∧ f.computes n.rnd on (ts x 1) r1 e1
    ∧ v = r0 + 65536 * r1 ∧ e = e0.or e1)

/-- A packed form whose lanes each compute a sum of products. -/
theorem lanesCompute {i : Instr} {n : Ins} {s : State} {sem : Ins → Thread → Eff} (hi : insOf i = some n) (hp : s.passes n)
    (hg : s.guardsClean n) (h : fluSem n.op = some sem) (on : Bool) (op : Fmt → Nat → Nat → Nat → Nat × Exc)
    (ts : Thread → Nat → List Term) (hr : ∀ x, sem n x = n.lanes2 x op)
    (hT : ∀ x k, k < 2 → n.half.computes n.rnd on (ts x k)
      (op n.half (laneOf (n.bitsA x) 16 k) (laneOf (n.packB x) 16 k) (laneOf (n.bitsC x) 16 k)).1
      (op n.half (laneOf (n.bitsA x) 16 k) (laneOf (n.packB x) 16 k) (laneOf (n.bitsC x) 16 k)).2) :
    LanesCompute i n s n.half on ts :=
  computes_wrF hi hp hg h _ _ hr (fun x => ⟨_, _, _, _, hT x 0 (by decide), hT x 1 (by decide), rfl, rfl⟩)

/-- The value of a lane of B. -/
def Ins.laneB (n : Ins) (x : Thread) (k : Nat) : FV :=
  if n.imm then n.half.decode (imm16 n.f).toNat else n.half.decode ((x.reg n.b).v.toNat / 2 ^ (16 * k) % 2 ^ 16)

theorem Ins.decode_packB (n : Ins) (x : Thread) (k : Nat) (hk : k < 2) :
    n.half.decode (laneOf (n.packB x) 16 k) = n.laneB x k := by
  rw [n.laneOf_packB x k hk, apply_ite n.half.decode]
  rfl

/-- The value of a lane of A or C. -/
def Ins.laneVal (n : Ins) (v k : Nat) : FV := n.half.decode (laneOf v 16 k)

/-- Without a constant, B is its register. -/
theorem Ins.bitsB_reg (n : Ins) (x : Thread) (h : n.imm = false) : n.bitsB x = (x.reg n.b).v.toNat :=
  if_neg (by rw [h]; exact Bool.false_ne_true)

end Sys2Proof.Machine
end

section
/-! ## Comparisons, clamps and integral values; the statement (O7) -/
namespace Sys2Proof.Machine

/-- A value in D, with invalid raised where `bad`. -/
def Ins.sigWr (n : Ins) (x : Thread) (v : Nat) (bad : Bool) : Eff :=
  ⟨[(n.d, ⟨BitVec.ofNat 32 v, n.psn x || (bad && x.enabled 0)⟩)], [], if bad then 1 else 0⟩

/-- An invalid operation alone poisons where it is enabled, and sets its own sticky bit. -/
theorem Exc.invalid_only (bad : Bool) (x : Thread) : Exc.poisons ⟨bad, false, false⟩ x = (bad && x.enabled 0)
    ∧ Exc.sticky ⟨bad, false, false⟩ = if bad then 1 else 0 := by
  cases bad
  · exact ⟨rfl, rfl⟩
  · exact ⟨by simp [Exc.poisons], rfl⟩

theorem Ins.wrF_invalid (n : Ins) (x : Thread) (v : Nat) (bad : Bool) :
    n.wrF x (v, ⟨bad, false, false⟩) = n.sigWr x v bad := by
  obtain ⟨h1, h2⟩ := Exc.invalid_only bad x
  unfold Ins.wrF Ins.sigWr
  rw [h1, h2]

/-- A packed form that raises invalid alone. -/
theorem Ins.lanes2_invalid (n : Ins) (x : Thread) (op : Fmt → Nat → Nat → Nat → Nat × Exc) (v : Nat → Nat) (a b : Nat → Nat)
    (h : ∀ k, k < 2 → op n.half (laneOf (n.bitsA x) 16 k) (laneOf (n.packB x) 16 k) (laneOf (n.bitsC x) 16 k)
      = (v k, sigExc [n.half.decode (a k), n.half.decode (b k)])) :
    n.lanes2 x op = n.sigWr x (v 0 + 65536 * v 1) ([a 0, b 0, a 1, b 1].any (fun y => (n.half.decode y).isSig)) := by
  rw [← n.wrF_invalid]
  unfold Ins.lanes2
  simp only [h 0 (by decide), h 1 (by decide)]
  congr 2
  simp [sigExc, Exc.or, Bool.or_assoc]

theorem laneOf_lt (v k : Nat) : laneOf v 16 k < 2 ^ 16 := Nat.mod_lt _ (by norm_num)

theorem Ins.half_width (n : Ins) : n.half.width = 16 := by
  unfold Ins.half
  split <;> rfl

theorem Ins.half_lane (n : Ins) (v k : Nat) : laneOf v 16 k < 2 ^ n.half.width := by
  rw [n.half_width]
  exact laneOf_lt v k

/-- Bits of an operand B fill a word. -/
theorem Ins.bitsB_lt (n : Ins) (x : Thread) : n.bitsB x < 2 ^ 32 := by
  unfold Ins.bitsB
  split
  · have : n.immZ < 65536 := (imm16 n.f).isLt
    omega
  · exact (x.reg n.b).v.isLt

theorem Fmt.pickOf_lt (f : Fmt) (mx : Bool) (a b : Nat) (hc : f.canon < 2 ^ f.width) (ha : a < 2 ^ f.width) (hb : b < 2 ^ f.width) :
    pickOf f mx a b < 2 ^ f.width := by
  unfold pickOf
  repeat' split
  all_goals assumption

/-- fclamp takes the larger of A and B, then the smaller of that and C (R132). -/
theorem fluClamp_eq (n : Ins) (x : Thread) (h : n.imm = false) : fluClamp n x = n.sigWr x
    (pickOf fp32 false (pickOf fp32 true (x.reg n.a).v.toNat (x.reg n.b).v.toNat) (x.reg n.c).v.toNat)
    ([(x.reg n.a).v.toNat, (x.reg n.b).v.toNat, (x.reg n.c).v.toNat].any (fun y => (fp32.decode y).isSig)) := by
  have hb : n.bitsB x = (x.reg n.b).v.toNat := n.bitsB_reg x h
  have hA := (x.reg n.a).v.isLt
  have hB := (x.reg n.b).v.isLt
  have hC := (x.reg n.c).v.isLt
  rw [← n.wrF_invalid, ← fp32.pick_eq fp32_fine true _ _ hA hB,
    ← fp32.pick_eq fp32_fine false _ _ (by rw [fp32.pick_eq fp32_fine true _ _ hA hB]; exact fp32.pickOf_lt _ _ _ (by decide) hA hB) hC,
    ← hb]
  rfl

/-- fcmp evaluates its condition (R131). -/
theorem fluCmp_eq (n : Ins) (x : Thread) : fluCmp n x =
    ⟨[], [(n.d % 8, combine (n.mb 4 2) (condOf fp32 (n.mb 0 4) (n.bitsA x) (n.bitsB x)) (x.pred (n.mb 6 3))
      (n.psn x || ([n.bitsA x, n.bitsB x].any (fun y => (fp32.decode y).isSig) && x.enabled 0)))],
      if [n.bitsA x, n.bitsB x].any (fun y => (fp32.decode y).isSig) then 1 else 0⟩ := by
  obtain ⟨h1, h2⟩ := Exc.invalid_only ([n.bitsA x, n.bitsB x].any (fun y => (fp32.decode y).isSig)) x
  rw [← fp32.fcond_key fp32_fine _ (n.bitsA x) _ (x.reg n.a).v.isLt (n.bitsB_lt x), ← h1, ← h2]
  rfl

/-- hcmp2 evaluates its condition in each lane (R135). -/
theorem fluCmp2_eq (n : Ins) (x : Thread) (a b : Nat → Nat) (ha : ∀ k, k < 2 → laneOf (n.bitsA x) 16 k = a k)
    (hb : ∀ k, k < 2 → laneOf (n.packB x) 16 k = b k) : fluCmp2 n x = n.sigWr x
      ((if condOf n.half (n.mb 1 4) (a 0) (b 0) then 0xFFFF else 0) + 65536 * (if condOf n.half (n.mb 1 4) (a 1) (b 1) then 0xFFFF else 0))
      ([a 0, b 0, a 1, b 1].any (fun y => (n.half.decode y).isSig)) :=
  n.lanes2_invalid x _ (fun k => if condOf n.half (n.mb 1 4) (a k) (b k) then 0xFFFF else 0) a b (fun k hk => by
    rw [← ha k hk, ← hb k hk, ← n.half.fcond_key n.half_fine _ _ _ (n.half_lane _ _) (n.half_lane _ _)])

/-- hmin2 and hmax2 act on each lane (R134). -/
theorem lanes2_pick (n : Ins) (x : Thread) (mx : Bool) (a b : Nat → Nat) (ha : ∀ k, k < 2 → laneOf (n.bitsA x) 16 k = a k)
    (hb : ∀ k, k < 2 → laneOf (n.packB x) 16 k = b k) :
    n.lanes2 x (fun h a b _ => (h.pick mx a b, sigExc [h.decode a, h.decode b])) = n.sigWr x
      (pickOf n.half mx (a 0) (b 0) + 65536 * pickOf n.half mx (a 1) (b 1))
      ([a 0, b 0, a 1, b 1].any (fun y => (n.half.decode y).isSig)) :=
  n.lanes2_invalid x _ (fun k => pickOf n.half mx (a k) (b k)) a b (fun k hk => by
    rw [← ha k hk, ← hb k hk, ← n.half.pick_eq n.half_fine _ _ _ (n.half_lane _ _) (n.half_lane _ _)])

/-! ### frnd (R133) -/

/-- What frnd gives. -/
def rndOf (rnd x : Nat) : Nat × Exc :=
  match fp32.decode x with
  | .nan s => (fp32.canon, ⟨s, false, false⟩)
  | .inf _ => (x, Exc.none)
  | .fin n m e => fp32.round 0 false n (roundTo rnd n m e false 0) 0 false

/-- frnd raises invalid for a signalling NaN and nothing else. -/
theorem rndOf_exc (rnd x : Nat) (hx : x < 2 ^ 32) : (rndOf rnd x).2 = ⟨(fp32.decode x).isSig, false, false⟩ := by
  unfold rndOf
  cases hd : fp32.decode x with
  | nan s => rfl
  | inf k => rfl
  | fin k m e =>
    obtain ⟨b, -, -, hr⟩ := frnd_exact rnd x hx k m e hd
    exact congrArg Prod.snd hr

theorem FV.rat_signed (k : Bool) (m : Nat) (e : Int) : (((FV.fin k m e).rat : ℚ) : ℝ) = signed k (m * 2 ^ e) := by
  rw [FV.rat_fin]
  cases k <;> simp [signed]

/-- frnd gives the integral value of its mode, with the sign of B. -/
theorem rndOf_fin (rnd x : Nat) (hx : x < 2 ^ 32) (hn : (fp32.decode x).isNan = false) (hi : (fp32.decode x).isInf = false) :
    (rndOf rnd x).1 < 2 ^ 32 ∧ (fp32.decode (rndOf rnd x).1).isNan = false ∧ (fp32.decode (rndOf rnd x).1).isInf = false
      ∧ (fp32.decode (rndOf rnd x).1).neg = (fp32.decode x).neg
      ∧ ∃ k : Int, (fp32.decode (rndOf rnd x).1).rat = k ∧ isRounding rnd (fp32.decode x).rat k := by
  cases hd : fp32.decode x with
  | nan s => rw [hd] at hn; cases hn
  | inf k => rw [hd] at hi; cases hi
  | fin k m e =>
    obtain ⟨b, hb, hv, hr⟩ := frnd_exact rnd x hx k m e hd
    have hb' : (rndOf rnd x).1 = fp32.signBit k + b := by
      unfold rndOf
      rw [hd]
      exact congrArg Prod.fst hr
    obtain ⟨h1, h2, h3, h4, h5⟩ := fp32.finite_of_le fp32_fine k b hb
    rw [hb']
    refine ⟨h1, h2, h3, h5, signedInt k (roundTo rnd k m e false 0), ?_, ?_⟩
    · rw [h4, hv]
      cases k <;> simp [signedInt]
    · rw [FV.rat_signed]
      exact roundInt_isRounding rnd k m e

theorem fluRnd_eq (n : Ins) (x : Thread) :
    fluRnd n x = n.sigWr x (rndOf (n.mb 8 3) (x.reg n.b).v.toNat).1 ([(x.reg n.b).v.toNat].any (fun y => (fp32.decode y).isSig)) := by
  rw [← n.wrF_invalid, List.any_cons, List.any_nil, Bool.or_false, ← rndOf_exc (n.mb 8 3) _ (x.reg n.b).v.isLt]
  rfl

/-! ### The statement -/

theorem laneOf_four (v k : Nat) : laneOf v 4 k = v / 16 ^ k % 16 := by
  rw [laneOf, pow_mul]
  rfl

/-- Settles O7: every form has its effect where its guard is true; what is computed is an exact sum of products rounded once, and
comparisons go by the order of the encodings. -/
theorem floatFormsAndValues : Obligations.FloatFormsAndValues := by
  unfold Obligations.FloatFormsAndValues
  refine ⟨fun i n s sem hi hp hg h => ?_, fun f hf x hx => f.decode_table hf x hx, fun i n s hi hp hg => ?_,
    fun i n s hi hp hg => ?_⟩
  · have hs : fluSem n.op = some sem := by
      revert h
      generalize n.op = o
      cases o <;> intro h <;> first | exact h.elim | exact h ▸ rfl
    exact exec_fluSem i n s sem _ hi hp hg hs (fun _ => rfl)
  · refine ⟨fun ho => ?_, fun ho => ?_, fun ho => ?_, fun ho _ => ?_, fun ho himm => ?_, fun ho => ?_, fun ho => ?_, fun ho => ?_, fun ho => ?_⟩
    · exact computes_wrF hi hp hg (sem := fluAdd) (by rw [ho]; rfl) _ _ (fun _ => rfl)
        (fun x => (fp32.add_sumsTo fp32_fine _ _ _ false).computes _)
    · exact computes_wrF hi hp hg (sem := fluSub) (by rw [ho]; rfl) _ _ (fun _ => rfl)
        (fun x => (fp32.add_sumsTo fp32_fine _ _ _ true).computes _)
    · exact computes_wrF hi hp hg (sem := fluMul) (by rw [ho]; rfl) _ _ (fun _ => rfl)
        (fun x => (fp32.prod_sumsTo fp32_fine _ _ _).computes _)
    · exact computes_wrF hi hp hg (sem := fluFma) (by rw [ho]; rfl) _ _ (fun _ => rfl)
        (fun x => (fp32.fma_sumsTo fp32_fine _ _ _ _ _ _).computes _)
    · exact computes_wrF hi hp hg (sem := fluDot2) (by rw [ho]; rfl) _ _ (fun _ => rfl)
        (fun x => by
          rw [n.bitsB_reg x himm]
          exact (fp32.dot_sumsTo fp32_fine _ _ _ _ _ _).computes false)
    · exact lanesCompute hi hp hg (sem := fluAdd2) (by rw [ho]; rfl) _ _
        (fun x k => [⟨false, [n.laneVal (n.bitsA x) k]⟩, ⟨false, [n.laneB x k]⟩]) (fun _ => rfl) (fun x k hk => by
        rw [← n.decode_packB x k hk]
        exact (n.half.add_sumsTo n.half_fine _ _ _ false).computes _)
    · exact lanesCompute hi hp hg (sem := fluMul2) (by rw [ho]; rfl) _ _
        (fun x k => [⟨false, [n.laneVal (n.bitsA x) k, n.laneB x k]⟩]) (fun _ => rfl) (fun x k hk => by
        rw [← n.decode_packB x k hk]
        exact (n.half.prod_sumsTo n.half_fine _ _ _).computes _)
    · exact lanesCompute hi hp hg (sem := fluFma2) (by rw [ho]; rfl) _ _
        (fun x k => [⟨false, [n.laneVal (n.bitsA x) k, n.laneB x k]⟩, ⟨false, [n.laneVal (n.bitsC x) k]⟩]) (fun _ => rfl) (fun x k hk => by
        rw [← n.decode_packB x k hk]
        exact (n.half.fma_sumsTo n.half_fine _ _ _ _ false false).computes _)
    · exact computes_wrF hi hp hg (sem := fluQ4dec) (by rw [ho]; rfl) _ _ (fun _ => rfl)
        (fun x => by
          rw [laneOf_four]
          exact (fp32.prod_sumsTo fp32_fine _ _ _).computes false)
  · intro A B C imm key key' cond pick
    have hcond : cond = condOf := by
      funext f c a b
      rcases c with _ | _ | _ | _ | _ | _ | _ | _ | _ | _ | _ | _ | _ | c <;> rfl
    have hpick : pick = pickOf := rfl
    clear_value cond pick
    subst hcond hpick
    intro sig out res h half hb
    have hlane : ∀ x k, k < 2 → laneOf (n.packB x) 16 k = if n.imm then (imm16 n.f).toNat
        else (x.reg n.b).v.toNat / 2 ^ (16 * k) % 2 ^ 16 := fun x k hk => n.laneOf_packB x k hk
    refine ⟨fun ho => ?_, fun ho himm => ?_, fun ho => ?_, fun ho => ?_, fun ho => ?_⟩
    · refine exec_fluSem i n s fluCmp _ hi hp hg (by rw [ho]; rfl) (fun x => (fluCmp_eq n x).trans ?_)
      show _ = (⟨_, _, _⟩ : Eff)
      generalize n.mb 4 2 = o
      rcases o with _ | _ | _ | o <;> rfl
    · exact exec_fluSem i n s fluClamp _ hi hp hg (by rw [ho]; rfl) (fun x => fluClamp_eq n x himm)
    · exact exec_fluSem i n s fluCmp2 _ hi hp hg (by rw [ho]; rfl) (fun x => fluCmp2_eq n x _ _ (fun _ _ => rfl) (hlane x))
    · rcases ho with ho | ho
      · rw [ho]
        exact exec_fluSem i n s fluMin2 _ hi hp hg (by rw [ho]; rfl) (fun x => lanes2_pick n x false _ _ (fun _ _ => rfl) (hlane x))
      · rw [ho]
        exact exec_fluSem i n s fluMax2 _ hi hp hg (by rw [ho]; rfl) (fun x => lanes2_pick n x true _ _ (fun _ _ => rfl) (hlane x))
    · refine ⟨fun x => (rndOf (n.mb 8 3) (x.reg n.b).v.toNat).1,
        exec_fluSem i n s fluRnd _ hi hp hg (by rw [ho]; rfl) (fun x => fluRnd_eq n x), fun x => ⟨fun h => ?_, fun h => ?_, fun h h' => ?_⟩⟩
      · show (rndOf _ _).1 = _
        unfold rndOf
        cases hd : fp32.decode (x.reg n.b).v.toNat <;> rw [hd] at h <;> first | rfl | cases h
      · show (rndOf _ _).1 = _
        unfold rndOf
        cases hd : fp32.decode (x.reg n.b).v.toNat <;> rw [hd] at h <;> first | rfl | cases h
      · exact rndOf_fin _ _ (x.reg n.b).v.isLt h h'

end Sys2Proof.Machine
end

section
/-! ## Conversions (O8) -/
namespace Sys2Proof.Machine

/-! ### Conversion codes (Table 6-3) -/

theorem dstOf_flt {c : Nat} {f : Fmt} (h : dstOf c = .flt f) : f ∈ [fp32, bf16, fp16, e4m3, e5m2, e2m1] := by
  unfold dstOf at h
  split at h <;> cases h <;> decide

theorem dstOf_int {c w : Nat} {sg : Bool} (h : dstOf c = .int w sg) : 1 ≤ w := by
  unfold dstOf at h
  split at h <;> cases h <;> decide

/-- The bits of a converted element, of its own width. -/
def convertBits (dst rnd : Nat) (sat : Bool) (src : Src) : Nat × Exc :=
  match dstOf dst, src with
  | .int w sg, .int v => (modW w (if sat then satOf w sg v else v), Exc.none)
  | .int w sg, .flt f x => (modW w (convI w sg rnd (f.decode x)).1, (convI w sg rnd (f.decode x)).2)
  | .flt g, .int v => convF g rnd sat none (.fin (decide (v < 0)) v.natAbs 0)
  | .flt g, .flt f x => convF g rnd sat (some f) (f.decode x)

theorem modW_lt (w : Nat) (v : Int) : modW w v < 2 ^ w := by
  have h1 := Int.emod_lt_of_pos v (show (0 : Int) < 2 ^ w by positivity)
  have h2 := Int.emod_nonneg v (show (2 : Int) ^ w ≠ 0 by positivity)
  unfold modW
  zify
  omega

theorem modW_valOf (w : Nat) (sg : Bool) (n : Nat) (hw : w ≤ 32) (h : n < 2 ^ w) (hc : w = 32 ∨ sg = false) :
    modW 32 (valOf w sg n) = n := by
  unfold modW valOf
  rw [Nat.mod_eq_of_lt h]
  have hp : 2 ^ w ≤ 2 ^ 32 := Nat.pow_le_pow_right (by norm_num) hw
  rcases hc with rfl | rfl
  · dsimp only
    split <;> norm_num <;> omega
  · simp only [Bool.false_and, Bool.false_eq_true, if_false]
    norm_num
    omega

/-- What D holds of a converted element: the narrow signed lane types sign-extended (R138). -/
theorem dstBits_eq (dst w : Nat) (sg : Bool) (v : Int) (h : dstOf dst = .int w sg) :
    dstBits dst w sg v = if dst = 10 ∨ dst = 12 then modW 32 (valOf w true (modW w v)) else modW w v := by
  have hc : dst ≤ 6 ∨ dst = 10 ∨ dst = 12 ∨ w = 64 ∨ (6 < dst ∧ dst ≠ 10 ∧ dst ≠ 12 ∧ w ≤ 32 ∧ (w = 32 ∨ sg = false)) := by
    revert h
    unfold dstOf
    split <;> intro h <;> cases h <;> first | omega | simp_all
  have hm := modW_lt w v
  unfold dstBits
  rcases hc with hc | rfl | rfl | rfl | ⟨h1, h2, h3, h4, h5⟩
  · rw [if_pos hc, if_neg (by omega)]
  · cases h
    rfl
  · cases h
    rfl
  · by_cases h6 : dst ≤ 6
    · rw [if_pos h6, if_neg (by omega)]
    · rw [if_neg h6, if_pos rfl, if_neg (by rintro (rfl | rfl) <;> cases h)]
  · rw [if_neg (by omega), if_neg (by omega), if_neg (by omega), modW_valOf w sg _ h4 hm h5]

/-- The model's conversion: the bits of the element, extended for D. -/
theorem convert_eq (dst rnd : Nat) (sat : Bool) (src : Src) :
    convert dst rnd sat src = (if dst = 10 ∨ dst = 12 then modW 32 (valOf (codeWidth dst) true (convertBits dst rnd sat src).1)
      else (convertBits dst rnd sat src).1, (convertBits dst rnd sat src).2) := by
  unfold convert convertBits codeWidth
  cases hd : dstOf dst with
  | int w sg => cases src <;> simp only [dstBits_eq dst w sg _ hd]
  | flt g =>
    have : ¬(dst = 10 ∨ dst = 12) := by rintro (rfl | rfl) <;> cases hd
    cases src <;> simp only [this, if_false]

/-! ### Values to integers and to floating point (R45, R46) -/

theorem satOf_eq (w : Nat) (sg : Bool) (v : Int) : satOf w sg v = max (intRange w sg).1 (min v (intRange w sg).2) := by
  cases sg <;> rfl

theorem intRange_le (w : Nat) (sg : Bool) : (intRange w sg).1 ≤ (intRange w sg).2 := by
  have h1 : (0 : Int) < 2 ^ (w - 1) := by positivity
  have h2 : (0 : Int) < 2 ^ w := by positivity
  cases sg
  · show (0 : Int) ≤ 2 ^ w - 1
    omega
  · show -(2 ^ (w - 1) : Int) ≤ 2 ^ (w - 1) - 1
    omega

/-- A value becomes an integer by rounding and clamping (R46). -/
theorem convI_intsTo (w : Nat) (sg : Bool) (rnd : Nat) (v : FV) : v.intsTo w sg rnd (convI w sg rnd v).1 (convI w sg rnd v).2 := by
  cases v with
  | nan s => exact ⟨rfl, rfl⟩
  | inf n => cases n <;> cases sg <;> exact ⟨rfl, rfl⟩
  | fin n m e =>
    have hle := intRange_le w sg
    have hc : convI w sg rnd (.fin n m e) = if roundInt rnd n m e false < (intRange w sg).1 then ((intRange w sg).1, Exc.invalid)
        else if roundInt rnd n m e false > (intRange w sg).2 then ((intRange w sg).2, Exc.invalid)
        else (roundInt rnd n m e false, Exc.none) := by
      cases sg <;> rfl
    refine ⟨roundInt rnd n m e false, ?_, ?_⟩
    · rw [FV.rat_signed]
      exact roundInt_isRounding rnd n m e
    · rw [hc]
      split
      · next h => exact ⟨by simp only []; omega, (if_pos (.inl h)).symm⟩
      · split
        · next h => exact ⟨by simp only []; omega, (if_pos (.inr h)).symm⟩
        · exact ⟨by simp only []; omega, (if_neg (by omega)).symm⟩

theorem Fmt.nans_zero (f : Fmt) (hf : f.Fine) : (f.nans == 0) = (f == e2m1) := by
  rw [Bool.eq_iff_iff, beq_iff_eq, beq_iff_eq, hf.none]

/-- A value becomes a floating-point number by one rounding (R44–R46). -/
theorem convF_floatsTo (f : Fmt) (hf : f.Fine) (rnd : Nat) (sat : Bool) (src : Option Fmt) (v : FV) :
    v.floatsTo (narrower src f) f rnd sat (convF f rnd sat src v).1 (convF f rnd sat src v).2 := by
  cases v with
  | nan s => exact ⟨rfl, by rw [← f.nans_zero hf]; rfl⟩
  | inf n =>
    unfold FV.floatsTo convF Fmt.ofInf
    simp only [← f.nans_zero hf]
    by_cases hi : f.inf = true
    · simp only [hi, if_true]
      exact ⟨trivial, trivial⟩
    · by_cases hn : f.nans = 0 <;> simp [hi, hn]
  | fin n m e =>
    unfold FV.floatsTo convF
    by_cases hm : m = 0
    · simp only [hm, if_true]
      exact ⟨rfl, rfl⟩
    · simp only [hm, if_false]
      rw [FV.rat_signed]
      exact f.round_rounds hf rnd sat n m e hm

/-- Which format is narrower goes by the largest magnitudes (R45). -/
theorem narrower_some (g f : Fmt) (hg : g.Fine) (hf : f.Fine) :
    narrower (some f) g = decide ((g.decode g.maxBits).rat < (f.decode f.maxBits).rat) := by
  have hfin : ∀ h : Fmt, h.Fine → ∃ m e, h.decode h.maxBits = .fin false m e := fun h hh => by
    obtain ⟨m, e, hd, -⟩ := h.decode_finite hh false h.maxBits le_rfl
    exact ⟨m, e, by simpa [Fmt.signBit] using hd⟩
  obtain ⟨m, e, hdg⟩ := hfin g hg
  obtain ⟨l, c, hdf⟩ := hfin f hf
  show ((g.decode g.maxBits).cmp (f.decode f.maxBits) == .lt) = _
  rw [hdg, hdf, FV.cmp_fin]
  split
  · next h => rw [decide_eq_true h]; rfl
  · next h =>
    rw [decide_eq_false h]
    split <;> rfl

/-- A source element read in its code converts as the rules say (R138). -/
theorem convertBits_convertsTo (dst src rnd : Nat) (sat : Bool) (x k : Nat) :
    convertsTo dst src rnd sat (laneOf x (codeWidth src) k) (convertBits dst rnd sat (readSrc src x k)).1
      (convertBits dst rnd sat (readSrc src x k)).2 := by
  unfold convertsTo convertBits readSrc codeWidth
  cases hd : dstOf dst with
  | int w sg =>
    cases hs : dstOf src with
    | int w' sg' =>
      refine ⟨rfl, ?_⟩
      rw [← satOf_eq]
      rfl
    | flt f => exact ⟨_, convI_intsTo w sg rnd _, rfl⟩
  | flt g =>
    have hg := Fmt.fine_of_mem (dstOf_flt hd)
    cases hs : dstOf src with
    | int w' sg' => exact convF_floatsTo g hg rnd sat none _
    | flt f =>
      have h := convF_floatsTo g hg rnd sat (some f) (f.decode (laneOf x f.width k))
      rw [narrower_some g f hg (Fmt.fine_of_mem (dstOf_flt hs))] at h
      exact h

/-! ### Results fit their format -/

theorem Fmt.width_split (f : Fmt) : 2 ^ f.width = 2 * 2 ^ (f.fw + f.ew) := by
  rw [← pow_succ', Fmt.width]
  congr 1
  omega

theorem Fmt.signed_lt (f : Fmt) (n : Bool) (b : Nat) (hb : b < 2 ^ (f.fw + f.ew)) : f.signBit n + b < 2 ^ f.width := by
  rw [f.signBit_eq, f.width_split]
  cases n <;> simp <;> omega

/-- The encodings that stand at the ends of a format. -/
theorem Fmt.ends_lt {f : Fmt} (h : f ∈ [fp32, bf16, fp16, e4m3, e5m2, e2m1]) : f.canon < 2 ^ (f.fw + f.ew)
    ∧ (2 ^ f.ew - 1) * 2 ^ f.fw < 2 ^ (f.fw + f.ew) := by
  simp only [List.mem_cons, List.not_mem_nil, or_false] at h
  rcases h with rfl | rfl | rfl | rfl | rfl | rfl <;> decide

/-- A converted value is an encoding of its format. -/
theorem convF_lt {f : Fmt} (h : f ∈ [fp32, bf16, fp16, e4m3, e5m2, e2m1]) (rnd : Nat) (sat : Bool) (src : Option Fmt) (v : FV) :
    (convF f rnd sat src v).1 < 2 ^ f.width := by
  obtain ⟨hc, hi⟩ := Fmt.ends_lt h
  have hcw : f.canon < 2 ^ f.width := by
    rw [f.width_split]
    omega
  have hmax : ∀ n, f.signBit n + f.maxBits < 2 ^ f.width := fun n => f.signed_lt n _ f.maxBits_lt
  have hinf : ∀ n, f.infBits n < 2 ^ f.width := fun n => f.signed_lt n _ hi
  cases v with
  | nan s => exact hcw
  | inf n =>
    show (f.ofInf sat n _).1 < _
    unfold Fmt.ofInf
    split
    · dsimp only
      split
      · exact hmax n
      · exact hinf n
    · split
      · exact hmax n
      · dsimp only
        split
        · exact hmax n
        · exact hcw
  | fin n m e =>
    show (f.round rnd sat n m e false).1 < _
    unfold Fmt.round
    split
    · exact f.signed_lt n 0 (by positivity)
    · dsimp only
      split
      · show f.overflow rnd n sat < _
        rw [f.overflow_eq (Fmt.fine_of_mem h)]
        split_ifs
        · exact hinf n
        · exact hcw
        · exact hmax n
      · next hle => exact f.signed_lt n _ (lt_of_le_of_lt (not_lt.mp hle) f.maxBits_lt)

/-- A converted element has the width of its code. -/
theorem convertBits_lt (dst rnd : Nat) (sat : Bool) (src : Src) : (convertBits dst rnd sat src).1 < 2 ^ codeWidth dst := by
  unfold convertBits codeWidth
  cases hd : dstOf dst with
  | int w sg => cases src <;> exact modW_lt _ _
  | flt g => cases src <;> exact convF_lt (dstOf_flt hd) _ _ _ _

/-! ### Fields of a word -/

theorem laneOf_below (r y w k j : Nat) (hj : j < k) : laneOf (r + 2 ^ (w * k) * y) w j = laneOf r w j := by
  obtain ⟨d, rfl⟩ : ∃ d, k = j + 1 + d := ⟨k - (j + 1), by omega⟩
  unfold laneOf
  rw [show 2 ^ (w * (j + 1 + d)) * y = 2 ^ (w * j) * (2 ^ w * (2 ^ (w * d) * y)) by ring,
    Nat.add_mul_div_left _ _ (by positivity), Nat.add_mul_mod_self_left]

theorem laneOf_at (r y w k : Nat) (hr : r < 2 ^ (w * k)) : laneOf (r + 2 ^ (w * k) * y) w k = y % 2 ^ w := by
  unfold laneOf
  rw [Nat.add_mul_div_left _ _ (by positivity), Nat.div_eq_of_lt hr, Nat.zero_add]

theorem laneOf_above (r v q w k j : Nat) (hr : r < 2 ^ (w * k)) (hv : v < 2 ^ w) (hj : k < j) :
    laneOf (r + 2 ^ (w * k) * (v + 2 ^ w * q)) w j = laneOf q w (j - (k + 1)) := by
  obtain ⟨d, rfl⟩ : ∃ d, j = k + 1 + d := ⟨j - (k + 1), by omega⟩
  unfold laneOf
  rw [show 2 ^ (w * (k + 1 + d)) = 2 ^ (w * k) * (2 ^ w * 2 ^ (w * d)) by ring, ← Nat.div_div_eq_div_mul,
    Nat.add_mul_div_left _ _ (by positivity), Nat.div_eq_of_lt hr, Nat.zero_add, ← Nat.div_div_eq_div_mul,
    Nat.add_mul_div_left _ _ (by positivity), Nat.div_eq_of_lt hv, Nat.zero_add, Nat.add_sub_cancel_left]

/-- A number, cut at a field. -/
theorem laneOf_cut (x w k : Nat) : x = x % 2 ^ (w * k) + 2 ^ (w * k) * (laneOf x w k + 2 ^ w * (x / 2 ^ (w * k) / 2 ^ w)) := by
  unfold laneOf
  rw [Nat.mod_add_div, Nat.mod_add_div]

/-- A number with a field replaced, cut at that field. -/
theorem putLane_cut (x w k v : Nat) :
    putLane x w k v = x % 2 ^ (w * k) + 2 ^ (w * k) * (v % 2 ^ w + 2 ^ w * (x / 2 ^ (w * k) / 2 ^ w)) := by
  have h : x = x % 2 ^ (w * k) + 2 ^ (w * k) * (2 ^ w * (x / 2 ^ (w * k) / 2 ^ w)) + laneOf x w k * 2 ^ (w * k) := by
    conv_lhs => rw [laneOf_cut x w k]
    ring
  unfold putLane
  rw [Nat.sub_eq_of_eq_add h]
  ring

/-- The fields of a number with one field replaced. -/
theorem laneOf_putLane (x w k v j : Nat) : laneOf (putLane x w k v) w j = if j = k then v % 2 ^ w else laneOf x w j := by
  have hr : x % 2 ^ (w * k) < 2 ^ (w * k) := Nat.mod_lt _ (by positivity)
  have hv : v % 2 ^ w < 2 ^ w := Nat.mod_lt _ (by positivity)
  have hx : laneOf x w k < 2 ^ w := Nat.mod_lt _ (by positivity)
  rw [putLane_cut]
  rcases lt_trichotomy j k with hj | rfl | hj
  · rw [if_neg hj.ne, laneOf_below _ _ w k j hj, ← laneOf_below _ _ w k j hj, ← laneOf_cut]
  · rw [if_pos rfl, laneOf_at _ _ w j hr, Nat.add_mul_mod_self_left, Nat.mod_mod]
  · rw [if_neg hj.ne', laneOf_above _ _ _ w k j hr hv hj, ← laneOf_above _ _ _ w k j hr hx hj, ← laneOf_cut]

/-! ### q4enc (R141, R48) -/

/-- A search through growing thresholds counts those that are met. -/
theorem foldl_range_count (p : Nat → Prop) [DecidablePred p] (n : Nat) (h : ∀ k < n, ∀ j < k, p k → p j) :
    let r := (List.range n).foldl (fun m k => if p k then k + 1 else m) 0
    r ≤ n ∧ ∀ k < n, p k ↔ k < r := by
  induction n with
  | zero => exact ⟨le_rfl, fun k hk => absurd hk (Nat.not_lt_zero k)⟩
  | succ n ih =>
    obtain ⟨h1, h2⟩ := ih (fun k hk => h k (hk.trans n.lt_succ_self))
    simp only [List.range_succ, List.foldl_append, List.foldl_cons, List.foldl_nil]
    by_cases hn : p n
    · rw [if_pos hn]
      refine ⟨le_rfl, fun k hk => ⟨fun _ => hk, fun _ => ?_⟩⟩
      rcases Nat.lt_succ_iff_lt_or_eq.mp hk with hlt | rfl
      · exact h n n.lt_succ_self k hlt hn
      · exact hn
    · rw [if_neg hn]
      refine ⟨h1.trans (Nat.le_succ n), fun k hk => ?_⟩
      rcases Nat.lt_succ_iff_lt_or_eq.mp hk with hlt | rfl
      · exact h2 k hlt
      · exact ⟨fun hp => absurd hp hn, fun hlt => absurd hlt (not_lt.mpr h1)⟩

/-- An entry of the codebook, in units of 1/128. -/
def q4nEntry (c : Nat) : Int := q4nBook.getD c 0

theorem q4nEntry_lt : ∀ c < 16, ∀ d < c, q4nEntry d < q4nEntry c := by decide

theorem q4nVal_rat (c : Nat) : (q4nVal c).rat = q4nEntry c / 128 := by
  have h : (q4nVal c).rat = (dyOf (decide (q4nEntry c < 0)) (q4nEntry c).natAbs (-7)).rat := (dyOf_rat _ _ _).symm
  have hm : (dyOf (decide (q4nEntry c < 0)) (q4nEntry c).natAbs (-7)).m = q4nEntry c := by
    unfold dyOf
    by_cases hc : q4nEntry c < 0
    · simp only [decide_eq_true hc, if_true]
      omega
    · simp only [decide_eq_false hc, Bool.false_eq_true, if_false]
      omega
  rw [h, Dy.rat, hm]
  show (q4nEntry c : ℚ) * 2 ^ (-7 : Int) = _
  norm_num
  ring

/-- Whether a quotient lies beyond the middle of two neighbouring entries, or on it with the upper code even. -/
def q4nBeyond (q : ℚ) (k : Nat) : Prop :=
  ((q4nEntry k + q4nEntry (k + 1) : Int) : ℚ) < 256 * q ∨ (256 * q = (q4nEntry k + q4nEntry (k + 1) : Int) ∧ k % 2 = 1)

theorem q4nBeyond_iff (a b : Dy) (hb : 0 < b.rat) (k : Nat) :
    let e := min a.e b.e
    let x := a.m * 2 ^ (a.e - e).toNat * 256
    let y := b.m * 2 ^ (b.e - e).toNat
    let mid := q4nEntry k + q4nEntry (k + 1)
    (x > mid * y ∨ (x = mid * y ∧ k % 2 = 1)) ↔ q4nBeyond (a.rat / b.rat) k := by
  intro e x y mid
  have hpos : (0 : ℚ) < 2 ^ e := by positivity
  have ha : (x : ℚ) * 2 ^ e = 256 * a.rat := by
    have := two_zpow_split a.e e (min_le_left _ _)
    show ((a.m * 2 ^ (a.e - e).toNat * 256 : Int) : ℚ) * 2 ^ e = 256 * (a.m * 2 ^ a.e)
    push_cast
    rw [← this]
    ring
  have hy : (y : ℚ) * 2 ^ e = b.rat := by
    have := two_zpow_split b.e e (min_le_right _ _)
    show ((b.m * 2 ^ (b.e - e).toNat : Int) : ℚ) * 2 ^ e = b.m * 2 ^ b.e
    push_cast
    rw [← this]
    ring
  have hq : 256 * (a.rat / b.rat) = (x : ℚ) / y := by
    rw [← mul_div_assoc, ← ha, ← hy, mul_div_mul_right _ _ hpos.ne']
  have hy0 : (0 : ℚ) < y := by
    rw [← hy] at hb
    exact pos_of_mul_pos_left hb hpos.le
  unfold q4nBeyond
  rw [hq, lt_div_iff₀ hy0, div_eq_iff hy0.ne', gt_iff_lt]
  norm_cast

theorem q4nBeyond_anti (y : ℚ) : ∀ k < 15, ∀ j < k, q4nBeyond y k → q4nBeyond y j := by
  intro k hk j hj h
  have h1 := q4nEntry_lt k (by omega) j hj
  have h2 := q4nEntry_lt (k + 1) (by omega) (j + 1) (by omega)
  have hm : ((q4nEntry j + q4nEntry (j + 1) : Int) : ℚ) < (q4nEntry k + q4nEntry (k + 1) : Int) := by
    exact_mod_cast (by omega : q4nEntry j + q4nEntry (j + 1) < q4nEntry k + q4nEntry (k + 1))
  rcases h with h | ⟨h, -⟩
  · exact .inl (hm.trans h)
  · exact .inl (hm.trans_eq h.symm)

/-- Of two points, the lower is nearer to what lies below their middle, and both are equally near to their middle. -/
theorem abs_sub_of_middle {y a b : ℚ} (hab : a < b) :
    (2 * y < a + b → |y - a| < |y - b|) ∧ (a + b < 2 * y → |y - b| < |y - a|) ∧ (2 * y = a + b → |y - a| = |y - b|) := by
  refine ⟨fun h => ?_, fun h => ?_, fun h => ?_⟩
  · rw [abs_of_neg (show y - b < 0 by linarith), abs_lt]
    exact ⟨by linarith, by linarith⟩
  · rw [abs_of_pos (show 0 < y - a by linarith), abs_lt]
    exact ⟨by linarith, by linarith⟩
  · rw [abs_of_neg (show y - b < 0 by linarith), abs_of_pos (show 0 < y - a by linarith)]
    linarith

/-- The code with as many middles below it as lie below a quotient is nearest to that, the even one of two. -/
theorem q4n_nearest (y : ℚ) (q : Nat) (hq : q ≤ 15) (h : ∀ k < 15, q4nBeyond y k ↔ k < q) (c : Nat) (hc : c < 16) :
    |y - (q4nVal q).rat| ≤ |y - (q4nVal c).rat|
      ∧ (c ≠ q → |y - (q4nVal c).rat| = |y - (q4nVal q).rat| → q % 2 = 0) := by
  rw [q4nVal_rat, q4nVal_rat]
  rcases lt_trichotomy c q with hlt | rfl | hgt
  · have hE : (q4nEntry c : ℚ) / 128 < q4nEntry q / 128 := by
      have : (q4nEntry c : ℚ) < q4nEntry q := by exact_mod_cast q4nEntry_lt q (by omega) c hlt
      linarith
    obtain ⟨k, rfl⟩ : ∃ k, q = k + 1 := ⟨q - 1, by omega⟩
    have hle : (q4nEntry c : ℚ) ≤ q4nEntry k := by
      rcases Nat.lt_succ_iff_lt_or_eq.mp hlt with hck | rfl
      · exact_mod_cast (q4nEntry_lt k (by omega) c hck).le
      · exact le_rfl
    obtain ⟨-, m2, m3⟩ := abs_sub_of_middle (y := y) hE
    rcases (h k (by omega)).mpr (Nat.lt_succ_self k) with hb | ⟨hb, hodd⟩
    · push_cast at hb
      have hs := m2 (by linarith)
      exact ⟨hs.le, fun _ he => absurd he hs.ne'⟩
    · push_cast at hb
      refine ⟨?_, fun _ _ => by omega⟩
      rcases hle.lt_or_eq with hlt' | heq
      · exact (m2 (by linarith)).le
      · exact (m3 (by linarith)).ge
  · exact ⟨le_rfl, fun hne => absurd rfl hne⟩
  · have hE : (q4nEntry q : ℚ) / 128 < q4nEntry c / 128 := by
      have : (q4nEntry q : ℚ) < q4nEntry c := by exact_mod_cast q4nEntry_lt c hc q hgt
      linarith
    have hle : (q4nEntry (q + 1) : ℚ) ≤ q4nEntry c := by
      rcases Nat.lt_or_eq_of_le (Nat.succ_le_of_lt hgt) with hck | heq
      · exact_mod_cast (q4nEntry_lt c hc (q + 1) hck).le
      · rw [← heq]
    obtain ⟨m1, -, m3⟩ := abs_sub_of_middle (y := y) hE
    have hnb : ¬q4nBeyond y q := fun hb => absurd ((h q (by omega)).mp hb) (lt_irrefl q)
    unfold q4nBeyond at hnb
    push_cast at hnb
    rw [not_or, not_lt] at hnb
    obtain ⟨hb, hodd⟩ := hnb
    rcases (hb.trans (add_le_add_right hle _)).lt_or_eq with hlt' | heq
    · have hs := m1 (by linarith)
      exact ⟨hs.le, fun _ he => absurd he hs.ne'⟩
    · refine ⟨(m3 (by linarith)).le, fun _ _ => ?_⟩
      have : ¬q % 2 = 1 := fun ho => hodd ⟨le_antisymm hb (by linarith), ho⟩
      omega

/-- The code of a quotient (R48). -/
theorem q4nCode_nearest (a b : Dy) (hb : 0 < b.rat) : q4nCode a b < 16 ∧ ∀ c < 16,
    |a.rat / b.rat - (q4nVal (q4nCode a b)).rat| ≤ |a.rat / b.rat - (q4nVal c).rat|
      ∧ (c ≠ q4nCode a b → |a.rat / b.rat - (q4nVal c).rat| = |a.rat / b.rat - (q4nVal (q4nCode a b)).rat| → q4nCode a b % 2 = 0) := by
  have hiff := q4nBeyond_iff a b hb
  obtain ⟨h1, h2⟩ := foldl_range_count (fun k => a.m * 2 ^ (a.e - min a.e b.e).toNat * 256
      > (q4nEntry k + q4nEntry (k + 1)) * (b.m * 2 ^ (b.e - min a.e b.e).toNat)
      ∨ (a.m * 2 ^ (a.e - min a.e b.e).toNat * 256 = (q4nEntry k + q4nEntry (k + 1)) * (b.m * 2 ^ (b.e - min a.e b.e).toNat)
        ∧ k % 2 = 1)) 15 (fun k hk j hj hp => (hiff j).mpr (q4nBeyond_anti _ k hk j hj ((hiff k).mp hp)))
  have h3 : ∀ k < 15, q4nBeyond (a.rat / b.rat) k ↔ k < q4nCode a b := fun k hk => (hiff k).symm.trans (h2 k hk)
  exact ⟨Nat.lt_succ_of_le h1, fun c hc => q4n_nearest _ _ h1 h3 c hc⟩

/-- What q4enc gives (R141). -/
theorem q4Encode_spec (a b : FV) : (∃ bad, (q4Encode a b).2 = ⟨bad, false, false⟩) ∧ (q4Encode a b).1 < 16
    ∧ let scale := b.isNan = false ∧ b.isInf = false ∧ 0 < b.rat
      let off := fun (c : Nat) => |a.rat / b.rat - (q4nVal c).rat|
      (¬scale → (q4Encode a b).1 = 7 ∧ (q4Encode a b).2.inv = true)
      ∧ (scale → (a.isNan = true → (q4Encode a b).1 = 7 ∧ (q4Encode a b).2.inv = true)
        ∧ (a.isInf = true → (q4Encode a b).1 = (if a.neg then 0 else 15) ∧ (q4Encode a b).2.inv = false)
        ∧ (a.isNan = false → a.isInf = false → (q4Encode a b).2.inv = false
            ∧ ∀ c < 16, off (q4Encode a b).1 ≤ off c ∧ (c ≠ (q4Encode a b).1 → off c = off (q4Encode a b).1 → (q4Encode a b).1 % 2 = 0))) := by
  have hnot : (∀ m e, b ≠ .fin false (m + 1) e) → ¬(b.isNan = false ∧ b.isInf = false ∧ 0 < b.rat) := by
    rintro hb ⟨h1, h2, h3⟩
    cases b with
    | nan s => cases h1
    | inf n => cases h2
    | fin n m e =>
      rw [FV.rat_fin] at h3
      cases n with
      | true =>
        have : (0 : ℚ) ≤ m * 2 ^ e := by positivity
        simp only [if_true] at h3
        linarith
      | false =>
        cases m with
        | zero => simp at h3
        | succ m => exact hb m e rfl
  by_cases hb : ∃ m e, b = .fin false (m + 1) e
  · obtain ⟨m, e, rfl⟩ := hb
    have hpos : 0 < (FV.fin false (m + 1) e).rat := by
      rw [FV.rat_fin]
      simp only [Bool.false_eq_true, if_false, one_mul]
      positivity
    have hscale : (FV.fin false (m + 1) e).isNan = false ∧ (FV.fin false (m + 1) e).isInf = false ∧ 0 < (FV.fin false (m + 1) e).rat :=
      ⟨rfl, rfl, hpos⟩
    cases a with
    | nan s => exact ⟨⟨true, rfl⟩, (by norm_num : 7 < 16), fun h => absurd hscale h, fun _ => ⟨fun _ => ⟨rfl, rfl⟩, nofun, nofun⟩⟩
    | inf n =>
      refine ⟨⟨false, rfl⟩, ?_, fun h => absurd hscale h, fun _ => ⟨nofun, fun _ => ⟨rfl, rfl⟩, fun _ => nofun⟩⟩
      show (if n then 0 else 15) < 16
      split <;> norm_num
    | fin n l c =>
      have hr : (⟨(m : Int) + 1, e⟩ : Dy).rat = (FV.fin false (m + 1) e).rat := dyOf_rat false (m + 1) e
      have h := q4nCode_nearest (dyOf n l c) ⟨(m : Int) + 1, e⟩ (by rw [hr]; exact hpos)
      rw [hr, dyOf_rat] at h
      exact ⟨⟨false, rfl⟩, h.1, fun h => absurd hscale h, fun _ => ⟨nofun, nofun, fun _ _ => ⟨rfl, h.2⟩⟩⟩
  · have hq : q4Encode a b = (7, Exc.invalid) := by
      unfold q4Encode
      split
      · exact absurd ⟨_, _, rfl⟩ hb
      · rfl
    have hns := hnot (fun m e he => hb ⟨m, e, he⟩)
    rw [hq]
    exact ⟨⟨true, rfl⟩, by decide, fun _ => ⟨rfl, rfl⟩, fun h => absurd h hns⟩

/-! ### The statement -/

theorem cvtWidth_eq (c : Nat) (h : c ≤ 6) : cvtWidth c = codeWidth c := by
  interval_cases c <;> rfl

theorem convert_bits (dst rnd : Nat) (sat : Bool) (src : Src) (h : dst ≤ 7) : convert dst rnd sat src = convertBits dst rnd sat src := by
  rw [convert_eq, if_neg (by omega)]

theorem laneOf_word (x : Word) : laneOf x.toNat 32 0 = x.toNat := by
  rw [laneOf, Nat.mul_zero, pow_zero, Nat.div_one, Nat.mod_eq_of_lt x.isLt]

/-- A whole FP32 register as a source. -/
theorem readSrc_fp32 (x : Word) : readSrc 7 x.toNat 0 = .flt fp32 x.toNat := congrArg (Src.flt fp32) (laneOf_word x)

/-- An FP32 register converts as the rules say (R139). -/
theorem convertBits_word (dst rnd : Nat) (sat : Bool) (x : Word) :
    convertsTo dst 7 rnd sat x.toNat (convertBits dst rnd sat (.flt fp32 x.toNat)).1 (convertBits dst rnd sat (.flt fp32 x.toNat)).2 := by
  have h := convertBits_convertsTo dst 7 rnd sat x.toNat 0
  rw [readSrc_fp32] at h
  change convertsTo dst 7 rnd sat (laneOf x.toNat 32 0) _ _ at h
  rwa [laneOf_word] at h

/-- Two fields of a number replaced. -/
theorem laneOf_putLane_two (x w k a b j : Nat) (ha : a < 2 ^ w) (hb : b < 2 ^ w) :
    laneOf (putLane (putLane x w k a) w (k + 1) b) w j = if j = k then a else if j = k + 1 then b else laneOf x w j := by
  rw [laneOf_putLane, laneOf_putLane, Nat.mod_eq_of_lt ha, Nat.mod_eq_of_lt hb]
  by_cases h1 : j = k
  · rw [if_pos h1, if_neg (by omega), if_pos h1]
  · rw [if_neg h1, if_neg h1]

/-- Settles O8: each element converts as its value says, and goes to its own field; the code of a quotient is the number of
middles of the codebook below it. -/
theorem conversionsOfValues : Obligations.ConversionsOfValues := by
  unfold Obligations.ConversionsOfValues
  intro i n s hi hp hg rnd A B C field out put pair
  refine ⟨fun ho => ?_, fun ho himm hd => ?_, fun ho hs => ?_, fun ho himm => ?_⟩
  · let src := fun (x : Thread) => readSrc (n.mb 0 4) (if 14 ≤ n.mb 0 4 then (x.reg64 n.b).toNat else B x) (n.c / 2 % 8)
    refine ⟨fun x => (convertBits (n.mb 4 4) rnd (n.f.c.getLsbD 0) (src x)).1, fun x => (convertBits (n.mb 4 4) rnd (n.f.c.getLsbD 0) (src x)).2,
      fun x => convertBits_convertsTo _ _ _ _ _ _, exec_fluSem i n s fluCvt _ hi hp hg (by rw [ho]; rfl) (fun x => ?_)⟩
    have hc : fluCvt n x = if 14 ≤ n.mb 4 4
        then pair x (convert (n.mb 4 4) rnd (n.f.c.getLsbD 0) (src x)).1 (convert (n.mb 4 4) rnd (n.f.c.getLsbD 0) (src x)).2
        else put x (convert (n.mb 4 4) rnd (n.f.c.getLsbD 0) (src x)).1 (convert (n.mb 4 4) rnd (n.f.c.getLsbD 0) (src x)).2 := rfl
    rw [hc, convert_eq]
    dsimp only
    by_cases h14 : 14 ≤ n.mb 4 4
    · rw [if_pos h14, if_pos h14, if_neg (by omega)]
    · rw [if_neg h14, if_neg h14]
      rfl
  · let cv := fun (v : Word) => convertBits (n.mb 4 4) rnd (n.f.m.getLsbD 3) (.flt fp32 v.toNat)
    have hlt : ∀ v, (cv v).1 < 2 ^ codeWidth (n.mb 4 4) := fun v => convertBits_lt _ _ _ _
    refine ⟨fun x => (cv (x.reg n.a).v).1, fun x => (cv (x.reg n.b).v).1,
      fun x => putLane (putLane (if n.mb 4 4 ≤ 1 then 0 else C x) (codeWidth (n.mb 4 4)) (2 * n.mb 0 2) (cv (x.reg n.a).v).1)
        (codeWidth (n.mb 4 4)) (2 * n.mb 0 2 + 1) (cv (x.reg n.b).v).1,
      fun x => (cv (x.reg n.a).v).2, fun x => (cv (x.reg n.b).v).2,
      fun x => ⟨convertBits_word _ _ _ _, convertBits_word _ _ _ _⟩, fun x j _ => ?_,
      exec_fluSem i n s fluCvtpk _ hi hp hg (by rw [ho]; rfl) (fun x => ?_)⟩
    · refine (laneOf_putLane_two _ _ _ _ _ j (hlt _) (hlt _)).trans ?_
      by_cases h1 : n.mb 4 4 ≤ 1
      · simp only [h1, if_true]
        rw [show laneOf 0 (codeWidth (n.mb 4 4)) j = 0 by simp [laneOf]]
      · simp only [h1, if_false]
        rfl
    · have hc : ∀ v : Word, convert (n.mb 4 4) n.rnd (n.f.m.getLsbD 3) (.flt fp32 v.toNat) = cv v := fun v =>
        convert_bits _ _ _ _ (by omega)
      unfold fluCvtpk
      dsimp only
      rw [cvtWidth_eq _ hd, hc, show n.bitsA x = (x.reg n.a).v.toNat from rfl, hc]
      rfl
  · let cv := fun (x : Thread) (k : Nat) => convertBits 7 0 false (readSrc (n.mb 0 4) (B x) (2 * n.mb 4 3 + k))
    refine ⟨fun x => (cv x 0).1, fun x => (cv x 1).1, fun x => (cv x 0).2, fun x => (cv x 1).2,
      fun x => ⟨convertBits_convertsTo _ _ _ _ _ _, convertBits_convertsTo _ _ _ _ _ _⟩,
      exec_fluSem i n s fluUnpk _ hi hp hg (by rw [ho]; rfl) (fun x => ?_)⟩
    unfold fluUnpk
    simp only [convert_bits 7 0 false _ le_rfl]
    rfl
  · let q := fun (x : Thread) => q4Encode (fp32.decode (A x)) (fp32.decode (B x))
    have hq : ∀ x, _ := fun x => q4Encode_spec (fp32.decode (A x)) (fp32.decode (B x))
    refine ⟨fun x => (q x).1, fun x => putLane (C x) 4 (n.mb 0 3) (q x).1, fun x => (q x).2.inv, fun x => ?_, fun x j _ => ?_,
      exec_fluSem i n s fluQ4enc _ hi hp hg (by rw [ho]; rfl) (fun x => ?_)⟩
    · exact (hq x).2
    · refine (laneOf_putLane _ _ _ _ j).trans ?_
      have hlt : (q x).1 < 2 ^ 4 := (hq x).2.1
      rw [Nat.mod_eq_of_lt hlt]
      rfl
    · obtain ⟨⟨bad, hb⟩, -⟩ := hq x
      have he : (q x).2 = ⟨(q x).2.inv, false, false⟩ := by
        show (q4Encode _ _).2 = ⟨(q4Encode _ _).2.inv, false, false⟩
        rw [hb]
      show put x _ (q x).2 = put x _ ⟨(q x).2.inv, false, false⟩
      rw [he]
      rfl

end Sys2Proof.Machine
end

section
/-! ## Steps of a matrix unit (O34)

What the end of a step leaves of a workgroup, and its tiles and scratch as the steps write them. -/
namespace Sys2Proof.Machine

/-! ### What a step's end leaves (R250, R251) -/

/-- Two workgroups with the same scratch and the same tiles. -/
def Group.SameStore (x y : Group) : Prop := y.scr = x.scr ∧ y.scrP = x.scrP ∧ ∀ k, (y.wrp k).tiles = (x.wrp k).tiles

section
variable {x y z : Group}
theorem Group.SameStore.refl (x : Group) : x.SameStore x := ⟨rfl, rfl, fun _ => rfl⟩
theorem Group.SameStore.trans (h : x.SameStore y) (k : y.SameStore z) : x.SameStore z := by
  obtain ⟨h1, h2, h3⟩ := h
  obtain ⟨k1, k2, k3⟩ := k
  exact ⟨k1.trans h1, k2.trans h2, fun n => (k3 n).trans (h3 n)⟩
end

theorem State.modG_sameStore (s : State) (g : Nat) (f : Group → Group) (hf : ∀ x : Group, x.SameStore (f x)) :
    (s.grp g).SameStore ((s.modG g f).grp g) :=
  modAt_getD_rel Group.SameStore .refl s.groups g f Group.void g (hf _)

/-- A warp changed in what is not its tiles. -/
theorem Group.modW_sameStore (x : Group) (w : Nat) (f : Warp → Warp) (hf : ∀ y : Warp, (f y).tiles = y.tiles) :
    x.SameStore (x.modW w f) :=
  ⟨rfl, rfl, fun k => modAt_getD_rel (fun y z : Warp => z.tiles = y.tiles) (fun _ => rfl) x.warps w f Warp.void k (hf _)⟩

theorem State.modW_sameStore (s : State) (g w : Nat) (f : Warp → Warp) (hf : ∀ y : Warp, (f y).tiles = y.tiles) :
    (s.grp g).SameStore ((s.modW g w f).grp g) := s.modG_sameStore g _ (fun x => x.modW_sameStore w f hf)

theorem State.lowerFlags_sameStore (s : State) (g w : Nat) (ts : List Nat) (flag : Option Nat) :
    (s.grp g).SameStore ((s.lowerFlags g w ts flag).grp g) := by
  cases flag with
  | none => exact .refl _
  | some n =>
    exact foldl_rel (fun s t : State => (s.grp g).SameStore (t.grp g)) (fun _ => .refl _) (fun h k => h.trans k) _
      (fun b a => b.modG_sameStore g (fun x => x.modT w a (fun t => t.lowerFlag n))
        (fun x => x.modW_sameStore w (fun y => y.mod a (fun t => t.lowerFlag n)) (fun _ => rfl))) ts s

theorem Group.quiet_sameStore (x : Group) : x.SameStore { x.quiet with alive := false, spans := [] } :=
  ⟨rfl, rfl, fun k => getD_map_rel (fun y z : Warp => z.tiles = y.tiles) x.warps _ Warp.void k (fun _ => rfl) rfl⟩

theorem State.settle_sameStore (s : State) (g : Nat) : (s.grp g).SameStore ((s.settle g).grp g) := by
  rcases s.settle_cases g with h | ⟨h, -⟩
  · rw [h]
    exact .refl _
  · have hq : (s.settle g).grp g = (s.modG g (fun x => { x.quiet with alive := false, spans := [] })).grp g := by
      rw [State.grp, h]
      rfl
    rw [hq]
    exact s.modG_sameStore g _ Group.quiet_sameStore

theorem State.mopRetire_sameStore (s : State) (g w : Nat) (o : MOp) : (s.grp g).SameStore ((s.mopRetire g w o).grp g) := by
  refine (s.modW_sameStore g w (fun y => { y with mops := y.mops.filter (fun e => e.id != o.id) }) (fun _ => rfl)).trans ?_
  refine (State.lowerFlags_sameStore _ g w o.ts o.flag).trans ?_
  exact (State.modG_sameStore _ g (fun x => x.boardDone o.id) (fun x => ⟨rfl, rfl, fun _ => rfl⟩)).trans (State.settle_sameStore _ g)

/-- A unit's operation is one of a warp that exists. -/
theorem State.unitOps_exists (s : State) (d c q : Nat) (x : Nat × Nat × MOp) (h : x ∈ s.unitOps d c q) :
    x.1 < s.groups.length ∧ x.2.1 < (s.grp x.1).warps.length := by
  unfold State.unitOps at h
  obtain ⟨g, hg, h⟩ := List.mem_flatMap.mp h
  dsimp only at h
  split at h
  · obtain ⟨w, hw, h⟩ := List.mem_flatMap.mp h
    split at h
    · obtain ⟨o, -, rfl⟩ := List.mem_map.mp h
      exact ⟨List.mem_range.mp hg, List.mem_range.mp hw⟩
    · cases h
  · cases h

/-- A choice among a list's members is one of them. -/
theorem foldl_choice_mem {α : Type} (f : Option α → α → Option α) (hf : ∀ b x, f b x = b ∨ f b x = some x) (l : List α) (b : Option α)
    (x : α) (h : l.foldl f b = some x) : b = some x ∨ x ∈ l := by
  induction l generalizing b with
  | nil => exact .inl h
  | cons a l ih =>
    rcases ih _ h with he | hm
    · rcases hf b a with hb | hb
      · exact .inl (hb.symm.trans he)
      · rw [hb] at he
        cases he
        exact .inr List.mem_cons_self
    · exact .inr (List.mem_cons_of_mem _ hm)

theorem State.chaserPick_exists (s : State) (d c q g w : Nat) (o : MOp) (h : s.chaserPick d c q = some (g, w, o)) :
    g < s.groups.length ∧ w < (s.grp g).warps.length := by
  unfold State.chaserPick at h
  refine (foldl_choice_mem _ (fun b x => ?_) _ _ _ h).elim (fun he => nomatch he)
    (fun hm => s.unitOps_exists d c q _ (List.mem_of_mem_filter hm))
  cases b with
  | none => exact .inr rfl
  | some b =>
    dsimp only
    split
    · exact .inr rfl
    · exact .inl rfl

/-- A step: the operation's own effect, and then what changes neither scratch nor a tile. -/
theorem State.chaserStep_step (s : State) (d c q g w : Nat) (o : MOp) (h : s.chaserPick d c q = some (g, w, o)) :
    ∃ t, exec (.chaserStep d c q) s = .next t ∧ ((s.mopStep g w o).grp g).SameStore (t.grp g) := by
  have hx : exec (.chaserStep d c q) s = .next ((s.chaserStep d c q).getD s) := rfl
  have hc : s.chaserStep d c q = some (if o.cmd.steps ≤ o.step + 1 then (s.mopStep g w o).mopRetire g w o
      else (s.mopStep g w o).modW g w (fun y =>
        { y with mops := modFirst (fun e => e.id == o.id) (fun e => { e with step := e.step + 1 }) y.mops })) := by
    unfold State.chaserStep
    rw [h]
    dsimp only
    split <;> rfl
  refine ⟨_, hx, ?_⟩
  rw [hc, Option.getD_some]
  split
  · exact State.mopRetire_sameStore _ g w o
  · exact State.modW_sameStore _ g w _ (fun _ => rfl)

/-! ### Tiles of a warp -/

theorem Warp.setTile_wf (y : Warp) (n : Nat) (t : Tile) (h : FMap.wf Tile.zero y.tiles = true) :
    FMap.wf Tile.zero (y.setTile n t).tiles = true := FMap.set_wf _ _ _ _ h

theorem Warp.tile_setTile_same (y : Warp) (n : Nat) (t : Tile) (h : FMap.wf Tile.zero y.tiles = true) :
    (y.setTile n t).tile n = t := FMap.get_set_same _ 0 _ _ _ h

theorem Warp.tile_setTile_other (y : Warp) (n k : Nat) (t : Tile) (h : FMap.wf Tile.zero y.tiles = true) (hk : k ≠ n) :
    (y.setTile n t).tile k = y.tile k := FMap.get_set_other _ 0 _ _ _ _ hk h

theorem Group.SameStore.tile {x y : Group} (h : x.SameStore y) (k n : Nat) : (y.wrp k).tile n = (x.wrp k).tile n := by
  rw [Warp.tile, h.2.2 k]
  rfl

theorem Group.SameStore.rd {x y : Group} (h : x.SameStore y) (a n : Nat) : y.rd a n = x.rd a n := Group.rd_congr h.1 a n

theorem Group.SameStore.rdPsn {x y : Group} (h : x.SameStore y) (a n : Nat) : y.rdPsn a n = x.rdPsn a n := by
  rw [Group.rdPsn, Group.rdPsn, h.2.1]

theorem Tile.get_put (t : Tile) (k n : Nat) (x : Elem) (h : FMap.wf Elem.zero t.e = true) :
    FMap.get Elem.zero (t.put k x).e n = if n = k then x else FMap.get Elem.zero t.e n := by
  by_cases hk : n = k
  · rw [if_pos hk, hk]
    exact FMap.get_set_same _ 0 _ _ _ h
  · rw [if_neg hk]
    exact FMap.get_set_other _ 0 _ _ _ _ hk h

theorem Tile.put_wf (t : Tile) (k : Nat) (x : Elem) (h : FMap.wf Elem.zero t.e = true) : FMap.wf Elem.zero (t.put k x).e = true :=
  FMap.set_wf _ _ _ _ h

/-! ### Engine reads mark tags alone -/

theorem Group.engRead_tsOnly (x : Group) (u : Nat) (ws : List Nat) : x.TsOnly (x.engRead u ws) :=
  foldl_rel _ .refl .trans _ (fun x _ => x.setTag_tsOnly _ _) ws x

theorem Group.setTag_warps (x : Group) (k : Nat) (t : Tag) : (x.setTag k t).warps = x.warps := rfl

theorem Group.engRead_warps (x : Group) (u : Nat) (ws : List Nat) : (x.engRead u ws).warps = x.warps :=
  foldl_rel (fun x y : Group => y.warps = x.warps) (fun _ => rfl) (fun h k => k.trans h) _ (fun x _ => x.setTag_warps _ _) ws x

theorem Group.clearTags_warps (x : Group) (off n : Nat) : (x.clearTags off n).warps = x.warps :=
  foldl_rel (fun x y : Group => y.warps = x.warps) (fun _ => rfl) (fun h k => k.trans h) _ (fun x _ => x.setTag_warps _ _) _ x

theorem Group.engRead_sameStore (x : Group) (u : Nat) (ws : List Nat) : x.SameStore (x.engRead u ws) := by
  obtain ⟨h1, h2⟩ := (x.engRead_tsOnly u ws).scr
  exact ⟨h1, h2, fun k => by rw [Group.wrp, x.engRead_warps]; rfl⟩

theorem Group.clearTags_sameStore (x : Group) (off n : Nat) : x.SameStore (x.clearTags off n) := by
  obtain ⟨h1, h2⟩ := (x.clearTags_tsOnly off n).scr
  exact ⟨h1, h2, fun k => by rw [Group.wrp, x.clearTags_warps]; rfl⟩

end Sys2Proof.Machine
end

section
/-! ## Tile images (R262, Table 10-4) -/
namespace Sys2Proof.Machine

/-! ### Blocks of a tile -/

theorem mem_blockIds (k n : Nat) : n ∈ blockIds k ↔ ∃ i < 16, ∃ j < 16, n = 64 * (16 * (k / 4) + i) + 16 * (k % 4) + j := by
  unfold blockIds
  simp only [List.mem_flatMap, List.mem_map, List.mem_range]
  constructor
  · rintro ⟨i, hi, j, hj, rfl⟩
    exact ⟨i, hi, j, hj, rfl⟩
  · rintro ⟨i, hi, j, hj, rfl⟩
    exact ⟨i, hi, j, hj, rfl⟩

/-- The element numbers of all sixteen blocks. -/
def allIds : List Nat := (List.range 16).flatMap blockIds

theorem mem_allIds (n : Nat) (h : n < 4096) : n ∈ allIds :=
  List.mem_flatMap.mpr ⟨4 * (n / 1024) + n % 64 / 16, List.mem_range.mpr (by omega),
    (mem_blockIds _ n).mpr ⟨n / 64 % 16, by omega, n % 16, by omega, by omega⟩⟩

/-! ### Elements stored (mexp) -/

/-- An 8-byte image written by an engine. -/
def Group.engElem (x : Group) (a v : Nat) (p : Bool) : Group := (x.engWord a v p).engWord (a + 4) (v / 2 ^ 32) p

theorem Group.engWord_get (x : Group) (a v : Nat) (p : Bool) (h : FMap.wf 0 x.scr = true) (b : Nat) :
    FMap.wf 0 (x.engWord a v p).scr = true ∧ FMap.get 0 (x.engWord a v p).scr b
      = if a ≤ b ∧ b < a + 4 then BitVec.ofNat 8 (v / 256 ^ (b - a)) else FMap.get 0 x.scr b := by
  have hs : (x.engWord a v p).scr = (x.wr a 4 v p).scr := ((x.wr a 4 v p).clearTags_tsOnly a 4).scr.1
  rw [hs]
  exact x.wr_get a 4 v p h b

/-- A whole word written has the poison of its write (R62). -/
theorem Group.engWord_psn (x : Group) (a v : Nat) (p : Bool) (ha : a % 4 = 0) (k : Nat) :
    NSet.has (x.engWord a v p).scrP k = if k = a / 4 then p else NSet.has x.scrP k := by
  have hs : (x.engWord a v p).scrP = (x.wr a 4 v p).scrP := ((x.wr a 4 v p).clearTags_tsOnly a 4).scr.2
  rw [hs]
  cases p
  · rw [x.wr_word_psn a v k ha]
    by_cases hk : k = a / 4 <;> simp [hk]
  · have hw : wordsOf a 4 = [a / 4] := by
      rw [wordsOf, show (a + 4 + 3) / 4 - a / 4 = 1 by omega]
      rfl
    have hp : (x.wr a 4 v true).scrP = NSet.add x.scrP (a / 4) := by
      simp only [Group.wr, hw, List.foldl_cons, List.foldl_nil, if_true]
    rw [hp, NSet.has_add]
    by_cases hk : k = a / 4 <;> simp [hk]

theorem Group.engElem_get (x : Group) (a v : Nat) (p : Bool) (h : FMap.wf 0 x.scr = true) (b : Nat) :
    FMap.wf 0 (x.engElem a v p).scr = true ∧ FMap.get 0 (x.engElem a v p).scr b
      = if a ≤ b ∧ b < a + 8 then BitVec.ofNat 8 (v / 256 ^ (b - a)) else FMap.get 0 x.scr b := by
  obtain ⟨h1, h2⟩ := x.engWord_get a v p h b
  obtain ⟨h3, h4⟩ := (x.engWord a v p).engWord_get (a + 4) (v / 2 ^ 32) p h1 b
  refine ⟨h3, h4.trans ?_⟩
  rw [h2]
  by_cases hb : a + 4 ≤ b ∧ b < a + 4 + 4
  · rw [if_pos hb, if_pos (by omega), show (2 : Nat) ^ 32 = 256 ^ 4 by norm_num, Nat.div_div_eq_div_mul, ← pow_add,
      show 4 + (b - (a + 4)) = b - a by omega]
  · rw [if_neg hb]
    by_cases hb' : a ≤ b ∧ b < a + 4
    · rw [if_pos hb', if_pos (by omega)]
    · rw [if_neg hb', if_neg (by omega)]

theorem Group.engElem_psn (x : Group) (a v : Nat) (p : Bool) (ha : a % 8 = 0) (k : Nat) :
    NSet.has (x.engElem a v p).scrP k = if k / 2 = a / 8 then p else NSet.has x.scrP k := by
  unfold Group.engElem
  rw [Group.engWord_psn _ _ _ _ (by omega), Group.engWord_psn _ _ _ _ (by omega)]
  by_cases h1 : k = (a + 4) / 4
  · rw [if_pos h1, if_pos (by omega)]
  · by_cases h2 : k = a / 4
    · rw [if_neg h1, if_pos h2, if_pos (by omega)]
    · rw [if_neg h1, if_neg h2, if_neg (by omega)]

/-- Images written at their places, each by a value and a poison of its own. -/
def Group.putImages (x : Group) (base : Nat) (v : Nat → Nat) (p : Nat → Bool) (l : List Nat) : Group :=
  l.foldl (fun x n => x.engElem (base + 8 * n) (v n) (p n)) x

theorem Group.putImages_get (x : Group) (base : Nat) (v : Nat → Nat) (p : Nat → Bool) (l : List Nat) (h : FMap.wf 0 x.scr = true) (b : Nat) :
    FMap.wf 0 (x.putImages base v p l).scr = true ∧ FMap.get 0 (x.putImages base v p l).scr b
      = if base ≤ b ∧ (b - base) / 8 ∈ l then BitVec.ofNat 8 (v ((b - base) / 8) / 256 ^ ((b - base) % 8)) else FMap.get 0 x.scr b := by
  induction l using List.reverseRecOn with
  | nil => exact ⟨h, by rw [if_neg (by simp)]; rfl⟩
  | append_singleton l n ih =>
    obtain ⟨h1, h2⟩ := ih
    have hs : x.putImages base v p (l ++ [n]) = (x.putImages base v p l).engElem (base + 8 * n) (v n) (p n) := by
      simp only [Group.putImages, List.foldl_append, List.foldl_cons, List.foldl_nil]
    obtain ⟨h3, h4⟩ := (x.putImages base v p l).engElem_get (base + 8 * n) (v n) (p n) h1 b
    rw [hs]
    refine ⟨h3, h4.trans ?_⟩
    rw [h2]
    by_cases hb : base + 8 * n ≤ b ∧ b < base + 8 * n + 8
    · have hq : (b - base) / 8 = n := by omega
      rw [if_pos hb, if_pos ⟨by omega, by simp [hq]⟩, hq, show (b - base) % 8 = b - (base + 8 * n) by omega]
    · rw [if_neg hb]
      have hiff : (base ≤ b ∧ (b - base) / 8 ∈ l ++ [n]) ↔ (base ≤ b ∧ (b - base) / 8 ∈ l) := by
        simp only [List.mem_append, List.mem_singleton]
        constructor
        · rintro ⟨h5, h6 | h6⟩
          · exact ⟨h5, h6⟩
          · omega
        · rintro ⟨h5, h6⟩
          exact ⟨h5, .inl h6⟩
      rw [if_congr hiff rfl rfl]

theorem Group.putImages_psn (x : Group) (base : Nat) (v : Nat → Nat) (p : Nat → Bool) (l : List Nat) (hb : base % 8 = 0) (k : Nat) :
    NSet.has (x.putImages base v p l).scrP k
      = if base ≤ 4 * k ∧ (4 * k - base) / 8 ∈ l then p ((4 * k - base) / 8) else NSet.has x.scrP k := by
  induction l using List.reverseRecOn with
  | nil => rw [if_neg (by simp)]; rfl
  | append_singleton l n ih =>
    have hs : x.putImages base v p (l ++ [n]) = (x.putImages base v p l).engElem (base + 8 * n) (v n) (p n) := by
      simp only [Group.putImages, List.foldl_append, List.foldl_cons, List.foldl_nil]
    rw [hs, Group.engElem_psn _ _ _ _ (by omega), ih]
    by_cases hk : k / 2 = (base + 8 * n) / 8
    · have hq : (4 * k - base) / 8 = n := by omega
      rw [if_pos hk, if_pos ⟨by omega, by simp [hq]⟩, hq]
    · rw [if_neg hk]
      have hiff : (base ≤ 4 * k ∧ (4 * k - base) / 8 ∈ l ++ [n]) ↔ (base ≤ 4 * k ∧ (4 * k - base) / 8 ∈ l) := by
        simp only [List.mem_append, List.mem_singleton]
        constructor
        · rintro ⟨h5, h6 | h6⟩
          · exact ⟨h5, h6⟩
          · omega
        · rintro ⟨h5, h6⟩
          exact ⟨h5, .inl h6⟩
      rw [if_congr hiff rfl rfl]

/-- The poison of an aligned word or of an aligned image. -/
theorem Group.rdPsn_word (x : Group) (a : Nat) (ha : a % 4 = 0) : x.rdPsn a 4 = NSet.has x.scrP (a / 4) := by
  have hw : wordsOf a 4 = [a / 4] := by
    rw [wordsOf, show (a + 4 + 3) / 4 - a / 4 = 1 by omega]
    rfl
  rw [Group.rdPsn, hw, List.any_cons, List.any_nil, Bool.or_false]

theorem Group.rdPsn_pair (x : Group) (a : Nat) (ha : a % 4 = 0) :
    x.rdPsn a 8 = (NSet.has x.scrP (a / 4) || NSet.has x.scrP (a / 4 + 1)) := by
  have hw : wordsOf a 8 = [a / 4, a / 4 + 1] := by
    rw [wordsOf, show (a + 8 + 3) / 4 - a / 4 = 2 by omega]
    rfl
  rw [Group.rdPsn, hw, List.any_cons, List.any_cons, List.any_nil, Bool.or_false]

/-- An image reads back, with its poison. -/
theorem Group.putImages_rd (x : Group) (base : Nat) (v : Nat → Nat) (p : Nat → Bool) (l : List Nat) (h : FMap.wf 0 x.scr = true)
    (n : Nat) (hn : n ∈ l) : (x.putImages base v p l).rd (base + 8 * n) 8 = v n % 256 ^ 8 :=
  leNat_bytes _ _ 8 _ (fun k hk => by
    have hq : (base + 8 * n + k - base) / 8 = n := by omega
    rw [(x.putImages_get base v p l h _).2, if_pos ⟨by omega, by rw [hq]; exact hn⟩, hq,
      show (base + 8 * n + k - base) % 8 = k by omega])

theorem Group.putImages_rdPsn (x : Group) (base : Nat) (v : Nat → Nat) (p : Nat → Bool) (l : List Nat) (hb : base % 8 = 0)
    (n : Nat) (hn : n ∈ l) : (x.putImages base v p l).rdPsn (base + 8 * n) 4 = p n
      ∧ (x.putImages base v p l).rdPsn (base + 8 * n + 4) 4 = p n ∧ (x.putImages base v p l).rdPsn (base + 8 * n) 8 = p n := by
  have h1 : NSet.has (x.putImages base v p l).scrP ((base + 8 * n) / 4) = p n := by
    have hq : (4 * ((base + 8 * n) / 4) - base) / 8 = n := by omega
    rw [x.putImages_psn base v p l hb, if_pos ⟨by omega, by rw [hq]; exact hn⟩, hq]
  have h2 : NSet.has (x.putImages base v p l).scrP ((base + 8 * n) / 4 + 1) = p n := by
    have hq : (4 * ((base + 8 * n) / 4 + 1) - base) / 8 = n := by omega
    rw [x.putImages_psn base v p l hb, if_pos ⟨by omega, by rw [hq]; exact hn⟩, hq]
  refine ⟨?_, ?_, ?_⟩
  · rw [Group.rdPsn_word _ _ (by omega), h1]
  · rw [Group.rdPsn_word _ _ (by omega), show (base + 8 * n + 4) / 4 = (base + 8 * n) / 4 + 1 by omega, h2]
  · rw [Group.rdPsn_pair _ _ (by omega), h1, h2, Bool.or_self]

/-- Numbers outside the images read as before, with their poison. -/
theorem Group.putImages_rd_other (x : Group) (base : Nat) (v : Nat → Nat) (p : Nat → Bool) (l : List Nat) (h : FMap.wf 0 x.scr = true)
    (a n : Nat) (hn : a + n ≤ base) : (x.putImages base v p l).rd a n = x.rd a n :=
  leNat_congr _ _ a n (fun k h1 h2 => by rw [(x.putImages_get base v p l h k).2, if_neg (by omega)])

theorem Group.putImages_rdPsn_other (x : Group) (base : Nat) (v : Nat → Nat) (p : Nat → Bool) (l : List Nat) (hb : base % 8 = 0)
    (a n : Nat) (ha : a + n ≤ base) : (x.putImages base v p l).rdPsn a n = x.rdPsn a n := by
  unfold Group.rdPsn
  rw [Bool.eq_iff_iff, List.any_eq_true, List.any_eq_true]
  refine exists_congr (fun k => and_congr_right (fun hk => ?_))
  rw [mem_wordsOf] at hk
  rw [x.putImages_psn base v p l hb, if_neg (by omega)]

end Sys2Proof.Machine
end

section
/-! ## Steps of mexp and mld (R262) -/
namespace Sys2Proof.Machine

/-! ### mexp -/

/-- The first word of a tile's header. -/
def Tile.head (t : Tile) : Nat := modW 16 t.x + (if t.i then 2 ^ 16 else 0) + (if t.o then 2 ^ 17 else 0)

theorem Tile.head_lt (t : Tile) : t.head < 2 ^ 18 := by
  have := modW_lt 16 t.x
  unfold Tile.head
  split <;> split <;> omega

/-- The header of a tile image written. -/
def Group.putHead (x : Group) (t : Tile) (off : Nat) (p : Bool) : Group :=
  x.putImages off (fun n => if n = 0 then t.head else 0) (fun _ => p) [0, 1]

/-- The elements of a tile image written, those of a list. -/
def Group.putElems (x : Group) (t : Tile) (off : Nat) (p : Bool) (l : List Nat) : Group :=
  x.putImages (off + 16) (fun n => (FMap.get Elem.zero t.e n).image) (fun n => p || (FMap.get Elem.zero t.e n).p) l

theorem Group.exStep_eq (x : Group) (t : Tile) (off k : Nat) (p : Bool) :
    x.exStep t off k p = (if k = 0 then x.putHead t off p else x).putElems t off p (blockIds k) := by
  have hh : ((((x.engWord off t.head p).engWord (off + 4) 0 p).engWord (off + 8) 0 p).engWord (off + 12) 0 p) = x.putHead t off p := by
    have h0 : t.head / 2 ^ 32 = 0 := Nat.div_eq_of_lt (t.head_lt.trans (by norm_num))
    show _ = ((((x.engWord off t.head p).engWord (off + 4) (t.head / 2 ^ 32) p).engWord (off + 8) 0 p).engWord (off + 8 + 4) (0 / 2 ^ 32) p)
    rw [h0]
    rfl
  unfold Group.exStep
  rw [← hh]
  rfl

theorem Group.putHead_wf (x : Group) (t : Tile) (off : Nat) (p : Bool) (h : FMap.wf 0 x.scr = true) :
    FMap.wf 0 (x.putHead t off p).scr = true := (x.putImages_get off _ _ _ h 0).1

theorem Group.putHead_get (x : Group) (t : Tile) (off : Nat) (p : Bool) (h : FMap.wf 0 x.scr = true) (a : Nat) :
    FMap.get 0 (x.putHead t off p).scr a
      = if off ≤ a ∧ a < off + 4 then BitVec.ofNat 8 (t.head / 256 ^ (a - off)) else if off ≤ a ∧ a < off + 16 then 0 else FMap.get 0 x.scr a := by
  refine (x.putImages_get off _ _ _ h a).2.trans ?_
  by_cases h1 : off ≤ a ∧ a < off + 16
  · rw [if_pos ⟨h1.1, by simp only [List.mem_cons, List.not_mem_nil, or_false]; omega⟩, if_pos h1]
    by_cases h2 : off ≤ a ∧ a < off + 4
    · rw [if_pos h2, if_pos (by omega), show (a - off) % 8 = a - off by omega]
    · rw [if_neg h2]
      by_cases h3 : (a - off) / 8 = 0
      · have hz : t.head / 256 ^ ((a - off) % 8) = 0 := by
          refine Nat.div_eq_of_lt (lt_of_lt_of_le t.head_lt ?_)
          calc 2 ^ 18 ≤ 256 ^ 4 := by norm_num
            _ ≤ 256 ^ ((a - off) % 8) := Nat.pow_le_pow_right (by norm_num) (by omega)
        rw [if_pos h3, hz]
        rfl
      · rw [if_neg h3, Nat.zero_div]
        rfl
  · rw [if_neg (fun hc => h1 ⟨hc.1, by have := hc.2; simp only [List.mem_cons, List.not_mem_nil, or_false] at this; omega⟩),
      if_neg h1, if_neg (fun hc => h1 ⟨hc.1, by omega⟩)]

/-- The header as it reads back, with its poison. -/
theorem Group.putHead_rd (x : Group) (t : Tile) (off : Nat) (p : Bool) (h : FMap.wf 0 x.scr = true) (ho : off % 16 = 0) :
    (x.putHead t off p).rd off 4 = t.head ∧ (x.putHead t off p).rd (off + 4) 12 = 0 ∧ (x.putHead t off p).rdPsn off 16 = p
      ∧ (x.putHead t off p).rdPsn off 4 = p := by
  have hp : ∀ k, off / 4 ≤ k → k < off / 4 + 4 → NSet.has (x.putHead t off p).scrP k = p := fun k h1 h2 =>
    (x.putImages_psn off _ _ _ (by omega) k).trans
      (if_pos ⟨by omega, by simp only [List.mem_cons, List.not_mem_nil, or_false]; omega⟩)
  refine ⟨?_, ?_, ?_, ?_⟩
  · refine (leNat_bytes _ off 4 t.head (fun k hk => ?_)).trans (Nat.mod_eq_of_lt (t.head_lt.trans (by norm_num)))
    rw [x.putHead_get t off p h, if_pos (by omega), Nat.add_sub_cancel_left]
  · refine (leNat_bytes _ (off + 4) 12 0 (fun k hk => ?_)).trans (Nat.zero_mod _)
    rw [x.putHead_get t off p h, if_neg (by omega), if_pos (by omega), Nat.zero_div]
    rfl
  · have hw : wordsOf off 16 = [off / 4, off / 4 + 1, off / 4 + 2, off / 4 + 3] := by
      rw [wordsOf, show (off + 16 + 3) / 4 - off / 4 = 4 by omega]
      rfl
    rw [Group.rdPsn, hw]
    simp only [List.any_cons, List.any_nil, hp _ le_rfl (by omega), hp (off / 4 + 1) (by omega) (by omega),
      hp (off / 4 + 2) (by omega) (by omega), hp (off / 4 + 3) (by omega) (by omega), Bool.or_false, Bool.or_self]
  · rw [Group.rdPsn_word _ _ (by omega), hp _ le_rfl (by omega)]

theorem Elem.image_lt (y : Elem) : y.image < 2 ^ 50 := by
  have := modW_lt 48 y.m
  unfold Elem.image
  cases y.c <;> simp only [ECls.code] <;> omega

/-- An element's image, by its class (Table 10-4). -/
theorem Elem.image_eq (y : Elem) : y.image = (match y.c with
    | .fin => 0
    | .pinf => 2 ^ 48
    | .ninf => 2 * 2 ^ 48
    | .nan => 3 * 2 ^ 48) + (y.m % 2 ^ 48).toNat := by
  unfold Elem.image modW
  cases y.c <;> simp only [ECls.code, Nat.zero_mul, Nat.one_mul]

/-- A step of an mexp, as it reads back (R262). -/
theorem Group.exStep_spec (x : Group) (t : Tile) (off k : Nat) (p : Bool) (h : FMap.wf 0 x.scr = true) (ho : off % 16 = 0) :
    (∀ n ∈ blockIds k, (x.exStep t off k p).rd (off + 16 + 8 * n) 8 = (FMap.get Elem.zero t.e n).image
      ∧ (x.exStep t off k p).rdPsn (off + 16 + 8 * n) 4 = (p || (FMap.get Elem.zero t.e n).p)
      ∧ (x.exStep t off k p).rdPsn (off + 20 + 8 * n) 4 = (p || (FMap.get Elem.zero t.e n).p))
    ∧ (k = 0 → (x.exStep t off k p).rd off 4 = t.head ∧ (x.exStep t off k p).rd (off + 4) 12 = 0 ∧ (x.exStep t off k p).rdPsn off 16 = p)
    ∧ ∀ a, (∀ n ∈ blockIds k, a < off + 16 + 8 * n ∨ off + 24 + 8 * n ≤ a) → (k = 0 → a < off ∨ off + 16 ≤ a) →
        FMap.get 0 (x.exStep t off k p).scr a = FMap.get 0 x.scr a := by
  have hw : FMap.wf 0 (if k = 0 then x.putHead t off p else x).scr = true := by
    split
    · exact x.putHead_wf t off p h
    · exact h
  rw [x.exStep_eq]
  unfold Group.putElems
  refine ⟨fun n hn => ?_, fun hk => ?_, fun a ha hk => ?_⟩
  · obtain ⟨h1, h2, -⟩ := Group.putImages_rdPsn (if k = 0 then x.putHead t off p else x) (off + 16)
      (fun n => (FMap.get Elem.zero t.e n).image) (fun n => p || (FMap.get Elem.zero t.e n).p) (blockIds k) (by omega) n hn
    refine ⟨(Group.putImages_rd _ _ _ _ _ hw n hn).trans (Nat.mod_eq_of_lt ((Elem.image_lt _).trans (by norm_num))), h1, ?_⟩
    rw [show off + 20 + 8 * n = off + 16 + 8 * n + 4 by omega]
    exact h2
  · obtain ⟨h1, h2, h3, -⟩ := x.putHead_rd t off p h ho
    simp only [hk, if_true] at hw ⊢
    refine ⟨(Group.putImages_rd_other _ _ _ _ _ hw _ _ (by omega)).trans h1,
      (Group.putImages_rd_other _ _ _ _ _ hw _ _ (by omega)).trans h2, (Group.putImages_rdPsn_other _ _ _ _ _ (by omega) _ _ (by omega)).trans h3⟩
  · rw [(Group.putImages_get _ _ _ _ _ hw a).2, if_neg (fun hc => by have := ha _ hc.2; omega)]
    split
    · next hk0 => rw [x.putHead_get t off p h, if_neg (by have := hk hk0; omega), if_neg (by have := hk hk0; omega)]
    · rfl

/-! ### mld -/

/-- The element that an image gives, and whether it is malformed. -/
def Group.loaded (x : Group) (off : Nat) (p : Bool) (n : Nat) : Elem × Bool :=
  let hp := p || x.rdPsn off 4
  let r := elemOf (x.rd (off + 16 + 8 * n) 8) (hp || x.rdPsn (off + 16 + 8 * n) 8)
  (if hp then { r.1 with p := true } else r.1, r.2)

/-- A tile with the header of an image. -/
def Group.loadHead (x : Group) (t : Tile) (off : Nat) : Tile :=
  { t with x := valOf 16 true (x.rd off 4), i := bitsOf (x.rd off 4) 16 16 == 1, o := bitsOf (x.rd off 4) 17 17 == 1 }

/-- A tile with the elements of a list loaded. -/
def Group.loadElems (x : Group) (t : Tile) (off : Nat) (p : Bool) (l : List Nat) : Tile :=
  l.foldl (fun t n => { t.put n (x.loaded off p n).1 with i := t.i || (x.loaded off p n).2 }) t

theorem Group.ldStep_eq (x : Group) (t : Tile) (off k : Nat) (p : Bool) :
    x.ldStep t off k p = x.loadElems (if k = 0 then x.loadHead t off else t) off p (blockIds k) := rfl

theorem Group.loadElems_spec (x : Group) (t : Tile) (off : Nat) (p : Bool) (l : List Nat) (h : FMap.wf Elem.zero t.e = true) :
    FMap.wf Elem.zero (x.loadElems t off p l).e = true ∧ (x.loadElems t off p l).x = t.x ∧ (x.loadElems t off p l).o = t.o
      ∧ ((x.loadElems t off p l).i = true ↔ t.i = true ∨ ∃ n ∈ l, (x.loaded off p n).2 = true)
      ∧ ∀ n, FMap.get Elem.zero (x.loadElems t off p l).e n = if n ∈ l then (x.loaded off p n).1 else FMap.get Elem.zero t.e n := by
  induction l using List.reverseRecOn with
  | nil => exact ⟨h, rfl, rfl, by simp [Group.loadElems], fun n => by simp [Group.loadElems]⟩
  | append_singleton l m ih =>
    obtain ⟨h1, h2, h3, h4, h5⟩ := ih
    have hs : x.loadElems t off p (l ++ [m]) = { (x.loadElems t off p l).put m (x.loaded off p m).1 with
        i := (x.loadElems t off p l).i || (x.loaded off p m).2 } := by
      simp only [Group.loadElems, List.foldl_append, List.foldl_cons, List.foldl_nil]
    rw [hs]
    refine ⟨Tile.put_wf _ m _ h1, h2, h3, ?_, fun n => ?_⟩
    · simp only [Bool.or_eq_true, h4, List.mem_append, List.mem_singleton, or_and_right, exists_or, exists_eq_left, or_assoc]
    · refine (Tile.get_put _ m n _ h1).trans ?_
      rw [h5]
      by_cases hn : n = m
      · rw [if_pos hn, if_pos (by simp [hn]), hn]
      · simp [hn]

/-- The class of a code (Table 10-4). -/
def ECls.ofCode : Nat → ECls
  | 0 => .fin
  | 1 => .pinf
  | 2 => .ninf
  | _ => .nan

/-- The parts of an image (Table 10-4). -/
theorem elemOf_spec (v : Nat) (p : Bool) (hv : v < 2 ^ 64) :
    let kind := v / 2 ^ 48 % 4
    let bad := 2 ^ 50 ≤ v ∨ (kind = 0 ∧ v % 2 ^ 48 = 2 ^ 47) ∨ (kind ≠ 0 ∧ v % 2 ^ 48 ≠ 0)
    (bad → elemOf v p = (⟨.nan, 0, true⟩, true))
    ∧ (¬bad → elemOf v p = (⟨ECls.ofCode kind, valOf 48 true v, p⟩, false)) := by
  intro kind bad
  have hval : valOf 48 true v = if 2 ^ 47 ≤ v % 2 ^ 48 then ((v % 2 ^ 48 : Nat) : Int) - 2 ^ 48 else ((v % 2 ^ 48 : Nat) : Int) := by
    unfold valOf
    simp only [Bool.true_and, decide_eq_true_eq]
  have hmin : valOf 48 true v = -(2 ^ 47) ↔ v % 2 ^ 48 = 2 ^ 47 := by
    rw [hval]
    split <;> omega
  have hzero : valOf 48 true v = 0 ↔ v % 2 ^ 48 = 0 := by
    rw [hval]
    split <;> omega
  have hc : bitsOf v 49 48 = kind := rfl
  have htop : bitsOf v 63 50 ≠ 0 ↔ 2 ^ 50 ≤ v := by
    show v / 2 ^ 50 % 2 ^ 14 ≠ 0 ↔ _
    omega
  have hk : kind < 4 := Nat.mod_lt _ (by norm_num)
  have hbad : (bitsOf v 63 50 ≠ 0 ∨ (kind = 0 ∧ valOf 48 true v = -(2 ^ 47)) ∨ (kind ≠ 0 ∧ valOf 48 true v ≠ 0)) ↔ bad := by
    rw [htop, hmin, ne_eq (valOf 48 true v), hzero]
  unfold elemOf
  dsimp only
  rw [hc]
  refine ⟨fun hb => if_pos (hbad.mpr hb), fun hb => ?_⟩
  rw [if_neg (fun hc => hb (hbad.mp hc))]
  have hm : (if kind = 0 then valOf 48 true v else 0) = valOf 48 true v := by
    by_cases h0 : kind = 0
    · rw [if_pos h0]
    · rw [if_neg h0]
      refine (hzero.mpr ?_).symm
      by_contra hz
      exact hb (.inr (.inr ⟨h0, hz⟩))
  rw [hm]
  clear_value kind
  rcases kind with _ | _ | _ | _ | k
  · rfl
  · rfl
  · rfl
  · rfl
  · omega

/-- A loaded element (R262). -/
theorem Group.loaded_spec (x : Group) (off : Nat) (p : Bool) (n : Nat) :
    let v := x.rd (off + 16 + 8 * n) 8
    let kind := v / 2 ^ 48 % 4
    let bad := 2 ^ 50 ≤ v ∨ (kind = 0 ∧ v % 2 ^ 48 = 2 ^ 47) ∨ (kind ≠ 0 ∧ v % 2 ^ 48 ≠ 0)
    (bad → x.loaded off p n = (⟨.nan, 0, true⟩, true))
    ∧ (¬bad → x.loaded off p n = (⟨ECls.ofCode kind, valOf 48 true v, p || x.rdPsn off 4 || x.rdPsn (off + 16 + 8 * n) 8⟩, false)) := by
  intro v kind bad
  obtain ⟨h1, h2⟩ := elemOf_spec v (p || x.rdPsn off 4 || x.rdPsn (off + 16 + 8 * n) 8) (leNat_lt _ _ 8)
  unfold Group.loaded
  dsimp only
  refine ⟨fun hb => ?_, fun hb => ?_⟩
  · rw [h1 hb]
    split <;> rfl
  · rw [h2 hb]
    by_cases hp : (p || x.rdPsn off 4) = true
    · rw [if_pos hp, hp, Bool.true_or]
    · rw [if_neg hp]

/-- The header's low half is its exponent, and its two bits stand above. -/
theorem Group.rd_half (x : Group) (off : Nat) : x.rd off 4 % 2 ^ 16 = x.rd off 2 := by
  simp only [Group.rd, leNat]
  have h1 := (FMap.get 0 x.scr off).isLt
  have h2 := (FMap.get 0 x.scr (off + 1)).isLt
  omega

theorem bitsOf_bit (v k : Nat) : (bitsOf v k k == 1) = v.testBit k := by
  rw [Nat.testBit_eq_decide_div_mod_eq, bitsOf, show k + 1 - k = 1 by omega, pow_one, beq_eq_decide]

theorem Group.loadHead_spec (x : Group) (t : Tile) (off : Nat) : x.loadHead t off =
    { t with x := valOf 16 true (x.rd off 2), i := (x.rd off 4).testBit 16, o := (x.rd off 4).testBit 17 } := by
  have h : valOf 16 true (x.rd off 4) = valOf 16 true (x.rd off 2) := by
    unfold valOf
    rw [← x.rd_half off, Nat.mod_mod]
  unfold Group.loadHead
  rw [h, bitsOf_bit, bitsOf_bit]

/-! ### A saved tile restored -/

theorem valOf_modW (w : Nat) (v : Int) (hw : 1 ≤ w) (h1 : -(2 ^ (w - 1)) ≤ v) (h2 : v < 2 ^ (w - 1)) : valOf w true (modW w v) = v := by
  have hp : (2 : Int) ^ w = 2 * 2 ^ (w - 1) := by
    rw [← pow_succ', Nat.sub_add_cancel hw]
  have hn : (2 : Nat) ^ w = 2 * 2 ^ (w - 1) := by
    rw [← pow_succ', Nat.sub_add_cancel hw]
  have hc : ((2 ^ (w - 1) : Nat) : Int) = 2 ^ (w - 1) := by norm_cast
  have hl := modW_lt w v
  unfold valOf
  rw [Nat.mod_eq_of_lt hl]
  simp only [Bool.true_and, decide_eq_true_eq]
  unfold modW at hl ⊢
  rcases lt_or_ge v 0 with h0 | h0
  · have hm : v % 2 ^ w = v + 2 ^ w := by
      rw [← Int.add_mul_emod_self_left v (2 ^ w) 1, mul_one, Int.emod_eq_of_lt (by omega) (by omega)]
    rw [hm, if_pos (by zify; rw [Int.toNat_of_nonneg (by omega)]; omega), Int.toNat_of_nonneg (by omega)]
    omega
  · have hm : v % 2 ^ w = v := Int.emod_eq_of_lt h0 (by omega)
    rw [hm, if_neg (by zify; rw [Int.toNat_of_nonneg h0]; omega), Int.toNat_of_nonneg h0]

/-- An element that the hardware can hold is restored from its image. -/
theorem elemOf_image (y : Elem) (h1 : y.m.natAbs ≤ 2 ^ 47 - 1) (h2 : y.c ≠ .fin → y.m = 0) : elemOf y.image y.p = (y, false) := by
  have hv := valOf_modW 48 y.m (by norm_num) (by norm_num; omega) (by norm_num; omega)
  have hl := modW_lt 48 y.m
  have hm : y.image % 2 ^ 48 = modW 48 y.m := by
    unfold Elem.image
    omega
  have hk : y.image / 2 ^ 48 % 4 = y.c.code := by
    unfold Elem.image
    cases y.c <;> simp only [ECls.code] <;> omega
  have hval : valOf 48 true y.image = y.m := by
    rw [← hv]
    unfold valOf
    rw [hm, Nat.mod_eq_of_lt hl]
  have hz : y.m = 0 → modW 48 y.m = 0 := fun h => by rw [h]; rfl
  have hmin : modW 48 y.m ≠ 2 ^ 47 := fun h => by
    rw [h] at hv
    have : valOf 48 true (2 ^ 47) = -(2 ^ 47) := by decide
    omega
  rw [(elemOf_spec y.image y.p (y.image_lt.trans (by norm_num))).2, hk, hval]
  · obtain ⟨c, m, p⟩ := y
    cases c <;> rfl
  · rw [hk, hm]
    rintro (h | ⟨-, h⟩ | ⟨h, h'⟩)
    · exact absurd y.image_lt (not_lt.mpr h)
    · exact hmin h
    · refine h' (hz (h2 (fun hf => h ?_)))
      rw [hf]
      rfl

/-- The steps of an mexp, in one. -/
theorem foldl_exStep (x : Group) (t : Tile) (off : Nat) (p : Bool) :
    (List.range 16).foldl (fun y k => y.exStep t off k p) x = (x.putHead t off p).putElems t off p allIds := by
  have hr : List.range 16 = 0 :: (List.range 15).map Nat.succ := by decide
  have hs : ∀ (l : List Nat) (y : Group), (l.map Nat.succ).foldl (fun y k => y.exStep t off k p) y
      = y.putElems t off p ((l.map Nat.succ).flatMap blockIds) := by
    intro l
    induction l with
    | nil => simp [Group.putElems, Group.putImages]
    | cons k l ih =>
      intro y
      rw [List.map_cons, List.foldl_cons, ih, y.exStep_eq, if_neg (Nat.succ_ne_zero k), List.flatMap_cons]
      simp only [Group.putElems, Group.putImages, List.foldl_append]
  rw [hr, List.foldl_cons, hs, x.exStep_eq, if_pos rfl, allIds, hr, List.flatMap_cons]
  simp only [Group.putElems, Group.putImages, List.foldl_append]

/-- The steps of an mld, in one. -/
theorem foldl_ldStep (x : Group) (t : Tile) (off : Nat) (p : Bool) :
    (List.range 16).foldl (fun z k => x.ldStep z off k p) t = x.loadElems (x.loadHead t off) off p allIds := by
  have hr : List.range 16 = 0 :: (List.range 15).map Nat.succ := by decide
  have hs : ∀ (l : List Nat) (z : Tile), (l.map Nat.succ).foldl (fun z k => x.ldStep z off k p) z
      = x.loadElems z off p ((l.map Nat.succ).flatMap blockIds) := by
    intro l
    induction l with
    | nil => simp [Group.loadElems]
    | cons k l ih =>
      intro z
      rw [List.map_cons, List.foldl_cons, ih, x.ldStep_eq, if_neg (Nat.succ_ne_zero k), List.flatMap_cons]
      simp only [Group.loadElems, List.foldl_append]
  rw [hr, List.foldl_cons, hs, x.ldStep_eq, if_pos rfl, allIds, hr, List.flatMap_cons]
  simp only [Group.loadElems, List.foldl_append]

/-- The header's parts. -/
theorem Tile.head_parts (t : Tile) (h1 : -32768 ≤ t.x) (h2 : t.x ≤ 32767) :
    valOf 16 true t.head = t.x ∧ t.head.testBit 16 = t.i ∧ t.head.testBit 17 = t.o := by
  have hl := modW_lt 16 t.x
  have hm : t.head % 2 ^ 16 = modW 16 t.x := by
    unfold Tile.head
    split <;> split <;> omega
  refine ⟨?_, ?_, ?_⟩
  · refine Eq.trans ?_ (valOf_modW 16 t.x (by norm_num) (by norm_num; omega) (by norm_num; omega))
    unfold valOf
    rw [hm, Nat.mod_eq_of_lt hl]
  · rw [Nat.testBit_eq_decide_div_mod_eq]
    unfold Tile.head
    cases t.i <;> cases t.o <;> simp <;> omega
  · rw [Nat.testBit_eq_decide_div_mod_eq]
    unfold Tile.head
    cases t.i <;> cases t.o <;> simp <;> omega

/-- What an mexp has written reads back as header and elements. -/
theorem stored_reads (x y : Group) (t : Tile) (off : Nat) (l : List Nat) (h : FMap.wf 0 x.scr = true) (ho : off % 16 = 0)
    (hel : ∀ n, (FMap.get Elem.zero t.e n).m.natAbs ≤ 2 ^ 47 - 1 ∧ ((FMap.get Elem.zero t.e n).c ≠ .fin → (FMap.get Elem.zero t.e n).m = 0))
    (hy : y = (x.putHead t off false).putElems t off false l) :
    y.rd off 4 = t.head ∧ ∀ n ∈ l, y.loaded off false n = (FMap.get Elem.zero t.e n, false) := by
  have hw := x.putHead_wf t off false h
  obtain ⟨g1, -, -, g4⟩ := x.putHead_rd t off false h ho
  have hpsn : y.rdPsn off 4 = false := by
    rw [hy]
    exact (Group.putImages_rdPsn_other _ _ _ _ _ (by omega) _ _ (by omega)).trans g4
  refine ⟨?_, fun n hn => ?_⟩
  · rw [hy]
    exact (Group.putImages_rd_other _ _ _ _ _ hw _ _ (by omega)).trans g1
  · have hr : y.rd (off + 16 + 8 * n) 8 = (FMap.get Elem.zero t.e n).image := by
      rw [hy]
      exact (Group.putImages_rd _ _ _ _ _ hw n hn).trans (Nat.mod_eq_of_lt ((Elem.image_lt _).trans (by norm_num)))
    have hq : y.rdPsn (off + 16 + 8 * n) 8 = (FMap.get Elem.zero t.e n).p := by
      rw [hy]
      exact (Group.putImages_rdPsn _ _ _ _ _ (by omega) n hn).2.2
    unfold Group.loaded
    simp only [hr, hq, hpsn, Bool.or_self, Bool.false_or, Bool.false_eq_true, if_false,
      elemOf_image _ (hel n).1 (hel n).2]

/-- What is loaded from the header and elements of a tile is that tile. -/
theorem loaded_same (y : Group) (t t' z : Tile) (off : Nat) (l : List Nat) (h1 : -32768 ≤ t.x) (h2 : t.x ≤ 32767)
    (h' : FMap.wf Elem.zero t'.e = true) (hhead : y.rd off 4 = t.head)
    (hload : ∀ n ∈ l, y.loaded off false n = (FMap.get Elem.zero t.e n, false))
    (hz : z = y.loadElems (y.loadHead t' off) off false l) :
    z.x = t.x ∧ z.i = t.i ∧ z.o = t.o ∧ ∀ n ∈ l, FMap.get Elem.zero z.e n = FMap.get Elem.zero t.e n := by
  obtain ⟨p1, p2, p3⟩ := t.head_parts h1 h2
  obtain ⟨-, l2, l3, l4, l5⟩ := y.loadElems_spec (y.loadHead t' off) off false l h'
  rw [← hz] at l2 l3 l4 l5
  have hi : (y.loadHead t' off).i = t.i := by
    rw [← p2, ← hhead, ← bitsOf_bit]
    rfl
  refine ⟨?_, ?_, ?_, fun n hn => ?_⟩
  · rw [l2, ← p1, ← hhead]
    rfl
  · rw [Bool.eq_iff_iff, l4, hi]
    exact or_iff_left (fun ⟨n, hn, hb⟩ => by rw [hload n hn] at hb; cases hb)
  · rw [l3, ← p3, ← hhead, ← bitsOf_bit]
    rfl
  · rw [l5 n, if_pos hn, hload n hn]

/-- A tile saved by the steps of an mexp is restored by those of an mld (R262). -/
theorem tile_restored (x y : Group) (t t' z : Tile) (off : Nat) (h : FMap.wf 0 x.scr = true) (ho : off % 16 = 0) (hs : t.sane)
    (h' : FMap.wf Elem.zero t'.e = true) (hy : y = (List.range 16).foldl (fun y k => y.exStep t off k false) x)
    (hz : z = (List.range 16).foldl (fun z k => y.ldStep z off k false) t') :
    z.x = t.x ∧ z.i = t.i ∧ z.o = t.o ∧ ∀ n < 4096, FMap.get Elem.zero z.e n = FMap.get Elem.zero t.e n := by
  obtain ⟨-, h1, h2, hel⟩ := hs
  obtain ⟨hhead, hload⟩ := stored_reads x y t off allIds h ho hel (hy.trans (foldl_exStep x t off false))
  obtain ⟨e1, e2, e3, e4⟩ := loaded_same y t t' z off allIds h1 h2 h' hhead hload (hz.trans (foldl_ldStep y t' off false))
  exact ⟨e1, e2, e3, fun n hn => e4 n (mem_allIds n hn)⟩

end Sys2Proof.Machine
end

section
/-! ## The image operations of a matrix unit (R262) -/
namespace Sys2Proof.Machine

/-- With its first step an operation is seen to read (R194). -/
def State.seenReading (s : State) (g k u : Nat) (ws : List Nat) : State :=
  if k = 0 then s.modG g (fun x => x.engRead u ws) else s

theorem State.seenReading_keeps (s : State) (g k u : Nat) (ws : List Nat) :
    (s.grp g).SameStore ((s.seenReading g k u ws).grp g) ∧ (s.seenReading g k u ws).groups.length = s.groups.length
      ∧ ((s.seenReading g k u ws).grp g).warps = (s.grp g).warps := by
  unfold State.seenReading
  split
  · exact ⟨s.modG_sameStore g _ (fun x => x.engRead_sameStore u ws), s.modG_length g _,
      modAt_getD_rel (fun y z : Group => z.warps = y.warps) (fun _ => rfl) s.groups g _ Group.void g (Group.engRead_warps _ u ws)⟩
  · exact ⟨.refl _, rfl, rfl⟩

theorem Group.SameStore.ldStep {x y : Group} (h : x.SameStore y) (t : Tile) (off k : Nat) (p : Bool) :
    y.ldStep t off k p = x.ldStep t off k p := by
  have hl : ∀ n, y.loaded off p n = x.loaded off p n := fun n => by
    unfold Group.loaded
    simp only [h.rd, h.rdPsn]
  rw [Group.ldStep_eq, Group.ldStep_eq]
  unfold Group.loadElems Group.loadHead
  simp only [hl, h.rd]

/-- A warp of a workgroup after a change of it. -/
theorem State.wrp_modW_after (s r : State) (g w : Nat) (f : Warp → Warp) (hl : r.groups.length = s.groups.length)
    (hr : (r.grp g).warps = (s.grp g).warps) (hg : g < s.groups.length) (hw : w < (s.grp g).warps.length) :
    (r.modW g w f).wrp g w = f (s.wrp g w) := by
  rw [State.wrp_modW_same r g w f (by rw [hl]; exact hg) (by rw [hr]; exact hw)]
  unfold State.wrp Group.wrp
  rw [hr]

/-- The tile that a step of an mld leaves. -/
theorem State.mopStep_ld (s : State) (g w : Nat) (o : MOp) (dst off : Nat) (p : Bool) (ho : o.cmd = .ld dst off p)
    (hg : g < s.groups.length) (hw : w < (s.grp g).warps.length) (ht : FMap.wf Tile.zero (s.wrp g w).tiles = true) :
    ((s.mopStep g w o).wrp g w).tile dst = (s.grp g).ldStep ((s.wrp g w).tile dst) off o.step p := by
  obtain ⟨h1, h2, h3⟩ := s.seenReading_keeps g o.step o.sup (wordsOf off 32784)
  have hs : s.mopStep g w o = (s.seenReading g o.step o.sup (wordsOf off 32784)).modW g w (fun y =>
      y.setTile dst (((s.seenReading g o.step o.sup (wordsOf off 32784)).grp g).ldStep (y.tile dst) off o.step p)) := by
    unfold State.mopStep
    rw [ho]
    rfl
  rw [hs, s.wrp_modW_after _ g w _ h2 h3 hg hw, Warp.tile_setTile_same _ _ _ ht, h1.ldStep]

/-- One step of an mld (R262). -/
theorem chaser_ld (s : State) (d c q g w : Nat) (o : MOp) (dst off : Nat) (p : Bool) (hc : s.chaserPick d c q = some (g, w, o))
    (ho : o.cmd = .ld dst off p) (ht : FMap.wf Tile.zero (s.wrp g w).tiles = true) :
    ∃ t, exec (.chaserStep d c q) s = .next t
      ∧ (t.wrp g w).tile dst = (s.grp g).ldStep ((s.wrp g w).tile dst) off o.step p := by
  obtain ⟨hg, hw⟩ := s.chaserPick_exists d c q g w o hc
  obtain ⟨t, hx, hs⟩ := s.chaserStep_step d c q g w o hc
  exact ⟨t, hx, (hs.tile w dst).trans (s.mopStep_ld g w o dst off p ho hg hw ht)⟩

/-- One step of an mexp (R262). -/
theorem chaser_ex (s : State) (d c q g w : Nat) (o : MOp) (src off : Nat) (p : Bool) (hc : s.chaserPick d c q = some (g, w, o))
    (ho : o.cmd = .ex src off p) :
    ∃ t, exec (.chaserStep d c q) s = .next t
      ∧ ((s.grp g).exStep ((s.wrp g w).tile src) off o.step p).SameStore (t.grp g) := by
  obtain ⟨hg, hw⟩ := s.chaserPick_exists d c q g w o hc
  obtain ⟨t, hx, hs⟩ := s.chaserStep_step d c q g w o hc
  have hm : (s.mopStep g w o).grp g = (s.grp g).exStep ((s.wrp g w).tile src) off o.step p := by
    have : s.mopStep g w o = s.modG g (fun x => x.exStep ((s.wrp g w).tile src) off o.step p) := by
      unfold State.mopStep
      rw [ho]
    rw [this, State.grp_modG_same _ _ _ hg]
  exact ⟨t, hx, hm ▸ hs⟩

/-- The tile that one step of an mld leaves, by what each image gives. -/
theorem Group.ldStep_spec (x : Group) (T : Tile) (off k : Nat) (p : Bool) (he : FMap.wf Elem.zero T.e = true) :
    let z := x.ldStep T off k p
    z.x = (if k = 0 then valOf 16 true (x.rd off 2) else T.x)
      ∧ (z.i = true ↔ (if k = 0 then (x.rd off 4).testBit 16 else T.i) = true ∨ ∃ n ∈ blockIds k, (x.loaded off p n).2 = true)
      ∧ z.o = (if k = 0 then (x.rd off 4).testBit 17 else T.o)
      ∧ ∀ n, FMap.get Elem.zero z.e n = if n ∈ blockIds k then (x.loaded off p n).1 else FMap.get Elem.zero T.e n := by
  have hhead : (if k = 0 then x.loadHead T off else T) = { T with
      x := if k = 0 then valOf 16 true (x.rd off 2) else T.x
      i := if k = 0 then (x.rd off 4).testBit 16 else T.i
      o := if k = 0 then (x.rd off 4).testBit 17 else T.o } := by
    split
    · exact x.loadHead_spec T off
    · rfl
  obtain ⟨-, h2, h3, h4, h5⟩ := x.loadElems_spec (if k = 0 then x.loadHead T off else T) off p (blockIds k)
    (by rw [hhead]; exact he)
  rw [hhead] at h2 h3 h4 h5
  intro z
  have hz : z = x.loadElems { T with
      x := if k = 0 then valOf 16 true (x.rd off 2) else T.x
      i := if k = 0 then (x.rd off 4).testBit 16 else T.i
      o := if k = 0 then (x.rd off 4).testBit 17 else T.o } off p (blockIds k) := by rw [← hhead, ← x.ldStep_eq T off k p]
  rw [hz]
  exact ⟨h2, h4, h3, h5⟩

end Sys2Proof.Machine
end

section
/-! ## The exact step of a tile (R56, R58) -/
namespace Sys2Proof.Machine

/-! ### Updates key by key -/

section
variable {γ : Type} (B : Tile → γ → Tile) (key : γ → Nat) (F : Elem → γ → Elem × Bool) (fl : Tile → Bool) (X : Int)
  (he : ∀ t c, t.x = X → (B t c).e = FMap.set Elem.zero t.e (key c) (F (FMap.get Elem.zero t.e (key c)) c).1)
  (hf : ∀ t c, t.x = X → fl (B t c) = (fl t || (F (FMap.get Elem.zero t.e (key c)) c).2))
  (hx : ∀ t c, (B t c).x = t.x)
include he hf hx

/-- Each of several elements, no two with one number, is changed as it stood. -/
theorem Tile.foldl_update (l : List γ) (hl : (l.map key).Nodup) (t : Tile) (ht : FMap.wf Elem.zero t.e = true) (h0 : t.x = X) :
    FMap.wf Elem.zero (l.foldl B t).e = true ∧ (l.foldl B t).x = X
      ∧ (∀ c ∈ l, FMap.get Elem.zero (l.foldl B t).e (key c) = (F (FMap.get Elem.zero t.e (key c)) c).1)
      ∧ (∀ k, (∀ c ∈ l, key c ≠ k) → FMap.get Elem.zero (l.foldl B t).e k = FMap.get Elem.zero t.e k)
      ∧ (fl (l.foldl B t) = true ↔ fl t = true ∨ ∃ c ∈ l, (F (FMap.get Elem.zero t.e (key c)) c).2 = true) := by
  induction l generalizing t with
  | nil => exact ⟨ht, h0, nofun, fun _ _ => rfl, by simp⟩
  | cons a l ih =>
    rw [List.map_cons, List.nodup_cons] at hl
    obtain ⟨ha, hl⟩ := hl
    have hne : ∀ c ∈ l, key c ≠ key a := fun c hc hk => ha (hk ▸ List.mem_map_of_mem hc)
    have hother : ∀ k, k ≠ key a → FMap.get Elem.zero (B t a).e k = FMap.get Elem.zero t.e k := fun k hk => by
      rw [he t a h0]
      exact FMap.get_set_other _ 0 _ _ _ _ hk ht
    obtain ⟨h1, h2, h3, h4, h5⟩ := ih hl (B t a) (by rw [he t a h0]; exact FMap.set_wf _ _ _ _ ht) ((hx t a).trans h0)
    rw [List.foldl_cons]
    refine ⟨h1, h2, fun c hc => ?_, fun k hk => ?_, ?_⟩
    · rcases List.mem_cons.mp hc with rfl | hc
      · rw [h4 _ hne, he t c h0]
        exact FMap.get_set_same _ 0 _ _ _ ht
      · rw [h3 c hc, hother _ (hne c hc)]
    · rw [h4 k (fun c hc => hk c (List.mem_cons_of_mem _ hc)), hother k (Ne.symm (hk a List.mem_cons_self))]
    · rw [h5, hf t a h0, Bool.or_eq_true, or_assoc]
      refine or_congr_right ?_
      rw [List.exists_mem_cons_iff]
      exact or_congr_right (exists_congr (fun c => and_congr_right (fun hc => by rw [hother _ (hne c hc)])))

end

/-! ### The parts of a step -/

/-- An element after a contribution is seen: poisoned with it, and met by it where that is not finite. -/
def meetC (x : Elem) (c : XV × Bool) : Elem × Bool :=
  match c.1 with
  | .fin _ _ => ({ x with p := x.p || c.2 }, false)
  | v => meetInf { x with p := x.p || c.2 } v.cls

/-- An element with an increment, an infinity where it leaves the range. -/
def addC (x : Elem) (n : Int) : Elem × Bool :=
  if (x.m + n).natAbs ≤ maxMant then ({ x with m := x.m + n }, false)
  else ({ x with c := if x.m + n < 0 then .ninf else .pinf, m := 0 }, true)

/-- An element on a grid coarser by `s` bits. -/
def shiftC (s : Nat) (x : Elem) : Elem := if x.c = .fin then { x with m := rneShift x.m s } else x

/-- The first part of a step: what is not finite meets its elements, and poison is taken. -/
def Tile.metBy (t : Tile) (cs : List (Nat × XV × Bool)) : Tile :=
  cs.foldl (fun t c =>
    let x := FMap.get Elem.zero t.e c.1
    let x := { x with p := x.p || c.2.2 }
    match c.2.1 with
    | .fin _ _ => t.put c.1 x
    | v => let r := meetInf x v.cls; { t.put c.1 r.1 with i := t.i || r.2 }) t

/-- The finite contributions that meet finite elements. -/
def Tile.sums (t : Tile) (cs : List (Nat × XV × Bool)) : List (Nat × Int × Dy) :=
  cs.filterMap (fun c =>
    match c.2.1 with
    | .fin d _ => let x := FMap.get Elem.zero t.e c.1; if x.c = .fin then some (c.1, x.m, d) else none
    | _ => none)

/-- A tile with a coarser exponent. -/
def Tile.shiftBy (t : Tile) (s : Nat) : Tile :=
  let shifted := t.e.filterMap (fun y =>
    if y.2.c = .fin then
      let z := { y.2 with m := rneShift y.2.m s }
      if z = Elem.zero then none else some (y.1, z)
    else some y)
  if s = 0 then t else { t with e := shifted, x := t.x + s }

/-- A tile with its sums added. -/
def Tile.addAll (t : Tile) (f : List (Nat × Int × Dy)) : Tile :=
  f.foldl (fun t y =>
    let x := FMap.get Elem.zero t.e y.1
    let v := x.m + rneGrid y.2.2 t.x
    if v.natAbs ≤ maxMant then t.put y.1 { x with m := v }
    else { t.put y.1 { x with c := if v < 0 then .ninf else .pinf, m := 0 } with o := true }) t

theorem Tile.step_eq (t : Tile) (cs : List (Nat × XV × Bool)) : t.step cs =
    ((t.metBy cs).shiftBy (roomFor (((t.metBy cs).sums cs).map (fun x => x.2)) (t.metBy cs).x (32767 - (t.metBy cs).x).toNat 0)).addAll
      ((t.metBy cs).sums cs) := rfl

/-! ### Each part, by elements -/

theorem Tile.metBy_spec (t : Tile) (cs : List (Nat × XV × Bool)) (hn : (cs.map Prod.fst).Nodup) (ht : FMap.wf Elem.zero t.e = true) :
    FMap.wf Elem.zero (t.metBy cs).e = true ∧ (t.metBy cs).x = t.x ∧ (t.metBy cs).o = t.o
      ∧ (∀ c ∈ cs, FMap.get Elem.zero (t.metBy cs).e c.1 = (meetC (FMap.get Elem.zero t.e c.1) c.2).1)
      ∧ (∀ k, (∀ c ∈ cs, c.1 ≠ k) → FMap.get Elem.zero (t.metBy cs).e k = FMap.get Elem.zero t.e k)
      ∧ ((t.metBy cs).i = true ↔ t.i = true ∨ ∃ c ∈ cs, (meetC (FMap.get Elem.zero t.e c.1) c.2).2 = true) := by
  have hb : t.metBy cs = cs.foldl (fun t c => { t.put c.1 (meetC (FMap.get Elem.zero t.e c.1) c.2).1 with
      i := t.i || (meetC (FMap.get Elem.zero t.e c.1) c.2).2 }) t := by
    unfold Tile.metBy
    congr 1
    funext t c
    unfold meetC
    rcases c.2.1 with ⟨d, n⟩ | n | _
    · simp only [Bool.or_false]
      rfl
    · rfl
    · rfl
  rw [hb]
  obtain ⟨h1, h2, h3, h4, h5⟩ := Tile.foldl_update
    (fun t c => { t.put c.1 (meetC (FMap.get Elem.zero t.e c.1) c.2).1 with i := t.i || (meetC (FMap.get Elem.zero t.e c.1) c.2).2 })
    Prod.fst (fun x (c : Nat × XV × Bool) => meetC x c.2) Tile.i t.x (fun _ _ _ => rfl) (fun _ _ _ => rfl)
    (fun _ _ => rfl) cs hn t ht rfl
  refine ⟨h1, h2, ?_, h3, h4, h5⟩
  refine foldl_rel (fun a b : Tile => b.o = a.o) (fun _ => rfl) (fun h k => k.trans h) _ (fun _ _ => ?_) cs t
  rfl

theorem rneShift_zero (s : Nat) : rneShift 0 s = 0 := by
  have h := roundInt_isRounding 0 (decide ((0 : Int) < 0)) (0 : Int).natAbs (-(s : Int))
  have h0 : signed (decide ((0 : Int) < 0)) (((0 : Int).natAbs : ℝ) * 2 ^ (-(s : Int))) = ((0 : Int) : ℝ) := by simp [signed]
  rw [h0] at h
  exact h.eq

/-- The exact value of a number with its sign apart. -/
theorem signed_natAbs (m : Int) (y : ℝ) : signed (decide (m < 0)) (m.natAbs * y) = m * y := by
  have hr : ((m.natAbs : ℕ) : ℝ) = |(m : ℝ)| := by rw [← Int.cast_abs, Int.abs_eq_natAbs, Int.cast_natCast]
  rw [hr]
  by_cases h : m < 0
  · have : (m : ℝ) < 0 := by exact_mod_cast h
    rw [decide_eq_true h, abs_of_neg this]
    simp [signed]
  · have : (0 : ℝ) ≤ m := by exact_mod_cast not_lt.mp h
    rw [decide_eq_false h, abs_of_nonneg this]
    simp [signed]

theorem rneShift_rounds (m : Int) (s : Nat) : isRounding 0 ((m : ℝ) / 2 ^ s) (rneShift m s) := by
  have h := roundInt_isRounding 0 (decide (m < 0)) m.natAbs (-(s : Int))
  rwa [signed_natAbs, zpow_neg, zpow_natCast, ← div_eq_mul_inv] at h

theorem rneGrid_rounds (d : Dy) (e : Int) : isRounding 0 ((d.m : ℝ) * 2 ^ (d.e - e)) (rneGrid d e) := by
  have h := roundInt_isRounding 0 (decide (d.m < 0)) d.m.natAbs (d.e - e)
  rwa [signed_natAbs] at h

theorem rneShift_none (m : Int) : rneShift m 0 = m := by
  have h := rneShift_rounds m 0
  rw [pow_zero, div_one] at h
  exact h.eq

/-- A canonical map with each value changed, the default kept. -/
theorem FMap.get_filterMap {α : Type} [DecidableEq α] (d : α) (F : α → α) (hd : F d = d) (lo : Nat) (m : FMap α)
    (hm : FMap.wfFrom d lo m = true) :
    FMap.wfFrom d lo (m.filterMap (fun y => if F y.2 = d then none else some (y.1, F y.2))) = true
    ∧ ∀ k, FMap.get d (m.filterMap (fun y => if F y.2 = d then none else some (y.1, F y.2))) k = F (FMap.get d m k) := by
  induction m generalizing lo with
  | nil => exact ⟨rfl, fun _ => hd.symm⟩
  | cons y m ih =>
    obtain ⟨n, v⟩ := y
    simp only [FMap.wfFrom, Bool.and_eq_true, decide_eq_true_eq] at hm
    obtain ⟨⟨h1, h2⟩, h3⟩ := hm
    obtain ⟨ih1, ih2⟩ := ih (n + 1) h3
    have hbelow : ∀ k, k < n + 1 → FMap.get d (m.filterMap (fun y => if F y.2 = d then none else some (y.1, F y.2))) k = d :=
      fun k hk => FMap.get_below d _ ih1 hk
    by_cases hv : F v = d
    · rw [List.filterMap_cons_none (by simp [hv])]
      refine ⟨FMap.wfFrom_mono d (by omega) _ ih1, fun k => ?_⟩
      show _ = F (if k = n then v else if k < n then d else FMap.get d m k)
      split
      · next hk => rw [hv, hbelow k (by omega)]
      · split
        · next hk => rw [hd, hbelow k (by omega)]
        · exact ih2 k
    · rw [List.filterMap_cons_some (b := (n, F v)) (by simp [hv])]
      refine ⟨by simp only [FMap.wfFrom, Bool.and_eq_true, decide_eq_true_eq]; exact ⟨⟨h1, hv⟩, ih1⟩, fun k => ?_⟩
      show (if k = n then F v else if k < n then d else FMap.get d _ k) = F (if k = n then v else if k < n then d else FMap.get d m k)
      split
      · rfl
      · split
        · exact hd.symm
        · exact ih2 k

theorem Tile.shiftBy_spec (t : Tile) (s : Nat) (ht : FMap.wf Elem.zero t.e = true) :
    FMap.wf Elem.zero (t.shiftBy s).e = true ∧ (t.shiftBy s).x = t.x + s ∧ (t.shiftBy s).i = t.i ∧ (t.shiftBy s).o = t.o
      ∧ ∀ k, FMap.get Elem.zero (t.shiftBy s).e k = shiftC s (FMap.get Elem.zero t.e k) := by
  unfold Tile.shiftBy
  dsimp only
  by_cases hs : s = 0
  · subst hs
    rw [if_pos rfl]
    refine ⟨ht, by simp, rfl, rfl, fun k => ?_⟩
    unfold shiftC
    rw [rneShift_none]
    split <;> rfl
  · rw [if_neg hs]
    have hz : shiftC s Elem.zero = Elem.zero := by
      unfold shiftC Elem.zero
      simp only [if_true, rneShift_zero]
    have hfun : (fun y : Nat × Elem => if y.2.c = .fin then
          let z := { y.2 with m := rneShift y.2.m s }
          if z = Elem.zero then none else some (y.1, z)
        else some y) = fun y => if shiftC s y.2 = Elem.zero then none else some (y.1, shiftC s y.2) := by
      funext y
      unfold shiftC
      by_cases hc : y.2.c = .fin
      · simp only [hc, if_true]
      · have hne : y.2 ≠ Elem.zero := fun h => hc (by rw [h]; rfl)
        simp only [hc, if_false, hne]
    obtain ⟨h1, h2⟩ := FMap.get_filterMap Elem.zero (shiftC s) hz 0 t.e ht
    rw [hfun]
    exact ⟨h1, rfl, rfl, rfl, h2⟩

theorem Tile.addAll_spec (t : Tile) (f : List (Nat × Int × Dy)) (hn : (f.map Prod.fst).Nodup) (ht : FMap.wf Elem.zero t.e = true) :
    (t.addAll f).x = t.x ∧ (t.addAll f).i = t.i
      ∧ (∀ y ∈ f, FMap.get Elem.zero (t.addAll f).e y.1 = (addC (FMap.get Elem.zero t.e y.1) (rneGrid y.2.2 t.x)).1)
      ∧ (∀ k, (∀ y ∈ f, y.1 ≠ k) → FMap.get Elem.zero (t.addAll f).e k = FMap.get Elem.zero t.e k)
      ∧ ((t.addAll f).o = true ↔ t.o = true ∨ ∃ y ∈ f, (addC (FMap.get Elem.zero t.e y.1) (rneGrid y.2.2 t.x)).2 = true) := by
  have hb : t.addAll f = f.foldl (fun t y => { t.put y.1 (addC (FMap.get Elem.zero t.e y.1) (rneGrid y.2.2 t.x)).1 with
      o := t.o || (addC (FMap.get Elem.zero t.e y.1) (rneGrid y.2.2 t.x)).2 }) t := by
    unfold Tile.addAll
    congr 1
    funext t y
    unfold addC
    dsimp only
    split
    · simp only [Bool.or_false]
      rfl
    · simp only [Bool.or_true]
  rw [hb]
  obtain ⟨-, h2, h3, h4, h5⟩ := Tile.foldl_update
    (fun t y => { t.put y.1 (addC (FMap.get Elem.zero t.e y.1) (rneGrid y.2.2 t.x)).1 with
      o := t.o || (addC (FMap.get Elem.zero t.e y.1) (rneGrid y.2.2 t.x)).2 })
    Prod.fst (fun x (y : Nat × Int × Dy) => addC x (rneGrid y.2.2 t.x)) Tile.o t.x
    (fun r c h => by dsimp only; rw [h]; rfl) (fun r c h => by dsimp only; rw [h]) (fun _ _ => rfl) f hn t ht rfl
  refine ⟨h2, ?_, h3, h4, h5⟩
  refine foldl_rel (fun a b : Tile => b.i = a.i) (fun _ => rfl) (fun h k => k.trans h) _ (fun _ _ => ?_) f t
  rfl

/-- The room for sums is the smallest that holds them all, up to a limit (R56). -/
theorem roomFor_spec (f : List (Int × Dy)) (e : Int) (n s : Nat) :
    let fits := fun (z : Nat) => ∀ x ∈ f, (rneShift x.1 z + rneGrid x.2 (e + z)).natAbs ≤ maxMant
    s ≤ roomFor f e n s ∧ roomFor f e n s ≤ s + n ∧ (∀ z, s ≤ z → z < roomFor f e n s → ¬fits z)
      ∧ (roomFor f e n s < s + n → fits (roomFor f e n s)) := by
  intro fits
  induction n generalizing s with
  | zero => exact ⟨le_rfl, le_rfl, fun z h1 h2 => absurd (lt_of_le_of_lt h1 h2) (lt_irrefl s), fun h => absurd h (lt_irrefl s)⟩
  | succ n ih =>
    have hall : f.all (fun x => decide ((rneShift x.1 s + rneGrid x.2 (e + s)).natAbs ≤ maxMant)) = true ↔ fits s := by
      simp only [List.all_eq_true, decide_eq_true_eq, fits]
    unfold roomFor
    by_cases h : f.all (fun x => decide ((rneShift x.1 s + rneGrid x.2 (e + s)).natAbs ≤ maxMant)) = true
    · rw [if_pos h]
      exact ⟨le_rfl, by omega, fun z h1 h2 => absurd (lt_of_le_of_lt h1 h2) (lt_irrefl s), fun _ => hall.mp h⟩
    · rw [if_neg h]
      obtain ⟨h1, h2, h3, h4⟩ := ih (s + 1)
      refine ⟨by omega, by omega, fun z hz hlt => ?_, fun hlt => h4 (by omega)⟩
      rcases Nat.lt_or_eq_of_le hz with hz | rfl
      · exact h3 z hz hlt
      · exact fun hf => h (hall.mpr hf)

end Sys2Proof.Machine
end

section
/-! ## A step, by its contributions (R56, R58, R63) -/
namespace Sys2Proof.Machine

/-- What a contribution does to the class and the value of an element that it meets (R56). -/
theorem meetC_fin (x : Elem) (d : Dy) (n p : Bool) : meetC x (.fin d n, p) = ({ x with p := x.p || p }, false) := rfl

theorem XV.cls_ne_fin {v : XV} (h : ∀ d n, v ≠ .fin d n) : v.cls ≠ .fin := by
  cases v with
  | fin d n => exact absurd rfl (h d n)
  | inf n => cases n <;> nofun
  | nan => nofun

theorem meetC_other (x : Elem) (v : XV) (p : Bool) (h : ∀ d n, v ≠ .fin d n) :
    meetC x (v, p) = meetInf { x with p := x.p || p } v.cls := by
  cases v with
  | fin d n => exact absurd rfl (h d n)
  | inf n => rfl
  | nan => rfl

theorem meetInf_class (x : Elem) (c : ECls) (hc : c ≠ .fin) :
    (meetInf x c).1.p = x.p ∧ (meetInf x c).1.c = (if x.c = .fin then c else if x.c = .nan ∨ c = x.c then x.c else .nan)
      ∧ (meetInf x c).1.c ≠ .fin ∧ ((meetInf x c).2 = true ↔ x.c ≠ .nan ∧ (meetInf x c).1.c = .nan) := by
  obtain ⟨k, m, p⟩ := x
  cases k <;> cases c <;> first | exact absurd rfl hc | simp [meetInf]

theorem meetInf_value (x : Elem) (c : ECls) (hx : x.c ≠ .fin → x.m = 0) : (meetInf x c).1.m = 0 := by
  obtain ⟨k, m, p⟩ := x
  cases k with
  | fin => rfl
  | nan => exact hx nofun
  | pinf =>
    unfold meetInf
    dsimp only
    split
    · exact hx nofun
    · rfl
  | ninf =>
    unfold meetInf
    dsimp only
    split
    · exact hx nofun
    · rfl

theorem meetC_psn (x : Elem) (c : XV × Bool) : (meetC x c).1.p = (x.p || c.2) := by
  obtain ⟨v, p⟩ := c
  obtain ⟨k, m, q⟩ := x
  cases v <;> cases k <;> simp only [meetC, meetInf] <;> split <;> rfl

theorem shiftC_keeps (s : Nat) (x : Elem) : (shiftC s x).c = x.c ∧ (shiftC s x).p = x.p
    ∧ (shiftC s x).m = if x.c = .fin then rneShift x.m s else x.m := by
  unfold shiftC
  split <;> exact ⟨rfl, rfl, rfl⟩

theorem addC_psn (x : Elem) (n : Int) : (addC x n).1.p = x.p := by
  unfold addC
  split <;> rfl

theorem addC_spec (x : Elem) (n : Int) (hx : x.c = .fin) :
    (if |x.m + n| ≤ 2 ^ 47 - 1 then (addC x n).1.c = .fin ∧ (addC x n).1.m = x.m + n
      else (addC x n).1.c = (if x.m + n < 0 then .ninf else .pinf) ∧ (addC x n).1.m = 0)
    ∧ ((addC x n).2 = true ↔ (addC x n).1.c ≠ .fin) ∧ (addC x n).1.c ≠ .nan := by
  have hiff : (x.m + n).natAbs ≤ maxMant ↔ |x.m + n| ≤ 2 ^ 47 - 1 := by
    rw [Int.abs_eq_natAbs, maxMant]
    omega
  unfold addC
  by_cases h : (x.m + n).natAbs ≤ maxMant
  · rw [if_pos h, if_pos (hiff.mp h)]
    exact ⟨⟨hx, rfl⟩, iff_of_false Bool.false_ne_true (not_not.mpr hx), by rw [hx]; nofun⟩
  · rw [if_neg h, if_neg (fun hc => h (hiff.mpr hc))]
    refine ⟨⟨rfl, rfl⟩, iff_of_true rfl ?_, ?_⟩ <;> dsimp only <;> split <;> nofun

section
variable (t : Tile) (cs : List (Nat × XV × Bool)) (con : Nat → Option (XV × Bool))

/-- The increment that an element's contribution is on the grid of a room. -/
def Tile.incOf (z k : Nat) : Int :=
  match con k with
  | some (.fin d _, _) => rneGrid d (t.x + z)
  | _ => 0

/-- The finite contributions that meet finite elements, by their numbers. -/
theorem Tile.mem_sums (u : Tile) (hc : ∀ k v, con k = some v ↔ (k, v) ∈ cs) (k : Nat) (m : Int) (d : Dy) :
    (k, m, d) ∈ u.sums cs ↔ (FMap.get Elem.zero u.e k).c = .fin ∧ m = (FMap.get Elem.zero u.e k).m ∧ ∃ n p, con k = some (.fin d n, p) := by
  unfold Tile.sums
  rw [List.mem_filterMap]
  constructor
  · rintro ⟨⟨j, v, p⟩, hm, he⟩
    cases v with
    | fin d' n =>
      dsimp only at he
      split at he
      · next hf =>
        cases he
        exact ⟨hf, rfl, n, p, (hc _ _).mpr hm⟩
      · cases he
    | inf n => cases he
    | nan => cases he
  · rintro ⟨hf, rfl, n, p, h⟩
    exact ⟨(k, .fin d n, p), (hc _ _).mp h, by dsimp only; rw [if_pos hf]⟩

theorem Tile.sums_nodup (u : Tile) (hn : (cs.map Prod.fst).Nodup) : ((u.sums cs).map Prod.fst).Nodup := by
  refine hn.sublist ?_
  unfold Tile.sums
  induction cs with
  | nil => exact .slnil
  | cons c cs ih =>
    rw [List.map_cons] at hn ⊢
    have ih := ih (List.nodup_cons.mp hn).2
    obtain ⟨k, v, p⟩ := c
    cases v with
    | fin d n =>
      by_cases hf : (FMap.get Elem.zero u.e k).c = .fin
      · rw [List.filterMap_cons_some (b := (k, (FMap.get Elem.zero u.e k).m, d)) (by dsimp only; rw [if_pos hf])]
        exact ih.cons_cons _
      · rw [List.filterMap_cons_none (by dsimp only; rw [if_neg hf])]
        exact ih.cons _
    | inf n => exact ih.cons _
    | nan => exact ih.cons _

/-- The elements of a tile after a step with the room `s`. -/
structure Tile.StepOf (t t' : Tile) (con : Nat → Option (XV × Bool)) (s : Nat) : Prop where
  x : t'.x = t.x + s
  none : ∀ k, con k = none → FMap.get Elem.zero t'.e k = shiftC s (FMap.get Elem.zero t.e k)
  sum : ∀ k d n p, con k = some (.fin d n, p) → (FMap.get Elem.zero t.e k).c = .fin → FMap.get Elem.zero t'.e k
    = (addC (shiftC s { FMap.get Elem.zero t.e k with p := (FMap.get Elem.zero t.e k).p || p }) (rneGrid d (t.x + s))).1
  stays : ∀ k d n p, con k = some (.fin d n, p) → (FMap.get Elem.zero t.e k).c ≠ .fin →
    FMap.get Elem.zero t'.e k = { FMap.get Elem.zero t.e k with p := (FMap.get Elem.zero t.e k).p || p }
  met : ∀ k v p, con k = some (v, p) → (∀ d n, v ≠ .fin d n) → FMap.get Elem.zero t'.e k
    = (meetInf { FMap.get Elem.zero t.e k with p := (FMap.get Elem.zero t.e k).p || p } v.cls).1
  i : t'.i = true ↔ t.i = true ∨ ∃ k c, con k = some c ∧ (meetC (FMap.get Elem.zero t.e k) c).2 = true
  o : t'.o = true ↔ t.o = true ∨ ∃ k d n p, con k = some (.fin d n, p) ∧ (FMap.get Elem.zero t.e k).c = .fin
    ∧ (addC (shiftC s { FMap.get Elem.zero t.e k with p := (FMap.get Elem.zero t.e k).p || p }) (rneGrid d (t.x + s))).2 = true

/-- All sums of a step fit at a room. -/
def Tile.fitsAt (z : Nat) : Prop := ∀ k d n p, con k = some (.fin d n, p) → (FMap.get Elem.zero t.e k).c = .fin →
  |rneShift (FMap.get Elem.zero t.e k).m z + rneGrid d (t.x + z)| ≤ 2 ^ 47 - 1

theorem natAbs_le_maxMant (m : Int) : m.natAbs ≤ maxMant ↔ |m| ≤ 2 ^ 47 - 1 := by
  rw [Int.abs_eq_natAbs, maxMant]
  omega

/-- A step with contributions of elements no two of which are one: its room is the smallest that holds the sums. -/
theorem Tile.step_of (hwf : FMap.wf Elem.zero t.e = true) (hx : t.x ≤ 32767) (hn : (cs.map Prod.fst).Nodup)
    (hc : ∀ k v, con k = some v ↔ (k, v) ∈ cs) : ∃ s : Nat, t.StepOf (t.step cs) con s ∧ (s : Int) ≤ 32767 - t.x
      ∧ (∀ z < s, ¬t.fitsAt con z) ∧ ((s : Int) < 32767 - t.x → t.fitsAt con s) := by
  obtain ⟨m1, m2, m3, m4, m5, m6⟩ := t.metBy_spec cs hn hwf
  have hmet : ∀ k v p, con k = some (v, p) → FMap.get Elem.zero (t.metBy cs).e k = (meetC (FMap.get Elem.zero t.e k) (v, p)).1 :=
    fun k v p h => m4 (k, v, p) ((hc _ _).mp h)
  have hunmet : ∀ k, con k = none → FMap.get Elem.zero (t.metBy cs).e k = FMap.get Elem.zero t.e k := fun k h =>
    m5 k (fun c hcs hk => by rw [(hc k c.2).mpr (hk ▸ hcs)] at h; cases h)
  have hmem : ∀ k m d, (k, m, d) ∈ (t.metBy cs).sums cs ↔ (FMap.get Elem.zero t.e k).c = .fin ∧ m = (FMap.get Elem.zero t.e k).m
      ∧ ∃ n p, con k = some (.fin d n, p) := fun k m d => by
    rw [Tile.mem_sums cs con (t.metBy cs) hc]
    constructor
    · rintro ⟨h1, h2, n, p, h3⟩
      rw [hmet _ _ _ h3] at h1 h2
      exact ⟨h1, h2, n, p, h3⟩
    · rintro ⟨h1, h2, n, p, h3⟩
      rw [hmet _ _ _ h3]
      exact ⟨h1, h2, n, p, h3⟩
  have hr := roomFor_spec (((t.metBy cs).sums cs).map (fun x => x.2)) (t.metBy cs).x (32767 - (t.metBy cs).x).toNat 0
  have hstep := t.step_eq cs
  generalize roomFor (((t.metBy cs).sums cs).map (fun x => x.2)) (t.metBy cs).x (32767 - (t.metBy cs).x).toNat 0 = s at hr hstep
  have hfits : ∀ z : Nat, (∀ x ∈ ((t.metBy cs).sums cs).map (fun x => x.2),
      (rneShift x.1 z + rneGrid x.2 ((t.metBy cs).x + z)).natAbs ≤ maxMant) ↔ t.fitsAt con z := fun z => by
    rw [m2]
    constructor
    · intro h k d n p hk hf
      exact (natAbs_le_maxMant _).mp (h (_, d) (List.mem_map.mpr ⟨(k, _, d), (hmem k _ d).mpr ⟨hf, rfl, n, p, hk⟩, rfl⟩))
    · rintro h x hxm
      obtain ⟨⟨k, m, d⟩, hm, rfl⟩ := List.mem_map.mp hxm
      obtain ⟨hf, rfl, n, p, hk⟩ := (hmem k m d).mp hm
      exact (natAbs_le_maxMant _).mpr (h k d n p hk hf)
  obtain ⟨-, r2, r3, r4⟩ := hr
  obtain ⟨s1, s2, s3, s4, s5⟩ := (t.metBy cs).shiftBy_spec s m1
  obtain ⟨a1, a2, a3, a4, a5⟩ := ((t.metBy cs).shiftBy s).addAll_spec _ (Tile.sums_nodup cs (t.metBy cs) hn) s1
  rw [← hstep] at a1 a2 a3 a4 a5
  simp only [s5, s2, m2] at a3 a5
  have hrest : ∀ k, (∀ d n p, con k = some (.fin d n, p) → (FMap.get Elem.zero t.e k).c ≠ .fin) →
      FMap.get Elem.zero (t.step cs).e k = shiftC s (FMap.get Elem.zero (t.metBy cs).e k) := fun k h => by
    rw [a4 k, s5]
    rintro ⟨j, m, d⟩ hy rfl
    obtain ⟨hf, -, n, p, hk⟩ := (hmem j m d).mp hy
    exact h d n p hk hf
  rw [m2] at r2 r4
  have hroom : (s : Int) ≤ 32767 - t.x := by omega
  refine ⟨s, ⟨by rw [a1, s2, m2], fun k h => ?_, fun k d n p hk hf => ?_, fun k d n p hk hf => ?_, fun k v p hk hv => ?_, ?_, ?_⟩,
    hroom, fun z hz hf => r3 z (Nat.zero_le z) hz ((hfits z).mpr hf), fun hlt => (hfits s).mp ?_⟩
  · rw [hrest k (fun d n p hk => by rw [h] at hk; cases hk), hunmet k h]
  · have := a3 (k, _, d) ((hmem k _ d).mpr ⟨hf, rfl, n, p, hk⟩)
    rwa [hmet _ _ _ hk, meetC_fin] at this
  · rw [hrest k (fun _ _ _ _ => hf), hmet _ _ _ hk, meetC_fin]
    unfold shiftC
    rw [if_neg hf]
  · rw [hrest k (fun d n q hq => by rw [hk] at hq; cases hq; exact absurd rfl (hv d n)), hmet _ _ _ hk, meetC_other _ _ _ hv]
    unfold shiftC
    rw [if_neg (meetInf_class _ _ (XV.cls_ne_fin hv)).2.2.1]
  · rw [a2, s3, m6]
    refine or_congr_right ⟨fun ⟨c, h1, h2⟩ => ⟨c.1, c.2, (hc _ _).mpr h1, h2⟩, fun ⟨k, c, h1, h2⟩ => ⟨(k, c), (hc _ _).mp h1, h2⟩⟩
  · rw [a5, s4, m3]
    refine or_congr_right ⟨?_, ?_⟩
    · rintro ⟨⟨k, m, d⟩, h1, h2⟩
      obtain ⟨hf, -, n, p, hk⟩ := (hmem k m d).mp h1
      rw [hmet _ _ _ hk, meetC_fin] at h2
      exact ⟨k, d, n, p, hk, hf, h2⟩
    · rintro ⟨k, d, n, p, hk, hf, h2⟩
      refine ⟨(k, _, d), (hmem k _ d).mpr ⟨hf, rfl, n, p, hk⟩, ?_⟩
      rw [hmet _ _ _ hk, meetC_fin]
      exact h2
  · rw [m2]
    exact r4 (by omega)

/-- A step is the exact step of R56 and R58. -/
theorem Tile.step_stepped (hs : t.sane) (hn : (cs.map Prod.fst).Nodup) (hc : ∀ k v, con k = some v ↔ (k, v) ∈ cs) :
    t.stepped (t.step cs) con := by
  obtain ⟨hwf, -, hx, hel⟩ := hs
  obtain ⟨s, hst, h1, h2, h3⟩ := t.step_of cs con hwf hx hn hc
  obtain ⟨ex, enone, esum, estays, emet, ei, eo⟩ := hst
  have hinc : ∀ (z k : Nat) d n p, con k = some (.fin d n, p) → t.incOf con z k = rneGrid d (t.x + z) := fun z k d n p h => by
    unfold Tile.incOf
    rw [h]
  have hfits : ∀ z : Nat, (∀ k, ((FMap.get Elem.zero t.e k).c = .fin ∧ ∃ d n p, con k = some (.fin d n, p)) →
      |rneShift (FMap.get Elem.zero t.e k).m z + t.incOf con z k| ≤ 2 ^ 47 - 1) ↔ t.fitsAt con z := fun z =>
    ⟨fun h k d n p hk hf => by rw [← hinc z k d n p hk]; exact h k ⟨hf, d, n, p, hk⟩,
      fun h k ⟨hf, d, n, p, hk⟩ => by rw [hinc z k d n p hk]; exact h k d n p hk hf⟩
  have hadd : ∀ k d n p, con k = some (.fin d n, p) → (FMap.get Elem.zero t.e k).c = .fin → _ := fun k d n p _ hf =>
    addC_spec (shiftC s { FMap.get Elem.zero t.e k with p := (FMap.get Elem.zero t.e k).p || p }) (rneGrid d (t.x + s))
      ((shiftC_keeps s _).1.trans hf)
  have hsum : ∀ k d n p, con k = some (.fin d n, p) → (FMap.get Elem.zero t.e k).c = .fin →
      (shiftC s { FMap.get Elem.zero t.e k with p := (FMap.get Elem.zero t.e k).p || p }).m + rneGrid d (t.x + s)
        = rneShift (FMap.get Elem.zero t.e k).m s + t.incOf con s k := fun k d n p hk hf => by
    rw [(shiftC_keeps s _).2.2, if_pos hf, hinc s k d n p hk]
  refine ⟨fun z k => rneShift (FMap.get Elem.zero t.e k).m z, t.incOf con, s, fun z k => rneShift_rounds _ z, fun z k d n p hk => ?_,
    h1, fun z hz hf => h2 z hz ((hfits z).mp hf), fun hlt => (hfits s).mpr (h3 hlt), ex, fun k => ?_, fun k hf hk => ?_,
    fun k ⟨hf, d, n, p, hk⟩ => ?_, fun k hf hk => ?_, fun k v p hk hv => ?_, ?_, ?_⟩
  all_goals beta_reduce
  · rw [hinc z k d n p hk, sub_sub]
    exact rneGrid_rounds d (t.x + z)
  · rcases hk : con k with _ | ⟨v, p⟩
    · rw [enone k hk, (shiftC_keeps s _).2.1]
      simp
    · by_cases hv : ∃ d n, v = .fin d n
      · obtain ⟨d, n, rfl⟩ := hv
        by_cases hf : (FMap.get Elem.zero t.e k).c = .fin
        · rw [esum k d n p hk hf, addC_psn, (shiftC_keeps s _).2.1]
          rfl
        · rw [estays k d n p hk hf]
          rfl
      · have hv : ∀ d n, v ≠ .fin d n := fun d n h => hv ⟨d, n, h⟩
        rw [emet k v p hk hv, (meetInf_class _ _ (XV.cls_ne_fin hv)).1]
        rfl
  · rw [enone k hk]
    obtain ⟨k1, -, k3⟩ := shiftC_keeps s (FMap.get Elem.zero t.e k)
    exact ⟨k1.trans hf, k3.trans (if_pos hf)⟩
  · have h := (hadd k d n p hk hf).1
    rw [hsum k d n p hk hf] at h
    rw [esum k d n p hk hf]
    exact h
  · rcases hk with hk | ⟨d, n, p, hk⟩
    · rw [enone k hk]
      obtain ⟨k1, -, k3⟩ := shiftC_keeps s (FMap.get Elem.zero t.e k)
      exact ⟨k1, k3.trans (if_neg hf)⟩
    · rw [estays k d n p hk hf]
      exact ⟨rfl, rfl⟩
  · rw [emet k v p hk hv]
    exact ⟨meetInf_value _ _ (hel k).2, (meetInf_class _ _ (XV.cls_ne_fin hv)).2.1⟩
  · rw [ei]
    refine or_congr_right (exists_congr (fun k => ?_))
    rcases hk : con k with _ | ⟨v, p⟩
    · simp only [reduceCtorEq, false_and, exists_false, false_iff, not_and]
      intro h1 h2
      rw [enone k hk, (shiftC_keeps s _).1] at h2
      exact h1 h2
    · simp only [Option.some.injEq, exists_eq_left']
      by_cases hv : ∃ d n, v = .fin d n
      · obtain ⟨d, n, rfl⟩ := hv
        refine iff_of_false Bool.false_ne_true (fun ⟨h1, h2⟩ => ?_)
        by_cases hf : (FMap.get Elem.zero t.e k).c = .fin
        · rw [esum k d n p hk hf] at h2
          exact (hadd k d n p hk hf).2.2 h2
        · rw [estays k d n p hk hf] at h2
          exact h1 h2
      · have hv : ∀ d n, v ≠ .fin d n := fun d n h => hv ⟨d, n, h⟩
        rw [emet k v p hk hv, meetC_other _ _ _ hv]
        exact (meetInf_class _ _ (XV.cls_ne_fin hv)).2.2.2
  · rw [eo]
    refine or_congr_right (exists_congr (fun k => ⟨?_, ?_⟩))
    · rintro ⟨d, n, p, hk, hf, h⟩
      refine ⟨⟨hf, d, n, p, hk⟩, ?_⟩
      rw [esum k d n p hk hf]
      exact (hadd k d n p hk hf).2.1.mp h
    · rintro ⟨⟨hf, d, n, p, hk⟩, h⟩
      refine ⟨d, n, p, hk, hf, ?_⟩
      rw [esum k d n p hk hf] at h
      exact (hadd k d n p hk hf).2.1.mpr h

end

end Sys2Proof.Machine
end

section
/-! ## The contributions of a step (R55, R57, R59, R254, R255) -/
namespace Sys2Proof.Machine

/-! ### Products of products -/

/-- The value of two products multiplied is that of all their factors. -/
theorem Term.Gives.append {t u : Term} {p q : FV} (h : t.Gives p) (k : u.Gives q) (hu : u.neg = false) :
    Term.Gives ⟨t.neg, t.fs ++ u.fs⟩ (p.mul q) := by
  obtain ⟨hm1, hm2⟩ := FV.mul_cases p q
  have hany : (t.fs ++ u.fs).any FV.isNan = (t.fs.any FV.isNan || u.fs.any FV.isNan) := List.any_append
  have hinf : Term.isInf ⟨t.neg, t.fs ++ u.fs⟩ = (t.isInf || u.isInf) := List.any_append
  have hzero : Term.isZero ⟨t.neg, t.fs ++ u.fs⟩ = (t.isZero || u.isZero) := List.any_append
  have hsign : Term.sign ⟨t.neg, t.fs ++ u.fs⟩ = (t.sign != u.sign) := by
    have hx := foldl_xor u.fs false t.sign
    rw [Bool.false_bne] at hx
    rw [Term.sign, List.foldl_append, show u.sign = u.fs.foldl (fun b x => b != x.neg) false by rw [Term.sign, hu], bne_comm]
    exact hx
  have hrat : Term.rat ⟨t.neg, t.fs ++ u.fs⟩ = t.rat * u.rat := by
    simp only [Term.rat, List.map_append, List.prod_append, hu]
    simp
  by_cases hn : (t.fs.any FV.isNan || t.bad) = true ∨ (u.fs.any FV.isNan || u.bad) = true
  · have hm : (p.mul q).isNan = true := by
      rcases hn with hn | hn
      · exact hm1 (by simp [h.nan hn])
      · exact hm1 (by simp [k.nan hn])
    refine ⟨fun _ => hm, fun hk => ?_⟩
    simp only [Term.bad, hany, hinf, hzero, Bool.or_eq_true, Bool.and_eq_true, Bool.or_eq_false_iff, Bool.and_eq_false_iff] at hk hn
    obtain ⟨⟨h1, h2⟩, h3⟩ := hk
    rcases hn with (hn | ⟨h4, h5⟩) | (hn | ⟨h4, h5⟩) <;> simp_all
  · rw [not_or, Bool.not_eq_true, Bool.not_eq_true] at hn
    obtain ⟨h1, h2, h3, h4, h5⟩ := h.num hn.1
    obtain ⟨k1, k2, k3, k4, k5⟩ := k.num hn.2
    have hcond : ((t.fs ++ u.fs).any FV.isNan || Term.bad ⟨t.neg, t.fs ++ u.fs⟩)
        = (p.isNan || q.isNan || (p.isInf && q.isZero) || (p.isZero && q.isInf)) := by
      simp only [Term.bad, Bool.or_eq_false_iff] at hn
      simp only [Term.bad, hany, hinf, hzero, h1, h2, h4, k1, k2, k4, hn.1.1, hn.2.1]
      have e1 := hn.1.2
      have e2 := hn.2.2
      cases hti : t.isInf <;> cases htz : t.isZero <;> cases hui : u.isInf <;> cases huz : u.isZero <;> simp_all
    refine ⟨fun hk => hm1 (hcond ▸ hk), fun hk => ?_⟩
    obtain ⟨m1, m2, m3, m4, m5⟩ := hm2 (hcond ▸ hk)
    refine ⟨m1, by rw [m2, h2, k2, hinf], by rw [m3, h3, k3, hsign], by rw [m4, h4, k4, hzero], fun hi => ?_⟩
    rw [hinf, Bool.or_eq_false_iff] at hi
    rw [m5 (by rw [h2, k2, hi.1, hi.2]; rfl), h5 hi.1, k5 hi.2, hrat]

/-- A factor of one leaves a product. -/
theorem Term.Gives.dropOne {a b p : FV} (h : Term.Gives ⟨false, [a, .fin false 1 0, b]⟩ p) : Term.Gives ⟨false, [a, b]⟩ p := by
  have hinf : Term.isInf ⟨false, [a, b]⟩ = Term.isInf ⟨false, [a, .fin false 1 0, b]⟩ := by simp [Term.isInf, FV.isInf]
  have hzero : Term.isZero ⟨false, [a, b]⟩ = Term.isZero ⟨false, [a, .fin false 1 0, b]⟩ := by simp [Term.isZero, FV.isZero]
  have hsign : Term.sign ⟨false, [a, b]⟩ = Term.sign ⟨false, [a, .fin false 1 0, b]⟩ := by simp [Term.sign, FV.neg]
  have hrat : Term.rat ⟨false, [a, b]⟩ = Term.rat ⟨false, [a, .fin false 1 0, b]⟩ := by simp [Term.rat, FV.rat]
  have hcond : ([a, b].any FV.isNan || Term.bad ⟨false, [a, b]⟩)
      = ([a, .fin false 1 0, b].any FV.isNan || Term.bad ⟨false, [a, .fin false 1 0, b]⟩) := by
    rw [Term.bad, Term.bad, hinf, hzero]
    simp [FV.isNan]
  refine ⟨fun hn => h.nan (hcond ▸ hn), fun hn => ?_⟩
  rw [hinf, hzero, hsign, hrat]
  exact h.num (hcond ▸ hn)

/-! ### Operands -/

/-- A factor list with a poison stands for an operand: none for none, and one whose product is the operand's value. -/
def Factors (a : Option (List FV × Bool)) (b : Option (FV × Bool)) : Prop :=
  (a = none ∧ b = none) ∨ ∃ fs v p, a = some (fs, p) ∧ b = some (v, p) ∧ Term.Gives ⟨false, fs⟩ v

/-- The products of factor lists, where both stand. -/
def termsOf (ms : List Nat) (A B : Nat → Option (List FV × Bool)) : List (Term × Bool) :=
  ms.filterMap (fun m => match A m, B m with
    | some a, some b => some ((⟨false, a.1 ++ b.1⟩ : Term), a.2 || b.2)
    | _, _ => none)

/-- The products of a row and a column, where both elements stand. -/
def pairsOf (row col : List (Option (FV × Bool))) : List (FV × Bool) :=
  (row.zip col).filterMap (fun x =>
    match x.1, x.2 with
    | some a, some b => some (a.1.mul b.1, a.2 || b.2)
    | _, _ => none)

theorem contrib_eq (row col : List (Option (FV × Bool))) :
    contrib row col = (sumX 0 ((pairsOf row col).map (fun x => x.1)), (pairsOf row col).any (fun x => x.2)) := rfl

/-- A contribution is the exact sum of the products of its operands' factors (R55, R63). -/
theorem contrib_isSum (ms : List Nat) (A B : Nat → Option (List FV × Bool)) (R C : Nat → Option (FV × Bool))
    (hA : ∀ m, Factors (A m) (R m)) (hB : ∀ m, Factors (B m) (C m)) :
    (contrib (ms.map R) (ms.map C)).1.isSum ((termsOf ms A B).map (fun x => x.1))
      ∧ (contrib (ms.map R) (ms.map C)).2 = (termsOf ms A B).any (fun x => x.2) := by
  have key : ∃ l : List (Term × FV × Bool), Gives (l.map (fun x => (x.1, x.2.1)))
      ∧ termsOf ms A B = l.map (fun x => (x.1, x.2.2))
      ∧ pairsOf (ms.map R) (ms.map C) = l.map (fun x => x.2) := by
    induction ms with
    | nil => exact ⟨[], gives_nil, rfl, rfl⟩
    | cons m ms ih =>
      obtain ⟨l, h1, h2, h3⟩ := ih
      unfold termsOf pairsOf at *
      rw [List.map_cons, List.map_cons, List.zip_cons_cons]
      rcases hA m with ⟨ha, hr⟩ | ⟨fs, v, p, ha, hr, hg⟩
      · refine ⟨l, h1, ?_, ?_⟩
        · rw [List.filterMap_cons_none (by rw [ha]), h2]
        · rw [List.filterMap_cons_none (by rw [hr]), h3]
      · rcases hB m with ⟨hb, hc⟩ | ⟨gs, w, q, hb, hc, hk⟩
        · refine ⟨l, h1, ?_, ?_⟩
          · rw [List.filterMap_cons_none (by rw [ha, hb]), h2]
          · rw [List.filterMap_cons_none (by rw [hr, hc]), h3]
        · refine ⟨(⟨false, fs ++ gs⟩, v.mul w, p || q) :: l, gives_cons (hg.append hk rfl) h1, ?_, ?_⟩
          · rw [List.filterMap_cons_some (b := ((⟨false, fs ++ gs⟩ : Term), p || q)) (by rw [ha, hb]), h2]
            rfl
          · rw [List.filterMap_cons_some (b := (v.mul w, p || q)) (by rw [hr, hc]), h3]
            rfl
  obtain ⟨l, h1, h2, h3⟩ := key
  have hs := (h1.sumX 0).1
  rw [contrib_eq, h2, h3]
  simp only [List.map_map, List.any_map] at hs ⊢
  exact ⟨hs, rfl⟩

/-- The factors of an operand in scratch (R254). -/
def State.operandFactors (s : State) (g quad : Nat) (h : Shape) (code mode : Nat) (x : FV) (tr : Bool) (k line : Nat) :
    Option (List FV × Bool) :=
  let up := fun (a b : Nat) => (a + b - 1) / b
  (h.at' (if tr then ⟨k, line, 0, 0⟩ else ⟨line, k, 0, 0⟩)).map (fun i =>
    let e := match s.elem g quad h i with
      | .ok r => r
      | .error _ => (0, false)
    let ka := if tr then i.s0 else i.s1
    let la := if tr then i.s1 else i.s0
    let dk := if tr then h.dim 0 else h.dim 1
    let dl := if tr then h.dim 1 else h.dim 0
    let n := la * up dk 64 + ka / 64
    let byte := (s.grp g).scaleRead quad (h.sofs + la * up dk 32 + ka / 32) 1
    let scl := (s.grp g).scaleRead quad (h.sofs + n) 1
    let sup := (s.grp g).scaleRead quad (h.sofs + 4 * up (dl * up dk 64) 4 + 4 * (n / 256)) 4
    match mode with
    | 0 => ([elemVal code e.1, x], e.2)
    | 1 => ([elemVal code e.1, e4m3.decode byte.1, x], e.2 || byte.2)
    | _ => ([elemVal code e.1, fp32.decode sup.1, .fin false scl.1 (-8), x], e.2 || (scl.2 || sup.2)))

/-- Three factors in two products. -/
theorem Term.gives_three (a b c : FV) : Term.Gives ⟨false, [a, b, c]⟩ ((a.mul b).mul c) := (Term.gives_two a b).mul c

theorem State.operand_factors (s : State) (g quad : Nat) (h : Shape) (code mode : Nat) (x : FV) (tr : Bool) (k line : Nat) :
    Factors (s.operandFactors g quad h code mode x tr k line) (s.operand g quad h code mode x tr k line) := by
  unfold State.operandFactors State.operand
  dsimp only
  cases hi : h.at' (if tr then ⟨k, line, 0, 0⟩ else ⟨line, k, 0, 0⟩) with
  | none => exact .inl ⟨rfl, rfl⟩
  | some i =>
    refine .inr ?_
    rcases mode with _ | _ | mode
    · exact ⟨_, _, _, rfl, congrArg (fun p => some (_, p)) (Bool.or_false _), (Term.gives_three _ _ _).dropOne⟩
    · exact ⟨_, _, _, rfl, rfl, Term.gives_three _ _ _⟩
    · refine ⟨_, _, _, rfl, rfl, ?_⟩
      exact ((Term.gives_one _).append (Term.gives_two _ _) rfl).mul _

end Sys2Proof.Machine
end

section
/-! ## Elements drained, and the rows of a step (R59, R255) -/
namespace Sys2Proof.Machine

/-! ### The down-converter (R59) -/

/-- The bits that a value has in a code, with the exceptions of its conversion. -/
def drainOf (v : FV) (code rnd : Nat) (sat : Bool) : Nat × Exc :=
  match dstOf code with
  | .flt f => convF f rnd sat none v
  | .int w sg => (modW w (convI w sg rnd v).1, (convI w sg rnd v).2)

/-- The status of a tile after exceptions. -/
def Tile.flagged (t : Tile) (e : Exc) : Tile := { t with i := t.i || e.inv, o := t.o || e.ovf }

/-- What an element of a tile becomes in a code. -/
def Tile.drained (t : Tile) (code rnd : Nat) (sat : Bool) (i j : Nat) : Nat × Exc := drainOf ((t.at' i j).value t.x) code rnd sat

theorem Tile.drain_eq (t : Tile) (i j code rnd : Nat) (sat : Bool) :
    t.drain i j code rnd sat = ((t.drained code rnd sat i j).1, (t.at' i j).p, t.flagged (t.drained code rnd sat i j).2) := by
  have hv : (t.at' i j).value t.x = (match (t.at' i j).c with
    | .fin => .fin (decide ((t.at' i j).m < 0)) (t.at' i j).m.natAbs t.x
    | .pinf => .inf false
    | .ninf => .inf true
    | .nan => .nan false) := by
    unfold Elem.value
    cases (t.at' i j).c <;> rfl
  unfold Tile.drained
  rw [hv]
  unfold Tile.drain drainOf
  cases dstOf code <;> rfl

/-- `t'` is `t` but for the status that exceptions have left, those for which `P` holds. -/
structure Tile.Flagged (t t' : Tile) (P : Exc → Prop) : Prop where
  e : t'.e = t.e
  x : t'.x = t.x
  i : t'.i = true ↔ t.i = true ∨ ∃ e, P e ∧ e.inv = true
  o : t'.o = true ↔ t.o = true ∨ ∃ e, P e ∧ e.ovf = true

theorem Tile.Flagged.refl (t : Tile) : t.Flagged t (fun _ => False) := ⟨rfl, rfl, by simp, by simp⟩

theorem Tile.Flagged.trans {t u v : Tile} {P Q R : Exc → Prop} (h : t.Flagged u P) (k : u.Flagged v Q) (hR : ∀ e, R e ↔ P e ∨ Q e) :
    t.Flagged v R := by
  refine ⟨k.e.trans h.e, k.x.trans h.x, ?_, ?_⟩
  · rw [k.i, h.i, or_assoc, ← exists_or]
    simp only [hR, or_and_right]
  · rw [k.o, h.o, or_assoc, ← exists_or]
    simp only [hR, or_and_right]

theorem Tile.flagged_flagged (t : Tile) (e : Exc) : t.Flagged (t.flagged e) (fun z => z = e) :=
  ⟨rfl, rfl, by simp [Tile.flagged], by simp [Tile.flagged]⟩

theorem Tile.Flagged.drained {t t' : Tile} {P : Exc → Prop} (h : t.Flagged t' P) (code rnd : Nat) (sat : Bool) (i j : Nat) :
    t'.at' i j = t.at' i j ∧ t'.drained code rnd sat i j = t.drained code rnd sat i j := by
  have ha : t'.at' i j = t.at' i j := by
    unfold Tile.at'
    rw [h.e]
  refine ⟨ha, ?_⟩
  unfold Tile.drained
  rw [ha, h.x]

/-- Elements drained one after another, each giving what `g` makes of it. -/
theorem foldl_drain {α β : Type} (code rnd : Nat) (sat : Bool) (pos : α → Nat × Nat) (g : α → Nat → Bool → List β) (js : List α) (t : Tile) :
    ∃ t', js.foldl (fun (r : List β × Tile) j =>
        let d := r.2.drain (pos j).1 (pos j).2 code rnd sat
        (r.1 ++ g j d.1 d.2.1, d.2.2)) ([], t)
      = (js.flatMap (fun j => g j (t.drained code rnd sat (pos j).1 (pos j).2).1 (t.at' (pos j).1 (pos j).2).p), t')
      ∧ t.Flagged t' (fun e => ∃ j ∈ js, e = (t.drained code rnd sat (pos j).1 (pos j).2).2) := by
  induction js using List.reverseRecOn with
  | nil => exact ⟨t, rfl, by simpa using Tile.Flagged.refl t⟩
  | append_singleton js j ih =>
    obtain ⟨t', h1, h2⟩ := ih
    obtain ⟨ha, hd⟩ := h2.drained code rnd sat (pos j).1 (pos j).2
    refine ⟨t'.flagged (t.drained code rnd sat (pos j).1 (pos j).2).2, ?_, h2.trans (t'.flagged_flagged _) (fun e => ?_)⟩
    · rw [List.foldl_append, h1]
      simp only [List.foldl_cons, List.foldl_nil, Tile.drain_eq, ha, hd, List.flatMap_append, List.flatMap_cons, List.flatMap_nil,
        List.append_nil]
    · simp only [List.mem_append, List.mem_singleton, or_and_right, exists_or, exists_eq_left]

/-- A conversion out of a tile is as the rules say (R59). -/
theorem drainOf_spec (v : FV) (code rnd : Nat) (sat : Bool) :
    (∀ f, dstOf code = .flt f → v.floatsTo true f rnd sat (drainOf v code rnd sat).1 (drainOf v code rnd sat).2)
    ∧ (∀ w sg, dstOf code = .int w sg → ∃ r, v.intsTo w sg rnd r (drainOf v code rnd sat).2
        ∧ (drainOf v code rnd sat).1 = (r % 2 ^ w).toNat) := by
  unfold drainOf
  refine ⟨fun f h => ?_, fun w sg h => ?_⟩
  · rw [h]
    exact convF_floatsTo f (Fmt.fine_of_mem (dstOf_flt h)) rnd sat none v
  · rw [h]
    exact ⟨_, convI_intsTo w sg rnd v, rfl⟩

/-! ### Rows -/

section
variable (t : Tile) (code rnd : Nat) (sat : Bool) (fa : FV)

/-- One row of a source tile as the step reads it, and the tile after. -/
def Tile.rowOf (ks : List Nat) (i : Nat) : List (Option (FV × Bool)) × Tile :=
  ks.foldl (fun (r : List (Option (FV × Bool)) × Tile) kk =>
    let d := r.2.drain i kk code rnd sat
    (r.1 ++ [some ((elemVal code d.1).mul fa, d.2.1)], d.2.2)) ([], t)

/-- An element of a source tile as an operand. -/
def Tile.operand (i kk : Nat) : Option (FV × Bool) := some ((elemVal code (t.drained code rnd sat i kk).1).mul fa, (t.at' i kk).p)

theorem Tile.rowOf_spec (ks : List Nat) (i : Nat) : (t.rowOf code rnd sat fa ks i).1 = ks.map (t.operand code rnd sat fa i)
    ∧ t.Flagged (t.rowOf code rnd sat fa ks i).2 (fun e => ∃ kk ∈ ks, e = (t.drained code rnd sat i kk).2) := by
  obtain ⟨t', h1, h2⟩ := foldl_drain code rnd sat (fun kk => (i, kk)) (fun kk b p => [some ((elemVal code b).mul fa, p)]) ks t
  have hr : t.rowOf code rnd sat fa ks i = (ks.flatMap (fun kk => [t.operand code rnd sat fa i kk]), t') := h1
  rw [hr]
  exact ⟨List.flatMap_pure_eq_map _ _, h2⟩

/-- The rows of a source tile as the step reads them, and the tile after. -/
def Tile.rowsOf (ks : List Nat) (is : List Nat) : List (List (Option (FV × Bool))) × Tile :=
  is.foldl (fun (r : List (List (Option (FV × Bool))) × Tile) i =>
    (r.1 ++ [(r.2.rowOf code rnd sat fa ks i).1], (r.2.rowOf code rnd sat fa ks i).2)) ([], t)

theorem Tile.rowsOf_spec (ks is : List Nat) :
    (t.rowsOf code rnd sat fa ks is).1 = is.map (fun i => ks.map (t.operand code rnd sat fa i))
    ∧ t.Flagged (t.rowsOf code rnd sat fa ks is).2 (fun e => ∃ i ∈ is, ∃ kk ∈ ks, e = (t.drained code rnd sat i kk).2) := by
  induction is using List.reverseRecOn with
  | nil => exact ⟨rfl, by simpa [Tile.rowsOf] using Tile.Flagged.refl t⟩
  | append_singleton is i ih =>
    obtain ⟨h1, h2⟩ := ih
    obtain ⟨k1, k2⟩ := (t.rowsOf code rnd sat fa ks is).2.rowOf_spec code rnd sat fa ks i
    have hd := fun kk => h2.drained code rnd sat i kk
    have hs : t.rowsOf code rnd sat fa ks (is ++ [i]) = ((t.rowsOf code rnd sat fa ks is).1
        ++ [((t.rowsOf code rnd sat fa ks is).2.rowOf code rnd sat fa ks i).1], ((t.rowsOf code rnd sat fa ks is).2.rowOf code rnd sat fa ks i).2) := by
      simp only [Tile.rowsOf, List.foldl_append, List.foldl_cons, List.foldl_nil]
    have hop : (t.rowsOf code rnd sat fa ks is).2.operand code rnd sat fa i = t.operand code rnd sat fa i := by
      funext kk
      unfold Tile.operand
      rw [(hd kk).1, (hd kk).2]
    rw [hs]
    refine ⟨?_, h2.trans k2 (fun e => ?_)⟩
    · dsimp only
      rw [h1, k1, hop, List.map_append, List.map_cons, List.map_nil]
    · simp only [(hd _).2, List.mem_append, List.mem_singleton, or_and_right, exists_or, exists_eq_left]

end

/-! ### The contributions of a step -/

/-- The contributions of the products of rows and columns to a block. -/
def blockCs (br bc : Nat) (R C : Nat → List (Option (FV × Bool))) (p : XV × Bool → Bool) : List (Nat × XV × Bool) :=
  (List.range 16).flatMap (fun i => (List.range 16).map (fun j =>
    (64 * (16 * br + i) + 16 * bc + j, (contrib (R i) (C j)).1, p (contrib (R i) (C j)))))

theorem mem_blockCs (br bc : Nat) (R C : Nat → List (Option (FV × Bool))) (p : XV × Bool → Bool) (k : Nat) (v : XV × Bool) :
    (k, v) ∈ blockCs br bc R C p ↔ ∃ i < 16, ∃ j < 16, k = 64 * (16 * br + i) + 16 * bc + j
      ∧ v = ((contrib (R i) (C j)).1, p (contrib (R i) (C j))) := by
  unfold blockCs
  simp only [List.mem_flatMap, List.mem_map, List.mem_range, Prod.mk.injEq]
  constructor
  · rintro ⟨i, hi, j, hj, rfl, rfl⟩
    exact ⟨i, hi, j, hj, rfl, rfl⟩
  · rintro ⟨i, hi, j, hj, rfl, rfl⟩
    exact ⟨i, hi, j, hj, rfl, rfl⟩

/-- The numbers of a block's elements differ. -/
theorem blockCs_nodup (br bc : Nat) (_ : bc < 4) (R C : Nat → List (Option (FV × Bool))) (p : XV × Bool → Bool) :
    ((blockCs br bc R C p).map Prod.fst).Nodup := by
  have hm : (blockCs br bc R C p).map Prod.fst = (List.range 16).flatMap (fun i => (List.range 16).map (fun j =>
      64 * (16 * br + i) + 16 * bc + j)) := by
    simp only [blockCs, List.map_flatMap, List.map_map]
    rfl
  rw [hm, List.nodup_flatMap]
  refine ⟨fun i _ => List.nodup_range.map (fun a b h => by omega), ?_⟩
  refine List.nodup_range.pairwise_of_forall_ne (fun i hi j hj hne => ?_)
  intro x h1 h2
  simp only [List.mem_map, List.mem_range] at h1 h2 hi hj
  obtain ⟨a, ha, rfl⟩ := h1
  obtain ⟨b, hb, he⟩ := h2
  omega

/-- What a list of contributions holds of an element. -/
def conOf (cs : List (Nat × XV × Bool)) (k : Nat) : Option (XV × Bool) := (cs.find? (fun c => c.1 == k)).map (fun c => c.2)

theorem conOf_iff (cs : List (Nat × XV × Bool)) (hn : (cs.map Prod.fst).Nodup) (k : Nat) (v : XV × Bool) :
    conOf cs k = some v ↔ (k, v) ∈ cs := by
  unfold conOf
  rw [Option.map_eq_some_iff]
  constructor
  · rintro ⟨c, hc, rfl⟩
    have hk := List.find?_some hc
    rw [beq_iff_eq] at hk
    rw [← hk]
    exact List.mem_of_find?_eq_some hc
  · intro h
    cases hf : cs.find? (fun c => c.1 == k) with
    | none => exact absurd (List.find?_eq_none.mp hf (k, v) h) (by simp)
    | some c =>
      refine ⟨c, rfl, ?_⟩
      have hk := List.find?_some hf
      rw [beq_iff_eq] at hk
      have := List.inj_on_of_nodup_map hn (List.mem_of_find?_eq_some hf) h hk
      rw [this]

theorem zipIdx_map_range {α : Type} (n : Nat) (f : Nat → α) : ((List.range n).map f).zipIdx = (List.range n).map (fun i => (f i, i)) := by
  refine List.ext_getElem (by simp) (fun i h1 h2 => ?_)
  simp

end Sys2Proof.Machine
end

section
/-! ## One step of an mtile (R57, R254, R255) -/
namespace Sys2Proof.Machine

theorem foldl_snoc {α β γ : Type} (f : α → β) (l : List α) (c : γ) :
    l.foldl (fun (r : List β × γ) i => (r.1 ++ [f i], r.2)) ([], c) = (l.map f, c) := by
  induction l using List.reverseRecOn with
  | nil => rfl
  | append_singleton l a ih => rw [List.foldl_append, ih, List.foldl_cons, List.foldl_nil, List.map_append, List.map_cons, List.map_nil]

/-- The numbers along K of a step. -/
def chunkKs (ch q : Nat) : List Nat := (List.range ch).map (fun x => q * ch + x)

/-- The contributions of rows and columns to a block. -/
def blockList (br bc : Nat) (rows cols : List (List (Option (FV × Bool)))) (q q' : Bool) : List (Nat × XV × Bool) :=
  rows.zipIdx.flatMap (fun r => cols.zipIdx.map (fun col =>
    let x := contrib r.1 col.1
    (64 * (16 * br + r.2) + 16 * bc + col.2, x.1, x.2 || q || q')))

theorem blockList_eq (br bc : Nat) (R C : Nat → List (Option (FV × Bool))) (q q' : Bool) :
    blockList br bc ((List.range 16).map R) ((List.range 16).map C) q q' = blockCs br bc R C (fun x => x.2 || q || q') := by
  unfold blockList blockCs
  rw [zipIdx_map_range, zipIdx_map_range, List.flatMap_map]
  simp only [List.map_map]
  rfl

section
variable (s : State) (g w : Nat)

/-- A line of an operand in scratch as a step reads it. -/
def State.lineOf (h : Shape) (code mode : Nat) (x : FV) (tr : Bool) (ks : List Nat) (line : Nat) : List (Option (FV × Bool)) :=
  ks.map (fun kk => s.operand g (s.wrp g w).quad h code mode x tr kk line)

/-- The rows of a step, and the source tile after. -/
def State.stepRows (asrc : Bool) (src : Nat) (sa : Shape) (fw : Nat) (fa : FV) (ks : List Nat) (br : Nat) :
    List (List (Option (FV × Bool))) × Tile :=
  (List.range 16).foldl (fun (r : List (List (Option (FV × Bool))) × Tile) i =>
    if asrc then let o := r.2.rowOf (fwA fw true) (fwRnd fw) (fwSat fw) fa ks (16 * br + i); (r.1 ++ [o.1], o.2)
    else (r.1 ++ [s.lineOf g w sa (fwA fw false) (fwAs fw) fa true ks (16 * br + i)], r.2)) ([], (s.wrp g w).tile src)

theorem State.stepRows_scratch (src : Nat) (sa : Shape) (fw : Nat) (fa : FV) (ks : List Nat) (br : Nat) :
    s.stepRows g w false src sa fw fa ks br
      = ((List.range 16).map (fun i => s.lineOf g w sa (fwA fw false) (fwAs fw) fa true ks (16 * br + i)), (s.wrp g w).tile src) := by
  unfold State.stepRows
  simp only [Bool.false_eq_true, if_false]
  exact foldl_snoc _ _ _

theorem State.stepRows_tile (src : Nat) (sa : Shape) (fw : Nat) (fa : FV) (ks : List Nat) (br : Nat) :
    (s.stepRows g w true src sa fw fa ks br).1
      = (List.range 16).map (fun i => ks.map (((s.wrp g w).tile src).operand (fwA fw true) (fwRnd fw) (fwSat fw) fa (16 * br + i)))
    ∧ ((s.wrp g w).tile src).Flagged (s.stepRows g w true src sa fw fa ks br).2 (fun e => ∃ i < 16, ∃ kk ∈ ks,
        e = (((s.wrp g w).tile src).drained (fwA fw true) (fwRnd fw) (fwSat fw) (16 * br + i) kk).2) := by
  have hr : s.stepRows g w true src sa fw fa ks br = ((s.wrp g w).tile src).rowsOf (fwA fw true) (fwRnd fw) (fwSat fw) fa ks
      ((List.range 16).map (fun i => 16 * br + i)) := by
    unfold State.stepRows Tile.rowsOf
    rw [List.foldl_map]
    simp only [if_true]
  obtain ⟨h1, h2⟩ := ((s.wrp g w).tile src).rowsOf_spec (fwA fw true) (fwRnd fw) (fwSat fw) fa ks ((List.range 16).map (fun i => 16 * br + i))
  rw [hr]
  refine ⟨by rw [h1, List.map_map]; rfl, ?_⟩
  simpa only [List.mem_map, List.mem_range, exists_exists_and_eq_and] using h2

/-- A step by its rows and columns. -/
theorem State.tileStep_eq (dst : Nat) (asrc : Bool) (src rows : Nat) (tb : Bool) (sa sb : Shape) (fmt : Word) (ta tb' : Val) (k : Nat) :
    let M := if asrc then rows else sa.box 1
    let N := if tb then sb.box 1 else sb.box 0
    let per := M / 16 * (N / 16)
    let ks := chunkKs (chunkOf fmt.toNat asrc) (k / per)
    let br := k % per / (N / 16)
    let bc := k % per % (N / 16)
    let r := s.stepRows g w asrc src sa fmt.toNat (fp32.decode ta.v.toNat) ks br
    s.tileStep g w (.tile dst asrc src rows tb sa sb fmt ta tb') k
      = (blockList br bc r.1 ((List.range 16).map (fun j => s.lineOf g w sb (fwB fmt.toNat) (fwBs fmt.toNat)
          (fp32.decode tb'.v.toNat) tb ks (16 * bc + j))) ta.p tb'.p, if asrc then some (src, r.2) else none) := rfl

end

end Sys2Proof.Machine
end

section
/-! ## An mtile's step on the state (R254) -/
namespace Sys2Proof.Machine

theorem mWidth_eq (c : Nat) : mWidth c = if c ≤ 1 then 16 else if c = 2 ∨ c = 3 ∨ c = 5 then 8 else 4 := by
  rcases c with _ | _ | _ | _ | _ | _ | c
  iterate 6 rfl
  rw [if_neg (by omega), if_neg (by omega)]
  rfl

theorem fwA_eq (fw : Nat) (asrc : Bool) : fwA fw asrc = if asrc then fw / 2 ^ 12 % 16 else fw % 16 := by
  cases asrc
  · show fw / 2 ^ 0 % 2 ^ 4 = fw % 2 ^ 4
    rw [pow_zero, Nat.div_one]
  · rfl

theorem fwSat_eq (fmt : Word) : fwSat fmt.toNat = fmt.getLsbD 18 := bitsOf_bit _ 18

/-- The steps of a side of 16 to 64 are four at most. -/
theorem side_blocks {N : Nat} (h : N ∈ [16, 32, 48, 64]) (x : Nat) : x % (N / 16) < 4 := by
  simp only [List.mem_cons, List.not_mem_nil, or_false] at h
  have := Nat.mod_lt x (show 0 < N / 16 by omega)
  omega

/-- The numbers along K, mapped. -/
theorem chunkKs_map {α : Type} (ch q : Nat) (f : Nat → α) : (chunkKs ch q).map f = (List.range ch).map (fun m => f (q * ch + m)) := by
  rw [chunkKs, List.map_map]
  rfl

theorem mem_chunkKs (ch q : Nat) (p : Nat → Prop) : (∃ kk ∈ chunkKs ch q, p kk) ↔ ∃ m < ch, p (q * ch + m) := by
  simp only [chunkKs, List.mem_map, List.mem_range, exists_exists_and_eq_and]

/-- What the contributions of a block hold. -/
theorem conOf_block (br bc : Nat) (hbc : bc < 4) (R C : Nat → List (Option (FV × Bool))) (p : XV × Bool → Bool) :
    (∀ k, (conOf (blockCs br bc R C p) k).isSome = true ↔ ∃ i < 16, ∃ j < 16, k = 64 * (16 * br + i) + (16 * bc + j))
    ∧ ∀ i < 16, ∀ j < 16, conOf (blockCs br bc R C p) (64 * (16 * br + i) + (16 * bc + j))
        = some ((contrib (R i) (C j)).1, p (contrib (R i) (C j))) := by
  have hiff := conOf_iff _ (blockCs_nodup br bc hbc R C p)
  refine ⟨fun k => ?_, fun i hi j hj => (hiff _ _).mpr ((mem_blockCs br bc R C p _ _).mpr ⟨i, hi, j, hj, by omega, rfl⟩)⟩
  rw [Option.isSome_iff_exists]
  simp only [hiff, mem_blockCs]
  constructor
  · rintro ⟨v, i, hi, j, hj, rfl, -⟩
    exact ⟨i, hi, j, hj, by omega⟩
  · rintro ⟨i, hi, j, hj, rfl⟩
    exact ⟨_, i, hi, j, hj, by omega, rfl⟩

/-- One step of an mtile on its tiles. -/
theorem chaser_tile (s : State) (d c q g w : Nat) (o : MOp) (dst : Nat) (asrc : Bool) (src rows : Nat) (tb : Bool) (sa sb : Shape)
    (fmt : Word) (ta tb' : Val) (hc : s.chaserPick d c q = some (g, w, o)) (ho : o.cmd = .tile dst asrc src rows tb sa sb fmt ta tb')
    (ht : FMap.wf Tile.zero (s.wrp g w).tiles = true) (hne : asrc = true → dst ≠ src) (cs : List (Nat × XV × Bool)) (z : Tile)
    (hr : s.tileStep g w o.cmd o.step = (cs, if asrc then some (src, z) else none)) :
    ∃ t, exec (.chaserStep d c q) s = .next t ∧ (t.wrp g w).tile dst = ((s.wrp g w).tile dst).step cs
      ∧ (asrc = true → (t.wrp g w).tile src = z) := by
  obtain ⟨hg, hw⟩ := s.chaserPick_exists d c q g w o hc
  obtain ⟨t, hx, hs⟩ := s.chaserStep_step d c q g w o hc
  let ws := ((if asrc then [] else sa.words) ++ sb.words).eraseDups
  obtain ⟨-, h2, h3⟩ := s.seenReading_keeps g o.step o.sup ws
  have hm : s.mopStep g w o = (s.seenReading g o.step o.sup ws).modW g w (fun y =>
      (match (s.tileStep g w o.cmd o.step).2 with
        | some (n, t) => y.setTile n t
        | none => y).setTile dst (((match (s.tileStep g w o.cmd o.step).2 with
        | some (n, t) => y.setTile n t
        | none => y).tile dst).step (s.tileStep g w o.cmd o.step).1)) := by
    unfold State.mopStep
    rw [ho]
    rfl
  have hy : (s.mopStep g w o).wrp g w = ((if asrc then (s.wrp g w).setTile src z else s.wrp g w).setTile dst
      (((if asrc then (s.wrp g w).setTile src z else s.wrp g w).tile dst).step cs)) := by
    rw [hm, s.wrp_modW_after _ g w _ h2 h3 hg hw, hr]
    cases asrc <;> rfl
  refine ⟨t, hx, (hs.tile w dst).trans ?_, fun h => (hs.tile w src).trans ?_⟩
  · show ((s.mopStep g w o).wrp g w).tile dst = _
    rw [hy]
    cases asrc with
    | false => exact Warp.tile_setTile_same _ _ _ ht
    | true =>
      simp only [if_true]
      rw [Warp.tile_setTile_same _ _ _ (Warp.setTile_wf _ _ _ ht), Warp.tile_setTile_other _ _ _ _ ht (hne rfl)]
  · show ((s.mopStep g w o).wrp g w).tile src = _
    rw [hy]
    subst h
    simp only [if_true]
    rw [Warp.tile_setTile_other _ _ _ _ (Warp.setTile_wf _ _ _ ht) (Ne.symm (hne rfl)), Warp.tile_setTile_same _ _ _ ht]

/-- The factors of an element of a source tile (R255). -/
theorem Tile.operand_factors (t : Tile) (code rnd : Nat) (sat : Bool) (fa : FV) (i kk : Nat) :
    Factors (some ([elemVal code (t.drained code rnd sat i kk).1, fa], (t.at' i kk).p)) (t.operand code rnd sat fa i kk) :=
  .inr ⟨_, _, _, rfl, rfl, Term.gives_two _ _⟩

/-- What a block holds of each of its elements, by the factors of its operands. -/
theorem conOf_factors (br bc : Nat) (hbc : bc < 4) (ch q : Nat) (rows cols : Nat → List (Option (FV × Bool)))
    (R C : Nat → Nat → Option (FV × Bool)) (hR : ∀ i, rows i = (chunkKs ch q).map (R i)) (hC : ∀ j, cols j = (chunkKs ch q).map (C j))
    (pa pb : Bool) (A B : Nat → Nat → Option (List FV × Bool)) (hA : ∀ i m, Factors (A i m) (R i (q * ch + m)))
    (hB : ∀ j m, Factors (B j m) (C j (q * ch + m))) (i j : Nat) (hi : i < 16) (hj : j < 16) :
    ∃ v p, conOf (blockCs br bc rows cols (fun x => x.2 || pa || pb)) (64 * (16 * br + i) + (16 * bc + j)) = some (v, p)
      ∧ v.isSum ((termsOf (List.range ch) (A i) (B j)).map (fun x => x.1))
      ∧ p = (pa || pb || (termsOf (List.range ch) (A i) (B j)).any (fun x => x.2)) := by
  obtain ⟨h1, h2⟩ := contrib_isSum (List.range ch) (A i) (B j) (fun m => R i (q * ch + m)) (fun m => C j (q * ch + m)) (hA i) (hB j)
  refine ⟨_, _, (conOf_block br bc hbc _ _ _).2 i hi j hj, ?_, ?_⟩
  · rw [hR, hC, chunkKs_map, chunkKs_map]
    exact h1
  · rw [hR, hC, chunkKs_map, chunkKs_map, h2]
    cases pa <;> cases pb <;> simp

section
variable (s : State) (g w dst src rows : Nat) (tb : Bool) (sa sb : Shape) (fmt : Word) (ta tb' : Val) (k M N br bc : Nat) (ks : List Nat)
  (hN : N = if tb then sb.box 1 else sb.box 0) (hbr : br = k % (M / 16 * (N / 16)) / (N / 16)) (hbc : bc = k % (M / 16 * (N / 16)) % (N / 16))
include hN hbr hbc

/-- A step with rows from scratch: its block. -/
theorem State.tileStep_scratch (hM : M = sa.box 1) (hks : ks = chunkKs (chunkOf fmt.toNat false) (k / (M / 16 * (N / 16)))) :
    s.tileStep g w (.tile dst false src rows tb sa sb fmt ta tb') k = (blockCs br bc
      (fun i => s.lineOf g w sa (fwA fmt.toNat false) (fwAs fmt.toNat) (fp32.decode ta.v.toNat) true ks (16 * br + i))
      (fun j => s.lineOf g w sb (fwB fmt.toNat) (fwBs fmt.toNat) (fp32.decode tb'.v.toNat) tb ks (16 * bc + j))
      (fun x => x.2 || ta.p || tb'.p), none) := by
  have h := s.tileStep_eq g w dst false src rows tb sa sb fmt ta tb' k
  simp only [Bool.false_eq_true, if_false] at h
  rw [← hN, ← hM, ← hks, ← hbr, ← hbc, s.stepRows_scratch, blockList_eq] at h
  exact h

/-- A step with rows from a tile: its block, and that tile after. -/
theorem State.tileStep_tile (hM : M = rows) (hks : ks = chunkKs (chunkOf fmt.toNat true) (k / (M / 16 * (N / 16)))) :
    ∃ z, s.tileStep g w (.tile dst true src rows tb sa sb fmt ta tb') k = (blockCs br bc
      (fun i => ks.map (((s.wrp g w).tile src).operand (fwA fmt.toNat true) (fwRnd fmt.toNat) (fwSat fmt.toNat) (fp32.decode ta.v.toNat) (16 * br + i)))
      (fun j => s.lineOf g w sb (fwB fmt.toNat) (fwBs fmt.toNat) (fp32.decode tb'.v.toNat) tb ks (16 * bc + j))
      (fun x => x.2 || ta.p || tb'.p), some (src, z))
    ∧ ((s.wrp g w).tile src).Flagged z (fun e => ∃ i < 16, ∃ kk ∈ ks,
        e = (((s.wrp g w).tile src).drained (fwA fmt.toNat true) (fwRnd fmt.toNat) (fwSat fmt.toNat) (16 * br + i) kk).2) := by
  obtain ⟨h1, h2⟩ := s.stepRows_tile g w src sa fmt.toNat (fp32.decode ta.v.toNat) ks br
  subst hM
  have h := s.tileStep_eq g w dst true src M tb sa sb fmt ta tb' k
  simp only [if_true] at h
  rw [← hN, ← hks, ← hbr, ← hbc, h1, blockList_eq] at h
  exact ⟨_, h, h2⟩

end

end Sys2Proof.Machine
end

section
/-! ## The half bytes that a command writes (R235, R261) -/
namespace Sys2Proof.Machine

/-- The exceptions of the rows of a chunk, by row and number in the chunk. -/
theorem flags_of_rows (ch q : Nat) (P : Exc → Prop) (f : Nat → Nat → Nat × Exc) (F : Nat → Nat → Exc)
    (hF : ∀ i m, (f i m).2 = F i (q * ch + m)) :
    (∃ e, (∃ i < 16, ∃ kk ∈ chunkKs ch q, e = F i kk) ∧ P e) ↔ ∃ i < 16, ∃ m < ch, P (f i m).2 := by
  constructor
  · rintro ⟨_, ⟨i, hi, hk⟩, hp⟩
    obtain ⟨m, hm, rfl⟩ := (mem_chunkKs ch q _).mp hk
    exact ⟨i, hi, m, hm, (hF i m).symm ▸ hp⟩
  · rintro ⟨i, hi, m, hm, hp⟩
    exact ⟨_, ⟨i, hi, (mem_chunkKs ch q _).mpr ⟨m, hm, rfl⟩⟩, hF i m ▸ hp⟩

/-! ### Maps written from a list, no value the default -/

section
variable {α : Type} [DecidableEq α] (d : α)

theorem FMap.mem_keys_set (m : FMap α) (k j : Nat) (v : α) (hv : v ≠ d) :
    j ∈ (FMap.set d m k v).map Prod.fst ↔ j = k ∨ j ∈ m.map Prod.fst := by
  induction m with
  | nil => simp [FMap.set, hv]
  | cons e m ih =>
    obtain ⟨k', v'⟩ := e
    by_cases hk : k = k'
    · subst hk
      simp [FMap.set, hv]
    · by_cases hl : k < k'
      · simp [FMap.set, hk, hl, hv]
      · rw [FMap.set, if_neg hk, if_neg hl, List.map_cons, List.map_cons, List.mem_cons, List.mem_cons, ih]
        exact or_left_comm

/-- The entries of a list written into the empty map, in order. -/
def FMap.ofList (l : List (Nat × α)) : FMap α := l.foldl (fun m e => FMap.set d m e.1 e.2) []

variable (l : List (Nat × α)) (hd : ∀ e ∈ l, e.2 ≠ d)
include hd

theorem FMap.mem_keys_ofList (k : Nat) : k ∈ (FMap.ofList d l).map Prod.fst ↔ ∃ e ∈ l, e.1 = k := by
  induction l using List.reverseRecOn with
  | nil => simp [FMap.ofList]
  | append_singleton l e ih =>
    have hs : FMap.ofList d (l ++ [e]) = FMap.set d (FMap.ofList d l) e.1 e.2 := List.foldl_concat ..
    rw [hs, FMap.mem_keys_set d _ _ _ _ (hd e (by simp)), ih (fun x hx => hd x (by simp [hx]))]
    simp only [List.mem_append, List.mem_singleton, or_and_right, exists_or, exists_eq_left]
    rw [or_comm, eq_comm (a := k)]

/-- A key whose entries agree reads as they say. -/
theorem FMap.get_ofList (k : Nat) (v : α) (hm : (k, v) ∈ l) (hu : ∀ x, (k, x) ∈ l → x = v) : FMap.get d (FMap.ofList d l) k = v := by
  induction l using List.reverseRecOn with
  | nil => cases hm
  | append_singleton l e ih =>
    have hs : FMap.ofList d (l ++ [e]) = FMap.set d (FMap.ofList d l) e.1 e.2 := List.foldl_concat ..
    have he := hd e (by simp)
    rw [hs]
    by_cases hk : k = e.1
    · rw [hk, FMap.get_set_self d _ _ _ he]
      exact hu e.2 (by simp [hk])
    · rw [FMap.get_set_ne d _ _ _ _ he hk]
      refine ih (fun x hx => hd x (by simp [hx])) ?_ (fun x hx => hu x (by simp [hx]))
      rcases List.mem_append.mp hm with h | h
      · exact h
      · exact absurd (congrArg Prod.fst (List.mem_singleton.mp h)) hk
end

/-! ### The half bytes of an element -/

section
variable (h : Shape)

/-- The first half byte of an element. -/
def Shape.cell (i : Ix) : Nat := 2 * (h.addr i).1 + (if h.width = 4 then (h.addr i).2 else 0)

/-- The half bytes that an element takes. -/
def Shape.cells : Nat := if h.width = 4 then 1 else 2 * h.nbytes

/-- The half bytes of an element with a value. -/
def Shape.halves (x : Ix × Nat × Bool) : List (Nat × Option (Nat × Bool)) :=
  (List.range h.cells).map (fun k => (h.cell x.1 + k, some (laneOf x.2.1 4 k, x.2.2)))

theorem nibbles_eq (vals : List (Ix × Nat × Bool)) : nibbles h vals = FMap.ofList none (vals.flatMap h.halves) := by
  have hstep : ∀ (m : FMap (Option (Nat × Bool))) (x : Ix × Nat × Bool),
      (if h.width = 4 then FMap.set none m (2 * (h.addr x.1).1 + (h.addr x.1).2) (some (x.2.1 % 16, x.2.2))
        else (List.range (2 * h.nbytes)).foldl (fun m k => FMap.set none m (2 * (h.addr x.1).1 + k) (some (laneOf x.2.1 4 k, x.2.2))) m)
      = (h.halves x).foldl (fun m e => FMap.set none m e.1 e.2) m := by
    intro m x
    unfold Shape.halves Shape.cells Shape.cell
    generalize h.addr x.1 = a
    rw [List.foldl_map]
    by_cases hw : h.width = 4
    · rw [if_pos hw, if_pos hw, if_pos hw, List.range_one, List.foldl_cons, List.foldl_nil, laneOf_four, pow_zero, Nat.div_one]
      rfl
    · rw [if_neg hw, if_neg hw, if_neg hw, Nat.add_zero]
  unfold nibbles FMap.ofList
  rw [List.foldl_flatMap]
  exact congrArg (fun f => vals.foldl f []) (funext fun m => funext fun x => hstep m x)

theorem Shape.halves_ne (vals : List (Ix × Nat × Bool)) : ∀ e ∈ vals.flatMap h.halves, e.2 ≠ none := by
  intro e he
  obtain ⟨x, -, hx⟩ := List.mem_flatMap.mp he
  obtain ⟨k, -, rfl⟩ := List.mem_map.mp hx
  exact Option.some_ne_none _

/-- The half bytes written. -/
theorem mem_keys_nibbles (vals : List (Ix × Nat × Bool)) (n : Nat) :
    n ∈ (nibbles h vals).map Prod.fst ↔ ∃ x ∈ vals, h.cell x.1 ≤ n ∧ n < h.cell x.1 + h.cells := by
  rw [nibbles_eq, FMap.mem_keys_ofList none _ (h.halves_ne vals)]
  constructor
  · rintro ⟨e, he, rfl⟩
    obtain ⟨x, hx, hm⟩ := List.mem_flatMap.mp he
    obtain ⟨k, hk, rfl⟩ := List.mem_map.mp hm
    have := List.mem_range.mp hk
    exact ⟨x, hx, by dsimp only; omega, by dsimp only; omega⟩
  · rintro ⟨x, hx, h1, h2⟩
    refine ⟨_, List.mem_flatMap.mpr ⟨x, hx, List.mem_map.mpr ⟨n - h.cell x.1, List.mem_range.mpr (by omega), rfl⟩⟩, ?_⟩
    dsimp only
    omega

/-- A half byte of an element that no other overlaps holds its part of the value. -/
theorem get_nibbles (vals : List (Ix × Nat × Bool)) (x : Ix × Nat × Bool) (hx : x ∈ vals)
    (hu : ∀ y ∈ vals, y = x ∨ h.cell x.1 + h.cells ≤ h.cell y.1 ∨ h.cell y.1 + h.cells ≤ h.cell x.1) (k : Nat) (hk : k < h.cells) :
    FMap.get none (nibbles h vals) (h.cell x.1 + k) = some (laneOf x.2.1 4 k, x.2.2) := by
  rw [nibbles_eq]
  refine FMap.get_ofList none _ (h.halves_ne vals) _ _ (List.mem_flatMap.mpr ⟨x, hx, List.mem_map.mpr ⟨k, List.mem_range.mpr hk, rfl⟩⟩) ?_
  intro v hv
  obtain ⟨y, hy, hm⟩ := List.mem_flatMap.mp hv
  obtain ⟨m, hr, he⟩ := List.mem_map.mp hm
  obtain ⟨he, rfl⟩ := Prod.mk.inj he
  have hr := List.mem_range.mp hr
  rcases hu y hy with rfl | ho
  · rw [show m = k by omega]
  · omega
end

/-! ### Bytes under a mask -/

theorem maskByte_getLsbD (old b m : Byte) (i : Nat) :
    (maskByte old b m).getLsbD i = if m.getLsbD i then b.getLsbD i else old.getLsbD i := by
  unfold maskByte
  by_cases hi : i < 8
  · rw [BitVec.getLsbD_or, BitVec.getLsbD_and, BitVec.getLsbD_and, BitVec.getLsbD_not, decide_eq_true hi]
    cases m.getLsbD i <;> simp
  · simp [BitVec.getLsbD_of_ge _ _ (Nat.le_of_not_lt hi)]

/-- A masked write made twice is one. -/
theorem maskByte_twice (old b m : Byte) : maskByte (maskByte old b m) b m = maskByte old b m := by
  refine BitVec.eq_of_getLsbD_eq (fun i _ => ?_)
  simp only [maskByte_getLsbD]
  cases m.getLsbD i <;> rfl

theorem laneOf_byte (t : Byte) (k : Nat) : laneOf t.toNat 4 k = (t.extractLsb' (4 * k) 4).toNat := by
  rw [BitVec.extractLsb'_toNat, Nat.shiftRight_eq_div_pow]
  rfl

/-- A byte is its halves. -/
theorem byte_halves (t : Byte) : t.toNat = laneOf t.toNat 4 0 + 16 * laneOf t.toNat 4 1 := by
  have := t.isLt
  simp only [laneOf_four]
  omega

/-- A half under the mask is the written one. -/
theorem maskByte_half (old b m : Byte) (k : Nat) (hm : ∀ i < 4, m.getLsbD (4 * k + i) = true) :
    laneOf (maskByte old b m).toNat 4 k = laneOf b.toNat 4 k := by
  rw [laneOf_byte, laneOf_byte]
  refine congrArg BitVec.toNat (BitVec.eq_of_getLsbD_eq (fun i hi => ?_))
  rw [BitVec.getLsbD_extractLsb', BitVec.getLsbD_extractLsb', maskByte_getLsbD, hm i hi]
  rfl

/-! ### The bytes written -/

section
variable (m : FMap (Option (Nat × Bool))) (a : Nat)

/-- The value of a byte's half as the writes give it. -/
def halfVal (k : Nat) : Nat := ((FMap.get none m (2 * a + k)).map (fun x => x.1)).getD 0
/-- The mask of a byte's half. -/
def halfMask (k : Nat) : Nat := if (FMap.get none m (2 * a + k)).isSome then 15 else 0
/-- The byte that the writes give. -/
def byteVal : Byte := BitVec.ofNat 8 (halfVal m a 0 + 16 * halfVal m a 1)
/-- Its mask. -/
def byteMask : Byte := BitVec.ofNat 8 (halfMask m a 0 + 16 * halfMask m a 1)

/-- A written half is under the mask. -/
theorem byteMask_half (k : Nat) (hk : k < 2) (h : (FMap.get none m (2 * a + k)).isSome = true) (i : Nat) (hi : i < 4) :
    (byteMask m a).getLsbD (4 * k + i) = true := by
  have key : ∀ x y : Bool, (if k = 0 then x else y) = true →
      (BitVec.ofNat 8 ((if x then 15 else 0) + 16 * (if y then 15 else 0))).getLsbD (4 * k + i) = true := by
    have hk : k = 0 ∨ k = 1 := by omega
    rcases hk with rfl | rfl <;> revert i <;> decide
  refine key _ _ ?_
  have hk : k = 0 ∨ k = 1 := by omega
  rcases hk with rfl | rfl
  · exact h
  · exact h

theorem byteVal_half (hm : ∀ n x, FMap.get none m n = some x → x.1 < 16) (k : Nat) (hk : k < 2) (v : Nat) (p : Bool)
    (h : FMap.get none m (2 * a + k) = some (v, p)) : laneOf (byteVal m a).toNat 4 k = v := by
  have hlt : ∀ k, halfVal m a k < 16 := fun k => by
    unfold halfVal
    cases hg : FMap.get none m (2 * a + k) with
    | none => exact Nat.zero_lt_succ _
    | some x => exact hm _ x hg
  have hv : halfVal m a k = v := by
    rw [halfVal, h]
    rfl
  have h0 := hlt 0
  have h1 := hlt 1
  rw [byteVal, BitVec.toNat_ofNat, Nat.mod_eq_of_lt (by omega), laneOf_four]
  have hk : k = 0 ∨ k = 1 := by omega
  rcases hk with rfl | rfl <;> omega
end

/-- Where a half of the unit is poisoned, every write of the unit sets the poison. -/
theorem unitPsn_set (m : FMap (Option (Nat × Bool))) (a n v : Nat) (h : FMap.get none m n = some (v, true)) (ha : n / 2 / 4 = a / 4) :
    unitPsn m 4 a = .set := by
  unfold unitPsn
  refine if_pos (List.any_eq_true.mpr ⟨some (v, true), List.mem_map.mpr ⟨n - 2 * (a / 4 * 4), List.mem_range.mpr (by omega), ?_⟩, rfl⟩)
  rw [show 2 * (a / 4 * 4) + (n - 2 * (a / 4 * 4)) = n by omega]
  exact h

end Sys2Proof.Machine
end

section
/-! ## An mcvt's step (R59, R261) -/
namespace Sys2Proof.Machine

/-! ### Half bytes written into scratch -/

section
variable (m : FMap (Option (Nat × Bool)))

/-- The bytes at some addresses written as a map of half bytes says. -/
def Group.putHalves (x : Group) (as : List Nat) : Group :=
  as.foldl (fun x a => x.putScr a (byteVal m a) (byteMask m a) (unitPsn m 4 a)) x

theorem Group.putScr_store (x : Group) (a : Nat) (b k : Byte) (p : Psn) :
    (x.putScr a b k p).scr = FMap.set 0 x.scr a (maskByte (FMap.get 0 x.scr a) b k)
      ∧ (x.putScr a b k p).scrP = psnPut x.scrP (a / 4) p ∧ (x.putScr a b k p).warps = x.warps := by
  obtain ⟨h1, h2, -⟩ := Group.clearTags_sameStore
    { x with scr := FMap.set 0 x.scr a (maskByte (FMap.get 0 x.scr a) b k), scrP := psnPut x.scrP (a / 4) p } a 1
  exact ⟨h1, h2, Group.clearTags_warps _ _ _⟩

theorem Group.putHalves_snoc (x : Group) (as : List Nat) (a : Nat) :
    x.putHalves m (as ++ [a]) = (x.putHalves m as).putScr a (byteVal m a) (byteMask m a) (unitPsn m 4 a) := List.foldl_concat ..

theorem Group.putHalves_warps (x : Group) (as : List Nat) : (x.putHalves m as).warps = x.warps :=
  foldl_rel (fun x y : Group => y.warps = x.warps) (fun _ => rfl) (fun h k => k.trans h) _
    (fun x a => (x.putScr_store a (byteVal m a) (byteMask m a) (unitPsn m 4 a)).2.2) as x

/-- What bytes of scratch hold after. -/
theorem Group.putHalves_spec (x : Group) (as : List Nat) (hx : FMap.wf 0 x.scr = true) :
    FMap.wf 0 (x.putHalves m as).scr = true
      ∧ ∀ a, FMap.get 0 (x.putHalves m as).scr a
        = if a ∈ as then maskByte (FMap.get 0 x.scr a) (byteVal m a) (byteMask m a) else FMap.get 0 x.scr a := by
  induction as using List.reverseRecOn with
  | nil => exact ⟨hx, fun a => (if_neg List.not_mem_nil).symm⟩
  | append_singleton as b ih =>
    obtain ⟨h1, h3⟩ := ih
    rw [putHalves_snoc, (Group.putScr_store _ _ _ _ _).1]
    refine ⟨FMap.set_wf _ _ _ _ h1, fun a => ?_⟩
    by_cases hab : a = b
    · subst hab
      rw [FMap.get_set_same _ 0 _ _ _ h1, h3, if_pos (List.mem_append_right _ (List.mem_singleton_self _))]
      split
      · exact maskByte_twice _ _ _
      · rfl
    · rw [FMap.get_set_other _ 0 _ _ _ _ hab h1, h3]
      simp only [List.mem_append, List.mem_singleton, hab, or_false]

/-- A word that every write poisons is poisoned. -/
theorem Group.putHalves_psn (x : Group) (as : List Nat) (k : Nat) (hs : ∀ a ∈ as, a / 4 = k → unitPsn m 4 a = .set)
    (hk : NSet.has x.scrP k = true ∨ ∃ a ∈ as, a / 4 = k) : NSet.has (x.putHalves m as).scrP k = true := by
  induction as using List.reverseRecOn with
  | nil =>
    rcases hk with hk | ⟨a, ha, -⟩
    · exact hk
    · cases ha
  | append_singleton as b ih =>
    have hl : b ∈ as ++ [b] := List.mem_append_right _ (List.mem_singleton_self _)
    rw [putHalves_snoc, (Group.putScr_store _ _ _ _ _).2.1]
    by_cases hb : b / 4 = k
    · rw [hs b hl hb, psnPut, NSet.has_add, hb]
      simp
    · have hi := ih (fun a ha => hs a (List.mem_append_left _ ha)) (hk.imp_right (fun ⟨a, ha, h⟩ => by
        rcases List.mem_append.mp ha with ha | ha
        · exact ⟨a, ha, h⟩
        · exact absurd (List.mem_singleton.mp ha ▸ h) hb))
      cases unitPsn m 4 b with
      | keep => exact hi
      | set =>
        rw [psnPut, NSet.has_add, hi]
        exact Bool.or_true _
      | clear =>
        rw [psnPut, NSet.has_del, hi]
        exact decide_eq_true (Ne.symm hb)
end

/-- The bytes of scratch that a command writes, some addresses alone. -/
theorem foldl_byteWrites (h : Shape) (hs : h.space = 0) (vals : List (Ix × Nat × Bool)) (as : List Nat) (x : Group) :
    ((byteWrites h vals).filter (fun b => as.contains b.addr)).foldl (fun x b =>
      match b with
      | .byte _ a v m p => x.putScr a v m p
      | .red .. => x) x
    = x.putHalves (nibbles h vals)
        ((((nibbles h vals).map (fun x => x.1 / 2)).eraseDups).filter (fun a => as.contains a)) := by
  unfold byteWrites Group.putHalves
  rw [hs, List.filter_map, List.foldl_map]
  rfl

/-! ### Elements in scratch -/

theorem Shape.addr_nibble (h : Shape) (i : Ix) : (h.addr i).2 < 2 := Nat.mod_lt _ (Nat.zero_lt_two)

/-- An element of scratch whose halves are those of a value reads as it, and as poisoned where its first word is. -/
theorem elem_of_halves (s : State) (g quad : Nat) (h : Shape) (i : Ix) (v : Nat) (hs : h.space = 0)
    (hw : h.width = 4 ∨ h.width = 8 ∨ h.width = 16) (hv : v < 2 ^ h.width)
    (hh : ∀ k < h.cells, laneOf (FMap.get 0 (s.grp g).scr ((h.cell i + k) / 2)).toNat 4 ((h.cell i + k) % 2) = laneOf v 4 k) :
    ∃ p, s.elem g quad h i = .ok (v, p) ∧ (NSet.has (s.grp g).scrP ((h.addr i).1 / 4) = true → p = true) := by
  have hb := h.addr_nibble i
  unfold Shape.cells Shape.cell Shape.nbytes at hh
  unfold State.elem Shape.nbytes
  rw [hs]
  generalize h.addr i = a at hb hh ⊢
  obtain ⟨a, b⟩ := a
  dsimp only at hb hh ⊢
  rcases hw with hw | hw | hw
  · rw [hw] at hh hv ⊢
    have h0 := hh 0 Nat.zero_lt_one
    rw [if_pos rfl, Nat.add_zero, show (2 * a + b) / 2 = a by omega, show (2 * a + b) % 2 = b by omega] at h0
    refine ⟨NSet.has (s.grp g).scrP (a / 4) || false, congrArg Except.ok (Prod.ext ?_ rfl), fun hp => by rw [hp]; rfl⟩
    show laneOf ((FMap.get 0 (s.grp g).scr a).toNat + 256 * 0) 4 b = v
    rw [Nat.mul_zero, Nat.add_zero, h0, laneOf_four]
    omega
  · rw [hw] at hh hv ⊢
    have h0 := hh 0 (by decide)
    have h1 := hh 1 (by decide)
    rw [if_neg (by decide), show (2 * a + 0 + 0) / 2 = a by omega, show (2 * a + 0 + 0) % 2 = 0 by omega] at h0
    rw [if_neg (by decide), show (2 * a + 0 + 1) / 2 = a by omega, show (2 * a + 0 + 1) % 2 = 1 by omega] at h1
    refine ⟨NSet.has (s.grp g).scrP (a / 4) || false, congrArg Except.ok (Prod.ext ?_ rfl), fun hp => by rw [hp]; rfl⟩
    show (FMap.get 0 (s.grp g).scr a).toNat + 256 * 0 = v
    rw [byte_halves, h0, h1, laneOf_four, laneOf_four]
    omega
  · rw [hw] at hh hv ⊢
    have h0 := hh 0 (by decide)
    have h1 := hh 1 (by decide)
    have h2 := hh 2 (by decide)
    have h3 := hh 3 (by decide)
    rw [if_neg (by decide), show (2 * a + 0 + 0) / 2 = a by omega, show (2 * a + 0 + 0) % 2 = 0 by omega] at h0
    rw [if_neg (by decide), show (2 * a + 0 + 1) / 2 = a by omega, show (2 * a + 0 + 1) % 2 = 1 by omega] at h1
    rw [if_neg (by decide), show (2 * a + 0 + 2) / 2 = a + 1 by omega, show (2 * a + 0 + 2) % 2 = 0 by omega] at h2
    rw [if_neg (by decide), show (2 * a + 0 + 3) / 2 = a + 1 by omega, show (2 * a + 0 + 3) % 2 = 1 by omega] at h3
    refine ⟨NSet.has (s.grp g).scrP (a / 4) || (NSet.has (s.grp g).scrP ((a + 1) / 4) || false),
      congrArg Except.ok (Prod.ext ?_ rfl), fun hp => by rw [hp]; rfl⟩
    show (FMap.get 0 (s.grp g).scr a).toNat + 256 * ((FMap.get 0 (s.grp g).scr (a + 1)).toNat + 256 * 0) = v
    rw [byte_halves, h0, h1, byte_halves (FMap.get 0 (s.grp g).scr (a + 1)), h2, h3]
    simp only [laneOf_four]
    omega

/-! ### Conversions of a tile's elements -/

section
variable (t : Tile) (dst : Shape) (rb cb code rnd : Nat) (sat : Bool)

/-- What an element of the tile becomes at a position of the box. -/
def Tile.cvtAt (j : Ix) : Nat × Exc := t.drained code rnd sat (16 * rb + j.s1) (16 * cb + j.s0)

/-- The elements written for a position of the box: one where it lies within the dims. -/
def Tile.cvtOne (j : Ix) : List (Ix × Nat × Bool) :=
  match dst.at' j with
  | some i => [(i, (t.cvtAt rb cb code rnd sat j).1, (t.at' (16 * rb + j.s1) (16 * cb + j.s0)).p)]
  | none => []

theorem Tile.mem_cvtOne (j : Ix) (x : Ix × Nat × Bool) : x ∈ t.cvtOne dst rb cb code rnd sat j ↔
    ∃ i, dst.at' j = some i ∧ x = (i, (t.cvtAt rb cb code rnd sat j).1, (t.at' (16 * rb + j.s1) (16 * cb + j.s0)).p) := by
  unfold Tile.cvtOne
  cases dst.at' j with
  | none => simp
  | some i => simp

end

theorem Tile.cvtVals_spec (t : Tile) (dst : Shape) (rb cb fw : Nat) (js : List Ix) :
    ∃ z, t.cvtVals dst rb cb fw js = (js.flatMap (t.cvtOne dst rb cb (fw / 2 ^ 12 % 16) (fw / 2 ^ 16 % 4) (fwSat fw)), z)
      ∧ t.Flagged z (fun e => ∃ j ∈ js, e = (t.cvtAt rb cb (fw / 2 ^ 12 % 16) (fw / 2 ^ 16 % 4) (fwSat fw) j).2) := by
  obtain ⟨z, h1, h2⟩ := foldl_drain (fw / 2 ^ 12 % 16) (fw / 2 ^ 16 % 4) (fwSat fw) (fun j : Ix => (16 * rb + j.s1, 16 * cb + j.s0))
    (fun j b p => match dst.at' j with
      | some i => [(i, b, p)]
      | none => []) js t
  refine ⟨z, Eq.trans ?_ h1, h2⟩
  unfold Tile.cvtVals
  congr 1
  funext r j
  refine Prod.ext ?_ rfl
  dsimp only
  cases dst.at' j with
  | none => exact (List.append_nil _).symm
  | some i => rfl

end Sys2Proof.Machine
end

section
/-! ## An mcvt's step on the state (R261) -/
namespace Sys2Proof.Machine

/-- What reads from a list of entries is one of them. -/
theorem FMap.mem_of_get_ofList {α : Type} [DecidableEq α] (d : α) (l : List (Nat × α)) (hd : ∀ e ∈ l, e.2 ≠ d) (k : Nat)
    (h : FMap.get d (FMap.ofList d l) k ≠ d) : (k, FMap.get d (FMap.ofList d l) k) ∈ l := by
  induction l using List.reverseRecOn with
  | nil => exact absurd rfl h
  | append_singleton l e ih =>
    have hs : FMap.ofList d (l ++ [e]) = FMap.set d (FMap.ofList d l) e.1 e.2 := List.foldl_concat ..
    have he := hd e (by simp)
    rw [hs] at h ⊢
    by_cases hk : k = e.1
    · rw [hk, FMap.get_set_self d _ _ _ he]
      exact List.mem_append_right _ (List.mem_singleton_self _)
    · rw [FMap.get_set_ne d _ _ _ _ he hk] at h ⊢
      exact List.mem_append_left _ (ih (fun x hx => hd x (by simp [hx])) h)

theorem get_nibbles_lt (h : Shape) (vals : List (Ix × Nat × Bool)) (n : Nat) (x : Nat × Bool)
    (hx : FMap.get none (nibbles h vals) n = some x) : x.1 < 16 := by
  rw [nibbles_eq] at hx
  have hm := FMap.mem_of_get_ofList none _ (h.halves_ne vals) n (by rw [hx]; exact Option.some_ne_none _)
  rw [hx] at hm
  obtain ⟨y, -, hy⟩ := List.mem_flatMap.mp hm
  obtain ⟨k, -, he⟩ := List.mem_map.mp hy
  rw [← Option.some.inj (Prod.mk.inj he).2]
  exact Nat.mod_lt _ (by decide)

theorem mem_addrs (m : FMap (Option (Nat × Bool))) (a : Nat) :
    a ∈ (m.map (fun x => x.1 / 2)).eraseDups ↔ ∃ n ∈ m.map Prod.fst, n / 2 = a := by
  rw [List.mem_eraseDups, List.mem_map]
  simp only [List.mem_map, exists_exists_and_eq_and]

/-- An element's halves lie in its bytes. -/
theorem Shape.cells_within (h : Shape) (i : Ix) :
    2 * (h.addr i).1 ≤ h.cell i ∧ h.cell i + h.cells ≤ 2 * ((h.addr i).1 + h.nbytes) := by
  have := h.addr_nibble i
  have hn : 1 ≤ h.nbytes := Nat.le_max_left _ _
  unfold Shape.cell Shape.cells
  split <;> omega

section
variable (h : Shape) (all part : List (Ix × Nat × Bool))

/-- The addresses of the bytes that a part of the elements takes. -/
def partAddrs : List Nat :=
  (((nibbles h all).map (fun x => x.1 / 2)).eraseDups).filter
    (fun a => (((nibbles h part).map (fun x => x.1 / 2)).eraseDups).contains a)

theorem mem_partAddrs (hp : ∀ x ∈ part, x ∈ all) (a : Nat) : a ∈ partAddrs h all part ↔
    ∃ x ∈ part, ∃ n, h.cell x.1 ≤ n ∧ n < h.cell x.1 + h.cells ∧ n / 2 = a := by
  rw [partAddrs, List.mem_filter, List.contains_iff_mem, mem_addrs, mem_addrs]
  simp only [mem_keys_nibbles]
  constructor
  · rintro ⟨-, n, ⟨x, hx, h1, h2⟩, h3⟩
    exact ⟨x, hx, n, h1, h2, h3⟩
  · rintro ⟨x, hx, n, h1, h2, h3⟩
    exact ⟨⟨n, ⟨x, hp x hx, h1, h2⟩, h3⟩, n, ⟨x, hx, h1, h2⟩, h3⟩

variable (g : Group) (hg : FMap.wf 0 g.scr = true) (hp : ∀ x ∈ part, x ∈ all)
include hg hp

/-- An element of the part, apart from all others: its halves in scratch, and the poison of its first word. -/
theorem putHalves_element (x : Ix × Nat × Bool) (hx : x ∈ part) (hc : 0 < h.cells)
    (hu : ∀ y ∈ all, y = x ∨ h.cell x.1 + h.cells ≤ h.cell y.1 ∨ h.cell y.1 + h.cells ≤ h.cell x.1) :
    (∀ k < h.cells, laneOf (FMap.get 0 (g.putHalves (nibbles h all) (partAddrs h all part)).scr ((h.cell x.1 + k) / 2)).toNat 4
        ((h.cell x.1 + k) % 2) = laneOf x.2.1 4 k)
    ∧ (x.2.2 = true → NSet.has (g.putHalves (nibbles h all) (partAddrs h all part)).scrP (h.cell x.1 / 2 / 4) = true) := by
  obtain ⟨-, h3⟩ := g.putHalves_spec (nibbles h all) (partAddrs h all part) hg
  have hget := get_nibbles h all x (hp x hx) hu
  have hin : ∀ k < h.cells, (h.cell x.1 + k) / 2 ∈ partAddrs h all part := fun k hk =>
    (mem_partAddrs h all part hp _).mpr ⟨x, hx, h.cell x.1 + k, by omega, by omega, rfl⟩
  refine ⟨fun k hk => ?_, fun hpx => ?_⟩
  · have hk' := hget k hk
    rw [← Nat.div_add_mod (h.cell x.1 + k) 2] at hk'
    have hlt : (h.cell x.1 + k) % 2 < 2 := Nat.mod_lt _ (by decide)
    rw [h3, if_pos (hin k hk), maskByte_half _ _ _ _ (byteMask_half _ _ _ hlt (by rw [hk']; rfl))]
    exact byteVal_half _ _ (get_nibbles_lt h all) _ hlt _ _ hk'
  · have h0 := hget 0 hc
    rw [hpx, Nat.add_zero] at h0
    refine g.putHalves_psn _ _ _ (fun a _ ha => unitPsn_set _ a _ _ h0 ha.symm) (.inr ⟨_, hin 0 hc, ?_⟩)
    rw [Nat.add_zero]

/-- A byte that no element of the part takes is as before. -/
theorem putHalves_frame (a : Nat) (ha : ∀ x ∈ part, a < (h.addr x.1).1 ∨ (h.addr x.1).1 + h.nbytes ≤ a) :
    FMap.get 0 (g.putHalves (nibbles h all) (partAddrs h all part)).scr a = FMap.get 0 g.scr a := by
  obtain ⟨-, h3⟩ := g.putHalves_spec (nibbles h all) (partAddrs h all part) hg
  refine (h3 a).trans (if_neg (fun hm => ?_))
  obtain ⟨x, hx, n, h1, h2, h4⟩ := (mem_partAddrs h all part hp a).mp hm
  have hb := h.cells_within x.1
  have ha := ha x hx
  omega

end

/-! ### Widths of elements -/

theorem codeWidth_small {c : Nat} (h : c ≤ 6) : codeWidth c = 4 ∨ codeWidth c = 8 ∨ codeWidth c = 16 := by
  interval_cases c <;> decide

/-- A converted element has the width of its code. -/
theorem drainOf_lt (v : FV) (code rnd : Nat) (sat : Bool) : (drainOf v code rnd sat).1 < 2 ^ codeWidth code := by
  unfold drainOf codeWidth
  cases hd : dstOf code with
  | flt f => exact convF_lt (dstOf_flt hd) _ _ _ _
  | int w sg => exact modW_lt _ _

theorem Shape.cells_pos (h : Shape) : 0 < h.cells := by
  unfold Shape.cells Shape.nbytes
  split <;> omega

/-- The byte of an element's first half is its address. -/
theorem Shape.cell_half (h : Shape) (i : Ix) : h.cell i / 2 = (h.addr i).1 := by
  have := h.addr_nibble i
  unfold Shape.cell
  split <;> omega

/-! ### The step -/

/-- The positions of a block of the box. -/
def Shape.blockIx (h : Shape) (k : Nat) : List Ix :=
  h.boxIx.filter (fun j => j.s1 / 16 == k / blocks16 (h.box 0) && j.s0 / 16 == k % blocks16 (h.box 0))

theorem Shape.mem_blockIx (h : Shape) (k : Nat) (j : Ix) : j ∈ h.blockIx k ↔
    j ∈ h.boxIx ∧ j.s1 / 16 = k / ((h.box 0 + 15) / 16) ∧ j.s0 / 16 = k % ((h.box 0 + 15) / 16) := by
  have hb : blocks16 (h.box 0) = (h.box 0 + 15) / 16 := rfl
  rw [Shape.blockIx, List.mem_filter, Bool.and_eq_true, beq_iff_eq, beq_iff_eq, hb]

/-- The exceptions of a block, by position. -/
theorem flags_of_block (js : List Ix) (mine : Ix → Prop) (hj : ∀ j, j ∈ js ↔ mine j) (f : Ix → Nat × Exc) (P : Exc → Prop) :
    (∃ e, (∃ j ∈ js, e = (f j).2) ∧ P e) ↔ ∃ j, mine j ∧ P (f j).2 := by
  constructor
  · rintro ⟨_, ⟨j, hm, rfl⟩, hp⟩
    exact ⟨j, (hj j).mp hm, hp⟩
  · rintro ⟨j, hm, hp⟩
    exact ⟨_, ⟨j, (hj j).mpr hm, rfl⟩, hp⟩

/-- One step of an mcvt on its tile and on scratch. -/
theorem chaser_cvt (s : State) (d c q g w : Nat) (o : MOp) (dst : Shape) (src rb cb : Nat) (fmt : Word)
    (hc : s.chaserPick d c q = some (g, w, o)) (ho : o.cmd = .cvt dst src rb cb fmt)
    (ht : FMap.wf Tile.zero (s.wrp g w).tiles = true) (hs : dst.space = 0) :
    let one := ((s.wrp g w).tile src).cvtOne dst rb cb (fmt.toNat / 2 ^ 12 % 16) (fmt.toNat / 2 ^ 16 % 4) (fwSat fmt.toNat)
    let all := dst.boxIx.flatMap one
    let part := (dst.blockIx o.step).flatMap one
    ∃ (t : State) (x : Group), exec (.chaserStep d c q) s = .next t ∧ x.scr = (s.grp g).scr
      ∧ (t.grp g).scr = (x.putHalves (nibbles dst all) (partAddrs dst all part)).scr
      ∧ (t.grp g).scrP = (x.putHalves (nibbles dst all) (partAddrs dst all part)).scrP
      ∧ ((s.wrp g w).tile src).Flagged ((t.wrp g w).tile src) (fun e => ∃ j ∈ dst.blockIx o.step,
        e = (((s.wrp g w).tile src).cvtAt rb cb (fmt.toNat / 2 ^ 12 % 16) (fmt.toNat / 2 ^ 16 % 4) (fwSat fmt.toNat) j).2) := by
  intro one all part
  obtain ⟨hg, hw⟩ := s.chaserPick_exists d c q g w o hc
  obtain ⟨t, hx, hst⟩ := s.chaserStep_step d c q g w o hc
  obtain ⟨z, hz, hflag⟩ := ((s.wrp g w).tile src).cvtVals_spec dst rb cb fmt.toNat (dst.blockIx o.step)
  obtain ⟨z', hz', -⟩ := ((s.wrp g w).tile src).cvtVals_spec dst rb cb fmt.toNat dst.boxIx
  let r := s.modW g w (fun y => y.setTile src z)
  have hm : s.mopStep g w o = r.modG g (fun x => x.putHalves (nibbles dst all) (partAddrs dst all part)) := by
    have h1 : s.mopStep g w o = (s.modW g w (fun y => y.setTile src
        (((s.wrp g w).tile src).cvtVals dst rb cb fmt.toNat (dst.blockIx o.step)).2)).modG g (fun x =>
          ((byteWrites dst (((s.wrp g w).tile src).cvtVals dst rb cb fmt.toNat dst.boxIx).1).filter (fun b =>
            (((nibbles dst (((s.wrp g w).tile src).cvtVals dst rb cb fmt.toNat (dst.blockIx o.step)).1).map
              (fun x => x.1 / 2)).eraseDups).contains b.addr)).foldl (fun x b =>
            match b with
            | .byte _ a v m p => x.putScr a v m p
            | .red .. => x) x) := by
      unfold State.mopStep
      rw [ho]
      rfl
    rw [h1, hz, hz']
    exact congrArg (r.modG g) (funext fun x => foldl_byteWrites dst hs all _ x)
  have hgl : g < r.groups.length := by
    rw [show r.groups.length = s.groups.length from modAt_length _ _ _]
    exact hg
  have hgrp : (s.mopStep g w o).grp g = (r.grp g).putHalves (nibbles dst all) (partAddrs dst all part) := by
    rw [hm, State.grp_modG_same _ _ _ hgl]
  have hscr : (r.grp g).scr = (s.grp g).scr := by
    rw [show r = s.modG g (fun x => x.modW w (fun y => y.setTile src z)) from rfl, State.grp_modG_same _ _ _ hg]
    rfl
  have htile : (t.wrp g w).tile src = z := by
    refine (hst.tile w src).trans ?_
    rw [hgrp, Group.wrp, (Group.putHalves_warps _ _ _)]
    have : r.wrp g w = (s.wrp g w).setTile src z := s.wrp_modW_same g w _ hg hw
    exact (congrArg (fun y => y.tile src) this).trans (Warp.tile_setTile_same _ _ _ ht)
  obtain ⟨e1, e2, -⟩ := hst
  refine ⟨t, r.grp g, hx, hscr, e1.trans (congrArg Group.scr hgrp), e2.trans (congrArg Group.scrP hgrp), ?_⟩
  rw [htile]
  exact hflag

end Sys2Proof.Machine
end

section
/-! ## The steps of the matrix units (O34) -/
namespace Sys2Proof.Machine

/-- Settles O34: a step of an mtile is one block of exact contributions, of rows from scratch or of a drained tile; a step of an
mcvt writes the half bytes of its block; and the images that an mexp's steps write are those that an mld's steps read. -/
theorem matrixStepsAreExact : Obligations.MatrixStepsAreExact := by
  unfold Obligations.MatrixStepsAreExact
  refine ⟨?_, ?_, ?_⟩
  · intro s d c q g w o dst asrc src rows tb sa sb fmt ta tb' hc ho old fw ca cb bitsOfCode wide ch M N per kk row col up opnd hM hN ht hsane hne
    have hca : ca = fwA fw asrc := (fwA_eq fw asrc).symm
    have hch : ch = chunkOf fw asrc := by
      have hw : wide = max (mWidth (fwA fw asrc)) (mWidth (fwB fw)) := by
        rw [mWidth_eq, mWidth_eq, ← hca]
        rfl
      unfold chunkOf
      rw [← hw]
    have hbc : o.step % per % (N / 16) < 4 := side_blocks hN _
    have hopB : ∀ (j m : Nat), Factors (opnd sb cb (fw / 2 ^ 10 % 4) (fp32.decode tb'.v.toNat) tb (kk m) (col j))
        (s.operand g old.quad sb (fwB fw) (fwBs fw) (fp32.decode tb'.v.toNat) tb (o.step / per * ch + m) (col j)) :=
      fun j m => s.operand_factors g old.quad sb _ _ _ _ _ _
    cases asrc with
    | false =>
      have hopA : ∀ (i m : Nat), Factors (opnd sa ca (fw / 2 ^ 8 % 4) (fp32.decode ta.v.toNat) true (kk m) (row i))
          (s.operand g old.quad sa (fwA fw false) (fwAs fw) (fp32.decode ta.v.toNat) true (o.step / per * ch + m) (row i)) :=
        fun i m => hca ▸ s.operand_factors g old.quad sa _ _ _ _ _ _
      obtain ⟨cs, hcs, hstep⟩ : ∃ cs, cs = _ ∧ s.tileStep g w o.cmd o.step = (cs, none) :=
        ⟨_, rfl, ho ▸ s.tileStep_scratch g w dst src rows tb sa sb fmt ta tb' o.step M N _ _ (chunkKs ch (o.step / per)) rfl rfl rfl rfl (by rw [hch])⟩
      have hn : (cs.map Prod.fst).Nodup := by rw [hcs]; exact blockCs_nodup _ _ hbc _ _ _
      obtain ⟨t, hx, htd, -⟩ := chaser_tile s d c q g w o dst false src rows tb sa sb fmt ta tb' hc ho ht hne cs Tile.zero hstep
      refine ⟨t, conOf cs, fun _ _ => 0, fun _ _ => Exc.none, hx, ?_, ?_, (fun h => nomatch h), (fun h => nomatch h), fun i hi j hj => ?_⟩
      · rw [htd]
        exact Tile.step_stepped _ _ _ hsane hn (conOf_iff cs hn)
      · rw [hcs]
        exact (conOf_block _ _ hbc _ _ _).1
      · rw [hcs]
        obtain ⟨v, p, h1, h2, h3⟩ := conOf_factors (o.step % per / (N / 16)) (o.step % per % (N / 16)) hbc ch (o.step / per)
          _ _ (fun i k => s.operand g old.quad sa (fwA fw false) (fwAs fw) (fp32.decode ta.v.toNat) true k (row i))
          (fun j k => s.operand g old.quad sb (fwB fw) (fwBs fw) (fp32.decode tb'.v.toNat) tb k (col j)) (fun _ => rfl) (fun _ => rfl)
          ta.p tb'.p _ _ hopA hopB i j hi hj
        exact ⟨v, p, h1, h2, h3⟩
    | true =>
      let rnd := fw / 2 ^ 16 % 4
      let T := old.tile src
      let dr := fun (i m : Nat) => T.drained ca rnd (fmt.getLsbD 18) (row i) (kk m)
      have hopA : ∀ (i m : Nat), Factors (some ([elemVal ca (dr i m).1, fp32.decode ta.v.toNat], (T.at' (row i) (kk m)).p))
          (T.operand ca rnd (fmt.getLsbD 18) (fp32.decode ta.v.toNat) (row i) (o.step / per * ch + m)) :=
        fun i m => T.operand_factors ca rnd (fmt.getLsbD 18) _ (row i) (kk m)
      obtain ⟨z, hstep, hz⟩ := s.tileStep_tile g w dst src rows tb sa sb fmt ta tb' o.step M N _ _ (chunkKs ch (o.step / per)) rfl rfl rfl rfl (by rw [hch])
      obtain ⟨cs, hcs, hstep⟩ : ∃ cs, cs = _ ∧ s.tileStep g w o.cmd o.step = (cs, some (src, z)) := ⟨_, rfl, ho ▸ hstep⟩
      rw [fwSat_eq, ← hca] at hz hcs
      have hn : (cs.map Prod.fst).Nodup := by rw [hcs]; exact blockCs_nodup _ _ hbc _ _ _
      obtain ⟨t, hx, htd, hts⟩ := chaser_tile s d c q g w o dst true src rows tb sa sb fmt ta tb' hc ho ht hne cs z hstep
      refine ⟨t, conOf cs, fun i m => (dr i m).1, fun i m => (dr i m).2, hx, ?_, ?_, fun _ i hi m hm => ?_, fun _ => ?_, fun i hi j hj => ?_⟩
      · rw [htd]
        exact Tile.step_stepped _ _ _ hsane hn (conOf_iff cs hn)
      · rw [hcs]
        exact (conOf_block _ _ hbc _ _ _).1
      · obtain ⟨h1, h2⟩ := drainOf_spec ((T.at' (row i) (kk m)).value T.x) ca rnd (fmt.getLsbD 18)
        intro v
        cases hd : dstOf ca with
        | flt f => exact h1 f hd
        | int wd sg => exact h2 wd sg hd
      · intro z'
        have hz' : z' = z := hts rfl
        rw [hz']
        refine ⟨hz.e, hz.x, hz.i.trans (or_congr_right ?_), hz.o.trans (or_congr_right ?_)⟩
        · exact flags_of_rows ch (o.step / per) (fun e => e.inv = true) dr (fun i k => (T.drained ca rnd (fmt.getLsbD 18) (row i) k).2) (fun _ _ => rfl)
        · exact flags_of_rows ch (o.step / per) (fun e => e.ovf = true) dr (fun i k => (T.drained ca rnd (fmt.getLsbD 18) (row i) k).2) (fun _ _ => rfl)
      · rw [hcs]
        obtain ⟨v, p, h1, h2, h3⟩ := conOf_factors (o.step % per / (N / 16)) (o.step % per % (N / 16)) hbc ch (o.step / per)
          _ _ (fun i k => T.operand ca rnd (fmt.getLsbD 18) (fp32.decode ta.v.toNat) (row i) k)
          (fun j k => s.operand g old.quad sb (fwB fw) (fwBs fw) (fp32.decode tb'.v.toNat) tb k (col j)) (fun _ => rfl) (fun _ => rfl)
          ta.p tb'.p _ _ hopA hopB i j hi hj
        exact ⟨v, p, h1, h2, h3⟩
  · intro s d c q g w o dst src rb cb fmt hc ho hf T fw code across mine el cell size ht hs hcode hw hapart
    obtain ⟨t, x, hx, hxs, hscr, hscrP, hflag⟩ := chaser_cvt s d c q g w o dst src rb cb fmt hc ho ht hs
    rw [fwSat_eq] at hscr hscrP hflag
    let rnd := fw / 2 ^ 16 % 4
    let cvt := fun (j : Ix) => T.cvtAt rb cb code rnd (fmt.getLsbD 18) j
    let one := T.cvtOne dst rb cb code rnd (fmt.getLsbD 18)
    have hmine : ∀ j, j ∈ dst.blockIx o.step ↔ mine j := fun j => dst.mem_blockIx o.step j
    have hin : ∀ y ∈ (dst.blockIx o.step).flatMap one, y ∈ dst.boxIx.flatMap one := fun y hy => by
      obtain ⟨j, hj, hy⟩ := List.mem_flatMap.mp hy
      exact List.mem_flatMap.mpr ⟨j, ((hmine j).mp hj).1, hy⟩
    have hxwf : FMap.wf 0 x.scr = true := by
      rw [hxs]
      exact (Group.filesWf_spec _ hf).1
    refine ⟨t, fun j => (cvt j).1, fun j => (cvt j).2, hx, fun j => ?_, fun j i hj hi => ?_, fun a ha => ?_, hflag.e, hflag.x, ?_, ?_⟩
    · obtain ⟨h1, h2⟩ := drainOf_spec ((el j).value T.x) code rnd (fmt.getLsbD 18)
      cases hd : dstOf code with
      | flt f => exact h1 f hd
      | int wd sg => exact h2 wd sg hd
    · have hxm : (i, (cvt j).1, (el j).p) ∈ (dst.blockIx o.step).flatMap one :=
        List.mem_flatMap.mpr ⟨j, (hmine j).mpr hj, (T.mem_cvtOne dst rb cb code rnd _ j _).mpr ⟨i, hi, rfl⟩⟩
      have hu : ∀ y ∈ dst.boxIx.flatMap one, y = (i, (cvt j).1, (el j).p) ∨ dst.cell i + dst.cells ≤ dst.cell y.1
          ∨ dst.cell y.1 + dst.cells ≤ dst.cell i := fun y hy => by
        obtain ⟨j', hj', hy⟩ := List.mem_flatMap.mp hy
        obtain ⟨i', hi', rfl⟩ := (T.mem_cvtOne dst rb cb code rnd _ j' _).mp hy
        by_cases hjj : j = j'
        · subst hjj
          rw [hi] at hi'
          cases hi'
          exact .inl rfl
        · exact .inr (hapart j hj.1 j' hj' i i' hi hi' hjj)
      obtain ⟨h1, h2⟩ := putHalves_element dst _ _ x hxwf hin _ hxm dst.cells_pos hu
      rw [← hscr] at h1
      rw [← hscrP, dst.cell_half] at h2
      obtain ⟨p, hp, hpp⟩ := elem_of_halves t g (s.wrp g w).quad dst i (cvt j).1 hs (by rw [hw]; exact codeWidth_small hcode)
        (by rw [hw]; exact drainOf_lt _ _ _ _) h1
      exact ⟨p, hp, fun hep => hpp (h2 hep)⟩
    · rw [hscr, ← hxs]
      refine putHalves_frame dst _ _ x hxwf hin a (fun y hy => ?_)
      obtain ⟨j, hj, hy⟩ := List.mem_flatMap.mp hy
      obtain ⟨i, hi, rfl⟩ := (T.mem_cvtOne dst rb cb code rnd _ j _).mp hy
      exact ha j i ((hmine j).mp hj) hi
    · exact hflag.i.trans (or_congr_right (flags_of_block _ mine hmine cvt (fun e => e.inv = true)))
    · exact hflag.o.trans (or_congr_right (flags_of_block _ mine hmine cvt (fun e => e.ovf = true)))
  · intro inBlock
    refine ⟨?_, ?_, ?_⟩
    · intro s d c q g w o dst off p hc ho _ ht he T x v kind bad psn
      obtain ⟨t, hx, hz⟩ := chaser_ld s d c q g w o dst off p hc ho ht
      refine ⟨t, hx, ?_⟩
      obtain ⟨l2, l3, l4, l5⟩ := x.ldStep_spec T off o.step p he
      rw [← hz] at l2 l3 l4 l5
      have hb : ∀ n, (bad n → x.loaded off p n = (⟨.nan, 0, true⟩, true))
          ∧ (¬bad n → x.loaded off p n = (⟨ECls.ofCode (kind n), valOf 48 true (v n), psn n⟩, false)) := fun n => x.loaded_spec off p n
      have hbad : ∀ n, (x.loaded off p n).2 = true ↔ bad n := fun n => by
        by_cases h : bad n
        · rw [(hb n).1 h]
          exact iff_of_true rfl h
        · rw [(hb n).2 h]
          exact iff_of_false Bool.false_ne_true h
      refine ⟨l2, ?_, l4, fun n => ⟨fun hn h => ?_, fun hn h => ?_, fun hn => ?_⟩⟩
      · rw [l3]
        exact or_congr_right (exists_congr (fun n => and_congr (mem_blockIds _ n) (hbad n)))
      · exact (l5 n).trans ((if_pos ((mem_blockIds _ n).mpr hn)).trans (congrArg Prod.fst ((hb n).1 h)))
      · refine (l5 n).trans ((if_pos ((mem_blockIds _ n).mpr hn)).trans ((congrArg Prod.fst ((hb n).2 h)).trans ?_))
        refine congrArg (fun c => (⟨c, valOf 48 true (v n), psn n⟩ : Elem)) ?_
        generalize kind n = k
        rcases k with _ | _ | _ | k <;> rfl
      · exact (l5 n).trans (if_neg (fun h => hn ((mem_blockIds _ n).mp h)))
    · intro s d c q g w o src off p hc ho _ hf hoff T el
      obtain ⟨t, hx, hs⟩ := chaser_ex s d c q g w o src off p hc ho
      obtain ⟨e1, e2, e3⟩ := (s.grp g).exStep_spec T off o.step p ((Group.filesWf_spec _ hf).1) hoff
      refine ⟨t, hx, fun n hn => ?_, fun h0 => ?_, fun a ha h0 => ?_⟩
      · obtain ⟨f1, f2, f3⟩ := e1 n ((mem_blockIds _ n).mpr hn)
        refine ⟨?_, (hs.rdPsn _ _).trans f2, (hs.rdPsn _ _).trans f3⟩
        exact ((hs.rd _ _).trans f1).trans (Elem.image_eq _)
      · obtain ⟨f1, f2, f3⟩ := e2 h0
        exact ⟨(hs.rd _ _).trans f1, (hs.rd _ _).trans f2, (hs.rdPsn _ _).trans f3⟩
      · rw [hs.1]
        exact e3 a (fun n hn => ha n ((mem_blockIds _ n).mp hn)) h0
    · intro x t t' off hf hoff hs h' y z
      exact tile_restored x y t t' z off ((Group.filesWf_spec _ hf).1) hoff hs h' rfl rfl

end Sys2Proof.Machine
end
